-- ==== Sys2Proof/Word.lean ====
section
/-! DEFINITION. The word types of the Sahzan S8 and the one shape in which every sparse collection of the state is held. -/

namespace Sys2Proof

/-- One byte of memory or scratchpad (R2: multi-byte values are little-endian). -/
abbrev Byte := BitVec 8

/-- A 32-bit element: one lane of one vector register (R5). -/
abbrev W32 := BitVec 32

/-- A 64-bit word: an s register, an instruction word, an address (R5, R21, R14). -/
abbrev Word := BitVec 64

/-- A sparse map from numbers to values, in canonical form: keys strictly rising, and no entry equal to the value
an unlisted key reads as. Registers, memory bytes, caches and tables are held so; equal contents are equal data. -/
abbrev FMap (α : Type) := List (Nat × α)

/-- Eight 64-bit words: a 64-byte record such as an event (R381), words +0x00 to +0x38 in order. -/
structure Rec8 where
  w0 : Word := 0
  w1 : Word := 0
  w2 : Word := 0
  w3 : Word := 0
  w4 : Word := 0
  w5 : Word := 0
  w6 : Word := 0
  w7 : Word := 0
deriving DecidableEq, Repr

end Sys2Proof
end

