-- ==== Sys2Proof/Config.lean ====
section
/-! DEFINITION. What the part fixes (R1) and the values that the manual leaves open to each part: no definition here
has a body where the manual gives no value. -/

namespace Sys2Proof.Config

/-- Cores of a device (R1, R128). -/
def cores : Nat := 160
/-- Clusters of a device (R1). -/
def clusters : Nat := 40
/-- Cores of one die (R152: die d holds CID 40d to 40d+39). -/
def coresPerDie : Nat := 40
/-- Warp slots of one core (R141, R142). -/
def warpsPerCore : Nat := 64
/-- Register-pool rows of one core (R141). -/
def poolRows : Nat := 8192
/-- Scratchpad lines of one core (R141). -/
def spadLines : Nat := 32768
/-- Memory links of a device (R1, R192). -/
def links : Nat := 24
/-- Entries of a core's outstanding-transaction table (R206). -/
def transEntries : Nat := 1024
/-- Version tags of a device, shared by tries and versioned tasks (R218, R305). -/
def versionTags : Nat := 255
/-- Version ways that one set of L2 may hold (R219). -/
def versionWays : Nat := 6
/-- Slots of the event ring (R383). -/
def ringSlots : Nat := 4096
/-- Events that the Harp holds (R383). -/
def harpHeld : Nat := 65536
/-- Entries of the pending-interest table, and those of them kept for forwarded interests (R375). -/
def pitEntries : Nat := 65536
def pitForwarded : Nat := 4096
/-- Lines of the name router's tile store: 128 MiB of 128-byte lines (R375). -/
def tileLines : Nat := 1048576
/-- Records of a core's engine error log (R321), debug ring (R324) and of a link's scrub log (R320). -/
def engLogSize : Nat := 64
def dbgRingSize : Nat := 16
def scrubLogSize : Nat := 256
/-- The part revision that PKG.REV reports (R335: 0x01 on the first production revision). -/
def rev : BitVec 8 := 0x01

/-- FREE VALUE. The physical cluster of each die that is fused off: exactly 10 of 11 are active on a production part, and
which ones differs from part to part (R353). -/
opaque fusedOff : Nat → Fin 11

/-- The active clusters of a die: PKG.CLUS (R335, R353). -/
def clusMask (die : Nat) : BitVec 11 := ~~~(BitVec.ofNat 11 (2 ^ (fusedOff die).val))

/-- The physical cluster of global cluster `c` = 10d + j: the one of rank `j` among the active clusters of die `d` in
increasing physical order (R353). -/
def physCluster (c : Nat) : Nat := let j := c % 10; if j < (fusedOff (c / 10)).val then j else j + 1

/-- Lines of a set of a core's L1, and its sets (R180). -/
def l1Ways : Nat := 8
def l1Sets : Nat := 256
/-- Data ways and tags of a set of an L2 slice, and the ways of a set that a pin may lock (R185, R188). -/
def l2Ways : Nat := 12
def l2Tags : Nat := 24
def l2Locked : Nat := 6
/-- Entries of a link's TLB, and PTEs in a borrowed line (R196). -/
def tlbEntries : Nat := 4096
def victimPtes : Nat := 16

/-- FREE VALUE. Which of the lines that could leave a full set a cache replaces, as a function of the number of such choices
made: the manual gives no replacement order (R442). -/
opaque victim : Nat → Nat

/-- FREE VALUE. Word `i` of the pool rows that the checkpoint of a TRY takes, by a count of such choices: the manual gives the rows
and no layout (R218). -/
opaque ckptWord : (draw i : Nat) → BitVec 32

/-- FREE VALUE. Whether the fallback entries of a grant of another device keep R195: they lie in the borrower's memory, and the manual
has every Lyre come to one answer and does not say from what (R367). -/
opaque fallbackKept : (gseq borrower npages : Nat) → Bool

/-- FREE VALUE. The salt of the `n`-th key that a port's security processor loads into a slot: the manual gives its width alone
(R361). -/
opaque keySalt : (port n : Nat) → BitVec 32

/-- FREE VALUE. Byte `i` of what the context key's XTS-AES-256 makes of some bytes placed from an address on, and of what it
makes clear again (R331, R345): the manual names the cipher and no key, so no value of it follows from the manual. -/
opaque cipherByte : (ctx addr i : Nat) → List Byte → Byte
opaque clearByte : (ctx addr i : Nat) → List Byte → Byte

/-- FREE VALUE. The cause that the engine error log holds for an ANNOUNCE that completes because the name router is not
ready (R432): the manual gives the error and no cause. -/
opaque noZithCause : Nat

/-- FREE VALUE. The cause under which an access to a line of an ENC page fails while its context has no memory key (R435): the
manual calls the line inaccessible and gives no cause. -/
opaque noKeyCause : BitVec 8

/-- FREE VALUE. The context under whose ranges the sampler's ring lies (R326): the manual calls it the management context and
gives no number. -/
opaque mgmtCtx : Nat

/-- FREE VALUE. What a counter of R327 reads at a clock, for those counters whose events depend on the order in which caches
replace lines, on what the fabric carries and on how the manual counts them: hits, misses, DDR sectors, flits, deliveries. -/
opaque counter : (number clk : Nat) → Word

end Sys2Proof.Config
end

