-- ==== Sys2Proof/Machine/Bits.lean ====
section
/-! DEFINITION. Bit fields, byte order, lane sets and the small list helpers that the meanings share. -/

namespace Sys2Proof

/-- Bits [hi:lo] of a number. -/
def bits (w hi lo : Nat) : Nat := (w >>> lo) % 2 ^ (hi + 1 - lo)

/-- Bit i of a number. -/
def bit (w i : Nat) : Bool := (w >>> i) % 2 == 1

/-- The two's-complement integer that the low `n` bits of a number denote. -/
def sext (n w : Nat) : Int :=
  let x := w % 2 ^ n
  if x < 2 ^ (n - 1) then (x : Int) else (x : Int) - (2 ^ n : Nat)

/-- An integer modulo 2^n, as the number its n bits denote. -/
def wrapN (n : Nat) (x : Int) : Nat := (x % ((2 ^ n : Nat) : Int)).toNat

def Bool.n (b : Bool) : Nat := if b then 1 else 0

/-- The n little-endian bytes of a number (R2, R14). -/
def toBytes (n w : Nat) : List Byte := (List.range n).map fun i => BitVec.ofNat 8 (w >>> (8 * i))

/-- The number that little-endian bytes denote (R2, R14). -/
def ofBytes : List Byte → Nat
  | [] => 0
  | b :: bs => b.toNat + 256 * ofBytes bs

/-- The number that little-endian words of `n` bits denote. -/
def ofWords (n : Nat) : List Nat → Nat
  | [] => 0
  | w :: ws => w % 2 ^ n + 2 ^ n * ofWords n ws

/-- Rounded up to a multiple of `m`. -/
def alignUp (x m : Nat) : Nat := (x + m - 1) / m * m

def ceilDiv (x m : Nat) : Nat := (x + m - 1) / m

/-- The lanes of a mask in rising order (R4). -/
def lanesOf (m : W32) : List Nat := (List.range 32).filter fun l => m.getLsbD l

/-- The mask of a list of lanes. -/
def maskOf : List Nat → W32
  | [] => 0
  | l :: ls => maskOf ls ||| (1 <<< l)

/-- The lanes below `n`. -/
def lanesBelow (n : Nat) : W32 := if n ≥ 32 then 0xFFFFFFFF else BitVec.ofNat 32 (2 ^ n - 1)

/-- The lowest lane of a mask, 32 if it is empty. -/
def lowestLane (m : W32) : Nat := (lanesOf m).headD 32

def popCount (m : W32) : Nat := (lanesOf m).length

/-- A list of lanes whose condition holds. -/
def maskWhere (f : Nat → Bool) : W32 := maskOf ((List.range 32).filter f)

/-- Element `i` of a list, or the default. -/
def nth (d : α) : List α → Nat → α
  | [], _ => d
  | x :: _, 0 => x
  | _ :: xs, i + 1 => nth d xs i

/-- The list with element `i` replaced. -/
def setNth : List α → Nat → α → List α
  | [], _, _ => []
  | _ :: xs, 0, v => v :: xs
  | x :: xs, i + 1, v => x :: setNth xs i v

def sumOf (f : α → Nat) : List α → Nat
  | [] => 0
  | x :: xs => f x + sumOf f xs

def maxOf (f : α → Nat) : List α → Nat
  | [] => 0
  | x :: xs => Nat.max (f x) (maxOf f xs)

/-- The list without repeats, first occurrences kept. -/
def dedup [DecidableEq α] : List α → List α
  | [] => []
  | x :: xs => x :: (dedup xs).filter fun y => decide (y ≠ x)

/-- Insertion of an element into a list sorted by a numeric key, before equal keys. -/
def insertBy (f : α → Nat) (x : α) : List α → List α
  | [] => [x]
  | y :: ys => if f x ≤ f y then x :: y :: ys else y :: insertBy f x ys

/-- A list sorted by a numeric key, stably. -/
def sortBy (f : α → Nat) : List α → List α
  | [] => []
  | x :: xs => insertBy f x ((sortBy f xs))

end Sys2Proof
end

