-- ==== Sys2Proof/Machine/Num.lean ====
section
/-! DEFINITION. Number formats (R48 to R51), exact values, `Round` (R54 to R56) and the exact operations that the
floating instructions round once. Flags stand as in FLG (R58): NV 16, DZ 8, OF 4, UF 2, NX 1. -/

namespace Sys2Proof

def fNV : BitVec 8 := 16
def fDZ : BitVec 8 := 8
def fOF : BitVec 8 := 4
def fUF : BitVec 8 := 2
def fNX : BitVec 8 := 1

/-- A floating layout of R48. `top` is the exponent field that is reserved for infinities and NaNs; where a format has
neither, every exponent field is finite. -/
structure Fmt where
  eb   : Nat      -- exponent bits
  mb   : Nat      -- mantissa bits
  bias : Nat
  inf  : Bool
  nan  : Bool
  maxM : Nat      -- mantissa with its leading 1 of the largest finite value
  maxE : Nat      -- exponent field of the largest finite value
  qnan : Nat      -- canonical NaN (R52)

def Fmt.ieee (eb mb : Nat) : Fmt :=
  { eb := eb, mb := mb, bias := 2 ^ (eb - 1) - 1, inf := true, nan := true, maxM := 2 ^ (mb + 1) - 1,
    maxE := 2 ^ eb - 2, qnan := (2 ^ eb - 1) <<< mb ||| 1 <<< (mb - 1) }

def Fmt.plain (eb mb bias : Nat) : Fmt :=
  { eb := eb, mb := mb, bias := bias, inf := false, nan := false, maxM := 2 ^ (mb + 1) - 1, maxE := 2 ^ eb - 1, qnan := 0 }

/-- The layouts of codes 0 to 9 (R48). -/
def fmtOf : Nat → Fmt
  | 0 => .ieee 11 52
  | 1 => .ieee 8 23
  | 2 => .ieee 8 7
  | 3 => .ieee 5 10
  | 4 => { eb := 4, mb := 3, bias := 7, inf := false, nan := true, maxM := 14, maxE := 15, qnan := 0x7F }
  | 5 => .ieee 5 2
  | 6 => .plain 2 1 1
  | 7 => { eb := 4, mb := 3, bias := 7, inf := false, nan := true, maxM := 14, maxE := 15, qnan := 0x7F }
  | 8 => .plain 3 2 3
  | _ => .plain 2 3 1

/-- Bits of one element of a format code (R48, R49). -/
def fmtBits : Nat → Nat
  | 0 => 64 | 1 => 32 | 2 => 16 | 3 => 16 | 4 => 8 | 5 => 8 | 6 => 4 | 7 => 8 | 8 => 6 | 9 => 6
  | 10 => 8 | 11 => 16 | 12 => 32 | 13 => 64 | _ => 8

/-- Codes 10 to 13 are signed integers, 14 is UINT8 (R49). -/
def fmtInt (c : Nat) : Bool := decide (10 ≤ c)
def fmtSigned (c : Nat) : Bool := decide (c ≠ 14)

/-- A value as `Round` takes it (R54): NaN, ±∞, or ±(m + δ)·2^e with δ in (0, 1) when `st`, else δ = 0; m = 0 without
`st` is a signed zero. -/
inductive Num where
  | nan (sig : Bool)
  | inf (neg : Bool)
  | fin (neg : Bool) (m : Nat) (e : Int) (st : Bool)
deriving DecidableEq, Repr

def Num.zero (neg : Bool) : Num := .fin neg 0 0 false

def Num.ofInt (x : Int) : Num := .fin (decide (x < 0)) x.natAbs 0 false

/-- The value that the bits of a floating format denote (R48, R52). -/
def unpackF (f : Fmt) (w : Nat) : Num :=
  let s := bit w (f.eb + f.mb)
  let ex := (w >>> f.mb) % 2 ^ f.eb
  let m := w % 2 ^ f.mb
  let q := - (f.bias : Int) - f.mb
  if ex = 2 ^ f.eb - 1 ∧ f.inf then
    if m = 0 then .inf s else .nan (!(bit m (f.mb - 1)))
  else if f.nan ∧ ¬ f.inf ∧ ex = 2 ^ f.eb - 1 ∧ m = 2 ^ f.mb - 1 then .nan false
  else if ex = 0 then .fin s m (q + 1) false
  else .fin s (2 ^ f.mb + m) (q + ex) false

/-- The value that the bits of a format code denote (R48, R49). -/
def unpack (c w : Nat) : Num :=
  if fmtInt c then
    let n := fmtBits c
    Num.ofInt (if fmtSigned c then sext n w else ((w % 2 ^ n : Nat) : Int))
  else unpackF (fmtOf c) w

def bitLen (m : Nat) : Nat := if m = 0 then 0 else Nat.log2 m + 1

/-- Rounding modes of R29: 0 RNE, 1 RTZ, 2 RUP, 3 RDN, 4 SR. One rounding of (m + δ)·2^e to a multiple of 2^q: the
multiple chosen, whether it is hi, and whether it differs from the value. -/
structure Cut where
  n : Nat
  up : Bool
  inexact : Bool

def cutAt (rm rnd : Nat) (neg : Bool) (m : Nat) (e : Int) (st : Bool) (q : Int) : Cut :=
  let sh := (q - e).toNat
  let m' := m <<< (e - q).toNat
  let lo := m' >>> sh
  let rem := m' % 2 ^ sh
  let inexact := decide (rem ≠ 0) || st
  let up :=
    inexact && match rm with
      | 0 => decide (2 ^ sh < 2 * rem) || (decide (2 * rem = 2 ^ sh) && (st || bit lo 0))
      | 1 => false
      | 2 => !neg
      | 3 => neg
      | _ => decide (2 ^ 32 ≤ (rem <<< 32) >>> sh + rnd)
  { n := if up then lo + 1 else lo, up := up, inexact := inexact }

/-- The bits of ±n·2^q in a format that holds the value. -/
def packF (f : Fmt) (neg : Bool) (n : Nat) (q : Int) : Nat :=
  let s := (Bool.n neg) <<< (f.eb + f.mb)
  let (n, q) := if 2 ^ (f.mb + 1) ≤ n then (n / 2, q + 1) else (n, q)
  if n < 2 ^ f.mb then s + n
  else s + ((q + f.mb + f.bias).toNat) <<< f.mb + (n - 2 ^ f.mb)

def maxF (f : Fmt) (neg : Bool) : Nat :=
  (Bool.n neg) <<< (f.eb + f.mb) + f.maxE <<< f.mb + (f.maxM - 2 ^ f.mb)

def infBits (f : Fmt) (neg : Bool) : Nat := (Bool.n neg) <<< (f.eb + f.mb) + (2 ^ f.eb - 1) <<< f.mb

/-- `Round` into a floating layout (R54). `rnd` is the draw of R56. -/
def roundF (f : Fmt) (rm rnd : Nat) : Num → Nat × BitVec 8
  | .nan _ => if f.nan then (f.qnan, 0) else (0, fNV)
  | .inf s => if f.inf then (infBits f s, 0) else (maxF f s, fNV)
  | .fin s m e st =>
    if m = 0 ∧ ¬ st then ((Bool.n s) <<< (f.eb + f.mb), 0)
    else
      let ex := e + bitLen m - 1
      let minQ : Int := 1 - (f.bias : Int) - f.mb
      let qt := ex - f.mb
      let q := if qt < minQ then minQ else qt
      let y := cutAt rm rnd s m e st q
      let maxQ : Int := (f.maxE : Int) - f.bias - f.mb
      if f.maxM <<< (maxQ - minQ).toNat < y.n <<< (q - minQ).toNat then
        let toInf : Bool := match rm with
          | 0 => true
          | 1 => false
          | 2 => !s
          | 3 => s
          | _ => y.up
        (if f.inf && toInf then infBits f s else maxF f s, fOF ||| fNX)
      else
        let t := cutAt rm rnd s m e st qt
        let tiny := decide (qt < minQ) && !(decide (qt + 1 = minQ) && decide (t.n = 2 ^ (f.mb + 1)))
        (packF f s y.n q, if y.inexact then (if tiny then fUF ||| fNX else fNX) else 0)

/-- The bounds of an integer format (R49). -/
def intLo (c : Nat) : Int := if fmtSigned c then - ((2 ^ (fmtBits c - 1) : Nat) : Int) else 0
def intHi (c : Nat) : Int := if fmtSigned c then ((2 ^ (fmtBits c - 1) : Nat) : Int) - 1 else 255

/-- Rounding to an integer (R55, first bullet). -/
def roundInt (rm rnd : Nat) (s : Bool) (m : Nat) (e : Int) (st : Bool) : Int × Bool :=
  let y := cutAt rm rnd s m e st (if e < 0 then 0 else e)
  let n := y.n <<< e.toNat
  (if s then - (n : Int) else n, y.inexact)

/-- `Round` into an integer format (R55): the integer and the flags. -/
def roundI (c rm rnd : Nat) : Num → Int × BitVec 8
  | .nan _ => (0, fNV)
  | .inf s => (if s then intLo c else intHi c, fNV)
  | .fin s m e st =>
    let (n, ix) := roundInt rm rnd s m e st
    if n < intLo c then (intLo c, fNV)
    else if intHi c < n then (intHi c, fNV)
    else (n, if ix then fNX else 0)

/-- `Round(x, fmt, rm)` (R54, R55): the element's bits and the flags. -/
def round (c rm rnd : Nat) (x : Num) : Nat × BitVec 8 :=
  if fmtInt c then
    let (n, fl) := roundI c rm rnd x
    (wrapN (fmtBits c) n, fl)
  else roundF (fmtOf c) rm rnd x

/-- The draw of stochastic rounding from SEED and the element index (R56). -/
def draw (seed : Word) (i : Nat) : Nat :=
  let z := seed + BitVec.ofNat 64 (i + 1) * 0x9E3779B97F4A7C15
  let z := (z ^^^ (z >>> 30)) * 0xBF58476D1CE4E5B9
  let z := (z ^^^ (z >>> 27)) * 0x94D049BB133111EB
  let z := z ^^^ (z >>> 31)
  z.toNat >>> 32

/-! ## Exact operations -/

def Num.sig : Num → BitVec 8
  | .nan true => fNV
  | _ => 0

def Num.isNan : Num → Bool
  | .nan _ => true
  | _ => false

def Num.isInf : Num → Bool
  | .inf _ => true
  | _ => false

def Num.neg : Num → Num
  | .nan s => .nan s
  | .inf s => .inf (!s)
  | .fin s m e st => .fin (!s) m e st

def Num.sign : Num → Bool
  | .nan _ => false
  | .inf s => s
  | .fin s _ _ _ => s

def Num.isZero : Num → Bool
  | .fin _ m _ st => decide (m = 0) && !st
  | _ => false

/-- The signed mantissa at a common exponent. -/
def sgn (s : Bool) (m : Nat) : Int := if s then - (m : Int) else m

/-- An exact sum of two finite values without sticky part; an exact zero of opposite signs is +0, and −0 under RDN
(R52). -/
def addFin (rm : Nat) (s1 : Bool) (m1 : Nat) (e1 : Int) (s2 : Bool) (m2 : Nat) (e2 : Int) : Num :=
  if m1 = 0 ∧ m2 = 0 then .fin (if s1 = s2 then s1 else decide (rm = 3)) 0 0 false
  else if m1 = 0 then .fin s2 m2 e2 false
  else if m2 = 0 then .fin s1 m1 e1 false
  else
    let e := if e1 ≤ e2 then e1 else e2
    let x := sgn s1 (m1 <<< (e1 - e).toNat) + sgn s2 (m2 <<< (e2 - e).toNat)
    if x = 0 then .fin (decide (rm = 3)) 0 0 false else .fin (decide (x < 0)) x.natAbs e false

/-- a + b, with the flags of invalid operations (R52, R90). -/
def addN (rm : Nat) (a b : Num) : Num × BitVec 8 :=
  match a, b with
  | .nan _, _ => (.nan false, a.sig ||| b.sig)
  | _, .nan _ => (.nan false, a.sig ||| b.sig)
  | .inf s, .inf t => if s = t then (.inf s, 0) else (.nan false, fNV)
  | .inf s, _ => (.inf s, 0)
  | _, .inf s => (.inf s, 0)
  | .fin s1 m1 e1 _, .fin s2 m2 e2 _ => (addFin rm s1 m1 e1 s2 m2 e2, 0)

/-- a × b (R90). -/
def mulN (a b : Num) : Num × BitVec 8 :=
  match a, b with
  | .nan _, _ => (.nan false, a.sig ||| b.sig)
  | _, .nan _ => (.nan false, a.sig ||| b.sig)
  | .inf s, x => if x.isZero then (.nan false, fNV) else (.inf (s != x.sign), 0)
  | x, .inf s => if x.isZero then (.nan false, fNV) else (.inf (s != x.sign), 0)
  | .fin s1 m1 e1 _, .fin s2 m2 e2 _ => (.fin (s1 != s2) (m1 * m2) (e1 + e2) false, 0)

/-- a × b + c with no rounding between (R90): 0 × ∞ sets NV even when c is a quiet NaN. -/
def fmaN (rm : Nat) (a b c : Num) : Num × BitVec 8 :=
  let (p, f) := mulN a b
  if p.isNan || c.isNan then (.nan false, f ||| a.sig ||| b.sig ||| c.sig)
  else addN rm p c

/-- Bits kept beyond the operands' own in a quotient or a root, so that one rounding of the result with its sticky
part is exact for every format, stochastic rounding included. -/
def guardBits : Nat := 192

/-- a / b (R90). -/
def divN (a b : Num) : Num × BitVec 8 :=
  match a, b with
  | .nan _, _ => (.nan false, a.sig ||| b.sig)
  | _, .nan _ => (.nan false, a.sig ||| b.sig)
  | .inf _, .inf _ => (.nan false, fNV)
  | .inf s, x => (.inf (s != x.sign), 0)
  | x, .inf s => (.zero (s != x.sign), 0)
  | .fin s1 m1 e1 _, .fin s2 m2 e2 _ =>
    let s := s1 != s2
    if m2 = 0 then if m1 = 0 then (.nan false, fNV) else (.inf s, fDZ)
    else if m1 = 0 then (.zero s, 0)
    else
      let k := guardBits + bitLen m2
      let n := m1 <<< k
      (.fin s (n / m2) (e1 - e2 - k) (decide (n % m2 ≠ 0)), 0)

/-- Newton's iteration for the integer square root, from above. -/
def isqrtGo (n : Nat) : Nat → Nat → Nat
  | 0, x => x
  | fuel + 1, x => let y := (x + n / x) / 2; if y < x then isqrtGo n fuel y else x

/-- The integer square root. -/
def isqrt (n : Nat) : Nat := if n = 0 then 0 else isqrtGo n 64 (2 ^ ((bitLen n + 1) / 2))

/-- √a (R90). -/
def sqrtN (a : Num) : Num × BitVec 8 :=
  match a with
  | .nan _ => (.nan false, a.sig)
  | .inf s => if s then (.nan false, fNV) else (.inf false, 0)
  | .fin s m e _ =>
    if m = 0 then (.zero s, 0)
    else if s then (.nan false, fNV)
    else
      let k := 2 * guardBits + (if e % 2 = 0 then 0 else 1)
      let n := m <<< k
      let r := isqrt n
      (.fin false r ((e - k) / 2) (decide (r * r ≠ n)), 0)

/-- 1/√x (R95). -/
def rsqN (a : Num) : Num × BitVec 8 :=
  match a with
  | .nan _ => (.nan false, a.sig)
  | .inf s => if s then (.nan false, fNV) else (.zero false, 0)
  | .fin s m e _ =>
    if m = 0 then (.inf s, fDZ)
    else if s then (.nan false, fNV)
    else
      let k := 2 * guardBits + bitLen m + (if (e + bitLen m) % 2 = 0 then 0 else 1)
      let r := isqrt (2 ^ k / m)
      (.fin false r (-(e + k) / 2) (decide (r * r * m ≠ 2 ^ k)), 0)

/-- The order of two values that are no NaNs: negative, zero or positive. -/
def cmpN (a b : Num) : Int :=
  match a, b with
  | .inf s, .inf t => if s = t then 0 else if s then -1 else 1
  | .inf s, _ => if s then -1 else 1
  | _, .inf s => if s then 1 else -1
  | .fin s1 m1 e1 _, .fin s2 m2 e2 _ =>
    let e := if e1 ≤ e2 then e1 else e2
    sgn s1 (m1 <<< (e1 - e).toNat) - sgn s2 (m2 <<< (e2 - e).toNat)
  | _, _ => 0

/-- a below b with −0 below +0 (R91). -/
def lessN (a b : Num) : Bool :=
  let c := cmpN a b
  decide (c < 0) || (decide (c = 0) && a.sign && !b.sign)

/-- floor(log2 |x|) of a finite nonzero value. -/
def expOf : Num → Int
  | .fin _ m e _ => e + bitLen m - 1
  | _ => 0

/-- x × 2^k. -/
def scaleN (k : Int) : Num → Num
  | .fin s m e st => .fin s m (e + k) st
  | x => x

/-- The E8M0 scale 2^(e − 127), or NaN for 0xFF (R50), applied with its sign of exponent. -/
def scaledBy (x : Num) (e : Nat) (divide : Bool) : Num × BitVec 8 :=
  if e = 0xFF then (.nan false, x.sig)
  else
    let k : Int := (e : Int) - 127
    match x with
    | .nan _ => (.nan false, x.sig)
    | y => (scaleN (if divide then -k else k) y, 0)

end Sys2Proof
end

