-- ==== Sys2Proof/Machine/Records.lean ====
section
/-! DEFINITION. The records that pass between the device and what lies outside it, and the rows of the Lyre's tables:
plain data, named as the manual names them. -/

namespace Sys2Proof

/-- The origin kinds of poison (R295, R296). NONE (kind 0) is the absence of an origin. -/
inductive Origin where
  | none | translation | uncorrectable | leaseRevoked | copyFailed | interestExpired | pendingRead | restored
deriving DecidableEq, Repr

/-- The causes found at the memory side (R197), PEER-UNREACHABLE (R360) included. `noKey`: a line of an ENC page whose
context has no memory key (R435), for which the manual gives no cause number. -/
inductive MemCause where
  | pteInvalid | permission | frameRange | noAtomicPermit | leaseRevoked | peerUnreachable | linkDown | noKey
deriving DecidableEq, Repr

/-- The functions of R431 that report ready. -/
inductive Function where
  | port (q : Nat) | link (k : Nat) | secp | lease | zith | lyre | dist | clus (c : Nat)
deriving DecidableEq, Repr

/-- The registers of the management interface that no other event writes (R193, R316, R326, R330, R325, R408, R441,
R435, R434, R437). -/
inductive MgmtReg where
  | linkTable (k : Nat) | scrubCtl (k : Nat) | smpctl | smpsel | smpbase | smplen | smpri | smpctx | tlog (cid : Nat)
  | dbgcmd | dbgpc | lendwin | lyrcfg | ctxsel | ctxw (i : Nat) | fnMode (fn : Function) | plimit
deriving DecidableEq, Repr

/-- What a pre-emption request names (R308). -/
inductive PreemptTarget where
  | launch (id : Nat) | core (cid : Nat) | cluster (c : Nat)
deriving DecidableEq, Repr

/-- What the patrol engine's ECC check of one sector finds, and whether a write reached the sector since the read (R317).
The stored bits are an input: the model holds data as the ECC delivers it. -/
inductive EccResult where
  | ok | correctable (superseded : Bool) | uncorrectable
deriving DecidableEq, Repr

/-- What the security processor answers about a line's GMAC tag under MODE 1 (R319). -/
inductive TagResult where
  | notChecked | pass | mismatch
deriving DecidableEq, Repr

/-- A tile name: tensor id, tile index, iteration and context (R374). -/
structure TileName where
  t : W32
  i : W32
  n : W32
  x : BitVec 16
deriving DecidableEq, Repr

/-- The read-modify-write operations of R209, R410 and R413. Floating operations carry the FP64 flag; the exact-sum
steps carry the contribution's format code. -/
inductive RmwOp where
  | add | min | max | and | or | xor | exch | inc | dec
  | fadd | fmin | fmax | cas | xscale (fmt : Nat) | xsum (fmt : Nat)
deriving DecidableEq, Repr

/-- One lane's part of an atomic: the byte address, the operand and, for CAS, the new value. -/
structure RmwLane where
  lane : Nat
  addr : Nat
  opnd : Word
  newv : Word := 0
deriving DecidableEq, Repr

/-- An atomic packet: the lanes of one instruction that name one line (R354 kind 0x06, R365). -/
structure AtomicPkt where
  req    : Nat          -- the requester's number for the request
  op     : RmwOp
  wide   : Bool         -- 64-bit operands
  signed : Bool
  lanes  : List RmwLane
deriving DecidableEq, Repr

/-- What a response packet carries (R354 kind 0x07, R363). -/
inductive PeerAnswer where
  | line (data : List Byte) (marks : List Origin) (install : Bool)   -- a line; install 0: read-once (R364)
  | ack                                                              -- write-back or invalidation performed
  | olds (vals : List (Nat × Word)) (marked : List (Nat × Origin))   -- an atomic's old values per lane; poisoned lanes
  | failed (c : MemCause)
  | named (name : TileName) (stored : Bool)                          -- an announced tile taken or refused by its home (R375)
deriving DecidableEq, Repr

structure PeerResponse where
  req : Nat
  ans : PeerAnswer
deriving DecidableEq, Repr

/-- Device states of the Lyre's device table (R384). -/
inductive DevState where
  | absent | live | spare | lost
deriving DecidableEq, Repr

/-- A slot of a device row: the gang row and rank it holds (R384). -/
structure DevSlot where
  grow : Nat
  rank : Nat
deriving DecidableEq, Repr

/-- A row of the Lyre's device table (R384). -/
structure DevRow where
  state : DevState := .absent
  fcore : Nat := 0
  fmem  : Nat := 0
  loc   : Nat := 0
  s0    : Option DevSlot := none
  s1    : Option DevSlot := none
  s2    : Option DevSlot := none
  s3    : Option DevSlot := none
deriving DecidableEq, Repr

/-- Gang states (R384). -/
inductive GangState where
  | free | pending | placed | blocked
deriving DecidableEq, Repr

/-- A row of the Lyre's gang table (R384). -/
structure GangRow where
  state  : GangState := .free
  prio   : Nat := 0
  cls    : Nat := 0
  k      : Nat := 0
  c      : Nat := 0
  m      : Nat := 0
  fin    : Nat := 0
  halt   : Bool := false
  gang   : Nat := 0
  ctx    : Nat := 0
  sseq   : Nat := 0
  record : Word := 0
  done   : Word := 0
  ttab   : Word := 0
  failed : Nat := 0
  host   : Nat := 0
  last0  : Nat := 0      -- the device on which rank 0 last ran (R385), carried beside the manual's fields
deriving DecidableEq, Repr

/-- A row of the reservation table (R384). -/
structure ResvRow where
  v     : Bool := false
  cls   : Nat := 0
  k     : Nat := 0
  c     : Nat := 0
  m     : Nat := 0
  start : Nat := 0
  fin   : Nat := 0
deriving DecidableEq, Repr

/-- Lease states (R367). -/
inductive LeaseState where
  | free | granted | returning | reclaiming
deriving DecidableEq, Repr

/-- A lease descriptor (R367). LID is the row's own number. -/
structure LeaseRow where
  state    : LeaseState := .free
  lender   : Nat := 0
  borrower : Nat := 0
  bound    : Nat := 0
  gseq     : Nat := 0
  lbase    : Nat := 0
  npages   : Nat := 0
  termend  : Nat := 0
  deadline : Nat := 0
  fbtab    : Word := 0
  bbase    : Nat := 0
deriving DecidableEq, Repr

/-- The four tables of the Lyre (R384). -/
structure LyreTables where
  dev   : FMap DevRow := []
  gang  : FMap GangRow := []
  resv  : FMap ResvRow := []
  lease : FMap LeaseRow := []
deriving DecidableEq, Repr

/-- A snapshot as SNAP packets carry it (R356, R392): the point, the digest there, and the tables. -/
structure Snapshot where
  s0     : Nat
  dig    : Word
  tables : LyreTables
deriving DecidableEq, Repr

/-- One SNAP packet (R356): the snapshot of which it carries bytes, the byte offset, and the last-packet flag. -/
structure SnapPart where
  whole : Snapshot
  off   : Nat
  last  : Bool
deriving DecidableEq, Repr

/-- A launch command as it arrives (R355): its eight words, and the fabric port that it comes in by (R147). -/
structure LaunchPkt where
  words : Rec8
  port  : Nat
deriving DecidableEq, Repr

end Sys2Proof
end

