-- ==== Sys2Proof/Syntax.lean ====
section
/-! DEFINITION. The abstract syntax: operands, the word formats of R22, and Instr with one constructor for every row of
the opcode table. Rows of the table that are no instruction words (steps of the device outside the issue slot) are
constructors too, with what the outside world supplies as their arguments. -/

namespace Sys2Proof

/-- A register operand of format O or I: the class of R24 selects what the eight bits name. -/
inductive Opnd where
  | v (k : BitVec 8)   -- class 0b00
  | s (k : BitVec 8)   -- class 0b01
  | p (k : BitVec 8)   -- class 0b10
  | l (k : BitVec 8)   -- class 0b11: a literal
deriving DecidableEq, Repr

/-- The predicate field (R25): bit 55 negates, bits [54:52] select. -/
structure Pred where
  neg : Bool
  reg : BitVec 3
deriving DecidableEq, Repr

/-- The operands of a format O word (R23); m holds the modifier bits [5:0], laid out as each entry states. -/
structure OpO where
  pr : Pred
  d  : Opnd
  a  : Opnd
  b  : Opnd
  c  : Opnd
  m  : BitVec 6
deriving DecidableEq, Repr

/-- The operands of a format I word (R26). -/
structure OpI where
  pr  : Pred
  d   : Opnd
  a   : Opnd
  imm : W32
deriving DecidableEq, Repr

/-- The operands of a format M word (R27). The class of A is one bit: a vector or an s register. -/
structure OpM where
  pr      : Pred
  d       : Opnd
  aS      : Bool       -- class A: 1 names an s register
  a       : BitVec 8
  off     : BitVec 20
  scope   : BitVec 3
  fresh   : Bool
  nc      : Bool
  wb      : Bool
  promote : Bool
deriving DecidableEq, Repr

/-- The width codes of R43. -/
inductive Width where
  | u8 | s8 | u16 | s16 | u32 | u64 | b128
deriving DecidableEq, Repr

/-- The instructions and device steps of the opcode table (R38, R40, R42, R44). -/
inductive Instr where
  | iaddI (o : OpI)
  | movI (o : OpI)
  | andI (o : OpI)
  | orI (o : OpI)
  | xorI (o : OpI)
  | imulI (o : OpI)
  | movl (o : OpO) (lit : Word)
  | iadd (o : OpO)
  | isub (o : OpO)
  | iaddc (o : OpO)
  | imul (o : OpO)
  | imulh (o : OpO)
  | imad (o : OpO)
  | idiv (o : OpO)
  | irem (o : OpO)
  | imin (o : OpO)
  | imax (o : OpO)
  | iabs (o : OpO)
  | ineg (o : OpO)
  | idot4 (o : OpO)
  | sad (o : OpO)
  | andB (o : OpO)
  | orB (o : OpO)
  | xorB (o : OpO)
  | andnB (o : OpO)
  | notB (o : OpO)
  | shl (o : OpO)
  | shr (o : OpO)
  | sar (o : OpO)
  | rotl (o : OpO)
  | fshl (o : OpO)
  | popc (o : OpO)
  | clz (o : OpO)
  | ctz (o : OpO)
  | brev (o : OpO)
  | bfx (o : OpO)
  | bfi (o : OpO)
  | prmt (o : OpO)
  | icmp (o : OpO)
  | isel (o : OpO)
  | pset (o : OpO)
  | mov (o : OpO)
  | lea (o : OpO)
  | fadd (dbl : Bool) (o : OpO)
  | fsub (dbl : Bool) (o : OpO)
  | fmul (dbl : Bool) (o : OpO)
  | ffma (dbl : Bool) (o : OpO)
  | fmin (dbl : Bool) (o : OpO)
  | fmax (dbl : Bool) (o : OpO)
  | fcmp (dbl : Bool) (o : OpO)
  | fclass (dbl : Bool) (o : OpO)
  | frnd (dbl : Bool) (o : OpO)
  | fdiv (dbl : Bool) (o : OpO)
  | fsqrt (dbl : Bool) (o : OpO)
  | frcp (o : OpO)
  | frsq (o : OpO)
  | fexp2 (o : OpO)
  | flog2 (o : OpO)
  | fsinpi (o : OpO)
  | fcospi (o : OpO)
  | hadd2 (o : OpO)
  | hmul2 (o : OpO)
  | hfma2 (o : OpO)
  | mxscan (o : OpO)
  | pack6 (o : OpO)
  | unpk6 (o : OpO)
  | pack4 (o : OpO)
  | unpk4 (o : OpO)
  | cvt (dst : BitVec 4) (src : BitVec 4) (o : OpO)
  | cvtq (dst : BitVec 4) (src : BitVec 4) (o : OpO)
  | bra (o : OpI)
  | brx (o : OpO)
  | call (o : OpI)
  | callx (o : OpO)
  | ret (o : OpO)
  | exit (o : OpO)
  | nop (o : OpO)
  | hintNext (o : OpO)
  | hintFar (o : OpO)
  | hintLikely (o : OpO)
  | hintUnlikely (o : OpO)
  | ld (w : Width) (o : OpM)
  | st (w : Width) (o : OpM)
  | lds (w : Width) (o : OpM)
  | sts (w : Width) (o : OpM)
  | ldk (w : Width) (o : OpM)
  | stk (w : Width) (o : OpM)
  | ldw (w : Width) (o : OpM)
  | prefL1 (o : OpM)
  | prefL2 (o : OpM)
  | shflFrom (o : OpO)
  | shflRot (o : OpO)
  | shflShift (o : OpO)
  | shflFlip (o : OpO)
  | voteOr (o : OpO)
  | voteAnd (o : OpO)
  | voteSame (o : OpO)
  | voteMask (o : OpO)
  | reduxAdd (o : OpO)
  | reduxMin (o : OpO)
  | reduxMax (o : OpO)
  | reduxAnd (o : OpO)
  | reduxOr (o : OpO)
  | reduxXor (o : OpO)
  | scanAdd (o : OpO)
  | scanMin (o : OpO)
  | scanMax (o : OpO)
  | scanAnd (o : OpO)
  | scanOr (o : OpO)
  | scanXor (o : OpO)
  | matchPeers (o : OpO)
  | matchLead (o : OpO)
  | elect (o : OpO)
  | partset (o : OpO)
  | exmget (o : OpO)
  | exmset (o : OpO)
  | bar (o : OpO)
  | bara (o : OpO)
  | barw (o : OpO)
  | poll (o : OpO)
  | yield (o : OpO)
  | taskget (o : OpO)
  | taskdone (o : OpO)
  | lvlid (k : BitVec 3) (o : OpO)
  | lvlidLane (o : OpO)
  | atomAdd (o : OpO)
  | atomMin (o : OpO)
  | atomMax (o : OpO)
  | atomAnd (o : OpO)
  | atomOr (o : OpO)
  | atomXor (o : OpO)
  | atomExch (o : OpO)
  | atomInc (o : OpO)
  | atomDec (o : OpO)
  | atomfAdd (o : OpO)
  | atomfMin (o : OpO)
  | atomfMax (o : OpO)
  | cas (o : OpO)
  | atomsAdd (o : OpO)
  | atomsMin (o : OpO)
  | atomsMax (o : OpO)
  | atomsAnd (o : OpO)
  | atomsOr (o : OpO)
  | atomsXor (o : OpO)
  | atomsExch (o : OpO)
  | atomsInc (o : OpO)
  | atomsDec (o : OpO)
  | redAdd (o : OpO)
  | redMin (o : OpO)
  | redMax (o : OpO)
  | redAnd (o : OpO)
  | redOr (o : OpO)
  | redXor (o : OpO)
  | fence (o : OpO)
  | ldacq (w : Width) (o : OpM)
  | strel (w : Width) (o : OpM)
  | tryOpen (o : OpO)
  | commit (o : OpO)
  | abort (o : OpO)
  | wait (o : OpI)
  | cctlInv (o : OpM)
  | cctlWb (o : OpM)
  | cctlWbinv (o : OpM)
  | tcopyLd (o : OpO)
  | tcopySt (o : OpO)
  | scopy (o : OpO)
  | mcast (o : OpO)
  | chain (o : OpO)
  | qinit (o : OpO)
  | qpush (o : OpO)
  | qpop (o : OpO)
  | tagany (o : OpI)
  | tagall (o : OpI)
  | tagff (o : OpO)
  | tagclr (o : OpI)
  | accz (o : OpO)
  | accmvV (o : OpO)
  | accmvA (o : OpO)
  | accst (o : OpO)
  | tmac (o : OpO)
  | txpose (o : OpO)
  | mma (shape : BitVec 2) (ty : BitVec 6) (o : OpO)
  | mmloop (shape : BitVec 2) (ty : BitVec 6) (o : OpO)
  | trap (o : OpO)
  | rtt (o : OpO)
  | srd (reg : BitVec 6) (o : OpO)
  | swr (reg : BitVec 6) (o : OpO)
  | vbegin (o : OpO)
  | vend (o : OpO)
  | bkpt (o : OpO)
  | wpset (o : OpO)
  | halta (o : OpO)
  | dumpw (o : OpO)
  | tlbinv (o : OpO)
  | interest (o : OpO)
  | announce (o : OpO)
  | leasereq (o : OpO)
  | leaseret (o : OpO)
  | signal (o : OpO)
  | sigwait (o : OpO)
  | xscale (o : OpO)
  | xsum (o : OpO)
  | xfin (o : OpO)
  | evpost (o : OpO)
  | digest (o : OpO)
  | versionIrrevocable (k : Nat)
  | deferredTrap (k : Nat)
  | loadComplete (id : Nat)
  | storeComplete (id : Nat)
  | atomicComplete (id : Nat)
  | engineCommandComplete (id : Nat)
  | queuePushPerform (id : Nat)
  | queuePopPerform (id : Nat)
  | matrixStep (cid : Nat)
  | txposeGroup (cid : Nat)
  | l1Eviction (cid : Nat) (line : Nat)
  | launchCommand (pkt : LaunchPkt)
  | placementAttempt
  | unitBlocking (launch : Nat) (unit : Nat)
  | resourceReport (die : Nat)
  | coreLaunchReport (cid : Nat) (launch : Nat)
  | dealChunk (launch : Nat)
  | warpUrgent (k : Nat)
  | pollBackoffEnd (k : Nat)
  | yieldTimeout (k : Nat)
  | preemptRequest (target : PreemptTarget) (dl : Nat)
  | drainDeadline (blk : Nat)
  | blockSave (blk : Nat)
  | pinWrite (idx : Nat) (val : Word)
  | pinActivate (idx : Nat)
  | pinRelease (idx : Nat)
  | migrationStart (link : Nat) (slot : Nat) (src : Word) (dst : Word)
  | migrationChunkCopy (link : Nat) (slot : Nat)
  | migrationRelease (link : Nat) (slot : Nat)
  | scrubLine (link : Nat) (ecc : List EccResult) (tag : TagResult)
  | sampleRow
  | traceTag (cid : Nat) (sub : Nat) (interval : Nat)
  | traceRow (cid : Nat) (sub : Nat) (stages : Rec8)
  | dbgHalt (cmd : Word)
  | dbgResume (cmd : Word)
  | dbgResumePc (cmd : Word)
  | dbgHaltCtx (cmd : Word)
  | dbgResumeCtx (cmd : Word)
  | dbgRefused (cmd : Word)
  | readShared (src : Nat) (ia : Nat) (req : Nat)
  | readExclusive (src : Nat) (ia : Nat) (req : Nat)
  | writeBack (src : Nat) (ia : Nat) (mask : BitVec 128) (marks : List Origin) (data : List Byte)
  | invalidatePkt (dev : Nat) (ia : Nat)
  | recallPkt (dev : Nat) (ia : Nat) (keep : Bool)
  | atomicPkt (src : Nat) (pkt : AtomicPkt)
  | responsePkt (src : Nat) (rsp : PeerResponse)
  | sackPkt (flow : Nat) (base : Nat) (cum : Nat) (map : Word)
  | sackDue (flow : Nat)
  | packetReserved (kind : Nat)
  | retransmitTimeout (flow : Nat) (seq : Nat)
  | peerUnreachable (flow : Nat)
  | portFailure (port : Nat)
  | portReady (port : Nat)
  | flitGroup (port : Nat) (slot : Bool) (seq : Nat) (tagOk : Bool) (flow : Nat) (pseq : Nat)
  | linkNak (port : Nat) (seq : Nat)
  | keyRotate (port : Nat)
  | keySlotClear (port : Nat)
  | postPkt (rec : Rec8) (atime : Nat)
  | harpTick
  | harpLoss (did : Nat)
  | eventPkt (rec : Rec8)
  | resendPkt (src : Nat) (seqs : Nat × Nat)
  | missingEventTimeout
  | applySubmit
  | applyFinish
  | applyBlock
  | applyUnblock
  | applyFault
  | applyLoss
  | applyJoin
  | applyReserve
  | applyGrant
  | applyReclaim
  | applyReturn
  | applyDone
  | applyRevoke
  | applyTick
  | applyUser
  | applyReservedEvent
  | reportPkt (src : Nat) (seq : Nat) (dig : Word)
  | snapreq (src : Nat) (s0 : Nat)
  | snapPkt (src : Nat) (snap : SnapPart)
  | lyreReady
  | leasereqPacket (src : Nat) (tag : Nat) (bound : Nat) (npages : Nat) (term : Nat) (fbtab : Word) (bbase : Word)
  | leasenak (tag : Nat)
  | leaseFillChunk (lid : Nat)
  | leaseCopybackChunk (lid : Nat) (dirty : List Nat)
  | leaseDeadline (lid : Nat)
  | interestPacket (src : Nat) (name : TileName) (size : Nat) (deadline : Nat)
  | tilePkt (src : Nat) (name : TileName) (size : Nat) (idx : Nat) (marks : List Origin) (data : List Byte)
  | interestRetry (id : Nat)
  | waiterExpiry (id : Nat)
  | notifyPkt (ia : Nat) (k : Nat)
  | ctxCreate (w0 : Word)
  | ctxDestroy (w0 : Word)
  | keyInstall (ctx : Nat)
  | resetRelease (ed25519 : Bool) (mldsa65 : Bool)
  | startCheck
  | functionReady (fn : Function)
  | functionFail (fn : Function)
  | functionDisable (fn : Function)
  | functionEnable (fn : Function) (fails : Bool)
  | powerAverage (watts : Nat)
  | thermalReset
  | registerWrite (reg : MgmtReg) (val : Word)
  | pollAttemptResolved (k : Nat)
  | sigwaitReadResult (k : Nat)
deriving DecidableEq, Repr

end Sys2Proof
end

