-- ==== Sys2Proof/WellFormed.lean ====
section
/-! DEFINITION. What a decodable instruction must satisfy whatever warp reaches it: the function checks (R37, R41, R43),
the accepted operand classes, modifiers and qualifiers of each entry (R71, R72, R73, R87, R102, R114, R159, R205, R207,
R208, R214, R216, R217, R222, R223, R274, R285, R333, R403), register alignment (R6, R43), and the implemented type
pairs (R259). `WellFormed` joins them. -/

namespace Sys2Proof

/-- The class code of R24. -/
def Opnd.cls : Opnd → Nat
  | .v _ => 0 | .s _ => 1 | .p _ => 2 | .l _ => 3

/-- The eight bits of a register field. -/
def Opnd.num : Opnd → Nat
  | .v k => k.toNat | .s k => k.toNat | .p k => k.toNat | .l k => k.toNat

/-- Register numbers that the class reserves (R24). -/
def Opnd.numOk : Opnd → Bool
  | .s k => decide (k.toNat < 64)
  | .p k => decide (k.toNat < 8)
  | _ => true

def Opnd.isV : Opnd → Bool | .v _ => true | _ => false
def Opnd.isS : Opnd → Bool | .s _ => true | _ => false
def Opnd.isP : Opnd → Bool | .p _ => true | _ => false
def Opnd.isL : Opnd → Bool | .l _ => true | _ => false

/-- Sets of classes: 1 V, 2 S, 4 P, 8 L. The set 0 marks a field that must be zero with its class bits (R23). -/
def inCls (set : Nat) (x : Opnd) : Bool :=
  if set = 0 then decide (x = .v 0) else bit set x.cls && x.numOk

/-- The classes of the four fields of a format O word. -/
def cls4 (d a b c : Nat) (o : OpO) : Bool := inCls d o.d && inCls a o.a && inCls b o.b && inCls c o.c

/-- The same under R68: with a destination of class s, no field that the entry reads as a source is of class v. -/
def cls4u (d a b c : Nat) (o : OpO) : Bool :=
  cls4 d a b c o && (!o.d.isS || (noV a o.a && noV b o.b && noV c o.c))
where
  noV (set : Nat) (x : Opnd) : Bool := decide (set = 0) || !x.isV

/-- The type T of R66 and its width in bits (R67). -/
def tyOf (m : BitVec 6) : Nat := bits m.toNat 5 4
def tyW (m : BitVec 6) : Nat := if bit m.toNat 5 then 64 else 32

/-- The modifiers of R66: the types (a set of the codes 0 to 3), `.sat` and the greatest sub-operation. -/
def intMod (types : Nat) (sat : Bool) (sub : Nat) (m : BitVec 6) : Bool :=
  bit types (tyOf m) && (sat || !(bit m.toNat 3)) && decide (bits m.toNat 2 0 ≤ sub)

/-- Bits [hi:lo] of the modifiers do not exceed a bound. -/
def modLe (hi lo bound : Nat) (m : BitVec 6) : Bool := decide (bits m.toNat hi lo ≤ bound)

/-- A control literal of R208: scope 0 to 6, PROMOTE only with an acquire at `.clus` or wider. -/
def ctlOk (c : Nat) : Bool :=
  decide (c < 64) && decide (c % 8 < 7) && (!(bit c 5) || (bit c 3 && decide (2 ≤ c % 8)))

/-- The SEM field of a control literal. -/
def ctlSem (c : Nat) : Nat := bits c 4 3

/-- A tag operand T (R274): a literal 0 to 63, or an s register. -/
def tagOk : Opnd → Bool
  | .l k => decide (k.toNat < 64)
  | .s k => decide (k.toNat < 64)
  | _ => false

/-- An accumulator index K (R274): a literal or an s register. -/
def accOk (x : Opnd) : Bool := inCls 10 x

/-- ACCZ's row count (R274): as a literal at least 1. -/
def rowsOk : Opnd → Bool
  | .l k => decide (1 ≤ k.toNat)
  | x => inCls 2 x

/-- CVT pairs of R97. -/
def cvtPair (d f : Nat) : Bool :=
  (decide (d ≤ 5) && decide (d ≠ f) && (decide (f ≤ 5) || (decide (10 ≤ f) && decide (f ≤ 14)))) ||
  (decide (10 ≤ d) && decide (d ≤ 14) && decide (d ≠ f) && (decide (f ≤ 5) || (decide (10 ≤ f) && decide (f ≤ 14)))) ||
  (decide (d = 4) && (decide (f = 8) || decide (f = 9))) ||
  ((decide (d = 8) || decide (d = 9)) && decide (f = 4))

/-- CVTQ pairs of R100. -/
def cvtqPair (d f : Nat) : Bool :=
  ((decide (d = 6) || decide (d = 7)) && decide (f ≤ 3)) || (decide (d ≤ 3) && (decide (f = 6) || decide (f = 7)))

/-- Input and accumulator formats implemented together (R259). -/
def mmPair (i a : Nat) : Bool :=
  match a with
  | 0 => decide (1 ≤ i) && decide (i ≤ 7)
  | 1 => decide (i ≤ 1)
  | 2 => decide (i = 3) || decide (i = 4) || decide (i = 5)
  | _ => false

/-- The scratchpad formats into which ACCST converts an accumulator of a code (R285). -/
def accstPair (a sf : Nat) : Bool :=
  let f := match a with | 0 => 1 | 1 => 0 | _ => 3
  decide (sf = f) || cvtPair sf f || decide (sf = 6) || decide (sf = 7)

/-- The width codes an entry lists (R43). -/
def widthIn (lo hi : Nat) (w : Width) : Bool := decide (lo ≤ w.ctorIdx) && decide (w.ctorIdx ≤ hi)

/-- The bytes per lane of a width code (R43). -/
def Width.bytes : Width → Nat
  | .u8 => 1 | .s8 => 1 | .u16 => 2 | .s16 => 2 | .u32 => 4 | .u64 => 8 | .b128 => 16

/-- The v registers of a width code (R43). -/
def Width.regs : Width → Nat
  | .u64 => 2 | .b128 => 4 | _ => 1

/-- The qualifiers that an M word carries, against those its entry accepts (R27, R114). -/
def qual (fresh nc wb promote : Bool) (maxScope : Nat) (o : OpM) : Bool :=
  (fresh || !o.fresh) && (nc || !o.nc) && (wb || !o.wb) && (promote || !o.promote) && decide (o.scope.toNat ≤ maxScope)

/-- The base register's number is one that its class has (R24). -/
def baseOk (o : OpM) : Bool := !o.aS || decide (o.a.toNat < 64)

/-- An M word of R114 whose D is a v register. -/
def mForm (fresh nc wb : Bool) (o : OpM) : Bool := inCls 1 o.d && baseOk o && qual fresh nc wb false 0 o

/-- Format I words of R72. -/
def iForm (withA : Bool) (o : OpI) : Bool :=
  inCls 3 o.d && (if withA then inCls 3 o.a && (!o.d.isS || o.a.isS) else decide (o.a = .v 0))

/-- The mask forms of TAGANY, TAGALL and TAGCLR (R274). -/
def tagMask (o : OpI) : Bool :=
  (decide (o.a = .v 0) && (decide (o.d = .v 0) || decide (o.d = .v 1))) ||
  (o.a.isS && o.a.numOk && decide (o.d = .v 0) && decide (o.imm = 0))

/-- Numbers of the special registers that SRD reads and SWR writes (R334). -/
def srdOk (k : Nat) : Bool := decide (k ≤ 20) || (decide (24 ≤ k) && decide (k ≤ 39))
def swrOk (k : Nat) : Bool :=
  decide (k ≤ 4) || (decide (10 ≤ k) && decide (k ≤ 12)) || decide (k = 14) || (decide (32 ≤ k) && decide (k ≤ 39))

/-- PSET (R71, R84): D a predicate, or a v register; the sources that the operation reads are predicates. -/
def psetOk (o : OpO) : Bool :=
  let op := bits o.m.toNat 2 0
  inCls 5 o.d && intMod 1 false 6 o.m && inCls (if op ≤ 4 then 4 else 0) o.a && inCls (if op ≤ 3 then 4 else 0) o.b &&
    inCls 0 o.c

/-- The sizes that PART accepts (R137). -/
def partOk (n : Nat) : Bool :=
  decide (n = 2) || decide (n = 4) || decide (n = 8) || decide (n = 16) || decide (n = 32)

/-- FENCE (R212): scope in [2:0], 0 full, 1 `.acq` or 2 `.rel` in [4:3]; every other field is zero. -/
def fenceOk (o : OpO) : Bool :=
  cls4 0 0 0 0 o && modLe 5 3 2 o.m && modLe 2 0 6 o.m

/-- The rows of a tile of M × N accumulator elements (R261): shape and accumulator code. -/
def tileRows (shape acc : Nat) : Nat :=
  (match acc with | 0 => 32 | 1 => 64 | _ => 16) * (if bit shape 0 then 2 else 1) * (if bit shape 1 then 2 else 1)

/-- A row count named by a literal, 1 otherwise. -/
def litRows : Opnd → Nat
  | .l k => k.toNat
  | _ => 1

/-- The function checks that depend on more than a listed F: reserved pairs, widths and register numbers
(RESERVED-FUNCTION: R41, R43, R114, R214, R332, R334). -/
def fnOk : Instr → Bool
  | .ldw w _ => widthIn 4 6 w
  | .ldacq w _ => widthIn 4 5 w
  | .strel w _ => widthIn 4 5 w
  | .cvt dst src _ => cvtPair dst.toNat src.toNat
  | .cvtq dst src _ => cvtqPair dst.toNat src.toNat
  | .srd reg _ => srdOk reg.toNat
  | .swr reg _ => swrOk reg.toNat
  | _ => true

/-- A row of the table that is no instruction word: a step of the device outside the issue slot. -/
def Instr.isEvent : Instr → Bool
  | .versionIrrevocable _ => true
  | .deferredTrap _ => true
  | .loadComplete _ => true
  | .storeComplete _ => true
  | .atomicComplete _ => true
  | .engineCommandComplete _ => true
  | .queuePushPerform _ => true
  | .queuePopPerform _ => true
  | .matrixStep _ => true
  | .txposeGroup _ => true
  | .l1Eviction _ _ => true
  | .launchCommand _ => true
  | .placementAttempt => true
  | .unitBlocking _ _ => true
  | .resourceReport _ => true
  | .coreLaunchReport _ _ => true
  | .dealChunk _ => true
  | .warpUrgent _ => true
  | .pollBackoffEnd _ => true
  | .yieldTimeout _ => true
  | .preemptRequest _ _ => true
  | .drainDeadline _ => true
  | .blockSave _ => true
  | .pinWrite _ _ => true
  | .pinActivate _ => true
  | .pinRelease _ => true
  | .migrationStart _ _ _ _ => true
  | .migrationChunkCopy _ _ => true
  | .migrationRelease _ _ => true
  | .scrubLine _ _ _ => true
  | .sampleRow => true
  | .traceTag _ _ _ => true
  | .traceRow _ _ _ => true
  | .dbgHalt _ => true
  | .dbgResume _ => true
  | .dbgResumePc _ => true
  | .dbgHaltCtx _ => true
  | .dbgResumeCtx _ => true
  | .dbgRefused _ => true
  | .readShared _ _ _ => true
  | .readExclusive _ _ _ => true
  | .writeBack _ _ _ _ _ => true
  | .invalidatePkt _ _ => true
  | .recallPkt _ _ _ => true
  | .atomicPkt _ _ => true
  | .responsePkt _ _ => true
  | .sackPkt _ _ _ _ => true
  | .sackDue _ => true
  | .packetReserved _ => true
  | .retransmitTimeout _ _ => true
  | .peerUnreachable _ => true
  | .portFailure _ => true
  | .portReady _ => true
  | .flitGroup _ _ _ _ _ _ => true
  | .linkNak _ _ => true
  | .keyRotate _ => true
  | .keySlotClear _ => true
  | .postPkt _ _ => true
  | .harpTick => true
  | .harpLoss _ => true
  | .eventPkt _ => true
  | .resendPkt _ _ => true
  | .missingEventTimeout => true
  | .applySubmit => true
  | .applyFinish => true
  | .applyBlock => true
  | .applyUnblock => true
  | .applyFault => true
  | .applyLoss => true
  | .applyJoin => true
  | .applyReserve => true
  | .applyGrant => true
  | .applyReclaim => true
  | .applyReturn => true
  | .applyDone => true
  | .applyRevoke => true
  | .applyTick => true
  | .applyUser => true
  | .applyReservedEvent => true
  | .reportPkt _ _ _ => true
  | .snapreq _ _ => true
  | .snapPkt _ _ => true
  | .lyreReady => true
  | .leasereqPacket _ _ _ _ _ _ _ => true
  | .leasenak _ => true
  | .leaseFillChunk _ => true
  | .leaseCopybackChunk _ _ => true
  | .leaseDeadline _ => true
  | .interestPacket _ _ _ _ => true
  | .tilePkt _ _ _ _ _ _ => true
  | .interestRetry _ => true
  | .waiterExpiry _ => true
  | .notifyPkt _ _ => true
  | .ctxCreate _ => true
  | .ctxDestroy _ => true
  | .keyInstall _ => true
  | .resetRelease _ _ => true
  | .startCheck => true
  | .functionReady _ => true
  | .functionFail _ => true
  | .functionDisable _ => true
  | .functionEnable _ _ => true
  | .powerAverage _ => true
  | .thermalReset => true
  | .registerWrite _ _ => true
  | .pollAttemptResolved _ => true
  | .sigwaitReadResult _ => true
  | _ => false

/-- The checks that answer RESERVED-FIELD whatever warp reaches the word (R46). A step of the device has no word. Bits [5:0] of HINT,
which R102 leaves out of those that are zero in every O form but which its table does not name, must be zero (DEDUCED,
log 101). -/
def fieldsOk : Instr → Bool
  | .iaddI o => iForm true o
  | .movI o => iForm false o
  | .andI o => iForm true o
  | .orI o => iForm true o
  | .xorI o => iForm true o
  | .imulI o => iForm true o
  | .movl o _ => cls4 3 0 0 0 o && intMod 15 false 0 o.m
  | .iadd o => cls4u 3 11 11 0 o && intMod 15 true 0 o.m
  | .isub o => cls4u 3 11 11 0 o && intMod 15 true 0 o.m
  | .iaddc o => cls4u 1 11 11 4 o && intMod 5 false 0 o.m
  | .imul o => cls4u 3 11 11 0 o && intMod 15 true 0 o.m
  | .imulh o => cls4u 3 11 11 0 o && intMod 15 false 0 o.m
  | .imad o => cls4u 3 11 11 11 o && intMod 15 true 0 o.m
  | .idiv o => cls4u 3 11 11 0 o && intMod 15 true 0 o.m
  | .irem o => cls4u 3 11 11 0 o && intMod 15 false 0 o.m
  | .imin o => cls4u 3 11 11 0 o && intMod 15 false 0 o.m
  | .imax o => cls4u 3 11 11 0 o && intMod 15 false 0 o.m
  | .iabs o => cls4u 3 3 0 0 o && intMod 10 true 0 o.m
  | .ineg o => cls4u 3 3 0 0 o && intMod 15 true 0 o.m
  | .idot4 o => cls4u 3 11 11 11 o && intMod 3 true 3 o.m
  | .sad o => cls4u 3 11 11 11 o && intMod 15 true 0 o.m
  | .andB o => cls4u 3 11 11 0 o && intMod 5 false 0 o.m
  | .orB o => cls4u 3 11 11 0 o && intMod 5 false 0 o.m
  | .xorB o => cls4u 3 11 11 0 o && intMod 5 false 0 o.m
  | .andnB o => cls4u 3 11 11 0 o && intMod 5 false 0 o.m
  | .notB o => cls4u 3 3 0 0 o && intMod 5 false 0 o.m
  | .shl o => cls4u 3 3 11 0 o && intMod 5 false 0 o.m
  | .shr o => cls4u 3 3 11 0 o && intMod 5 false 0 o.m
  | .sar o => cls4u 3 3 11 0 o && intMod 5 false 0 o.m
  | .rotl o => cls4u 3 3 11 0 o && intMod 5 false 0 o.m
  | .fshl o => cls4u 3 3 3 11 o && intMod 5 false 0 o.m
  | .popc o => cls4u 3 3 0 0 o && intMod 5 false 0 o.m
  | .clz o => cls4u 3 3 0 0 o && intMod 5 false 0 o.m
  | .ctz o => cls4u 3 3 0 0 o && intMod 5 false 0 o.m
  | .brev o => cls4u 3 3 0 0 o && intMod 5 false 0 o.m
  | .bfx o => cls4u 3 3 11 11 o && intMod 15 false 0 o.m
  | .bfi o => cls4u 3 11 11 11 o && intMod 5 false 0 o.m
  | .prmt o => cls4u 3 3 3 11 o && intMod 1 false 0 o.m
  | .icmp o => cls4 4 11 11 0 o && intMod 15 false 5 o.m
  | .isel o => cls4u 1 11 11 4 o && intMod 5 false 0 o.m
  | .pset o => psetOk o
  | .mov o => cls4u 3 3 0 0 o && intMod 15 false 0 o.m
  | .lea o => cls4u 3 3 3 8 o && intMod 7 false 0 o.m && decide (o.c.num ≤ 63)
  | .fadd _ o => cls4u 3 3 3 0 o && modLe 5 3 0 o.m && modLe 2 0 4 o.m
  | .fsub _ o => cls4u 3 3 3 0 o && modLe 5 3 0 o.m && modLe 2 0 4 o.m
  | .fmul _ o => cls4u 3 3 3 0 o && modLe 5 3 0 o.m && modLe 2 0 4 o.m
  | .ffma _ o => cls4u 3 3 3 3 o && modLe 5 3 0 o.m && modLe 2 0 4 o.m
  | .fmin _ o => cls4u 3 3 3 0 o && modLe 5 0 1 o.m
  | .fmax _ o => cls4u 3 3 3 0 o && modLe 5 0 1 o.m
  | .fcmp _ o => cls4 4 3 3 0 o && modLe 5 0 7 o.m
  | .fclass _ o => cls4u 3 3 0 0 o && modLe 5 0 0 o.m
  | .frnd _ o => cls4u 3 3 0 0 o && modLe 5 4 0 o.m && modLe 2 0 3 o.m
  | .fdiv _ o => cls4u 3 3 3 0 o && modLe 5 3 0 o.m && modLe 2 0 4 o.m
  | .fsqrt _ o => cls4u 3 3 0 0 o && modLe 5 3 0 o.m && modLe 2 0 4 o.m
  | .frcp o => cls4u 3 3 0 0 o && modLe 5 3 0 o.m && modLe 2 0 4 o.m
  | .frsq o => cls4u 3 3 0 0 o && modLe 5 0 0 o.m
  | .fexp2 o => cls4u 3 3 0 0 o && modLe 5 0 0 o.m
  | .flog2 o => cls4u 3 3 0 0 o && modLe 5 0 0 o.m
  | .fsinpi o => cls4u 3 3 0 0 o && modLe 5 0 0 o.m
  | .fcospi o => cls4u 3 3 0 0 o && modLe 5 0 0 o.m
  | .hadd2 o => cls4u 1 3 3 0 o && modLe 5 4 0 o.m && modLe 2 0 4 o.m
  | .hmul2 o => cls4u 1 3 3 0 o && modLe 5 4 0 o.m && modLe 2 0 4 o.m
  | .hfma2 o => cls4u 1 3 3 3 o && modLe 5 4 0 o.m && modLe 2 0 4 o.m
  | .mxscan o => cls4 3 1 0 0 o && modLe 5 0 1 o.m
  | .pack6 o => cls4u 1 1 0 0 o && modLe 5 0 0 o.m
  | .unpk6 o => cls4u 1 1 0 0 o && modLe 5 0 0 o.m
  | .pack4 o => cls4u 1 1 0 0 o && modLe 5 0 0 o.m
  | .unpk4 o => cls4u 1 1 0 0 o && modLe 5 0 0 o.m
  | .cvt dst _ o =>
    cls4u 3 3 0 0 o && modLe 5 4 0 o.m && modLe 2 0 4 o.m && (!(bit o.m.toNat 3) || decide (dst.toNat ≤ 9))
  | .cvtq _ _ o => cls4u 3 3 3 0 o && modLe 5 3 0 o.m && modLe 2 0 4 o.m
  | .bra o => decide (o.d = .v 0) && decide (o.a = .v 0)
  | .brx o => cls4 0 3 0 0 o && modLe 5 0 0 o.m
  | .call o => decide (o.d = .v 0) && decide (o.a = .v 0)
  | .callx o => cls4 0 3 0 0 o && modLe 5 0 0 o.m
  | .ret o => cls4 0 0 0 0 o && modLe 5 0 0 o.m
  | .exit o => cls4 0 0 0 0 o && modLe 5 0 0 o.m
  | .nop o => cls4 0 0 0 0 o && modLe 5 0 0 o.m
  | .hintNext o => cls4 0 0 0 0 o && modLe 5 0 0 o.m
  | .hintFar o => cls4 0 2 0 0 o && modLe 5 0 0 o.m
  | .hintLikely o => cls4 0 0 0 0 o && modLe 5 0 0 o.m
  | .hintUnlikely o => cls4 0 0 0 0 o && modLe 5 0 0 o.m
  | .ld _ o => mForm true true false o
  | .st _ o => mForm false true true o
  | .lds _ o => mForm false false false o
  | .sts _ o => mForm false false false o
  | .ldk _ o => mForm false false false o
  | .stk _ o => mForm false false false o
  | .ldw _ o => inCls 2 o.d && o.aS && baseOk o && qual true true false false 0 o
  | .prefL1 o => decide (o.d = .v 0) && baseOk o && qual false false false false 0 o
  | .prefL2 o => decide (o.d = .v 0) && baseOk o && qual false false false false 0 o
  | .shflFrom o => cls4 1 1 11 4 o && modLe 5 1 0 o.m
  | .shflRot o => cls4 1 1 11 4 o && modLe 5 1 0 o.m
  | .shflShift o => cls4 1 1 11 4 o && modLe 5 1 0 o.m
  | .shflFlip o => cls4 1 1 11 4 o && modLe 5 1 0 o.m
  | .voteOr o => cls4 4 4 0 0 o && modLe 5 0 0 o.m
  | .voteAnd o => cls4 4 4 0 0 o && modLe 5 0 0 o.m
  | .voteSame o => cls4 4 4 0 0 o && modLe 5 0 0 o.m
  | .voteMask o => cls4 3 4 0 0 o && modLe 5 0 0 o.m
  | .reduxAdd o => cls4 1 1 0 0 o && modLe 5 3 5 o.m && modLe 2 0 (if bits o.m.toNat 5 3 < 4 then 0 else 3) o.m
  | .reduxMin o => cls4 1 1 0 0 o && modLe 5 3 5 o.m && modLe 2 0 0 o.m
  | .reduxMax o => cls4 1 1 0 0 o && modLe 5 3 5 o.m && modLe 2 0 0 o.m
  | .reduxAnd o => cls4 1 1 0 0 o && modLe 5 3 3 o.m && modLe 2 0 0 o.m
  | .reduxOr o => cls4 1 1 0 0 o && modLe 5 3 3 o.m && modLe 2 0 0 o.m
  | .reduxXor o => cls4 1 1 0 0 o && modLe 5 3 3 o.m && modLe 2 0 0 o.m
  | .scanAdd o => cls4 1 1 0 0 o && modLe 5 3 5 o.m && modLe 2 0 (if bits o.m.toNat 5 3 < 4 then 0 else 3) o.m
  | .scanMin o => cls4 1 1 0 0 o && modLe 5 3 5 o.m && modLe 2 0 0 o.m
  | .scanMax o => cls4 1 1 0 0 o && modLe 5 3 5 o.m && modLe 2 0 0 o.m
  | .scanAnd o => cls4 1 1 0 0 o && modLe 5 3 3 o.m && modLe 2 0 0 o.m
  | .scanOr o => cls4 1 1 0 0 o && modLe 5 3 3 o.m && modLe 2 0 0 o.m
  | .scanXor o => cls4 1 1 0 0 o && modLe 5 3 3 o.m && modLe 2 0 0 o.m
  | .matchPeers o => cls4 1 1 0 4 o && modLe 5 1 0 o.m
  | .matchLead o => cls4 1 1 0 4 o && modLe 5 1 0 o.m
  | .elect o => cls4 4 0 0 0 o && modLe 5 0 0 o.m
  | .partset o => cls4 0 10 0 0 o && modLe 5 0 0 o.m && (!o.a.isL || partOk o.a.num)
  | .exmget o => cls4 3 0 0 0 o && modLe 5 0 0 o.m
  | .exmset o => cls4 0 10 0 0 o && modLe 5 0 0 o.m
  | .bar o =>
    cls4 4 10 10 0 o && (!o.a.isL || decide (o.a.num ≤ 15)) && modLe 2 0 0 o.m && decide (1 ≤ bits o.m.toNat 5 3)
  | .bara o =>
    cls4 0 10 10 0 o && (!o.a.isL || decide (o.a.num ≤ 15)) && modLe 2 0 0 o.m && decide (1 ≤ bits o.m.toNat 5 3)
  | .barw o =>
    cls4 4 10 0 0 o && (!o.a.isL || decide (o.a.num ≤ 15)) && modLe 2 0 0 o.m && decide (1 ≤ bits o.m.toNat 5 3)
  | .poll o =>
    cls4 4 2 10 8 o && modLe 5 3 6 o.m && modLe 2 0 5 o.m && (decide (o.c.num = 4) || decide (o.c.num = 8))
  | .yield o => cls4 0 0 0 0 o && modLe 5 0 0 o.m
  | .taskget o => cls4 2 0 0 4 o && modLe 5 0 0 o.m
  | .taskdone o => cls4 0 0 0 0 o && modLe 5 0 0 o.m
  | .lvlid _ o => cls4 3 0 0 0 o && modLe 5 0 0 o.m
  | .lvlidLane o => cls4 1 0 0 0 o && modLe 5 0 0 o.m
  | .atomAdd o => cls4 1 3 11 8 o && modLe 3 0 0 o.m && ctlOk o.c.num
  | .atomMin o => cls4 1 3 11 8 o && modLe 3 0 0 o.m && ctlOk o.c.num
  | .atomMax o => cls4 1 3 11 8 o && modLe 3 0 0 o.m && ctlOk o.c.num
  | .atomAnd o => cls4 1 3 11 8 o && modLe 3 0 0 o.m && ctlOk o.c.num
  | .atomOr o => cls4 1 3 11 8 o && modLe 3 0 0 o.m && ctlOk o.c.num
  | .atomXor o => cls4 1 3 11 8 o && modLe 3 0 0 o.m && ctlOk o.c.num
  | .atomExch o => cls4 1 3 11 8 o && modLe 3 0 0 o.m && ctlOk o.c.num
  | .atomInc o => cls4 1 3 11 8 o && modLe 3 0 0 o.m && ctlOk o.c.num
  | .atomDec o => cls4 1 3 11 8 o && modLe 3 0 0 o.m && ctlOk o.c.num
  | .atomfAdd o => cls4 1 3 3 8 o && modLe 5 0 31 o.m && modLe 3 0 0 o.m && ctlOk o.c.num
  | .atomfMin o => cls4 1 3 3 8 o && modLe 5 0 31 o.m && modLe 3 0 0 o.m && ctlOk o.c.num
  | .atomfMax o => cls4 1 3 3 8 o && modLe 5 0 31 o.m && modLe 3 0 0 o.m && ctlOk o.c.num
  | .cas o => cls4 1 3 11 8 o && modLe 3 0 0 o.m && ctlOk o.c.num
  | .atomsAdd o => cls4 1 3 11 8 o && modLe 3 0 0 o.m && ctlOk o.c.num && decide (o.c.num % 8 ≤ 1)
  | .atomsMin o => cls4 1 3 11 8 o && modLe 3 0 0 o.m && ctlOk o.c.num && decide (o.c.num % 8 ≤ 1)
  | .atomsMax o => cls4 1 3 11 8 o && modLe 3 0 0 o.m && ctlOk o.c.num && decide (o.c.num % 8 ≤ 1)
  | .atomsAnd o => cls4 1 3 11 8 o && modLe 3 0 0 o.m && ctlOk o.c.num && decide (o.c.num % 8 ≤ 1)
  | .atomsOr o => cls4 1 3 11 8 o && modLe 3 0 0 o.m && ctlOk o.c.num && decide (o.c.num % 8 ≤ 1)
  | .atomsXor o => cls4 1 3 11 8 o && modLe 3 0 0 o.m && ctlOk o.c.num && decide (o.c.num % 8 ≤ 1)
  | .atomsExch o => cls4 1 3 11 8 o && modLe 3 0 0 o.m && ctlOk o.c.num && decide (o.c.num % 8 ≤ 1)
  | .atomsInc o => cls4 1 3 11 8 o && modLe 3 0 0 o.m && ctlOk o.c.num && decide (o.c.num % 8 ≤ 1)
  | .atomsDec o => cls4 1 3 11 8 o && modLe 3 0 0 o.m && ctlOk o.c.num && decide (o.c.num % 8 ≤ 1)
  | .redAdd o => cls4 0 3 11 8 o && modLe 3 0 0 o.m && ctlOk o.c.num && !(bit o.c.num 3)
  | .redMin o => cls4 0 3 11 8 o && modLe 3 0 0 o.m && ctlOk o.c.num && !(bit o.c.num 3)
  | .redMax o => cls4 0 3 11 8 o && modLe 3 0 0 o.m && ctlOk o.c.num && !(bit o.c.num 3)
  | .redAnd o => cls4 0 3 11 8 o && modLe 3 0 0 o.m && ctlOk o.c.num && !(bit o.c.num 3)
  | .redOr o => cls4 0 3 11 8 o && modLe 3 0 0 o.m && ctlOk o.c.num && !(bit o.c.num 3)
  | .redXor o => cls4 0 3 11 8 o && modLe 3 0 0 o.m && ctlOk o.c.num && !(bit o.c.num 3)
  | .fence o => fenceOk o
  | .ldacq _ o => inCls 1 o.d && baseOk o && qual false false false (decide (2 ≤ o.scope.toNat)) 6 o
  | .strel _ o => inCls 1 o.d && baseOk o && qual false false false false 6 o
  | .tryOpen o => cls4 4 8 8 0 o && modLe 5 0 0 o.m
  | .commit o => cls4 4 0 0 0 o && modLe 5 0 6 o.m
  | .abort o => cls4 0 8 0 0 o && modLe 5 0 0 o.m
  | .wait o => decide (o.d = .v 0) && decide (o.a = .v 0)
  | .cctlInv o =>
    decide (o.d = .v 0) && baseOk o && qual false false false false 4 o && (decide (o.scope = 1) || decide (o.scope = 4))
  | .cctlWb o =>
    decide (o.d = .v 0) && baseOk o && qual false false false false 4 o && (decide (o.scope = 1) || decide (o.scope = 4))
  | .cctlWbinv o =>
    decide (o.d = .v 0) && baseOk o && qual false false false false 4 o && (decide (o.scope = 1) || decide (o.scope = 4))
  | .tcopyLd o => cls4 10 2 2 0 o && decide (o.m = 0) && tagOk o.d
  | .tcopySt o => cls4 10 2 2 0 o && decide (o.m = 1) && tagOk o.d
  | .scopy o => cls4 10 2 2 0 o && modLe 5 4 0 o.m && modLe 2 0 4 o.m && tagOk o.d
  | .mcast o => cls4 10 2 2 10 o && modLe 5 0 0 o.m && tagOk o.d && (!o.c.isL || decide (o.c.num ≤ 15))
  | .chain o => cls4 10 2 0 0 o && modLe 5 0 0 o.m && tagOk o.d
  | .qinit o => cls4 0 2 2 0 o && modLe 5 0 0 o.m
  | .qpush o => cls4 10 2 2 8 o && modLe 5 0 0 o.m && tagOk o.d && decide (3 ≤ o.c.num) && decide (o.c.num ≤ 12)
  | .qpop o => cls4 10 2 2 8 o && modLe 5 0 0 o.m && tagOk o.d && decide (3 ≤ o.c.num) && decide (o.c.num ≤ 12)
  | .tagany o => tagMask o
  | .tagall o => tagMask o
  | .tagff o => cls4 3 2 0 0 o && modLe 5 2 0 o.m
  | .tagclr o => tagMask o
  | .accz o => cls4 10 10 0 0 o && modLe 5 0 0 o.m && rowsOk o.a
  | .accmvV o => cls4 1 10 10 0 o && decide (o.m = 0)
  | .accmvA o => cls4 10 1 10 0 o && decide (o.m = 1)
  | .accst o =>
    cls4 10 10 2 8 o && modLe 5 4 0 o.m && modLe 3 2 2 o.m && tagOk o.d && decide (o.c.num < 128) && decide (o.c.num / 16 ≤ 4) && accstPair (bits o.m.toNat 3 2) (o.c.num % 16)
  | .tmac o => cls4 10 2 0 0 o && modLe 5 0 0 o.m
  | .txpose o => cls4 0 2 2 2 o && modLe 5 2 0 o.m
  | .mma _ ty o =>
    cls4 10 2 2 0 o && modLe 5 3 0 o.m && modLe 2 0 4 o.m && decide (ty.toNat / 4 ≤ 7) && decide (ty.toNat % 4 ≤ 2)
  | .mmloop _ ty o =>
    cls4 10 2 2 2 o && modLe 5 3 0 o.m && modLe 2 0 4 o.m && decide (ty.toNat / 4 ≤ 7) && decide (ty.toNat % 4 ≤ 2)
  | .trap o => cls4 0 8 0 0 o && modLe 5 0 0 o.m
  | .rtt o => cls4 0 0 0 0 o && modLe 5 0 0 o.m
  | .srd _ o => cls4 3 0 0 0 o && modLe 5 0 0 o.m
  | .swr _ o => cls4 0 10 0 0 o && modLe 5 0 0 o.m
  | .vbegin o => cls4 4 0 0 0 o && modLe 5 0 0 o.m
  | .vend o => cls4 4 0 0 0 o && modLe 5 0 0 o.m
  | .bkpt o => cls4 0 0 0 0 o && modLe 5 0 0 o.m
  | .wpset o => cls4 8 2 2 0 o && modLe 5 0 0 o.m && decide (o.d.num ≤ 3)
  | .halta o => cls4 4 0 0 0 o && modLe 2 0 0 o.m
  | .dumpw o => cls4 4 2 2 0 o && modLe 5 0 0 o.m
  | .tlbinv o => cls4 0 2 10 0 o && modLe 5 0 0 o.m
  | .interest o => cls4 10 2 2 2 o && modLe 5 0 0 o.m && tagOk o.d
  | .announce o => cls4 10 2 2 2 o && modLe 5 0 0 o.m && tagOk o.d
  | .leasereq o => cls4 10 2 0 0 o && modLe 5 0 0 o.m && tagOk o.d
  | .leaseret o => cls4 10 2 2 0 o && modLe 5 0 0 o.m && tagOk o.d
  | .signal o => cls4 0 2 10 8 o && modLe 5 0 0 o.m && ctlOk o.c.num && decide (o.c.num < 32) && !(bit o.c.num 3)
  | .sigwait o => cls4 4 2 10 8 o && modLe 5 0 0 o.m && ctlOk o.c.num && decide (o.c.num < 32) && !(bit o.c.num 4)
  | .xscale o =>
    cls4 0 3 3 8 o && modLe 5 3 0 o.m && modLe 2 0 5 o.m && ctlOk o.c.num && decide (o.c.num < 32) && !(bit o.c.num 3)
  | .xsum o =>
    cls4 0 3 3 8 o && modLe 5 3 0 o.m && modLe 2 0 5 o.m && ctlOk o.c.num && decide (o.c.num < 32) && !(bit o.c.num 3)
  | .xfin o =>
    cls4 3 3 0 8 o && modLe 5 3 4 o.m && modLe 2 0 5 o.m && ctlOk o.c.num && decide (o.c.num < 32) && !(bit o.c.num 4) && (!o.d.isS || o.a.isS)
  | .evpost o => cls4 10 2 0 0 o && modLe 5 0 0 o.m && tagOk o.d
  | .digest o =>
    inCls 2 o.d && decide (o.d.num ≤ 62) && inCls 4 o.c && decide (o.b = .v 0) && modLe 5 1 0 o.m && (if bit o.m.toNat 0 then inCls 2 o.a else decide (o.a = .v 0))
  | .versionIrrevocable _ => true
  | .deferredTrap _ => true
  | .loadComplete _ => true
  | .storeComplete _ => true
  | .atomicComplete _ => true
  | .engineCommandComplete _ => true
  | .queuePushPerform _ => true
  | .queuePopPerform _ => true
  | .matrixStep _ => true
  | .txposeGroup _ => true
  | .l1Eviction _ _ => true
  | .launchCommand _ => true
  | .placementAttempt => true
  | .unitBlocking _ _ => true
  | .resourceReport _ => true
  | .coreLaunchReport _ _ => true
  | .dealChunk _ => true
  | .warpUrgent _ => true
  | .pollBackoffEnd _ => true
  | .yieldTimeout _ => true
  | .preemptRequest _ _ => true
  | .drainDeadline _ => true
  | .blockSave _ => true
  | .pinWrite _ _ => true
  | .pinActivate _ => true
  | .pinRelease _ => true
  | .migrationStart _ _ _ _ => true
  | .migrationChunkCopy _ _ => true
  | .migrationRelease _ _ => true
  | .scrubLine _ _ _ => true
  | .sampleRow => true
  | .traceTag _ _ _ => true
  | .traceRow _ _ _ => true
  | .dbgHalt _ => true
  | .dbgResume _ => true
  | .dbgResumePc _ => true
  | .dbgHaltCtx _ => true
  | .dbgResumeCtx _ => true
  | .dbgRefused _ => true
  | .readShared _ _ _ => true
  | .readExclusive _ _ _ => true
  | .writeBack _ _ _ _ _ => true
  | .invalidatePkt _ _ => true
  | .recallPkt _ _ _ => true
  | .atomicPkt _ _ => true
  | .responsePkt _ _ => true
  | .sackPkt _ _ _ _ => true
  | .sackDue _ => true
  | .packetReserved _ => true
  | .retransmitTimeout _ _ => true
  | .peerUnreachable _ => true
  | .portFailure _ => true
  | .portReady _ => true
  | .flitGroup _ _ _ _ _ _ => true
  | .linkNak _ _ => true
  | .keyRotate _ => true
  | .keySlotClear _ => true
  | .postPkt _ _ => true
  | .harpTick => true
  | .harpLoss _ => true
  | .eventPkt _ => true
  | .resendPkt _ _ => true
  | .missingEventTimeout => true
  | .applySubmit => true
  | .applyFinish => true
  | .applyBlock => true
  | .applyUnblock => true
  | .applyFault => true
  | .applyLoss => true
  | .applyJoin => true
  | .applyReserve => true
  | .applyGrant => true
  | .applyReclaim => true
  | .applyReturn => true
  | .applyDone => true
  | .applyRevoke => true
  | .applyTick => true
  | .applyUser => true
  | .applyReservedEvent => true
  | .reportPkt _ _ _ => true
  | .snapreq _ _ => true
  | .snapPkt _ _ => true
  | .lyreReady => true
  | .leasereqPacket _ _ _ _ _ _ _ => true
  | .leasenak _ => true
  | .leaseFillChunk _ => true
  | .leaseCopybackChunk _ _ => true
  | .leaseDeadline _ => true
  | .interestPacket _ _ _ _ => true
  | .tilePkt _ _ _ _ _ _ => true
  | .interestRetry _ => true
  | .waiterExpiry _ => true
  | .notifyPkt _ _ => true
  | .ctxCreate _ => true
  | .ctxDestroy _ => true
  | .keyInstall _ => true
  | .resetRelease _ _ => true
  | .startCheck => true
  | .functionReady _ => true
  | .functionFail _ => true
  | .functionDisable _ => true
  | .functionEnable _ _ => true
  | .powerAverage _ => true
  | .thermalReset => true
  | .registerWrite _ _ => true
  | .pollAttemptResolved _ => true
  | .sigwaitReadResult _ => true

/-- What REGISTER-RANGE looks at: groups of v registers (aligned to their size), v ranges without alignment, s pairs, and
accumulator rows (R6, R7, R43, R217, R261). -/
inductive Use where
  | v (k n : Nat)
  | vRange (k n : Nat)
  | s (k n : Nat)
  | acc (k n : Nat)
deriving DecidableEq, Repr

def useR (n : Nat) : Opnd → List Use
  | .v k => [.v k.toNat n]
  | _ => []

def useAcc (n : Nat) : Opnd → List Use
  | .l k => [.acc k.toNat n]
  | _ => []

def useBase (n : Nat) (o : OpM) : List Use := if o.aS then [] else [.v o.a.toNat n]

/-- Registers of a format O word: n registers for each of D, A, B, C. -/
def useO (d a b c : Nat) (o : OpO) : List Use := useR d o.d ++ useR a o.a ++ useR b o.b ++ useR c o.c

/-- Registers per v operand of a type of R66, a floating width, a format code. -/
def regsT (m : BitVec 6) : Nat := if bit m.toNat 5 then 2 else 1
def regsD (dbl : Bool) : Nat := if dbl then 2 else 1
def regsF (c : Nat) : Nat := if c = 0 ∨ c = 13 then 2 else 1

/-- The registers that a word names and R6, R7 and R261 bound. -/
def uses : Instr → List Use
  | .iaddI o => useR 1 o.d ++ useR 1 o.a
  | .movI o => useR 1 o.d ++ useR 1 o.a
  | .andI o => useR 1 o.d ++ useR 1 o.a
  | .orI o => useR 1 o.d ++ useR 1 o.a
  | .xorI o => useR 1 o.d ++ useR 1 o.a
  | .imulI o => useR 1 o.d ++ useR 1 o.a
  | .movl o _ => useR (regsT o.m) o.d
  | .iadd o => useO (regsT o.m) (regsT o.m) (regsT o.m) 1 o
  | .isub o => useO (regsT o.m) (regsT o.m) (regsT o.m) 1 o
  | .iaddc o => useO (regsT o.m) (regsT o.m) (regsT o.m) (regsT o.m) o
  | .imul o => useO (regsT o.m) (regsT o.m) (regsT o.m) 1 o
  | .imulh o => useO (regsT o.m) (regsT o.m) (regsT o.m) 1 o
  | .imad o => useO (regsT o.m) (regsT o.m) (regsT o.m) (regsT o.m) o
  | .idiv o => useO (regsT o.m) (regsT o.m) (regsT o.m) 1 o
  | .irem o => useO (regsT o.m) (regsT o.m) (regsT o.m) 1 o
  | .imin o => useO (regsT o.m) (regsT o.m) (regsT o.m) 1 o
  | .imax o => useO (regsT o.m) (regsT o.m) (regsT o.m) 1 o
  | .iabs o => useO (regsT o.m) (regsT o.m) 1 1 o
  | .ineg o => useO (regsT o.m) (regsT o.m) 1 1 o
  | .idot4 o => useO 1 1 1 1 o
  | .sad o => useO (regsT o.m) (regsT o.m) (regsT o.m) (regsT o.m) o
  | .andB o => useO (regsT o.m) (regsT o.m) (regsT o.m) 1 o
  | .orB o => useO (regsT o.m) (regsT o.m) (regsT o.m) 1 o
  | .xorB o => useO (regsT o.m) (regsT o.m) (regsT o.m) 1 o
  | .andnB o => useO (regsT o.m) (regsT o.m) (regsT o.m) 1 o
  | .notB o => useO (regsT o.m) (regsT o.m) 1 1 o
  | .shl o => useO (regsT o.m) (regsT o.m) 1 1 o
  | .shr o => useO (regsT o.m) (regsT o.m) 1 1 o
  | .sar o => useO (regsT o.m) (regsT o.m) 1 1 o
  | .rotl o => useO (regsT o.m) (regsT o.m) 1 1 o
  | .fshl o => useO (regsT o.m) (regsT o.m) (regsT o.m) 1 o
  | .popc o => useO 1 (regsT o.m) 1 1 o
  | .clz o => useO 1 (regsT o.m) 1 1 o
  | .ctz o => useO 1 (regsT o.m) 1 1 o
  | .brev o => useO (regsT o.m) (regsT o.m) 1 1 o
  | .bfx o => useO (regsT o.m) (regsT o.m) 1 1 o
  | .bfi o => useO (regsT o.m) (regsT o.m) 1 1 o
  | .prmt o => useO 1 1 1 1 o
  | .icmp o => useO 1 (regsT o.m) (regsT o.m) 1 o
  | .isel o => useO (regsT o.m) (regsT o.m) (regsT o.m) (regsT o.m) o
  | .pset o => useO 1 1 1 1 o
  | .mov o => useO (regsT o.m) (regsT o.m) 1 1 o
  | .lea o => useO 2 2 (regsT o.m) 1 o
  | .fadd dbl o => useO (regsD dbl) (regsD dbl) (regsD dbl) 1 o
  | .fsub dbl o => useO (regsD dbl) (regsD dbl) (regsD dbl) 1 o
  | .fmul dbl o => useO (regsD dbl) (regsD dbl) (regsD dbl) 1 o
  | .ffma dbl o => useO (regsD dbl) (regsD dbl) (regsD dbl) (regsD dbl) o
  | .fmin dbl o => useO (regsD dbl) (regsD dbl) (regsD dbl) 1 o
  | .fmax dbl o => useO (regsD dbl) (regsD dbl) (regsD dbl) 1 o
  | .fcmp dbl o => useO 1 (regsD dbl) (regsD dbl) 1 o
  | .fclass dbl o => useO 1 (regsD dbl) 1 1 o
  | .frnd dbl o => useO (regsD dbl) (regsD dbl) 1 1 o
  | .fdiv dbl o => useO (regsD dbl) (regsD dbl) (regsD dbl) 1 o
  | .fsqrt dbl o => useO (regsD dbl) (regsD dbl) 1 1 o
  | .frcp o => useO 1 1 1 1 o
  | .frsq o => useO 1 1 1 1 o
  | .fexp2 o => useO 1 1 1 1 o
  | .flog2 o => useO 1 1 1 1 o
  | .fsinpi o => useO 1 1 1 1 o
  | .fcospi o => useO 1 1 1 1 o
  | .hadd2 o => useO 1 1 1 1 o
  | .hmul2 o => useO 1 1 1 1 o
  | .hfma2 o => useO 1 1 1 1 o
  | .mxscan o => useO 1 1 1 1 o
  | .pack6 o => useO 1 1 1 1 o
  | .unpk6 o => useO 1 1 1 1 o
  | .pack4 o => useO 1 1 1 1 o
  | .unpk4 o => useO 1 1 1 1 o
  | .cvt dst src o => useO (regsF dst.toNat) (regsF src.toNat) 1 1 o
  | .cvtq dst src o => useO (regsF dst.toNat) (regsF src.toNat) 1 1 o
  | .brx o => useO 1 2 1 1 o
  | .callx o => useO 1 2 1 1 o
  | .ld w o => useR w.regs o.d ++ useBase 2 o
  | .st w o => useR w.regs o.d ++ useBase 2 o
  | .lds w o => useR w.regs o.d ++ useBase 1 o
  | .sts w o => useR w.regs o.d ++ useBase 1 o
  | .ldk w o => useR w.regs o.d ++ useBase 1 o
  | .stk w o => useR w.regs o.d ++ useBase 1 o
  | .ldw w o => if w = .b128 then [.s o.d.num 2] else []
  | .prefL1 o => useBase 2 o
  | .prefL2 o => useBase 2 o
  | .shflFrom o => useO (if bit o.m.toNat 0 then 2 else 1) (if bit o.m.toNat 0 then 2 else 1) 1 1 o
  | .shflRot o => useO (if bit o.m.toNat 0 then 2 else 1) (if bit o.m.toNat 0 then 2 else 1) 1 1 o
  | .shflShift o => useO (if bit o.m.toNat 0 then 2 else 1) (if bit o.m.toNat 0 then 2 else 1) 1 1 o
  | .shflFlip o => useO (if bit o.m.toNat 0 then 2 else 1) (if bit o.m.toNat 0 then 2 else 1) 1 1 o
  | .voteMask o => useO 1 1 1 1 o
  | .reduxAdd o =>
    useO (if bits o.m.toNat 5 3 = 2 ∨ bits o.m.toNat 5 3 = 3 ∨ bits o.m.toNat 5 3 = 5 then 2 else 1) (if bits o.m.toNat 5 3 = 2 ∨ bits o.m.toNat 5 3 = 3 ∨ bits o.m.toNat 5 3 = 5 then 2 else 1) 1 1 o
  | .reduxMin o =>
    useO (if bits o.m.toNat 5 3 = 2 ∨ bits o.m.toNat 5 3 = 3 ∨ bits o.m.toNat 5 3 = 5 then 2 else 1) (if bits o.m.toNat 5 3 = 2 ∨ bits o.m.toNat 5 3 = 3 ∨ bits o.m.toNat 5 3 = 5 then 2 else 1) 1 1 o
  | .reduxMax o =>
    useO (if bits o.m.toNat 5 3 = 2 ∨ bits o.m.toNat 5 3 = 3 ∨ bits o.m.toNat 5 3 = 5 then 2 else 1) (if bits o.m.toNat 5 3 = 2 ∨ bits o.m.toNat 5 3 = 3 ∨ bits o.m.toNat 5 3 = 5 then 2 else 1) 1 1 o
  | .reduxAnd o =>
    useO (if bits o.m.toNat 5 3 = 2 ∨ bits o.m.toNat 5 3 = 3 ∨ bits o.m.toNat 5 3 = 5 then 2 else 1) (if bits o.m.toNat 5 3 = 2 ∨ bits o.m.toNat 5 3 = 3 ∨ bits o.m.toNat 5 3 = 5 then 2 else 1) 1 1 o
  | .reduxOr o =>
    useO (if bits o.m.toNat 5 3 = 2 ∨ bits o.m.toNat 5 3 = 3 ∨ bits o.m.toNat 5 3 = 5 then 2 else 1) (if bits o.m.toNat 5 3 = 2 ∨ bits o.m.toNat 5 3 = 3 ∨ bits o.m.toNat 5 3 = 5 then 2 else 1) 1 1 o
  | .reduxXor o =>
    useO (if bits o.m.toNat 5 3 = 2 ∨ bits o.m.toNat 5 3 = 3 ∨ bits o.m.toNat 5 3 = 5 then 2 else 1) (if bits o.m.toNat 5 3 = 2 ∨ bits o.m.toNat 5 3 = 3 ∨ bits o.m.toNat 5 3 = 5 then 2 else 1) 1 1 o
  | .scanAdd o =>
    useO (if bits o.m.toNat 5 3 = 2 ∨ bits o.m.toNat 5 3 = 3 ∨ bits o.m.toNat 5 3 = 5 then 2 else 1) (if bits o.m.toNat 5 3 = 2 ∨ bits o.m.toNat 5 3 = 3 ∨ bits o.m.toNat 5 3 = 5 then 2 else 1) 1 1 o
  | .scanMin o =>
    useO (if bits o.m.toNat 5 3 = 2 ∨ bits o.m.toNat 5 3 = 3 ∨ bits o.m.toNat 5 3 = 5 then 2 else 1) (if bits o.m.toNat 5 3 = 2 ∨ bits o.m.toNat 5 3 = 3 ∨ bits o.m.toNat 5 3 = 5 then 2 else 1) 1 1 o
  | .scanMax o =>
    useO (if bits o.m.toNat 5 3 = 2 ∨ bits o.m.toNat 5 3 = 3 ∨ bits o.m.toNat 5 3 = 5 then 2 else 1) (if bits o.m.toNat 5 3 = 2 ∨ bits o.m.toNat 5 3 = 3 ∨ bits o.m.toNat 5 3 = 5 then 2 else 1) 1 1 o
  | .scanAnd o =>
    useO (if bits o.m.toNat 5 3 = 2 ∨ bits o.m.toNat 5 3 = 3 ∨ bits o.m.toNat 5 3 = 5 then 2 else 1) (if bits o.m.toNat 5 3 = 2 ∨ bits o.m.toNat 5 3 = 3 ∨ bits o.m.toNat 5 3 = 5 then 2 else 1) 1 1 o
  | .scanOr o =>
    useO (if bits o.m.toNat 5 3 = 2 ∨ bits o.m.toNat 5 3 = 3 ∨ bits o.m.toNat 5 3 = 5 then 2 else 1) (if bits o.m.toNat 5 3 = 2 ∨ bits o.m.toNat 5 3 = 3 ∨ bits o.m.toNat 5 3 = 5 then 2 else 1) 1 1 o
  | .scanXor o =>
    useO (if bits o.m.toNat 5 3 = 2 ∨ bits o.m.toNat 5 3 = 3 ∨ bits o.m.toNat 5 3 = 5 then 2 else 1) (if bits o.m.toNat 5 3 = 2 ∨ bits o.m.toNat 5 3 = 3 ∨ bits o.m.toNat 5 3 = 5 then 2 else 1) 1 1 o
  | .matchPeers o => useO (if bit o.m.toNat 0 then 2 else 1) (if bit o.m.toNat 0 then 2 else 1) 1 1 o
  | .matchLead o => useO (if bit o.m.toNat 0 then 2 else 1) (if bit o.m.toNat 0 then 2 else 1) 1 1 o
  | .exmget o => useO 1 1 1 1 o
  | .lvlid _ o => useO 1 1 1 1 o
  | .lvlidLane o => useO 1 1 1 1 o
  | .atomAdd o => useO (regsT o.m) 2 (regsT o.m) 1 o
  | .atomMin o => useO (regsT o.m) 2 (regsT o.m) 1 o
  | .atomMax o => useO (regsT o.m) 2 (regsT o.m) 1 o
  | .atomAnd o => useO (regsT o.m) 2 (regsT o.m) 1 o
  | .atomOr o => useO (regsT o.m) 2 (regsT o.m) 1 o
  | .atomXor o => useO (regsT o.m) 2 (regsT o.m) 1 o
  | .atomExch o => useO (regsT o.m) 2 (regsT o.m) 1 o
  | .atomInc o => useO (regsT o.m) 2 (regsT o.m) 1 o
  | .atomDec o => useO (regsT o.m) 2 (regsT o.m) 1 o
  | .atomfAdd o => useO (if bit o.m.toNat 4 then 2 else 1) 2 (if bit o.m.toNat 4 then 2 else 1) 1 o
  | .atomfMin o => useO (if bit o.m.toNat 4 then 2 else 1) 2 (if bit o.m.toNat 4 then 2 else 1) 1 o
  | .atomfMax o => useO (if bit o.m.toNat 4 then 2 else 1) 2 (if bit o.m.toNat 4 then 2 else 1) 1 o
  | .cas o => useO (regsT o.m) 2 (regsT o.m) 1 o
  | .atomsAdd o => useO (regsT o.m) 1 (regsT o.m) 1 o
  | .atomsMin o => useO (regsT o.m) 1 (regsT o.m) 1 o
  | .atomsMax o => useO (regsT o.m) 1 (regsT o.m) 1 o
  | .atomsAnd o => useO (regsT o.m) 1 (regsT o.m) 1 o
  | .atomsOr o => useO (regsT o.m) 1 (regsT o.m) 1 o
  | .atomsXor o => useO (regsT o.m) 1 (regsT o.m) 1 o
  | .atomsExch o => useO (regsT o.m) 1 (regsT o.m) 1 o
  | .atomsInc o => useO (regsT o.m) 1 (regsT o.m) 1 o
  | .atomsDec o => useO (regsT o.m) 1 (regsT o.m) 1 o
  | .redAdd o => useO 1 2 (regsT o.m) 1 o
  | .redMin o => useO 1 2 (regsT o.m) 1 o
  | .redMax o => useO 1 2 (regsT o.m) 1 o
  | .redAnd o => useO 1 2 (regsT o.m) 1 o
  | .redOr o => useO 1 2 (regsT o.m) 1 o
  | .redXor o => useO 1 2 (regsT o.m) 1 o
  | .ldacq w o => useR w.regs o.d ++ useBase 2 o
  | .strel w o => useR w.regs o.d ++ useBase 2 o
  | .tryOpen o => [.vRange o.a.num o.b.num]
  | .cctlInv o => useBase 2 o
  | .cctlWb o => useBase 2 o
  | .cctlWbinv o => useBase 2 o
  | .tagff o => useO 1 1 1 1 o
  | .accz o => useAcc (litRows o.a) o.d
  | .accmvV o => useAcc (litRows o.b) o.a ++ [.vRange o.d.num (litRows o.b)]
  | .accmvA o => useAcc (litRows o.b) o.d ++ [.vRange o.a.num (litRows o.b)]
  | .accst o => useAcc (tileRows (bits o.m.toNat 1 0) (bits o.m.toNat 3 2)) o.a
  | .mma shape ty o => useAcc (tileRows shape.toNat (ty.toNat % 4)) o.d
  | .mmloop shape ty o => useAcc (tileRows shape.toNat (ty.toNat % 4)) o.d
  | .srd _ o => useO 1 1 1 1 o
  | .xscale o => useO 1 2 (if bits o.m.toNat 2 0 = 0 then 2 else 1) 1 o
  | .xsum o => useO 1 2 (if bits o.m.toNat 2 0 = 0 then 2 else 1) 1 o
  | .digest o => [.s o.d.num 2]
  | .xfin o => useO (if bits o.m.toNat 2 0 = 0 then 2 else 1) 2 1 1 o
  | _ => []

/-- Alignment of a group (R6, R43); a range that ends above v255 lies within no BND (R7). -/
def Use.aligned : Use → Bool
  | .v k n => decide (k % n = 0)
  | .s k n => decide (k % n = 0)
  | .vRange k n => decide (k + n ≤ 256)
  | .acc _ _ => true

/-- Type pairs that are legal but not implemented together (R259). -/
def typesOk : Instr → Bool
  | .mma _ ty _ => mmPair (ty.toNat / 4) (ty.toNat % 4)
  | .mmloop _ ty _ => mmPair (ty.toNat / 4) (ty.toNat % 4)
  | _ => true

/-- A well-formed instruction: every check of R46 that looks at the word alone. -/
def WellFormed (i : Instr) : Bool :=
  !i.isEvent && fnOk i && fieldsOk i && (uses i).all Use.aligned && typesOk i

end Sys2Proof
end

