-- ==== Sys2Proof/Decode.lean ====
section
/-! DEFINITION. The decoder (R21 to R47), total on any bytes and rejecting by the causes of R47, and the encoder written
from the same tables. -/

namespace Sys2Proof

/-- The causes of the illegal-instruction class (R47). -/
inductive Illegal where
  | reservedOpcode | headerInBlock | badHeader | reservedFunction | literalPastEnd | reservedField | registerRange
  | unsupportedTypes
deriving DecidableEq, Repr

def Illegal.code : Illegal → BitVec 8
  | .reservedOpcode => 1 | .headerInBlock => 2 | .badHeader => 3 | .reservedFunction => 4 | .literalPastEnd => 5
  | .reservedField => 6 | .registerRange => 7 | .unsupportedTypes => 8

/-- What decoding answers: an instruction, an illegal-instruction cause, a target-alignment cause found at decode (R103,
R217), or, for fewer bytes than a word, that there is no word. -/
inductive Decoded where
  | ok (i : Instr)
  | illegal (c : Illegal)
  | align (code : BitVec 8)
  | short
deriving DecidableEq, Repr

/-- The state of the warp against which decoding compares fields (R35): BND, pool rows, NLVL, the levels' domains (R128),
PRIV, INH, and whether the word is the last of its block. -/
structure DecEnv where
  bnd  : Nat
  rows : Nat
  nlvl : Nat
  doms : List Nat
  priv : Bool
  inh  : Bool
  last : Bool
deriving DecidableEq, Repr

/-- The width of a width code, and back (R43). -/
def Width.code : Width → BitVec 6
  | .u8 => 0 | .s8 => 1 | .u16 => 2 | .s16 => 3 | .u32 => 4 | .u64 => 5 | .b128 => 6

def Width.ofCode : Nat → Option Width
  | 0 => some .u8 | 1 => some .s8 | 2 => some .u16 | 3 => some .s16 | 4 => some .u32 | 5 => some .u64 | 6 => some .b128
  | _ => none

/-- A register field from its class and its number (R24). -/
def opndOf (c : BitVec 2) (k : BitVec 8) : Opnd :=
  if c = 0 then .v k else if c = 1 then .s k else if c = 2 then .p k else .l k

def Opnd.clsBits : Opnd → BitVec 2
  | .v _ => 0 | .s _ => 1 | .p _ => 2 | .l _ => 3

def Opnd.numBits : Opnd → BitVec 8
  | .v k => k | .s k => k | .p k => k | .l k => k

/-- The fields of a word (R23, R25, R26, R27). -/
def predOf (w : Word) : Pred := { neg := w.extractLsb' 55 1 = 1, reg := w.extractLsb' 52 3 }

def opO (w : Word) : OpO :=
  { pr := predOf w
    d := opndOf (w.extractLsb' 12 2) (w.extractLsb' 44 8)
    a := opndOf (w.extractLsb' 10 2) (w.extractLsb' 36 8)
    b := opndOf (w.extractLsb' 8 2) (w.extractLsb' 28 8)
    c := opndOf (w.extractLsb' 6 2) (w.extractLsb' 20 8)
    m := w.extractLsb' 0 6 }

def opI (w : Word) : OpI :=
  { pr := predOf w
    d := opndOf (w.extractLsb' 34 2) (w.extractLsb' 44 8)
    a := opndOf (w.extractLsb' 32 2) (w.extractLsb' 36 8)
    imm := w.extractLsb' 0 32 }

def opM (w : Word) : OpM :=
  { pr := predOf w
    d := opndOf (w.extractLsb' 1 2) (w.extractLsb' 44 8)
    aS := w.extractLsb' 0 1 = 1
    a := w.extractLsb' 36 8
    off := w.extractLsb' 16 20
    scope := w.extractLsb' 7 3
    fresh := w.extractLsb' 6 1 = 1
    nc := w.extractLsb' 5 1 = 1
    wb := w.extractLsb' 4 1 = 1
    promote := w.extractLsb' 3 1 = 1 }

def bitOf (b : Bool) : BitVec 1 := if b then 1 else 0

/-- The words of R23, R26 and R27. -/
def wordO (op : BitVec 8) (f : BitVec 6) (o : OpO) : Word :=
  op ++ bitOf o.pr.neg ++ o.pr.reg ++ o.d.numBits ++ o.a.numBits ++ o.b.numBits ++ o.c.numBits ++ f ++ o.d.clsBits ++
    o.a.clsBits ++ o.b.clsBits ++ o.c.clsBits ++ o.m

def wordI (op : BitVec 8) (o : OpI) : Word :=
  op ++ bitOf o.pr.neg ++ o.pr.reg ++ o.d.numBits ++ o.a.numBits ++ o.d.clsBits ++ o.a.clsBits ++ o.imm

def wordM (op : BitVec 8) (f : BitVec 6) (o : OpM) : Word :=
  op ++ bitOf o.pr.neg ++ o.pr.reg ++ o.d.numBits ++ o.a ++ o.off ++ f ++ o.scope ++ bitOf o.fresh ++ bitOf o.nc ++
    bitOf o.wb ++ bitOf o.promote ++ o.d.clsBits ++ bitOf o.aS

/-- Opcodes that an instruction has (R36). -/
def opAssigned (op : Nat) : Bool :=
  (decide (1 ≤ op) && decide (op ≤ 0x0A)) || (decide (0x30 ≤ op) && decide (op ≤ 0x36)) ||
  (decide (0x40 ≤ op) && decide (op ≤ 0x4E)) || (decide (0x50 ≤ op) && decide (op ≤ 0x5E)) ||
  (decide (0x60 ≤ op) && decide (op ≤ 0x67)) || (decide (0x70 ≤ op) && decide (op ≤ 0x77)) ||
  (decide (0x80 ≤ op) && decide (op ≤ 0x8D)) || (decide (0x90 ≤ op) && decide (op ≤ 0x9C)) ||
  (decide (0xA0 ≤ op) && decide (op ≤ 0xB7)) || (decide (0xC0 ≤ op) && decide (op ≤ 0xCA)) ||
  (decide (0xD0 ≤ op) && decide (op ≤ 0xDA))

/-- F under opcode 0x02. -/
def parse02 (w : Word) (f : Nat) : Option Instr :=
  match f with
  | 0 => some (.iadd (opO w))
  | 1 => some (.isub (opO w))
  | 2 => some (.iaddc (opO w))
  | 3 => some (.imul (opO w))
  | 4 => some (.imulh (opO w))
  | 5 => some (.imad (opO w))
  | 6 => some (.idiv (opO w))
  | 7 => some (.irem (opO w))
  | 8 => some (.imin (opO w))
  | 9 => some (.imax (opO w))
  | 10 => some (.iabs (opO w))
  | 11 => some (.ineg (opO w))
  | 12 => some (.idot4 (opO w))
  | 13 => some (.sad (opO w))
  | _ => none

/-- F under opcode 0x03. -/
def parse03 (w : Word) (f : Nat) : Option Instr :=
  match f with
  | 0 => some (.andB (opO w))
  | 1 => some (.orB (opO w))
  | 2 => some (.xorB (opO w))
  | 3 => some (.andnB (opO w))
  | 4 => some (.notB (opO w))
  | 5 => some (.shl (opO w))
  | 6 => some (.shr (opO w))
  | 7 => some (.sar (opO w))
  | 8 => some (.rotl (opO w))
  | 9 => some (.fshl (opO w))
  | 10 => some (.popc (opO w))
  | 11 => some (.clz (opO w))
  | 12 => some (.ctz (opO w))
  | 13 => some (.brev (opO w))
  | 14 => some (.bfx (opO w))
  | 15 => some (.bfi (opO w))
  | 16 => some (.prmt (opO w))
  | _ => none

/-- F under opcode 0x04. -/
def parse04 (w : Word) (f : Nat) : Option Instr :=
  match f with
  | 0 => some (.icmp (opO w))
  | 1 => some (.isel (opO w))
  | 2 => some (.pset (opO w))
  | 3 => some (.mov (opO w))
  | 4 => some (.lea (opO w))
  | _ => none

/-- F under opcode 0x32. -/
def parse32 (w : Word) (f : Nat) : Option Instr :=
  match f with
  | 2 => some (.frcp (opO w))
  | 3 => some (.frsq (opO w))
  | 4 => some (.fexp2 (opO w))
  | 5 => some (.flog2 (opO w))
  | 6 => some (.fsinpi (opO w))
  | 7 => some (.fcospi (opO w))
  | _ => none

/-- F under opcode 0x34. -/
def parse34 (w : Word) (f : Nat) : Option Instr :=
  match f with
  | 0 => some (.hadd2 (opO w))
  | 1 => some (.hmul2 (opO w))
  | 2 => some (.hfma2 (opO w))
  | _ => none

/-- F under opcode 0x36. -/
def parse36 (w : Word) (f : Nat) : Option Instr :=
  match f with
  | 0 => some (.pack6 (opO w))
  | 1 => some (.unpk6 (opO w))
  | 2 => some (.pack4 (opO w))
  | 3 => some (.unpk4 (opO w))
  | _ => none

/-- F under opcode 0x67. -/
def parse67 (w : Word) (f : Nat) : Option Instr :=
  match f with
  | 0 => some (.hintNext (opO w))
  | 1 => some (.hintFar (opO w))
  | 2 => some (.hintLikely (opO w))
  | 3 => some (.hintUnlikely (opO w))
  | _ => none

/-- F under opcode 0x77. -/
def parse77 (w : Word) (f : Nat) : Option Instr :=
  match f with
  | 0 => some (.prefL1 (opM w))
  | 1 => some (.prefL2 (opM w))
  | _ => none

/-- F under opcode 0x80. -/
def parse80 (w : Word) (f : Nat) : Option Instr :=
  match f with
  | 0 => some (.shflFrom (opO w))
  | 1 => some (.shflRot (opO w))
  | 2 => some (.shflShift (opO w))
  | 3 => some (.shflFlip (opO w))
  | _ => none

/-- F under opcode 0x81. -/
def parse81 (w : Word) (f : Nat) : Option Instr :=
  match f with
  | 0 => some (.voteOr (opO w))
  | 1 => some (.voteAnd (opO w))
  | 2 => some (.voteSame (opO w))
  | 3 => some (.voteMask (opO w))
  | _ => none

/-- F under opcode 0x82. -/
def parse82 (w : Word) (f : Nat) : Option Instr :=
  match f with
  | 0 => some (.reduxAdd (opO w))
  | 1 => some (.reduxMin (opO w))
  | 2 => some (.reduxMax (opO w))
  | 3 => some (.reduxAnd (opO w))
  | 4 => some (.reduxOr (opO w))
  | 5 => some (.reduxXor (opO w))
  | _ => none

/-- F under opcode 0x83. -/
def parse83 (w : Word) (f : Nat) : Option Instr :=
  match f with
  | 0 => some (.scanAdd (opO w))
  | 1 => some (.scanMin (opO w))
  | 2 => some (.scanMax (opO w))
  | 3 => some (.scanAnd (opO w))
  | 4 => some (.scanOr (opO w))
  | 5 => some (.scanXor (opO w))
  | _ => none

/-- F under opcode 0x84. -/
def parse84 (w : Word) (f : Nat) : Option Instr :=
  match f with
  | 0 => some (.matchPeers (opO w))
  | 1 => some (.matchLead (opO w))
  | _ => none

/-- F under opcode 0x89. -/
def parse89 (w : Word) (f : Nat) : Option Instr :=
  match f with
  | 0 => some (.bar (opO w))
  | 1 => some (.bara (opO w))
  | 2 => some (.barw (opO w))
  | _ => none

/-- F under opcode 0x8C. -/
def parse8C (w : Word) (f : Nat) : Option Instr :=
  match f with
  | 0 => some (.taskget (opO w))
  | 1 => some (.taskdone (opO w))
  | _ => none

/-- F under opcode 0x90. -/
def parse90 (w : Word) (f : Nat) : Option Instr :=
  match f with
  | 0 => some (.atomAdd (opO w))
  | 1 => some (.atomMin (opO w))
  | 2 => some (.atomMax (opO w))
  | 3 => some (.atomAnd (opO w))
  | 4 => some (.atomOr (opO w))
  | 5 => some (.atomXor (opO w))
  | 6 => some (.atomExch (opO w))
  | 7 => some (.atomInc (opO w))
  | 8 => some (.atomDec (opO w))
  | _ => none

/-- F under opcode 0x91. -/
def parse91 (w : Word) (f : Nat) : Option Instr :=
  match f with
  | 0 => some (.atomfAdd (opO w))
  | 1 => some (.atomfMin (opO w))
  | 2 => some (.atomfMax (opO w))
  | _ => none

/-- F under opcode 0x93. -/
def parse93 (w : Word) (f : Nat) : Option Instr :=
  match f with
  | 0 => some (.atomsAdd (opO w))
  | 1 => some (.atomsMin (opO w))
  | 2 => some (.atomsMax (opO w))
  | 3 => some (.atomsAnd (opO w))
  | 4 => some (.atomsOr (opO w))
  | 5 => some (.atomsXor (opO w))
  | 6 => some (.atomsExch (opO w))
  | 7 => some (.atomsInc (opO w))
  | 8 => some (.atomsDec (opO w))
  | _ => none

/-- F under opcode 0x94. -/
def parse94 (w : Word) (f : Nat) : Option Instr :=
  match f with
  | 0 => some (.redAdd (opO w))
  | 1 => some (.redMin (opO w))
  | 2 => some (.redMax (opO w))
  | 3 => some (.redAnd (opO w))
  | 4 => some (.redOr (opO w))
  | 5 => some (.redXor (opO w))
  | _ => none

/-- F under opcode 0x9C. -/
def parse9C (w : Word) (f : Nat) : Option Instr :=
  match f with
  | 0 => some (.cctlInv (opM w))
  | 1 => some (.cctlWb (opM w))
  | 2 => some (.cctlWbinv (opM w))
  | _ => none

/-- F under the floating opcodes 0x30 (FP32) and the next (FP64). -/
def parseFlt (dbl : Bool) (w : Word) (f : Nat) : Option Instr :=
  match f with
  | 0 => some (.fadd dbl (opO w))
  | 1 => some (.fsub dbl (opO w))
  | 2 => some (.fmul dbl (opO w))
  | 3 => some (.ffma dbl (opO w))
  | 4 => some (.fmin dbl (opO w))
  | 5 => some (.fmax dbl (opO w))
  | 6 => some (.fcmp dbl (opO w))
  | 7 => some (.fclass dbl (opO w))
  | 8 => some (.frnd dbl (opO w))
  | _ => none

/-- F under the floating opcodes 0x32 (FP32) and the next (FP64). -/
def parseFltDiv (dbl : Bool) (w : Word) (f : Nat) : Option Instr :=
  match f with
  | 0 => some (.fdiv dbl (opO w))
  | 1 => some (.fsqrt dbl (opO w))
  | _ => none

/-- The instruction that an opcode and an F select (R38 to R45), none where F is reserved. `f` is the function field of the
word's own format: [19:14] in format O, [15:10] in format M. -/
def parseOp (op f : Nat) (w lit : Word) : Option Instr :=
  match op with
  | 0x01 => some (.iaddI (opI w))
  | 0x02 => parse02 w f
  | 0x03 => parse03 w f
  | 0x04 => parse04 w f
  | 0x05 => some (.movI (opI w))
  | 0x06 => some (.andI (opI w))
  | 0x07 => some (.orI (opI w))
  | 0x08 => some (.xorI (opI w))
  | 0x09 => some (.imulI (opI w))
  | 0x0A => some (.movl (opO w) lit)
  | 0x32 => if f ≤ 1 then parseFltDiv false w f else parse32 w f
  | 0x30 => parseFlt false w f
  | 0x31 => parseFlt true w f
  | 0x33 => parseFltDiv true w f
  | 0x34 => parse34 w f
  | 0x35 => if f = 0 then some (.mxscan (opO w)) else none
  | 0x36 => parse36 w f
  | 0x60 => some (.bra (opI w))
  | 0x61 => if f = 0 then some (.brx (opO w)) else none
  | 0x62 => some (.call (opI w))
  | 0x63 => if f = 0 then some (.callx (opO w)) else none
  | 0x64 => if f = 0 then some (.ret (opO w)) else none
  | 0x65 => if f = 0 then some (.exit (opO w)) else none
  | 0x66 => if f = 0 then some (.nop (opO w)) else none
  | 0x67 => parse67 w f
  | 0x70 => (Width.ofCode f).map fun x => .ld x (opM w)
  | 0x71 => (Width.ofCode f).map fun x => .st x (opM w)
  | 0x72 => (Width.ofCode f).map fun x => .lds x (opM w)
  | 0x73 => (Width.ofCode f).map fun x => .sts x (opM w)
  | 0x74 => (Width.ofCode f).map fun x => .ldk x (opM w)
  | 0x75 => (Width.ofCode f).map fun x => .stk x (opM w)
  | 0x76 => (Width.ofCode f).map fun x => .ldw x (opM w)
  | 0x77 => parse77 w f
  | 0x80 => parse80 w f
  | 0x81 => parse81 w f
  | 0x82 => parse82 w f
  | 0x83 => parse83 w f
  | 0x84 => parse84 w f
  | 0x85 => if f = 0 then some (.elect (opO w)) else none
  | 0x86 => if f = 0 then some (.partset (opO w)) else none
  | 0x87 => if f = 0 then some (.exmget (opO w)) else none
  | 0x88 => if f = 0 then some (.exmset (opO w)) else none
  | 0x89 => parse89 w f
  | 0x8A => if f = 0 then some (.poll (opO w)) else none
  | 0x8B => if f = 0 then some (.yield (opO w)) else none
  | 0x8C => parse8C w f
  | 0x8D => if f ≤ 7 then some (.lvlid (BitVec.ofNat 3 f) (opO w)) else if f = 8 then some (.lvlidLane (opO w)) else none
  | 0x90 => parse90 w f
  | 0x91 => parse91 w f
  | 0x92 => if f = 0 then some (.cas (opO w)) else none
  | 0x93 => parse93 w f
  | 0x94 => parse94 w f
  | 0x95 => if f = 0 then some (.fence (opO w)) else none
  | 0x96 => (Width.ofCode f).map fun x => .ldacq x (opM w)
  | 0x97 => (Width.ofCode f).map fun x => .strel x (opM w)
  | 0x98 => if f = 0 then some (.tryOpen (opO w)) else none
  | 0x99 => if f = 0 then some (.commit (opO w)) else none
  | 0x9A => if f = 0 then some (.abort (opO w)) else none
  | 0x9B => some (.wait (opI w))
  | 0x9C => parse9C w f
  | 0xA0 => if f = 0 then some (if bit w.toNat 0 then .tcopySt (opO w) else .tcopyLd (opO w)) else none
  | 0xA1 => if f = 0 then some (.scopy (opO w)) else none
  | 0xA2 => if f = 0 then some (.mcast (opO w)) else none
  | 0xA3 => if f = 0 then some (.chain (opO w)) else none
  | 0xA4 => if f = 0 then some (.qinit (opO w)) else none
  | 0xA5 => if f = 0 then some (.qpush (opO w)) else none
  | 0xA6 => if f = 0 then some (.qpop (opO w)) else none
  | 0xA7 => some (.tagany (opI w))
  | 0xA8 => some (.tagall (opI w))
  | 0xA9 => if f = 0 then some (.tagff (opO w)) else none
  | 0xAA => some (.tagclr (opI w))
  | 0xAB => if f = 0 then some (.accz (opO w)) else none
  | 0xAC => if f = 0 then some (if bit w.toNat 0 then .accmvA (opO w) else .accmvV (opO w)) else none
  | 0xAD => if f = 0 then some (.accst (opO w)) else none
  | 0xAE => if f = 0 then some (.tmac (opO w)) else none
  | 0xAF => if f = 0 then some (.txpose (opO w)) else none
  | 0xC0 => if f = 0 then some (.trap (opO w)) else none
  | 0xC1 => if f = 0 then some (.rtt (opO w)) else none
  | 0xC2 => some (.srd (BitVec.ofNat 6 f) (opO w))
  | 0xC3 => some (.swr (BitVec.ofNat 6 f) (opO w))
  | 0xC4 => if f = 0 then some (.vbegin (opO w)) else none
  | 0xC5 => if f = 0 then some (.vend (opO w)) else none
  | 0xC6 => if f = 0 then some (.bkpt (opO w)) else none
  | 0xC7 => if f = 0 then some (.wpset (opO w)) else none
  | 0xC8 => if f = 0 then some (.halta (opO w)) else none
  | 0xC9 => if f = 0 then some (.dumpw (opO w)) else none
  | 0xCA => if f = 0 then some (.tlbinv (opO w)) else none
  | 0xD0 => if f = 0 then some (.interest (opO w)) else none
  | 0xD1 => if f = 0 then some (.announce (opO w)) else none
  | 0xD2 => if f = 0 then some (.leasereq (opO w)) else none
  | 0xD3 => if f = 0 then some (.leaseret (opO w)) else none
  | 0xD4 => if f = 0 then some (.signal (opO w)) else none
  | 0xD5 => if f = 0 then some (.sigwait (opO w)) else none
  | 0xD6 => if f = 0 then some (.xscale (opO w)) else none
  | 0xD7 => if f = 0 then some (.xsum (opO w)) else none
  | 0xD8 => if f = 0 then some (.xfin (opO w)) else none
  | 0xD9 => if f = 0 then some (.evpost (opO w)) else none
  | 0xDA => if f = 0 then some (.digest (opO w)) else none
  | _ =>
    if 0x40 ≤ op ∧ op ≤ 0x4E then if f < 16 then some (.cvt (BitVec.ofNat 4 (op - 0x40)) (BitVec.ofNat 4 f) (opO w)) else none
    else if 0x50 ≤ op ∧ op ≤ 0x5E then if f < 16 then some (.cvtq (BitVec.ofNat 4 (op - 0x50)) (BitVec.ofNat 4 f) (opO w)) else none
    else if 0xB0 ≤ op ∧ op ≤ 0xB3 then some (.mma (BitVec.ofNat 2 (op - 0xB0)) (BitVec.ofNat 6 f) (opO w))
    else if 0xB4 ≤ op ∧ op ≤ 0xB7 then some (.mmloop (BitVec.ofNat 2 (op - 0xB4)) (BitVec.ofNat 6 f) (opO w))
    else none

/-- Opcodes of format M (R42, R44). -/
def opIsM (op : Nat) : Bool :=
  (decide (0x70 ≤ op) && decide (op ≤ 0x77)) || decide (op = 0x96) || decide (op = 0x97) || decide (op = 0x9C)

/-- The instruction a word names, before the checks of R46 on its fields. -/
def parse (w lit : Word) : Option Instr :=
  let op := (w.extractLsb' 56 8).toNat
  parseOp op (if opIsM op then (w.extractLsb' 10 6).toNat else (w.extractLsb' 14 6).toNat) w lit

/-- The privilege checks of R332, which answer RESERVED-FUNCTION. -/
def privOk (env : DecEnv) : Instr → Bool
  | .swr reg _ => decide (reg.toNat < 32) || env.priv
  | .tlbinv _ => env.priv
  | .leasereq _ => env.priv
  | .leaseret _ => env.priv
  | .rtt _ => env.inh
  | _ => true

/-- The level checks of R159 and R333, which answer RESERVED-FIELD. -/
def levelOk (env : DecEnv) : Instr → Bool
  | .bar o => barLevel o.m
  | .bara o => barLevel o.m
  | .barw o => barLevel o.m
  | .halta o => decide (bits o.m.toNat 5 3 < env.nlvl)
  | _ => true
where
  barLevel (m : BitVec 6) : Bool :=
    let k := bits m.toNat 5 3
    decide (1 ≤ k) && decide (k < env.nlvl) && decide (nth 9 env.doms k ≤ 1)

/-- REGISTER-RANGE (R6, R7, R43, R217, R261). -/
def Use.inRange (env : DecEnv) : Use → Bool
  | .v k n => decide (k % n = 0) && decide (k + n ≤ env.bnd)
  | .vRange k n => decide (k + n ≤ env.bnd)
  | .s k n => decide (k % n = 0)
  | .acc k n => decide (k + n + env.bnd ≤ env.rows)

/-- Instructions that must be the last word of their block (R103, R217), with their causes. -/
def lastOnly : Instr → Option (BitVec 8)
  | .call _ => some 5
  | .callx _ => some 5
  | .tryOpen _ => some 6
  | _ => none

/-- The checks after the function checks, in the order of R47, then the target-alignment causes (R20). `fNonzero`: the F
bits of an L form's first word are not zero (R37). -/
def checkInstr (env : DecEnv) (isL fNonzero : Bool) (i : Instr) : Decoded :=
  if !(fnOk i && privOk env i) then .illegal .reservedFunction
  else if isL && env.last then .illegal .literalPastEnd
  else if !(fieldsOk i && levelOk env i) || (isL && fNonzero) then .illegal .reservedField
  else if !(uses i).all (Use.inRange env) then .illegal .registerRange
  else if !typesOk i then .illegal .unsupportedTypes
  else match lastOnly i with
    | some c => if env.last then .ok i else .align c
    | none => .ok i

/-- Decoding of the word at an instruction position, with the word after it (R34, R35, R46). -/
def decodeWord (env : DecEnv) (w lit : Word) : Decoded :=
  let op := (w.extractLsb' 56 8).toNat
  if 0xF0 ≤ op then .illegal .headerInBlock
  else if !opAssigned op then .illegal .reservedOpcode
  else match parse w lit with
    | none => .illegal .reservedFunction
    | some i => checkInstr env (op == 0x0A) (w.extractLsb' 14 6 != 0) i

/-- Decoding of bytes as they stand in memory (R21): a word is 8 bytes, little-endian; absent bytes of a literal are 0. -/
def decode (env : DecEnv) (bs : List Byte) : Decoded :=
  if bs.length < 8 then .short
  else decodeWord env (BitVec.ofNat 64 (ofBytes (bs.take 8))) (BitVec.ofNat 64 (ofBytes ((bs.drop 8).take 8)))

/-- The words of an instruction (R21 to R28, R38 to R45); a step of the device has none. -/
def encode : Instr → List Word
  | .iaddI o => [wordI 0x01 o]
  | .movI o => [wordI 0x05 o]
  | .andI o => [wordI 0x06 o]
  | .orI o => [wordI 0x07 o]
  | .xorI o => [wordI 0x08 o]
  | .imulI o => [wordI 0x09 o]
  | .movl o lit => [wordO 0x0A 0 o, lit]
  | .iadd o => [wordO 0x02 0 o]
  | .isub o => [wordO 0x02 1 o]
  | .iaddc o => [wordO 0x02 2 o]
  | .imul o => [wordO 0x02 3 o]
  | .imulh o => [wordO 0x02 4 o]
  | .imad o => [wordO 0x02 5 o]
  | .idiv o => [wordO 0x02 6 o]
  | .irem o => [wordO 0x02 7 o]
  | .imin o => [wordO 0x02 8 o]
  | .imax o => [wordO 0x02 9 o]
  | .iabs o => [wordO 0x02 10 o]
  | .ineg o => [wordO 0x02 11 o]
  | .idot4 o => [wordO 0x02 12 o]
  | .sad o => [wordO 0x02 13 o]
  | .andB o => [wordO 0x03 0 o]
  | .orB o => [wordO 0x03 1 o]
  | .xorB o => [wordO 0x03 2 o]
  | .andnB o => [wordO 0x03 3 o]
  | .notB o => [wordO 0x03 4 o]
  | .shl o => [wordO 0x03 5 o]
  | .shr o => [wordO 0x03 6 o]
  | .sar o => [wordO 0x03 7 o]
  | .rotl o => [wordO 0x03 8 o]
  | .fshl o => [wordO 0x03 9 o]
  | .popc o => [wordO 0x03 10 o]
  | .clz o => [wordO 0x03 11 o]
  | .ctz o => [wordO 0x03 12 o]
  | .brev o => [wordO 0x03 13 o]
  | .bfx o => [wordO 0x03 14 o]
  | .bfi o => [wordO 0x03 15 o]
  | .prmt o => [wordO 0x03 16 o]
  | .icmp o => [wordO 0x04 0 o]
  | .isel o => [wordO 0x04 1 o]
  | .pset o => [wordO 0x04 2 o]
  | .mov o => [wordO 0x04 3 o]
  | .lea o => [wordO 0x04 4 o]
  | .fadd dbl o => [wordO (if dbl then 0x31 else 0x30) 0 o]
  | .fsub dbl o => [wordO (if dbl then 0x31 else 0x30) 1 o]
  | .fmul dbl o => [wordO (if dbl then 0x31 else 0x30) 2 o]
  | .ffma dbl o => [wordO (if dbl then 0x31 else 0x30) 3 o]
  | .fmin dbl o => [wordO (if dbl then 0x31 else 0x30) 4 o]
  | .fmax dbl o => [wordO (if dbl then 0x31 else 0x30) 5 o]
  | .fcmp dbl o => [wordO (if dbl then 0x31 else 0x30) 6 o]
  | .fclass dbl o => [wordO (if dbl then 0x31 else 0x30) 7 o]
  | .frnd dbl o => [wordO (if dbl then 0x31 else 0x30) 8 o]
  | .fdiv dbl o => [wordO (if dbl then 0x33 else 0x32) 0 o]
  | .fsqrt dbl o => [wordO (if dbl then 0x33 else 0x32) 1 o]
  | .frcp o => [wordO 0x32 2 o]
  | .frsq o => [wordO 0x32 3 o]
  | .fexp2 o => [wordO 0x32 4 o]
  | .flog2 o => [wordO 0x32 5 o]
  | .fsinpi o => [wordO 0x32 6 o]
  | .fcospi o => [wordO 0x32 7 o]
  | .hadd2 o => [wordO 0x34 0 o]
  | .hmul2 o => [wordO 0x34 1 o]
  | .hfma2 o => [wordO 0x34 2 o]
  | .mxscan o => [wordO 0x35 0 o]
  | .pack6 o => [wordO 0x36 0 o]
  | .unpk6 o => [wordO 0x36 1 o]
  | .pack4 o => [wordO 0x36 2 o]
  | .unpk4 o => [wordO 0x36 3 o]
  | .cvt dst src o => [wordO (0x40 + dst.setWidth 8) (src.setWidth 6) o]
  | .cvtq dst src o => [wordO (0x50 + dst.setWidth 8) (src.setWidth 6) o]
  | .bra o => [wordI 0x60 o]
  | .brx o => [wordO 0x61 0 o]
  | .call o => [wordI 0x62 o]
  | .callx o => [wordO 0x63 0 o]
  | .ret o => [wordO 0x64 0 o]
  | .exit o => [wordO 0x65 0 o]
  | .nop o => [wordO 0x66 0 o]
  | .hintNext o => [wordO 0x67 0 o]
  | .hintFar o => [wordO 0x67 1 o]
  | .hintLikely o => [wordO 0x67 2 o]
  | .hintUnlikely o => [wordO 0x67 3 o]
  | .ld w o => [wordM 0x70 w.code o]
  | .st w o => [wordM 0x71 w.code o]
  | .lds w o => [wordM 0x72 w.code o]
  | .sts w o => [wordM 0x73 w.code o]
  | .ldk w o => [wordM 0x74 w.code o]
  | .stk w o => [wordM 0x75 w.code o]
  | .ldw w o => [wordM 0x76 w.code o]
  | .prefL1 o => [wordM 0x77 0 o]
  | .prefL2 o => [wordM 0x77 1 o]
  | .shflFrom o => [wordO 0x80 0 o]
  | .shflRot o => [wordO 0x80 1 o]
  | .shflShift o => [wordO 0x80 2 o]
  | .shflFlip o => [wordO 0x80 3 o]
  | .voteOr o => [wordO 0x81 0 o]
  | .voteAnd o => [wordO 0x81 1 o]
  | .voteSame o => [wordO 0x81 2 o]
  | .voteMask o => [wordO 0x81 3 o]
  | .reduxAdd o => [wordO 0x82 0 o]
  | .reduxMin o => [wordO 0x82 1 o]
  | .reduxMax o => [wordO 0x82 2 o]
  | .reduxAnd o => [wordO 0x82 3 o]
  | .reduxOr o => [wordO 0x82 4 o]
  | .reduxXor o => [wordO 0x82 5 o]
  | .scanAdd o => [wordO 0x83 0 o]
  | .scanMin o => [wordO 0x83 1 o]
  | .scanMax o => [wordO 0x83 2 o]
  | .scanAnd o => [wordO 0x83 3 o]
  | .scanOr o => [wordO 0x83 4 o]
  | .scanXor o => [wordO 0x83 5 o]
  | .matchPeers o => [wordO 0x84 0 o]
  | .matchLead o => [wordO 0x84 1 o]
  | .elect o => [wordO 0x85 0 o]
  | .partset o => [wordO 0x86 0 o]
  | .exmget o => [wordO 0x87 0 o]
  | .exmset o => [wordO 0x88 0 o]
  | .bar o => [wordO 0x89 0 o]
  | .bara o => [wordO 0x89 1 o]
  | .barw o => [wordO 0x89 2 o]
  | .poll o => [wordO 0x8A 0 o]
  | .yield o => [wordO 0x8B 0 o]
  | .taskget o => [wordO 0x8C 0 o]
  | .taskdone o => [wordO 0x8C 1 o]
  | .lvlid k o => [wordO 0x8D (k.setWidth 6) o]
  | .lvlidLane o => [wordO 0x8D 8 o]
  | .atomAdd o => [wordO 0x90 0 o]
  | .atomMin o => [wordO 0x90 1 o]
  | .atomMax o => [wordO 0x90 2 o]
  | .atomAnd o => [wordO 0x90 3 o]
  | .atomOr o => [wordO 0x90 4 o]
  | .atomXor o => [wordO 0x90 5 o]
  | .atomExch o => [wordO 0x90 6 o]
  | .atomInc o => [wordO 0x90 7 o]
  | .atomDec o => [wordO 0x90 8 o]
  | .atomfAdd o => [wordO 0x91 0 o]
  | .atomfMin o => [wordO 0x91 1 o]
  | .atomfMax o => [wordO 0x91 2 o]
  | .cas o => [wordO 0x92 0 o]
  | .atomsAdd o => [wordO 0x93 0 o]
  | .atomsMin o => [wordO 0x93 1 o]
  | .atomsMax o => [wordO 0x93 2 o]
  | .atomsAnd o => [wordO 0x93 3 o]
  | .atomsOr o => [wordO 0x93 4 o]
  | .atomsXor o => [wordO 0x93 5 o]
  | .atomsExch o => [wordO 0x93 6 o]
  | .atomsInc o => [wordO 0x93 7 o]
  | .atomsDec o => [wordO 0x93 8 o]
  | .redAdd o => [wordO 0x94 0 o]
  | .redMin o => [wordO 0x94 1 o]
  | .redMax o => [wordO 0x94 2 o]
  | .redAnd o => [wordO 0x94 3 o]
  | .redOr o => [wordO 0x94 4 o]
  | .redXor o => [wordO 0x94 5 o]
  | .fence o => [wordO 0x95 0 o]
  | .ldacq w o => [wordM 0x96 w.code o]
  | .strel w o => [wordM 0x97 w.code o]
  | .tryOpen o => [wordO 0x98 0 o]
  | .commit o => [wordO 0x99 0 o]
  | .abort o => [wordO 0x9A 0 o]
  | .wait o => [wordI 0x9B o]
  | .cctlInv o => [wordM 0x9C 0 o]
  | .cctlWb o => [wordM 0x9C 1 o]
  | .cctlWbinv o => [wordM 0x9C 2 o]
  | .tcopyLd o => [wordO 0xA0 0 o]
  | .tcopySt o => [wordO 0xA0 0 o]
  | .scopy o => [wordO 0xA1 0 o]
  | .mcast o => [wordO 0xA2 0 o]
  | .chain o => [wordO 0xA3 0 o]
  | .qinit o => [wordO 0xA4 0 o]
  | .qpush o => [wordO 0xA5 0 o]
  | .qpop o => [wordO 0xA6 0 o]
  | .tagany o => [wordI 0xA7 o]
  | .tagall o => [wordI 0xA8 o]
  | .tagff o => [wordO 0xA9 0 o]
  | .tagclr o => [wordI 0xAA o]
  | .accz o => [wordO 0xAB 0 o]
  | .accmvV o => [wordO 0xAC 0 o]
  | .accmvA o => [wordO 0xAC 0 o]
  | .accst o => [wordO 0xAD 0 o]
  | .tmac o => [wordO 0xAE 0 o]
  | .txpose o => [wordO 0xAF 0 o]
  | .mma shape ty o => [wordO (0xB0 + shape.setWidth 8) ty o]
  | .mmloop shape ty o => [wordO (0xB4 + shape.setWidth 8) ty o]
  | .trap o => [wordO 0xC0 0 o]
  | .rtt o => [wordO 0xC1 0 o]
  | .srd reg o => [wordO 0xC2 reg o]
  | .swr reg o => [wordO 0xC3 reg o]
  | .vbegin o => [wordO 0xC4 0 o]
  | .vend o => [wordO 0xC5 0 o]
  | .bkpt o => [wordO 0xC6 0 o]
  | .wpset o => [wordO 0xC7 0 o]
  | .halta o => [wordO 0xC8 0 o]
  | .dumpw o => [wordO 0xC9 0 o]
  | .tlbinv o => [wordO 0xCA 0 o]
  | .interest o => [wordO 0xD0 0 o]
  | .announce o => [wordO 0xD1 0 o]
  | .leasereq o => [wordO 0xD2 0 o]
  | .leaseret o => [wordO 0xD3 0 o]
  | .signal o => [wordO 0xD4 0 o]
  | .sigwait o => [wordO 0xD5 0 o]
  | .xscale o => [wordO 0xD6 0 o]
  | .xsum o => [wordO 0xD7 0 o]
  | .xfin o => [wordO 0xD8 0 o]
  | .evpost o => [wordO 0xD9 0 o]
  | .digest o => [wordO 0xDA 0 o]
  | .versionIrrevocable _ => []
  | .deferredTrap _ => []
  | .loadComplete _ => []
  | .storeComplete _ => []
  | .atomicComplete _ => []
  | .engineCommandComplete _ => []
  | .queuePushPerform _ => []
  | .queuePopPerform _ => []
  | .matrixStep _ => []
  | .txposeGroup _ => []
  | .l1Eviction _ _ => []
  | .launchCommand _ => []
  | .placementAttempt => []
  | .unitBlocking _ _ => []
  | .resourceReport _ => []
  | .coreLaunchReport _ _ => []
  | .dealChunk _ => []
  | .warpUrgent _ => []
  | .pollBackoffEnd _ => []
  | .yieldTimeout _ => []
  | .preemptRequest _ _ => []
  | .drainDeadline _ => []
  | .blockSave _ => []
  | .pinWrite _ _ => []
  | .pinActivate _ => []
  | .pinRelease _ => []
  | .migrationStart _ _ _ _ => []
  | .migrationChunkCopy _ _ => []
  | .migrationRelease _ _ => []
  | .scrubLine _ _ _ => []
  | .sampleRow => []
  | .traceTag _ _ _ => []
  | .traceRow _ _ _ => []
  | .dbgHalt _ => []
  | .dbgResume _ => []
  | .dbgResumePc _ => []
  | .dbgHaltCtx _ => []
  | .dbgResumeCtx _ => []
  | .dbgRefused _ => []
  | .readShared _ _ _ => []
  | .readExclusive _ _ _ => []
  | .writeBack _ _ _ _ _ => []
  | .invalidatePkt _ _ => []
  | .recallPkt _ _ _ => []
  | .atomicPkt _ _ => []
  | .responsePkt _ _ => []
  | .sackPkt _ _ _ _ => []
  | .sackDue _ => []
  | .packetReserved _ => []
  | .retransmitTimeout _ _ => []
  | .peerUnreachable _ => []
  | .portFailure _ => []
  | .portReady _ => []
  | .flitGroup _ _ _ _ _ _ => []
  | .linkNak _ _ => []
  | .keyRotate _ => []
  | .keySlotClear _ => []
  | .postPkt _ _ => []
  | .harpTick => []
  | .harpLoss _ => []
  | .eventPkt _ => []
  | .resendPkt _ _ => []
  | .missingEventTimeout => []
  | .applySubmit => []
  | .applyFinish => []
  | .applyBlock => []
  | .applyUnblock => []
  | .applyFault => []
  | .applyLoss => []
  | .applyJoin => []
  | .applyReserve => []
  | .applyGrant => []
  | .applyReclaim => []
  | .applyReturn => []
  | .applyDone => []
  | .applyRevoke => []
  | .applyTick => []
  | .applyUser => []
  | .applyReservedEvent => []
  | .reportPkt _ _ _ => []
  | .snapreq _ _ => []
  | .snapPkt _ _ => []
  | .lyreReady => []
  | .leasereqPacket _ _ _ _ _ _ _ => []
  | .leasenak _ => []
  | .leaseFillChunk _ => []
  | .leaseCopybackChunk _ _ => []
  | .leaseDeadline _ => []
  | .interestPacket _ _ _ _ => []
  | .tilePkt _ _ _ _ _ _ => []
  | .interestRetry _ => []
  | .waiterExpiry _ => []
  | .notifyPkt _ _ => []
  | .ctxCreate _ => []
  | .ctxDestroy _ => []
  | .keyInstall _ => []
  | .resetRelease _ _ => []
  | .startCheck => []
  | .functionReady _ => []
  | .functionFail _ => []
  | .functionDisable _ => []
  | .functionEnable _ _ => []
  | .powerAverage _ => []
  | .thermalReset => []
  | .registerWrite _ _ => []
  | .pollAttemptResolved _ => []
  | .sigwaitReadResult _ => []

/-- A warp against which every field of a well-formed word passes: 256 v registers, the whole pool, eight levels bound to
the core, PRIV and INH set. -/
def openEnv (last : Bool) : DecEnv :=
  { bnd := 256, rows := 8192, nlvl := 8, doms := [0, 0, 0, 0, 0, 0, 0, 0], priv := true, inh := true, last := last }

/-- The instruction that the decoder reads from the low `nbits` bits of `w`, laid out from the lowest address with zero
bytes above: as an open warp would read it, a word that must be its block's last standing last. -/
def decodeTableWord (nbits w : Nat) : Option Instr :=
  let bs := toBytes 16 (w % 2 ^ nbits)
  match decode (openEnv false) bs with
  | .ok i => some i
  | .align _ => match decode (openEnv true) bs with | .ok i => some i | _ => none
  | _ => none

end Sys2Proof
end

