-- ==== Sys2Proof/Machine/Map.lean ====
section
/-! DEFINITION. The one sparse map in which registers, memory, caches and tables are held: a list of key and value pairs
with strictly rising keys and no entry equal to what an unlisted key reads as. -/

namespace Sys2Proof

/-- The value at a key: the listed one, else `d`. -/
def look (d : α) : FMap α → Nat → α
  | [], _ => d
  | (k', v) :: m, k => if k' = k then v else look d m k

/-- The map with the entries of a key taken out. -/
def mapDel : FMap α → Nat → FMap α
  | [], _ => []
  | (k', v) :: m, k => if k' = k then mapDel m k else (k', v) :: mapDel m k

/-- The map with a value listed at a key, in key order. -/
def mapIns : FMap α → Nat → α → FMap α
  | [], k, v => [(k, v)]
  | (k', v') :: m, k, v =>
    if k < k' then (k, v) :: (k', v') :: m
    else if k = k' then (k, v) :: m
    else (k', v') :: mapIns m k v

/-- The map that reads `v` at `k` and as before elsewhere; writing the default unlists the key. -/
def put [DecidableEq α] (d : α) (m : FMap α) (k : Nat) (v : α) : FMap α :=
  if v = d then mapDel m k else mapIns m k v

/-- Every key of the map is above `k`. -/
def mapAbove (k : Nat) (m : FMap α) : Bool := m.all fun e => decide (k < e.1)

/-- The canonical form: keys strictly rising, no entry equal to the default. -/
def mapWf [DecidableEq α] (d : α) : FMap α → Bool
  | [] => true
  | (k, v) :: m => decide (v ≠ d) && mapAbove k m && mapWf d m

/-- Writes of consecutive values from a key on. -/
def putRun [DecidableEq α] (d : α) (m : FMap α) (k : Nat) : List α → FMap α
  | [] => m
  | v :: vs => putRun d (put d m k v) (k + 1) vs

/-- `n` consecutive values from a key on. -/
def lookRun (d : α) (m : FMap α) (k n : Nat) : List α := (List.range n).map fun i => look d m (k + i)

/-- The map without the keys in [lo, hi). -/
def mapCut (m : FMap α) (lo hi : Nat) : FMap α := m.filter fun e => !(decide (lo ≤ e.1) && decide (e.1 < hi))

end Sys2Proof
end

