-- ==== Sys2Proof/Machine/State.lean ====
section
/-! DEFINITION. The state of one S8 device and of the Harp of its pod, as plain data, and the state after reset.
A field's comment gives its width, the rule that names it and its reset or launch value. Other devices, hosts, the
management interface and the debugger are outside: they act through `agenda`, and what the device sends them stands
in `outbox`. -/

namespace Sys2Proof.Machine

/-! ## One warp -/

/-- One lane of one pool row: a 32-bit element and its poison bit (R5, R8, R138). -/
structure VEl where
  val : W32 := 0
  psn : Bool := false
deriving DecidableEq, Repr

/-- An s register and its poison bit (R5, R8). -/
structure SEl where
  val : Word := 0
  psn : Bool := false
deriving DecidableEq, Repr

/-- One lane of a predicate and its poison bit (R5, R8). -/
structure PEl where
  val : Bool := false
  psn : Bool := false
deriving DecidableEq, Repr

/-- An entry of the reconvergence stack (R105). -/
structure REntry where
  rc    : Word
  none  : Bool
  ppc   : Word
  phoff : Nat
  pend  : W32
  split : W32
  depth : Nat
  hw    : Word := 0              -- the splitting block's header word as read at its entry
deriving DecidableEq, Repr

/-- The handler state TSTATE (R299, R315). -/
structure TState where
  exm     : W32 := 0
  part    : BitVec 8 := 0
  flg     : BitVec 8 := 0
  rdepth  : Nat := 0
  cdepth  : Nat := 0
  dbl     : Bool := false
  hdr     : Word := 0
  s62     : SEl := {}
  s63     : SEl := {}
  p       : FMap PEl := []
  fepc    : Word := 0
  ftcause : W32 := 0
  ftaddr  : Word := 0
  stcause : W32 := 0
deriving DecidableEq, Repr

/-- The checkpoint that TRY takes (R217), with the address of the header after the TRY and the TRY's D. -/
structure TryCk where
  ver    : Nat := 0
  k      : Nat := 0
  n      : Nat := 0
  v      : FMap VEl := []
  p      : FMap PEl := []
  exm    : W32 := 0
  part   : BitVec 8 := 0
  flg    : BitVec 8 := 0
  rdepth : Nat := 0
  cdepth : Nat := 0
  dreg   : Nat := 7
  next   : Word := 0
  hdr    : Word := 0
  hw     : Word := 0
deriving DecidableEq, Repr

/-- A trap condition: class and cause (R291), the address for TADDR, and the origin kind for TCAUSE (R292). -/
structure TrapInfo where
  cls    : BitVec 8
  cause  : BitVec 8
  addr   : Word := 0
  origin : Origin := .none
  deferred : Bool := false
deriving DecidableEq, Repr

/-- A watchpoint hit: the watchpoints, the lanes, the lowest lane's address (R323). -/
structure WatchHit where
  wps  : Nat := 0
  hit  : W32 := 0
  addr : Word := 0
deriving DecidableEq, Repr

/-- What holds a warp from issuing, where the instruction itself is not simply tried again (R171, R174, R157, R175,
R411, R343, R344, R221). -/
inductive Wait where
  | none
  | barrier (lvl id gen : Nat) (d : Opnd) (mask : W32)
  | poll (va : Word) (wide : Bool) (cmp : Word) (cond : Nat) (scope : Nat) (d : Opnd) (mask : W32) (id : Nat)
  | backoff (until_ : Nat)
  | yield (others : List (Nat × Nat)) (until_ : Nat)
  | sigwait (va : Word) (thr : Word) (scope : Nat) (acq : Bool) (d : Opnd) (mask : W32) (id : Nat)
  | halta (targets : List (Nat × Nat)) (d : Opnd) (mask : W32)     -- by block and linear index
  | dump (n : Nat)                                             -- the dump of a halted warp, in the order of halts, R346
  | dumpw (a : Word) (b : Word) (d : Opnd) (mask : W32)
  | aborting (code : BitVec 8) (stop : Option TrapInfo) (h : WatchHit)
deriving DecidableEq, Repr

/-- Whether a warp runs, is stopped by a debug stop (R324), halted (R302), retired (R108) or taken off its core
(R309). -/
inductive Status where
  | absent | run | stopped | halted | retired
deriving DecidableEq, Repr

/-- A watchpoint (R322). -/
structure Watch where
  addr : Word := 0
  ctl  : BitVec 8 := 0
deriving DecidableEq, Repr

/-- One warp: its registers (R5, R9), its place (R127, R142), its stacks (R105) and what it waits for. -/
structure Warp where
  status  : Status := .absent    -- R108 R302 R324
  ctx     : Nat := 0             -- 16; context id, R190 R435
  launch  : Nat := 0             -- the launch it belongs to, R131
  blk     : Nat := 0             -- its block, R130
  lin     : Nat := 0             -- linear index within the block, R142
  lvl     : FMap Nat := []       -- 8 x 32; LVL0-LVL7, R9 R135
  exist   : W32 := 0             -- 32; lanes that exist, R134
  alive   : W32 := 0             -- 32; lanes not retired, R108 R136
  rows    : Nat := 0             -- 16; pool rows held, R138
  bnd     : Nat := 0             -- 16; BND, R9 R139
  exm     : W32 := 0             -- 32; EXM, R9 R136
  part    : BitVec 8 := 32       -- 8; PART, R9 R137
  vcnt    : W32 := 0xFFFFFFFF    -- 32; VCNT, R9 R143
  flg     : BitVec 8 := 0        -- 8; FLG, R9 R58
  tcause  : W32 := 0             -- 32; TCAUSE with INH in bit 30, R9 R292
  taddr   : Word := 0            -- 64; TADDR, R9
  epc     : Word := 0            -- 64; EPC, R9
  seed    : Word := 0            -- 64; SEED, R9 R56
  rsel    : Nat := 0             -- 4; RSEL, R334
  pc      : Word := 0            -- 64; program counter, R10 R314
  hdr     : Word := 0            -- 64; address of the current block's header, R105
  hw      : Word := 0            -- 64; the header word as read at entry, R30 R105
  atHead  : Bool := false        -- 1; pc is at a header that is still to be entered, R10 R108
  reread  : Bool := false        -- 1; restored, with headers (those whose word is 0) still to be read again, R105 R314
  v       : FMap VEl := []       -- rows x 32 x 32; pool rows with lane poison, key 32 row + lane, R5 R8 R138
  s       : FMap SEl := []       -- 64 x 64; s0-s63 with poison, R5 R8
  p       : FMap PEl := []       -- 8 x 32; p0-p6 with poison, key 32 k + lane, R5 R8
  rstk    : List REntry := []    -- 32 entries; reconvergence stack, top first, R105
  cstk    : List Word := []      -- 32 entries; call stack, top first, R105
  tst     : TState := {}         -- TSTATE, R299 R315
  tryOpen : Bool := false        -- 1; TRYST.OPEN, R224
  tryDone : Bool := false        -- 1; TRYST.DONE, R224
  tryCode : BitVec 8 := 0        -- 8; TRYST.CODE, R224
  tryUser : BitVec 8 := 0        -- 8; TRYST.USER, R224
  amask   : W32 := 0             -- 32; TRYST.AMASK, R224
  ck      : TryCk := {}          -- the try checkpoint, R217
  ahi     : Nat := 0             -- 16; AHI, R218
  tskValid : Bool := false       -- 1; TSKID.VALID, R154
  tskVers : Bool := false        -- 1; TSKID.VERS, R154
  tskIdx  : W32 := 0             -- 32; TSKID.INDEX, R154
  tskVer  : Nat := 0             -- 8; version tag of the held task, R305
  tskAge  : Nat := 0             -- order of the TASKGET that drew the held task, R306
  origin  : Origin := .none      -- 4; origin record: kind, R295
  originA : Word := 0            -- 64; origin record: address, R295
  ucSticky : Bool := false       -- 1; an uncorrectable error was delivered, R297
  ueHalt  : Bool := false        -- 1; uncorrectable error in the warp's own state is pending, R297
  deferred : List TrapInfo := [] -- pending deferred traps, oldest first, R199 R211
  wp      : FMap Watch := []     -- 4 x (64 + 8); WADDRk, WCTLk, R322
  skipWp  : Bool := false        -- 1; the instruction at skipPc runs once without the watchpoint check, R323
  skipBk  : Bool := false        -- 1; the BKPT at skipPc executes once as NOP, R341
  skipPc  : Word := 0            -- 64; where the warp was resumed after a stop, R323 R341
  haltReq : Bool := false        -- 1; a HALT-REQUEST is pending, R343
  wait    : Wait := .none        -- what the warp is held by
  prio    : Nat := 0             -- 2; issue priority, R157
  basePrio : Nat := 0            -- 2; PRIO of the launch's level 0, R132 R157
  pollK   : Nat := 0             -- consecutive failed POLLs, R157
  lastIssue : Nat := 0           -- clock of the last issue, R156 R158
  issues  : Nat := 0             -- instructions issued since placement, R175
  ready0  : Nat := 0             -- clock since which the warp has been ready, R156
  urgent  : Bool := false        -- 1; urgent, R156
deriving DecidableEq, Repr

/-! ## Operations in flight -/

/-- Where one lane's access goes: an intermediate address (R14, R192), a byte of a core's scratchpad (R116), or
nowhere, because Translate answered MISS or the address register was poisoned (R18, R16). -/
inductive Loc where
  | mem (ia : Nat)
  | spad (cid off : Nat)
  | miss (psn : Bool)
deriving DecidableEq, Repr

/-- One lane's part of a load, store or atomic. -/
structure Acc where
  lane : Nat
  va   : Word
  loc  : Loc
  n    : Nat
  data : List Byte := []
  opnd : Word := 0
  newv : Word := 0
  done : Bool := false
  live : Nat := 256           -- v registers from here on take nothing: a block entered since has made them dead (R12)
deriving DecidableEq, Repr

/-- Which operation an entry of `ops` is. -/
inductive OpKind where
  | load (w : Width) (d : Opnd)
  | store
  | rmw (op : RmwOp) (wide signed : Bool) (d : Option Opnd)
  | xfin (fmt rm : Nat) (d : Opnd)
  | cctl (inv wb : Bool) (dev : Bool)
  | tlbinv (page n since : Nat)      -- since: the next number when its entries were dropped, 0 before that (R347)
  | fence
deriving DecidableEq, Repr

/-- An outstanding load, store, atomic, LDACQ, STREL, FENCE, CCTL or TLBINV (R203 to R216, R347). Counts of OCNT, pending
register elements and transaction entries are read off this list. -/
structure Op where
  id     : Nat
  warp   : Nat
  launch : Nat
  core   : Nat
  ctx    : Nat
  kind   : OpKind
  accs   : List Acc
  scope  : Nat := 0
  acq    : Bool := false
  rel    : Bool := false
  hold   : Bool := false      -- LDACQ: holds the issue of later accesses (R214)
  prom   : Bool := false
  fresh  : Bool := false
  nc     : Bool := false
  wb     : Bool := false
  ver    : Nat := 0           -- version tag whose held bytes it reads or writes, 0 for none (R219, R305)
  lanes  : W32 := 0           -- of a uniform load: the lanes for which its one access is made (R121, R232)
  seed   : Word := 0          -- SEED at issue (R56)
  fails  : List (Nat × TrapInfo) := []   -- by lane
  flags  : BitVec 8 := 0
deriving DecidableEq, Repr

/-- One 16-byte sector that an engine command reads (R249, R250): its place in the warp's address space (an address divided
by 16; scratchpad offsets stand above 2^64), where it lies, and what was read of it. -/
structure Src where
  key : Nat
  loc : Loc
  got : Option (List Byte × Origin) := none
deriving DecidableEq, Repr

/-- A shape record as read at issue (R246). -/
structure ShapeRec where
  base  : Word
  scale : Word
  fmt   : Nat
  sf    : Nat
  ndim  : Nat
  rm    : Nat
  satf  : Bool
  pad   : Bool
  text  : List Nat
  strd  : List Int
  ext   : List Nat
  orig  : List Nat
deriving DecidableEq, Repr

/-- A stream pattern record as read at issue (R252), with the index values read then (R253): none where a read failed. -/
structure StreamRec where
  base  : Word
  cnt   : List Nat
  strd  : List Int
  istr  : Int
  fmt   : Nat
  ind   : Bool
  idxd  : Nat
  isgn  : Bool
  spm   : Bool
  ibase : Word
  idx   : List (Option Int) := []
deriving DecidableEq, Repr

/-- An operation slot of a chain record (R254). -/
structure ChainOp where
  opc : Nat
  d   : Nat
  x   : Nat
  y   : Nat
  z   : Nat
deriving DecidableEq, Repr

/-- A chain record as read at issue (R254). -/
structure ChainRec where
  srcA : Word
  srcB : Word
  dst  : Word
  cf   : Nat
  rm   : Nat
  sat  : Bool
  ks   : List Nat
  ops  : List ChainOp
deriving DecidableEq, Repr

/-- The fields of a matrix progress record that are the command's own (R269); offsets and increments mean what its entry
states. -/
structure MatRec where
  f    : Nat := 0
  rm   : Nat := 0
  acc  : Nat := 0
  aoff : Nat := 0
  boff : Nat := 0
  da   : Int := 0
  db   : Int := 0
deriving DecidableEq, Repr

/-- What an engine command does when it runs, in the terms of its records as read at issue. -/
inductive CmdKind where
  | done                                                       -- nothing is left but completion
  | tcopy (sh : ShapeRec) (off : Nat) (store : Bool)           -- TCOPY, R275
  | mcast (sh : ShapeRec) (off : Nat)                          -- MCAST, R275
  | scopy (a b : StreamRec) (rm : Nat) (satf : Bool)           -- R276
  | chain (c : ChainRec) (a : StreamRec) (b : Option StreamRec) (d : StreamRec)  -- R255
  | qinit (qoff : Nat) (val : Word)                            -- R278
  | qpush (qoff soff lsz : Nat)                                -- R279
  | qpop (qoff doff lsz : Nat)                                 -- R279
  | mat (m : MatRec) (recs : List Byte)                        -- matrix commands; `recs`: the records of a TMAC
  | tmacFail (m : MatRec) (rows : Nat)                         -- a TMAC whose record failed, R286
  | interest (name : TileName) (size deadline : Nat)           -- R377
  | announce (name : TileName) (size : Nat) (sent : Bool)      -- R378; sent: published, its home has not answered
  | leasereq (tag lender bound npages fbtab bbase : Nat)       -- R407; the request as sent, IAs of FBTAB and BBASE
  | leaseret (lid gseq : Nat)                                  -- R409
  | evpost (ev : Rec8) (sent : Bool) (seq atime : Nat)         -- R416, R417; seq: 0 until the Harp has answered
  | answer (err : Nat) (ws : List (Nat × Word))                -- record words to be written at completion (R408, R417)
deriving DecidableEq, Repr

/-- An engine or matrix command in flight (R241, R250, R264, R273). Pending marks, ownership, the COPIES and TILES
counts and pending pool rows are read off this list. -/
structure Cmd where
  id      : Nat := 0
  warp    : Nat := 0
  launch  : Nat := 0
  blk     : Nat := 0
  core    : Nat := 0
  wid     : Nat := 0
  ctx     : Nat := 0
  opc     : Nat                -- major opcode, R321
  tag     : Option Nat := none
  tiles   : Bool := false      -- counted in TILES, else in COPIES (R273)
  vcnt    : Nat := 0           -- VCNT read at issue (R143)
  seed    : Word := 0          -- SEED read at issue (R56, R57)
  tver    : Nat := 0           -- version tag of the task that issued it
  kind    : CmdKind
  src     : List Src := []     -- sectors read as loads of the warp at issue
  dst     : List (Nat × Loc) := []   -- destination sectors by key
  rows    : List Nat := []     -- pool rows pending (R262)
  dead    : List (Nat × W32) := []  -- blocks entered since: from which v register on, in which lanes, it writes nothing (R12)
  err     : Nat := 0           -- cause of R243 and R321, 0 for none
  first   : Nat := 0           -- FIRST, R321
  nfail   : Nat := 0           -- NFAIL, R321
  rec_    : Word := 0          -- VA of the command's record, R321
  arrived : Nat := 0           -- of a queue command: the clock plus 1 of its arrival at the queue engine, R257
  held    : Bool := false      -- of a queue command: it found its queue full or empty, R257
  word    : Option (Nat × Nat) := none  -- of a queue command that has arrived: where its control word lies, R257
  sdone   : Nat := 0           -- SDONE, R269
  sleft   : Nat := 1           -- SLEFT, R269
  bad     : List Nat := []     -- elements in which a datapath mismatch was found (R304)
  rerun   : Nat := 0           -- mismatches found in the coming matrix step (R304)
deriving DecidableEq, Repr

/-! ## Cores, blocks, launches -/

/-- A scratchpad region held on a core for one unit (R140, R141). -/
structure Region where
  launch : Nat
  level  : Nat
  unit   : Nat
  base   : Nat      -- first line
  lines  : Nat
deriving DecidableEq, Repr

/-- Per-core state that is not a warp's (R242, R321, R324, R330). -/
structure Core where
  tagDone : Word := 0            -- 64; TAGS DONE, R242
  tagErr  : Word := 0            -- 64; TAGS ERR, R242
  tagName : Word := 0            -- 64; tags whose last setting was a named-tile delivery with err 0, R398
  engLog  : List (List Word) := []   -- 64 records of 4 words, newest first, R321
  dbgRing : List (List Word) := []   -- 16 records of 5 words, newest first, R324
  errs    : Nat := 0             -- error counter, R303
  tlog    : Nat := 16            -- 5; TLOG, R330, reset 16
  regions : List Region := []    -- regions held, R140
  pseq    : Nat := 0             -- sequence number of the last placement received, R149
  tagged  : FMap (List Nat) := []  -- per sub-core: the tagged instructions being followed, oldest first, five numbers each, R330
  tagLeft : FMap Nat := []       -- per sub-core: issues left before the next tag, R330
  dead    : Bool := false        -- halted by a forbidden placement, R149
  slots   : FMap (List (Nat × Nat)) := []  -- per sub-core: its last issues, by clock and pipe taken; 8 + pipe: pipe held, R155
  tagAt   : FMap Nat := []       -- by tag, the clock plus 1 at which it was last set, R19
deriving DecidableEq, Repr

/-- A named barrier of a unit (R171). -/
structure Barrier where
  gen : Nat := 0
  arr : Nat := 0
  n   : Nat := 0
  abandoned : Bool := false
  since : Nat := 0               -- the clock after that of the halt that abandoned it, R173
deriving DecidableEq, Repr

/-- A level of a launch (R127 to R132). -/
structure Level where
  ext   : Nat
  dom   : Nat
  scope : Nat
  prio  : Nat
  spad  : Nat
deriving DecidableEq, Repr

/-- A job card (R150). -/
structure JobCard where
  recs  : Word
  nrec  : Nat
  rsize : Nat
  minch : Nat
deriving DecidableEq, Repr

/-- A launch as the distributor holds it (R131, R147 to R154). -/
structure Launch where
  recVA   : Word := 0
  doneVA  : Word := 0
  ctx     : Nat := 0
  order   : Nat := 0             -- acceptance order, R147
  came    : Nat × Nat := (0, 0)  -- clock and fabric port of its command, R147
  entry   : Word := 0
  args    : Word := 0
  gang    : Nat := 0
  l1wb    : Bool := false
  det     : Bool := false
  vers    : Bool := false
  idem    : Bool := false
  lanes   : Nat := 0
  bnd     : Nat := 0
  rows    : Nat := 0
  expcyc  : Nat := 0
  levels  : List Level := []
  job     : Option JobCard := none
  next    : Nat := 0             -- next undealt index, R153
  rem     : Nat := 0             -- records not yet dealt, R153
  redeal  : List Nat := []       -- re-deal queue, R153 R307
  tries   : FMap Nat := []       -- re-deals made of an index, R307
  undone  : List Nat := []       -- dealt indexes without a TASKDONE, R154
  asks    : List (Nat × Nat) := []  -- the blocks that ask for a chunk, in the order of service: clock, linear index, R153
  dealtAt : Nat := 0             -- the clock plus 1 of the last request served, R153
  chunkNo : Nat := 0             -- chunks dealt under DET = 1, R153
  chunks  : FMap (List Nat) := []  -- indexes left in a block's chunk, by the block's linear index, R153 R154
  prime   : Word := 0            -- VA of the commit bitmap at a takeover, 0 for none, R388
  dieOf   : FMap Nat := []       -- die (plus 1) to which a die-bound unit is fixed, R152
  unread  : Bool := false        -- its record has not been read yet, R131
  head    : List Nat := []       -- placement units returned to the head of the pending order, R309
  placed  : List Nat := []       -- placement units that have been placed, R151
  skipped : List Nat := []       -- units skipped in this report interval, R151
  skips   : FMap Nat := []       -- consecutive report intervals in which a unit was skipped, R151
  blocking : List Nat := []      -- units that have become blocking, R151
  retired : Nat := 0             -- blocks retired
  failed  : Nat := 0             -- FAILED, R148
  halted  : Bool := false        -- a warp was halted, R148
  reported : List Nat := []      -- cores that have reported, R145
  used    : List Nat := []       -- cores that have held a block, R145
  gangRow : Option (Nat × Nat) := none  -- gang row and rank of a Lyre placement, R387
  verdict : Option Nat := none   -- STATUS, once it is rejected or complete, R133 R145 R148
  faults  : List Nat := []       -- classes of halts of a rank to be posted as FAULT, R387
  blocked : Bool := false        -- its rank is blocked: no unit is placed, R387
  ended   : Bool := false        -- no block is placed any more (a lost gang), R388
deriving DecidableEq, Repr

/-- How a pre-emption treats a block (R308). -/
inductive Preempt where
  | none | drain (until_ : Nat) | save | flush
deriving DecidableEq, Repr

/-- A block placed on a core, or saved (R130, R309 to R313). -/
structure Block where
  launch  : Nat := 0
  idx     : Nat := 0             -- linear index in the launch
  cid     : Nat := 0
  live    : Bool := false        -- placed and not retired
  at_     : Nat := 0             -- clock of placement
  elapsed : Nat := 0             -- clocks run before an earlier save
  tuse    : Word := 0            -- tags named by its commands, R313
  pre     : Preempt := .none     -- a pre-emption in progress, R308
  after   : List Nat := []       -- a flushed block: the numbers under which its warps' operations go on, R309
  area    : Option (Word × Nat) := none  -- save area, R312
  warps   : List Warp := []      -- warps of a saved block, for what the area has no place for, R314
  cmds    : List Cmd := []       -- its recorded commands, in the same way, R269 R440
  image   : List Byte := []      -- the bytes of the area as saved, before encryption, R312 R331
  tname   : Word := 0            -- tags under TUSE last set by a named-tile delivery, R398
  held    : List (Nat × Nat) := []  -- of a saved block: the levels and units whose lines its area holds, in order, R312
  saved   : Bool := false
deriving DecidableEq, Repr

/-! ## Memory -/

/-- A sector mark map: sector number to origin kind; unlisted sectors are not poisoned (R15, R296). -/
abbrev Marks := FMap Origin

/-- A line in a core's L1 (R182, R183). -/
structure L1Line where
  ctxs  : List Nat := []         -- contexts whose loads filled it or whose stores it holds, the latest first, R183
  va    : Word := 0              -- VA of the line in the last store left in it, for a failure's record, R198
  valid : BitVec 8 := 0          -- 8; valid sectors
  dirty : BitVec 128 := 0        -- 128; dirty bytes
  wb    : FMap Nat := []         -- dirty bytes that a `.wb` store left: by offset, the storing warp plus 1, R125
  data  : FMap Byte := []        -- by offset in the line
  mark  : Marks := []            -- by sector in the line
deriving DecidableEq, Repr

/-- How the home slice holds a line: a line of this device, or a peer's line SHARED or OWNED or read once (R363,
R364). -/
inductive L2State where
  | loc | shared | owned | once
deriving DecidableEq, Repr

/-- A line in the L2 (R185, R186): the sectors held, the dirty ones, data, marks. The compression code follows from the
data. -/
structure L2Line where
  st    : L2State := .loc
  addr  : Nat := 0               -- the DDR byte at which the link holds the line, as last translated
  have_ : BitVec 8 := 0          -- 8; sectors held
  dirty : BitVec 8 := 0          -- 8; sector-dirty bits
  data  : FMap Byte := []
  mark  : Marks := []
  key   : Nat := 0               -- the memory key of its page: 0 none, else its last writer's context plus 1, R195
  lock  : Bool := false          -- locked in its set for a pinned page, R188
  req   : Nat := 0               -- of a line read once: the request that brought it, R364
deriving DecidableEq, Repr

/-- Directory entry of a line of this device: the devices that hold it (R364). -/
structure DirEntry where
  sharers : List Nat := []
  owner   : Option Nat := none
deriving DecidableEq, Repr

/-- A write a try or a versioned task holds (R219, R305): the byte and the lane that wrote it last. -/
structure Held where
  byte : Byte
  lane : Nat
deriving DecidableEq, Repr

/-- A version (R217 to R225, R305, R306). -/
structure Version where
  taken : Bool := false          -- the tag is held, R218
  warp  : Nat := 0
  task  : Bool := false
  irrev : Bool := false          -- irrevocable, R306
  age   : Nat := 0               -- order of TASKGET, R306
  mem   : FMap (Option Held) := []   -- held memory bytes by IA
  spad  : FMap (Option Held) := []   -- held scratchpad bytes by core * 2^40 + offset
  rd    : FMap W32 := []         -- reader mask by sector (memory: IA/16; scratchpad: 2^60 + (core * 2^40 + offset)/16)
  wr    : FMap W32 := []         -- writer mask by sector
  ways  : List Nat := []         -- memory lines for which it holds a way of their set, R219
  vas   : FMap Word := []        -- VA of a held memory line, for a failure's record, R198
  whole : List Nat := []         -- sectors that one store of it has overwritten whole, R438
  stalled : Bool := false        -- waits to become the oldest, R306
deriving DecidableEq, Repr

/-- A migration slot (R201). -/
structure MigSlot where
  busy : Bool := false
  err  : Bool := false
  src  : Nat := 0
  dst  : Nat := 0
  next : Nat := 0
  fwd  : Bool := false
  pte  : Word := 0               -- the source page's PTE as the link uses it until the release, R202
deriving DecidableEq, Repr

/-- One memory link (R189, R192 to R202, R316 to R320). -/
structure Link where
  table : Word := 0              -- 64; PTE table register, R193
  tlb   : FMap (Option Word) := []   -- 4,096 entries; cached PTEs by page, R196
  victims : FMap (List (Nat × Word)) := []  -- victim entries by borrowed line of the die's cores, 16 PTEs a line, R196
  slots : FMap MigSlot := []     -- 4 slots, R201
  scrubEn : Bool := true         -- 1; patrol EN, R316
  scrubMode : Nat := 0           -- 2; patrol MODE, R316
  gap   : Nat := 4096            -- 32; patrol GAP, R316
  pos   : Nat := 0               -- line the patrol visits next, R316
  frames : Nat := 131072         -- installed frames of the link: 256 GiB, R1 R195
  log   : List (List Word) := [] -- 256 entries of 2 words, newest first, R320
  lost  : Nat := 0               -- 32; lost log entries, R320
  faults : List (List Word) := []   -- failures logged: VA, context, cause, R198
deriving DecidableEq, Repr

/-- A pin table entry (R188). -/
structure Pin where
  v    : Bool := false
  kind : Bool := false
  tgt  : Nat := 0
  pend : Bool := false
  page : Nat := 0
deriving DecidableEq, Repr

/-- A context (R190, R298, R311, R332, R372, R435). -/
structure Ctx where
  v     : Bool := false          -- 1; exists, R435
  priv  : Bool := false          -- 1; PRIV, R332
  conf  : Bool := false          -- 1; CONF, R331
  keyv  : Bool := false          -- 1; KEYV, R435
  host  : Nat := 0               -- 18; HOST, R435
  rbase : FMap Word := []        -- 16 x 64; RBASEk, R190
  rlim  : FMap Word := []        -- 16 x 64; RLIMk, R190
  roff  : FMap Word := []        -- 16 x 64; ROFFk, R190
  rctl  : FMap Word := []        -- 16 x 64; RCTLk, R190
  tvec  : Word := 0              -- 64; TVEC, R298
  spool : Word := 0              -- 64; SPOOL, R311
  spsz  : Word := 0              -- 64; SPSZ, R311
  nrbase : Word := 0             -- 64; NRBASE and NREN, R435 R372
  areas : List (Word × Nat) := []  -- save areas in use, R312
  dumps : List (Nat × Nat) := [] -- units of the pool that halt dumps have taken: the first and how many, R346
  dbgArea : List (List Byte) := []  -- encrypted debug records of a confidential context in its dump area, oldest first, R331
deriving DecidableEq, Repr

/-! ## The Bridge die -/

/-- A flow: the traffic to or from one endpoint on one logical plane (R359, R360). -/
structure Flow where
  peer   : Nat := 0
  plane  : Nat := 0
  next   : Nat := 0              -- 32; next sequence number to send
  unack  : List (Nat × Nat × Nat) := []   -- sent and unacknowledged: sequence number, times sent, line (0 none)
  queued : List (Nat × Nat) := []  -- packets held back: the line (0 none) and the packet's place in `outbox` from its oldest, R359
  nums   : List (Nat × Nat) := []  -- packets sent: the place in `outbox` and the sequence number that the packet carries, R356
  cum    : Nat := 0              -- every received number below this
  got    : List Nat := []        -- received numbers at or above cum
  since  : Nat := 0              -- packets received since the last SACK
deriving DecidableEq, Repr

/-- A flit group as first sent: its link sequence number, the key index and the count of its nonce, the flow and the number of
the packet that it carries (R361, R362). -/
structure Group where
  seq   : Nat
  key   : Bool
  count : Nat
  flow  : Nat
  pseq  : Nat
deriving DecidableEq, Repr

/-- The keys and replay buffer of a port link (R361, R362). -/
structure PortLink where
  v0    : Bool := false
  v1    : Bool := false
  tx    : Bool := false
  fails : Nat := 0
  sentN : FMap Nat := []         -- groups first sent under slot 0, 1
  txNext : Nat := 0              -- sequence number of the next new group
  buf   : List Group := []       -- replay buffer of 512 groups, oldest first
  salt0 : BitVec 32 := 0        -- salt of slot 0, R361
  salt1 : BitVec 32 := 0        -- salt of slot 1, R361
  loads : Nat := 0               -- keys loaded so far: the model's own counter, R361
  rxNext : Nat := 0              -- sequence number of the next group to accept
  replay : List Group := []      -- groups sent again at the last NAK
deriving DecidableEq, Repr

/-- A packet that the device has sent (R354 to R356, R363 to R365). -/
inductive Packet where
  | readShared (dev ia req : Nat)
  | readExcl (dev ia req : Nat)
  | writeBack (dev ia : Nat) (mask : BitVec 128) (marks : List Origin) (data : List Byte)
  | invalidate (dev ia : Nat)
  | recall (dev ia : Nat) (keep : Bool)
  | atomic (dev : Nat) (pkt : AtomicPkt)
  | response (dev line : Nat) (rsp : PeerResponse)
  | sack (dev plane base cum : Nat) (map : Word)
  | post (ev : Rec8)
  | event (ev : Rec8)
  | eventTo (dev : Nat) (ev : Rec8)   -- from a source to a device that rejoins, R392
  | resend (first last : Nat)
  | report (seq : Nat) (dig : Word)
  | snapreq (dev s0 : Nat)
  | snap (dev : Nat) (snap : Snapshot) (off : Nat) (last : Bool)   -- 128 bytes of its tables from a byte offset
  | interest (dev : Nat) (name : TileName) (size deadline : Nat)
  | tile (dev : Nat) (name : TileName) (size idx : Nat) (marks : List Origin) (data : List Byte)
  | leasereq (dev tag bound npages term : Nat) (fbtab bbase : Word)
  | leasenak (dev tag : Nat)
  | notify (dev ia warp : Nat)
  | keyCleared (port : Nat)
  | nak (port seq : Nat)
deriving DecidableEq, Repr

/-- The Harp: the ordered event service of the pod (R381, R383). -/
structure Harp where
  seq   : Nat := 0               -- SEQ of the last event numbered
  atime : Nat := 0               -- ATIME of the last event
  held  : List Rec8 := []        -- the last 65,536 events, newest first
  lastDelivery : Nat := 0        -- agreed time of the last delivery
deriving DecidableEq, Repr

/-- Modes of the Lyre (R391). -/
inductive LyreMode where
  | running | fenced | rejoining
deriving DecidableEq, Repr

/-- The Lyre (R383 to R392, R441). -/
structure Lyre where
  mode   : LyreMode := .rejoining   -- 2; LYRSTAT.MODE, reset 2, R391
  reason : Nat := 4              -- 4; LYRSTAT.REASON, reset 4, R391
  fences : Nat := 0              -- 16; FENCES, R391
  nomaj  : Nat := 0              -- 16; NOMAJ, R391
  seq    : Word := 0             -- 64; LYRSEQ, R9 R383
  dig    : Word := 0             -- 64; LYRDIG, R9 R389
  t      : LyreTables := {}      -- the four tables, R384
  ring   : FMap Rec8 := []       -- 4,096 slots of 64 B; the event ring, R383
  reports : List (Nat × Nat × Word) := []  -- reports kept: device, SEQ, digest, R390
  points : List (Snapshot × Bool) := []  -- the last comparison points applied, newest first, and whether each is judged, R390
  top    : Nat := 0              -- the highest SEQ whose effects this device has carried out, R392
  replay : Bool := false         -- REJOINING with tables to which events are applied, R392
  locs   : FMap Nat := []        -- LOC of the pod's devices as last known, R392
  words  : List (Nat × Word × Nat) := []  -- completion words of gangs to be written: context, VA, word, R385
  takeovers : List (Nat × Nat) := []  -- ranks to be taken over: gang row, rank, R388
  source : Option Nat := none    -- the source asked for a snapshot, R392
  tried  : List Nat := []        -- sources that failed, R392
  rejects : Nat := 0             -- snapshots rejected from this source, R392
  snapGot : Nat := 0             -- packets of the snapshot from this source received so far, R356
  held   : List Rec8 := []       -- posts held while fenced or not ready, R391 R432
  moved  : List (Nat × Nat × Nat) := []  -- ranks placed or moved by the event being applied: DID, row, rank, R389
deriving DecidableEq, Repr

/-- A waiter of a pending interest (R377): the command of this device that waits. -/
structure PitEntry where
  name   : TileName
  waiters : List (Nat × Nat) := []  -- command id, deadline, in join order
  remote : List (Nat × Nat × Nat) := []  -- as home: device, latest deadline, size
  fwd    : Nat := 0              -- latest deadline forwarded, 0 for none
deriving DecidableEq, Repr

/-- A tile in the tile store (R375). -/
structure Tile where
  name  : TileName
  size  : Nat
  lines : List (List Byte)
  marks : List (List Origin)
  home  : Bool                   -- held as the name's home
deriving DecidableEq, Repr

/-- A tile whose lines are still arriving (R378). -/
structure Arriving where
  name  : TileName
  src   : Nat
  size  : Nat
  lines : FMap (List Byte × List Origin) := []   -- by line index, with the marks of its sectors
deriving DecidableEq, Repr

/-- The Zither (R374 to R380). -/
structure Zither where
  store : List Tile := []        -- least recently used first
  pit   : List PitEntry := []
  arriving : List Arriving := []
  waitTable : List Nat := []     -- interests held because the table is full, R377
  passed : Nat := 0              -- pass-through counter, R376
  live   : List Nat := []        -- rows of the live devices as of the last event applied, R374 R380
deriving DecidableEq, Repr

/-- A lease on its borrower: what its fill or copy-back has done (R369, R370). -/
structure LeaseMove where
  row    : LeaseRow := {}        -- the descriptor, R367
  ctx    : Option Nat := none    -- the context whose LEASEREQ brought the lease, R372
  closing : Bool := false        -- copy-back, else fill
  page   : Nat := 0              -- the page that the fill moves, or would have moved next
  chunk  : Nat := 0              -- its chunks filled
  fb     : Word := 0             -- its fallback entry
  cur    : Nat := 0              -- the page that the copy-back moves
  begun  : Bool := false         -- the dirty bitmap of page `cur` has been read
  copied : List Nat := []        -- its chunks marked copied
  cfb    : Word := 0             -- its fallback entry
  dirty  : Nat := 0              -- its dirty chunks
  back   : List (Nat × Word) := []  -- pages copied back, in order: DIRTY and the PTE written
  posted : Bool := false         -- DONE has been posted
deriving DecidableEq, Repr

/-- What the lease engine has still to do for a lease that has ended (R371, R409). -/
inductive LeaseTodo where
  | record (ctx : Option Nat) (ws : List Word)
  | answer (id err : Nat)
deriving DecidableEq, Repr

/-- The lease engine (R367 to R373, R407, R408). -/
structure LeaseEngine where
  win    : Word := 0             -- 64; LENDWIN, R408
  grants : List (Nat × Nat × Nat) := []  -- grants posted and not yet applied: borrower, first page, pages
  moves  : FMap LeaseMove := []  -- leases held as borrower, by lease row
  todo   : List LeaseTodo := []  -- records and answers still to be written, in order
  nextTag : Nat := 0             -- 16; tag of the next request, R356
  errs   : Nat := 0              -- records not written, R372
  dropped : Nat := 0             -- write-backs discarded after a revocation, R373
  revoked : List (Nat × Nat × Nat) := []  -- regions revoked: borrower, first page on this device, pages, R373
deriving DecidableEq, Repr

/-- The sampler (R326 to R329). -/
structure Sampler where
  en   : Bool := false
  interval : Nat := 65536        -- 32; INTERVAL, reset 65,536
  sel  : Word := 0               -- 60; SMPSEL
  base : Word := 0               -- 64; SMPBASE
  len  : Nat := 0                -- 20; SMPLEN
  wi   : Nat := 0                -- 32; SMPWI
  ri   : Nat := 0                -- 32; SMPRI
  ctx  : Nat := 0                -- 16; SMPCTX
  dropped : Nat := 0             -- rows dropped since the last written row
  cnt  : FMap Nat := []          -- the counters of R327
deriving DecidableEq, Repr

/-- The management interface's registers and the module's start (R431 to R437, R325, R441). -/
structure Mgmt where
  ready  : List Function := []   -- FREADY and CREADY bits set, reset none, R431
  off    : List Function := []   -- functions whose EN is 0; EN resets to 1, R434
  closing : List (Function × Nat) := []  -- functions switched off whose issued work completes first: its last number, R434
  fmode  : List (Function × Nat) := []  -- MODE of a function, reset 0, R434
  minMode : Bool := false        -- 1; FREADY.MIN, R431
  starts : Nat := 0              -- consecutive failed starts, R433
  starting : Bool := false       -- a start has begun and has not been judged, R433
  stuck  : Bool := false         -- a start in minimal mode has failed: the module stays in reset, R433
  inReset : Bool := true         -- the module is in reset
  fwOk   : Bool := true          -- firmware signatures verified, R436
  breason : BitVec 8 := 0        -- 8; BREASON, R433
  plimit : Nat := 2400           -- PLIMIT in W, reset 2,400, R437
  mhz    : Nat := 2100           -- arithmetic clock in MHz, R437
  ctxsel : Nat := 0              -- 16; CTXSEL, R435
  lyrcfg : Word := 0             -- 64; LYRCFG, R441
  dbgcmd : Word := 0             -- 64; DBGCMD, R325
  dbgpc  : Word := 0             -- 64; DBGPC, R325
  dbgst  : BitVec 6 := 0         -- 6; DBGST.STATUS, R325
  dbgrun : Bool := false         -- 1; DBGST.STATE, R325
deriving DecidableEq, Repr

/-- Line-level requests to peers that wait for a response (R363). -/
structure PeerReq where
  id   : Nat
  dev  : Nat
  line : Nat                     -- local IA line the answer is for
  excl : Bool
  op   : Nat := 0                -- the operation whose atomic packet it is, 0 for a line request
  lanes : List Nat := []
deriving DecidableEq, Repr

/-- A prefetch on its way (R126): a lane's line for a core's L1, or for L2 alone. -/
structure Pref where
  core : Nat
  ctx  : Nat
  va   : Word
  ia   : Nat
  l1   : Bool
deriving DecidableEq, Repr

/-- A peer's request that waits for a recall or for invalidations (R364). -/
structure HomeWait where
  src   : Nat
  req   : Nat
  line  : Nat
  excl  : Bool
  acks  : List Nat               -- devices whose answer is awaited
  keep  : Bool := false          -- a recall of a local access after which the owner may keep a SHARED copy
  ia    : Nat := 0               -- the IA that a peer's request names
  back  : Bool := false          -- a peer's recall of a line that this device holds, while a command owns it
  atomic : Option AtomicPkt := none  -- a peer's atomic packet
deriving DecidableEq, Repr

/-! ## What happens next -/

/-- What moves next. `agenda` lists these in order: it is the model's input, and fixes every order and choice that the
manual leaves to load and revision (R442). -/
inductive Act where
  | issue (k : Nat)                         -- the warp in slot k may issue
  | event (e : Instr)                       -- a step of the device outside the issue slot
  | perform (id : Nat) (lanes : W32)        -- lanes of an outstanding operation are performed early
  | tick (clocks ns : Nat)                  -- time passes
  | upset (cause : BitVec 8)                -- a residue or parity mismatch in the next instruction (R303)
  | engineUpset (id elem : Nat) (step : Bool)  -- a datapath mismatch in the coming matrix step, or in an engine element (R304)
  | packet (flow seq : Nat) (e : Instr)     -- a numbered packet of a flow arrives, whose effect is the event (R360)
  | decay (key : Nat)                       -- a DDR sector becomes uncorrectable (R189)
  | stateError (k : Nat)                    -- an uncorrectable error in a warp's own state (R297)
  | l2Evict (line : Nat)                    -- the home slice writes a line back to DDR and drops it
  | tlbFill (link page : Nat)               -- a link takes a PTE into its TLB or a victim line (R196)
  | tlbDrop (link page : Nat)               -- such an entry is replaced (R196)
  | tlbVictim (link page place : Nat)       -- it moves to a borrowed line of a core: 2^20 core + line (R196)
  | hostWrite (ia : Nat) (data : List Byte) -- a host's write packet (R393)
deriving DecidableEq, Repr

/-- The machine: one S8 device and its pod's Harp. -/
structure State where
  did    : Nat := 0              -- 18; DID, R9 R354
  cur    : Nat := 0              -- the warp slot whose instruction `exec` runs: 64 CID + WID, R142
  agenda : List Act := []        -- what happens next
  outbox : List Packet := []     -- packets sent to the fabric, newest first, R354 R356
  numbered : Nat := 0            -- how many of them have been given to their flows, R359
  clk    : Nat := 0              -- 64; CLK, R9 R334
  atime  : Nat := 0              -- agreed fabric time in ns, R366
  upset  : BitVec 8 := 0         -- pending pipeline mismatch, R303
  nextId : Nat := 1              -- next number of an operation, command, launch or request
  draws  : Nat := 0              -- choices of a line to replace made so far: the model's own counter, R442
  warps  : FMap Warp := []       -- by 64 CID + WID
  cores  : FMap Core := []       -- by CID
  blocks : FMap Block := []      -- by block number
  launches : FMap Launch := []   -- by launch number
  bars   : FMap Barrier := []    -- by barrier key, R171
  ops    : List Op := []         -- outstanding operations, oldest first
  cmds   : List Cmd := []        -- commands in flight, oldest first
  haltCmds : FMap (List Cmd) := []  -- matrix commands of a halted warp, kept for its dump, R270
  vers   : FMap Version := []    -- 255 version tags, R218
  nextAge : Nat := 1             -- order of the next TASKGET, R306
  readyNow : List Nat := []      -- the warps of the issuing warp's sub-core that are ready in the clock of a YIELD, R175
  spad   : FMap Byte := []       -- scratchpad bytes by core * 2^40 + offset, R181
  spadMark : Marks := []         -- scratchpad sector marks, R181 R296
  l1     : FMap L1Line := []     -- by core * 2^49 + line, R182
  l2     : FMap L2Line := []     -- by line (IA / 128), R185
  dir    : FMap DirEntry := []   -- by line, R364
  mem    : List Host.Cell := []  -- DDR bytes by link * 2^56 + byte of the link, R189 R193
  memMark : Marks := []          -- DDR sector marks, by DDR byte / 16, R189 R296
  memKey : FMap Nat := []        -- the key under which a DDR sector is stored: 0 none, else a context plus 1, R195
  links  : FMap Link := []       -- 24 memory links
  pins   : FMap Pin := []        -- 64 pin table entries, R188
  ctxs   : FMap Ctx := []        -- by context id, R435
  shadow : FMap (List Nat) := [] -- the distributor's shadow of a core: free lines, rows, slots of the 4 sub-cores, R149
  sent   : FMap (List (Nat × List Nat)) := []  -- placements sent to a core: sequence number and resources, R149
  errCnt : Nat := 0              -- the Bridge die's error counters, R147 R148 R354 R355 R435
  flows  : FMap Flow := []       -- by flow number, R359
  prt    : Word := 0xFEDCBA9876543210  -- 64; PRT, R358
  plive  : BitVec 16 := 0        -- 16; PLIVE, R358
  keys   : FMap PortLink := []   -- by port, R361
  prefs  : List Pref := []       -- prefetches on their way, R126
  peerReqs : List PeerReq := []  -- requests to peers awaiting a response, R363
  homeWaits : List HomeWait := []  -- peers' requests awaiting recalls or invalidations, R364
  peerFail : FMap (Option MemCause) := []  -- failed line requests by 2 line + exclusive, R363
  watches : List (Nat × Nat × Nat) := []  -- SIGWAIT notifications owed: word IA, device, warp, R411
  harp   : Harp := {}
  lyre   : Lyre := {}
  zith   : Zither := {}
  leng   : LeaseEngine := {}
  smp    : Sampler := {}
  mgmt   : Mgmt := {}
deriving DecidableEq, Repr

/-- Why the machine could stop. The manual gives every situation an effect, so no step of this model raises it; the
constructor names the only condition under which a step has nothing to act on.
`notAnEvent`: raised by no step of the model; an instruction word listed in the agenda as an event is ignored. Safe. -/
inductive Fault where
  | notAnEvent
deriving DecidableEq, Repr

/-- Why an instruction has no meaning. `notModelled`: the arm of exec refuses the instruction by name; safe. -/
inductive Refusal where
  | notModelled (mnemonic : String)
deriving DecidableEq, Repr

/-- The device right after reset: every function not ready (R431), no context (R435), no warp, the Lyre REJOINING with
REASON JOIN (R391), the control registers at their reset values, memory with nothing listed. -/
def State.reset : State := {}

end Sys2Proof.Machine
end

