-- ==== Sys2Proof/Machine/Mem.lean ====
section
/-! DEFINITION. Memory: DDR behind the links (R189, R192 to R202), home slices (R185), page homes and pins (R187, R188),
lines of peers (R363, R364), the L1s (R182, R183), the scratchpads (R181) and their sector marks (R15, R438). -/

namespace Sys2Proof

/-- The codes of memory-side causes (R197). -/
def MemCause.code : MemCause → BitVec 8
  | .pteInvalid => 5 | .permission => 6 | .frameRange => 7 | .noAtomicPermit => 8 | .leaseRevoked => 9
  | .peerUnreachable => 10 | .linkDown => 11 | .noKey => Config.noKeyCause

/-- The origin kind that a failed access delivers (R296). -/
def MemCause.origin : MemCause → Origin
  | .leaseRevoked => .leaseRevoked
  | _ => .translation

end Sys2Proof

namespace Sys2Proof.Machine

/-- What a byte of DDR or scratchpad that nothing has written reads as (DESIGN CHOICE, log 2). -/
def unlisted : Byte := 0

/-- The canonical form of memory: addresses strictly rising, no entry equal to what an unlisted address reads as. -/
def Memory.wf (m : List Host.Cell) : Bool := mapWf unlisted m

/-- One 16-byte sector: its bytes and its mark (R15, R296). A marked sector reads as zeros. -/
structure Sector where
  data : List Byte
  mark : Origin
deriving DecidableEq, Repr

def zeroSector (m : Origin) : Sector := { data := List.replicate 16 0, mark := m }

/-- Bytes written into a sector by offset, the last entry for an offset winning; a write that does not cover a marked
sector whole stores nothing, one that does clears the mark (R438). -/
def mergeSector (old : Sector) (ws : List (Nat × Byte)) : Sector :=
  let full := (List.range 16).all fun i => ws.any fun w => w.1 == i
  if decide (old.mark ≠ .none) && !full then old
  else { data := ws.foldl (fun d w => setNth d w.1 w.2) old.data, mark := .none }

/-- The last entry of a byte list for an offset. -/
def wsAt (ws : List (Nat × Byte)) (o : Nat) : Option Byte := (ws.filter fun w => w.1 == o).getLast?.map (·.2)

/-- The entries of a line's byte list that fall in sector `q`, by offset in the sector. -/
def wsSector (ws : List (Nat × Byte)) (q : Nat) : List (Nat × Byte) :=
  (ws.filter fun w => w.1 / 16 == q).map fun w => (w.1 % 16, w.2)

/-! ## DDR -/

/-- The DDR key of a byte of a frame of a link. -/
def ddrKey (link frame off : Nat) : Nat := link * 2 ^ 56 + frame * 2 ^ 21 + off

/-- The key that stands for whichever one a sector is stored under: that of an access that names no context. -/
def anyKey : Nat := 2 ^ 20

/-- The bytes of a sector under a key, as DDR holds them and as an access under the key makes them clear (R195). -/
def cipherOf (key q : Nat) (bs : List Byte) : List Byte :=
  if key = 0 then bs else (List.range 16).map fun i => Config.cipherByte (key - 1) (16 * q) i bs
def clearOf (key q : Nat) (bs : List Byte) : List Byte :=
  if key = 0 then bs else (List.range 16).map fun i => Config.clearByte (key - 1) (16 * q) i bs

/-- A sector as an access under a key reads it: its bytes, or what the key makes of the bytes that another key stored
(R195; what such an access answers is a free value, log 91). -/
def State.ddrSector (s : State) (key q : Nat) : Sector :=
  let x : Sector := { data := lookRun unlisted s.mem (16 * q) 16, mark := look .none s.memMark q }
  let k := look 0 s.memKey q
  if key = k ∨ key = anyKey ∨ x.mark ≠ .none then x else { x with data := clearOf key q (cipherOf k q x.data) }

def State.putDdrSector (s : State) (key q : Nat) (x : Sector) : State :=
  { s with mem := putRun unlisted s.mem (16 * q) (if x.mark = .none then x.data else List.replicate 16 0),
           memMark := put .none s.memMark q x.mark
           memKey := if key = anyKey then s.memKey else put 0 s.memKey q key }

/-- A local line of the L2 that holds the sector at a DDR byte. -/
def State.l2Holding (s : State) (a : Nat) : Option (Nat × L2Line) :=
  s.l2.find? fun e => decide (e.2.st = .loc) && decide (e.2.addr = a / 128 * 128) && bit e.2.have_.toNat (a % 128 / 16)

/-- A byte that the link itself reads at a DDR address: the home slice's copy where it holds the sector (log 14). -/
def State.linkByte (s : State) (a : Nat) : Byte :=
  match s.l2Holding a with
  | some (_, l) => look 0 l.data (a % 128)
  | none => look unlisted s.mem a

def State.linkWord (s : State) (a : Nat) : Word :=
  BitVec.ofNat 64 (ofBytes ((List.range 8).map fun i => s.linkByte (a + i)))

/-- A byte that the link itself writes; a marked sector takes none (R438). -/
def State.putLinkByte (s : State) (a : Nat) (b : Byte) : State :=
  match s.l2Holding a with
  | some (k, l) =>
    if look .none l.mark (a % 128 / 16) = .none then
      { s with mem := put unlisted s.mem a b, l2 := put {} s.l2 k { l with data := put 0 l.data (a % 128) b } }
    else s
  | none => if look .none s.memMark (a / 16) = .none then { s with mem := put unlisted s.mem a b } else s

def State.putLinkWord (s : State) (a : Nat) (w : Word) : State :=
  ((List.range 8).foldl fun t i => t.putLinkByte (a + i) (BitVec.ofNat 8 (w.toNat >>> (8 * i)))) s

/-! ## Pages -/

/-- The page, its owning link and its PTE index (R192, R193). -/
def pageOf (ia : Nat) : Nat := ia / 2 ^ 21
def linkOf (page : Nat) : Nat := page % Config.links
def pteIdx (page : Nat) : Nat := page / Config.links

def State.link (s : State) (t : Nat) : Link := look {} s.links t

def State.linkReady (s : State) (t : Nat) : Bool := s.mgmt.ready.any fun f => decide (f = .link t)

/-- Where a link's PTE table and side table lie (R193, R200). -/
def Link.count (l : Link) : Nat := bits l.table.toNat 63 40
def tableBase (t : Nat) (l : Link) : Nat := ddrKey t (bits l.table.toNat 16 0) 0
def State.pteAddr (s : State) (page : Nat) : Nat :=
  let t := linkOf page
  tableBase t (s.link t) + 8 * pteIdx page
def State.sideAddr (s : State) (page : Nat) : Nat :=
  let t := linkOf page
  tableBase t (s.link t) + 8 * (s.link t).count + 128 * pteIdx page

/-- The PTE as the table holds it, 0 (V clear) beyond its end (R193). -/
def State.pteTable (s : State) (page : Nat) : Word :=
  if pteIdx page < (s.link (linkOf page)).count then s.linkWord (s.pteAddr page) else 0

/-- The copy of a page's PTE that a link holds, in its TLB or in a borrowed line (R196). -/
def Link.cached (l : Link) (page : Nat) : Option Word :=
  match look none l.tlb page with
  | some w => some w
  | none => l.victims.findSome? fun e => (e.2.find? fun x => decide (x.1 = page)).map (·.2)

/-- The PTE under which the link translates: the copy it holds, if it holds one (R196). -/
def State.pte (s : State) (page : Nat) : Word :=
  match (s.link (linkOf page)).cached page with
  | some w => w
  | none => s.pteTable page

/-- The busy migration slot whose source is a page (R201). -/
def State.migOf (s : State) (page : Nat) : Option MigSlot :=
  ((s.link (linkOf page)).slots.map (·.2)).find? fun m => m.busy && decide (m.src = page)

/-- The pin entry that applies to a page (R188): kind 0 a scratchpad, kind 1 a slice. -/
def State.pinFor (s : State) (page : Nat) (kind : Bool) : Option Pin :=
  (s.pins.map (·.2)).find? fun p => p.v && decide (p.page = page) && decide (p.kind = kind)

/-- What an access needs of a PTE (R191, R197). -/
structure Need where
  r : Bool := false
  w : Bool := false
  x : Bool := false
  atomic : Bool := false
  ctx : Option Nat := none    -- the context that travels with the request (R195)
  id : Nat := 0               -- the operation that asks, 0 for an access that a line read once may always serve (R364)
deriving DecidableEq, Repr

def Need.load : Need := { r := true }
def Need.store : Need := { w := true }
def Need.rmw : Need := { r := true, w := true, atomic := true }
def Need.fetch : Need := { x := true }
/-- The same on behalf of a context. -/
def Need.by (n : Need) (ctx : Nat) : Need := { n with ctx := some ctx }
/-- The key under which the lines of a page are stored for it (R195). -/
def Need.key (n : Need) (enc : Bool) : Nat :=
  if enc then (match n.ctx with | some c => c + 1 | none => anyKey) else 0

/-- Whether a request may use the lines of an ENC page: its context's memory key is held (R435). -/
def State.keyHeld (s : State) (need : Need) : Bool :=
  match need.ctx with
  | some c => (look {} s.ctxs c).keyv
  | none => true

/-- A byte of a page of this device: the IA of its line's home (after a migration's redirection), its DDR byte, whether
L2 and L1 may hold its line (R187), and its key (R195). -/
structure Spot where
  ia   : Nat
  addr : Nat
  l2   : Bool
  l1   : Bool
  key  : Nat := 0
deriving DecidableEq, Repr

/-- Where an access to an IA is performed: at the home slice, at a pin's scratchpad (`line`: the line in memory that it
stands for), at a peer (`l2`, `l1`: whether L2 and L1 may hold its line), not before a chunk is copied (R202), or nowhere
(R197). -/
inductive Place where
  | loc (p : Spot)
  | pin (cid off line : Nat)
  | peer (dev pia : Nat) (l2 l1 : Bool)
  | wait
  | fail (c : MemCause)
deriving DecidableEq, Repr

/-- A place reached through another page: no L1 holds the line under the IA that the access names (R202). -/
def Place.moved : Place → Place
  | .loc p => .loc { p with l1 := false }
  | .peer dev pia l2 _ => .peer dev pia l2 false
  | x => x

/-- The region of this device's memory that its own lender has revoked (R373): the page lies in it. -/
def State.revokedPage (s : State) (page : Nat) : Bool :=
  s.leng.revoked.any fun r => decide (r.1 = s.did) && decide (r.2.1 ≤ page) && decide (page < r.2.1 + r.2.2)

/-- Translation of an IA under a given PTE (R195, R197). `mig`: the page is being migrated, and behaves as home 3
(R202). -/
def State.underPte (s : State) (need : Need) (ia : Nat) (w : Word) (mig : Bool) : Place :=
  let p := w.toNat
  let page := pageOf ia
  let aper := bits p 62 61
  let frame := bits p 33 0
  let off := ia % 2 ^ 21
  let t := linkOf page
  if !(bit p 63) || (!mig && decide (bits p 35 34 = 3)) then .fail .pteInvalid
  else if (need.r && !(bit p 39)) || (need.w && !(bit p 38)) || (need.x && !(bit p 37)) then .fail .permission
  else if bit p 36 && !s.keyHeld need then .fail .noKey
  else
    let home := if mig then 3 else bits p 42 41
    let l2 := decide (home ≠ 3)
    let l1 := l2 && !(decide (home = 2) && (s.pinFor page true).isSome)
    if aper = 0 then
      if (s.link t).frames ≤ frame then .fail .frameRange
      else match (if home = 1 then s.pinFor page false else none) with
        | some e => .pin e.tgt (2 ^ 21 + off) (ia / 128)
        | none => .loc { ia := ia, addr := ddrKey t frame off, l2 := l2, l1 := l1, key := need.key (bit p 36) }
    else if need.atomic && !(bit p 40) then .fail .noAtomicPermit
    else if aper = 2 && s.revokedPage page then .fail .leaseRevoked
    else .peer (bits p 60 43) (frame * 2 ^ 21 + off) l2 l1

/-- The PTE of page `k` of a lease (R369): APER 2, DEVID and FRAME at the lender, the rest as in its fallback entry. -/
def LeaseMove.lent (m : LeaseMove) (k : Nat) (fb : Word) : Word :=
  BitVec.ofNat 64 (bits fb.toNat 42 36 * 2 ^ 36 + 2 ^ 63 + 2 * 2 ^ 61 + m.row.lender * 2 ^ 43 + (m.row.lbase + k))

/-- The PTE that governs chunk `c` of a page that a lease has in motion (R369, R370). -/
def LeaseMove.governs (m : LeaseMove) (page c : Nat) : Option Word :=
  let k := page - m.row.bbase
  if page < m.row.bbase ∨ m.row.npages ≤ k then none
  else if k = m.page ∧ 0 < m.chunk then
    let away := m.closing && (decide (k < m.cur) || (decide (m.cur = k) && m.begun && m.copied.contains c))
    some (if c < m.chunk ∧ ¬ away then m.lent k m.fb else m.fb)
  else if m.closing ∧ m.begun ∧ k = m.cur ∧ m.copied.contains c then some m.cfb
  else none

/-- The same among all leases of the device. -/
def State.motion (s : State) (page c : Nat) : Option Word := (s.leng.moves.map (·.2)).findSome? fun m => m.governs page c

/-- Translation at the memory side (R192 to R202, R369); `fuel` bounds redirections through migrations. -/
def State.place (s : State) (need : Need) : Nat → Nat → Place
  | 0, _ => .fail .pteInvalid
  | fuel + 1, ia =>
    let page := pageOf ia
    if !s.linkReady (linkOf page) then .fail .linkDown
    else match s.motion page (ia % 2 ^ 21 / 4096) with
    | some w => s.underPte need ia w true
    | none => match s.migOf page with
      | none => s.underPte need ia (s.pte page) false
      | some m =>
        let c := ia % 2 ^ 21 / 4096
        if m.fwd || decide (c < m.next) then
          match s.underPte need ia m.pte true with
          | .fail e => .fail e
          | _ => (s.place need fuel (m.dst * 2 ^ 21 + ia % 2 ^ 21)).moved
        else if c = m.next then .wait
        else s.underPte need ia m.pte true

/-- A page is the source of one slot at most (R201), so a chain of redirections is no longer than the slots are many. -/
def State.at (s : State) (need : Need) (ia : Nat) : Place := s.place need (4 * Config.links + 1) ia

/-- A failure logged at the page's owning link (R198). -/
def State.logFault (s : State) (ia : Nat) (va : Word) (ctx : Nat) (c : MemCause) : State :=
  let t := linkOf (pageOf ia)
  let l := s.link t
  { s with links := put {} s.links t { l with faults := [va, BitVec.ofNat 64 ctx, BitVec.ofNat 64 c.code.toNat] :: l.faults } }

/-! ## Home slices -/

def State.l2Line (s : State) (line : Nat) : L2Line := look {} s.l2 line

def L2Line.sector (l : L2Line) (q : Nat) : Sector :=
  { data := (List.range 16).map fun i => look 0 l.data (16 * q + i), mark := look .none l.mark q }

def L2Line.putSector (l : L2Line) (q : Nat) (x : Sector) (dirty : Bool) : L2Line :=
  { l with
    have_ := l.have_ ||| (1 <<< q)
    dirty := if dirty then l.dirty ||| (1 <<< q) else l.dirty
    data := putRun 0 l.data (16 * q) (if x.mark = .none then x.data else List.replicate 16 0)
    mark := put .none l.mark q x.mark }

/-- The `k`-th word of `n` bytes of a line. -/
def lineWord (bs : List Byte) (n k : Nat) : Nat := ofBytes ((bs.drop (n * k)).take n)

/-- Whether every word of `n` bytes lies within a two's-complement difference of `d` bytes from word 0 (R186; the
difference taken modulo the word, DEDUCED, log 89). -/
def deltasFit (bs : List Byte) (n d : Nat) : Bool :=
  (List.range (128 / n)).all fun k =>
    let x := (lineWord bs n k + 2 ^ (8 * n) - lineWord bs n 0) % 2 ^ (8 * n)
    decide (x < 2 ^ (8 * d - 1)) || decide (2 ^ (8 * n) - 2 ^ (8 * d - 1) ≤ x)

/-- The compression code of a line (R186): the encoding of smallest size that represents it. -/
def lineCode (bs : List Byte) : Nat :=
  if bs.all (decide <| · = 0) then 1
  else if (List.range 16).all fun k => decide (lineWord bs 8 k = lineWord bs 8 0) then 2
  else if deltasFit bs 8 1 then 3
  else if deltasFit bs 4 1 then 4
  else if deltasFit bs 8 2 then 5
  else 0

/-- The code in a line's tag; it follows from the data, and a poisoned sector holds zeros (R186). -/
def L2Line.code (l : L2Line) : Nat := lineCode ((List.range 128).map fun i => look 0 l.data i)

/-! ### Sets (R185, R186, R188, R219) -/

/-- The L2 set of a line: die, slice and set (R185); a slice pin names the slice (R188). -/
def State.setOf (s : State) (line : Nat) : Nat × Nat × Nat :=
  let ia := 128 * line
  match s.pinFor (pageOf ia) true with
  | some e => (e.tgt / 32, e.tgt % 32, bits ia 16 7)
  | none => (linkOf (pageOf ia) / 6, Nat.xor (bits ia 11 7) (Nat.xor (bits ia 16 12) (bits ia 21 17)), bits ia 16 7)

/-- The ways that lines of the given codes take: a line of code 0 a way, two compressed lines a way, a line of zeros none
(R186). -/
def waysFor (codes : List Nat) : Nat :=
  (codes.filter (decide <| · = 0)).length + ceilDiv (codes.filter (decide <| 2 ≤ ·)).length 2

/-- The lines of a set. -/
def State.inSet (s : State) (set : Nat × Nat × Nat) : List (Nat × L2Line) := s.l2.filter fun e => decide (s.setOf e.1 = set)

/-- The ways of a set that hold versions (R219). -/
def State.versionWays (s : State) (set : Nat × Nat × Nat) : Nat :=
  sumOf (fun e => (e.2.ways.filter fun k => decide (s.setOf k = set)).length) s.vers

/-- The tags and the data ways of a set that its lines and versions take (R186; DEDUCED for versions, log 89). -/
def State.setUse (s : State) (set : Nat × Nat × Nat) : Nat × Nat :=
  let ls := s.inSet set
  (ls.length, waysFor (ls.map (·.2.code)) + s.versionWays set)

/-- Whether a set keeps within its tags and ways. Twelve lines and versions always do. -/
def State.setFits (s : State) (set : Nat × Nat × Nat) : Bool :=
  decide ((s.inSet set).length + s.versionWays set ≤ Config.l2Ways) ||
    (decide ((s.setUse set).1 ≤ Config.l2Tags) && decide ((s.setUse set).2 ≤ Config.l2Ways))

/-- Whether a line of a page pinned to a slice is locked there: up to 6 ways of a set are (R188). -/
def State.locks (s : State) (k : Nat) (l : L2Line) : Bool :=
  (s.pinFor (pageOf (128 * k)) true).isSome &&
    decide (waysFor (l.code :: (((s.inSet (s.setOf k)).filter fun e => e.2.lock && decide (e.1 ≠ k)).map (·.2.code))) ≤ Config.l2Locked)

/-! ### Lines that leave -/

/-- The dirty bit of the chunk that holds an IA, set by its link (R200). -/
def State.markChunk (s : State) (ia : Nat) : State :=
  let c := ia % 2 ^ 21 / 4096
  let a := s.sideAddr (pageOf ia) + c / 8
  s.putLinkByte a (s.linkByte a ||| (1 <<< (c % 8)))

/-- The context whose request a line's write-back is (DEDUCED, log 91). -/
def L2Line.ctx (l : L2Line) : Nat := l.key - 1

/-- A dirty L2 line written back to DDR, with dirty bits; where that fails, nothing is written and the failure is logged
(R194, R198; with VA 0, DEDUCED, log 92). -/
def State.writeBackL2 (s : State) (k : Nat) : State :=
  let l := s.l2Line k
  if l.dirty = 0 ∨ l.st ≠ .loc then s
  else
    let clean (t : State) : State := { t with l2 := put {} t.l2 k { l with dirty := 0 } }
    match s.at {} (128 * k) with
    | .loc p =>
      let s1 := (List.range 8).foldl (fun (t : State) q =>
        if bit l.dirty.toNat q then t.putDdrSector l.key (p.addr / 128 * 8 + q) (l.sector q) else t) s
      (clean s1).markChunk p.ia
    | .fail c => clean (s.logFault (128 * k) 0 l.ctx c)
    | _ => clean s

/-- The line dropped from L2, written back first: to DDR, or to the peer that owns it (R184, R364). -/
def State.dropL2 (s : State) (k : Nat) : State :=
  let l := s.l2Line k
  let gone (t : State) : State := { t with l2 := put {} t.l2 k {} }
  match l.st with
  | .loc => gone (s.writeBackL2 k)
  | .owned =>
    match s.at {} (128 * k) with
    | .peer dev pia _ _ =>
      let marks := (List.range 8).map fun q => look .none l.mark q
      let data := (List.range 128).map fun i => look 0 l.data i
      let s1 := gone s
      { s1 with outbox := .writeBack dev pia (maskBytes l.dirty) marks data :: s1.outbox }
    | .fail c => gone (if l.dirty = 0 then s else s.logFault (128 * k) 0 l.ctx c)
    | _ => gone s
  | _ => gone s
where
  /-- The byte mask of whole sectors (R184). -/
  maskBytes (d : BitVec 8) : BitVec 128 :=
    (List.range 128).foldl (fun (m : BitVec 128) i => if bit d.toNat (i / 16) then m ||| (1 <<< i) else m) 0

/-- Whether a command's destinations lie in a memory line, which it then owns, or in a scratchpad line, which it then marks
(R250). -/
def Cmd.owns (c : Cmd) (line : Nat) : Bool :=
  c.dst.any fun e => match e.2 with | .mem ia => decide (ia / 128 = line) | _ => false
def Cmd.marks (c : Cmd) (cid line : Nat) : Bool :=
  c.dst.any fun e => match e.2 with | .spad k off => decide (k = cid) && decide (off / 128 = line) | _ => false

/-- Whether an engine command owns a line of memory (R250, R400). -/
def State.cmdOwns (s : State) (line : Nat) : Bool := s.cmds.any (·.owns line)

/-- The lines of a set that may leave it for line `k`: those not locked, before them those that no command owns. -/
def State.l2Victims (s : State) (k : Nat) : List Nat :=
  let ls := ((s.inSet (s.setOf k)).filter fun e => !e.2.lock && decide (e.1 ≠ k)).map (·.1)
  match ls.filter fun j => !s.cmdOwns j with
  | [] => ls
  | js => js

/-- Lines dropped from the set of line `k` until the set keeps within its tags and ways (R186); the order in which they go is
a free choice. Where no other line can go, `k` itself does. -/
def State.fitL2 : Nat → State → Nat → State
  | 0, s, _ => s
  | n + 1, s, k =>
    if s.setFits (s.setOf k) then s
    else match s.l2Victims k with
      | [] => s.dropL2 k
      | js => State.fitL2 n ({ s with draws := s.draws + 1 }.dropL2 (nth k js (Config.victim s.draws % js.length))) k

/-- A line of L2 replaced, and room made for it in its set (R186, R188). -/
def State.putL2 (s : State) (k : Nat) (l : L2Line) : State :=
  State.fitL2 (2 * Config.l2Tags) { s with l2 := put {} s.l2 k { l with lock := s.locks k l } } k

/-! ### A line of this device at its home -/

/-- Sector `q` of a line of this device as its home slice holds it (R185). -/
def State.homeSector (s : State) (p : Spot) (q : Nat) : Sector :=
  let l := s.l2Line (p.ia / 128)
  if bit l.have_.toNat q then l.sector q else s.ddrSector p.key (p.addr / 128 * 8 + q)

/-- The line filled into L2, unless the page or the access allocates none (R125, R187). -/
def State.fillL2 (s : State) (p : Spot) (alloc : Bool) : State :=
  let k := p.ia / 128
  let l := s.l2Line k
  if l.have_ = 0xFF ∧ l.st = .loc then s
  else if (p.l2 && alloc) || decide (l.have_ ≠ 0) then
    s.putL2 k ((List.range 8).foldl (fun (l : L2Line) q =>
      if bit l.have_.toNat q then l else l.putSector q (s.ddrSector p.key (p.addr / 128 * 8 + q)) false)
      { l with st := .loc, addr := p.addr / 128 * 128, key := if p.key = anyKey then look 0 s.memKey (p.addr / 128 * 8) else p.key })
  else s

/-- A sector written at the home slice: into the line if L2 holds it, else on to DDR with the chunk's dirty bit. -/
def State.putHomeSector (s : State) (p : Spot) (q : Nat) (x : Sector) : State :=
  let k := p.ia / 128
  let l := s.l2Line k
  if bit l.have_.toNat q then
    s.putL2 k { l.putSector q x true with key := if p.key = anyKey then l.key else p.key }
  else (s.putDdrSector p.key (p.addr / 128 * 8 + q) x).markChunk p.ia

/-- The sectors of a line that a byte list touches. -/
def touched (ws : List (Nat × Byte)) : List Nat := (List.range 8).filter fun q => ws.any fun w => w.1 / 16 == q

/-! ## Scratchpad -/

/-- The key of a scratchpad byte (R181). -/
def spadKey (cid off : Nat) : Nat := cid * 2 ^ 40 + off

def State.spadSector (s : State) (cid off : Nat) : Sector :=
  let q := spadKey cid off / 16
  { data := lookRun 0 s.spad (16 * q) 16, mark := look .none s.spadMark q }

def State.putSpadSector (s : State) (cid off : Nat) (x : Sector) : State :=
  let q := spadKey cid off / 16
  { s with spad := putRun 0 s.spad (16 * q) (if x.mark = .none then x.data else List.replicate 16 0),
           spadMark := put .none s.spadMark q x.mark }

/-! ## Conflicts with tries (R220) -/

/-- The sector keys under which a version records readers and writers. -/
def memSec (ia : Nat) : Nat := ia / 16
def spadSec (cid off : Nat) : Nat := 2 ^ 60 + spadKey cid off / 16

/-- The lanes of a version that touched the line of eight sectors from `q0`. -/
def Version.lanesAt (v : Version) (q0 : Nat) : W32 :=
  (List.range 8).foldl (fun (m : W32) i => m ||| look 0 v.rd (q0 + i) ||| look 0 v.wr (q0 + i)) 0

/-- A write to the line from sector key `q0` adds the touching lanes of every open try to its TRYST.AMASK (R220), for the
tries of the warps that `who` selects; task versions take no notice (R305). -/
def State.conflictFor (s : State) (who : Nat → Bool) (q0 : Nat) : State :=
  s.vers.foldl (fun (t : State) e =>
    let m := e.2.lanesAt q0
    if !e.2.task && who e.2.warp && decide (m ≠ 0) then
      let w := look {} t.warps e.2.warp
      if w.tryOpen then { t with warps := put {} t.warps e.2.warp { w with amask := w.amask ||| m } } else t
    else t) s

/-- A write by any agent but warp `me`, whose own writes are none of its try's conflicts (R220). -/
def State.conflict (s : State) (me q0 : Nat) : State := s.conflictFor (fun k => decide (k ≠ me)) q0

/-- The agent that is no warp. -/
def noWarp : Nat := 2 ^ 40

/-! ## Peers (R363 to R365) -/

/-- A request to a peer for a line, sent unless one that serves is outstanding. -/
def State.askPeer (s : State) (dev pia line : Nat) (excl : Bool) : State :=
  if s.peerReqs.any fun r => decide (r.line = line) && decide (r.op = 0) && (r.excl || !excl) then s
  else
    let id := s.nextId
    { s with nextId := id + 1
             peerReqs := s.peerReqs ++ [{ id := id, dev := dev, line := line, excl := excl }]
             outbox := (if excl then .readExcl dev pia id else .readShared dev pia id) :: s.outbox }

def State.dirEntry (s : State) (line : Nat) : DirEntry := look {} s.dir line

/-- The owner of a line of this device recalled for a local access (R364); `keep`: it may keep a SHARED copy. -/
def State.recallOwner (s : State) (line d : Nat) (keep : Bool) : State :=
  if s.homeWaits.any fun h => decide (h.line = line) && decide (h.src = s.did) && !h.excl then s
  else { s with homeWaits := s.homeWaits ++ [{ src := s.did, req := 0, line := line, excl := false, acks := [d], keep := keep }]
                outbox := .recall d (128 * line) keep :: s.outbox }

/-- The sharers of a line invalidated because this device writes it; their acknowledgements are awaited by releases at
`.pod` and `.sys` (R394). -/
def State.invalidateSharers (s : State) (line : Nat) : State :=
  let e := s.dirEntry line
  if e.sharers = [] then s
  else { s with dir := put {} s.dir line { e with sharers := [] }
                homeWaits := s.homeWaits ++ [{ src := s.did, req := 0, line := line, excl := true, acks := e.sharers }]
                outbox := e.sharers.map (fun d => Packet.invalidate d (128 * line)) ++ s.outbox }

/-! ## One line, ready for an access -/

/-- A line that an access may now be performed on, or why it may not yet. -/
inductive Ready where
  | spot (p : Spot)              -- a line of this device, at its home slice
  | pin (cid off line : Nat)     -- a line of a pinned page, at the pin's scratchpad
  | held (line : Nat) (l2 l1 : Bool)  -- a peer's line that the home slice holds
  | wait
  | fail (c : MemCause)
deriving DecidableEq, Repr

/-- Where the failure of a request for a line is kept. -/
def failKey (line : Nat) (excl : Bool) : Nat := 2 * line + (if excl then 1 else 0)

/-- A line of this device at its home: ready unless another device owns it, which is then recalled. -/
def State.homeReady (s : State) (need : Need) (line : Nat) (r : Ready) : State × Ready :=
  match (s.dirEntry line).owner with
  | none => (s, r)
  | some d =>
    match look none s.peerFail (failKey line need.w) with
    | some c => ({ s with peerFail := put none s.peerFail (failKey line need.w) none }, .fail c)
    | none => (s.recallOwner line d (!need.w), .wait)

/-- Whether a peer's line as L2 holds it serves an access: OWNED any, SHARED a load, and a line read once the loads that
asked for it (R363, R364). -/
def L2Line.serves (l : L2Line) (need : Need) : Bool :=
  decide (l.have_ = 0xFF) && match l.st with
    | .owned => true
    | .shared => !need.w
    | .once => !need.w && decide (need.id < l.req)
    | .loc => false

/-- Whether a load, store or atomic on the line of an IA can be performed, with what it sends if it cannot yet. -/
def State.prepare (s : State) (need : Need) (ia : Nat) : State × Ready :=
  let line := ia / 128
  match s.at need ia with
  | .wait => (s, .wait)
  | .fail c => (s, .fail c)
  | .pin cid off home => s.homeReady need home (.pin cid off home)
  | .loc p => s.homeReady need (p.ia / 128) (.spot p)
  | .peer dev pia l2 l1 =>
    match look none s.peerFail (failKey line need.w) with
    | some c => ({ s with peerFail := put none s.peerFail (failKey line need.w) none }, .fail c)
    | none =>
      if (s.l2Line line).serves need then (s, .held line l2 l1)
      else (s.askPeer dev pia line need.w, .wait)

/-- A ready line for an access that allocates none (R125). -/
def Ready.noAlloc : Ready → Ready
  | .spot p => .spot { p with l2 := false, l1 := false }
  | .held line _ _ => .held line false false
  | r => r

/-- The line filled into L2 where the access allocates it (R125, R187). -/
def State.fillReady (s : State) (r : Ready) : State := match r with | .spot p => s.fillL2 p p.l2 | _ => s

/-- Sector `q` of a line that is ready. -/
def State.readySector (s : State) (r : Ready) (q : Nat) : Sector :=
  match r with
  | .spot p => s.homeSector p q
  | .pin cid off _ => s.spadSector cid (off / 128 * 128 + 16 * q)
  | .held line _ _ => (s.l2Line line).sector q
  | _ => zeroSector .none

/-- A sector of a ready line replaced. -/
def State.putReadySector (s : State) (r : Ready) (q : Nat) (x : Sector) : State :=
  match r with
  | .spot p => s.putHomeSector p q x
  | .pin cid off _ => s.putSpadSector cid (off / 128 * 128 + 16 * q) x
  | .held line _ _ => s.putL2 line ((s.l2Line line).putSector q x true)
  | _ => s

/-- A peer's line that no cache may hold leaves L2 once an access has been performed on it: one read once, and one of a
page of home 3 (R187, R364). -/
def State.doneReady (s : State) (r : Ready) : State :=
  match r with
  | .held line l2 _ => if decide ((s.l2Line line).st = .once) || !l2 then s.dropL2 line else s
  | _ => s

/-- Copies of a ready line on other devices invalidated before it is written (R364, R394). -/
def State.soleReady (s : State) (r : Ready) : State :=
  match r with
  | .spot p => s.invalidateSharers (p.ia / 128)
  | .pin _ _ home => s.invalidateSharers home
  | _ => s

/-- The word notifications that a write to a line owes (R411): a NOTIFY to each waiting device; a warp of this device
reads again when its SIGWAIT is resolved. -/
def State.notifyWrite (s : State) (lo hi : Nat) : State :=
  let due := s.watches.filter fun w => decide (lo ≤ w.1) && decide (w.1 < hi)
  if due = [] then s
  else (due.filter fun w => decide (w.2.1 ≠ s.did)).foldl (fun (t : State) w => { t with outbox := .notify w.2.1 w.1 w.2.2 :: t.outbox })
    { s with watches := s.watches.filter fun w => !(decide (lo ≤ w.1) && decide (w.1 < hi)) }

/-- Bytes written to a ready line, by offset in the line, as one write, met by the tries of the warps that `who` selects. -/
def State.writeFor (s : State) (who : Nat → Bool) (r : Ready) (ia : Nat) (ws : List (Nat × Byte)) : State :=
  let s1 := (s.fillReady r).soleReady r
  let s2 := (touched ws).foldl (fun (t : State) q =>
    t.putReadySector r q (mergeSector (t.readySector r q) (wsSector ws q))) s1
  ((s2.conflictFor who (memSec (ia / 128 * 128))).notifyWrite (ia / 128 * 128) (ia / 128 * 128 + 128)).doneReady r

/-- The same as a write of warp `me`. -/
def State.writeReady (s : State) (r : Ready) (ia : Nat) (me : Nat) (ws : List (Nat × Byte)) : State :=
  s.writeFor (fun k => decide (k ≠ me)) r ia ws

/-! ## L1 -/

/-- The key of a line in a core's L1. -/
def l1Key (cid line : Nat) : Nat := cid * 2 ^ 49 + line

def State.l1Line (s : State) (cid line : Nat) : L1Line := look {} s.l1 (l1Key cid line)

def State.putL1 (s : State) (cid line : Nat) (l : L1Line) : State :=
  { s with l1 := put {} s.l1 (l1Key cid line) (if l.valid = 0 ∧ l.dirty = 0 then {} else l) }

/-- A context noted among those of a line, as the latest. -/
def L1Line.usedBy (l : L1Line) (ctx : Nat) : L1Line := { l with ctxs := ctx :: l.ctxs.filter fun c => decide (c ≠ ctx) }

def L1Line.sector (l : L1Line) (q : Nat) : Sector :=
  { data := (List.range 16).map fun i => look 0 l.data (16 * q + i), mark := look .none l.mark q }

def L1Line.putSector (l : L1Line) (q : Nat) (x : Sector) : L1Line :=
  { l with valid := l.valid ||| (1 <<< q)
           data := putRun 0 l.data (16 * q) (if x.mark = .none then x.data else List.replicate 16 0)
           mark := put .none l.mark q x.mark }

/-- Bytes of a line, by offset. -/
def L1Line.bytesOf (l : L1Line) (m : BitVec 128) : List (Nat × Byte) :=
  ((List.range 128).filter fun i => m.getLsbD i).map fun i => (i, look 0 l.data i)

/-- The dirty bytes of a line, by offset. -/
def L1Line.dirtyBytes (l : L1Line) : List (Nat × Byte) := l.bytesOf l.dirty

/-- Bytes of a line no longer dirty. -/
def L1Line.clean (l : L1Line) (m : BitVec 128) : L1Line :=
  { l with dirty := l.dirty &&& ~~~m, wb := l.wb.filter fun e => !m.getLsbD e.1 }

/-- The bytes that `.wb` stores of a warp have left (R125). -/
def L1Line.wbOf (l : L1Line) (k : Nat) : BitVec 128 :=
  l.wb.foldl (fun (m : BitVec 128) e => if e.2 = k + 1 then m ||| (1 <<< e.1) else m) 0

/-- Dirty bytes laid over a sector read at home: nothing is laid on a marked sector unless all of it is dirty (R438). -/
def L1Line.overlay (l : L1Line) (q : Nat) (x : Sector) : Sector :=
  match wsSector l.dirtyBytes q with
  | [] => x
  | ws => mergeSector x ws

/-- Whether a command has yet to read a sector of a line. -/
def Cmd.readsMem (c : Cmd) (line : Nat) : Bool :=
  c.src.any fun e => e.got.isNone && (match e.loc with | .mem ia => decide (ia / 128 = line) | _ => false)
def Cmd.readsSpad (c : Cmd) (cid line : Nat) : Bool :=
  c.src.any fun e => e.got.isNone && (match e.loc with
    | .spad k off => decide (k = cid) && decide (off / 128 = line)
    | _ => false)

/-- Dirty bytes of a core's line written to its home slice (R184): those of a mask. A line that cannot be reached yet keeps
them; where the write fails they are lost and the failure is logged (R198). The tries of the core itself met the store when
it was left dirty (R220). -/
def State.flushBytes (s : State) (cid line : Nat) (m : BitVec 128) : State :=
  let l := s.l1Line cid line
  let d := l.dirty &&& m
  if d = 0 then s
  else
    let ctx := l.ctxs.headD 0
    match s.prepare (.by .store ctx) (128 * line) with
    | (s1, .wait) => s1
    | (s1, .fail c) => (s1.logFault (128 * line) l.va ctx c).putL1 cid line (l.clean d)
    | (s1, r) => (s1.writeFor (fun k => decide (k / 64 ≠ cid)) r (128 * line) (l.bytesOf d)).putL1 cid line (l.clean d)

def State.flushLine (s : State) (cid line : Nat) : State := s.flushBytes cid line (BitVec.allOnes 128)

/-- The same, but for a line that an engine command owns, which stays (R400). -/
def State.writeBackL1 (s : State) (cid line : Nat) : State := if s.cmdOwns line then s else s.flushLine cid line

/-- The lines of a core's L1 that a test selects. -/
def State.l1Lines (s : State) (cid : Nat) (f : L1Line → Bool) : List Nat :=
  (s.l1.filter fun e => decide (e.1 / 2 ^ 49 = cid) && f e.2).map fun e => e.1 % 2 ^ 49

/-- Every dirty byte in a core's L1 written to L2: those of the releasing context (R183), and those of any other warp of the
core (R233). -/
def State.flushL1 (s : State) (cid : Nat) : State :=
  (s.l1Lines cid fun l => decide (l.dirty ≠ 0)).foldl (fun t k => t.writeBackL1 cid k) s

/-- Whether a core's L1 holds dirty bytes. -/
def State.l1Dirty (s : State) (cid : Nat) : Bool := s.l1.any fun e => decide (e.1 / 2 ^ 49 = cid) && decide (e.2.dirty ≠ 0)

/-- The bytes that a warp's `.wb` stores have left in its core's L1 written to L2 (R125). -/
def State.flushWb (s : State) (cid k : Nat) : State :=
  (s.l1Lines cid fun l => decide (l.wbOf k ≠ 0)).foldl (fun t line =>
    if t.cmdOwns line then t else t.flushBytes cid line ((t.l1Line cid line).wbOf k)) s

/-- Whether such bytes are left. -/
def State.wbLeft (s : State) (cid k : Nat) : Bool := s.l1.any fun e => decide (e.1 / 2 ^ 49 = cid) && decide (e.2.wbOf k ≠ 0)

/-- The clean part of a core's copy of a line dropped: sectors without dirty bytes (R183, R228). -/
def State.dropClean (s : State) (cid line : Nat) : State :=
  let l := s.l1Line cid line
  let keep := (List.range 8).filter fun q => decide (bits l.dirty.toNat (16 * q + 15) (16 * q) ≠ 0)
  s.putL1 cid line
    { l with valid := 0
             data := l.data.filter fun e => l.dirty.getLsbD e.1
             mark := l.mark.filter fun e => keep.contains e.1 }

/-- Every clean line of a context in a core's L1 invalidated (R183). -/
def State.invalidateClean (s : State) (cid ctx : Nat) : State :=
  (s.l1Lines cid fun l => l.ctxs.contains ctx).foldl (fun t k => t.dropClean cid k) s

/-- Every clean line in a core's L1 dropped, as a lane that comes from another core requires: its loads never go back behind
what it has read or written there (R228). -/
def State.dropAllClean (s : State) (cid : Nat) : State := (s.l1Lines cid fun _ => true).foldl (fun t k => t.dropClean cid k) s

/-- A line of a core's L1 evicted: its dirty bytes written back, then its copy dropped (R183). -/
def State.evictL1 (s : State) (cid line : Nat) : State :=
  let s1 := s.writeBackL1 cid line
  if (s1.l1Line cid line).dirty = 0 then s1.putL1 cid line {} else s1

/-- Room for a line in its set of a core's L1 (R180): where 8 others fill the set, one of them, of free choice, is evicted;
and whether there is room, which there is not while that one's dirty bytes cannot be written back. -/
def State.l1Room (s : State) (cid line : Nat) : State × Bool :=
  let ks := (s.l1Lines cid fun _ => true).filter fun k => decide (k ≠ line) && decide (k % Config.l1Sets = line % Config.l1Sets)
  if ks.length < Config.l1Ways then (s, true)
  else
    let k := nth line ks (Config.victim s.draws % ks.length)
    let s1 := { s with draws := s.draws + 1 }.evictL1 cid k
    (s1, decide (s1.l1Line cid k = {}))

/-- The dirty bytes of a line recalled from every core's L1 (R211). -/
def State.recallL1s (s : State) (line : Nat) : State :=
  (s.l1.filter fun e => decide (e.1 % 2 ^ 49 = line) && decide (e.2.dirty ≠ 0)).foldl
    (fun t e => t.writeBackL1 (e.1 / 2 ^ 49) line) s

/-- Every L1 of the device written back: what a promoted acquire makes the releasing core do, done for every core, since
a write-back may occur at any time (R215, R238; log 15); and whether nothing is left dirty. -/
def State.flushAllL1 (s : State) : State × Bool :=
  let s1 := (s.l1.filter fun e => decide (e.2.dirty ≠ 0)).foldl (fun t e => t.writeBackL1 (e.1 / 2 ^ 49) (e.1 % 2 ^ 49)) s
  (s1, s1.l1.all fun e => decide (e.2.dirty = 0))

/-! ## Untracked reads: what the device itself reads as the home slice holds it -/

/-- The sector that holds an IA, as its home holds it now, for fetch and for the engines' records; none where the
access fails or must wait. -/
def State.peekSector (s : State) (need : Need) (ia : Nat) : Option Sector :=
  match (s.prepare need ia).2 with
  | .wait => none
  | .fail _ => none
  | r => some (s.readySector r (ia % 128 / 16))

end Sys2Proof.Machine
end

