-- ==== Sys2Proof/Machine/Operands.lean ====
section
/-! DEFINITION. Every operand form: the registers of a warp (R5 to R8), lanes and predicates (R4, R25, R115, R160), reading
an operand at a width (R67, R88), and writing a result with its poison (R16, R68). -/

namespace Sys2Proof.Machine

/-! ## The warp at hand -/

def State.warp (s : State) (k : Nat) : Warp := look {} s.warps k
def State.putWarp (s : State) (k : Nat) (w : Warp) : State := { s with warps := put {} s.warps k w }
/-- The warp whose instruction runs. -/
def State.w (s : State) : Warp := s.warp s.cur
def State.setW (s : State) (w : Warp) : State := s.putWarp s.cur w
/-- The core of a warp slot, and its number there (R142). -/
def cidOf (k : Nat) : Nat := k / 64
def widOf (k : Nat) : Nat := k % 64
def State.cid (s : State) : Nat := cidOf s.cur

def noLaunch : Launch := {}
def State.launch (s : State) (n : Nat) : Launch := look {} s.launches n
def State.putLaunch (s : State) (n : Nat) (l : Launch) : State := { s with launches := put {} s.launches n l }
def State.block (s : State) (n : Nat) : Block := look {} s.blocks n
def State.putBlock (s : State) (n : Nat) (b : Block) : State := { s with blocks := put {} s.blocks n b }
def State.core (s : State) (c : Nat) : Core := look {} s.cores c
def State.putCore (s : State) (c : Nat) (x : Core) : State := { s with cores := put {} s.cores c x }
def State.ctx (s : State) (c : Nat) : Ctx := look {} s.ctxs c
def State.putCtx (s : State) (c : Nat) (x : Ctx) : State := { s with ctxs := put {} s.ctxs c x }

/-! ## Registers -/

def Warp.v1 (w : Warp) (row lane : Nat) : VEl := look {} w.v (32 * row + lane)
def Warp.s1 (w : Warp) (k : Nat) : SEl := look {} w.s k
/-- p7 reads 1 in every lane (R5). -/
def Warp.p1 (w : Warp) (k lane : Nat) : PEl := if k = 7 then { val := true } else look {} w.p (32 * k + lane)

/-- A poisoned element holds zero (R8). -/
def Warp.setV1 (w : Warp) (row lane : Nat) (x : W32) (psn : Bool) : Warp :=
  { w with v := put {} w.v (32 * row + lane) { val := if psn then 0 else x, psn := psn } }
def Warp.setS1 (w : Warp) (k : Nat) (x : Word) (psn : Bool) : Warp :=
  { w with s := put {} w.s k { val := if psn then 0 else x, psn := psn } }
/-- A write to p7 is discarded (R5). -/
def Warp.setP1 (w : Warp) (k lane : Nat) (x psn : Bool) : Warp :=
  if k = 7 then w else { w with p := put {} w.p (32 * k + lane) { val := if psn then false else x, psn := psn } }

/-- An operand's or a result's bits with its poison. -/
structure Val where
  n : Nat
  psn : Bool := false
deriving DecidableEq, Repr

def poisonVal : Val := { n := 0, psn := true }

/-- An operand of `b` bits, 32 or 64, as lane `l` reads it (R67, R88): a v register or pair, the low half or all of an s
register, a predicate as 0 or 1, a literal zero-extended. -/
def Warp.read (w : Warp) (b : Nat) (x : Opnd) (l : Nat) : Val :=
  match x with
  | .v k =>
    let lo := w.v1 k.toNat l
    if b = 64 then
      let hi := w.v1 (k.toNat + 1) l
      { n := lo.val.toNat + hi.val.toNat <<< 32, psn := lo.psn || hi.psn }
    else { n := lo.val.toNat, psn := lo.psn }
  | .s k => let e := w.s1 k.toNat; { n := if b = 64 then e.val.toNat else e.val.toNat % 2 ^ 32, psn := e.psn }
  | .p k => let e := w.p1 k.toNat l; { n := Bool.n e.val, psn := e.psn }
  | .l k => { n := k.toNat }

/-- A result of `b` bits written to one lane of a v register or pair; poison goes to both halves (R8). -/
def Warp.writeV (w : Warp) (b k l : Nat) (x : Val) : Warp :=
  let w1 := w.setV1 k l (BitVec.ofNat 32 x.n) x.psn
  if b = 64 then w1.setV1 (k + 1) l (BitVec.ofNat 32 (x.n >>> 32)) x.psn else w1

/-- A result written to one lane of a v or p destination. -/
def Warp.write (w : Warp) (b : Nat) (d : Opnd) (l : Nat) (x : Val) : Warp :=
  match d with
  | .v k => w.writeV b k.toNat l x
  | .p k => w.setP1 k.toNat l (decide (x.n % 2 = 1)) x.psn
  | .s k => w.setS1 k.toNat (BitVec.ofNat 64 x.n) x.psn
  | .l _ => w

/-! ## Lanes -/

/-- The predicate of a word in a lane (R25). -/
def Warp.predAt (w : Warp) (pr : Pred) (l : Nat) : PEl :=
  let e := w.p1 pr.reg.toNat l
  { val := !e.psn && (e.val != pr.neg), psn := e.psn }

/-- Active lanes whose predicate holds: the participating lanes (R115, R160). -/
def Warp.holds (w : Warp) (pr : Pred) : W32 := maskWhere fun l => w.exm.getLsbD l && (w.predAt pr l).val

/-- Active lanes whose predicate is poisoned (R16). -/
def Warp.psnd (w : Warp) (pr : Pred) : W32 := maskWhere fun l => w.exm.getLsbD l && (w.predAt pr l).psn

/-- The tile size in lanes (R137). -/
def Warp.tile (w : Warp) : Nat := if partOk w.part.toNat then w.part.toNat else 32

/-- The lanes of the tile of lane `l` (R160). -/
def Warp.tileOf (w : Warp) (l : Nat) : List Nat :=
  let n := w.tile
  (List.range n).map fun i => l / n * n + i

/-! ## Per-lane results -/

/-- A lane's result with the flags it raises (R59). -/
structure Res where
  n  : Nat
  psn : Bool := false
  fl : BitVec 8 := 0
deriving DecidableEq, Repr

def Res.val (r : Res) : Val := { n := r.n, psn := r.psn }

/-- The flags of a result: a poisoned lane contributes none (R59). -/
def Res.flags (r : Res) : BitVec 8 := if r.psn then 0 else r.fl

/-- The result of a computation on source values: poisoned if one of them is (R16, R69, R89). -/
def ofVals (xs : List Val) (r : Nat × BitVec 8) : Res :=
  if xs.any (·.psn) then { n := 0, psn := true } else { n := r.1, fl := r.2 }

/-- Results written by lane to a v or p destination (R16, R59): lanes whose predicate holds receive theirs, lanes whose
predicate is poisoned receive poison, every other lane keeps its element. -/
def Warp.perLane (w : Warp) (pr : Pred) (b : Nat) (d : Opnd) (f : Nat → Res) : Warp :=
  let h := w.holds pr
  let q := w.psnd pr
  let w1 := (List.range 32).foldl (fun (t : Warp) l =>
    if h.getLsbD l then t.write b d l (f l).val
    else if q.getLsbD l then t.write b d l poisonVal
    else t) w
  { w1 with flg := (lanesOf h).foldl (fun fl l => fl ||| (f l).flags) w1.flg }

/-- A result computed once and written to an s destination (R68): if some active lane's predicate holds or is poisoned,
and as poison if one is poisoned. -/
def Warp.once (w : Warp) (pr : Pred) (d : Opnd) (r : Res) : Warp :=
  if w.psnd pr ≠ 0 then w.write 64 d 0 poisonVal
  else if w.holds pr ≠ 0 then
    let w1 := w.write 64 d 0 r.val
    { w1 with flg := w1.flg ||| r.flags }
  else w

/-- The result of an operation on `b`-bit results: once for an s destination, with `ext` extending it to 64 bits (R67,
R88), else by lane. -/
def Warp.result (w : Warp) (pr : Pred) (b : Nat) (d : Opnd) (ext : Nat → Nat) (f : Nat → Res) : Warp :=
  match d with
  | .s _ => let r := f 0; w.once pr d { r with n := ext r.n }
  | _ => w.perLane pr b d f

/-- Status predicates (R159): the same bit for every participating lane. -/
def Warp.setStatus (w : Warp) (lanes : W32) (d : Opnd) (x : Bool) : Warp :=
  (lanesOf lanes).foldl (fun t l => t.write 32 d l { n := Bool.n x }) w

end Sys2Proof.Machine
end

