-- ==== Sys2Proof/Machine/Ops.lean ====
section
/-! DEFINITION. The operations that every meaning shares: launch geometry and the scratchpad window (R127 to R140), range
translation and fetch (R17, R190, R439), counts and pending elements (R203, R204), entering a header (R10, R12, R107),
taking a trap, the whole-warp abort, halting, stopping and returning (R17, R221, R291 to R302, R307, R324), barriers (R171,
R172), retirement (R108, R144), and the order in which an instruction's conditions are met (R293). -/

namespace Sys2Proof

def Origin.code : Origin → Nat
  | .none => 0 | .translation => 1 | .uncorrectable => 2 | .leaseRevoked => 3 | .copyFailed => 4 | .interestExpired => 5
  | .pendingRead => 6 | .restored => 7

/-- Words of an instruction (R28). -/
def Instr.words : Instr → Nat
  | .movl _ _ => 2
  | _ => 1

end Sys2Proof

namespace Sys2Proof.Machine

/-! ## Launch geometry (R127 to R130, R140) -/

def Launch.level (l : Launch) (i : Nat) : Level := nth { ext := 1, dom := 9, scope := 0, prio := 0, spad := 0 } l.levels i
def Launch.nlvl (l : Launch) : Nat := l.levels.length
def Launch.ext (l : Launch) (i : Nat) : Nat := (l.level i).ext

/-- EXT_lo × … × EXT_hi. -/
def Launch.prod (l : Launch) (lo hi : Nat) : Nat := ((List.range (hi + 1 - lo)).map fun j => l.ext (lo + j)).foldl (· * ·) 1

/-- The block's level: the highest bound to the core domain (R130). -/
def Launch.blkLevel (l : Launch) : Nat := (l.levels.filter fun x => decide (x.dom = 0)).length - 1

/-- Warps of a unit of level `i`, and of a block. -/
def Launch.warpsOf (l : Launch) (i : Nat) : Nat := l.prod 0 i
def Launch.wBlk (l : Launch) : Nat := l.warpsOf l.blkLevel

/-- The number, within its level, of the unit of level `i` that holds warp `lin` of block `idx`. -/
def Launch.unit (l : Launch) (i idx lin : Nat) : Nat :=
  let b := l.blkLevel
  if i ≤ b then idx * l.prod (i + 1) b + lin / l.warpsOf i else idx / l.prod (b + 1) i

def State.unitOf (s : State) (w : Warp) (i : Nat) : Nat := (s.launch w.launch).unit i (s.block w.blk).idx w.lin

/-- The lowest level bound to the cluster domain (R116, R140). -/
def Launch.clusLevel (l : Launch) : Option Nat := (List.range l.nlvl).find? fun i => decide ((l.level i).dom = 1)

/-- The region that a core holds for a unit (R140). -/
def State.region (s : State) (cid launch lvl unit : Nat) : Option Region :=
  (s.core cid).regions.find? fun r => decide (r.launch = launch) && decide (r.level = lvl) && decide (r.unit = unit)

/-- The levels that contribute a region to the window, with its offset O_i (R140). -/
def Launch.window (l : Launch) : List (Nat × Nat × Nat) :=
  ((List.range l.nlvl).filter fun i => decide ((l.level i).dom ≤ 1) && decide (0 < (l.level i).spad)).foldl
    (fun acc i => acc ++ [(i, (acc.map fun e => e.2.2).foldl (· + ·) 0, (l.level i).spad)]) []

/-- A_blk (R116, R140). -/
def Launch.aBlk (l : Launch) : Nat := sumOf (fun e => e.2.2) l.window

/-- The level and the offset in its region of a window offset. -/
def Launch.inWindow (l : Launch) (x : Nat) : Option (Nat × Nat) :=
  (l.window.find? fun e => decide (e.2.1 ≤ x) && decide (x < e.2.1 + e.2.2)).map fun e => (e.1, x - e.2.1)

/-- The scratchpad byte of a core that a window offset of a warp names (R116). -/
def State.spadAt (s : State) (w : Warp) (cid x : Nat) : Option (Nat × Nat) :=
  let l := s.launch w.launch
  match l.inWindow x with
  | none => none
  | some (i, o) => (s.region cid w.launch i (s.unitOf w i)).map fun r => (cid, r.base * 128 + o)

/-- Why a scratchpad offset names no byte: LOCAL-RANGE 0x03 or CLUSTER-TARGET 0x04 (R118). -/
def State.clusAt (s : State) (w : Warp) (cid x : Nat) : Except (BitVec 8) (Nat × Nat) :=
  let l := s.launch w.launch
  match l.clusLevel with
  | none => .error 4
  | some c =>
    if 2 ^ 24 ≤ x then .error 4
    else
      let k := cid / 4 * 4 + bits x 23 22
      let o := bits x 21 0
      if (l.level c).spad ≤ o then .error 3
      else match s.region k w.launch c (s.unitOf w c) with
        | none => .error 3
        | some r => .ok (k, r.base * 128 + o)

/-! ## Translation at the issuing unit (R17, R190, R191) -/

inductive Xlate where
  | ok (ia : Nat)
  | miss (perm : Bool)       -- `perm`: a range matched and lacks the permission
deriving DecidableEq, Repr

def Ctx.rangeHit (c : Ctx) (va : Nat) (k : Nat) : Bool :=
  bit (look 0 c.rctl k).toNat 7 && decide ((look 0 c.rbase k).toNat ≤ va) && decide (va < (look 0 c.rlim k).toNat)

def Ctx.translate (c : Ctx) (need : Need) (va : Word) : Xlate :=
  match (List.range 16).find? (c.rangeHit va.toNat) with
  | none => .miss false
  | some k =>
    let ctl := (look 0 c.rctl k).toNat
    let ia := (va + look 0 c.roff k).toNat
    if 2 ^ 56 ≤ ia then .miss false
    else if (need.r && !(bit ctl 6)) || (need.w && !(bit ctl 5)) || (need.x && !(bit ctl 4)) then .miss true
    else .ok ia

/-! ## Fetch -/

/-- Trap classes (R291). -/
def clsIllegal : BitVec 8 := 1
def clsAlign : BitVec 8 := 2
def clsStack : BitVec 8 := 3
def clsAddr : BitVec 8 := 4
def clsPoison : BitVec 8 := 5
def clsBarrier : BitVec 8 := 6
def clsPipe : BitVec 8 := 7
def clsUncorr : BitVec 8 := 8
def clsDebug : BitVec 8 := 9
def clsSoft : BitVec 8 := 10
def clsDouble : BitVec 8 := 11

/-- What reading a code word answers, with the state that the read leaves. -/
inductive Fetched where
  | word (w : Word) (s : State)
  | trap (t : TrapInfo) (s : State)
  | wait (s : State)
deriving DecidableEq, Repr

/-- A code word read as ordinary memory (R439, R103 step 1): the address-fault causes of a word that cannot be read, logged
where they are the memory side's (R198), and poison-consumed FETCH, with the sector's own origin, for one read from a
poisoned sector. -/
def State.fetchWord (s : State) (ctx : Nat) (va : Word) : Fetched :=
  match (s.ctx ctx).translate .fetch va with
  | .miss perm => .trap { cls := clsAddr, cause := if perm then 6 else 1, addr := va } s
  | .ok ia =>
    match s.prepare (.by .fetch ctx) ia with
    | (s1, .wait) => .wait s1
    | (s1, .fail c) => .trap { cls := clsAddr, cause := c.code, addr := va } (s1.logFault ia va ctx c)
    | (s1, r) =>
      let x := s1.readySector r (ia % 128 / 16)
      let s2 := s1.doneReady r
      if x.mark = .none then
        .word (BitVec.ofNat 64 (ofBytes ((List.range 8).map fun i => nth 0 x.data (ia % 16 / 8 * 8 + i)))) s2
      else .trap { cls := clsPoison, cause := 0x0A, addr := va, origin := x.mark } s2

/-- The checks of a header word (R10). -/
def headerOk (w : Word) : Bool := w.extractLsb' 60 4 == 0xF && w.extractLsb' 4 4 == 0 && w.extractLsb' 48 12 != 0
def hdrLen (w : Word) : Nat := (w.extractLsb' 48 12).toNat
def hdrLive (w : Word) : Nat := (w.extractLsb' 40 8).toNat
def hdrReconv (w : Word) : Int := (w.extractLsb' 20 20).toInt
def hdrHandler (w : Word) : Bool := bit w.toNat 3
def hdrCall (w : Word) : Bool := bit w.toNat 2
def hdrUniform (w : Word) : Bool := bit w.toNat 0

/-! ## Counts (R203, R124, R210, R273) -/

def Op.isLoad (o : Op) : Bool :=
  match o.kind with
  | .load _ _ => true | .rmw _ _ _ (some _) => true | .xfin _ _ _ => true | _ => false

/-- Operations that read without changing memory. -/
def Op.readsOnly (o : Op) : Bool :=
  match o.kind with
  | .load _ _ => true | .xfin _ _ _ => true | _ => false

def State.warpOps (s : State) (k : Nat) : List Op := s.ops.filter fun o => decide (o.warp = k)
def State.warpCmds (s : State) (k : Nat) : List Cmd := s.cmds.filter fun c => decide (c.warp = k)
def State.loads (s : State) (k : Nat) : Nat := ((s.warpOps k).filter (·.isLoad)).length
def Op.isFence (o : Op) : Bool := match o.kind with | .fence => true | _ => false
def State.stores (s : State) (k : Nat) : Nat := ((s.warpOps k).filter fun o => !o.isLoad && !o.isFence).length
def State.copies (s : State) (k : Nat) : Nat := ((s.warpCmds k).filter (!·.tiles)).length
def State.tiles (s : State) (k : Nat) : Nat := ((s.warpCmds k).filter (·.tiles)).length

/-- Whether the warp has neither loads nor stores outstanding. -/
def State.quiet (s : State) (k : Nat) : Bool := (s.warpOps k).all (·.isFence)

/-- Pool rows pending for a warp's matrix commands (R262). -/
def State.pendRows (s : State) (k : Nat) : List Nat := (s.warpCmds k).flatMap (·.rows)

/-- The destination of an outstanding operation, with the registers it names. -/
def Op.dest (o : Op) : Option (Opnd × Nat) :=
  match o.kind with
  | .load w d => some (d, w.regs)
  | .rmw _ wide _ (some d) => some (d, if wide then 2 else 1)
  | .xfin fmt _ d => some (d, if fmt = 0 then 2 else 1)
  | _ => none

/-- The lanes whose elements are pending (R204); with `reg`, those for which register `reg` still takes the value: a block
entered since may have made it dead there (R12). -/
def Op.pendLanes (o : Op) : W32 := maskOf ((o.accs.filter (!·.done)).map (·.lane))
def Op.takesIn (o : Op) (reg : Nat) : W32 := maskOf ((o.accs.filter fun a => !a.done && decide (reg < a.live)).map (·.lane))

/-- The lanes, as `f` gives them, of the operations of a warp whose destination is register `reg`. -/
def State.overV (s : State) (k reg : Nat) (f : Op → W32) : W32 :=
  (s.warpOps k).foldl (fun m o => match o.dest with
    | some (.v d, n) => if d.toNat ≤ reg ∧ reg < d.toNat + n then m ||| f o else m
    | _ => m) 0

/-- The lanes in which register `k` of a class is pending for a warp; an s register is pending as a whole. -/
def State.pendV (s : State) (k reg : Nat) : W32 := s.overV k reg (·.pendLanes)

/-- The lanes in which a read of a v register finds it pending. -/
def State.pendRead (s : State) (k reg : Nat) : W32 := s.overV k reg (·.takesIn reg)

def State.pendS (s : State) (k reg : Nat) : Bool :=
  (s.warpOps k).any fun o => match o.kind, o.dest with
    | .load w _, some (.s d, _) => decide (d.toNat ≤ reg) && decide (reg < d.toNat + (if w = .b128 then 2 else 1))
    | _, some (.s d, _) => decide (d.toNat = reg)
    | _, _ => false

/-! ## Poison delivered to a warp (R295, R297) -/

/-- The origin record overwritten by a delivery, with the sticky bit of an uncorrectable error; once that bit is set, only
another uncorrectable error overwrites the record, since R295 reports that kind in preference (DEDUCED, log 16). -/
def Warp.deliver (w : Warp) (o : Origin) (a : Word) : Warp :=
  if o = .none ∨ (w.ucSticky ∧ o ≠ .uncorrectable) then w
  else { w with origin := o, originA := a, ucSticky := w.ucSticky || decide (o = .uncorrectable) }

/-- A poison-consumed condition, reported from the origin record (R294, R295). -/
def Warp.psnTrap (w : Warp) (cause : BitVec 8) : TrapInfo :=
  { cls := clsPoison, cause := cause, addr := w.originA, origin := w.origin }

/-! ## Entering a header (R10 to R12, R107) -/

/-- The live field's effect at an entry: in the lanes that enter, registers from `live` to BND read zero (R12). -/
def Warp.clearDead (w : Warp) (live : Nat) : Warp :=
  { w with v := w.v.filter fun e => !(decide (live ≤ e.1 / 32) && decide (e.1 / 32 < w.bnd) && w.exm.getLsbD (e.1 % 32)) }

/-- The top entries that have reached their reconvergence header `h` (R107): pops with nothing pending, then at most one
switch to the pending lanes. Answers the warp and whether it enters `h`. -/
def Warp.reconverge (w : Warp) (h : Word) : List REntry → Warp × Bool
  | [] => ({ w with rstk := [] }, true)
  | t :: ts =>
    if decide (t.rc = h) && !t.none then
      if t.pend ≠ 0 then
        ({ w with exm := t.pend
                  rstk := { t with pend := 0 } :: ts
                  cstk := w.cstk.drop (w.cstk.length - t.depth)
                  hdr := t.ppc - 8 * BitVec.ofNat 64 t.phoff
                  hw := t.hw
                  reread := decide (t.hw = 0)
                  atHead := false
                  pc := t.ppc }, false)
      else Warp.reconverge { w with exm := t.split } h ts
    else ({ w with rstk := t :: ts }, true)

/-- A block begun at header `h`, with its live field. -/
def Warp.begin_ (w : Warp) (h hw : Word) : Warp :=
  { w.clearDead (hdrLive hw) with hdr := h, hw := hw, pc := h + 8, atHead := false }

/-- The warp at header `h`, whose word `hw` has passed its checks: R107, then the entry and its live field. -/
def Warp.enter (w : Warp) (h hw : Word) : Warp :=
  match w.reconverge h w.rstk with
  | (w1, false) => w1
  | (w1, true) => w1.begin_ h hw

/-- What is still to be delivered to registers that a block has made dead goes nowhere (R12): in the lanes of the current warp,
which enter it, those from `live` on stay as the entry leaves them until the block writes them. -/
def State.deaden (s : State) (live : Nat) : State :=
  let k := s.cur
  let m := s.w.exm
  { s with
    ops := s.ops.map fun o => if o.warp = k then
        { o with accs := o.accs.map fun a => if m.getLsbD a.lane && !a.done then { a with live := Nat.min a.live live } else a }
      else o
    cmds := s.cmds.map fun c => if c.warp = k then { c with dead := (live, m) :: c.dead } else c }

/-- The address after the current block (R11). -/
def Warp.blockEnd (w : Warp) : Word := w.hdr + 8 * BitVec.ofNat 64 (hdrLen w.hw)

/-! ## The sampler's counters (R327) -/

/-- An aggregate counter raised. -/
def State.count (s : State) (n : Nat) : State := { s with smp := { s.smp with cnt := put 0 s.smp.cnt n (look 0 s.smp.cnt n + 1) } }

/-- A per-context counter raised, if it counts a context: the one in SMPCTX, not confidential. -/
def State.countCtx (s : State) (ctx n : Nat) : State :=
  if decide (s.smp.ctx = ctx) && !(s.ctx ctx).conf then s.count n else s

/-- The counter of the pipe to which an opcode goes, 0 for none (R155, R327). -/
def pipeCounter (op : Nat) : Nat :=
  if op < 0x30 ∨ op = 0x30 ∨ op = 0x31 ∨ op = 0x34 then 3
  else if op < 0x60 then 4
  else if op < 0x70 ∨ op = 0x9B then 0
  else if 0x80 ≤ op ∧ op < 0x90 then 6
  else 5

/-- The pipes of a sub-core that an opcode may take (R155): 0 to 2 the FMA pipes, of which an instruction that may take any takes
the last that is free (DESIGN CHOICE, log 98), 3 the special-function pipe, 4 the memory pipe, 5 the cross-lane pipe. Control
and WAIT take none: 6 stands for their issue slot. -/
def pipesOf (op : Nat) : List Nat :=
  match pipeCounter op with
  | 3 => if op < 0x30 then [0] else [2, 1, 0]
  | 4 => [3]
  | 5 => [4]
  | 6 => [5]
  | _ => [6]

/-- The issues of a sub-core in a clock. -/
def Core.issuedIn (c : Core) (sub clk : Nat) : List (Nat × Nat) :=
  (look [] c.slots sub).filter fun e => decide (e.1 = clk) && decide (e.2 < 8)

/-- The pipe that an opcode takes in a clock: one of its own that no instruction of this clock has taken and none of an earlier one
holds; none where the clock's three slots are used (R155). -/
def Core.pipeFree (c : Core) (sub clk op : Nat) : Option Nat :=
  if 3 ≤ (c.issuedIn sub clk).length then none
  else (pipesOf op).find? fun p => !((look [] c.slots sub).any fun e =>
    decide (e.1 = clk) && ((decide (e.2 = p) && decide (p < 6)) || decide (e.2 = p + 8)))

/-- Whether some pipe that an opcode may take accepts an instruction in a clock: no operation of an earlier clock holds it
(R156). -/
def Core.pipeAccepts (c : Core) (sub clk op : Nat) : Bool :=
  (pipesOf op).any fun p => !((look [] c.slots sub).any fun e => decide (e.1 = clk) && decide (e.2 = p + 8))

/-- An issue noted. An FP64 operation holds its FMA pipe for 2 clocks (R155). -/
def Core.takePipe (c : Core) (sub clk op p : Nat) : Core :=
  let old := (look [] c.slots sub).filter fun e => decide (clk ≤ e.1)
  { c with slots := put [] c.slots sub ((clk, p) :: (if op = 0x31 then [(clk + 1, p + 8)] else []) ++ old) }

/-- The major opcode of an instruction. -/
def Instr.op (i : Instr) : Nat := match encode i with | w :: _ => w.toNat / 2 ^ 56 | [] => 0

/-! ## Contexts, launches, marks of a warp -/

def Warp.inh (w : Warp) : Bool := w.tcause.getLsbD 30

/-- TCAUSE as the hardware writes it (R292). -/
def tcauseOf (deferred inh : Bool) (cls cause : BitVec 8) (origin : Nat) : W32 :=
  BitVec.ofNat 32 ((Bool.n deferred) * 2 ^ 31 + (Bool.n inh) * 2 ^ 30 + cls.toNat * 2 ^ 16 + cause.toNat * 2 ^ 8 + origin * 16)

/-- TCAUSE of a trap: the origin is reported for poison-consumed alone. -/
def TrapInfo.tcause (t : TrapInfo) (inh : Bool) : W32 :=
  tcauseOf t.deferred inh t.cls t.cause (if t.cls = clsPoison then t.origin.code else 0)

/-- R297: consuming poison halts a warp to which an uncorrectable error has been delivered; so does a fetched sector of
that kind (R439). -/
def TrapInfo.uncorr (t : TrapInfo) (w : Warp) : TrapInfo :=
  if t.cls = clsPoison ∧ (w.ucSticky ∨ (t.cause = 0x0A ∧ t.origin = .uncorrectable)) then
    { t with cls := clsUncorr, cause := 1 }
  else t

/-- The environment against which a word of the warp decodes (R35). -/
def State.env (s : State) : DecEnv :=
  let w := s.w
  let l := s.launch w.launch
  { bnd := w.bnd, rows := w.rows, nlvl := l.nlvl, doms := l.levels.map (·.dom), priv := (s.ctx w.ctx).priv
    inh := w.inh, last := decide (w.pc + 8 = w.blockEnd) }

/-! ## Versions (R217 to R225, R305 to R307) -/

/-- The version tag that a warp's try holds, 0 for none; its task version is `tskVer`. -/
def State.tryTag (s : State) (k : Nat) : Nat :=
  match s.vers.find? fun e => decide (e.2.warp = k) && !e.2.task with
  | some e => e.1
  | none => 0

/-- The version into which the warp's memory stores are held: its open try's, else its revocable task's, else none. -/
def State.holdTag (s : State) (k : Nat) : Nat :=
  let w := s.warp k
  if w.tryOpen then s.tryTag k
  else if w.tskVer ≠ 0 ∧ ¬ (look {} s.vers w.tskVer).irrev then w.tskVer
  else 0

/-- A free version tag, 1 to 255 (R218). -/
def State.freeTag (s : State) : Option Nat :=
  (List.range Config.versionTags).find? (fun i => !(s.vers.any fun e => decide (e.1 = i + 1))) |>.map (· + 1)

/-- The tag under which an outstanding store of a discarded version goes on: what it would hold is discarded too. -/
def deadTag : Nat := 256

def State.dropVersion (s : State) (v : Nat) : State :=
  { s with vers := put {} s.vers v {}, ops := s.ops.map fun o => if o.ver = v ∧ v ≠ 0 then { o with ver := deadTag } else o }

/-- Held bytes of a version in a line, by offset in the line. -/
def heldIn (m : FMap (Option Held)) (base : Nat) : List (Nat × Held) :=
  m.filterMap fun e => if base ≤ e.1 ∧ e.1 < base + 128 then e.2.map fun h => (e.1 - base, h) else none

/-- The memory lines in which a version holds bytes. -/
def State.heldLines (s : State) (v : Nat) : List Nat := dedup ((look {} s.vers v).mem.map fun e => e.1 / 128)

/-- Held bytes of one sector laid on it, in two parts: a marked sector takes them where one store has overwritten it whole
(R438), else none. -/
def Version.lay (v : Version) (sec : Nat) (ws : List (Nat × Byte)) (x : Sector) : Sector :=
  if decide (x.mark ≠ .none) && !v.whole.contains sec then x else mergeSector x ws

/-- Every held memory byte that `keep` selects written at its home slice, as one step (R222, R305); the core's own copy of
the line goes. A line that can no longer be written leaves the failure's record and a deferred address fault (R198, R199). -/
def State.publishMem (s : State) (v cid : Nat) (keep : Held → Bool) : State :=
  let x := look {} s.vers v
  let ctx := (s.warp x.warp).ctx
  (s.heldLines v).foldl (fun (t : State) line =>
    let ws := ((heldIn x.mem (128 * line)).filter fun e => keep e.2).map fun e => (e.1, e.2.byte)
    if ws = [] then t
    else match (t.writeBackL1 cid line).prepare (.by .store ctx) (128 * line) with
      | (t1, .wait) => t1
      | (t1, .fail c) =>
        let va := look 0 x.vas line
        let w := t1.warp x.warp
        (t1.logFault (128 * line) va ctx c).putWarp x.warp { w with
          deferred := w.deferred ++ [{ cls := clsAddr, cause := c.code, addr := va, deferred := true }] }
      | (t1, r) =>
        -- a marked sector that no store of the version has overwritten whole takes nothing
        let t2 := (t1.fillReady r)
        let ws1 := ws.filter fun e =>
          decide ((t2.readySector r (e.1 / 16)).mark = .none) || x.whole.contains (memSec (128 * line + e.1))
        (t2.writeReady r (128 * line) x.warp ws1).dropClean cid line) s

/-- Whether every held line of a version can be written now, with the requests that it takes: no command owns or marks one,
and at `.pod` and `.sys` no other device holds a copy (R222, R394). -/
def State.canPublish (s : State) (v cid scope : Nat) : State × Bool :=
  let x := look {} s.vers v
  let ctx := (s.warp x.warp).ctx
  let (s1, ok) := (s.heldLines v).foldl (fun (t, ok) line =>
    let t0 := t.writeBackL1 cid line
    match t0.prepare (.by .store ctx) (128 * line) with
    | (t1, .wait) => (t1, false)
    | (t1, .fail _) => (t1, ok)
    | (t1, r) =>
      let t2 := if 5 ≤ scope then t1.soleReady r else t1
      let home := match r with | .spot p => p.ia / 128 | .pin _ _ h => h | _ => line
      let acked := !(t2.homeWaits.any fun h => h.excl && decide (h.src = t2.did) && decide (h.line = home))
      (t2, ok && decide ((t2.l1Line cid line).dirty = 0) && !(t2.cmdOwns line) && (decide (scope < 5) || acked))) (s, true)
  (s1, ok && !(x.spad.any fun e => s1.cmds.any fun c => c.marks (e.1 / 2 ^ 40) (e.1 % 2 ^ 40 / 128)))

/-- Held scratchpad bytes published. -/
def State.publishSpad (s : State) (v : Nat) (keep : Held → Bool) : State :=
  let x := look {} s.vers v
  (dedup (x.spad.map fun e => e.1 / 16)).foldl (fun (t : State) q =>
    let ws := (x.spad.filterMap fun e => if e.1 / 16 = q then e.2.map fun h => (e.1 % 16, h) else none).filter fun e => keep e.2
    if ws = [] then t
    else
      let cid := q * 16 / 2 ^ 40
      let off := q * 16 % 2 ^ 40
      (t.putSpadSector cid off (x.lay (spadSec cid off) (ws.map fun e => (e.1, e.2.byte)) (t.spadSector cid off))).conflict x.warp
        (spadSec cid (off / 128 * 128))) s

/-! ## Barriers (R170 to R173) -/

def barKey (launch lvl unit id : Nat) : Nat := ((launch * 8 + lvl) * 2 ^ 40 + unit) * 16 + id

/-- Warps of a unit that have not retired, wherever they stand. -/
def State.unitWarps (s : State) (launch lvl unit : Nat) : List (Nat × Warp) :=
  s.warps.filter fun e =>
    decide (e.1 < 2 ^ 20) && decide (e.2.launch = launch) && decide (e.2.status ≠ .absent) &&
      decide (e.2.status ≠ .retired) && decide (s.unitOf e.2 lvl = unit)

/-- The scope at which a barrier at a level orders memory (R129, R170). -/
def State.barScope (s : State) (launch lvl : Nat) : Nat := ((s.launch launch).level (lvl - 1)).scope

/-- The acquire half at a scope: at `.clus` or wider, write-back L1s drop their clean lines (R183, R212). -/
def State.acquireL1 (s : State) (launch core ctx scope : Nat) : State :=
  if 2 ≤ scope ∧ (s.launch launch).l1wb then s.invalidateClean core ctx else s

/-- The release half's write-backs: at `.clus` or wider every dirty byte in the core's L1 (R183, R233); at a narrower scope the
bytes that the warp's own `.wb` stores have left there (R125). -/
def State.releaseL1 (s : State) (k core scope : Nat) : State :=
  if 2 ≤ scope then s.flushL1 core else s.flushWb core k

/-- Whether such bytes are still in the L1. -/
def State.l1Left (s : State) (k core scope : Nat) : Bool := if 2 ≤ scope then s.l1Dirty core else s.wbLeft core k

/-- Whether a warp's accesses and counted commands of numbers below `id` are performed (R212, R401). -/
def State.drainedBefore (s : State) (k id : Nat) : Bool :=
  !(s.ops.any fun o => decide (o.warp = k) && decide (o.id < id)) &&
    !(s.cmds.any fun c => decide (c.warp = k) && decide (c.id < id))

/-- Whether a release at a scope has nothing left to wait for: the warp's earlier accesses and commands performed, the L1
clean, and, at `.pod` and `.sys`, the sharers' acknowledgements in (R394, R401). -/
def State.released (s : State) (k core scope id : Nat) : Bool :=
  s.drainedBefore k id && !s.l1Left k core scope &&
    (decide (scope < 5) || !(s.homeWaits.any fun h => h.excl && decide (h.src = s.did)))

/-- The waiters of a barrier. -/
def State.waiters (s : State) (launch lvl unit id : Nat) : List Nat :=
  (s.unitWarps launch lvl unit).filterMap fun e => match e.2.wait with
    | .barrier l i _ _ _ => if l = lvl ∧ i = id then some e.1 else none
    | _ => none

/-! ## The step past an instruction -/

/-- Whether something is pending that is taken at the boundary before the next header or instruction (R293). -/
def Warp.boundary (w : Warp) : Bool := w.ueHalt || !w.deferred.isEmpty || (w.haltReq && !w.inh)

/-! ## Halt, stop and trap -/

/-- SetTag (R17): the tag set, its error bit that of this completion. -/
def State.setTag (s : State) (cid t : Nat) (err : Bool) : State :=
  let c := s.core cid
  let m : Word := 1 <<< t
  let e := if err then c.tagErr ||| m else c.tagErr &&& ~~~m
  s.putCore cid { c with tagDone := c.tagDone ||| m, tagErr := e, tagName := c.tagName &&& ~~~m
                         tagAt := put 0 c.tagAt t (s.clk + 1) }

/-- The tags of a mask that a clear in this clock leaves set: those set in this clock, since the clear comes first (R19,
R242). -/
def State.tagsKept (s : State) (cid : Nat) (m : Word) : Word :=
  (s.core cid).tagAt.foldl (fun (k : Word) e => if e.2 = s.clk + 1 then k ||| (1 <<< e.1) else k) 0 &&& m

/-- The current warp halted (R302): it issues nothing more, its launch is HALTED, its matrix commands stop where they
are, kept for a dump, and a waiting ACCST sets its tag with err 1 (R270). -/
def State.haltWarp (s : State) : State :=
  let w := s.w
  let dump := bit (s.ctx w.ctx).tvec.toNat 2
  let l := s.launch w.launch
  let mine := (s.warpCmds s.cur).filter (·.tiles)
  let s1 := { s with cmds := s.cmds.filter fun c => !(decide (c.warp = s.cur) && c.tiles)
                     haltCmds := if dump then put [] s.haltCmds s.cur mine else s.haltCmds }
  let s2 := mine.foldl (fun (t : State) c => match c.tag with
    | some g => t.setTag c.core g true
    | none => t) s1
  let s3 := { s2 with nextId := s2.nextId + 1 }.setW { w with status := .halted, wait := if dump then .dump s2.nextId else .none, haltReq := false }
  s3.putLaunch w.launch { l with halted := true, faults := if l.gangRow.isSome then l.faults ++ [bits w.tcause.toNat 23 16] else [] }

/-- ABANDONED set on the barriers of every core- and cluster-bound unit that contains a warp (R172). -/
def State.abandon (s : State) (w : Warp) : State :=
  let l := s.launch w.launch
  let keys := ((List.range l.nlvl).filter fun i => decide ((l.level i).dom ≤ 1)).flatMap fun i =>
    (List.range 16).map fun id => barKey w.launch i (s.unitOf w i) id
  { s with bars := keys.foldl (fun m k => let b := look {} m k; put {} m k { b with abandoned := true, since := if b.abandoned then b.since else s.clk + 1 }) s.bars }

/-- A debug ring record (R324). In a confidential context the ring shows the core, the warp, the class and the time alone, and the full
record goes, encrypted, to the context's dump area (R331; in order, at places that the manual does not give: DESIGN CHOICE,
log 115). -/
def State.dbgRecord (s : State) (cause : BitVec 8) (wphit : Nat) (pc : Word) (exm hit : W32) (addr : Word) : State :=
  let cid := s.cid
  let c := s.core cid
  let w0 := BitVec.ofNat 64 (cid * 2 ^ 48 + widOf s.cur * 2 ^ 32 + cause.toNat * 2 ^ 24 + wphit * 2 ^ 20 + 9 * 2 ^ 12)
  let r : List Word := [w0, pc, BitVec.ofNat 64 (exm.toNat * 2 ^ 32 + hit.toNat), addr, BitVec.ofNat 64 s.clk]
  let ring (x : List Word) : State := s.putCore cid { c with dbgRing := (x :: c.dbgRing).take Config.dbgRingSize }
  let x := s.ctx s.w.ctx
  if !x.conf then ring r
  else
    let bs := r.flatMap fun k => toBytes 8 k.toNat
    (ring [BitVec.ofNat 64 (cid * 2 ^ 48 + widOf s.cur * 2 ^ 32 + 9 * 2 ^ 12), 0, 0, 0, BitVec.ofNat 64 s.clk]).putCtx s.w.ctx { x with
      dbgArea := x.dbgArea ++ [(List.range 40).map fun i => Config.cipherByte s.w.ctx (40 * x.dbgArea.length) i bs] }

/-- A debug stop of the current warp before the instruction at its pc (R324). The handler is never entered; the warp
holds until the debugger resumes it. -/
def State.stopAt (s : State) (cause : BitVec 8) (h : WatchHit) : State :=
  let w := s.w
  let s1 := s.dbgRecord cause h.wps w.pc w.exm h.hit h.addr
  s1.setW { w with status := .stopped, urgent := false, haltReq := false, epc := w.pc
                   tcause := tcauseOf false w.inh clsDebug cause 0, taddr := h.addr }

def noHit : WatchHit := {}

/-- TSTATE as a handler entry saves it (R299). -/
def Warp.saveState (w : Warp) : TState :=
  { exm := w.exm, part := w.part, flg := w.flg, rdepth := w.rstk.length, cdepth := w.cstk.length, dbl := false
    hdr := w.hdr, s62 := w.s1 62, s63 := w.s1 63, p := w.p }

/-- The revocable task version of a warp discarded, its index queued again or counted in FAILED (R307, R302). An index that is not
dealt again has no TASKDONE to wait for any more (R154; DESIGN CHOICE, log 104). -/
def State.discardTask (s : State) : State :=
  let w := s.w
  if !(w.tskValid && w.tskVers) then s
  else
    let l := s.launch w.launch
    let i := w.tskIdx.toNat
    let irrev := (look {} s.vers w.tskVer).irrev
    let n := look 0 l.tries i
    let l' : Launch :=
      if irrev || decide (3 ≤ n) then
        { l with failed := l.failed + 1, halted := true, undone := l.undone.filter fun j => decide (j ≠ i) }
      else { l with redeal := l.redeal ++ [i], tries := put 0 l.tries i (n + 1) }
    (((s.countCtx w.ctx 0x10F).dropVersion w.tskVer).putLaunch w.launch l').setW
      { w with tskValid := false, tskVers := false, tskIdx := 0, tskVer := 0 }

/-- Whether a class permits a handler (R291). -/
def clsHandler (c : BitVec 8) : Bool := decide (c ≠ clsUncorr) && decide (c ≠ clsDebug) && decide (c ≠ clsDouble)

/-- The warp halted, with its barriers abandoned (R302). -/
def State.halt (s : State) : State := (s.abandon s.w).haltWarp

/-- A trap taken while the handler runs: double-trap IN-HANDLER (R301). -/
def State.doubleTrap (s : State) (t : TrapInfo) (epc : Word) : State :=
  let w := s.w
  let st := { w.tst with dbl := true, fepc := w.epc, ftcause := w.tcause, ftaddr := w.taddr, stcause := t.tcause true }
  (s.setW { w with tst := st, epc := epc, taddr := t.addr, tcause := tcauseOf t.deferred true clsDouble 1 0 }).halt

/-- Entering the handler (R299): BAD-HANDLER, with TADDR at the handler (DEDUCED, log 17), if its header cannot be
entered. Trap delivery is no branch, fall-through or return, so R107 does not act. The warp goes on at this clock, without
urgency (R158). -/
def State.enterHandler (s : State) (t : TrapInfo) (epc : Word) : State :=
  let w := s.w
  let h : Word := (s.ctx w.ctx).tvec &&& ~~~(7 : Word)
  let w1 := { w with epc := epc, taddr := t.addr, tcause := t.tcause false }
  let bad (u : State) : State := (u.setW { w1 with tcause := tcauseOf t.deferred false clsDouble 2 0, taddr := h }).halt
  match s.fetchWord w.ctx h with
  | .word hw s1 =>
    if headerOk hw && hdrHandler hw then
      (s1.setW ({ w1 with tst := w.saveState, part := 32, tcause := t.tcause true
                          lastIssue := s.clk, ready0 := s.clk, urgent := false }.begin_ h hw)).deaden (hdrLive hw)
    else bad s1
  | .trap _ s1 => bad s1
  | .wait s1 => bad s1

/-- Whether a trap would enter the handler and the handler's header cannot be read yet, with the requests sent. -/
def State.handlerWaits (s : State) (t : TrapInfo) : Option State :=
  let w := s.w
  let tvec := (s.ctx w.ctx).tvec
  if !w.tryOpen && !w.inh && clsHandler (t.uncorr w).cls && bit tvec.toNat 0 then
    match s.fetchWord w.ctx (tvec &&& ~~~(7 : Word)) with
    | .wait s1 => some s1
    | _ => none
  else none

/-- A trap of a warp with no try open (R299 to R302, R307). -/
def State.deliverTrap (s0 : State) (t : TrapInfo) (epc : Word) : State :=
  let s := (s0.count 0x14).countCtx s0.w.ctx 0x107
  if s.w.inh then s.discardTask.doubleTrap t epc
  else
    let s1 := s.discardTask
    if clsHandler t.cls && bit (s1.ctx s1.w.ctx).tvec.toNat 0 then s1.enterHandler t epc
    else (s1.setW { s1.w with epc := epc, taddr := t.addr, tcause := t.tcause false }).halt

/-! ## Whole-warp abort (R221) -/

/-- The rest of an abort, once LOADS and STORES are 0; then the stop that takes effect after it, with EPC at the header after
the TRY: a debug stop, or a halt (R221; a BKPT with INH 1 halts too, R341). -/
def State.finishAbort (s : State) (code : BitVec 8) (stop : Option TrapInfo) (h : WatchHit) : State :=
  let k := s.cur
  let w := s.w
  let c := w.ck
  let keep (m : FMap VEl) (inside : Bool) : FMap VEl :=
    m.filter fun e => (decide (c.k ≤ e.1 / 32) && decide (e.1 / 32 < c.k + c.n)) == inside
  let v := (keep c.v true).foldr (fun e m => put {} m e.1 e.2) (keep w.v false)
  let w1 := { w with
    v := v, p := c.p, exm := c.exm, part := c.part, flg := c.flg
    rstk := w.rstk.drop (w.rstk.length - c.rdepth), cstk := w.cstk.drop (w.cstk.length - c.cdepth)
    tryOpen := false, tryDone := true, tryCode := code, amask := c.exm
    wait := .none, hdr := c.hdr, hw := c.hw, pc := c.next, atHead := true }
  let w2 := w1.setStatus c.exm (.p (BitVec.ofNat 8 c.dreg)) false
  let s1 := ((s.countCtx w.ctx 0x10F).dropVersion (s.tryTag k)).setW w2
  match stop with
  | none => s1
  | some t => if decide (t.cls = clsDebug) && !(w.inh && decide (t.cause = 2)) then s1.stopAt t.cause h else s1.deliverTrap t c.next

/-- The whole warp aborts its try (R221): at once, or when its loads and stores have completed. -/
def State.abortTry (s : State) (code : BitVec 8) (stop : Option TrapInfo) (h : WatchHit := noHit) : State :=
  if s.quiet s.cur then s.finishAbort code stop h
  else s.setW { s.w with wait := .aborting code stop h }

/-- Taking a trap (R17, R221, R299 to R302): inside a try the warp aborts with TRAP, and TCAUSE and TADDR alone are
written; outside, the trap is delivered with EPC at `epc`. -/
def State.takeTrap (s : State) (t0 : TrapInfo) (epc : Word) : State :=
  let t := t0.uncorr s.w
  if s.w.tryOpen then
    (s.setW { s.w with tcause := t.tcause s.w.inh, taddr := t.addr }).abortTry 4
      (if t.cls = clsUncorr ∨ t.cls = clsDebug then some t else none)
  else s.deliverTrap t epc

/-- The same; while the handler's header is still to be read, only the read goes on, and the condition is met again. -/
def State.trapNow (s : State) (t : TrapInfo) (epc : Word) : State :=
  match s.handlerWaits t with
  | some s1 => s1
  | none => s.takeTrap t epc

/-- A debug stop (R324), which inside a try takes effect after the abort (R221). -/
def State.debugStop (s : State) (cause : BitVec 8) (h : WatchHit) : State :=
  if s.w.tryOpen then
    (s.setW { s.w with tcause := tcauseOf false s.w.inh clsDebug cause 0, taddr := h.addr }).abortTry 4
      (some { cls := clsDebug, cause := cause, addr := h.addr }) h
  else s.stopAt cause h

/-! ## Entries to headers (R10, R11, R103, R107) -/

/-- Entry by branch, fall-through or return to a header that has passed its checks; a pop below the depth that TRY recorded
aborts the try with UNSUPPORTED (R221). -/
def State.enterAt (s : State) (h hw : Word) : State :=
  let w := s.w
  let w1 := w.enter h hw
  if w.tryOpen && decide (w1.rstk.length < w.ck.rdepth) then s.abortTry 7 none
  else if (w.reconverge h w.rstk).2 then (s.setW w1).deaden (hdrLive hw) else s.setW w1

/-- Entry by fall-through to the header at the pc: its checks and HANDLER-TARGET, then a halt request that is pending at the
boundary (R293, item 7), then R107 and the live field. -/
def State.enterFall (s : State) : State :=
  let w := s.w
  let h := w.pc
  match s.fetchWord w.ctx h with
  | .wait s1 => s1
  | .trap t s1 => s1.trapNow t h
  | .word hw s1 =>
    if !headerOk hw then s1.trapNow { cls := clsIllegal, cause := Illegal.badHeader.code, addr := h } h
    else if hdrHandler hw then s1.trapNow { cls := clsAlign, cause := 4, addr := h } h
    else if w.haltReq && !w.inh then s1.debugStop 3 noHit
    else s1.enterAt h hw

/-- Whether the warp stands at a header that it has yet to enter. -/
def Warp.atEntry (w : Warp) : Bool := w.atHead || decide (w.pc = w.blockEnd)

/-- The header at the pc entered, if the warp stands at one and nothing is pending that is taken at the boundary first. -/
def State.fall (s : State) : State :=
  let w := s.w
  if w.atEntry && !w.boundary && decide (w.status = .run) then s.enterFall else s

/-- The current warp moved past its instruction; at the end of its block it falls through, unless something is pending
at the boundary, which is taken first. -/
def State.advance (s : State) (n : Nat) : State :=
  let w := s.w
  let w1 := { w with pc := w.pc + 8 * BitVec.ofNat 64 n }
  (s.setW w1).fall

/-- An operation carried out for another warp slot. -/
def State.asWarp (s : State) (k : Nat) (f : State → State) : State :=
  let t := f { s with cur := k }
  { t with cur := s.cur }

/-! ## Barrier release -/

/-- One waiter of a barrier released (R171): status 1 and an acquire if its generation has completed, else status 0, or
the trap if no status is taken. -/
def State.releaseWaiter (s : State) (k : Nat) (b : Barrier) : State :=
  s.asWarp k fun t =>
    let w := t.w
    match (if w.status = .run ∧ ¬ w.reread then w.wait else .none) with
    | .barrier lvl _ g d mask =>
      let w1 := { w with wait := .none, ready0 := t.clk }
      if g < b.gen then ((t.setW (w1.setStatus mask d true)).acquireL1 w.launch (cidOf k) w.ctx (t.barScope w.launch lvl)).advance 1
      else if b.abandoned then
        if d = .p 7 then
          let x : TrapInfo := { cls := clsBarrier, cause := 1 }
          match t.handlerWaits x with
          | some t1 => t1
          | none => (t.setW w1).takeTrap x w1.pc
        else (t.setW (w1.setStatus mask d false)).advance 1
      else t
    | _ => t

/-- Check() of R171 on one barrier of a unit. -/
def State.checkBar (s : State) (launch lvl unit id : Nat) : State :=
  let key := barKey launch lvl unit id
  let b := look {} s.bars key
  let need := if b.n ≠ 0 then b.n else (s.unitWarps launch lvl unit).length
  if decide (b.arr ≠ 0) && decide (need ≤ b.arr) then { s with bars := put {} s.bars key { b with gen := b.gen + 1, arr := 0 } } else s

/-- The launch, level, unit and number that a barrier's key names. -/
def barParts (key : Nat) : Nat × Nat × Nat × Nat := (key / 16 / 2 ^ 40 / 8, key / 16 / 2 ^ 40 % 8, key / 16 % 2 ^ 40, key % 16)

/-- The end of a clock at the barriers (R173): the arrivals, retirements and halts of the clock have been applied; Check() runs
on every barrier, then the waiters of completed generations go on, then those of abandoned barriers (R172). -/
def State.clockBars (s : State) : State :=
  let s1 := s.bars.foldl (fun (t : State) e => let b := barParts e.1; t.checkBar b.1 b.2.1 b.2.2.1 b.2.2.2) s
  s1.warps.foldl (fun (t : State) e => match e.2.wait with
    | .barrier lvl id _ _ _ =>
      if e.1 < 2 ^ 20 then t.releaseWaiter e.1 (look {} t.bars (barKey e.2.launch lvl (t.unitOf e.2 lvl) id)) else t
    | _ => t) s1

/-! ## Retirement (R108, R144, R145) -/

/-- The scratchpad offsets of its own core or cluster that a command has still to use beyond its sources and destinations: the
control word of a queue, whose slots lie in the same region (R256), and the operands of a matrix command (R144). -/
def Cmd.offsets (c : Cmd) : List Nat :=
  match c.kind with
  | .qinit q _ => [q]
  | .qpush q _ _ => [q]
  | .qpop q _ _ => [q]
  | .mat m _ => [m.aoff, m.boff]
  | _ => []

/-- The core and byte that a window or cluster offset of a command's warp names. -/
def State.offsetAt (s : State) (c : Cmd) (x : Nat) : Option (Nat × Nat) :=
  let w := s.warp c.warp
  if 2 ^ 24 ≤ x then (match s.clusAt w c.core (x - 2 ^ 24) with | .ok e => some e | .error _ => none) else s.spadAt w c.core x

/-- Whether a command uses a region's copy on a core (R144): it has a pending mark there, has not yet read a source there, or is
a queue command or a queued matrix command whose word or operands lie there. -/
def State.usesRegion (s : State) (c : Cmd) (cid : Nat) (r : Region) : Bool :=
  let within (k off : Nat) : Bool := decide (k = cid) && decide (r.base ≤ off / 128) && decide (off / 128 < r.base + r.lines)
  let at_ : Loc → Bool := fun x => match x with | .spad k off => within k off | _ => false
  (c.dst.any fun e => at_ e.2) || (c.src.any fun e => e.got.isNone && at_ e.loc) ||
    (c.offsets.any fun x => match s.offsetAt c x with | some e => within e.1 e.2 | none => false)

/-- Whether a region of a core is still needed: by a resident warp of its unit, or by an outstanding command that uses it. -/
def State.regionUsed (s : State) (cid : Nat) (r : Region) : Bool :=
  (s.warps.any fun e => decide (cidOf e.1 = cid) && decide (e.1 < 2 ^ 20) && decide (e.2.status ≠ .absent) &&
      decide (e.2.launch = r.launch) && decide (s.unitOf e.2 r.level = r.unit)) ||
  (s.cmds.any fun c => s.usesRegion c cid r)

/-- Regions and pool rows that nothing needs any more released (R144): the rows of a retired warp go when its TILES is 0, what
else is known of it when its last command has completed. -/
def State.sweepCore (s : State) (cid : Nat) : State :=
  let c := s.core cid
  let s1 := s.putCore cid { c with regions := c.regions.filter (s.regionUsed cid) }
  { s1 with warps := (s1.warps.filter fun e => !(decide (2 ^ 20 ≤ e.1) && decide ((s.warpCmds e.1) = []))).map fun e =>
      if 2 ^ 20 ≤ e.1 ∧ s.tiles e.1 = 0 then (e.1, { e.2 with rows := 0 }) else e }

/-- A warp slot vacated: its loads in flight are discarded, its other operations and its commands go on under a number
of their own, with its pool rows while matrix commands need them (R144), as do the bytes that its `.wb` stores have left in
the L1 (R125). A task version it still holds ends with it (DESIGN
CHOICE, log 19). -/
def State.vacate (s : State) (k : Nat) : State :=
  let w := s.warp k
  let z := 2 ^ 20 + s.nextId
  let ops := (s.ops.filter fun o => !(decide (o.warp = k) && o.readsOnly)).map fun o =>
    if o.warp = k then { o with warp := z, kind := match o.kind with | .rmw op wide sg _ => .rmw op wide sg none | x => x }
    else o
  let cmds := s.cmds.map fun c => if c.warp = k then { c with warp := z } else c
  let held := s.cmds.any fun c => decide (c.warp = k)
  let warps := put {} s.warps k {}
  let s1 := if w.tskVer ≠ 0 then (s.countCtx w.ctx 0x10F).dropVersion w.tskVer else s
  { s1 with nextId := s.nextId + 1, ops := ops, cmds := cmds
            l1 := s.l1.map fun e => (e.1, { e.2 with wb := e.2.wb.map fun b => if b.2 = k + 1 then (b.1, z + 1) else b })
            warps := if held then put {} warps z { w with status := .retired, rows := if s.tiles k = 0 then 0 else w.rows } else warps }

/-- The retirement of a warp: its slot, its block when it was the last (R144) and is neither saved nor flushed (R309); Check() on its
units' barriers follows at the end of the clock (R173). -/
def State.retire (s : State) (k : Nat) : State :=
  let w := s.warp k
  let s1 := s.vacate k
  let b := s1.block w.blk
  let left := b.saved || decide (b.pre = .flush) || s1.warps.any fun e =>
    decide (e.1 < 2 ^ 20) && decide (e.2.blk = w.blk) && decide (e.2.launch = w.launch) && decide (e.2.status ≠ .absent)
  let s2 := if left then s1
    else
      let l := s1.launch w.launch
      ((s1.putBlock w.blk { b with live := false, pre := .none }).putLaunch w.launch { l with retired := l.retired + 1 })
  s2.sweepCore (cidOf k)

/-- Halted warps with no dump to write retire (R302). -/
def State.settle : Nat → State → State
  | 0, s => s
  | fuel + 1, s =>
    match s.warps.find? fun e => decide (e.1 < 2 ^ 20) && decide (e.2.status = .halted) && decide (e.2.wait = .none) with
    | some e => State.settle fuel (s.retire e.1)
    | none => s

/-! ## Issue -/

/-- What an instruction's own checks found before its effect: whether it is ready (and what it has sent if not), the
conditions of R293 items 4 to 6, a watchpoint hit, and those of item 8. -/
structure Checks where
  ready : Bool := true
  sent  : Option State := none
  early : Option TrapInfo := none
  watch : Option WatchHit := none
  late  : Option TrapInfo := none

/-- Rows and elements that an instruction's v and s operands name: not ready while one is a pending row, or an element
to be written is pending in a lane that would write it (R204, R262). A destination of `dn` 32-bit words is `dn` v registers,
or an s register for each two of them. -/
def State.operandsFree (s : State) (i : Instr) (dst : List Opnd) (dn : Nat) (mask : W32) : Bool :=
  let rows := s.pendRows s.cur
  let k := s.cur
  ((uses i).all fun u => match u with
    | .v r n => !(rows.any fun x => decide (r ≤ x) && decide (x < r + n))
    | .vRange r n => !(rows.any fun x => decide (r ≤ x) && decide (x < r + n))
    | _ => true) &&
  (dst.all fun d => match d with
    | .v r => (List.range dn).all fun j => (s.pendV k (r.toNat + j) &&& mask) == 0
    | .s r => (List.range ((dn + 1) / 2)).all fun j => !(s.pendS k (r.toNat + j))
    | _ => true)

/-- A read of a pending element is a delivery of poison of kind PENDING-READ (R204, R295). -/
def State.readPending (s : State) (src : List (Opnd × Nat)) (mask : W32) : State :=
  let k := s.cur
  let hit := mask != 0 && src.any fun e => match e.1 with
    | .v r => (List.range e.2).any fun j => (s.pendRead k (r.toNat + j) &&& mask) != 0
    | .s r => (List.range ((e.2 + 1) / 2)).any fun j => s.pendS k (r.toNat + j)
    | _ => false
  if hit then (s.setW (s.w.deliver .pendingRead s.w.pc)).countCtx s.w.ctx 0x10D else s

/-- What LEVEL of a traced instruction can be, by opcode: 0 none, 6 scratchpad, 7 cluster scratchpad; 8: a level of memory. -/
def levelClass (op : Nat) : Nat :=
  if op = 0x72 ∨ op = 0x73 ∨ op = 0x93 then 6
  else if op = 0x74 ∨ op = 0x75 then 7
  else if (0x70 ≤ op ∧ op ≤ 0x77) ∨ op = 0x8A ∨ (0x90 ≤ op ∧ op ≤ 0x97) then 8
  else 0

/-- The tracer's interval on the current warp's sub-core run down by one issue; at its end the instruction is tagged, but
for one of a confidential context, with which a new interval is to be drawn (R330, R331). It is followed with its warp slot, EXM
and pc, the number that its operation takes (0: it has none), and its class of LEVEL. -/
def State.tagIssue (s : State) (i : Instr) : State :=
  let c := s.core s.cid
  let sub := widOf s.cur / 16
  match look 0 c.tagLeft sub with
  | 0 => s
  | 1 =>
    let lv := levelClass (Instr.op i)
    let it := if (s.ctx s.w.ctx).conf then [] else [widOf s.cur, s.w.exm.toNat, s.w.pc.toNat, if lv = 0 then 0 else s.nextId, lv]
    s.putCore s.cid { c with tagLeft := put 0 c.tagLeft sub 0, tagged := put [] c.tagged sub (look [] c.tagged sub ++ it) }
  | n + 2 => s.putCore s.cid { c with tagLeft := put 0 c.tagLeft sub (n + 1) }

/-- The issue counted (R327). -/
def State.countIssue (s : State) (i : Instr) : State :=
  let s1 := ((s.count 2).count (0x200 + s.cid)).countCtx s.w.ctx 0x100
  if pipeCounter (Instr.op i) = 0 then s1 else s1.count (pipeCounter (Instr.op i))

/-- The issue slot and the pipe that an instruction of the current warp takes in this clock (R155). -/
def State.takeSlot (s : State) (op : Nat) : State :=
  let c := s.core s.cid
  let sub := widOf s.cur / 16
  match c.pipeFree sub s.clk op with
  | some p => s.putCore s.cid (c.takePipe sub s.clk op p)
  | none => s

/-- The instruction counted as issued: its slot, its warp's last-issue time, and no urgency left (R155, R156). -/
def State.issued (s : State) (i : Instr) : State :=
  let s1 := ((s.takeSlot (Instr.op i)).tagIssue i).countIssue i
  s1.setW { s1.w with lastIssue := s1.clk, issues := s1.w.issues + 1, urgent := false
                      skipWp := s1.w.skipWp && decide (s1.w.skipPc ≠ s1.w.pc), skipBk := s1.w.skipBk && decide (s1.w.skipPc ≠ s1.w.pc) }

/-- The conditions of one instruction in the order of R293 from item 3 on, then its effect. An instruction that is not
ready leaves the warp where it is. -/
def issue (i : Instr) (s : State) (c : Checks) (eff : State → State) : Host.Outcome State Fault Refusal :=
  let pc := s.w.pc
  match checkInstr s.env (i.words == 2) false i with
  | .illegal e => .next (s.trapNow { cls := clsIllegal, cause := e.code, addr := pc } pc)
  | .align e => .next (s.trapNow { cls := clsAlign, cause := e, addr := if e = 5 then pc else 0 } pc)
  | .short => .next s
  | .ok _ =>
    if s.w.haltReq && !s.w.inh && c.early.isNone then .next (s.debugStop 3 noHit)
    else if !c.ready then .next (c.sent.getD s)
    else match c.early with
      | some t => .next (s.trapNow t pc)
      | none => match (if s.w.skipWp && decide (s.w.skipPc = pc) then none else c.watch) with
        | some h => .next (s.debugStop 1 h)
        | none => match c.late with
          | some t => .next (s.trapNow t pc)
          | none =>
            if s.upset ≠ 0 then
              let core := s.core s.cid
              let t : TrapInfo := { cls := clsPipe, cause := s.upset }
              match s.handlerWaits t with
              | some s1 => .next s1
              | none => .next ((({ s with upset := 0 }).putCore s.cid { core with errs := core.errs + 1 }).trapNow t pc)
            else .next (eff (s.issued i))

/-- Whether some lane of a mask has a poisoned source among the registers named. -/
def Warp.anyPoison (w : Warp) (srcs : List (Opnd × Nat)) (mask : W32) : Bool :=
  decide (mask ≠ 0) && srcs.any fun e => match e.1 with
    | .v r => (List.range e.2).any fun j => (lanesOf mask).any fun l => (w.v1 (r.toNat + j) l).psn
    | .s r => (List.range ((e.2 + 1) / 2)).any fun j => (w.s1 (r.toNat + j)).psn
    | .p r => (lanesOf mask).any fun l => (w.p1 r.toNat l).psn
    | .l _ => false

/-- A consumption of poison by the lanes of a mask (R16, R294): the trap, and the state in which a read of a pending
element has been recorded as a delivery. -/
def State.consumes (s : State) (cause : BitVec 8) (srcs : List (Opnd × Nat)) (mask : W32) : Option (TrapInfo × State) :=
  if s.w.anyPoison srcs mask then
    let s1 := s.readPending srcs mask
    some (s1.w.psnTrap cause, s1)
  else none

/-- The first consumption among several, with the state in which the instruction then traps. -/
def firstPoison (s : State) : List (Option (TrapInfo × State)) → Option TrapInfo × State
  | [] => (none, s)
  | some (t, s1) :: _ => (some t, s1)
  | none :: rest => firstPoison s rest

/-- A warp-wide instruction's conditions (R160, R271, R333): a poisoned predicate in an active lane is consumed. -/
def State.predTrap (s : State) (pr : Pred) : Option TrapInfo :=
  if s.w.psnd pr ≠ 0 then some (s.w.psnTrap 3) else none

/-- The first condition that holds. -/
def firstTrap : List (Option TrapInfo) → Option TrapInfo
  | [] => none
  | some t :: _ => some t
  | none :: ts => firstTrap ts

/-- An instruction that a try does not allow: in an open try the whole warp aborts with UNSUPPORTED instead, once a lane
participates or its predicate is poisoned there (R221; DEDUCED, log 21). -/
def tryless (i : Instr) (pr : Pred) (s : State) (run : Host.Outcome State Fault Refusal) :
    Host.Outcome State Fault Refusal :=
  if s.w.tryOpen && decide (s.w.holds pr ||| s.w.psnd pr ≠ 0) then issue i s {} fun t => t.abortTry 7 none else run

/-- An atomic or an engine command with a memory destination in a revocable versioned task: the version stalls until it is
the oldest (R306). -/
def State.taskStall (s : State) : Option State :=
  let v := s.w.tskVer
  let x := look {} s.vers v
  if v ≠ 0 ∧ ¬ x.irrev then some { s with vers := put {} s.vers v { x with stalled := true } } else none

/-- Poison-consumed for s operands of a warp-wide instruction (R160, R294, R333). -/
def State.sPoison (s : State) (cause : BitVec 8) (xs : List Opnd) : Option TrapInfo :=
  if xs.any (fun x => x.isS && (s.w.read 64 x 0).psn) then some (s.w.psnTrap cause) else none

/-- An illegal-instruction condition found at issue from operand values (R293, item 5). -/
def State.badField (s : State) (bad : Bool) : Option TrapInfo :=
  if bad then some { cls := clsIllegal, cause := Illegal.reservedField.code, addr := s.w.pc } else none

def State.badRange (s : State) (bad : Bool) : Option TrapInfo :=
  if bad then some { cls := clsIllegal, cause := Illegal.registerRange.code, addr := s.w.pc } else none

end Sys2Proof.Machine
end

