-- ==== Sys2Proof/Machine/Flags.lean ====
section
/-! DEFINITION. Types and widths of integer operations (R66, R67), wrapping and saturation, carries (R75), and the
per-lane operation that integer and floating instructions share (R68, R69, R89). -/

namespace Sys2Proof

/-- Modifiers of a word of R66. -/
def OpO.ty (o : OpO) : Nat := tyOf o.m
def OpO.sat (o : OpO) : Bool := bit o.m.toNat 3
def OpO.sub (o : OpO) : Nat := bits o.m.toNat 2 0

end Sys2Proof

namespace Sys2Proof.Machine

/-- Types of R66: 0 u32, 1 s32, 2 u64, 3 s64. -/
def tySigned (t : Nat) : Bool := decide (t % 2 = 1)
def tyWidth (t : Nat) : Nat := if 2 ≤ t then 64 else 32

/-- Val(x) of R67. -/
def valT (t : Nat) (n : Nat) : Int := if tySigned t then sext (tyWidth t) n else n

/-- The range of a type. -/
def loT (t : Nat) : Int := if tySigned t then - ((2 ^ (tyWidth t - 1) : Nat) : Int) else 0
def hiT (t : Nat) : Int := if tySigned t then ((2 ^ (tyWidth t - 1) : Nat) : Int) - 1 else ((2 ^ tyWidth t : Nat) : Int) - 1

/-- Wrap and Sat of R67. -/
def wrapT (t : Nat) (x : Int) : Nat := wrapN (tyWidth t) x
def satT (t : Nat) (x : Int) : Nat := wrapN (tyWidth t) (if x < loT t then loT t else if hiT t < x then hiT t else x)

/-- A 32-bit result extended to an s register (R67). -/
def extT (t : Nat) (n : Nat) : Nat := if t = 1 then wrapN 64 (sext 32 n) else n

/-- The carry out of an addition of W bits (R75). -/
def carryT (t : Nat) (x : Nat) : Nat := if 2 ^ tyWidth t ≤ x then 1 else 0

/-- Whether a word names an operand as a register that it uses: a field that must be zero is no source (R69, R295). -/
def names (i : Instr) (x : Opnd) : Bool :=
  match x with
  | .v r => (uses i).any fun u => match u with
    | .v k n => decide (k ≤ r.toNat) && decide (r.toNat < k + n)
    | .vRange k n => decide (k ≤ r.toNat) && decide (r.toNat < k + n)
    | _ => false
  | _ => true

/-- An instruction that computes a result per lane, or once for an s destination, from operands alone (R68, R70): `dn`
registers per destination element, `srcs` its sources with their registers, `rd` the lanes whose sources it reads. -/
def aluFrom (i : Instr) (pr : Pred) (d : Opnd) (dn : Nat) (srcs : List (Opnd × Nat)) (rd : W32) (ext : Nat → Nat)
    (f : Warp → Nat → Res) (s : State) : Host.Outcome State Fault Refusal :=
  let m := s.w.holds pr ||| s.w.psnd pr
  issue i s { ready := decide (m = 0) || s.operandsFree i [d] dn m } fun t =>
    let t1 := t.readPending (srcs.filter fun e => names i e.1) rd
    (t1.setW (t1.w.result pr (32 * dn) d ext (f t1.w))).advance i.words

/-- The usual case: each lane reads its own sources. -/
def alu (i : Instr) (pr : Pred) (d : Opnd) (dn : Nat) (srcs : List (Opnd × Nat)) (ext : Nat → Nat)
    (f : Warp → Nat → Res) (s : State) : Host.Outcome State Fault Refusal :=
  aluFrom i pr d dn srcs (s.w.holds pr ||| s.w.psnd pr) ext f s

end Sys2Proof.Machine
end

