-- ==== Sys2Proof/Machine/Sum.lean ====
section
/-! DEFINITION. The exact-sum accumulator: its 32 bytes (R412), one step of XSCALE and XSUM (R413) and what XFIN makes of
them (R414, R63 to R65). -/

namespace Sys2Proof

/-- The fields of R412. -/
structure XAcc where
  int   : Nat            -- I modulo 2^128
  count : Nat
  nan   : Bool
  pinf  : Bool
  ninf  : Bool
  oos   : Bool
  ovc   : Bool
  sc    : Nat
deriving DecidableEq, Repr

/-- The accumulator that 256 bits hold. -/
def XAcc.ofBits (n : Nat) : XAcc :=
  let w := n >>> 128
  { int := n % 2 ^ 128, count := bits w 63 39, nan := bit w 38, pinf := bit w 37, ninf := bit w 36, oos := bit w 35
    ovc := bit w 34, sc := bits n 203 192 }

def XAcc.toBits (x : XAcc) : Nat :=
  x.int % 2 ^ 128 +
    (x.count <<< 39 + Bool.n x.nan <<< 38 + Bool.n x.pinf <<< 37 + Bool.n x.ninf <<< 36 + Bool.n x.oos <<< 35 +
      Bool.n x.ovc <<< 34) <<< 128 + (x.sc % 2 ^ 12) <<< 192

/-- XSCALE (R413). -/
def XAcc.scale (a : XAcc) (x : Num) : XAcc :=
  match x with
  | .fin _ m _ _ =>
    let n := (expOf x + 2048).toNat
    if m ≠ 0 ∧ a.sc < n then { a with oos := a.oos || decide (a.count ≠ 0), sc := n } else a
  | _ => a

/-- XSUM (R413): the contribution is truncated toward zero at 2^(S−102). -/
def XAcc.add (a : XAcc) (x : Num) : XAcc :=
  let c := Nat.min (a.count + 1) (2 ^ 24 + 1)
  let a1 := { a with count := c, ovc := a.ovc || decide (2 ^ 24 < c) }
  match x with
  | .nan _ => { a1 with nan := true }
  | .inf s => if s then { a1 with ninf := true } else { a1 with pinf := true }
  | .fin s m e _ =>
    if m = 0 then a1
    else
      let sS : Int := (a.sc : Int) - 2048
      if a.sc = 0 ∨ sS < expOf x then { a1 with oos := true }
      else
        let k := e + 102 - sS
        let t := (m <<< k.toNat) >>> (-k).toNat
        { a1 with int := wrapN 128 ((a.int : Int) + (if s then - (t : Int) else t)) }

/-- XFIN (R414): the element's bits and its flags. R64 has XFIN return an infinity where one infinity bit is set; in a format that
has none, E4M3, the infinity is rounded as any other value is (DESIGN CHOICE, log 100). -/
def XAcc.result (a : XAcc) (fmt rm rnd : Nat) : Nat × BitVec 8 :=
  if a.nan || (a.pinf && a.ninf) || a.oos || a.ovc then ((fmtOf fmt).qnan, fNV)
  else if a.pinf then round fmt rm rnd (.inf false)
  else if a.ninf then round fmt rm rnd (.inf true)
  else
    let i := sext 128 a.int
    if i = 0 then (0, 0) else round fmt rm rnd (.fin (decide (i < 0)) i.natAbs ((a.sc : Int) - 2150) false)

end Sys2Proof
end

