-- ==== Sys2Proof/Machine/Access.lean ====
section
/-! DEFINITION. How an outstanding load, store, atomic or cache operation is performed and completed: the order within its
warp (R14, R228 to R232), its place at the caches, the home slice, a pin, a peer or a scratchpad (R119 to R125, R181 to
R187, R363, R365), versions that hold its stores (R219, R305), failures (R198, R199, R211), and completion (R124, R210). -/

namespace Sys2Proof.Machine

/-! ## What an access touches -/

/-- The line of a transaction entry (R206): even keys are memory lines, odd ones scratchpad lines. -/
def Loc.key : Loc → Option Nat
  | .mem ia => some (2 * (ia / 128))
  | .spad cid off => some (2 * (spadKey cid off / 128) + 1)
  | .miss _ => none

/-- The transaction entries an operation still holds (R206). -/
def Op.entries (o : Op) : Nat := (dedup ((o.accs.filter (!·.done)).filterMap fun a => a.loc.key)).length

def State.transUsed (s : State) (cid : Nat) : Nat := sumOf (·.entries) (s.ops.filter fun o => decide (o.core = cid))

/-- Whether two accesses name a common byte. -/
def Loc.meets : Loc → Nat → Loc → Nat → Bool
  | .mem a, n, .mem b, m => decide (a < b + m) && decide (b < a + n)
  | .spad c a, n, .spad d b, m => decide (c = d) && decide (a < b + m) && decide (b < a + n)
  | _, _, _, _ => false

/-- The lanes for which one access of an operation is made: its own, or those that take part in a uniform load. -/
def Op.actsFor (o : Op) (a : Acc) : W32 := if o.lanes = 0 then 1 <<< a.lane else o.lanes

/-- Whether an access is the next of its lane on its bytes (R228), no earlier acquire of its warp is outstanding, no earlier
release fence is, and what an earlier releasing access waits for has been performed (R212, R232, R234). -/
def State.ordered (s : State) (o : Op) (a : Acc) : Bool :=
  s.ops.all fun e =>
    !(decide (e.warp = o.warp) && decide (e.id < o.id)) ||
      (!e.acq && (!e.rel || (!e.isFence && s.drainedBefore e.warp e.id)) && e.accs.all fun b =>
        b.done || !(decide (e.actsFor b &&& o.actsFor a ≠ 0) && b.loc.meets b.n a.loc a.n))

/-- A memory line that a command issued after this operation, or by another agent, does not leave to it (R250, R400), or that
an earlier command of its warp has yet to read (R229). -/
def State.lineHeld (s : State) (o : Op) (line : Nat) : Bool :=
  s.cmds.any fun c => (c.owns line && !(decide (c.warp = o.warp) && decide (o.id < c.id))) ||
    (decide (c.warp = o.warp) && decide (c.id < o.id) && c.readsMem line)

/-- Whether a queue command of another warp that has arrived before and can go on has the control word that some bytes of a
scratchpad meet (R257): a store to the word is performed in the order of arrival. -/
def State.wordHeld (s : State) (warp cid off n : Nat) : Bool :=
  s.cmds.any fun c => decide (c.warp ≠ warp) && !c.held && decide (c.arrived ≠ 0) && (match c.word with
    | some (k, o) => decide (k = cid) && decide (off < o + 8) && decide (o < off + n)
    | none => false)

/-- The same of a scratchpad line and its pending marks. -/
def State.spadHeld (s : State) (warp id cid off : Nat) : Bool :=
  s.cmds.any fun c => (c.marks cid (off / 128) && !(decide (c.warp = warp) && decide (id < c.id))) ||
    (decide (c.warp = warp) && decide (c.id < id) && c.readsSpad cid (off / 128))

/-! ## Versions: what a warp's try and task hold -/

/-- Held bytes of a version in one sector, by offset in the sector. -/
def heldSector (m : FMap (Option Held)) (q : Nat) : List (Nat × Byte) :=
  m.filterMap fun e => if e.1 / 16 = q then e.2.map fun h => (e.1 % 16, h.byte) else none

/-- A sector as the warp with the given try and task tags sees it. -/
def State.seenBy (s : State) (try_ task : Nat) (mem : Bool) (q : Nat) (x : Sector) : Sector :=
  let lay (v : Nat) (x : Sector) : Sector :=
    let ver := look {} s.vers v
    match heldSector (if mem then ver.mem else ver.spad) q with
    | [] => x
    | ws => ver.lay (if mem then q else 2 ^ 60 + q) ws x
  lay try_ (if mem then lay task x else x)

/-- Whether a version may hold a line: a way of the line's set is its own already, or fewer than 6 ways of the set hold versions
(R219). -/
def State.wayFree (s : State) (v line : Nat) : Bool :=
  (look {} s.vers v).ways.contains line || decide (s.versionWays (s.setOf line) < Config.versionWays)

/-- A way of its set given to a line that a version touches, lines that are in the way replaced (R186, R219). -/
def State.takeWay (s : State) (v line : Nat) : State :=
  let x := look {} s.vers v
  if x.ways.contains line then s
  else State.fitL2 (2 * Config.l2Tags) { s with vers := put {} s.vers v { x with ways := line :: x.ways } } line

/-- The lane added to a try's reader mask of a sector (R219); a memory line touched takes a way, while one is free. -/
def State.noteRead (s : State) (v sec lane : Nat) : State :=
  if v = 0 then s
  else
    let s1 := if sec < 2 ^ 60 ∧ s.wayFree v (sec / 8) then s.takeWay v (sec / 8) else s
    let x := look {} s1.vers v
    { s1 with vers := put {} s1.vers v { x with rd := put 0 x.rd sec (look 0 x.rd sec ||| (1 <<< lane)) } }

/-- Bytes held under a version for a lane, with the writer mask of their sector (R219). -/
def State.hold (s : State) (v : Nat) (mem : Bool) (sec at_ lane : Nat) (va : Word) (bs : List Byte) : State :=
  let x := look {} s.vers v
  let hs := bs.map fun b => some { byte := b, lane := lane : Held }
  let x1 := if mem then { x with mem := putRun none x.mem at_ hs, vas := put 0 x.vas (at_ / 128) va }
    else { x with spad := putRun none x.spad at_ hs }
  { s with vers := put {} s.vers v { x1 with wr := put 0 x1.wr sec (look 0 x1.wr sec ||| (1 <<< lane)) } }

/-- The sectors that the bytes of one store cover whole, noted in the version that holds them (R438). -/
def State.noteWhole (s : State) (v : Nat) (secs : List Nat) : State :=
  if secs = [] then s
  else let x := look {} s.vers v; { s with vers := put {} s.vers v { x with whole := dedup (secs ++ x.whole) } }

/-! ## Reading one sector -/

/-- What reading a sector for a load answers. -/
inductive Got where
  | ok (s : State) (x : Sector)
  | fail (s : State) (c : MemCause)
  | wait (s : State)

/-- Whether the L1 may hold a line that is ready: the page's home is 0 (R182). -/
def Ready.l1May : Ready → Bool
  | .spot p => p.l1
  | .held _ _ l1 => l1
  | _ => false

/-- The sector of an IA for a core's load: a valid L1 copy, unless the load is `.fresh`; else the home slice's, with the
L1's dirty bytes over it, filled into the L1 unless `.nc` or dropped from it when `.fresh` (R125, R183, R228, R236). -/
def State.readSector (s : State) (o : Op) (ia : Nat) (fresh : Bool) : Got :=
  let line := ia / 128
  let q := ia % 128 / 16
  let l1 := s.l1Line o.core line
  if !fresh && bit l1.valid.toNat q then .ok (s.putL1 o.core line (l1.usedBy o.ctx)) (l1.sector q)
  else match s.prepare { Need.by .load o.ctx with id := o.id } ia with
    | (s1, .wait) => .wait s1
    | (s1, .fail c) => .fail s1 c
    | (s1, r0) =>
      let r := if o.nc then r0.noAlloc else r0
      let fill := !fresh && r.l1May
      match (if fill then s1.l1Room o.core line else (s1, true)) with
      | (s2, false) => .wait s2
      | (s2, true) =>
        let s3 := s2.fillReady r
        let l := s3.l1Line o.core line
        let x := l.overlay q (s3.readySector r q)
        let s4 :=
          if fresh then s3.dropClean o.core line
          else if fill then s3.putL1 o.core line ((l.putSector q x).usedBy o.ctx)
          else s3
        .ok (s4.doneReady r) x

/-- The same for a load that waits on owned lines: an L1 copy serves a core other than the owning command's (R236, R400). -/
def State.loadSector (s : State) (o : Op) (ia : Nat) (fresh : Bool) : Got :=
  let line := ia / 128
  let hit := !fresh && bit (s.l1Line o.core line).valid.toNat (ia % 128 / 16)
  if s.lineHeld o line && !(hit && s.cmds.all fun c => !(c.owns line || c.readsMem line) || decide (c.core ≠ o.core)) then
    .wait s
  else s.readSector o ia fresh

/-! ## Deliveries to registers -/

/-- Extend of R43 for a v destination of 32 bits. -/
def extend (w : Width) (n : Nat) : Nat :=
  match w with
  | .s8 => wrapN 32 (sext 8 n) | .s16 => wrapN 32 (sext 16 n) | _ => n

/-- A value of `b` bits written to one lane of a v register or pair, of which the registers below `live` take it (R12). -/
def Warp.writeLive (w : Warp) (live b k l : Nat) (x : Val) : Warp :=
  if k + 2 ≤ live ∨ (b ≠ 64 ∧ k < live) then w.writeV b k l x
  else if b = 64 ∧ k < live then w.setV1 k l (BitVec.ofNat 32 x.n) x.psn
  else w

/-- A loaded element written to its destination (R122). -/
def Warp.loaded (w : Warp) (wd : Width) (d : Opnd) (live lane n : Nat) (psn : Bool) : Warp :=
  match d with
  | .v k =>
    match wd with
    | .b128 => (w.writeLive live 64 k.toNat lane { n := n % 2 ^ 64, psn := psn }).writeLive live 64 (k.toNat + 2) lane
        { n := n >>> 64, psn := psn }
    | .u64 => w.writeLive live 64 k.toNat lane { n := n, psn := psn }
    | _ => w.writeLive live 32 k.toNat lane { n := extend wd n, psn := psn }
  | .s k =>
    match wd with
    | .b128 => (w.setS1 k.toNat (BitVec.ofNat 64 n) psn).setS1 (k.toNat + 1) (BitVec.ofNat 64 (n >>> 64)) psn
    | _ => w.setS1 k.toNat (BitVec.ofNat 64 n) psn
  | _ => w

/-- One lane's delivery of poison: lane, kind, address (R295). -/
abbrev Delivery := Nat × Origin × Word

/-- The deliveries of one step as one: the lowest lane's, an uncorrectable error first (DEDUCED, log 16). -/
def Warp.deliverAll (w : Warp) (ds : List Delivery) : Warp :=
  let us := ds.filter fun d => decide (d.2.1 = .uncorrectable)
  match sortBy (·.1) (if us = [] then ds else us) with
  | [] => w
  | (_, o, a) :: _ => w.deliver o a

/-- The deliveries of one step to an operation's warp, counted as one (R295, R327; DEDUCED, log 120). -/
def State.deliverTo (s : State) (o : Op) (ds : List Delivery) : State :=
  (s.putWarp o.warp ((s.warp o.warp).deliverAll ds)).countCtx o.ctx 0x10D

/-- An operation replaced in the list of outstanding ones. -/
def State.putOp (s : State) (o : Op) : State := { s with ops := s.ops.map fun e => if e.id = o.id then o else e }

def State.op (s : State) (id : Nat) : Option Op := s.ops.find? fun o => decide (o.id = id)

/-- Accesses of an operation marked performed. -/
def State.doneAccs (s : State) (id : Nat) (lanes : List Nat) : State :=
  { s with ops := s.ops.map fun e =>
      if e.id = id then { e with accs := e.accs.map fun a => if lanes.contains a.lane then { a with done := true } else a }
      else e }

def State.addFail (s : State) (id lane : Nat) (t : TrapInfo) : State :=
  { s with ops := s.ops.map fun e => if e.id = id then { e with fails := e.fails ++ [(lane, t)] } else e }

/-! ## Loads -/

/-- The address under which a delivery is recorded: the VA, or the scratchpad offset that the access formed. -/
def Acc.at_ (a : Acc) : Word := a.va

/-- The lanes of a load that name the same bytes, performed as one read: each of them receives the same value (R122, R123). `as`
are their accesses, of one place and width. -/
def State.loadLanes (s : State) (o : Op) (wd : Width) (d : Opnd) (as : List Acc) : State × List Delivery :=
  match as with
  | [] => (s, [])
  | a :: _ =>
    let give (t : State) (n : Nat) (psn : Bool) : State :=
      (t.putWarp o.warp (as.foldl (fun w b => w.loaded wd d b.live b.lane n psn) (t.warp o.warp))).doneAccs o.id (as.map (·.lane))
    let tell (k : Origin) : List Delivery := as.map fun b => (b.lane, k, b.at_)
    let note (t : State) (v sec : Nat) : State := as.foldl (fun u b => u.noteRead v sec b.lane) t
    let take (t : State) (x : Sector) (off : Nat) : State × List Delivery :=
      if x.mark = .none then (give t (ofBytes ((x.data.drop (off % 16)).take a.n)) false, [])
      else (give t 0 true, tell x.mark)
    let k := o.warp
    match a.loc with
    | .miss psn => (give s 0 true, if psn then [] else tell .translation)
    | .spad cid off =>
      if s.spadHeld o.warp o.id cid off then (s, [])
      else
        let v := if (s.warp k).tryOpen then s.tryTag k else 0
        let x := s.seenBy v 0 false (spadKey cid off / 16) (s.spadSector cid off)
        take (note s v (spadSec cid off)) x off
    | .mem ia =>
      let w := s.warp k
      let v := if w.tryOpen then s.tryTag k else 0
      match s.loadSector o ia (o.fresh || decide (v ≠ 0) || decide (w.tskVer ≠ 0)) with
      | .wait s1 => (s1, [])
      | .fail s1 c => (give (s1.logFault ia a.va o.ctx c) 0 true, tell c.origin)
      | .ok s1 x => take (note s1 v (memSec ia)) (s1.seenBy v w.tskVer true (ia / 16) x) ia

/-! ## Stores -/

/-- The bytes that accesses write into their common line, by offset, in lane order: the highest lane's stands (R123). -/
def lineBytes (as : List Acc) : List (Nat × Byte) :=
  as.flatMap fun a =>
    let o := match a.loc with | .mem ia => ia % 128 | .spad _ off => off % 128 | .miss _ => 0
    (List.range a.n).map fun i => (o + i, nth 0 a.data i)

/-- A core's own copy updated in place by a store that was written through (R183, R236). -/
def State.updateL1 (s : State) (cid line : Nat) (ws : List (Nat × Byte)) : State :=
  let l := s.l1Line cid line
  if l.valid = 0 ∧ l.dirty = 0 then s
  else
    let l1 := (touched ws).foldl (fun (l : L1Line) q =>
      if bit l.valid.toNat q then l.putSector q (mergeSector (l.sector q) (wsSector ws q)) else l) l
    s.putL1 cid line (l1.clean (ws.foldl (fun (m : BitVec 128) w => m ||| (1 <<< w.1)) 0))

/-- Bytes that a store leaves dirty in a core's L1 (R125, R183): `wb` under the read-only policy. A sector known to be marked
takes only a whole overwrite (R438). -/
def State.dirtyL1 (s : State) (o : Op) (wb : Bool) (line : Nat) (va : Word) (ws : List (Nat × Byte)) : State :=
  let l := s.l1Line o.core line
  let l1 := (touched ws).foldl (fun (l : L1Line) q =>
    let part := wsSector ws q
    let old := l.sector q
    if decide (old.mark ≠ .none) && !((List.range 16).all fun i => part.any fun w => w.1 == i) then l
    else
      let new := mergeSector old part
      { l with data := putRun 0 l.data (16 * q) new.data
               mark := put .none l.mark q .none
               dirty := part.foldl (fun (m : BitVec 128) w => m ||| (1 <<< (16 * q + w.1))) l.dirty
               wb := part.foldl (fun m w => put 0 m (16 * q + w.1) (if wb then o.warp + 1 else 0)) l.wb }) l
  (s.putL1 o.core line { l1.usedBy o.ctx with va := va }).conflictFor
    (fun k => decide (k / 64 = o.core) && decide (k ≠ o.warp)) (memSec (128 * line))

/-- The sectors of a line that a byte list covers whole. -/
def wholeSecs (ws : List (Nat × Byte)) (sec0 : Nat) : List Nat :=
  ((touched ws).filter fun q => (List.range 16).all fun i => (wsSector ws q).any fun w => w.1 == i).map fun q => sec0 + q

/-- The accesses of a store to one line held under its version (R219, R305): not before a way is free, which a try aborts
on and a task waits to become the oldest for (R306). -/
def State.holdLine (s : State) (o : Op) (as : List Acc) : State :=
  match as with
  | [] => s
  | a0 :: _ =>
    let lanes := as.map (·.lane)
    match a0.loc with
    | .miss _ => s
    | .spad cid off =>
      let sec0 := spadSec cid (off / 128 * 128)
      let s1 := as.foldl (fun (t : State) a => match a.loc with
        | .spad c f => t.hold o.ver false (spadSec c f) (spadKey c f) a.lane a.va a.data
        | _ => t) (s.noteWhole o.ver (wholeSecs (lineBytes as) sec0))
      (s1.conflict o.warp sec0).doneAccs o.id lanes
    | .mem ia =>
      if !s.wayFree o.ver (ia / 128) then
        let x := look {} s.vers o.ver
        if x.task then { s with vers := put {} s.vers o.ver { x with stalled := true } }
        else ((s.doneAccs o.id lanes).asWarp o.warp fun t => t.abortTry 2 none)
      else
        let sec0 := memSec (ia / 128 * 128)
        let s1 := as.foldl (fun (t : State) a => match a.loc with
          | .mem i => t.hold o.ver true (memSec i) i a.lane a.va a.data
          | _ => t) ((s.takeWay o.ver (ia / 128)).noteWhole o.ver (wholeSecs (lineBytes as) sec0))
        (s1.conflict o.warp sec0).doneAccs o.id lanes

/-- A failure of an operation logged (R198): lanes that fail at one VA leave one entry, as R350 has it (DEDUCED, log 106). -/
def State.logOnce (s : State) (o : Op) (ia : Nat) (va : Word) (c : MemCause) : State :=
  let cur := (s.op o.id).getD o
  if cur.fails.any fun f => cur.accs.any fun a => decide (a.lane = f.1) && decide (a.va = va) then s else s.logFault ia va o.ctx c

/-- A store's accesses to one line failed: nothing written, a deferred address fault for each lane (R198, R199). -/
def State.failStore (s : State) (o : Op) (as : List Acc) (c : MemCause) : State :=
  as.foldl (fun (t : State) a =>
    let ia := match a.loc with | .mem i => i | _ => 0
    ((t.logOnce o ia a.va c).addFail o.id a.lane
      { cls := clsAddr, cause := c.code, addr := a.va, deferred := true }).doneAccs o.id [a.lane]) s

/-- A store's accesses to one line of memory performed: held, left dirty in the L1, or written through. A STREL at `.clus` or
wider leaves nothing of its own dirty (R183, R237; DEDUCED, log 42). -/
def State.storeMem (s : State) (o : Op) (as : List Acc) (ia : Nat) : State :=
  let line := ia / 128
  let lanes := as.map (·.lane)
  if o.ver = deadTag then s.doneAccs o.id lanes
  else if s.lineHeld o line then s
  else if decide (o.ver ≠ 0) && !(look {} s.vers o.ver).irrev then
    match s.at (.by .store o.ctx) ia with
    | .wait => s
    | .fail c => s.failStore o as c
    | _ => s.holdLine o as
  else
    let ws := lineBytes as
    let place := s.at (.by .store o.ctx) ia
    let l1ok := match place with
      | .loc p => p.l1
      | .peer _ _ _ l1 => l1
      | _ => false
    let l := s.l1Line o.core line
    let wb := o.wb && !(s.launch o.launch).l1wb
    let dirty := ((s.launch o.launch).l1wb || o.wb) && l1ok && (!o.nc || decide (l.valid ≠ 0) || decide (l.dirty ≠ 0)) &&
      !(o.rel && decide (2 ≤ o.scope))
    match place with
    | .wait => s
    | .fail c => s.failStore o as c
    | _ =>
      if dirty then
        match s.l1Room o.core line with
        | (s1, false) => s1
        | (s1, true) =>
          (s1.dirtyL1 o wb line (match as with | a :: _ => a.va | [] => 0) ws).doneAccs o.id lanes
      else match s.prepare (.by .store o.ctx) ia with
        | (s1, .wait) => s1
        | (s1, .fail c) => s1.failStore o as c
        | (s1, r) => ((s1.writeReady (if o.nc then r.noAlloc else r) ia o.warp ws).updateL1 o.core line ws).doneAccs o.id lanes

/-- A store's accesses to one scratchpad line performed. -/
def State.storeSpad (s : State) (o : Op) (as : List Acc) (cid off : Nat) : State :=
  let lanes := as.map (·.lane)
  if s.spadHeld o.warp o.id cid off || (as.any fun a => match a.loc with
      | .spad k f => s.wordHeld o.warp k f a.n
      | _ => false) then s
  else if o.ver = deadTag then s.doneAccs o.id lanes
  else if o.ver ≠ 0 then s.holdLine o as
  else
    let ws := lineBytes as
    let s1 := (touched ws).foldl (fun (t : State) q =>
      let f := off / 128 * 128 + 16 * q
      t.putSpadSector cid f (mergeSector (t.spadSector cid f) (wsSector ws q))) s
    (s1.conflict o.warp (spadSec cid (off / 128 * 128))).doneAccs o.id lanes

/-- All of a store's accesses to one line, performed as one (R123, R438; DEDUCED, log 20). -/
def State.storeLine (s : State) (o : Op) (as : List Acc) : State :=
  match as with
  | [] => s
  | a :: _ =>
    match a.loc with
    | .miss _ => s.doneAccs o.id (as.map (·.lane))
    | .spad cid off => s.storeSpad o as cid off
    | .mem ia => s.storeMem o as ia

/-! ## Atomics -/

/-- The new value of one read-modify-write (R209). -/
def rmwNew (op : RmwOp) (wide signed : Bool) (old b newv : Nat) : Nat :=
  let n := if wide then 64 else 32
  let val (x : Nat) : Int := if signed then sext n x else x
  let c := if wide then 0 else 1
  let fminmax (less : Num → Num → Bool) : Nat :=
    let x := unpack c old
    let y := unpack c b
    if x.isNan && y.isNan then (fmtOf c).qnan else if x.isNan then b else if y.isNan then old
    else if less y x then b else old
  match op with
  | .add => (old + b) % 2 ^ n
  | .min => if val old ≤ val b then old else b
  | .max => if val old ≤ val b then b else old
  | .and => old &&& b
  | .or => old ||| b
  | .xor => old ^^^ b
  | .exch => b
  | .inc => if b ≤ old then 0 else old + 1
  | .dec => if old = 0 ∨ b < old then b else old - 1
  | .fadd => (round c 0 0 (addN 0 (unpack c old) (unpack c b)).1).1
  | .fmin => fminmax lessN
  | .fmax => fminmax fun y x => lessN x y
  | .cas => if old = b then newv else old
  | .xscale f => ((XAcc.ofBits old).scale (unpack f b)).toBits
  | .xsum f => ((XAcc.ofBits old).add (unpack f b)).toBits

/-- The bytes that a read-modify-write covers. -/
def rmwBytes (op : RmwOp) (wide : Bool) : Nat :=
  match op with
  | .xscale _ => 32 | .xsum _ => 32 | _ => if wide then 8 else 4

/-- One lane's read-modify-write, of warp `me`, on a ready line of memory: the old value, or the mark that leaves all as it is (R211). -/
def State.rmwReady (s : State) (me : Nat) (r : Ready) (ia : Nat) (op : RmwOp) (wide signed : Bool) (b newv : Nat) :
    State × Except Origin Nat :=
  let n := rmwBytes op wide
  let q := ia % 128 / 16
  let x := s.readySector r q
  let y := if n = 32 then s.readySector r (q + 1) else x
  if x.mark ≠ .none then (s, .error x.mark)
  else if y.mark ≠ .none then (s, .error y.mark)
  else
    let all := if n = 32 then x.data ++ y.data else x.data
    let old := ofBytes ((all.drop (ia % 16)).take n)
    let new := toBytes n (rmwNew op wide signed old b newv)
    let ws := (List.range n).map fun i => (ia % 128 + i, nth 0 new i)
    (s.writeReady r ia me ws, .ok old)

/-- The same in a scratchpad (ATOMS, R209). -/
def State.rmwSpad (s : State) (me cid off : Nat) (op : RmwOp) (wide signed : Bool) (b newv : Nat) : State × Except Origin Nat :=
  let n := rmwBytes op wide
  let x := s.spadSector cid off
  if x.mark ≠ .none then (s, .error x.mark)
  else
    let old := ofBytes ((x.data.drop (off % 16)).take n)
    let new := toBytes n (rmwNew op wide signed old b newv)
    let ws := (List.range n).map fun i => (off % 16 + i, nth 0 new i)
    ((s.putSpadSector cid off (mergeSector x ws)).conflict me (spadSec cid (off / 128 * 128)), .ok old)

/-- One lane's old value, or poison, given to its register, its access performed. -/
def State.giveOld (s : State) (o : Op) (wide : Bool) (d : Option Opnd) (a : Acc) (old : Nat) (psn : Bool) : State :=
  let b := if wide then 64 else 32
  let s1 := match d with
    | some (.v k) => s.putWarp o.warp ((s.warp o.warp).writeLive a.live b k.toNat a.lane { n := old, psn := psn })
    | some x => s.putWarp o.warp ((s.warp o.warp).write b x a.lane { n := old, psn := psn })
    | none => s
  s1.doneAccs o.id [a.lane]

/-- What one lane's read-modify-write left behind. -/
def State.rmwDone (s : State) (o : Op) (wide : Bool) (d : Option Opnd) (a : Acc) (res : Except Origin Nat) :
    State × List Delivery :=
  match res with
  | .ok old => ((s.giveOld o wide d a old false).countCtx o.ctx 0x10C, [])
  | .error m =>
    ((s.giveOld o wide d a 0 true).addFail o.id a.lane
        { cls := clsPoison, cause := 6, addr := a.va, origin := m, deferred := true },
      if d.isSome then [(a.lane, m, a.va)] else [])

/-- A failed translation of one lane's atomic (R198, R199). -/
def State.rmwFail (s : State) (o : Op) (wide : Bool) (d : Option Opnd) (a : Acc) (ia : Nat) (c : MemCause) :
    State × List Delivery :=
  (((s.logOnce o ia a.va c).giveOld o wide d a 0 true).addFail o.id a.lane
      { cls := clsAddr, cause := c.code, addr := a.va, deferred := true },
    if d.isSome then [(a.lane, c.origin, a.va)] else [])

/-- The atomic packet of an operation's lanes in one line of a peer (R365), sent once. -/
def State.sendAtomic (s : State) (o : Op) (op : RmwOp) (wide signed : Bool) (line dev pia : Nat) : State :=
  let as := o.accs.filter fun a => !a.done && match a.loc with | .mem i => decide (i / 128 = line) | _ => false
  let asked := s.peerReqs.any fun r => decide (r.op = o.id) && decide (r.line = line)
  if asked || !(as.all fun a => s.ordered o a) then s
  else
    let id := s.nextId
    let lanes := as.map fun a =>
      { lane := a.lane, addr := pia / 128 * 128 + (match a.loc with | .mem i => i % 128 | _ => 0)
        opnd := a.opnd, newv := a.newv : RmwLane }
    { s with nextId := id + 1
             peerReqs := s.peerReqs ++ [{ id := id, dev := dev, line := line, excl := false, op := o.id
                                          lanes := as.map (·.lane) }]
             outbox := .atomic dev { req := id, op := op, wide := wide, signed := signed, lanes := lanes } :: s.outbox }

/-- One lane of an atomic performed: at the home slice, the pin or the scratchpad, or by an atomic packet (R209, R365). -/
def State.rmwLane (s : State) (o : Op) (op : RmwOp) (wide signed : Bool) (d : Option Opnd) (a : Acc) :
    State × List Delivery :=
  let b := a.opnd.toNat
  match a.loc with
  | .miss _ => (s.giveOld o wide d a 0 true, [])
  | .spad cid off =>
    if s.spadHeld o.warp o.id cid off then (s, [])
    else let (s1, res) := s.rmwSpad o.warp cid off op wide signed b a.newv.toNat; s1.rmwDone o wide d a res
  | .mem ia =>
    let line := ia / 128
    if s.lineHeld o line then (s, [])
    else match s.at (.by .rmw o.ctx) ia with
      | .wait => (s, [])
      | .fail c => s.rmwFail o wide d a ia c
      | place =>
        let (s1, clean) := if o.prom then s.flushAllL1 else (s.recallL1s line, true)
        if !clean || (s1.l1.any fun e => decide (e.1 % 2 ^ 49 = line) && decide (e.2.dirty ≠ 0)) then (s1, [])
        else
          let s2 := s1.dropClean o.core line
          match place with
          | .peer dev pia _ _ => (s2.sendAtomic o op wide signed line dev pia, [])
          | _ => match s2.prepare (.by .rmw o.ctx) ia with
            | (s3, .wait) => (s3, [])
            | (s3, .fail c) => s3.rmwFail o wide d a ia c
            | (s3, r) => let (s4, res) := s3.rmwReady o.warp r ia op wide signed b a.newv.toNat; s4.rmwDone o wide d a res

/-! ## XFIN, CCTL, TLBINV -/

/-- The lanes of an XFIN that name one accumulator (R414): its 32 bytes read at the home slice at one moment for all of them
(R123, R415); the flags are kept for the completion (R59), and SEED is that of the issue (R56; DEDUCED, log 93). -/
def State.xfinLanes (s : State) (o : Op) (fmt rm : Nat) (d : Opnd) (as : List Acc) : State × List Delivery :=
  match as with
  | [] => (s, [])
  | a :: _ =>
    let b := if fmt = 0 then 64 else 32
    let give (t : State) (f : Acc → Val × BitVec 8) : State :=
      let w := as.foldl (fun (w : Warp) x => match d with
        | .v k => w.writeLive x.live b k.toNat x.lane (f x).1
        | _ => w.write b d x.lane (f x).1) (t.warp o.warp)
      let u := (t.putWarp o.warp w).doneAccs o.id (as.map (·.lane))
      let fl := as.foldl (fun (m : BitVec 8) x => m ||| (f x).2) 0
      { u with ops := u.ops.map fun e => if e.id = o.id then { e with flags := e.flags ||| fl } else e }
    let poison (t : State) (k : Origin) : State × List Delivery := (give t fun _ => (poisonVal, 0), as.map fun x => (x.lane, k, x.va))
    match a.loc with
    | .mem ia =>
      if s.lineHeld o (ia / 128) then (s, [])
      else match s.loadSector o ia true with
        | .wait s1 => (s1, [])
        | .fail s1 c => poison (s1.logFault ia a.va o.ctx c) c.origin
        | .ok s1 x =>
          match s1.loadSector o (ia + 16) true with
          | .wait s2 => (s2, [])
          | .fail s2 c => poison (s2.logFault ia a.va o.ctx c) c.origin
          | .ok s2 y =>
            if x.mark ≠ .none then poison s2 x.mark
            else if y.mark ≠ .none then poison s2 y.mark
            else
              let acc := XAcc.ofBits (ofBytes (x.data ++ y.data))
              (give s2 fun l => let r := acc.result fmt rm (draw o.seed (if d.isS then 0 else l.lane)); ({ n := r.1 }, r.2), [])
    | .miss false => poison s .translation
    | _ => (give s fun _ => (poisonVal, 0), [])

/-- One line of a CCTL (R216). Lines of pinned and home-3 pages are unaffected. -/
def State.cctlLane (s : State) (o : Op) (inv wb dev : Bool) (a : Acc) : State :=
  match a.loc with
  | .mem ia =>
    let line := ia / 128
    let plain := match s.at {} ia with
      | .loc p => p.l2 && p.l1
      | .peer _ _ l2 l1 => l2 && l1
      | _ => false
    match s.at {} ia with
    | .wait => s
    | _ =>
      if !plain then s.doneAccs o.id [a.lane]
      else if s.lineHeld o line then s
      else
        let s1 := if wb then s.writeBackL1 o.core line else s
        if wb && decide ((s1.l1Line o.core line).dirty ≠ 0) then s1
        else
          let s2 := if inv then s1.putL1 o.core line {} else s1
          let s3 :=
            if !dev then s2
            else if inv || decide ((s2.l2Line line).st = .owned) then s2.dropL2 line
            else s2.writeBackL2 line
          s3.doneAccs o.id [a.lane]
  | _ => s.doneAccs o.id [a.lane]

/-- The TLB and victim entries of some pages dropped at every link (R347). -/
def State.tlbInv (s : State) (page n : Nat) : State :=
  { s with links := s.links.map fun e => (e.1, { e.2 with
      tlb := mapCut e.2.tlb page (page + n)
      victims := e.2.victims.filterMap fun v =>
        match v.2.filter fun x => !(decide (page ≤ x.1) && decide (x.1 < page + n)) with
        | [] => none
        | xs => some (v.1, xs) }) }

/-- TLBINV performed (R347): the entries are dropped, and it is complete once every access that used one has been performed:
the requests to peers sent before then are answered. -/
def State.tlbLane (s : State) (o : Op) (page n since : Nat) (lanes : List Nat) : State :=
  let s1 := if since = 0 then
      let t := s.tlbInv page n
      { t with nextId := t.nextId + 1
               ops := t.ops.map fun e => if e.id = o.id then { e with kind := .tlbinv page n t.nextId } else e }
    else s
  let cut := if since = 0 then s.nextId else since
  if s1.peerReqs.any fun r => decide (r.id < cut) && decide (page ≤ pageOf (128 * r.line)) && decide (pageOf (128 * r.line) < page + n) then s1
  else s1.doneAccs o.id lanes

/-! ## Performing and completing -/

/-- A release's wait (R212, R214, R233): its L1 write-backs made, and whether nothing is left. An acquire fence waits for
the loads before it, the last of which is the read through which it synchronises (R234). -/
def State.relReady (s : State) (o : Op) : State × Bool :=
  if o.rel then
    let s1 := s.releaseL1 o.warp o.core o.scope
    (s1, s1.released o.warp o.core o.scope o.id)
  else (s, !o.isFence || !(s.ops.any fun e => decide (e.warp = o.warp) && decide (e.id < o.id) && (e.isLoad || e.isFence)))

/-- The accesses of an operation that a lane set names, grouped by line for a store. -/
def storeGroups (as : List Acc) (lanes : W32) : List (List Acc) :=
  let keys := dedup ((as.filter fun a => lanes.getLsbD a.lane).map fun a => a.loc.key)
  keys.map fun k => as.filter fun a => decide (a.loc.key = k)

/-- A load's accesses grouped by the bytes that they name, for the lanes of a set: a lane comes with all that name its bytes. -/
def loadGroups (as : List Acc) (lanes : W32) : List (List Acc) :=
  let keys := dedup ((as.filter fun a => lanes.getLsbD a.lane).map fun a => a.loc)
  keys.map fun k => as.filter fun a => decide (a.loc = k)

/-- Some lanes of an operation performed, as far as they can be. -/
def State.performLanes (s : State) (o : Op) (lanes : W32) : State :=
  let left := o.accs.filter (!·.done)
  let todo := left.filter fun a => lanes.getLsbD a.lane
  let tell (x : State × List Delivery) : State :=
    if x.2 = [] then x.1 else x.1.deliverTo o x.2
  let run (f : State → Acc → State × List Delivery) : State :=
    tell <| todo.foldl (fun (t, ds) a =>
      if t.ordered o a then let (t1, d1) := f t a; (t1, ds ++ d1) else (t, ds)) (s, ([] : List Delivery))
  let grouped (f : State → List Acc → State × List Delivery) : State :=
    tell <| (loadGroups left lanes).foldl (fun (t, ds) as =>
      if as.all fun a => t.ordered o a then let (t1, d1) := f t as; (t1, ds ++ d1) else (t, ds)) (s, ([] : List Delivery))
  match o.kind with
  | .load wd d => grouped fun t as => t.loadLanes o wd d as
  | .rmw op wide sg d => run fun t a =>
      -- a lane waits for the lower lanes of its instruction on the same bytes (R210)
      let cur := (t.op o.id).getD o
      if cur.accs.any fun b => !b.done && decide (b.lane < a.lane) && b.loc.meets b.n a.loc a.n then (t, [])
      else t.rmwLane cur op wide sg d a
  | .xfin fmt rm d => grouped fun t as => t.xfinLanes o fmt rm d as
  | .cctl inv wb dev => run fun t a => (t.cctlLane o inv wb dev a, [])
  | .tlbinv page n since => s.tlbLane o page n since (todo.map (·.lane))
  | .fence => s
  | .store =>
    (storeGroups left lanes).foldl (fun (t : State) as =>
      if as.all fun a => t.ordered o a then t.storeLine o as else t) s

/-- An operation whose every lane is performed leaves the table: its acquire acts, its flags reach FLG (R59), its oldest failure is
handed to the warp as a deferred trap, or counted if the warp has retired (R124, R199, R210, R214). -/
def State.completeOp (s : State) (id : Nat) : State :=
  match s.op id with
  | none => s
  | some o =>
    if o.accs.any (!·.done) then s
    else
      let s1 := { s with ops := s.ops.filter fun e => decide (e.id ≠ id) }
      let s0 := if o.flags = 0 then s1 else let w := s1.warp o.warp; s1.putWarp o.warp { w with flg := w.flg ||| o.flags }
      let s2 := if o.acq then s0.acquireL1 o.launch o.core o.ctx o.scope else s0
      match sortBy (·.1) o.fails with
      | [] => s2
      | (_, t) :: _ =>
        if o.warp < 2 ^ 20 then
          let w := s2.warp o.warp
          s2.putWarp o.warp { w with deferred := w.deferred ++ [t] }
        else let l := s2.launch o.launch; s2.putLaunch o.launch { l with failed := l.failed + 1 }

/-- Some lanes of an outstanding operation performed, and the operation completed if that was all of it; a promoted acquire not
before every dirty byte of the device is written back (R215, R238). -/
def State.performOne (s : State) (id : Nat) (lanes : W32) : State :=
  match s.op id with
  | none => s
  | some o =>
    let (s1, go) := s.relReady o
    if go then
      let (s2, clean) := if o.prom then s1.flushAllL1 else (s1, true)
      if clean then (s2.performLanes o lanes).completeOp id else s2
    else s1

/-- The fences of a warp that can complete now, oldest first. -/
def State.fences (s : State) (k : Nat) : State :=
  ((s.ops.filter fun o => decide (o.warp = k) && o.isFence).map (·.id)).foldl (fun t id => t.performOne id 0) s

/-- An operation performed in some lanes, with the fences that its completion lets complete. -/
def State.performOp (s : State) (id : Nat) (lanes : W32) : State :=
  match s.op id with
  | none => s
  | some o => (s.performOne id lanes).fences o.warp

end Sys2Proof.Machine
end

