-- ==== Sys2Proof/Machine/LoadStore.lean ====
section
/-! DEFINITION. The loads, stores and prefetches (R114 to R126) and LDACQ, STREL and CCTL (R214 to R216): one meaning for
each over one shared issue, which checks the participating lanes in the order of R119 and R293 and puts the operation
among the outstanding ones. -/

namespace Sys2Proof.Machine

/-! ## Addresses (R115, R116) -/

/-- The base register of a format M word, in its class. -/
def baseOf (o : OpM) : Opnd := if o.aS then .s o.a else .v o.a

/-- The VA of a lane. -/
def Warp.va (w : Warp) (o : OpM) (l : Nat) : Val :=
  let b := w.read 64 (baseOf o) l
  { n := wrapN 64 ((b.n : Int) + o.off.toInt), psn := b.psn }

/-- The exact scratchpad offset of a lane: a 32-bit unsigned base and the signed offset. -/
def Warp.spadX (w : Warp) (o : OpM) (l : Nat) : Int × Bool :=
  let b := w.read 32 (baseOf o) l
  ((b.n : Int) + o.off.toInt, b.psn)

/-! ## Watchpoints (R322, R323) -/

/-- Whether `n` bytes from an address meet a watchpoint that watches such an access. -/
def Watch.hits (x : Watch) (a n : Nat) (rd wr : Bool) : Bool :=
  let c := x.ctl.toNat
  let size := 2 ^ bits c 4 0
  let base := x.addr.toNat / size * size
  bit c 7 && ((rd && bit c 6) || (wr && bit c 5)) && decide (a < base + size) && decide (base < a + n)

/-- The hit of an instruction whose lane `l` of a mask accesses `n` bytes at `adr l`. -/
def Warp.watchHit (w : Warp) (lanes : W32) (adr : Nat → Word) (n : Nat) (rd wr : Bool) : Option WatchHit :=
  let hit (k l : Nat) : Bool := (look {} w.wp k).hits (adr l).toNat n rd wr
  let m := maskWhere fun l => lanes.getLsbD l && (List.range 4).any fun k => hit k l
  if m = 0 then none
  else some { wps := sumOf (fun k => if (lanesOf m).any (hit k) then 2 ^ k else 0) (List.range 4), hit := m
              addr := adr (lowestLane m) }

/-! ## The shared issue -/

/-- The first lane of a mask for which a condition yields something. -/
def firstLane (m : W32) (f : Nat → Option α) : Option α := (lanesOf m).findSome? f

def addrTrap (cause : BitVec 8) (a : Word) : TrapInfo := { cls := clsAddr, cause := cause, addr := a }

/-- MISALIGNED of the lowest lane of a mask whose address is no multiple of `n` (R117, R119). -/
def misaligned (m : W32) (adr : Nat → Int) (n : Nat) : Option TrapInfo :=
  firstLane m fun l => if adr l % (n : Int) ≠ 0 then some (addrTrap 2 (BitVec.ofInt 64 (adr l))) else none

/-- Where a lane of a memory access goes under Translate (R17, R18). -/
def State.memLoc (s : State) (need : Need) (va : Word) : Loc :=
  match (s.ctx s.w.ctx).translate need va with
  | .ok ia => .mem ia
  | .miss _ => .miss false

/-- Where a lane of a scratchpad access goes, or the cause of its fault (R116): LDS and STS in the window, LDK and STK in
the cluster. An offset below 0 lies outside every region (R118). -/
def State.spadLoc (s : State) (clus : Bool) (x : Int) : Except (BitVec 8) (Nat × Nat) :=
  if x < 0 then .error (if clus && (s.launch s.w.launch).clusLevel.isNone then 4 else 3)
  else if clus then s.clusAt s.w s.cid x.toNat
  else match s.spadAt s.w s.cid x.toNat with
    | none => .error 3
    | some p => .ok p

/-- Limits on outstanding operations (R203, R206) and the issue that an LDACQ holds (R214). -/
def State.roomFor (s : State) (isLoad : Bool) (accs : List Acc) : Bool :=
  let k := s.cur
  let n := (dedup (accs.filterMap fun a => a.loc.key)).length
  decide ((if isLoad then s.loads k else s.stores k) < 255) && decide (s.transUsed s.cid + n ≤ Config.transEntries) &&
    !((s.warpOps k).any (·.hold))

/-- An operation of the current warp put among the outstanding ones. -/
def State.pushOp (s : State) (o : Op) : State :=
  let w := s.w
  { s with nextId := s.nextId + 1
           ops := s.ops ++ [{ o with id := s.nextId, warp := s.cur, launch := w.launch, core := s.cid, ctx := w.ctx, seed := w.seed }] }

def noOp : Op := { id := 0, warp := 0, launch := 0, core := 0, ctx := 0, kind := .fence, accs := [] }

/-- The version under which a store to memory or to a scratchpad is held (R219, R305). -/
def State.storeTag (s : State) (mem : Bool) : Nat :=
  if s.w.tryOpen then s.tryTag s.cur else if mem then s.holdTag s.cur else 0

/-- The destination elements of a load poisoned at its issue: pending elements read as poison (R204). -/
def Warp.pendDest (w : Warp) (wd : Width) (d : Opnd) (m : W32) : Warp :=
  if m = 0 then w
  else if d.isS then w.loaded wd d 256 0 0 true
  else (lanesOf m).foldl (fun t l => t.loaded wd d 256 l 0 true) w

/-- What a form of load or store is, beside its width. -/
structure Form where
  isLoad : Bool
  scope : Nat := 0
  acq   : Bool := false
  rel   : Bool := false
  hold  : Bool := false
  prom  : Bool := false
  fresh : Bool := false
  nc    : Bool := false
  wb    : Bool := false

def formOf (o : OpM) (isLoad : Bool) : Form := { isLoad := isLoad, fresh := o.fresh, nc := o.nc, wb := o.wb }

/-- The data bytes of one lane of a store (R123). -/
def Warp.storeData (w : Warp) (wd : Width) (d : Opnd) (l : Nat) : List Byte :=
  let n := (w.read 64 d l).n + (match wd, d with
    | .b128, .v k => (w.read 64 (.v (k + 2)) l).n <<< 64
    | _, _ => 0)
  toBytes wd.bytes n

/-- The data bytes of one lane, from 32 bits for a width of at most 4 bytes. -/
def Warp.dataOf (w : Warp) (wd : Width) (d : Opnd) (l : Nat) : List Byte :=
  if wd.bytes ≤ 4 then toBytes wd.bytes (w.read 32 d l).n else w.storeData wd d l

/-- The accesses of a memory instruction, one for each lane of a mask; `once` makes one access for the warp. -/
def State.memAccs (s : State) (o : OpM) (wd : Width) (f : Form) (lanes : List Nat) : List Acc :=
  let w := s.w
  lanes.map fun l =>
    let a := w.va o l
    let va := BitVec.ofNat 64 a.n
    { lane := l, va := va, n := wd.bytes
      loc := if a.psn then .miss true else s.memLoc (if f.isLoad then Need.load else Need.store) va
      data := if f.isLoad then [] else w.dataOf wd o.d l }

/-- The effect of a load or store whose checks have passed. -/
def State.startAccess (s : State) (o : OpM) (wd : Width) (f : Form) (mem : Bool) (accs : List Acc) (q : W32) : State :=
  let h := s.w.holds o.pr
  let s1 := if f.isLoad then s.setW (s.w.pendDest wd o.d (h ||| q)) else s
  let s2 := if h = 0 then s1 else s1.pushOp { noOp with
    kind := if f.isLoad then .load wd o.d else .store, accs := accs, scope := f.scope, acq := f.acq, rel := f.rel
    hold := f.hold, prom := f.prom, fresh := f.fresh, nc := f.nc, wb := f.wb
    lanes := if o.d.isS then h else 0
    ver := if f.isLoad then 0 else s.storeTag mem }
  s2.advance 1

/-- The poison that a store consumes (R119, item 1): its predicate, then its addresses, then its data. -/
def State.storePoison (s : State) (o : OpM) (wd : Width) (baseRegs : Nat) : Option TrapInfo × State :=
  let h := s.w.holds o.pr
  firstPoison s [s.consumes 3 [(.p (o.pr.reg.setWidth 8), 1)] s.w.exm, s.consumes 1 [(baseOf o, baseRegs)] h,
    s.consumes 2 [(o.d, wd.regs)] h]

/-- A load or store of memory (LD, ST, LDW, LDACQ, STREL). -/
def memAccess (i : Instr) (o : OpM) (wd : Width) (f : Form) (s : State) : Host.Outcome State Fault Refusal :=
  let w := s.w
  let h := w.holds o.pr
  let q := if f.isLoad then w.psnd o.pr else 0
  match (if f.isLoad then (none, s) else s.storePoison o wd 2) with
  | (some t, s1) => issue i s1 { ready := decide (h = 0) || s.roomFor f.isLoad (s.memAccs o wd f (lanesOf h)), early := some t } id
  | (none, _) =>
    let uni := o.d.isS
    let live := maskWhere fun l => h.getLsbD l && !(w.va o l).psn
    let adr (l : Nat) : Nat := (w.va o l).n
    let accs := s.memAccs o wd f (if uni then (if h = 0 then [] else [0]) else lanesOf h)
    let accs := if uni && decide (q ≠ 0) then accs.map fun a => { a with loc := .miss true } else accs
    issue i s
      { ready := decide (h ||| q = 0) ||
          (s.operandsFree i (if f.isLoad then [o.d] else []) wd.regs (h ||| q) && (decide (h = 0) || s.roomFor f.isLoad accs))
        early := misaligned live (fun l => adr l) wd.bytes
        watch := w.watchHit live (fun l => BitVec.ofNat 64 (adr l)) wd.bytes f.isLoad (!f.isLoad)
        late := if f.isLoad then none else firstLane live fun l =>
          match s.memLoc .store (BitVec.ofNat 64 (adr l)) with
          | .miss _ => some (addrTrap 1 (BitVec.ofNat 64 (adr l)))
          | _ => none }
      fun t => (t.readPending [(baseOf o, 2)] h).startAccess o wd f true accs q

/-- The accesses of a scratchpad instruction. -/
def State.spadAccs (s : State) (o : OpM) (wd : Width) (f : Form) (clus : Bool) (lanes : List Nat) : List Acc :=
  let w := s.w
  lanes.map fun l =>
    let x := w.spadX o l
    { lane := l, va := BitVec.ofInt 64 x.1, n := wd.bytes
      loc := if x.2 then .miss true else match s.spadLoc clus x.1 with
        | .ok p => .spad p.1 p.2
        | .error _ => .miss true
      data := if f.isLoad then [] else w.dataOf wd o.d l : Acc }

/-- A load or store of a scratchpad (LDS, STS, LDK, STK). LOCAL-RANGE and CLUSTER-TARGET are one item of R119's order: the lowest
lane that meets either gives the cause and TADDR (DEDUCED, log 95). -/
def spadAccess (i : Instr) (o : OpM) (wd : Width) (f : Form) (clus : Bool) (s : State) :
    Host.Outcome State Fault Refusal :=
  let w := s.w
  let h := w.holds o.pr
  let q := if f.isLoad then w.psnd o.pr else 0
  let accs := s.spadAccs o wd f clus (lanesOf h)
  match (if f.isLoad then (none, s) else s.storePoison o wd 1) with
  | (some t, s1) => issue i s1 { ready := decide (h = 0) || s.roomFor f.isLoad accs, early := some t } id
  | (none, _) =>
    let live := maskWhere fun l => h.getLsbD l && !(w.spadX o l).2
    issue i s
      { ready := decide (h ||| q = 0) ||
          (s.operandsFree i (if f.isLoad then [o.d] else []) wd.regs (h ||| q) && (decide (h = 0) || s.roomFor f.isLoad accs))
        early := misaligned live (fun l => (w.spadX o l).1) wd.bytes
        late := firstLane live fun l =>
          match s.spadLoc clus (w.spadX o l).1 with
          | .ok _ => none
          | .error c => some (addrTrap c (BitVec.ofInt 64 (w.spadX o l).1)) }
      fun t => (t.readPending [(baseOf o, 1)] h).startAccess o wd f false accs q

/-! ## Loads and stores -/

def execLd (wd : Width) (o : OpM) (s : State) := memAccess (.ld wd o) o wd (formOf o true) s
def execSt (wd : Width) (o : OpM) (s : State) := memAccess (.st wd o) o wd (formOf o false) s
def execLds (wd : Width) (o : OpM) (s : State) := spadAccess (.lds wd o) o wd (formOf o true) false s
def execSts (wd : Width) (o : OpM) (s : State) := spadAccess (.sts wd o) o wd (formOf o false) false s
def execLdk (wd : Width) (o : OpM) (s : State) := spadAccess (.ldk wd o) o wd (formOf o true) true s
def execStk (wd : Width) (o : OpM) (s : State) := spadAccess (.stk wd o) o wd (formOf o false) true s
def execLdw (wd : Width) (o : OpM) (s : State) := memAccess (.ldw wd o) o wd (formOf o true) s

/-! ## Prefetches (R126) -/

/-- A prefetch tried: its line brought into L2, and into L1 if asked; dropped where the memory side fails; and whether it still
has to wait. -/
def State.tryPref (s : State) (p : Pref) : State × Bool :=
  match s.prepare (.by .load p.ctx) p.ia with
  | (s1, .wait) => (s1, true)
  | (s1, .fail c) => (s1.logFault p.ia p.va p.ctx c, false)
  | (s1, r) =>
    let line := p.ia / 128
    match (if p.l1 && r.l1May then s1.l1Room p.core line else (s1, true)) with
    | (s2, false) => (s2, true)
    | (s2, true) =>
      let s3 := s2.fillReady r
      let s4 := if p.l1 && r.l1May then
          (List.range 8).foldl (fun (t : State) q =>
            let l := t.l1Line p.core line
            if bit l.valid.toNat q then t
            else t.putL1 p.core line ((l.putSector q (l.overlay q (t.readySector r q))).usedBy p.ctx)) s3
        else s3
      (s4.doneReady r, false)

/-- Prefetches tried in order; those that wait stay on their way. -/
def State.servePrefs (s : State) : State :=
  s.prefs.foldl (fun (t : State) p => match t.tryPref p with
    | (t1, true) => { t1 with prefs := t1.prefs ++ [p] }
    | (t1, false) => t1) { s with prefs := [] }

/-- PREF.l1 and PREF.l2: each participating lane's line put on its way, on which every act tries to bring it further; a MISS or
a poisoned base drops the lane. -/
def prefetch (i : Instr) (o : OpM) (l1 : Bool) (s : State) : Host.Outcome State Fault Refusal :=
  issue i s {} fun t =>
    let w := t.w
    let ps := (lanesOf (w.holds o.pr)).filterMap fun l =>
      let a := w.va o l
      if a.psn then none
      else match t.memLoc .load (BitVec.ofNat 64 a.n) with
        | .mem ia => some { core := t.cid, ctx := w.ctx, va := BitVec.ofNat 64 a.n, ia := ia, l1 := l1 : Pref }
        | _ => none
    { t with prefs := t.prefs ++ ps }.advance 1

def execPrefL1 (o : OpM) (s : State) := prefetch (.prefL1 o) o true s
def execPrefL2 (o : OpM) (s : State) := prefetch (.prefL2 o) o false s

/-! ## LDACQ, STREL, CCTL (R214 to R216) -/

def execLdacq (wd : Width) (o : OpM) (s : State) : Host.Outcome State Fault Refusal :=
  tryless (.ldacq wd o) o.pr s (memAccess (.ldacq wd o) o wd
    { isLoad := true, scope := o.scope.toNat, acq := true, hold := true, prom := o.promote, fresh := true } s)

def execStrel (wd : Width) (o : OpM) (s : State) : Host.Outcome State Fault Refusal :=
  tryless (.strel wd o) o.pr s (memAccess (.strel wd o) o wd
    { isLoad := false, scope := o.scope.toNat, rel := true } s)

/-- The line that holds an address, as a place. -/
def Loc.wholeLine : Loc → Loc
  | .mem ia => .mem (ia / 128 * 128)
  | x => x

/-- CCTL: one entry for each line that a participating lane names; a MISS or a poisoned base drops the lane. A lane's CCTL
comes in program order with its accesses to any byte of the line (DEDUCED, log 44). -/
def cctl (i : Instr) (o : OpM) (inv wb : Bool) (s : State) : Host.Outcome State Fault Refusal :=
  let w := s.w
  let h := w.holds o.pr
  let accs := (lanesOf h).map fun l =>
    let a := w.va o l
    { lane := l, va := BitVec.ofNat 64 a.n, n := 128
      loc := if a.psn then .miss true else (s.memLoc {} (BitVec.ofNat 64 a.n)).wholeLine : Acc }
  tryless i o.pr s (issue i s { ready := decide (h = 0) || s.roomFor false accs } fun t =>
    (if h = 0 then t
     else (t.readPending [(baseOf o, 2)] h).pushOp
       { noOp with kind := .cctl inv wb (decide (o.scope = 4)), accs := accs }).advance 1)

def execCctlInv (o : OpM) (s : State) := cctl (.cctlInv o) o true false s
def execCctlWb (o : OpM) (s : State) := cctl (.cctlWb o) o false true s
def execCctlWbinv (o : OpM) (s : State) := cctl (.cctlWbinv o) o true true s

end Sys2Proof.Machine
end

