-- ==== Sys2Proof/Machine/Atomic.lean ====
section
/-! DEFINITION. The atomics (R207 to R211), FENCE (R212, R213) and WAIT (R205). SIGNAL and the exact sums share their
issue. -/

namespace Sys2Proof.Machine

/-! ## The shared issue of read-modify-writes -/

/-- One form of read-modify-write. `addr` is the address operand, `b` the operand, `d` the destination; `cas` reads the new
value from the destination; `once` acts once for the warp; `bCause` is the cause of a poisoned operand. -/
structure RmwForm where
  op     : RmwOp
  wide   : Bool
  signed : Bool := false
  addr   : Opnd
  b      : Opnd
  d      : Option Opnd := none
  cas    : Bool := false
  spad   : Bool := false
  once   : Bool := false
  watch  : Bool := false
  bCause : BitVec 8 := 5
  ctl    : Nat

/-- The address of a lane: a VA, or a 32-bit scratchpad offset. -/
def RmwForm.adr (f : RmwForm) (w : Warp) (l : Nat) : Nat := (w.read (if f.spad then 32 else 64) f.addr l).n

def RmwForm.bits (f : RmwForm) : Nat := if f.wide then 64 else 32

/-- The poison that a read-modify-write consumes (R119, R211). -/
def State.rmwPoison (s : State) (pr : Pred) (f : RmwForm) : Option TrapInfo × State :=
  let h := s.w.holds pr
  let n := if f.wide then 2 else 1
  firstPoison s [s.consumes 3 [(.p (pr.reg.setWidth 8), 1)] s.w.exm, s.consumes 5 [(f.addr, if f.spad then 1 else 2)] h,
    s.consumes f.bCause [(f.b, n)] h,
    if f.cas then s.consumes 5 [(f.d.getD (.l 0), n)] h else none]

/-- The accesses of a read-modify-write. -/
def State.rmwAccs (s : State) (f : RmwForm) (lanes : List Nat) : List Acc :=
  let w := s.w
  lanes.map fun l =>
    let a := f.adr w l
    { lane := l, va := BitVec.ofNat 64 a, n := rmwBytes f.op f.wide
      loc := if f.spad then (match s.spadAt w s.cid a with | some p => .spad p.1 p.2 | none => .miss true)
             else s.memLoc .rmw (BitVec.ofNat 64 a)
      opnd := BitVec.ofNat 64 (w.read f.bits f.b l).n
      newv := if f.cas then BitVec.ofNat 64 (w.read f.bits (f.d.getD (.l 0)) l).n else 0 }

/-- The effect of a read-modify-write whose checks have passed. -/
def State.startRmw (s : State) (f : RmwForm) (h : W32) (accs : List Acc) : State :=
  let w := s.w
  let s1 := match f.d with
    | some d => s.setW ((lanesOf h).foldl (fun t l => t.write f.bits d l poisonVal) w)
    | none => s
  let s2 := if h = 0 then s1 else s1.pushOp { noOp with
    kind := .rmw f.op f.wide f.signed f.d, accs := accs, scope := f.ctl % 8, lanes := if f.once then h else 0
    acq := bit f.ctl 3, rel := bit f.ctl 4, prom := bit f.ctl 5 }
  s2.advance 1

/-- A read-modify-write to memory or, for ATOMS, to the scratchpad. One that is not ready, because its destination is pending or a
table is full, consumes no poison yet (R203, R204, R206). -/
def rmwIssue (i : Instr) (pr : Pred) (f : RmwForm) (s : State) : Host.Outcome State Fault Refusal :=
  let w := s.w
  let h := w.holds pr
  let accs := s.rmwAccs f (if f.once then (if h = 0 then [] else [0]) else lanesOf h)
  let free := decide (h = 0) || (s.operandsFree i f.d.toList (if f.wide then 2 else 1) h && s.roomFor f.d.isSome accs)
  tryless i pr s <| match s.rmwPoison pr f with
    | (some t, s1) => issue i s1 { ready := free, early := some t } id
    | (none, _) =>
      let stall := if h = 0 then none else s.taskStall
      issue i s
        { ready := stall.isNone && free
          sent := stall
          early := misaligned h (fun l => f.adr w l) (rmwBytes f.op f.wide)
          watch := if f.watch then
              w.watchHit h (fun l => BitVec.ofNat 64 (f.adr w l)) (rmwBytes f.op f.wide) true true
            else none
          late := firstLane h fun l =>
            let a := f.adr w l
            if f.spad then (if (s.spadAt w s.cid a).isNone then some (addrTrap 3 (BitVec.ofNat 64 a)) else none)
            else match s.memLoc .rmw (BitVec.ofNat 64 a) with
              | .miss _ => some (addrTrap 1 (BitVec.ofNat 64 a))
              | _ => none }
        fun t => t.startRmw f h accs

/-- The forms of R207: type in [5:4], control literal in C. -/
def memRmw (o : OpO) (op : RmwOp) (d : Option Opnd) : RmwForm :=
  { op := op, wide := decide (2 ≤ tyOf o.m), signed := tySigned (tyOf o.m), addr := o.a, b := o.b, d := d, watch := true
    ctl := o.c.num }

/-- ATOMF: `.f64` is type 1. -/
def floatRmw (o : OpO) (op : RmwOp) : RmwForm :=
  { op := op, wide := decide (tyOf o.m = 1), addr := o.a, b := o.b, d := some o.d, watch := true, ctl := o.c.num }

def spadRmw (o : OpO) (op : RmwOp) : RmwForm :=
  { memRmw o op (some o.d) with spad := true, watch := false }

/-! ## ATOM, ATOMF, CAS, ATOMS, RED -/

def execAtomAdd (o : OpO) (s : State) := rmwIssue (.atomAdd o) o.pr (memRmw o .add (some o.d)) s
def execAtomMin (o : OpO) (s : State) := rmwIssue (.atomMin o) o.pr (memRmw o .min (some o.d)) s
def execAtomMax (o : OpO) (s : State) := rmwIssue (.atomMax o) o.pr (memRmw o .max (some o.d)) s
def execAtomAnd (o : OpO) (s : State) := rmwIssue (.atomAnd o) o.pr (memRmw o .and (some o.d)) s
def execAtomOr (o : OpO) (s : State) := rmwIssue (.atomOr o) o.pr (memRmw o .or (some o.d)) s
def execAtomXor (o : OpO) (s : State) := rmwIssue (.atomXor o) o.pr (memRmw o .xor (some o.d)) s
def execAtomExch (o : OpO) (s : State) := rmwIssue (.atomExch o) o.pr (memRmw o .exch (some o.d)) s
def execAtomInc (o : OpO) (s : State) := rmwIssue (.atomInc o) o.pr (memRmw o .inc (some o.d)) s
def execAtomDec (o : OpO) (s : State) := rmwIssue (.atomDec o) o.pr (memRmw o .dec (some o.d)) s
def execAtomfAdd (o : OpO) (s : State) := rmwIssue (.atomfAdd o) o.pr (floatRmw o .fadd) s
def execAtomfMin (o : OpO) (s : State) := rmwIssue (.atomfMin o) o.pr (floatRmw o .fmin) s
def execAtomfMax (o : OpO) (s : State) := rmwIssue (.atomfMax o) o.pr (floatRmw o .fmax) s
def execCas (o : OpO) (s : State) :=
  rmwIssue (.cas o) o.pr { memRmw o .cas (some o.d) with cas := true } s
def execAtomsAdd (o : OpO) (s : State) := rmwIssue (.atomsAdd o) o.pr (spadRmw o .add) s
def execAtomsMin (o : OpO) (s : State) := rmwIssue (.atomsMin o) o.pr (spadRmw o .min) s
def execAtomsMax (o : OpO) (s : State) := rmwIssue (.atomsMax o) o.pr (spadRmw o .max) s
def execAtomsAnd (o : OpO) (s : State) := rmwIssue (.atomsAnd o) o.pr (spadRmw o .and) s
def execAtomsOr (o : OpO) (s : State) := rmwIssue (.atomsOr o) o.pr (spadRmw o .or) s
def execAtomsXor (o : OpO) (s : State) := rmwIssue (.atomsXor o) o.pr (spadRmw o .xor) s
def execAtomsExch (o : OpO) (s : State) := rmwIssue (.atomsExch o) o.pr (spadRmw o .exch) s
def execAtomsInc (o : OpO) (s : State) := rmwIssue (.atomsInc o) o.pr (spadRmw o .inc) s
def execAtomsDec (o : OpO) (s : State) := rmwIssue (.atomsDec o) o.pr (spadRmw o .dec) s
def execRedAdd (o : OpO) (s : State) := rmwIssue (.redAdd o) o.pr (memRmw o .add none) s
def execRedMin (o : OpO) (s : State) := rmwIssue (.redMin o) o.pr (memRmw o .min none) s
def execRedMax (o : OpO) (s : State) := rmwIssue (.redMax o) o.pr (memRmw o .max none) s
def execRedAnd (o : OpO) (s : State) := rmwIssue (.redAnd o) o.pr (memRmw o .and none) s
def execRedOr (o : OpO) (s : State) := rmwIssue (.redOr o) o.pr (memRmw o .or none) s
def execRedXor (o : OpO) (s : State) := rmwIssue (.redXor o) o.pr (memRmw o .xor none) s

/-! ## FENCE (R212, R213): it does not stop issue; what it orders waits behind it -/

def execFence (o : OpO) (s : State) : Host.Outcome State Fault Refusal :=
  let sem := bits o.m.toNat 4 3
  tryless (.fence o) o.pr s <| match s.consumes 3 [(.p (o.pr.reg.setWidth 8), 1)] s.w.exm with
    | some (t, s1) => issue (.fence o) s1 { early := some t } id
    | none =>
      let h := s.w.holds o.pr
      issue (.fence o) s {} fun t =>
        if h = 0 then t.advance 1
        else ((t.pushOp { noOp with scope := o.m.toNat % 8, acq := decide (sem ≠ 2), rel := decide (sem ≠ 1) }).fences
          t.cur).advance 1

/-! ## WAIT (R44, R205) -/

/-- The four counts of WAIT, from imm32: nl [31:24], ns [23:16], nc [15:8], nt [7:0]. -/
def waitMet (s : State) (imm : W32) : Bool :=
  let n := imm.toNat
  decide (s.loads s.cur ≤ bits n 31 24) && decide (s.stores s.cur ≤ bits n 23 16) &&
    decide (s.copies s.cur ≤ bits n 15 8) && decide (s.tiles s.cur ≤ bits n 7 0)

def execWait (o : OpI) (s : State) : Host.Outcome State Fault Refusal :=
  issue (.wait o) s { ready := waitMet s o.imm } fun t => t.advance 1

end Sys2Proof.Machine
end

