-- ==== Sys2Proof/Machine/Convert.lean ====
section
/-! DEFINITION. The conversions (R97, R98, R100). The copy and chain engines and the matrix unit share the element
conversion. -/

namespace Sys2Proof.Machine

/-- A result of a format code extended to 64 bits (R88). -/
def extF (c n : Nat) : Nat := if fmtInt c && fmtSigned c then wrapN 64 (sext (fmtBits c) n) else n

/-- One element converted (R98): `satf` takes the paths of a format without infinity and NaN. -/
def cvtN (d : Nat) (satf : Bool) (rm rnd : Nat) (x : Num) : Nat × BitVec 8 :=
  let y := if satf && !fmtInt d then roundF { fmtOf d with inf := false, nan := false } rm rnd x else round d rm rnd x
  (y.1, y.2 ||| x.sig)

/-- One element quantised to a block-scaled code, or expanded from one (R100). -/
def cvtqN (d f : Nat) (rm rnd e : Nat) (x : Num) : Nat × BitVec 8 :=
  let r := scaledBy x e (decide (d = 6 ∨ d = 7))
  let y := round d rm rnd r.1
  (y.1, y.2 ||| (if f = 6 ∨ f = 7 then 0 else x.sig))

/-- Registers and bits of an operand of a format code (R87). -/
def regsOfF (c : Nat) : Nat := if c = 0 ∨ c = 13 then 2 else 1
def bitsOfF (c : Nat) : Nat := if c = 0 ∨ c = 13 then 64 else 32

def execCvt (dst src : BitVec 4) (o : OpO) (s : State) : Host.Outcome State Fault Refusal :=
  let d := dst.toNat
  let f := src.toNat
  alu (.cvt dst src o) o.pr o.d (regsOfF d) [(o.a, regsOfF f)] id (fun w l =>
    let a := w.read (bitsOfF f) o.a l
    let y := cvtN d o.sat o.sub (draw w.seed l) (unpack f a.n)
    ofVals [a] (extF d y.1, y.2)) s

def execCvtq (dst src : BitVec 4) (o : OpO) (s : State) : Host.Outcome State Fault Refusal :=
  let d := dst.toNat
  let f := src.toNat
  alu (.cvtq dst src o) o.pr o.d (regsOfF d) [(o.a, regsOfF f), (o.b, 1)] id (fun w l =>
    let a := w.read (bitsOfF f) o.a l
    let b := w.read 32 o.b l
    let y := cvtqN d f o.sub (draw w.seed l) (b.n % 256) (unpack f a.n)
    ofVals [a, b] (y.1, y.2)) s

end Sys2Proof.Machine
end

