-- ==== Sys2Proof/Machine/Transcend.lean ====
section
/-! DEFINITION. The special functions of R95 to 420 fixed-point bits. Outside the exact cases of R95 the value is
irrational, so it is never a point at which `Round` changes: the truncated value with its sticky part rounds as the exact
value does unless the exact one lies within 2^-380 of such a point (UNVERIFIED, log 6). -/

namespace Sys2Proof

def fixP : Nat := 420

/-- π and ln 2, in units of 2^-420, truncated. -/
def piFix : Nat := 0x3243f6a8885a308d313198a2e03707344a4093822299f31d0082efa98ec4e6c89452821e638d01377be5466cf34e90c6cc0ac29b7c
def ln2Fix : Nat := 0xb17217f7d1cf79abc9e3b39803f2f6af40f343267298b62d8a0d175b8baafa2be7b876206debac98559552fb4afa1b10ed2eae35c

/-- Σ y^j / j! from term k on. -/
def expGo (y : Nat) : Nat → Nat → Nat → Nat
  | 0, _, _ => 0
  | fuel + 1, k, t => t + expGo y fuel (k + 1) (((t * y) >>> fixP) / (k + 1))

/-- The alternating series whose terms step by y²/((k+1)(k+2)): sine from k = 1, cosine from k = 0. -/
def altGo (y2 : Nat) : Nat → Nat → Nat → Int
  | 0, _, _ => 0
  | fuel + 1, k, t => (t : Int) - altGo y2 fuel (k + 2) (((t * y2) >>> fixP) / ((k + 1) * (k + 2)))

def sinFix (y : Nat) : Nat := (altGo ((y * y) >>> fixP) 48 1 y).toNat
def cosFix (y : Nat) : Nat := (altGo ((y * y) >>> fixP) 48 0 (2 ^ fixP)).toNat

/-- 2^f for f in [0, 1), both in units of 2^-420. -/
def exp2Fix (f : Nat) : Nat := expGo ((f * ln2Fix) >>> fixP) 100 0 (2 ^ fixP)

/-- Σ z^(2j+1)/(2j+1) from term k on, z² given. -/
def atanhGo (z2 : Nat) : Nat → Nat → Nat → Nat
  | 0, _, _ => 0
  | fuel + 1, k, t => t / k + atanhGo z2 fuel (k + 2) ((t * z2) >>> fixP)

/-- log2 of m/2^(L−1) in [1, 2), in units of 2^-420. -/
def log2Fix (m : Nat) : Nat :=
  let u := 2 ^ (bitLen m - 1)
  let z := ((m - u) <<< fixP) / (m + u)
  ((2 * atanhGo ((z * z) >>> fixP) 140 1 z) <<< fixP) / ln2Fix

/-- Whether ±m·2^e is an integer, and |m·2^e| rounded down. -/
def isIntN (m : Nat) (e : Int) : Bool := decide (0 ≤ e) || decide (m % 2 ^ (-e).toNat = 0)
def floorN (m : Nat) (e : Int) : Nat := (m <<< e.toNat) >>> (-e).toNat

/-- The fraction of m·2^e in units of 2^-420 (its low bits below the unit are none for FP32 above 2^-396). -/
def fracN (m : Nat) (e : Int) : Nat := ((m <<< fixP) >>> (-e).toNat) % 2 ^ fixP

/-- 2^x (R95). -/
def exp2N (a : Num) : Num × BitVec 8 :=
  match a with
  | .nan _ => (.nan false, a.sig)
  | .inf s => (if s then .zero false else .inf false, 0)
  | .fin s m e _ =>
    if m = 0 then (.fin false 1 0 false, 0)
    else if 151 ≤ floorN m e then (.fin false 1 (if s then -200 else 200) false, 0)
    else
      let n := floorN m e
      let fr := fracN m e
      if fr = 0 then (.fin false 1 (if s then - (n : Int) else n) false, 0)
      else if s then (.fin false (exp2Fix (2 ^ fixP - fr)) (- (n : Int) - 1 - fixP) true, 0)
      else (.fin false (exp2Fix fr) ((n : Int) - fixP) true, 0)

/-- log₂ x (R95). -/
def log2N (a : Num) : Num × BitVec 8 :=
  match a with
  | .nan _ => (.nan false, a.sig)
  | .inf s => if s then (.nan false, fNV) else (.inf false, 0)
  | .fin s m e _ =>
    if m = 0 then (.inf true, fDZ)
    else if s then (.nan false, fNV)
    else
      let k : Int := e + bitLen m - 1
      if m = 2 ^ (bitLen m - 1) then (Num.ofInt k, 0)
      else
        let x := k * (2 ^ fixP : Nat) + log2Fix m
        (.fin (decide (x < 0)) x.natAbs (-fixP) true, 0)

/-- sin(πy) for a fraction y of a half turn's quarter turns: `q` counts quarter turns, `r` in units of 2^-420 lies in
[0, 1/2) of a half turn. The magnitude of sin(π(q/2 + r)). -/
def quarterSin (q r : Nat) : Nat :=
  let y := if r ≤ 2 ^ (fixP - 2) then r else 2 ^ (fixP - 1) - r
  let ang := (piFix * y) >>> fixP
  if (q % 2 = 0) = (r ≤ 2 ^ (fixP - 2)) then sinFix ang else cosFix ang

/-- sin(π|x|) for x that is no multiple of 1/2: sign and magnitude. `off` is 0 for the sine, 1 for the cosine. -/
def sinGo (off m : Nat) (e : Int) : Num :=
  let fr := fracN m e
  let q := 2 * floorN m e + (if fr < 2 ^ (fixP - 1) then 0 else 1) + off
  let r := fr % 2 ^ (fixP - 1)
  .fin (decide (q / 2 % 2 = 1)) (quarterSin q r) (-fixP) true

/-- sin(πx) (R95). -/
def sinpiN (a : Num) : Num × BitVec 8 :=
  match a with
  | .nan _ => (.nan false, a.sig)
  | .inf _ => (.nan false, fNV)
  | .fin s m e _ =>
    if isIntN m e then (.zero s, 0)
    else if isIntN m (e + 1) then
      (.fin (s != decide (floorN m e % 2 = 1)) 1 0 false, 0)
    else
      match sinGo 0 m e with
      | .fin t n k st => (.fin (s != t) n k st, 0)
      | x => (x, 0)

/-- cos(πx) (R95). -/
def cospiN (a : Num) : Num × BitVec 8 :=
  match a with
  | .nan _ => (.nan false, a.sig)
  | .inf _ => (.nan false, fNV)
  | .fin _ m e _ =>
    if isIntN m e then (.fin (decide (floorN m e % 2 = 1)) 1 0 false, 0)
    else if isIntN m (e + 1) then (.zero false, 0)
    else (sinGo 1 m e, 0)

end Sys2Proof
end

