-- ==== Sys2Proof/Machine/Float.lean ====
section
/-! DEFINITION. The floating-point, packed and packing instructions (R87 to R96, R99, R101): one meaning for each, over
exact values that are rounded once. -/

namespace Sys2Proof.Machine

/-- The format code, the registers of an operand, and the bits of FP32 and FP64 instructions (R87). -/
def fmtD (dbl : Bool) : Nat := if dbl then 0 else 1
def regsOfD (dbl : Bool) : Nat := if dbl then 2 else 1
def bitsD (dbl : Bool) : Nat := if dbl then 64 else 32

/-- A result in the FP32 or FP64 format from the exact values of the sources named, rounded once (R89, R90): `f` takes the
rounding mode and the values. -/
def fltOp (i : Instr) (dbl : Bool) (o : OpO) (rm : Nat) (srcs : List Opnd) (f : Nat → List Num → Num × BitVec 8)
    (s : State) : Host.Outcome State Fault Refusal :=
  alu i o.pr o.d (regsOfD dbl) (srcs.map fun x => (x, regsOfD dbl)) id (fun w l =>
    let xs := srcs.map fun x => w.read (bitsD dbl) x l
    let r := f rm (xs.map fun x => unpack (fmtD dbl) x.n)
    let y := round (fmtD dbl) rm (draw w.seed l) r.1
    ofVals xs (y.1, r.2 ||| y.2)) s

/-- Functions of one, two and three values as functions of a list. -/
def on1 (f : Num → Num × BitVec 8) (xs : List Num) : Num × BitVec 8 := f (nth (.nan false) xs 0)
def on2 (f : Num → Num → Num × BitVec 8) (xs : List Num) : Num × BitVec 8 :=
  f (nth (.nan false) xs 0) (nth (.nan false) xs 1)
def on3 (f : Num → Num → Num → Num × BitVec 8) (xs : List Num) : Num × BitVec 8 :=
  f (nth (.nan false) xs 0) (nth (.nan false) xs 1) (nth (.nan false) xs 2)

/-! ## Arithmetic (R90) -/

def execFadd (dbl : Bool) (o : OpO) (s : State) :=
  fltOp (.fadd dbl o) dbl o o.sub [o.a, o.b] (fun rm => on2 (addN rm)) s
def execFsub (dbl : Bool) (o : OpO) (s : State) :=
  fltOp (.fsub dbl o) dbl o o.sub [o.a, o.b] (fun rm => on2 fun a b => addN rm a b.neg) s
def execFmul (dbl : Bool) (o : OpO) (s : State) :=
  fltOp (.fmul dbl o) dbl o o.sub [o.a, o.b] (fun _ => on2 mulN) s
def execFfma (dbl : Bool) (o : OpO) (s : State) :=
  fltOp (.ffma dbl o) dbl o o.sub [o.a, o.b, o.c] (fun rm => on3 (fmaN rm)) s
def execFdiv (dbl : Bool) (o : OpO) (s : State) :=
  fltOp (.fdiv dbl o) dbl o o.sub [o.a, o.b] (fun _ => on2 divN) s
def execFsqrt (dbl : Bool) (o : OpO) (s : State) :=
  fltOp (.fsqrt dbl o) dbl o o.sub [o.a] (fun _ => on1 sqrtN) s
def execFrcp (o : OpO) (s : State) :=
  fltOp (.frcp o) false o o.sub [o.a] (fun _ => on1 (divN (.fin false 1 0 false))) s

/-! ## Special functions (R95): always RNE -/

def execFrsq (o : OpO) (s : State) := fltOp (.frsq o) false o 0 [o.a] (fun _ => on1 rsqN) s
def execFexp2 (o : OpO) (s : State) := fltOp (.fexp2 o) false o 0 [o.a] (fun _ => on1 exp2N) s
def execFlog2 (o : OpO) (s : State) := fltOp (.flog2 o) false o 0 [o.a] (fun _ => on1 log2N) s
def execFsinpi (o : OpO) (s : State) := fltOp (.fsinpi o) false o 0 [o.a] (fun _ => on1 sinpiN) s
def execFcospi (o : OpO) (s : State) := fltOp (.fcospi o) false o 0 [o.a] (fun _ => on1 cospiN) s

/-! ## Minimum, maximum, compare, class, integral rounding (R91 to R94) -/

/-- FMIN and FMAX (R91) of two elements' bits: one operand's bits, or the canonical NaN, with NV of a signalling NaN.
`pick` tells whether the first is taken. -/
def minmaxN (c : Nat) (nanMode : Bool) (pick : Num → Num → Bool) (a b : Nat) : Nat × BitVec 8 :=
  let x := unpack c a
  let y := unpack c b
  let r :=
    if x.isNan || y.isNan then
      if nanMode || (x.isNan && y.isNan) then (fmtOf c).qnan else if x.isNan then b else a
    else if pick x y then a else b
  (r, x.sig ||| y.sig)

def pickMin (x y : Num) : Bool := !lessN y x
def pickMax (x y : Num) : Bool := !lessN x y

def fminmax (i : Instr) (dbl : Bool) (o : OpO) (pick : Num → Num → Bool) (s : State) : Host.Outcome State Fault Refusal :=
  alu i o.pr o.d (regsOfD dbl) [(o.a, regsOfD dbl), (o.b, regsOfD dbl)] id (fun w l =>
    let a := w.read (bitsD dbl) o.a l
    let b := w.read (bitsD dbl) o.b l
    ofVals [a, b] (minmaxN (fmtD dbl) (decide (o.sub = 1)) pick a.n b.n)) s

def execFmin (dbl : Bool) (o : OpO) (s : State) := fminmax (.fmin dbl o) dbl o pickMin s
def execFmax (dbl : Bool) (o : OpO) (s : State) := fminmax (.fmax dbl o) dbl o pickMax s

/-- The conditions of FCMP (R92), with NV. -/
def condF (c : Nat) (x y : Num) : Bool × BitVec 8 :=
  let sg := x.sig ||| y.sig
  if x.isNan || y.isNan then
    match c with
    | 1 => (true, sg) | 6 => (true, sg) | 0 => (false, sg) | 7 => (false, sg) | _ => (false, fNV)
  else
    let d := cmpN x y
    (match c with
     | 0 => decide (d = 0) | 1 => decide (d ≠ 0) | 2 => decide (d < 0) | 3 => decide (d ≤ 0) | 4 => decide (0 < d)
     | 5 => decide (0 ≤ d) | 6 => false | _ => true, 0)

def execFcmp (dbl : Bool) (o : OpO) (s : State) : Host.Outcome State Fault Refusal :=
  alu (.fcmp dbl o) o.pr o.d 1 [(o.a, regsOfD dbl), (o.b, regsOfD dbl)] id (fun w l =>
    let a := w.read (bitsD dbl) o.a l
    let b := w.read (bitsD dbl) o.b l
    let r := condF o.sub (unpack (fmtD dbl) a.n) (unpack (fmtD dbl) b.n)
    ofVals [a, b] (Bool.n r.1, r.2)) s

/-- The class bit of R93. -/
def classF (dbl : Bool) (x : Num) : Nat :=
  let f := fmtOf (fmtD dbl)
  match x with
  | .nan sg => if sg then 8 else 9
  | .inf sg => if sg then 0 else 7
  | .fin sg m _ _ =>
    if m = 0 then (if sg then 3 else 4)
    else if m < 2 ^ f.mb then (if sg then 2 else 5)
    else if sg then 1 else 6

def execFclass (dbl : Bool) (o : OpO) (s : State) : Host.Outcome State Fault Refusal :=
  alu (.fclass dbl o) o.pr o.d 1 [(o.a, regsOfD dbl)] id (fun w l =>
    let a := w.read (bitsD dbl) o.a l
    ofVals [a] (2 ^ classF dbl (unpack (fmtD dbl) a.n), 0)) s

/-- FRND (R94): the integral value, with NX only under `.x`. -/
def rndInt (rm : Nat) (x : Num) : Num × Bool :=
  match x with
  | .fin sg m e st =>
    if e < 0 then let y := roundInt rm 0 sg m e st; (.fin sg y.1.natAbs 0 false, y.2) else (x, false)
  | _ => (x, false)

def execFrnd (dbl : Bool) (o : OpO) (s : State) : Host.Outcome State Fault Refusal :=
  alu (.frnd dbl o) o.pr o.d (regsOfD dbl) [(o.a, regsOfD dbl)] id (fun w l =>
    let a := w.read (bitsD dbl) o.a l
    let x := unpack (fmtD dbl) a.n
    let y := rndInt o.sub x
    ofVals [a] ((round (fmtD dbl) 1 0 y.1).1, x.sig ||| (if o.sat && y.2 then fNX else 0))) s

/-! ## Packed 16-bit arithmetic (R96) -/

def halfOp (i : Instr) (o : OpO) (srcs : List Opnd) (f : Nat → List Num → Num × BitVec 8) (s : State) :
    Host.Outcome State Fault Refusal :=
  let c := if o.sat then 2 else 3
  alu i o.pr o.d 1 (srcs.map fun x => (x, 1)) id (fun w l =>
    let xs := srcs.map fun x => w.read 32 x l
    let half (h : Nat) : Nat × BitVec 8 :=
      let r := f o.sub (xs.map fun x => unpack c (x.n >>> (16 * h) % 2 ^ 16))
      let y := round c o.sub (draw w.seed (2 * l + h)) r.1
      (y.1, r.2 ||| y.2)
    let lo := half 0
    let hi := half 1
    ofVals xs (lo.1 + hi.1 <<< 16, lo.2 ||| hi.2)) s

def execHadd2 (o : OpO) (s : State) := halfOp (.hadd2 o) o [o.a, o.b] (fun rm => on2 (addN rm)) s
def execHmul2 (o : OpO) (s : State) := halfOp (.hmul2 o) o [o.a, o.b] (fun _ => on2 mulN) s
def execHfma2 (o : OpO) (s : State) := halfOp (.hfma2 o) o [o.a, o.b, o.c] (fun rm => on3 (fmaN rm)) s

/-! ## Block scales (R99) -/

/-- The E8M0 scale of the values of the contributing lanes. -/
def blockScale (emax : Nat) (xs : List Num) : Nat :=
  if xs.any fun x => x.isNan || x.isInf then 0xFF
  else
    let es := (xs.filter fun x => !x.isZero).map expOf
    match es with
    | [] => 127
    | e :: rest =>
      let k := rest.foldl (fun a b => if a ≤ b then b else a) e - emax + 127
      if k < 0 then 0 else if 254 < k then 254 else k.toNat

def execMxscan (o : OpO) (s : State) : Host.Outcome State Fault Refusal :=
  let emax := if bit o.m.toNat 0 then 8 else 2
  aluFrom (.mxscan o) o.pr o.d 1 [(o.a, 1)] (s.w.holds o.pr) id (fun w _ =>
    let vals := (lanesOf (w.holds o.pr)).map fun l => w.read 32 o.a l
    ofVals vals (blockScale emax (vals.map fun x => unpack 1 x.n), 0)) s

/-! ## Packing (R101) -/

/-- The packed value of the group of `g` lanes that holds lane `l`, `b` bits an element. -/
def packN (w : Warp) (o : OpO) (g b l : Nat) : Res :=
  let lanes := (List.range g).filter fun j => (w.holds o.pr).getLsbD (l / g * g + j)
  let vals := lanes.map fun j => (j, w.read 32 o.a (l / g * g + j))
  ofVals (vals.map (·.2)) (sumOf (fun e => (e.2.n % 2 ^ b) <<< (b * e.1)) vals, 0)

/-- The element of lane `l` of its group's packed value. -/
def unpackN (w : Warp) (o : OpO) (g b l : Nat) : Res :=
  let x := w.read 32 o.a (l / g * g)
  ofVals [x] (bits x.n (b * (l % g) + b - 1) (b * (l % g)), 0)

/-- The first lanes of the groups of `g` lanes with a writing lane. -/
def groupLeads (g : Nat) (m : W32) : W32 := maskOf ((lanesOf m).map fun l => l / g * g)

def execPack6 (o : OpO) (s : State) :=
  aluFrom (.pack6 o) o.pr o.d 1 [(o.a, 1)] (s.w.holds o.pr) id (fun w l => packN w o 4 6 l) s
def execUnpk6 (o : OpO) (s : State) :=
  aluFrom (.unpk6 o) o.pr o.d 1 [(o.a, 1)] (groupLeads 4 (s.w.holds o.pr)) id (fun w l => unpackN w o 4 6 l) s
def execPack4 (o : OpO) (s : State) :=
  aluFrom (.pack4 o) o.pr o.d 1 [(o.a, 1)] (s.w.holds o.pr) id (fun w l => packN w o 8 4 l) s
def execUnpk4 (o : OpO) (s : State) :=
  aluFrom (.unpk4 o) o.pr o.d 1 [(o.a, 1)] (groupLeads 8 (s.w.holds o.pr)) id (fun w l => unpackN w o 8 4 l) s

end Sys2Proof.Machine
end

