-- ==== Sys2Proof/Machine/Tags.lean ====
section
/-! DEFINITION. What the warp-wide instructions share (R160, R271), and the tag waits and tag operations (R280 to R282). -/

namespace Sys2Proof.Machine

/-! ## Warp-wide instructions -/

/-- TADDR of a poison-consumed trap: the origin record's address (R295), but 0 for the instructions of the engine chapter, for
which R272 says so (DEDUCED, log 107). -/
def TrapInfo.engAddr (t : TrapInfo) (i : Instr) : TrapInfo :=
  if 0xA0 ≤ Instr.op i ∧ Instr.op i < 0xC0 then { t with addr := 0 } else t

/-- A warp-wide instruction (R160, R271): a predicate poisoned in an active lane, then a poisoned operand, is consumed
before anything else; with no participating lane it does nothing. -/
def warpWide (i : Instr) (pr : Pred) (ops : List (Opnd × Nat)) (cause : BitVec 8) (s : State) (c : Checks)
    (eff : State → State) : Host.Outcome State Fault Refusal :=
  let h := s.w.holds pr
  match firstPoison s [s.consumes 3 [(.p (pr.reg.setWidth 8), 1)] s.w.exm, s.consumes cause ops h] with
  | (some t, s1) => issue i s1 { early := some (t.engAddr i) } id
  | (none, _) => if h = 0 then issue i s {} fun t => t.advance 1 else issue i s c eff

/-! ## Tag waits (R280) -/

/-- The mask of TAGANY, TAGALL and TAGCLR: a register, or imm32 placed by D (R274). -/
def tagMask (w : Warp) (o : OpI) : Word :=
  if o.a.isS then BitVec.ofNat 64 (w.read 64 o.a 0).n
  else if o.d.num = 1 then BitVec.ofNat 64 (o.imm.toNat * 2 ^ 32) else o.imm.setWidth 64

def tagSrc (o : OpI) : List (Opnd × Nat) := if o.a.isS then [(o.a, 2)] else []

/-- A tag wait over (R280): an acquire at `.sys` if it is satisfied by a tag that a named-tile delivery set (R398). -/
def State.tagged (s : State) (m : Word) : State :=
  let w := s.w
  let c := s.core s.cid
  if c.tagDone &&& c.tagName &&& m ≠ 0 then s.acquireL1 w.launch s.cid w.ctx 6 else s

/-- The conditions of R280. -/
def anyMet (c : Core) (m : Word) : Bool := decide (c.tagDone &&& m ≠ 0) || decide (m = 0)
def allMet (c : Core) (m : Word) : Bool := decide (c.tagDone &&& m = m)

def tagWait (i : Instr) (o : OpI) (met : Core → Word → Bool) (s : State) : Host.Outcome State Fault Refusal :=
  tryless i o.pr s <| warpWide i o.pr (tagSrc o) 7 s { ready := met (s.core s.cid) (tagMask s.w o) } fun t =>
    (t.tagged (tagMask t.w o)).advance 1

def execTagany (o : OpI) (s : State) : Host.Outcome State Fault Refusal := tagWait (.tagany o) o anyMet s
def execTagall (o : OpI) (s : State) : Host.Outcome State Fault Refusal := tagWait (.tagall o) o allMet s

/-! ## TAGFF and TAGCLR (R281, R282) -/

/-- DONE and ERR of every tag of a mask cleared, but for those set in this clock (R19, R242). -/
def State.clearTags (s : State) (cid : Nat) (m0 : Word) : State :=
  let c := s.core cid
  let m := m0 &&& ~~~(s.tagsKept cid m0)
  s.putCore cid { c with tagDone := c.tagDone &&& ~~~m, tagErr := c.tagErr &&& ~~~m }

/-- The lowest tag of a mask with DONE set, and ERR too if asked; 64 if there is none. -/
def tagFound (c : Core) (m : Word) (err : Bool) : Nat :=
  ((List.range 64).find? fun t =>
    m.getLsbD t && c.tagDone.getLsbD t && (!err || c.tagErr.getLsbD t)).getD 64

/-- A result written by a warp-wide instruction to an s register or to the participating lanes of a v register. -/
def Warp.wideResult (w : Warp) (h : W32) (d : Opnd) (n : Nat) : Warp :=
  match d with
  | .s _ => w.write 64 d 0 { n := n }
  | _ => (lanesOf h).foldl (fun t l => t.write 32 d l { n := n }) w

def execTagff (o : OpO) (s : State) : Host.Outcome State Fault Refusal :=
  let h := s.w.holds o.pr
  tryless (.tagff o) o.pr s <| warpWide (.tagff o) o.pr [(o.a, 2)] 7 s
    { ready := s.operandsFree (.tagff o) [o.d] 1 h } fun t =>
      let m := BitVec.ofNat 64 (t.w.read 64 o.a 0).n
      let n := tagFound (t.core t.cid) m (bit o.m.toNat 0)
      let t1 := if bit o.m.toNat 1 && decide (n < 64) then t.clearTags t.cid (1 <<< n) else t
      (t1.setW (t1.w.wideResult h o.d n)).advance 1

def execTagclr (o : OpI) (s : State) : Host.Outcome State Fault Refusal :=
  tryless (.tagclr o) o.pr s <| warpWide (.tagclr o) o.pr (tagSrc o) 7 s {} fun t =>
    (t.clearTags t.cid (tagMask t.w o)).advance 1

end Sys2Proof.Machine
end

