-- ==== Sys2Proof/Machine/Lanes.lean ====
section
/-! DEFINITION. The cross-lane instructions (R159 to R169): shuffles, votes, matches, election, reductions and scans over
the tiles that PART defines, and the partition, the mask and the indices of a warp. -/

namespace Sys2Proof.Machine

/-! ## Shared forms -/

/-- A cross-lane instruction with a result D of `dn` registers and a status C in each participating lane, both computed from
the warp as it stood (R160); `rd` are the lanes whose sources are read. -/
def laneOp (i : Instr) (o : OpO) (dn : Nat) (srcs : List (Opnd × Nat)) (f g : Warp → Nat → Res) (s : State) :
    Host.Outcome State Fault Refusal :=
  let m := s.w.holds o.pr ||| s.w.psnd o.pr
  issue i s { ready := decide (m = 0) || s.operandsFree i [o.d] dn m } fun t =>
    let t1 := t.readPending (srcs.filter fun e => names i e.1) (t.w.holds o.pr)
    let w := t1.w
    (t1.setW ((w.perLane o.pr (32 * dn) o.d (f w)).perLane o.pr 32 o.c (g w))).advance 1

/-- The participating lanes of the tile of lane `l`. -/
def Warp.peers (w : Warp) (pr : Pred) (l : Nat) : List Nat := (w.tileOf l).filter fun j => (w.holds pr).getLsbD j

/-! ## SHFL (R162) -/

/-- The `.b64` modifier. -/
def wide64 (o : OpO) : Bool := bit o.m.toNat 0
def regs64 (o : OpO) : Nat := if wide64 o then 2 else 1

/-- The source lane of lane `l` for the amount `b` in a tile of `n` lanes, none if it is out of range. -/
abbrev ShflMode := (n base q b : Nat) → Option Nat

def shflFromLane : ShflMode := fun n base _ b => some (base + b % n)
def shflRotLane : ShflMode := fun n base q b => some (base + (q + b % n) % n)
def shflShiftLane : ShflMode := fun n base q b =>
  let x := (q : Int) + sext 32 b
  if 0 ≤ x ∧ x < n then some (base + x.toNat) else none
def shflFlipLane : ShflMode := fun n base q b => some (base + Nat.xor q (b % n))

/-- The lane that lane `l` reads, and whether it is another's: in range and participating. -/
def shflSource (o : OpO) (mode : ShflMode) (w : Warp) (l : Nat) : Nat × Bool :=
  let n := w.tile
  match mode n (l - l % n) (l % n) (w.read 32 o.b l).n with
  | some j => if (w.holds o.pr).getLsbD j then (j, true) else (l, false)
  | none => (l, false)

def shfl (i : Instr) (o : OpO) (mode : ShflMode) (s : State) : Host.Outcome State Fault Refusal :=
  laneOp i o (regs64 o) [(o.a, regs64 o), (o.b, 1)]
    (fun w l =>
      let b := w.read 32 o.b l
      let x := w.read (32 * regs64 o) o.a (shflSource o mode w l).1
      { n := x.n, psn := x.psn || b.psn })
    (fun w l => { n := Bool.n (shflSource o mode w l).2, psn := (w.read 32 o.b l).psn }) s

def execShflFrom (o : OpO) (s : State) := shfl (.shflFrom o) o shflFromLane s
def execShflRot (o : OpO) (s : State) := shfl (.shflRot o) o shflRotLane s
def execShflShift (o : OpO) (s : State) := shfl (.shflShift o) o shflShiftLane s
def execShflFlip (o : OpO) (s : State) := shfl (.shflFlip o) o shflFlipLane s

/-! ## VOTE (R163) -/

/-- A vote of each tile on the values of A. -/
def vote (i : Instr) (o : OpO) (f : List Bool → Bool) (s : State) : Host.Outcome State Fault Refusal :=
  alu i o.pr o.d 1 [(o.a, 1)] id (fun w l =>
    let xs := (w.peers o.pr l).map fun j => w.p1 o.a.num j
    { n := Bool.n (f (xs.map (·.val))), psn := xs.any (·.psn) }) s

def execVoteOr (o : OpO) (s : State) := vote (.voteOr o) o (fun xs => xs.any id) s
def execVoteAnd (o : OpO) (s : State) := vote (.voteAnd o) o (fun xs => xs.all id) s
def execVoteSame (o : OpO) (s : State) := vote (.voteSame o) o (fun xs => xs.all id || xs.all (!·)) s

/-- VOTE.mask: relative to each lane's tile in a v register, of the whole warp in an s register. -/
def execVoteMask (o : OpO) (s : State) : Host.Outcome State Fault Refusal :=
  alu (.voteMask o) o.pr o.d 1 [(o.a, 1)] id (fun w l =>
    let at_ := if o.d.isS then 0 else l - l % w.tile
    let js := if o.d.isS then lanesOf (w.holds o.pr) else w.peers o.pr l
    { n := sumOf (fun j => if (w.p1 o.a.num j).val then 2 ^ (j - at_) else 0) js
      psn := js.any fun j => (w.p1 o.a.num j).psn }) s

/-! ## MATCH and ELECT (R164, R165) -/

/-- The participating lanes of the tile that hold the value of lane `l`. -/
def matchGroup (o : OpO) (w : Warp) (l : Nat) : List Nat :=
  (w.peers o.pr l).filter fun j => decide ((w.read (32 * regs64 o) o.a j).n = (w.read (32 * regs64 o) o.a l).n)

def matchPoison (o : OpO) (w : Warp) (l : Nat) : Bool :=
  (w.peers o.pr l).any fun j => (w.read (32 * regs64 o) o.a j).psn

/-- MATCH. D is a pair under `.b64`, as every V of R159 is in a form that is 64 bits wide (DEDUCED, log 109). -/
def execMatchPeers (o : OpO) (s : State) : Host.Outcome State Fault Refusal :=
  laneOp (.matchPeers o) o (regs64 o) [(o.a, regs64 o)]
    (fun w l => { n := (maskOf (matchGroup o w l)).toNat, psn := matchPoison o w l })
    (fun w l => { n := Bool.n (decide (matchGroup o w l = w.peers o.pr l)), psn := matchPoison o w l }) s

def execMatchLead (o : OpO) (s : State) : Host.Outcome State Fault Refusal :=
  laneOp (.matchLead o) o (regs64 o) [(o.a, regs64 o)]
    (fun w l => { n := (matchGroup o w l).headD l % w.tile, psn := matchPoison o w l })
    (fun w l => { n := Bool.n (decide ((matchGroup o w l).headD l = l)), psn := matchPoison o w l }) s

def execElect (o : OpO) (s : State) : Host.Outcome State Fault Refusal :=
  alu (.elect o) o.pr o.d 1 [] id (fun w l => { n := Bool.n (decide ((w.peers o.pr l).headD l = l)) }) s

/-! ## REDUX and SCAN (R60, R61, R166) -/

/-- A node of the summation tree: a value with its flags, or nothing. -/
abbrev Node := Option (Nat × BitVec 8)

def joinNode (f : Nat → Nat → Nat × BitVec 8) : Node → Node → Node
  | some (a, fa), some (b, fb) => let r := f a b; some (r.1, fa ||| fb ||| r.2)
  | some x, none => some x
  | none, y => y

/-- One level of the tree: node j combines nodes 2j and 2j + 1. -/
def joinLevel (f : Nat → Nat → Nat × BitVec 8) : List Node → List Node
  | a :: b :: rest => joinNode f a b :: joinLevel f rest
  | xs => xs

/-- The root over at most 32 leaves. -/
def treeRoot (f : Nat → Nat → Nat × BitVec 8) (xs : List Node) : Nat × BitVec 8 :=
  match (List.range 5).foldl (fun ys _ => joinLevel f ys) xs with
  | some x :: _ => x
  | _ => (0, 0)

/-- The type codes of R159: 0 to 3 as R66, 4 `.f32`, 5 `.f64`. -/
def redType (o : OpO) : Nat := bits o.m.toNat 5 3
def redRegs (o : OpO) : Nat := if redType o = 2 ∨ redType o = 3 ∨ redType o = 5 then 2 else 1

/-- An operation of REDUX and SCAN: on the integers of a type, and on two floating elements under a rounding mode. -/
structure RedOp where
  int : (ty : Nat) → Nat → Nat → Nat
  flt : (code rm : Nat) → Nat → Nat → Nat × BitVec 8

def addFlt (c rm a b : Nat) : Nat × BitVec 8 :=
  let r := addN rm (unpack c a) (unpack c b)
  let y := round c rm 0 r.1
  (y.1, r.2 ||| y.2)

def redAdd : RedOp := { int := fun ty a b => wrapT ty (valT ty a + valT ty b), flt := addFlt }
def redMin : RedOp :=
  { int := fun ty a b => if valT ty b < valT ty a then b else a, flt := fun c _ => minmaxN c false pickMin }
def redMax : RedOp :=
  { int := fun ty a b => if valT ty a < valT ty b then b else a, flt := fun c _ => minmaxN c false pickMax }
def redBits (f : Nat → Nat → Nat) : RedOp := { int := fun _ => f, flt := fun _ _ a _ => (a, 0) }

/-- The combined value of some lanes' elements of A: an integer fold, or the fixed tree over the tile (R60). A NaN result
is canonical (R52). -/
def combine (o : OpO) (op : RedOp) (w : Warp) (tile : List Nat) (on : Nat → Bool) : Res :=
  let b := 32 * redRegs o
  let ty := redType o
  let js := tile.filter on
  let psn := js.any fun j => (w.read b o.a j).psn
  if ty < 4 then
    match js.map fun j => (w.read b o.a j).n with
    | [] => { n := 0, psn := psn }
    | x :: xs => { n := xs.foldl (op.int ty) x, psn := psn }
  else
    let c := if ty = 4 then 1 else 0
    let leaf (j : Nat) : Node :=
      if on j then some ((w.read b o.a j).n, (unpack c (w.read b o.a j).n).sig) else none
    let r := treeRoot (op.flt c o.sub) (tile.map leaf)
    { n := if (unpack c r.1).isNan then (fmtOf c).qnan else r.1, psn := psn, fl := r.2 }

def redux (i : Instr) (o : OpO) (op : RedOp) (s : State) : Host.Outcome State Fault Refusal :=
  alu i o.pr o.d (redRegs o) [(o.a, redRegs o)] id (fun w l =>
    combine o op w (w.tileOf l) fun j => (w.holds o.pr).getLsbD j) s

def scan (i : Instr) (o : OpO) (op : RedOp) (s : State) : Host.Outcome State Fault Refusal :=
  alu i o.pr o.d (redRegs o) [(o.a, redRegs o)] id (fun w l =>
    combine o op w (w.tileOf l) fun j => (w.holds o.pr).getLsbD j && decide (j ≤ l)) s

def execReduxAdd (o : OpO) (s : State) := redux (.reduxAdd o) o redAdd s
def execReduxMin (o : OpO) (s : State) := redux (.reduxMin o) o redMin s
def execReduxMax (o : OpO) (s : State) := redux (.reduxMax o) o redMax s
def execReduxAnd (o : OpO) (s : State) := redux (.reduxAnd o) o (redBits fun a b => a &&& b) s
def execReduxOr (o : OpO) (s : State) := redux (.reduxOr o) o (redBits fun a b => a ||| b) s
def execReduxXor (o : OpO) (s : State) := redux (.reduxXor o) o (redBits fun a b => a ^^^ b) s
def execScanAdd (o : OpO) (s : State) := scan (.scanAdd o) o redAdd s
def execScanMin (o : OpO) (s : State) := scan (.scanMin o) o redMin s
def execScanMax (o : OpO) (s : State) := scan (.scanMax o) o redMax s
def execScanAnd (o : OpO) (s : State) := scan (.scanAnd o) o (redBits fun a b => a &&& b) s
def execScanOr (o : OpO) (s : State) := scan (.scanOr o) o (redBits fun a b => a ||| b) s
def execScanXor (o : OpO) (s : State) := scan (.scanXor o) o (redBits fun a b => a ^^^ b) s

/-! ## PARTSET, EXMGET, EXMSET, LVLID (R167 to R169) -/

def execPartset (o : OpO) (s : State) : Host.Outcome State Fault Refusal :=
  let v := (s.w.read 64 o.a 0).n
  warpWide (.partset o) o.pr [(o.a, 2)] 0x0B s { early := s.badField (!partOk v) } fun t =>
    (t.setW { t.w with part := BitVec.ofNat 8 v }).advance 1

def execExmget (o : OpO) (s : State) : Host.Outcome State Fault Refusal :=
  alu (.exmget o) o.pr o.d 1 [] id (fun w _ => { n := w.exm.toNat }) s

/-- ELIG (R136): the SPLIT of the top entry, or the lanes not retired, without any entry's pending lanes. -/
def Warp.elig (w : Warp) : W32 :=
  let m := match w.rstk with | [] => w.alive | e :: _ => e.split
  w.rstk.foldl (fun m e => m &&& ~~~e.pend) m

def execExmset (o : OpO) (s : State) : Host.Outcome State Fault Refusal :=
  warpWide (.exmset o) o.pr [(o.a, 2)] 0x0B s {} fun t =>
    let w := t.w
    (t.setW { w with exm := BitVec.ofNat 32 (w.read 64 o.a 0).n &&& w.elig }).advance 1

def execLvlid (k : BitVec 3) (o : OpO) (s : State) : Host.Outcome State Fault Refusal :=
  alu (.lvlid k o) o.pr o.d 1 [] id (fun w _ => { n := look 0 w.lvl k.toNat }) s

def execLvlidLane (o : OpO) (s : State) : Host.Outcome State Fault Refusal :=
  alu (.lvlidLane o) o.pr o.d 1 [] id (fun _ l => { n := l }) s

end Sys2Proof.Machine
end

