-- ==== Sys2Proof/Machine/Sync.lean ====
section
/-! DEFINITION. Named barriers (R170 to R173), POLL and YIELD (R174, R175) with the steps that resolve them (R157, R156),
the tasks of a job card (R153, R154, R176, R177) and versioned tasks (R305, R306). -/

namespace Sys2Proof.Machine

/-! ## BAR, BARA, BARW -/

/-- The barrier that an instruction names: level, unit, id and state. -/
structure BarRef where
  lvl  : Nat
  unit : Nat
  id   : Nat
  bar  : Barrier

def State.barRef (s : State) (o : OpO) : BarRef :=
  let w := s.w
  let lvl := bits o.m.toNat 5 3
  let unit := s.unitOf w lvl
  let id := (w.read 64 o.a 0).n
  { lvl := lvl, unit := unit, id := id, bar := look {} s.bars (barKey w.launch lvl unit id) }

/-- The checks of R170 on the id and the count. -/
def State.barTrap (s : State) (o : OpO) (count : Bool) : Option TrapInfo :=
  let lvl := bits o.m.toNat 5 3
  s.badField (decide (15 < (s.w.read 64 o.a 0).n) ||
    (count && decide ((s.launch s.w.launch).warpsOf lvl < (s.w.read 64 o.b 0).n)))

/-- BARRIER-ABANDONED (R171): where no status is taken. -/
def abandonTrap (o : OpO) : Option TrapInfo :=
  if o.d = .p 7 then some { cls := clsBarrier, cause := 1 } else none

/-- Whether a barrier is abandoned for an instruction that issues now: a halt of this clock acts at the end of it (R172, R173). -/
def Barrier.gone (b : Barrier) (clk : Nat) : Bool := b.abandoned && decide (b.since ≤ clk)

/-- Arrive(count) of R171, without its release; Check() follows at the end of the clock (R173). -/
def State.arrive (s : State) (r : BarRef) (count : Nat) : State :=
  let b := r.bar
  let b' : Barrier := { b with n := if b.arr = 0 then count else b.n, arr := b.arr + 1 }
  { s with bars := put {} s.bars (barKey s.w.launch r.lvl r.unit r.id) b' }

/-- The release at the barrier's scope: what it sends, and whether nothing is left to wait for. -/
def State.barRelease (s : State) (lvl : Nat) : State × Bool :=
  let w := s.w
  let sc := s.barScope w.launch lvl
  let s1 := s.releaseL1 s.cur s.cid sc
  (s1, s1.released s.cur s.cid sc s1.nextId)

def execBar (o : OpO) (s : State) : Host.Outcome State Fault Refusal :=
  let h := s.w.holds o.pr
  let r := s.barRef o
  tryless (.bar o) o.pr s <|
    if r.bar.gone s.clk then
      warpWide (.bar o) o.pr [(o.a, 2), (o.b, 2)] 0x0B s { early := s.barTrap o true, late := abandonTrap o } fun t =>
        (t.setW (t.w.setStatus h o.d false)).advance 1
    else
      let (s1, go) := if s.w.holds o.pr = 0 then (s, true) else s.barRelease r.lvl
      warpWide (.bar o) o.pr [(o.a, 2), (o.b, 2)] 0x0B s1 { ready := go, early := s.barTrap o true } fun t =>
        (t.setW { t.w with wait := .barrier r.lvl r.id r.bar.gen o.d h }).arrive r (t.w.read 64 o.b 0).n

def execBara (o : OpO) (s : State) : Host.Outcome State Fault Refusal :=
  let r := s.barRef o
  tryless (.bara o) o.pr s <|
    if r.bar.gone s.clk then
      warpWide (.bara o) o.pr [(o.a, 2), (o.b, 2)] 0x0B s { early := s.barTrap o true } fun t => t.advance 1
    else
      let (s1, go) := if s.w.holds o.pr = 0 then (s, true) else s.barRelease r.lvl
      warpWide (.bara o) o.pr [(o.a, 2), (o.b, 2)] 0x0B s1 { ready := go, early := s.barTrap o true } fun t =>
        (t.arrive r (t.w.read 64 o.b 0).n).advance 1

def execBarw (o : OpO) (s : State) : Host.Outcome State Fault Refusal :=
  let h := s.w.holds o.pr
  let r := s.barRef o
  tryless (.barw o) o.pr s <| warpWide (.barw o) o.pr [(o.a, 2)] 0x0B s
    { early := s.barTrap o false, late := if r.bar.gone s.clk then abandonTrap o else none } fun t =>
      if r.bar.gone s.clk then (t.setW (t.w.setStatus h o.d false)).advance 1
      else t.setW { t.w with wait := .barrier r.lvl r.id r.bar.gen o.d h }

/-! ## POLL (R157, R174) -/

/-- The conditions of R174. -/
def pollCond (c v b : Nat) : Bool :=
  match c with
  | 0 => decide (v = b) | 1 => decide (v ≠ b) | 2 => decide (v < b) | 3 => decide (v ≤ b) | 4 => decide (b < v)
  | _ => decide (b ≤ v)

def execPoll (o : OpO) (s : State) : Host.Outcome State Fault Refusal :=
  let w := s.w
  let h := w.holds o.pr
  let a := BitVec.ofNat 64 (w.read 64 o.a 0).n
  let n := o.c.num
  tryless (.poll o) o.pr s <| warpWide (.poll o) o.pr [(o.a, 2), (o.b, if n = 8 then 2 else 1)] 0x0B s
    { early := misaligned h (fun _ => a.toNat) n
      watch := w.watchHit h (fun _ => a) n true false
      late := match s.memLoc .load a with | .mem _ => none | _ => some (addrTrap 1 a) } fun t =>
      ({ t with nextId := t.nextId + 1 }).setW { t.w with
        wait := .poll a (decide (n = 8)) (BitVec.ofNat 64 (t.w.read (8 * n) o.b 0).n) o.sub (bits o.m.toNat 5 3) o.d h t.nextId }

/-- A read of number `id` of a warp for some lanes, as a `.fresh` load of its own (R125, R174). -/
def State.freshOp (s : State) (k id n : Nat) (lanes : W32) (va : Word) (loc : Loc) : Op :=
  let w := s.warp k
  { id := id, warp := k, launch := w.launch, core := cidOf k, ctx := w.ctx, kind := .load .u64 (.s 0)
    accs := [{ lane := 0, va := va, loc := loc, n := n }], fresh := true, lanes := lanes }

/-- What an attempt reads: a value, poison with its origin, or nothing yet. -/
inductive FreshRead where
  | val (s : State) (n : Nat)
  | psn (s : State) (o : Origin)
  | wait (s : State)

def State.freshRead (s : State) (k id n : Nat) (lanes : W32) (va : Word) : FreshRead :=
  match (s.ctx (s.warp k).ctx).translate .load va with
  | .miss _ => .psn s .translation
  | .ok ia =>
    let o := s.freshOp k id n lanes va (.mem ia)
    if o.accs.all fun a => s.ordered o a then
      match s.loadSector o ia true with
      | .wait s1 => .wait s1
      | .fail s1 c => .psn (s1.logFault ia va o.ctx c) c.origin
      | .ok s1 x0 =>
        let x := s1.seenBy 0 (s.warp k).tskVer true (ia / 16) x0
        if x.mark ≠ .none then .psn s1 x.mark else .val s1 (ofBytes ((x.data.drop (ia % 16)).take n))
    else .wait s

/-- The back-off after the k-th consecutive failure (R157). -/
def backoffOf (k : Nat) : Nat := Nat.min (16 * 2 ^ (k - 1)) 4096

/-- A poll attempt resolved (R174): the effect of its outcome. -/
def State.resolvePoll (s : State) (k : Nat) : State :=
  let w0 := s.warp k
  match (if w0.status = .run then w0.wait else .none) with
  | .poll va wide cmp cond scope d mask id =>
    match s.freshRead k id (if wide then 8 else 4) mask va with
    | .wait s1 => s1
    | .psn s1 o => s1.asWarp k fun t =>
        let w1 := (lanesOf mask).foldl (fun (u : Warp) l => u.write 32 d l poisonVal) { t.w with wait := .none, ready0 := t.clk }
        ((t.setW (w1.deliver o va)).countCtx w1.ctx 0x10D).advance 1
    | .val s1 v => s1.asWarp k fun t =>
        let w := { t.w with wait := .none, ready0 := t.clk }
        if pollCond cond v cmp.toNat then
          ((t.setW { w.setStatus mask d true with prio := w.basePrio, pollK := 0 }).acquireL1 w.launch t.cid w.ctx scope).advance 1
        else
          let n := w.pollK + 1
          (t.setW { w.setStatus mask d false with
            prio := w.prio - 1, pollK := n, wait := .backoff (t.clk + backoffOf n) }).advance 1
  | _ => s

def execPollAttemptResolved (k : Nat) (s : State) : Host.Outcome State Fault Refusal := .next (s.resolvePoll k)

/-- A wait that ends with time ended: a warp ready again. -/
def State.freeWarp (s : State) (k : Nat) : State :=
  s.putWarp k { s.warp k with wait := .none, ready0 := s.clk }

/-- The end of a back-off, when its clocks have passed. -/
def State.endBackoff (s : State) (k : Nat) : State :=
  match (s.warp k).wait with
  | .backoff u => if u ≤ s.clk then s.freeWarp k else s
  | _ => s

def execPollBackoffEnd (k : Nat) (s : State) : Host.Outcome State Fault Refusal := .next (s.endBackoff k)

/-! ## YIELD (R175) and urgency (R156) -/

/-- The set Y of a yielding warp, with the number of instructions that each has issued: of the warps that are ready in this clock,
those of its sub-core whose priority is no lower. -/
def State.yieldSet (s : State) : List (Nat × Nat) :=
  (s.warps.filter fun e => decide (e.1 ≠ s.cur) && decide (e.1 < 2 ^ 20) && decide (e.1 / 16 = s.cur / 16) &&
    decide (s.w.prio ≤ e.2.prio) && s.readyNow.contains e.1).map fun e => (e.1, e.2.issues)

def execYield (o : OpO) (s : State) : Host.Outcome State Fault Refusal :=
  warpWide (.yield o) o.pr [] 0x0B s {} fun t =>
    let y := t.yieldSet
    (t.setW { t.w with wait := if y = [] then .none else .yield y (t.clk + 64) }).advance 1

/-- Whether every warp of Y has issued once, stopped or retired, or 64 clocks have passed. -/
def State.yieldOver (s : State) (y : List (Nat × Nat)) (u : Nat) : Bool :=
  decide (u ≤ s.clk) || y.all fun e =>
    let w := s.warp e.1
    decide (w.status ≠ .run) || decide (w.issues ≠ e.2)

def State.endYield (s : State) (k : Nat) : State :=
  match (s.warp k).wait with
  | .yield y u => if s.yieldOver y u then s.freeWarp k else s
  | _ => s

def execYieldTimeout (k : Nat) (s : State) : Host.Outcome State Fault Refusal := .next (s.endYield k)

/-- A warp ready for 32 consecutive clocks without issuing becomes urgent. `ready0` follows what the warp could have done in each
clock: it is past every clock in which it was not ready. -/
def State.makeUrgent (s : State) (k : Nat) : State :=
  let w := s.warp k
  if w.status = .run ∧ Nat.max w.ready0 (w.lastIssue + 1) + 32 ≤ s.clk then s.putWarp k { w with urgent := true } else s

def execWarpUrgent (k : Nat) (s : State) : Host.Outcome State Fault Refusal := .next (s.makeUrgent k)

/-! ## Versioned tasks (R305, R306) -/

/-- The age order of a die: no resident warp's task version is older (R306). -/
def State.isOldest (s : State) (v : Nat) : Bool :=
  let x := look {} s.vers v
  s.vers.all fun e => !e.2.task || decide (2 ^ 20 ≤ e.2.warp) ||
    decide (e.2.warp / (64 * Config.coresPerDie) ≠ x.warp / (64 * Config.coresPerDie)) || decide (x.age ≤ e.2.age)

/-- The oldest version of its die, if it is stalled, becomes irrevocable once its held bytes can be published. -/
def State.makeIrrevocable (s : State) (v : Nat) : State :=
  let x := look {} s.vers v
  if x.task && x.stalled && !x.irrev && decide (x.warp < 2 ^ 20) && s.isOldest v then
    let cid := cidOf x.warp
    match s.canPublish v cid 4 with
    | (s1, false) => s1
    | (s1, true) =>
      let s2 := s1.publishMem v cid fun _ => true
      let y := look {} s2.vers v
      { s2 with vers := put {} s2.vers v { y with irrev := true, stalled := false, mem := [], rd := [], wr := [], ways := [], vas := [], whole := [] } }
  else s

def execVersionIrrevocable (k : Nat) (s : State) : Host.Outcome State Fault Refusal := .next (s.makeIrrevocable k)

/-! ## Dealing chunks (R153, R388) -/

/-- A byte of a context's memory as its home holds it, none if it cannot be read. -/
def State.peekByte (s : State) (ctx : Nat) (va : Word) : Option Byte :=
  match (s.ctx ctx).translate .load va with
  | .miss _ => none
  | .ok ia => (s.peekSector .load ia).map fun x => nth 0 x.data (ia % 16)

def State.peekWord (s : State) (ctx : Nat) (va : Word) : Option Word :=
  match (s.ctx ctx).translate .load va with
  | .miss _ => none
  | .ok ia => (s.peekSector .load ia).map fun x =>
      BitVec.ofNat 64 (ofBytes ((List.range 8).map fun i => nth 0 x.data (ia % 16 / 8 * 8 + i)))

/-- Whether a takeover's commit bitmap says that a task has been committed (R388). -/
def State.committed (s : State) (l : Launch) (i : Nat) : Bool :=
  decide (l.prime ≠ 0) && (match s.peekByte l.ctx (l.prime + BitVec.ofNat 64 (i / 8)) with
    | some b => bit b.toNat (i % 8)
    | none => false)

/-- The cores that hold a block of a launch. -/
def State.coresOf (s : State) (id : Nat) : List Nat :=
  dedup ((s.blocks.filter fun e => decide (e.2.launch = id) && e.2.live && !e.2.saved).map fun e => e.2.cid)

/-- Indexes dealt to a block: its chunk, and the tasks that await their TASKDONE. -/
def Launch.deal (l : Launch) (b : Nat) (is : List Nat) : Launch :=
  { l with chunks := put [] l.chunks b (look [] l.chunks b ++ is)
           undone := l.undone ++ is.filter fun i => !l.undone.contains i }

/-- A request put in the order of service (R153): by arrival, those of one clock by CID, then by block index. -/
def State.askFor (s : State) (id b : Nat) : State :=
  let l := s.launch id
  let core (i : Nat) : Nat := ((s.blocks.find? fun e => decide (e.2.launch = id) && decide (e.2.idx = i)).map fun e => e.2.cid).getD 0
  let before (x : Nat × Nat) : Bool :=
    decide (x.1 < s.clk) || decide (core x.2 < core b) || (decide (core x.2 = core b) && decide (x.2 < b))
  if l.asks.any fun x => decide (x.2 = b) then s
  else s.putLaunch id { l with asks := l.asks.takeWhile before ++ (s.clk, b) :: l.asks.dropWhile before }

/-- One request served, one in a clock and none of this clock, whose order is not complete yet (R153). A chunk of which every task was committed before the takeover serves nobody: the request stands. -/
def State.dealChunk (s : State) (id : Nat) : State :=
  let l := s.launch id
  match l.asks, l.job with
  | (at_, b) :: rest, some j =>
    if s.clk ≤ at_ ∨ s.clk < l.dealtAt then s
    else match l.redeal with
    | i :: more => s.putLaunch id ({ l with asks := rest, redeal := more, dealtAt := s.clk + 1 }.deal b [i])
    | [] =>
      if l.rem = 0 then s
      else
        let f := Nat.max 1 (s.coresOf id).length
        let n := if l.det then Nat.min l.rem j.minch else Nat.min l.rem (Nat.max j.minch (ceilDiv l.rem (2 * f)))
        let is := ((List.range n).map (l.next + ·)).filter fun i => !s.committed l i
        let l1 := { l with next := l.next + n, rem := l.rem - n, chunkNo := l.chunkNo + 1, dealtAt := s.clk + 1 }
        let peer := if l.det then l.chunkNo % Nat.max 1 (l.prod (l.blkLevel + 1) (l.nlvl - 1)) else b
        if is = [] then s.putLaunch id l1
        else s.putLaunch id ({ l1 with asks := if peer = b then rest else (l.asks.filter fun x => decide (x.2 ≠ peer)) }.deal peer is)
  | _, _ => s

def execDealChunk (launch : Nat) (s : State) : Host.Outcome State Fault Refusal := .next (s.dealChunk launch)

/-! ## TASKGET (R154, R176) -/

/-- The address of a task's record (R150). -/
def Launch.recordOf (l : Launch) (i : Nat) : Word :=
  match l.job with
  | some j => j.recs + BitVec.ofNat 64 (i * j.rsize)
  | none => 0

/-- D and C written. -/
def State.taskResult (s : State) (o : OpO) (h : W32) (a : Word) (ok : Bool) : State :=
  (s.setW ((s.w.write 64 o.d 0 { n := a.toNat }).setStatus h o.c ok)).advance 1

/-- Index `i` drawn from the block's chunk; a task of a VERS launch opens its version. -/
def State.drawTask (s : State) (i : Nat) (rest : List Nat) : State :=
  let w := s.w
  let l := s.launch w.launch
  let s1 := s.putLaunch w.launch { l with chunks := put [] l.chunks (s.block w.blk).idx rest }
  let s2 := { s1 with nextAge := s1.nextAge + 1 }
  match (if l.vers then s1.freeTag else none) with
  | some v =>
    ({ s2 with vers := put {} s2.vers v { taken := true, warp := s.cur, task := true, age := s1.nextAge } }).setW
      { w with tskValid := true, tskVers := true, tskIdx := BitVec.ofNat 32 i, tskVer := v, tskAge := s1.nextAge }
  | none => s2.setW { w with tskValid := true, tskVers := false, tskIdx := BitVec.ofNat 32 i, tskVer := 0, tskAge := s1.nextAge }

def execTaskget (o : OpO) (s : State) : Host.Outcome State Fault Refusal :=
  let w := s.w
  let h := w.holds o.pr
  let l := s.launch w.launch
  let b := (s.block w.blk).idx
  let free := s.operandsFree (.taskget o) [o.d] 1 h
  tryless (.taskget o) o.pr s <|
    if w.tskValid then
      warpWide (.taskget o) o.pr [] 0x0B s { ready := free } fun t =>
        t.taskResult o h (l.recordOf w.tskIdx.toNat) true
    else if l.job.isNone then
      warpWide (.taskget o) o.pr [] 0x0B s { ready := free } fun t => t.taskResult o h 0 false
    else match look [] l.chunks b with
      | i :: rest =>
        warpWide (.taskget o) o.pr [] 0x0B s { ready := free && (!l.vers || s.freeTag.isSome) } fun t =>
          (t.drawTask i rest).taskResult o h (l.recordOf i) true
      | [] =>
        let done := decide (l.rem = 0) && l.redeal.isEmpty && l.undone.isEmpty
        warpWide (.taskget o) o.pr [] 0x0B s { ready := free && done, sent := some (if free then s.askFor w.launch b else s) } fun t =>
          (t.putLaunch w.launch { t.launch w.launch with asks := l.asks.filter fun x => decide (x.2 ≠ b) }).taskResult o h 0 false

/-! ## TASKDONE (R154, R177, R305, R388) -/

/-- The byte of a gang launch's commit bitmap that holds task `i`: its VA and IA (R388). -/
def State.commitByte (s : State) (l : Launch) (i : Nat) : Option (Word × Nat) :=
  match l.gangRow with
  | none => none
  | some (g, _) =>
    let ttab := (look {} s.lyre.t.gang g).ttab
    if ttab = 0 then none
    else match s.peekWord l.ctx ttab with
      | none => none
      | some n =>
        let va := ttab + 8 + 16 * n + BitVec.ofNat 64 (i / 8)
        match (s.ctx l.ctx).translate .store va with
        | .ok ia => some (va, ia)
        | .miss _ => none

/-- The task's commit bit joined to what its version publishes. -/
def State.holdCommit (s : State) : State :=
  let w := s.w
  let l := s.launch w.launch
  let i := w.tskIdx.toNat
  match s.commitByte l i with
  | none => s
  | some (va, ia) => match s.peekSector .store ia with
    | none => s
    | some x =>
      let v := look {} s.vers w.tskVer
      let b := nth 0 (mergeSector x (heldIn v.mem (ia / 16 * 16) |>.filterMap fun e =>
        if e.1 < 16 then some (e.1, e.2.byte) else none)).data (ia % 16)
      s.hold w.tskVer true (memSec ia) ia 0 va [b ||| (1 <<< (i % 8))]

/-- The held task ended: TSKID cleared, the index done. R177 and R154 name VALID alone, R305 TSKID of a versioned task; VERS and INDEX
are cleared with it in every launch (DESIGN CHOICE, log 99). -/
def State.endTask (s : State) : State :=
  let w := s.w
  let l := s.launch w.launch
  let i := w.tskIdx.toNat
  (s.putLaunch w.launch { l with undone := l.undone.filter fun j => decide (j ≠ i), tries := put 0 l.tries i 0 }).setW
    { w with tskValid := false, tskVers := false, tskIdx := 0, tskVer := 0, tskAge := 0 }

def execTaskdone (o : OpO) (s : State) : Host.Outcome State Fault Refusal :=
  let w := s.w
  tryless (.taskdone o) o.pr s <|
    if !w.tskValid || decide (w.holds o.pr = 0) then warpWide (.taskdone o) o.pr [] 0x0B s {} fun t => t.advance 1
    else if !w.tskVers then warpWide (.taskdone o) o.pr [] 0x0B s {} fun t => t.endTask.advance 1
    else
      let v := w.tskVer
      let s1 := if s.quiet s.cur then s.holdCommit else s
      let s2 := s1.releaseL1 s.cur s.cid 4
      let (s3, can) := if s.quiet s.cur then s2.canPublish v s.cid 4 else (s2, false)
      let go := can && s3.released s.cur s.cid 4 s3.nextId
      -- what is not published yet holds no commit bit: it is read afresh at the next attempt
      let back := { s3 with vers := s.vers }
      warpWide (.taskdone o) o.pr [] 0x0B back { ready := go } fun t =>
        let t1 := t.holdCommit.publishMem v t.cid fun _ => true
        ((t1.countCtx t1.w.ctx 0x10E).dropVersion v).endTask.advance 1

end Sys2Proof.Machine
end

