-- ==== Sys2Proof/Machine/Engine.lean ====
section
/-! DEFINITION. What every engine command shares: its operands (R260, R271, R272, R274), the records it reads at issue (R249,
R250), its sources and destinations sector by sector, and its completion (R241, R243, R251, R273, R321, R400). -/

namespace Sys2Proof.Machine

/-! ## Scratchpad operands (R260) -/

/-- The scratchpad byte at displacement `x` of a 32-bit offset `d`: in the window, or with bit 24 set in the cluster. -/
def State.formAt (s : State) (w : Warp) (cid d x : Nat) : Option (Nat × Nat) :=
  if bit d 24 then
    if 2 ^ 22 ≤ d % 2 ^ 22 + x then none
    else match s.clusAt w cid (d % 2 ^ 24 + x) with
      | .ok p => some p
      | .error _ => none
  else s.spadAt w cid (d % 2 ^ 24 + x)

/-- Whether `n` bytes from an offset lie in the window or in the region named. -/
def State.formIn (s : State) (w : Warp) (cid d n : Nat) : Bool :=
  decide (n = 0) || ((s.formAt w cid d (n - 1)).isSome &&
    (List.range ((n + 127) / 128)).all fun k => (s.formAt w cid d (128 * k)).isSome)

def formErr (cause : BitVec 8) (d : Nat) : Option TrapInfo := some (addrTrap cause (BitVec.ofNat 64 d))

/-- LOCAL-RANGE of an operand: it lies in its allocation or region but for the bits that CLUSTER-TARGET judges. -/
def State.formLocal (s : State) (w : Warp) (cid d n : Nat) : Bool :=
  !(bit d 24 && (s.launch w.launch).clusLevel.isNone) && !s.formIn w cid (d % 2 ^ 25) n

/-- The address faults of an instruction's offsets (R260, items 3 and 4; R272, item 5): LOCAL-RANGE of any of them, in their order,
before CLUSTER-TARGET of any. -/
def State.formsTrap (s : State) (w : Warp) (cid : Nat) (xs : List (Nat × Nat)) : Option TrapInfo :=
  match xs.find? fun x => s.formLocal w cid x.1 x.2 with
  | some x => formErr 3 x.1
  | none => match xs.find? fun x => decide (2 ^ 25 ≤ x.1) || (bit x.1 24 && (s.launch w.launch).clusLevel.isNone) with
    | some x => formErr 4 x.1
    | none => none

/-- The same of one offset. -/
def State.formTrap (s : State) (w : Warp) (cid d n : Nat) : Option TrapInfo := s.formsTrap w cid [(d, n)]

/-- The address at which scratchpad offsets stand in a command's keys, above every VA. -/
def formAddr (d : Nat) : Nat := 2 ^ 64 + d

/-! ## Operands (R274) -/

/-- The value of an operand that is a literal or an s register. -/
def Warp.val64 (w : Warp) (x : Opnd) : Nat := (w.read 64 x 0).n
def Warp.val32 (w : Warp) (x : Opnd) : Nat := (w.read 32 x 0).n

/-- An operand of class s, for the poison check. -/
def sSrc (x : Opnd) : List (Opnd × Nat) := if x.isS then [(x, 2)] else []

/-- RESERVED-FIELD and REGISTER-RANGE found at the issue of an engine instruction, whose TADDR R272 gives as 0 (DEDUCED,
log 107). -/
def engField (bad : Bool) : Option TrapInfo :=
  if bad then some { cls := clsIllegal, cause := Illegal.reservedField.code } else none
def engRange (bad : Bool) : Option TrapInfo :=
  if bad then some { cls := clsIllegal, cause := Illegal.registerRange.code } else none

/-- The limits of T and K. -/
def Warp.badTag (w : Warp) (x : Opnd) : Bool := decide (63 < w.val64 x)
def Warp.badAcc (w : Warp) (x : Opnd) : Bool := decide (8192 ≤ w.val64 x)

/-- MISALIGNED of one address or offset (R272, item 3). -/
def misalign (a m : Nat) : Option TrapInfo := if a % m = 0 then none else some (addrTrap 2 (BitVec.ofNat 64 a))

/-- RANGE of a record address (R272, item 4). -/
def State.recRange (s : State) (a : Nat) : Option TrapInfo :=
  match s.memLoc .load (BitVec.ofNat 64 a) with
  | .mem _ => none
  | _ => some (addrTrap 1 (BitVec.ofNat 64 a))

/-! ## Records (R249) -/

/-- What reading a record answers. -/
inductive RecRead where
  | ok (s : State) (bs : List Byte)
  | bad (s : State)            -- poisoned, or failed at the memory side
  | wait (s : State)

/-- A sector read at its home with the core's own dirty bytes and the task's held bytes over it. -/
def State.engSector (s : State) (o : Op) (tver ia : Nat) : Got :=
  match s.readSector o ia true with
  | .ok s1 x => .ok s1 (s1.seenBy 0 tver true (ia / 16) x)
  | g => g

/-- `n` sectors from an IA, read at one moment. -/
def State.readRun (s : State) (o : Op) (tver : Nat) (va : Word) (ia : Nat) : Nat → RecRead
  | 0 => .ok s []
  | n + 1 =>
    match s.readRun o tver va ia n with
    | .ok s1 bs =>
      match s1.engSector o tver (ia + 16 * n) with
      | .wait s2 => .wait s2
      | .fail s2 c => .bad (s2.logFault ia va o.ctx c)
      | .ok s2 x => if x.mark = .none then .ok s2 (bs ++ x.data) else .bad s2
    | r => r

/-- A record of `n` bytes read as one load of the issuing warp. -/
def State.readRec (s : State) (va n : Nat) : RecRead :=
  let v := BitVec.ofNat 64 va
  match s.memLoc .load v with
  | .mem ia =>
    let o := s.freshOp s.cur 0 n s.w.exm v (.mem ia)
    if !(s.ops.all fun e => decide (e.warp ≠ s.cur) || !e.acq) || !(o.accs.all fun a => s.ordered o a) || s.lineHeld o (ia / 128) then .wait s
    else s.readRun o s.w.tskVer v ia (n / 16)
  | _ => .bad s

/-- The 64-bit words of a record. -/
def recWord (bs : List Byte) (i : Nat) : Nat := ofBytes ((bs.drop (8 * i)).take 8)

/-! ## Commands -/

def State.putCmd (s : State) (c : Cmd) : State := { s with cmds := s.cmds.map fun e => if e.id = c.id then c else e }
def State.cmd (s : State) (id : Nat) : Option Cmd := s.cmds.find? fun c => decide (c.id = id)

/-- The read of a command's source, as an operation of its warp. -/
def Cmd.asOp (c : Cmd) (loc : Loc) : Op :=
  { id := c.id, warp := c.warp, launch := c.launch, core := c.core, ctx := c.ctx, kind := .load .u64 (.s 0)
    accs := [{ lane := 0, va := 0, loc := loc, n := 16 }], fresh := true, lanes := 0xFFFFFFFF }

def zeros16 : List Byte := List.replicate 16 0

/-- One source sector read, unless an earlier command or access of the warp must come first (R229, R250, R399). -/
def State.fillOne (s : State) (c : Cmd) (e : Src) : State × Src :=
  let o := c.asOp e.loc
  if e.got.isSome || !(o.accs.all fun a => s.ordered o a) then (s, e)
  else match e.loc with
    | .miss _ => (s, { e with got := some (zeros16, .copyFailed) })
    | .spad cid off =>
      if s.cmds.any fun d => decide (d.id < c.id) && d.marks cid (off / 128) then (s, e)
      else let x := s.spadSector cid off; (s, { e with got := some (x.data, x.mark) })
    | .mem ia =>
      if s.cmds.any fun d => decide (d.id < c.id) && d.owns (ia / 128) then (s, e)
      else match s.engSector o c.tver ia with
        | .wait s1 => (s1, e)
        | .fail s1 f => (s1.logFault ia (BitVec.ofNat 64 (16 * e.key)) c.ctx f, { e with got := some (zeros16, .copyFailed) })
        | .ok s1 x => (s1, { e with got := some (x.data, x.mark) })

/-- Every source that can be read now. -/
def State.fillCmd (s : State) (id : Nat) : State :=
  match s.cmd id with
  | none => s
  | some c =>
    let (s1, es) := c.src.foldl (fun (t, es) e => let (t1, e1) := t.fillOne c e; (t1, es ++ [e1])) (s, ([] : List Src))
    s1.putCmd { c with src := es }

def Cmd.unread (c : Cmd) : Bool := c.src.any fun e => e.got.isNone

/-- The memory lines that a command will own, taken before it issues (R250): the state, and whether all are in place. -/
def State.ownLines (s : State) (dst : List (Nat × Loc)) : State × Bool :=
  (dedup (dst.filterMap fun e => match e.2 with | .mem ia => some (ia / 128) | _ => none)).foldl (fun (t, ok) line =>
    match t.prepare (.by .store t.w.ctx) (128 * line) with
    | (t1, .wait) => (t1, false)
    | (t1, r) => (t1.soleReady r, ok)) (s, true)

/-- Whether a matrix command writes the accumulators that it names: ACCST and ACCMV.v do not. -/
def Cmd.writesAcc (c : Cmd) : Bool :=
  match c.kind with
  | .mat m _ => c.opc ≠ 0xAD && !(decide (c.opc = 0xAC) && decide (m.f = 0))
  | .tmacFail _ _ => true
  | _ => false

/-- AHI after a command of the warp (R218). -/
def Warp.ahiAfter (w : Warp) (c : Cmd) : Nat :=
  if c.writesAcc then Nat.max w.ahi (maxOf (fun r => r + 1 - w.bnd) c.rows) else w.ahi

/-- A command of the current warp put in flight, its tag noted in TUSE (R313), the core's own clean copies of the lines it
owns dropped, and its sources read as far as they can be; those of matrix commands are read at their steps (R265). -/
def State.pushCmd (s : State) (c : Cmd) : State :=
  let w := s.w
  let b := s.block w.blk
  let c1 := { c with id := s.nextId, warp := s.cur, launch := w.launch, blk := w.blk, core := s.cid
                     wid := widOf s.cur, ctx := w.ctx, vcnt := w.vcnt.toNat, seed := w.seed, tver := w.tskVer }
  let s1 := match c.tag with
    | some g => s.putBlock w.blk { b with tuse := b.tuse ||| (1 <<< g) }
    | none => s
  let s2 := { s1.setW { w with ahi := w.ahiAfter c } with nextId := s.nextId + 1, cmds := s1.cmds ++ [c1] }
  let s3 := c.dst.foldl (fun (t : State) e => match e.2 with
    | .mem ia => t.dropClean s.cid (ia / 128)
    | _ => t) s2
  if c.tiles then s3 else s3.fillCmd s.nextId

/-- Whether a warp may have one more command of a class (R203): an LDACQ that is outstanding lets none issue (R214). -/
def State.roomCmd (s : State) (tiles : Bool) : Bool :=
  decide ((if tiles then s.tiles s.cur else s.copies s.cur) < 255) && !((s.warpOps s.cur).any (·.hold))

/-- What an engine instruction's records lead to: it waits, it has nothing to do, it traps, or its command is put in
flight. -/
inductive Plan where
  | wait (s : State)
  | nothing (s : State)
  | trap (t : TrapInfo)
  | go (s : State) (c : Cmd)

/-- An engine or matrix instruction (R271, R272): no try, its poison, its traps, then its command, and what follows its
command's issue at once. -/
def engIssueThen (i : Instr) (pr : Pred) (ops : List (Opnd × Nat)) (early late : List (Option TrapInfo)) (tiles : Bool)
    (plan : State → Plan) (after : State → Nat → State) (s : State) : Host.Outcome State Fault Refusal :=
  let e := firstTrap early
  let l := firstTrap late
  tryless i pr s <|
    if s.w.psnd pr ≠ 0 ∨ s.w.anyPoison ops (s.w.holds pr) ∨ s.w.holds pr = 0 ∨ e.isSome ∨ l.isSome then
      warpWide i pr ops 7 s { early := e, late := l } id
    else if !s.roomCmd tiles then warpWide i pr ops 7 s { ready := false } id
    else match plan s with
      | .wait s1 => warpWide i pr ops 7 s { ready := false, sent := some s1 } id
      | .nothing s1 => warpWide i pr ops 7 s1 {} fun t => t.advance 1
      | .trap x => warpWide i pr ops 7 s { late := some x } id
      | .go s1 c => warpWide i pr ops 7 s1 {} fun t => (after (t.pushCmd c) t.nextId).advance 1

def engIssue (i : Instr) (pr : Pred) (ops : List (Opnd × Nat)) (early late : List (Option TrapInfo)) (tiles : Bool)
    (plan : State → Plan) (s : State) : Host.Outcome State Fault Refusal :=
  engIssueThen i pr ops early late tiles plan (fun t _ => t) s

/-- A command with memory destinations waits until its task's version is irrevocable (R306), until no acquire of its warp
is outstanding (R401), and until it owns its lines. -/
def State.planOwn (s : State) (c : Cmd) : Plan :=
  let mem := c.dst.any fun e => match e.2 with | .mem _ => true | _ => false
  match (if mem then s.taskStall else none) with
  | some s1 => .wait s1
  | none =>
    if (s.warpOps s.cur).any (·.acq) then .wait s
    else match s.ownLines c.dst with
      | (s1, false) => .wait s1
      | (s1, true) => .go s1 c

/-! ## Bits of sources -/

/-- The sector after one: memory's addresses wrap (R247). -/
def keyAfter (k : Nat) : Nat := if k + 1 = 2 ^ 60 then 0 else k + 1

/-- Bits [at, at + n) of what a command has read, at most 128 of them: their value, and the origin if a sector is poisoned
or was not read (R251). -/
def srcBits (src : List Src) (at_ n : Nat) : Nat × Origin :=
  let get (k : Nat) : Nat × Origin := match src.find? fun e => decide (e.key = k) with
    | some e => match e.got with | some (bs, o) => (ofBytes bs, o) | none => (0, .copyFailed)
    | none => (0, .copyFailed)
  let lo := at_ % 128
  let a := get (at_ / 128)
  if lo + n ≤ 128 then ((a.1 >>> lo) % 2 ^ n, a.2)
  else
    let b := get (keyAfter (at_ / 128))
    (((a.1 >>> lo) + b.1 <<< (128 - lo)) % 2 ^ n, if a.2 = .none then b.2 else a.2)

/-- The keys of a run of bits. -/
def runKeys (at_ n : Nat) : List Nat :=
  if n = 0 then []
  else (List.range ((at_ + n - 1) / 128 - at_ / 128 + 1)).map fun i =>
    if at_ / 128 < 2 ^ 60 then (at_ / 128 + i) % 2 ^ 60 else at_ / 128 + i

/-- The sources of some keys of memory: each where the warp's ranges put it. -/
def State.memSrcs (s : State) (keys : List Nat) : List Src :=
  (dedup keys).map fun k => { key := k, loc := s.memLoc .load (BitVec.ofNat 64 (16 * k)) }

def State.memDsts (s : State) (keys : List Nat) : List (Nat × Loc) :=
  (dedup keys).map fun k => (k, s.memLoc .store (BitVec.ofNat 64 (16 * k)))

/-- The sectors of `n` bytes of scratchpad at displacement `x` from an offset, by key. -/
def State.spadLocs (s : State) (w : Warp) (cid d x n : Nat) : List (Nat × Loc) :=
  (List.range ((n + (d + x) % 16 + 15) / 16)).map fun k =>
    ((formAddr d + x) / 16 + k, match s.formAt w cid (d / 16 * 16) (16 * ((d % 16 + x) / 16 + k)) with
      | some p => .spad p.1 p.2
      | none => .miss false)

def State.spadSrcs (s : State) (w : Warp) (cid d x n : Nat) : List Src :=
  (s.spadLocs w cid d x n).map fun e => { key := e.1, loc := e.2 }

/-! ## Writes (R251, R296, R438) -/

/-- One element that a command writes: its index, where its bits go, and its value or the origin of its poison. -/
structure ElemW where
  idx : Nat
  at_ : Nat
  n   : Nat
  val : Nat
  psn : Origin := .none
deriving DecidableEq, Repr

/-- What is written into one sector: bits, their mask, and the bits that are poison with the origin first met. -/
structure SecW where
  val   : Nat := 0
  mask  : Nat := 0
  pmask : Nat := 0
  psn   : Origin := .none
deriving DecidableEq, Repr

def SecW.put (x : SecW) (lo n v : Nat) (psn : Origin) : SecW :=
  let m := (2 ^ n - 1) <<< lo
  let keep := 2 ^ 128 - 1 - m
  { val := (x.val &&& keep) ||| (((v % 2 ^ n) <<< lo) &&& m)
    mask := x.mask ||| m
    pmask := if psn = .none then x.pmask &&& keep else x.pmask ||| m
    psn := if x.psn = .none then psn else x.psn }

/-- Elements laid into their sectors, a later one over an earlier one. -/
def layElems (es : List ElemW) : FMap SecW :=
  es.foldl (fun m e =>
    let k := e.at_ / 128
    let lo := e.at_ % 128
    let n1 := Nat.min e.n (128 - lo)
    let m1 := put {} m k ((look {} m k).put lo n1 e.val e.psn)
    if n1 = e.n then m1
    else put {} m1 (keyAfter k) ((look {} m1 (keyAfter k)).put 0 (e.n - n1) (e.val >>> n1) e.psn)) []

/-- A sector after a command's write: poison if an element of it is poison, else its bytes merged; a write of part of a sector
that is poison changes nothing of it (R438). -/
def SecW.into (x : SecW) (old : Sector) : Sector :=
  if decide (old.mark ≠ .none) && !((List.range 16).all fun i => bit x.mask (8 * i)) then old
  else if x.pmask ≠ 0 then zeroSector x.psn
  else mergeSector old (((List.range 16).filter fun i => bit x.mask (8 * i)).map fun i =>
    (i, BitVec.ofNat 8 (x.val >>> (8 * i))))

/-! ## Completion -/

/-- Whether a later command must let this one read first: one of its own warp, or one that reads at its issue. -/
def Cmd.readsFirst (d c : Cmd) : Bool := decide (d.id < c.id) && (decide (d.warp = c.warp) || !d.tiles)

/-- Whether nothing must come before a command's writes any more (R250, R394, R399): earlier commands on its lines are over
and have read, its warp's earlier accesses to them are performed, sharers have answered; with the requests sent. -/
def State.dstFree (s : State) (c : Cmd) : State × Bool :=
  c.dst.foldl (fun (t, ok) e => match e.2 with
    | .miss _ => (t, ok)
    | .spad cid off =>
      (t, ok && !(t.cmds.any fun d => (decide (d.id < c.id) && d.marks cid (off / 128)) || (d.readsFirst c && d.readsSpad cid (off / 128))) &&
        t.ops.all fun o => !(decide (o.warp = c.warp) && decide (o.id < c.id)) ||
          o.accs.all fun a => a.done || !(a.loc.meets a.n (.spad cid (off / 128 * 128)) 128))
    | .mem ia =>
      let line := ia / 128
      let free := !(t.cmds.any fun d => (decide (d.id < c.id) && d.owns line) || (d.readsFirst c && d.readsMem line)) &&
        (t.ops.all fun o => !(decide (o.warp = c.warp) && decide (o.id < c.id)) ||
          o.accs.all fun a => a.done || !(a.loc.meets a.n (.mem (128 * line)) 128)) &&
        !(t.homeWaits.any fun h => h.excl && decide (h.src = t.did) && decide (h.line = line))
      let t0 := if free then t.flushLine c.core line else t
      match t0.prepare (.by .store c.ctx) (128 * line) with
      | (t1, .wait) => (t1, false)
      | (t1, .fail _) => (t1, ok && free)
      | (t1, _) => (t1, ok && free && decide ((t1.l1Line c.core line).dirty = 0))) (s, true)

/-- One sector of a command's destination written, with its key, which tells its VA; a line that fails answers false. -/
def State.writeSec (s : State) (c : Cmd) (key : Nat) (loc : Loc) (x : SecW) : State × Bool :=
  match loc with
  | .miss _ => (s, false)
  | .spad cid off =>
    ((s.putSpadSector cid off (x.into (s.spadSector cid off))).conflict noWarp (spadSec cid (off / 128 * 128)), true)
  | .mem ia =>
    match s.prepare (.by .store c.ctx) ia with
    | (s1, .wait) => (s1, false)
    | (s1, .fail f) => (s1.logFault ia (BitVec.ofNat 64 (16 * key)) c.ctx f, false)
    | (s1, r) =>
      let q := ia % 128 / 16
      let s2 := (s1.fillReady r).soleReady r
      let s3 := s2.putReadySector r q (x.into (s2.readySector r q))
      ((((s3.conflict noWarp (memSec (ia / 128 * 128))).notifyWrite (ia / 16 * 16) (ia / 16 * 16 + 16)).doneReady r).dropClean
        c.core (ia / 128), true)

/-- The engine error log record of a failed command (R321). -/
def State.logCmd (s : State) (c : Cmd) (cause first nfail : Nat) : State :=
  let k := s.core c.core
  let conf := (s.ctx c.ctx).conf
  let r : List Word := [
    BitVec.ofNat 64 (cause * 2 ^ 56 + c.opc * 2 ^ 48 + (c.tag.getD 0xFF) * 2 ^ 40 + c.wid * 2 ^ 16), if conf then 0 else c.rec_,
    BitVec.ofNat 64 ((if conf then 0 else first) * 2 ^ 32 + Nat.min nfail (2 ^ 32 - 1)), BitVec.ofNat 64 s.clk]
  (s.count 0x11).putCore c.core { k with engLog := (r :: k.engLog).take Config.engLogSize }

/-- A command complete: it leaves, a failure is logged and counted, its tag is set (R243, R273). -/
def State.finishCmd (s : State) (c : Cmd) (err first nfail : Nat) : State :=
  let s0 := (s.count 0x10).countCtx c.ctx 0x105
  let s1 := { s0 with cmds := s.cmds.filter fun e => decide (e.id ≠ c.id) }
  let s2 := if err = 0 then s1 else
    let l := s1.launch c.launch
    (s1.putLaunch c.launch { l with failed := l.failed + 1 }).logCmd c err first nfail
  let s3 := match c.tag with
    | some g => s2.setTag c.core g (decide (err ≠ 0))
    | none => s2
  s3.sweepCore c.core

/-- The indexes of elements that failed: poison, or without a destination; and the lowest of them. -/
def failedIdx (es : List ElemW) (lost : List Nat) : List Nat :=
  dedup ((es.filter fun e => decide (e.psn ≠ .none) || (runKeys e.at_ e.n).any lost.contains).map (·.idx))

def lowest : List Nat → Nat
  | [] => 0
  | x :: xs => xs.foldl Nat.min x

/-- The elements of a command written, all in one step, and the command complete; ELEMENT if one failed (R251). Elements
in which a datapath mismatch was found fail too (R304), under cause DATAPATH (R321). -/
def State.writeElems (s : State) (c : Cmd) (es0 : List ElemW) : State :=
  match s.dstFree c with
  | (s1, false) => s1
  | (s1, true) =>
    let es := es0.map fun e => if c.bad.contains e.idx then { e with psn := .copyFailed } else e
    let m := layElems es
    let (s2, lost) := c.dst.foldl (fun (t, lost) e =>
      let x := look {} m e.1
      if x.mask = 0 then (t, lost)
      else match t.writeSec c e.1 e.2 x with
        | (t1, true) => (t1, lost)
        | (t1, false) => (t1, e.1 :: lost)) (s1, ([] : List Nat))
    let fs := failedIdx es lost
    s2.finishCmd c (if fs = [] then 0 else if es0.any fun e => c.bad.contains e.idx then 6 else 4) (lowest fs) fs.length

end Sys2Proof.Machine
end

