-- ==== Sys2Proof/Machine/Copy.lean ====
section
/-! DEFINITION. The copy engine, the stream address generator and the chain engine (R244 to R255, R275 to R277). -/

namespace Sys2Proof.Machine

/-! ## Shape records (R246) -/

def fields (n width w : Nat) : List Nat := (List.range n).map fun k => bits w (width * k + width - 1) (width * k)

/-- Elements that share whole bytes, and the unit of strides in bytes (R246). -/
def groupOf (fmt : Nat) : Nat := if fmt = 6 ∨ fmt = 7 then 32 else if fmt = 8 ∨ fmt = 9 then 4 else 1
def strideUnit (fmt : Nat) : Nat :=
  match fmt with | 6 => 16 | 7 => 32 | 8 => 3 | 9 => 3 | _ => fmtBits fmt / 8

/-- Rows of the canonical image (R244). -/
def ShapeRec.rows (sh : ShapeRec) : Nat := (sh.text.drop 1).foldl (· * ·) 1

/-- The record that 128 bytes hold, if every field keeps its limits. -/
def shapeOf (bs : List Byte) : Option ShapeRec :=
  let q := recWord bs
  let nd := bits (q 2) 55 53
  let text := fields 4 16 (q 3) ++ [bits (q 4) 15 0]
  let ext := fields 2 32 (q 9) ++ fields 2 32 (q 10) ++ [bits (q 11) 31 0]
  let orig := fields 2 32 (q 12) ++ fields 2 32 (q 13) ++ [bits (q 14) 31 0]
  let strd := (List.range 4).map fun k => sext 64 (q (5 + k))
  let fmt := bits (q 2) 63 60
  let sf := bits (q 2) 59 56
  let g := groupOf fmt
  let outside := (List.range 5).any fun k => decide (nd ≤ k) &&
    (decide (nth 0 text k ≠ 0) || decide (nth 0 ext k ≠ 0) || decide (nth 0 orig k ≠ 0) ||
      (decide (0 < k) && decide (nth 0 strd (k - 1) ≠ 0)))
  let fix (l : List Nat) : List Nat := (List.range 5).map fun k => if nd ≤ k then 1 else nth 0 l k
  let sh : ShapeRec :=
    { base := BitVec.ofNat 64 (q 0), scale := BitVec.ofNat 64 (q 1), fmt := fmt, sf := sf, ndim := nd
      rm := bits (q 2) 52 50, satf := bit (q 2) 49, pad := bit (q 2) 48, text := fix text, strd := strd, ext := fix ext
      orig := orig }
  if bits (q 2) 47 0 ≠ 0 ∨ q 15 ≠ 0 ∨ bits (q 4) 63 16 ≠ 0 ∨ bits (q 11) 63 32 ≠ 0 ∨ bits (q 14) 63 32 ≠ 0 then none
  else if fmt = 15 ∨ sf = 8 ∨ sf = 9 ∨ sf = 15 ∨ nd = 0 ∨ 5 < nd ∨ 4 < sh.rm ∨ outside then none
  else if (sh.text.any fun x => decide (x = 0)) ∨ (sh.ext.any fun x => decide (x = 0)) then none
  else if 1024 < nth 0 sh.text 0 * fmtBits sf ∨ 32768 < sh.rows then none
  else if strd.any fun x => decide (x % (strideUnit fmt : Int) ≠ 0) then none
  else if nth 0 sh.text 0 % g ≠ 0 ∨ nth 0 sh.ext 0 % g ≠ 0 ∨ nth 0 orig 0 % g ≠ 0 then none
  else if q 0 % (if fmt = 6 ∨ fmt = 8 ∨ fmt = 9 then 1 else fmtBits fmt / 8) ≠ 0 then none
  else if q 1 ≠ 0 ∧ fmt ≠ 6 ∧ fmt ≠ 7 then none
  else some sh

/-- The conversions of R248. -/
def ShapeRec.pairOk (sh : ShapeRec) (store : Bool) : Bool :=
  let mx := decide (sh.fmt = 6) || decide (sh.fmt = 7)
  decide (sh.fmt = sh.sf) || (if store then cvtPair sh.fmt sh.sf else cvtPair sh.sf sh.fmt) || (mx && decide (sh.sf ≤ 3))

/-! ## The canonical image (R244, R245) -/

def scaleRows (sf rows : Nat) : Nat := if sf = 6 ∨ sf = 7 then (rows + 15) / 16 else 0

/-- The bit, within an image, of element (r, c) of `ws` bits, and of scale byte k of row r of an image of `rows` rows. -/
def imgBit (ws r c : Nat) : Nat := 8 * (128 * r + Nat.xor (c * ws / 8) (r % 8 * 16)) + c * ws % 8
def imgScale (rows r k : Nat) : Nat := 8 * (128 * rows + 8 * r + k)

/-- The bytes of an image. -/
def imgBytes (sf rows : Nat) : Nat := 128 * (rows + scaleRows sf rows)

/-- Bytes of the image of a shape record. -/
def ShapeRec.bytes (sh : ShapeRec) : Nat := imgBytes sh.sf sh.rows

/-! ## The box in memory (R247) -/

/-- Canonical row r: whether it is in bounds in dimensions 1 to 4, and the byte offset of its elements with i0 = 0. -/
def ShapeRec.rowAt (sh : ShapeRec) (r : Nat) : Bool × Int :=
  let step (acc : Nat × Bool × Int) (k : Nat) : Nat × Bool × Int :=
    let t := nth 1 sh.text k
    let i := nth 0 sh.orig k + acc.1 % t
    (acc.1 / t, acc.2.1 && decide (i < nth 0 sh.ext k), acc.2.2 + i * nth 0 sh.strd (k - 1))
  ([1, 2, 3, 4].foldl step (r, true, 0)).2

/-- Columns in bounds in dimension 0. -/
def ShapeRec.cols (sh : ShapeRec) : Nat := Nat.min (nth 0 sh.text 0) (nth 0 sh.ext 0 - nth 0 sh.orig 0)

/-- The bit offset of column c of a row, and the memory bit of it; the memory bit of its scale byte. -/
def ShapeRec.bitOff (sh : ShapeRec) (row : Int) (c : Nat) : Int :=
  8 * row + ((nth 0 sh.orig 0 + c) * fmtBits sh.fmt : Nat)
def ShapeRec.memBit (sh : ShapeRec) (row : Int) (c : Nat) : Nat :=
  wrapN 67 (8 * (sh.base.toNat : Int) + sh.bitOff row c)
def ShapeRec.scaleBit (sh : ShapeRec) (row : Int) (c : Nat) : Nat :=
  wrapN 67 (8 * (sh.scale.toNat : Int) + 8 * (sh.bitOff row c / ((32 * fmtBits sh.fmt : Nat) : Int)))

def ShapeRec.mx (sh : ShapeRec) : Bool := decide (sh.fmt = 6) || decide (sh.fmt = 7)

/-- The memory sectors that rows below `vcnt` name. -/
def ShapeRec.memKeys (sh : ShapeRec) (vcnt : Nat) : List Nat :=
  (List.range (Nat.min sh.rows vcnt)).flatMap fun r =>
    let p := sh.rowAt r
    if p.1 && decide (0 < sh.cols) then
      runKeys (sh.memBit p.2 0) (sh.cols * fmtBits sh.fmt) ++
        (if sh.mx then runKeys (sh.scaleBit p.2 0) (8 * ((sh.cols + 31) / 32)) else [])
    else []

/-! ## Loads: TCOPY.ld and MCAST (R248, R275) -/

/-- An element converted from the memory format to the scratchpad format, by the element's scale byte `e` if it has one. -/
def ShapeRec.loadVal (sh : ShapeRec) (seed : Word) (idx raw e : Nat) : Nat :=
  if sh.fmt = sh.sf then raw
  else if sh.mx then (cvtqN sh.sf sh.fmt sh.rm (draw seed idx) e (unpack sh.fmt raw)).1
  else (cvtN sh.sf sh.satf sh.rm (draw seed idx) (unpack sh.fmt raw)).1

/-- What one tile element writes into the image at bit `at_`: itself, and for the first of a block its scale byte. -/
def ShapeRec.loadElem (sh : ShapeRec) (src : List Src) (seed : Word) (at_ r c : Nat) : List ElemW :=
  let ws := fmtBits sh.sf
  let p := sh.rowAt r
  let idx := r * nth 0 sh.text 0 + c
  let here := at_ + imgBit ws r c
  let sAt := at_ + imgScale sh.rows r (c / 32)
  let mxImg := decide (sh.sf = 6 ∨ sh.sf = 7)
  if !(p.1 && decide (c < sh.cols)) then
    if sh.pad then [] else
      { idx := idx, at_ := here, n := ws, val := 0 } ::
        (if mxImg && decide (c % 32 = 0) then [{ idx := idx, at_ := sAt, n := 8, val := 0 }] else [])
  else
    let x := srcBits src (sh.memBit p.2 c) (fmtBits sh.fmt)
    let e := if sh.mx then srcBits src (sh.scaleBit p.2 c) 8 else (0, .none)
    let psn := if sh.mx && decide (sh.fmt ≠ sh.sf) && decide (x.2 = .none) then e.2 else x.2
    { idx := idx, at_ := here, n := ws, val := sh.loadVal seed idx x.1 e.1, psn := psn } ::
      (if mxImg && decide (c % 32 = 0) then [{ idx := idx, at_ := sAt, n := 8, val := e.1, psn := e.2 }] else [])

def ShapeRec.loadElems (sh : ShapeRec) (src : List Src) (seed : Word) (vcnt at_ : Nat) : List ElemW :=
  (List.range (Nat.min sh.rows vcnt)).flatMap fun r =>
    (List.range (nth 0 sh.text 0)).flatMap fun c => sh.loadElem src seed at_ r c

/-! ## Stores: TCOPY.st (R248) -/

/-- A block of 32 elements of an image, read for a store: values, and the first origin of poison among them. -/
def blockOf (src : List Src) (at_ ws r c0 n : Nat) : List (Nat × Origin) :=
  (List.range n).map fun i => srcBits src (at_ + imgBit ws r (c0 + i)) ws

def firstOrigin (xs : List (Nat × Origin)) : Origin := ((xs.map (·.2)).find? fun o => decide (o ≠ .none)).getD .none

/-- EMAX of the block-scaled codes (R99). -/
def emaxOf (fmt : Nat) : Nat := if fmt = 6 then 2 else 8

/-- The block scale of values of a format, or the poison of one of them (R248, R99). -/
def blockScaleOf (sf fmt : Nat) (xs : List (Nat × Origin)) : Nat × Origin :=
  (blockScale (emaxOf fmt) (xs.map fun x => unpack sf x.1), firstOrigin xs)

/-- What a run of columns of row r writes to memory: one block with its scale for FMT 6 and 7, else the whole row. -/
def ShapeRec.storeRun (sh : ShapeRec) (src : List Src) (seed : Word) (at_ r c0 n : Nat) : List ElemW :=
  let ws := fmtBits sh.sf
  let wm := fmtBits sh.fmt
  let row := (sh.rowAt r).2
  let xs := blockOf src at_ ws r c0 n
  let idx0 := r * nth 0 sh.text 0 + c0
  let e : Nat × Origin :=
    if !sh.mx then (0, .none)
    else if sh.sf = sh.fmt then srcBits src (at_ + imgScale sh.rows r (c0 / 32)) 8
    else blockScaleOf sh.sf sh.fmt xs
  let scale : List ElemW := if sh.mx then [{ idx := idx0, at_ := sh.scaleBit row c0, n := 8, val := e.1, psn := e.2 }] else []
  let elem (i : Nat) (x : Nat × Origin) : ElemW :=
    let psn := if sh.mx && decide (sh.sf ≠ sh.fmt) && decide (e.2 ≠ .none) then e.2 else x.2
    let v :=
      if sh.fmt = sh.sf then x.1
      else if sh.mx then (cvtqN sh.fmt sh.sf sh.rm (draw seed (idx0 + i)) e.1 (unpack sh.sf x.1)).1
      else (cvtN sh.fmt sh.satf sh.rm (draw seed (idx0 + i)) (unpack sh.sf x.1)).1
    { idx := idx0 + i, at_ := sh.memBit row (c0 + i), n := wm, val := v, psn := psn }
  (xs.zipIdx.map fun p => elem p.2 p.1) ++ scale

def ShapeRec.storeElems (sh : ShapeRec) (src : List Src) (seed : Word) (vcnt at_ : Nat) : List ElemW :=
  (List.range (Nat.min sh.rows vcnt)).flatMap fun r =>
    if !((sh.rowAt r).1) then []
    else if sh.mx then (List.range ((sh.cols + 31) / 32)).flatMap fun b =>
      sh.storeRun src seed at_ r (32 * b) (Nat.min 32 (sh.cols - 32 * b))
    else sh.storeRun src seed at_ r 0 sh.cols

/-! ## TCOPY and MCAST (R275) -/

/-- A command that failed at its record (R243): it writes nothing. -/
def failedCmd (opc : Nat) (tag : Option Nat) (rec_ err : Nat) : Cmd :=
  { opc := opc, tag := tag, kind := .done, err := err, rec_ := BitVec.ofNat 64 rec_ }

/-- A record read, and what follows from its bytes. -/
def State.withRec (s : State) (opc : Nat) (tag : Option Nat) (va n : Nat) (f : State → List Byte → Plan) : Plan :=
  match s.readRec va n with
  | .wait s1 => .wait s1
  | .bad s1 => .go s1 (failedCmd opc tag va 1)
  | .ok s1 bs => f s1 bs

/-- The sectors that the first `n` rows of an image of `rows` rows of a format take: data rows, and their scale bytes (R143,
R245). -/
def State.imgSrcs (s : State) (w : Warp) (cid off sf rows n : Nat) : List Src :=
  s.spadSrcs w cid off 0 (128 * n) ++ (if scaleRows sf rows = 0 then [] else s.spadSrcs w cid off (128 * rows) (8 * n))

/-- The plan of a tile copy between memory and the offsets that `targets` names. -/
def State.planCopy (s : State) (opc tag off rec_ : Nat) (store : Bool) (targets : Option (List Nat)) : Plan :=
  s.withRec opc (some tag) rec_ 128 fun s1 bs =>
    match shapeOf bs with
    | none => .go s1 (failedCmd opc (some tag) rec_ 2)
    | some sh =>
      let w := s1.w
      let vcnt := w.vcnt.toNat
      let ds := targets.getD [off]
      if !sh.pairOk store then .go s1 (failedCmd opc (some tag) rec_ 2)
      else if off % 128 ≠ 0 ∨ !(ds.all fun d => s1.formIn w s1.cid d sh.bytes) then .go s1 (failedCmd opc (some tag) rec_ 3)
      else
        let c : Cmd := { opc := opc, tag := some tag, kind := .done, rec_ := BitVec.ofNat 64 rec_ }
        if store then
          s1.planOwn { c with kind := .tcopy sh off true, src := s1.imgSrcs w s1.cid off sh.sf sh.rows (Nat.min sh.rows vcnt)
                              dst := s1.memDsts (sh.memKeys vcnt) }
        else
          -- every target's sectors under the keys of the one image
          let dst := ds.flatMap fun d => (s1.spadLocs w s1.cid d 0 sh.bytes).zipIdx.map fun e => (formAddr off / 16 + e.2, e.1.2)
          s1.planOwn { c with kind := if targets.isSome then .mcast sh off else .tcopy sh off false
                              src := s1.memSrcs (sh.memKeys vcnt), dst := dst }

def tcopy (i : Instr) (o : OpO) (store : Bool) (s : State) : Host.Outcome State Fault Refusal :=
  let w := s.w
  let off := w.val32 o.a
  let rec_ := w.val64 o.b
  engIssue i o.pr (sSrc o.d ++ [(o.a, 2), (o.b, 2)]) [engField (w.badTag o.d), misalign rec_ 128]
    [s.recRange rec_, if 2 ^ 25 ≤ off ∨ (bit off 24 ∧ (s.launch w.launch).clusLevel.isNone) then formErr 4 off else none]
    false (fun t => t.planCopy 0xA0 (w.val64 o.d) off rec_ store none) s

def execTcopyLd (o : OpO) (s : State) : Host.Outcome State Fault Refusal := tcopy (.tcopyLd o) o false s
def execTcopySt (o : OpO) (s : State) : Host.Outcome State Fault Refusal := tcopy (.tcopySt o) o true s

/-- The offsets that a mask of cores names (R275). -/
def mcastTargets (off mask : Nat) : List Nat :=
  ((List.range 4).filter fun k => bit mask k).map fun k => 2 ^ 24 + k * 2 ^ 22 + off % 2 ^ 22

def execMcast (o : OpO) (s : State) : Host.Outcome State Fault Refusal :=
  let w := s.w
  let off := w.val32 o.a
  let rec_ := w.val64 o.b
  let mask := w.val64 o.c
  let l := s.launch w.launch
  let bad := decide (2 ^ 25 ≤ off) || !bit off 24 || decide (bits off 23 22 ≠ 0) || l.clusLevel.isNone
  let lost := (mcastTargets off mask).any fun d =>
    (s.region (s.cid / 4 * 4 + bits d 23 22) w.launch (l.clusLevel.getD 0) (s.unitOf w (l.clusLevel.getD 0))).isNone
  engIssue (.mcast o) o.pr (sSrc o.d ++ [(o.a, 2), (o.b, 2)] ++ sSrc o.c)
    [engField (w.badTag o.d || decide (15 < mask)), misalign rec_ 128]
    [s.recRange rec_, if bad then formErr 4 off else none, if lost then formErr 3 off else none]
    false (fun t => t.planCopy 0xA2 (w.val64 o.d) off rec_ false (some (mcastTargets off mask))) s

/-! ## Stream pattern records (R252, R253) -/

def streamOf (bs : List Byte) : Option StreamRec :=
  let q := recWord bs
  let fmt := bits (q 6) 63 60
  let w := fmtBits fmt / 8
  let ind := bit (q 6) 59
  let spm := bit (q 6) 55
  let cnt := fields 4 16 (q 2)
  let strd := [sext 32 (q 3), sext 32 (q 3 >>> 32), sext 32 (q 4), sext 32 (q 4 >>> 32)]
  let istr := sext 32 (q 5 >>> 32)
  if bits (q 5) 31 0 ≠ 0 ∨ bits (q 6) 54 0 ≠ 0 ∨ q 7 ≠ 0 ∨ (cnt.any fun c => decide (c = 0)) then none
  else if !(decide (fmt ≤ 5) || (decide (10 ≤ fmt) && decide (fmt ≤ 14))) then none
  else if q 0 % w ≠ 0 ∨ (strd.any fun x => decide (x % (w : Int) ≠ 0)) ∨ istr % (w : Int) ≠ 0 then none
  else if (!ind ∧ q 1 ≠ 0) ∨ (spm ∧ ind) then none
  else some { base := BitVec.ofNat 64 (q 0), cnt := cnt, strd := strd, istr := istr, fmt := fmt, ind := ind
              idxd := bits (q 6) 58 57, isgn := bit (q 6) 56, spm := spm, ibase := BitVec.ofNat 64 (q 1) }

def StreamRec.count (r : StreamRec) : Nat := r.cnt.foldl (· * ·) 1
def StreamRec.width (r : StreamRec) : Nat := fmtBits r.fmt

/-- The loop indices of element j, i0 first. -/
def StreamRec.loops (r : StreamRec) (j : Nat) : List Nat :=
  ((r.cnt.foldl (fun (acc : Nat × List Nat) c => (acc.1 / c, acc.2 ++ [acc.1 % c])) (j, [])).2)

/-- The index element p of element j: lower dimensions than IDXD are ignored. -/
def StreamRec.idxOf (r : StreamRec) (j : Nat) : Nat := j / (r.cnt.take r.idxd).foldl (· * ·) 1

/-- The address of element j in the warp's address space, in bytes; none if its index failed or it leaves the cluster's
scratchpads. -/
def StreamRec.addr (r : StreamRec) (j : Nat) : Option Nat :=
  let lin : Int := ((r.loops j).zip r.strd).foldl (fun (a : Int) p => a + (p.1 : Int) * p.2) (r.base.toNat : Int)
  if r.ind then match nth none r.idx (r.idxOf j) with
    | none => none
    | some x => some (wrapN 64 (lin + x * r.istr))
  else
    let a := wrapN 64 lin
    if r.spm then (if a < 2 ^ 24 then some (formAddr (2 ^ 24 + a)) else none) else some a

/-- The index array of a stream read at issue (R253, R276), as far as elements below `n` name it; an error while some of it
cannot be read yet, with the requests sent. -/
def State.readIdx (s : State) (r : StreamRec) (n : Nat) : Except State (State × StreamRec) :=
  if !r.ind ∨ n = 0 then .ok (s, r)
  else
    let go := (List.range (r.idxOf (n - 1) + 1)).foldl (fun (acc : Except State (State × List (Option Int))) p =>
      match acc with
      | .error t => .error t
      | .ok (t, xs) =>
        let va := BitVec.ofNat 64 (r.ibase.toNat + 4 * p)
        match t.freshRead t.cur 0 4 t.w.exm va with
        | .wait t1 => .error t1
        | .psn t1 _ => .ok (t1, xs ++ [none])
        | .val t1 x => .ok (t1, xs ++ [some (if r.isgn then sext 32 x else x)])) (Except.ok (s, []))
    match go with
    | .error t => .error t
    | .ok (t, xs) => .ok (t, { r with idx := xs })

/-- The sectors of elements below `n`. -/
def StreamRec.keys (r : StreamRec) (n : Nat) : List Nat :=
  dedup ((List.range n).flatMap fun j => match r.addr j with
    | some a => runKeys (8 * a) r.width
    | none => [])

/-- Where the sectors of a stream lie. -/
def State.keyLoc (s : State) (need : Need) (k : Nat) : Loc :=
  if 2 ^ 60 ≤ k then match s.formAt s.w s.cid ((k - 2 ^ 60) * 16) 0 with
    | some p => .spad p.1 p.2
    | none => .miss false
  else s.memLoc need (BitVec.ofNat 64 (16 * k))

def State.streamSrcs (s : State) (r : StreamRec) (n : Nat) : List Src :=
  (r.keys n).map fun k => { key := k, loc := s.keyLoc .load k }
/-- In a scratchpad the sectors of the elements that VCNT skips are marked too (R250). -/
def State.streamDsts (s : State) (r : StreamRec) (n : Nat) : List (Nat × Loc) :=
  (r.keys (if r.spm then r.count else n)).map fun k => (k, s.keyLoc .store k)

/-- Element j of a stream as read. -/
def StreamRec.read (r : StreamRec) (src : List Src) (j : Nat) : Nat × Origin :=
  match r.addr j with
  | some a => srcBits src (8 * a) r.width
  | none => (0, .copyFailed)

/-- The write of element j. One without an address is written nowhere; it fails at a key that no sector has. -/
def StreamRec.write (r : StreamRec) (j v : Nat) (psn : Origin) : ElemW :=
  match r.addr j with
  | some a => { idx := j, at_ := 8 * a, n := r.width, val := v, psn := psn }
  | none => { idx := j, at_ := 128 * 2 ^ 62, n := 1, val := 0, psn := .copyFailed }

/-! ## SCOPY (R276) -/

def scopyElems (a b : StreamRec) (rm : Nat) (satf : Bool) (src : List Src) (seed : Word) (n : Nat) : List ElemW :=
  (List.range n).map fun j =>
    let x := a.read src j
    b.write j (if a.fmt = b.fmt then x.1 else (cvtN b.fmt satf rm (draw seed j) (unpack a.fmt x.1)).1) x.2

/-- Two stream records read in turn. -/
def State.withStream (s : State) (opc : Nat) (tag : Option Nat) (rec_ va n : Nat) (f : State → StreamRec → Plan) : Plan :=
  match s.readRec va 64 with
  | .wait s1 => .wait s1
  | .bad s1 => .go s1 (failedCmd opc tag rec_ 1)
  | .ok s1 bs => match streamOf bs with
    | none => .go s1 (failedCmd opc tag rec_ 2)
    | some r => match s1.readIdx r (Nat.min r.count n) with
      | .error s2 => .wait s2
      | .ok (s2, r1) => f s2 r1

def execScopy (o : OpO) (s : State) : Host.Outcome State Fault Refusal :=
  let w := s.w
  let ra := w.val64 o.a
  let rb := w.val64 o.b
  let tag := w.val64 o.d
  engIssue (.scopy o) o.pr (sSrc o.d ++ [(o.a, 2), (o.b, 2)]) [engField (w.badTag o.d), misalign ra 64, misalign rb 64]
    [s.recRange ra, s.recRange rb] false (fun t =>
      let n := w.vcnt.toNat
      t.withStream 0xA1 (some tag) ra ra n fun t1 a => t1.withStream 0xA1 (some tag) ra rb n fun t2 b =>
        let k := Nat.min a.count n
        if a.count ≠ b.count ∨ !(decide (a.fmt = b.fmt) || cvtPair b.fmt a.fmt) then .go t2 (failedCmd 0xA1 (some tag) ra 2)
        else t2.planOwn { opc := 0xA1, tag := some tag, kind := .scopy a b (o.m.toNat % 8) (bit o.m.toNat 3)
                          rec_ := BitVec.ofNat 64 ra, src := t2.streamSrcs a k, dst := t2.streamDsts b k }) s

/-! ## CHAIN (R254, R255, R277) -/

/-- Whether operand code x may stand in a slot: t0–t3, a, b if there is one, K0–K3. -/
def operandOk (hasB : Bool) (x : Nat) : Bool := decide (x ≤ 4) || (decide (x = 5) && hasB) || (decide (6 ≤ x) && decide (x ≤ 9))

def chainOf (bs : List Byte) : Option ChainRec :=
  let q := recWord bs
  let n := bits (q 3) 63 60
  let cf := bits (q 3) 59 56
  let rm := bits (q 3) 55 53
  let slots := (List.range 8).map fun k => ofBytes ((bs.drop (0x40 + 4 * k)).take 4)
  let ops := (slots.take n).map fun x =>
    { opc := bits x 31 26, d := bits x 25 23, x := bits x 22 19, y := bits x 18 15, z := bits x 14 11 : ChainOp }
  let hasB := decide (q 1 ≠ 0)
  let okOp (k : ChainOp) : Bool := decide (1 ≤ k.opc) && decide (k.opc ≤ 10) && decide (k.d ≤ 3) &&
    operandOk hasB k.x && operandOk hasB k.y && operandOk hasB k.z
  if n = 0 ∨ 8 < n ∨ !(decide (cf = 0) || decide (cf = 1) || decide (cf = 12) || decide (cf = 13)) ∨ 4 < rm then none
  else if bits (q 3) 51 0 ≠ 0 ∨ (slots.any fun x => decide (bits x 10 0 ≠ 0)) ∨ ((slots.drop n).any fun x => decide (x ≠ 0)) then none
  else if ((List.range 4).any fun k => decide (q (12 + k) ≠ 0)) ∨ !(ops.all okOp) then none
  else some { srcA := BitVec.ofNat 64 (q 0), srcB := BitVec.ofNat 64 (q 1), dst := BitVec.ofNat 64 (q 2), cf := cf, rm := rm
              sat := bit (q 3) 52, ks := (List.range 4).map fun k => q (4 + k) % 2 ^ fmtBits cf, ops := ops }

/-- One operation on elements of a float compute format. -/
def chainFlt (cf rm rnd opc x y z : Nat) : Nat :=
  let u := unpack cf
  let fin (r : Num) : Nat := (round cf rm rnd r).1
  match opc with
  | 1 => fin (addN rm (u x) (u y)).1
  | 2 => fin (addN rm (u x) (u y).neg).1
  | 3 => fin (mulN (u x) (u y)).1
  | 4 => fin (fmaN rm (u x) (u y) (u z)).1
  | 5 => fin (u (minmaxN cf false pickMin x y).1)
  | 6 => fin (u (minmaxN cf false pickMax x y).1)
  | 7 => fin (if (u x).sign then (u x).neg else u x)
  | 8 => fin (u x).neg
  | 9 => fin (if !(u x).isNan && !(u x).sign && !(u x).isZero then u y else u z)
  | _ => fin (u x)

/-- One operation on elements of an integer compute format: saturated or wrapped at its width. -/
def chainInt (cf : Nat) (sat : Bool) (opc x y z : Nat) : Nat :=
  let b := fmtBits cf
  let u := sext b
  let r : Int := match opc with
    | 1 => u x + u y
    | 2 => u x - u y
    | 3 => u x * u y
    | 4 => u x * u y + u z
    | 5 => if u x ≤ u y then u x else u y
    | 6 => if u x ≤ u y then u y else u x
    | 7 => ((u x).natAbs : Int)
    | 8 => - u x
    | 9 => if 0 < u x then u y else u z
    | _ => u x
  wrapN b (if sat then (if r < intLo cf then intLo cf else if intHi cf < r then intHi cf else r) else r)

/-- The chain run on one pair of inputs: t0's bits in CF. -/
def ChainRec.run (c : ChainRec) (rnd a b : Nat) : Nat :=
  let ts := c.ops.foldl (fun (t : List Nat) k =>
    let get (x : Nat) : Nat := if x ≤ 3 then nth 0 t x else if x = 4 then a else if x = 5 then b else nth 0 c.ks (x - 6)
    let v := if fmtInt c.cf then chainInt c.cf c.sat k.opc (get k.x) (get k.y) (get k.z)
      else chainFlt c.cf c.rm rnd k.opc (get k.x) (get k.y) (get k.z)
    setNth t k.d v) [0, 0, 0, 0]
  nth 0 ts 0

/-- The elements of a chain. An input that is poison makes its element fail (R255, R251): a chain is no move, so the poison that it
writes is COPY-FAILED whatever the input's kind (R296). -/
def chainElems (c : ChainRec) (a : StreamRec) (b : Option StreamRec) (d : StreamRec) (src : List Src) (seed : Word)
    (n : Nat) : List ElemW :=
  (List.range n).map fun j =>
    let rnd := draw seed j
    let inp (r : StreamRec) : Nat × Origin :=
      let x := r.read src j
      ((round c.cf c.rm rnd (unpack r.fmt x.1)).1, x.2)
    let xa := inp a
    let xb := match b with | some r => inp r | none => (0, .none)
    d.write j (round d.fmt c.rm rnd (unpack c.cf (c.run rnd xa.1 xb.1))).1 (if xa.2 = .none ∧ xb.2 = .none then .none else .copyFailed)

def State.planChain (s : State) (tag rec_ : Nat) : Plan :=
  let bad (t : State) (e : Nat) : Plan := .go t (failedCmd 0xA3 (some tag) rec_ e)
  let n := s.w.vcnt.toNat
  s.withRec 0xA3 (some tag) rec_ 128 fun s1 bs =>
    match chainOf bs with
    | none => bad s1 2
    | some c =>
      if c.srcA.toNat % 64 ≠ 0 ∨ c.srcB.toNat % 64 ≠ 0 ∨ c.dst.toNat % 64 ≠ 0 then bad s1 2
      else s1.withStream 0xA3 (some tag) rec_ c.srcA.toNat n fun s2 a =>
        let rest (t : State) (b : Option StreamRec) : Plan :=
          t.withStream 0xA3 (some tag) rec_ c.dst.toNat n fun t1 d =>
            let k := Nat.min a.count n
            if decide (a.count ≠ d.count) || (match b with | some r => decide (r.count ≠ a.count) | none => false) then bad t1 2
            else
              let srcs := t1.streamSrcs a k ++ (match b with
                | some r => (t1.streamSrcs r k).filter fun e => !(a.keys k).contains e.key
                | none => [])
              t1.planOwn { opc := 0xA3, tag := some tag, kind := .chain c a b d, rec_ := BitVec.ofNat 64 rec_
                           src := srcs, dst := t1.streamDsts d k }
        if c.srcB = 0 then rest s2 none
        else s2.withStream 0xA3 (some tag) rec_ c.srcB.toNat n fun s3 b => rest s3 (some b)

def execChain (o : OpO) (s : State) : Host.Outcome State Fault Refusal :=
  let w := s.w
  let rec_ := w.val64 o.a
  engIssue (.chain o) o.pr (sSrc o.d ++ [(o.a, 2)]) [engField (w.badTag o.d), misalign rec_ 128] [s.recRange rec_] false
    (fun t => t.planChain (w.val64 o.d) rec_) s

/-! ## Completion of copies, streams and chains -/

/-- What a copy, stream or chain command writes, all its sources read. -/
def Cmd.elems (c : Cmd) : Option (List ElemW) :=
  match c.kind with
  | .tcopy sh off true => some (sh.storeElems c.src c.seed c.vcnt (8 * formAddr off))
  | .tcopy sh off false => some (sh.loadElems c.src c.seed c.vcnt (8 * formAddr off))
  | .mcast sh off => some (sh.loadElems c.src c.seed c.vcnt (8 * formAddr off))
  | .scopy a b rm satf => some (scopyElems a b rm satf c.src c.seed (Nat.min a.count c.vcnt))
  | .chain k a b d => some (chainElems k a b d c.src c.seed (Nat.min a.count c.vcnt))
  | _ => none

end Sys2Proof.Machine
end

