-- ==== Sys2Proof/Machine/Matrix.lean ====
section
/-! DEFINITION. The matrix unit and its sequencer (R258 to R270, R283 to R288): what one step computes (R62, R263), the order
of commands and steps (R264, R265), and ACCZ, ACCMV, ACCST, MMA, MMLOOP, TMAC and TXPOSE. -/

namespace Sys2Proof.Machine

/-! ## Shapes and formats (R45, R258, R261) -/

def shapeM (shape : Nat) : Nat := if bit shape 0 then 64 else 32
def shapeN (shape : Nat) : Nat := if bit shape 1 then 64 else 32

/-- K of an input format code. -/
def stepK (inp : Nat) : Nat := if inp ≤ 1 then 16 else if inp ≤ 3 then 32 else if inp = 6 then 128 else 64

/-- The format code of an accumulator code, and its window W (R62). -/
def accFmt (acc : Nat) : Nat := match acc with | 0 => 1 | 1 => 0 | _ => 3
def accWindow (acc : Nat) : Nat := match acc with | 0 => 80 | 1 => 160 | _ => 48

/-- Bytes of the A or B image of `rows` rows. -/
def opBytes (inp rows : Nat) : Nat := imgBytes inp rows

/-! ## One step of one element (R62) -/

/-- A term in units of 2^low, the bits below discarded toward zero. -/
def inWindow (low : Int) : Num → Int
  | .fin s m e _ => sgn s ((m <<< (e - low).toNat) >>> (low - e).toNat)
  | _ => 0

/-- The sum of finite terms in a window of W bits, and the sign of a zero sum. -/
def windowSum (rm win : Nat) (ts : List Num) : Num :=
  match (ts.filter fun x => !x.isZero) with
  | [] =>
    if ts.all (·.sign) then .zero true else if ts.all fun x => !x.sign then .zero false else .zero (decide (rm = 3))
  | x :: xs =>
    let low := (xs.map expOf).foldl (fun a b => if a ≤ b then b else a) (expOf x) - win
    let sum : Int := (x :: xs).foldl (fun (a : Int) t => a + inWindow low t) 0
    if sum = 0 then .zero (decide (rm = 3)) else .fin (decide (sum < 0)) sum.natAbs low false

/-- The sum of the incoming value and the products. -/
def termSum (rm win : Nat) (ts : List Num) : Num :=
  let inf (neg : Bool) := ts.any fun x => decide (x = .inf neg)
  if ts.any (·.isNan) || (inf false && inf true) then .nan false
  else if inf false then .inf false
  else if inf true then .inf true
  else windowSum rm win ts

/-! ## Accumulator elements in pool rows (R261) -/

/-- Element `i` of a tile of `aw`-byte elements from a row on, with its poison. -/
def Warp.accElem (w : Warp) (row aw i : Nat) : Nat × Bool :=
  let b := i * aw
  let x := w.v1 (row + b / 128) (b % 128 / 4)
  if aw = 8 then
    let y := w.v1 (row + b / 128) (b % 128 / 4 + 1)
    (x.val.toNat + y.val.toNat * 2 ^ 32, x.psn || y.psn)
  else if aw = 2 then ((x.val.toNat >>> (8 * (b % 4))) % 2 ^ 16, x.psn)
  else (x.val.toNat, x.psn)

/-- The lanes of consecutive elements; two FP16 elements share a lane and its poison. -/
def accWords (aw : Nat) : List (Nat × Bool) → List (Nat × Bool)
  | [] => []
  | x :: xs =>
    if aw = 8 then (x.1 % 2 ^ 32, x.2) :: (x.1 / 2 ^ 32, x.2) :: accWords aw xs
    else if aw = 2 then match xs with
      | [] => [x]
      | y :: ys => (x.1 % 2 ^ 16 + y.1 * 2 ^ 16, x.2 || y.2) :: accWords aw ys
    else x :: accWords aw xs

/-- Elements from index `i` on written. -/
def Warp.putAcc (w : Warp) (row aw i : Nat) (xs : List (Nat × Bool)) : Warp :=
  (accWords aw xs).zipIdx.foldl (fun (t : Warp) e =>
    let k := i * aw / 4 + e.2
    t.setV1 (row + k / 32) (k % 32) (BitVec.ofNat 32 e.1.1) e.1.2) w

/-! ## Operand images (R260, R263) -/

/-- One row of an operand image from bit `at_`: its element values under their scales, and whether any is poisoned. -/
def operandRow (src : List Src) (at_ inp rows r : Nat) : List Num × Bool :=
  let xs := (List.range (stepK inp)).map fun c =>
    let x := srcBits src (at_ + imgBit (fmtBits inp) r c) (fmtBits inp)
    if inp = 6 ∨ inp = 7 then
      let e := srcBits src (at_ + imgScale rows r (c / 32)) 8
      ((scaledBy (unpack inp x.1) e.1 false).1, x.2 ≠ .none || e.2 ≠ .none)
    else (unpack inp x.1, x.2 ≠ .none)
  (xs.map (·.1), xs.any (·.2))

/-- The fields of one step. -/
structure StepForm where
  shape : Nat
  inp   : Nat
  acc   : Nat
  rm    : Nat
deriving DecidableEq, Repr

def StepForm.ofTy (shape ty rm : Nat) : StepForm := { shape := shape, inp := ty / 4, acc := ty % 4, rm := rm }
def StepForm.m (f : StepForm) : Nat := shapeM f.shape
def StepForm.n (f : StepForm) : Nat := shapeN f.shape
def StepForm.aBytes (f : StepForm) : Nat := opBytes f.inp f.m
def StepForm.bBytes (f : StepForm) : Nat := opBytes f.inp f.n
def StepForm.rows (f : StepForm) : Nat := tileRows f.shape f.acc
def StepForm.aw (f : StepForm) : Nat := fmtBits (accFmt f.acc) / 8

/-- Row i of C after a step: element j from the row of A and the rows of B. -/
def StepForm.row (f : StepForm) (w : Warp) (row0 i : Nat) (seed : Word) (a : List Num × Bool) (bs : List (List Num × Bool)) :
    List (Nat × Bool) :=
  bs.zipIdx.map fun e =>
    let k := i * f.n + e.2
    let c := w.accElem row0 f.aw k
    if a.2 || e.1.2 || c.2 then (0, true)
    else
      let ps := (a.1.zip e.1.1).map fun p => (mulN p.1 p.2).1
      ((round (accFmt f.acc) f.rm (draw seed k) (termSum f.rm (accWindow f.acc) (unpack (accFmt f.acc) c.1 :: ps))).1, false)

/-- One matrix step on images already read (R263): rows below VCNT of C. `bad`: its datapath failed twice (R304). -/
def StepForm.run (f : StepForm) (w : Warp) (row0 vcnt : Nat) (seed : Word) (src : List Src) (aAt bAt : Nat) (bad : Bool) : Warp :=
  let bs := (List.range f.n).map fun j => operandRow src bAt f.inp f.n j
  (List.range (Nat.min f.m vcnt)).foldl (fun (t : Warp) i =>
    let xs := if bad then List.replicate f.n (0, true) else f.row w row0 i seed (operandRow src aAt f.inp f.m i) bs
    t.putAcc row0 f.aw (i * f.n) xs) w

/-! ## Order of commands and steps (R264, R265) -/

/-- Whether a command is the first of its warp's matrix order. -/
def State.firstTile (s : State) (c : Cmd) : Bool :=
  !(s.cmds.any fun d => d.tiles && decide (d.warp = c.warp) && decide (d.id < c.id))

/-- The commands that the unit itself holds: MMA, MMLOOP, TMAC and TXPOSE. -/
def Cmd.stepped (c : Cmd) : Bool :=
  match c.kind with
  | .mat _ _ => decide (c.opc = 0xAE) || decide (c.opc = 0xAF) || decide (0xB0 ≤ c.opc)
  | .tmacFail _ _ => true
  | _ => false

def State.unitFull (s : State) (cid : Nat) : Bool :=
  decide (16 ≤ (s.cmds.filter fun c => decide (c.core = cid) && c.stepped).length)

/-- Whether a pending mark on a line holds a step back. A step that reads as of its command's issue (`loop` false) is not
held by a later command of its warp, nor by one that must wait for such a command; any other step waits for every mark but
those of its own command and of later matrix commands of its warp. -/
def State.markHolds (s : State) (c : Cmd) (loop : Bool) (cid line : Nat) : Bool :=
  s.cmds.any fun d => d.marks cid line && decide (d.id ≠ c.id) &&
    (if d.warp = c.warp then decide (d.id < c.id) || (loop && !d.tiles)
     else loop || !(s.cmds.any fun f =>
       decide (f.warp = c.warp) && decide (c.id < f.id) && decide (f.id < d.id) && f.marks cid line))

/-- Whether a step of a command may read its sources now: no mark holds it, and the warp's earlier accesses to them are
performed (R229, R265). -/
def State.stepFree (s : State) (c : Cmd) (loop : Bool) (src : List Src) : Bool :=
  src.all fun e => match e.loc with
    | .spad cid off => !s.markHolds c loop cid (off / 128) && (c.asOp e.loc).accs.all fun a => s.ordered (c.asOp e.loc) a
    | _ => true

/-- Scratchpad sources as they stand now. -/
def State.readNow (s : State) (src : List Src) : List Src :=
  src.map fun e => match e.loc with
    | .spad cid off => let x := s.spadSector cid off; { e with got := some (x.data, x.mark) }
    | _ => { e with got := some (zeros16, .copyFailed) }

/-! ## Records and stopping points (R268, R269) -/

/-- An offset advanced by an increment, which acts on bits [23:0] (R266). -/
def stepOff (off : Nat) (d : Int) : Nat := off / 2 ^ 24 * 2 ^ 24 + wrapN 24 ((off % 2 ^ 24 : Nat) + d)

/-- A tile command that has ended leaves; one in which a step failed counts as an operation that completed with an error. Copy-ins
of a TMAC that failed leave their one record now (R243, R287). -/
def State.endTile (s : State) (c : Cmd) : State :=
  let l := s.launch c.launch
  let s1 := if c.err = 4 then s.logCmd c 4 c.first c.nfail else s
  (if c.err = 0 then s1 else s1.putLaunch c.launch { l with failed := l.failed + 1 }).finishCmd c 0 0 0

/-- A command one step further: its record, or its end. -/
def State.stepped (s : State) (c : Cmd) (m : MatRec) (recs : List Byte) : State :=
  let c1 := { c with kind := .mat m recs, sdone := c.sdone + 1, sleft := c.sleft - 1, rerun := 0 }
  let s1 := (s.count 7).countCtx c.ctx 0x106
  if c1.sleft = 0 then s1.endTile c1 else s1.putCmd c1

/-- The log record of a step whose datapath failed twice (R304). -/
def State.stepError (s : State) (c : Cmd) (n : Nat) : State × Cmd :=
  if c.rerun < 2 then (s, c) else (s.logCmd c 6 c.sdone n, { c with err := 6 })

/-! ## MMA and MMLOOP (R266, R283) -/

/-- The sectors of the operands of a step: of A the rows below VCNT, of B all, but nothing for a count of 0 (R143, R263). -/
def State.stepSrcs (s : State) (w : Warp) (cid vcnt : Nat) (f : StepForm) (a b : Nat) : List Src :=
  if vcnt = 0 then []
  else s.imgSrcs w cid a f.inp f.m (Nat.min f.m vcnt) ++ s.imgSrcs w cid b f.inp f.n f.n

def Cmd.form (c : Cmd) (m : MatRec) : StepForm := .ofTy (c.opc % 4) m.f m.rm

/-- A step of MMA or MMLOOP, if its operands are free: the state after it. -/
def State.mmStep (s : State) (c : Cmd) (m : MatRec) : Option State :=
  let f := c.form m
  let w := s.warp c.warp
  let loop := decide (0xB4 ≤ c.opc)
  let src := s.stepSrcs w c.core c.vcnt f m.aoff m.boff
  if !s.stepFree c loop src then none
  else
    let w1 := f.run w (w.bnd + m.acc) c.vcnt c.seed (s.readNow src) (8 * formAddr m.aoff) (8 * formAddr m.boff)
      (decide (2 ≤ c.rerun))
    let (s1, c1) := (s.putWarp c.warp w1).stepError c (Nat.min f.m c.vcnt * f.n)
    some (s1.stepped c1 { m with aoff := stepOff m.aoff m.da, boff := stepOff m.boff m.db } [])

/-- The rows of a tile. -/
def Warp.accRows (w : Warp) (k n : Nat) : List Nat := (List.range n).map fun i => w.bnd + k + i

/-- REGISTER-RANGE of an accumulator range (R261). -/
def State.accRange (s : State) (k n : Nat) : Option TrapInfo :=
  engRange (decide (s.w.rows - s.w.bnd < k + n))

/-- The offset of the last of `nk` steps, none if it leaves bits [23:0]. -/
def lastOff (off : Nat) (d : Int) (nk : Nat) : Option Nat :=
  let x : Int := (off % 2 ^ 24 : Nat) + d * ((nk - 1 : Nat) : Int)
  if 0 ≤ x ∧ x < 2 ^ 24 then some (off / 2 ^ 24 * 2 ^ 24 + x.toNat) else none

/-- The address faults of two operands, each an offset, its increment and its bytes, in the first step and in the last (R260, R266):
LOCAL-RANGE of any before CLUSTER-TARGET of any. -/
def State.mmTrap (s : State) (w : Warp) (cid nk : Nat) (xs : List (Nat × Int × Nat)) : Option TrapInfo :=
  let lasts := xs.map fun x => (x.1, lastOff x.1 x.2.1 nk, x.2.2)
  let ends := lasts.filterMap fun x => x.2.1.map fun o => (o, x.2.2)
  match xs.find? fun x => s.formLocal w cid x.1 x.2.2 with
  | some x => formErr 3 x.1
  | none => match lasts.find? fun x => x.2.1.isNone with
    | some x => formErr 3 x.1
    | none => s.formsTrap w cid (xs.map (fun x => (x.1, x.2.2)) ++ ends)

def mmIssue (i : Instr) (o : OpO) (opc : Nat) (ty : Nat) (a b nk : Nat) (da db : Int) (s : State) :
    Host.Outcome State Fault Refusal :=
  let w := s.w
  let k := w.val64 o.d
  let f := StepForm.ofTy (opc % 4) ty (o.m.toNat % 8)
  engIssue i o.pr (sSrc o.d ++ [(o.a, 2), (o.b, 2)] ++ sSrc o.c)
    [engField (w.badAcc o.d), misalign a 128, misalign b 128,
      if da % 128 ≠ 0 then some (addrTrap 2 (BitVec.ofNat 64 a)) else none,
      if db % 128 ≠ 0 then some (addrTrap 2 (BitVec.ofNat 64 b)) else none]
    [s.mmTrap w s.cid nk [(a, da, f.aBytes), (b, db, f.bBytes)], s.accRange k f.rows] true
    (fun t =>
      if nk = 0 then .nothing t
      else if t.unitFull t.cid then .wait t
      else .go t { opc := opc, tiles := true, sleft := nk, rows := w.accRows k f.rows
                   src := if opc < 0xB4 then t.stepSrcs w t.cid w.vcnt.toNat f a b else []
                   kind := .mat { f := ty, rm := o.m.toNat % 8, acc := k, aoff := a, boff := b, da := da, db := db } [] }) s

def execMma (shape : BitVec 2) (ty : BitVec 6) (o : OpO) (s : State) : Host.Outcome State Fault Refusal :=
  mmIssue (.mma shape ty o) o (0xB0 + shape.toNat) ty.toNat (s.w.val32 o.a) (s.w.val32 o.b) 1 0 0 s

def execMmloop (shape : BitVec 2) (ty : BitVec 6) (o : OpO) (s : State) : Host.Outcome State Fault Refusal :=
  let x := s.w.val64 o.c
  mmIssue (.mmloop shape ty o) o (0xB4 + shape.toNat) ty.toNat (s.w.val32 o.a) (s.w.val32 o.b) (bits x 63 48)
    (sext 24 (x >>> 24)) (sext 24 x) s

/-! ## ACCZ and ACCMV (R284) -/

def execAccz (o : OpO) (s : State) : Host.Outcome State Fault Refusal :=
  let w := s.w
  let k := w.val64 o.d
  let n := w.val64 o.a
  engIssue (.accz o) o.pr (sSrc o.d ++ sSrc o.a) [engField (w.badAcc o.d || decide (n = 0) || decide (8192 < n))]
    [s.accRange k n] true (fun t => .go t { opc := 0xAB, tiles := true, rows := w.accRows k n
                                            kind := .mat { f := o.m.toNat, acc := k, aoff := n } [] }) s

/-- ACCMV: `k` an accumulator, `v` a vector register, any number of rows; the vector rows to be written must not be pending (R204). -/
def accmv (i : Instr) (o : OpO) (kOp vOp : Opnd) (s : State) : Host.Outcome State Fault Refusal :=
  let w := s.w
  let k := w.val64 kOp
  let v := vOp.num
  let n := w.val64 o.b
  engIssue i o.pr (sSrc kOp ++ sSrc o.b) [engField (w.badAcc kOp)]
    [s.accRange k n, engRange (decide (w.bnd < v + n))] true (fun t =>
      if o.m = 0 ∧ (List.range n).any (fun j => decide (t.pendV t.cur (v + j) ≠ 0)) then .wait t
      else .go t { opc := 0xAC, tiles := true, rows := w.accRows k n ++ (List.range n).map (v + ·)
                   kind := .mat { f := o.m.toNat, acc := k, aoff := v, boff := n } [] }) s

def execAccmvV (o : OpO) (s : State) : Host.Outcome State Fault Refusal := accmv (.accmvV o) o o.a o.d s
def execAccmvA (o : OpO) (s : State) : Host.Outcome State Fault Refusal := accmv (.accmvA o) o o.d o.a s

/-- Rows written with zero, or with copies of others, poison marks and all. -/
def Warp.zeroRows (w : Warp) (r n : Nat) : Warp := { w with v := mapCut w.v (32 * r) (32 * (r + n)) }
def Warp.moveRows (w : Warp) (src dst n : Nat) : Warp :=
  let es := w.v.filter fun e => decide (32 * src ≤ e.1) && decide (e.1 < 32 * (src + n))
  { w with v := es.foldl (fun m e => put {} m (e.1 - 32 * src + 32 * dst) e.2) (mapCut w.v (32 * dst) (32 * (dst + n))) }

/-- Whether a block entered since a command's issue has made an element of a v register dead: it keeps what it holds (R12). -/
def Cmd.isDead (c : Cmd) (key : Nat) : Bool := c.dead.any fun d => decide (d.1 ≤ key / 32) && d.2.getLsbD (key % 32)

/-- The move of an ACCMV; moving a pending element is a read of it (R204). -/
def State.runMove (s : State) (c : Cmd) (m : MatRec) : State :=
  let w := s.warp c.warp
  if m.f = 0 then
    let w1 := w.moveRows (w.bnd + m.acc) m.aoff m.boff
    let into (k : Nat) : Bool := decide (m.aoff ≤ k / 32) && decide (k / 32 < m.aoff + m.boff) && c.isDead k
    s.putWarp c.warp { w1 with v := (w.v.filter fun e => into e.1).foldl (fun v e => put {} v e.1 e.2) (w1.v.filter fun e => !into e.1) }
  else
    let pend := (List.range m.boff).any fun j => decide (s.pendV c.warp (m.aoff + j) ≠ 0)
    let w1 := w.moveRows m.aoff (w.bnd + m.acc) m.boff
    if pend then (s.putWarp c.warp (w1.deliver .pendingRead w.pc)).countCtx c.ctx 0x10D else s.putWarp c.warp w1

/-! ## ACCST (R285) -/

/-- Columns of a panel, and the bytes of all panels. -/
def panelCols (shape sf : Nat) : Nat := Nat.min (shapeN shape) (1024 / fmtBits sf)
def panelBytes (shape sf : Nat) : Nat := imgBytes sf (shapeM shape) * (shapeN shape / panelCols shape sf)

def execAccst (o : OpO) (s : State) : Host.Outcome State Fault Refusal :=
  let w := s.w
  let k := w.val64 o.a
  let off := w.val32 o.b
  let shape := bits o.m.toNat 1 0
  let acc := bits o.m.toNat 3 2
  let n := panelBytes shape (o.c.num % 16)
  engIssue (.accst o) o.pr (sSrc o.d ++ sSrc o.a ++ [(o.b, 2)])
    [engField (w.badTag o.d || w.badAcc o.a), misalign off 128]
    [s.formTrap w s.cid off n, s.accRange k (tileRows shape acc)] true
    (fun t => t.planOwn { opc := 0xAD, tag := some (w.val64 o.d), tiles := true, rows := w.accRows k (tileRows shape acc)
                          dst := t.spadLocs w t.cid off 0 n
                          kind := .mat { f := o.m.toNat, acc := k, aoff := off, boff := o.c.num, da := w.val64 o.d } [] }) s

/-- The elements of row i that an ACCST writes, each at its place in its panel, with the scale bytes of SF 6 and 7. -/
def accstRow (w : Warp) (c : Cmd) (m : MatRec) (i : Nat) : List ElemW :=
  let shape := bits m.f 1 0
  let f := accFmt (bits m.f 3 2)
  let sf := m.boff % 16
  let rm := m.boff / 16
  let n := shapeN shape
  let pc := panelCols shape sf
  let mx := decide (sf = 6) || decide (sf = 7)
  let at_ (j : Nat) : Nat := 8 * (formAddr m.aoff + 128 * shapeM shape * (j / pc)) + imgBit (fmtBits sf) i (j % pc)
  let xs := (List.range n).map fun j =>
    let x := w.accElem (w.bnd + m.acc) (fmtBits f / 8) (i * n + j)
    (x.1, if x.2 then Origin.copyFailed else .none)
  let scale (b : Nat) : Nat × Origin := if mx then blockScaleOf f sf ((xs.drop (32 * b)).take 32) else (0, .none)
  let elems := xs.zipIdx.map fun p =>
    let j := p.2
    let x := p.1
    let rnd := draw c.seed (i * n + j)
    let e := scale (j / 32)
    { idx := i * n + j, at_ := at_ j, n := fmtBits sf
      val := if sf = f then x.1 else if mx then (cvtqN sf f rm rnd e.1 (unpack f x.1)).1 else (cvtN sf false rm rnd (unpack f x.1)).1
      psn := if x.2 = .none then e.2 else x.2 : ElemW }
  let scales := if mx then (List.range (n / 32)).map fun b =>
      let e := scale b
      { idx := i * n + 32 * b, at_ := 8 * formAddr m.aoff + imgScale (shapeM shape) i b, n := 8, val := e.1, psn := e.2 : ElemW }
    else []
  elems ++ scales

/-- Elements written to a command's destinations. -/
def State.writeAll (s : State) (c : Cmd) (es : List ElemW) : State :=
  let m := layElems es
  c.dst.foldl (fun (t : State) e =>
    let x := look {} m e.1
    if x.mask = 0 then t else (t.writeSec c e.1 e.2 x).1) s

/-- Elements with those in which a datapath mismatch was found poisoned (R304), and the indexes of these. -/
def Cmd.withBad (c : Cmd) (es : List ElemW) : List ElemW × List Nat :=
  (es.map fun e => if c.bad.contains e.idx then { e with psn := .copyFailed } else e,
    dedup ((es.map (·.idx)).filter c.bad.contains))

/-- An ACCST run: its image written; an element in which a datapath mismatch was found fails (R304, R321). -/
def State.runStore (s : State) (c : Cmd) (m : MatRec) : State :=
  match s.dstFree c with
  | (s1, false) => s1
  | (s1, true) =>
    let w := s1.warp c.warp
    let es := (List.range (Nat.min (shapeM (bits m.f 1 0)) c.vcnt)).flatMap fun i => accstRow w c m i
    match c.withBad es with
    | (es1, []) => (s1.writeAll c es1).endTile c
    | (es1, bad) => (s1.writeAll c es1).finishCmd c 6 (lowest bad) bad.length

/-! ## TMAC (R286, R287) -/

/-- A macro record. -/
structure Macro where
  arec  : Nat
  brec  : Nat
  stage : Nat
  nk    : Nat
  shape : Nat
  acc   : Nat
  rm    : Nat
  ok    : Bool
deriving DecidableEq, Repr

def macroOf (bs : List Byte) : Macro :=
  let q := recWord bs
  let x := q 2
  let stage := bits x 63 32
  { arec := q 0, brec := q 1, stage := stage, nk := bits x 31 16, shape := bits x 7 6, acc := bits x 5 4, rm := bits x 3 1
    ok := decide (bits x 15 8 = 0) && !bit x 0 && decide (bits x 5 4 ≤ 2) && decide (bits x 3 1 ≤ 4) &&
      decide (stage % 128 = 0) && decide (stage < 2 ^ 24) && decide (q 0 % 128 = 0) && decide (q 1 % 128 = 0) &&
      ([3, 4, 5, 6, 7].all fun k => decide (q k = 0)) }

/-- Whether the two shape records fit the macro record. -/
def Macro.fits (x : Macro) (a b : ShapeRec) : Bool :=
  decide (a.sf = b.sf) && decide (a.sf ≤ 7) && mmPair a.sf x.acc && a.pairOk false && b.pairOk false &&
    decide (a.rows = shapeM x.shape) && decide (b.rows = shapeN x.shape) &&
    decide (nth 0 a.text 0 = stepK a.sf) && decide (nth 0 b.text 0 = stepK b.sf)

/-- The command of a TMAC whose record failed. -/
def failedTmac (w : Warp) (k rows rec_ err : Nat) : Cmd :=
  { opc := 0xAE, tiles := true, rows := w.accRows k rows, err := err, rec_ := BitVec.ofNat 64 rec_
    kind := .tmacFail { acc := k } rows }

/-- A shape record with ORIG0 moved. -/
def ShapeRec.from (sh : ShapeRec) (x : Nat) : ShapeRec := { sh with orig := setNth sh.orig 0 x }

/-- Rows of the B box that a step copies in: all, but none for a count of 0 (R143, R287). -/
def bCount (vcnt : Nat) : Nat := if vcnt = 0 then 0 else 2 ^ 32

/-- The memory sectors of the boxes of `n` K-steps of a TMAC from some ORIG0 values on. -/
def boxKeys (a b : ShapeRec) (aoff boff k n vcnt : Nat) : List Nat :=
  dedup ((List.range n).flatMap fun i =>
    (a.from (aoff + i * k)).memKeys vcnt ++ (b.from (boff + i * k)).memKeys (bCount vcnt))

/-- The command of a TMAC from its three records. Its sources are loads of its warp at issue, as a `TCOPY.ld`'s are (R287, R399). -/
def State.planTmac (s : State) (k rec_ : Nat) : Plan :=
  let w := s.w
  let fail (t : State) (rows err : Nat) : Plan :=
    match t.accRange k rows with
    | some x => .trap x
    | none => if t.unitFull t.cid then .wait t else .go t (failedTmac w k rows rec_ err)
  match s.readRec rec_ 64 with
  | .wait s1 => .wait s1
  | .bad s1 => fail s1 (tileRows 0 0) 1
  | .ok s1 bs =>
    let x := macroOf bs
    let rows := tileRows x.shape x.acc
    match s1.accRange k rows with
    | some t => .trap t
    | none =>
      if !x.ok then fail s1 rows 2
      else match s1.readRec x.arec 128 with
        | .wait s2 => .wait s2
        | .bad s2 => fail s2 rows 1
        | .ok s2 as => match s2.readRec x.brec 128 with
          | .wait s3 => .wait s3
          | .bad s3 => fail s3 rows 1
          | .ok s3 bbs => match shapeOf as, shapeOf bbs with
            | some a, some b =>
              let sz := a.bytes + b.bytes
              if !x.fits a b || !s3.formIn w s3.cid x.stage (2 * sz) then fail s3 rows 2
              else if x.nk = 0 then .nothing s3
              else if s3.unitFull s3.cid then .wait s3
              else s3.planOwn { opc := 0xAE, tiles := true, sleft := x.nk, rows := w.accRows k rows, rec_ := BitVec.ofNat 64 rec_
                                dst := s3.spadLocs w s3.cid x.stage 0 (2 * sz)
                                src := s3.memSrcs (boxKeys a b (nth 0 a.orig 0) (nth 0 b.orig 0) (stepK a.sf) x.nk w.vcnt.toNat)
                                kind := .mat { f := a.sf * 4 + x.acc, rm := x.rm, acc := k, aoff := nth 0 a.orig 0
                                               boff := nth 0 b.orig 0, da := stepK a.sf, db := stepK a.sf } (bs ++ as ++ bbs) }
            | _, _ => fail s3 rows 2

def execTmac (o : OpO) (s : State) : Host.Outcome State Fault Refusal :=
  let w := s.w
  let rec_ := w.val64 o.a
  engIssue (.tmac o) o.pr (sSrc o.d ++ [(o.a, 2)]) [engField (w.badAcc o.d), misalign rec_ 64] [s.recRange rec_] true
    (fun t => t.planTmac (w.val64 o.d) rec_) s

/-- The two boxes of the next step of a TMAC. -/
def tmacBoxes (m : MatRec) (recs : List Byte) : Option (Macro × ShapeRec × ShapeRec) :=
  match shapeOf ((recs.drop 64).take 128), shapeOf ((recs.drop 192).take 128) with
  | some a, some b => some (macroOf (recs.take 64), a.from m.aoff, b.from m.boff)
  | _, _ => none

/-- The copy-ins and the matrix step of one K-step, when every source can be read and the buffers are free: the requests
sent, and the state after the step. -/
def State.tmacStep (s : State) (c : Cmd) (m : MatRec) (recs : List Byte) : State × Option State :=
  match tmacBoxes m recs with
  | none => (s, none)
  | some (x, a, b) =>
    let keys := a.memKeys c.vcnt ++ b.memKeys (bCount c.vcnt)
    let s1 := s.fillCmd c.id
    let c1 := (s1.cmd c.id).getD c
    let here := c1.src.filter fun e => keys.contains e.key
    if here.any fun e => e.got.isNone then (s1, none)
    else match s1.dstFree c1 with
      | (s2, false) => (s2, none)
      | (s2, true) =>
        let w := s2.warp c.warp
        let f := StepForm.ofTy x.shape m.f m.rm
        let buf := x.stage + (c.sdone % 2) * (a.bytes + b.bytes)
        let aAt := 8 * formAddr buf
        let bAt := 8 * formAddr (buf + a.bytes)
        let (es, bad) := c1.withBad (a.loadElems here c.seed c.vcnt aAt ++ b.loadElems here c.seed (bCount c.vcnt) bAt)
        let n := (es.filter fun e => decide (e.psn ≠ .none)).length
        let s3 := s2.writeAll c1 es
        let src := s3.readNow (s3.stepSrcs w c.core c.vcnt f buf (buf + a.bytes))
        let w1 := f.run (s3.warp c.warp) (w.bnd + m.acc) c.vcnt c.seed src aAt bAt (decide (2 ≤ c.rerun))
        let s4 := if bad = [] then s3 else s3.logCmd c1 6 c.sdone bad.length
        let c2 := if n = 0 ∨ c1.err = 6 then c1
          else { c1 with err := if bad = [] then 4 else 6, first := if c1.err = 0 then c.sdone else c1.first, nfail := c1.nfail + n }
        let (s5, c3) := (s4.putWarp c.warp w1).stepError { c2 with bad := [] } (Nat.min f.m c.vcnt * f.n)
        (s2, some (s5.stepped c3 { m with aoff := m.aoff + m.da.toNat, boff := m.boff + m.db.toNat } recs))

/-! ## TXPOSE (R288) -/

/-- The sectors of the columns below `n` of an image of `r` rows of elements of `wd` bytes: destination rows from VCNT on are not
read (R143). -/
def State.txposeSrcs (s : State) (w : Warp) (cid off wd r n : Nat) : List Src :=
  (s.spadSrcs w cid off 0 (128 * r)).filter fun e =>
    let x := e.key - formAddr off / 16
    decide (Nat.xor (x % 8 * 16) (x / 8 % 8 * 16) < n * wd)

def execTxpose (o : OpO) (s : State) : Host.Outcome State Fault Refusal :=
  let w := s.w
  let a := w.val32 o.a
  let b := w.val32 o.b
  let x := w.val64 o.c
  let r := bits x 31 16
  let cc := bits x 15 0
  let wd := 2 ^ (o.m.toNat % 4)
  let badDim (n : Nat) : Bool := decide (n % 8 ≠ 0) || decide (n < 8) || decide (128 < n * wd)
  let lines (d n : Nat) : List (Option (Nat × Nat)) := (List.range n).map fun k => s.formAt w s.cid d (128 * k)
  let overlap := (lines a r).any fun p => p.isSome && (lines b cc).contains p
  engIssue (.txpose o) o.pr [(o.a, 2), (o.b, 2), (o.c, 2)]
    [engField (badDim r || badDim cc || decide (2 ^ 32 ≤ x)), misalign a 128, misalign b 128]
    [if !s.formLocal w s.cid a (128 * r) && !s.formLocal w s.cid b (128 * cc) && overlap then formErr 3 b else none,
      s.formsTrap w s.cid [(a, 128 * r), (b, 128 * cc)]] true
    (fun t =>
      if t.unitFull t.cid then .wait t
      else t.planOwn { opc := 0xAF, tiles := true, sleft := cc / 8, src := t.txposeSrcs w t.cid a wd r (Nat.min cc w.vcnt.toNat)
                       dst := t.spadLocs w t.cid b 0 (128 * cc)
                       kind := .mat { aoff := a, boff := b, da := (x % 2 ^ 32 : Nat), db := (o.m.toNat % 4 : Nat) } [] }) s

/-- A group of 8 destination rows, if the source and its lines are free. An element in which a datapath mismatch was found is
poison, and leaves a record (R304, R321). -/
def State.txposeStep (s : State) (c : Cmd) (m : MatRec) : Option State :=
  if !s.stepFree c false c.src then none
  else match s.dstFree c with
    | (_, false) => none
    | (s1, true) =>
      let wb := 8 * 2 ^ m.db.toNat
      let r := bits m.da.toNat 31 16
      let src := s1.readNow c.src
      let rows := (List.range 8).map (8 * c.sdone + ·)
      let es := (rows.filter fun i => decide (i < c.vcnt)).flatMap fun i => (List.range r).map fun j =>
        let x := srcBits src (8 * formAddr m.aoff + imgBit wb j i) wb
        { idx := i * r + j, at_ := 8 * formAddr m.boff + imgBit wb i j, n := wb, val := x.1, psn := x.2 : ElemW }
      match c.withBad es with
      | (es1, []) => some ((s1.writeAll c es1).stepped c m [])
      | (es1, bad) => some (((s1.writeAll c es1).logCmd c 6 (lowest bad) bad.length).stepped { c with err := 6, bad := [] } m [])

/-! ## The unit's next step (R264) -/

/-- One step of a command that is first in its warp's order, if it can begin: the requests sent, and the state after it.
`groups`: it is a TXPOSE. -/
def State.unitStep (s : State) (c : Cmd) : State × Option State :=
  match c.kind with
  | .mat m recs =>
    if c.opc = 0xAE then s.tmacStep c m recs
    else if c.opc = 0xAF then (s, s.txposeStep c m)
    else (s, s.mmStep c m)
  | _ => (s, none)

/-- The step of the oldest-issued command that can take one; nothing if that command is of the other sort. -/
def State.nextUnitStep (s : State) (txpose : Bool) : List Cmd → State
  | [] => s
  | c :: cs =>
    match s.unitStep c with
    | (s1, none) => State.nextUnitStep s1 txpose cs
    | (s1, some s2) => if decide (c.opc = 0xAF) = txpose then s2 else s1

/-- Whether a matrix command stands still for a DUMPW of its block (R344): every other warp of the block has stopped, and no copy of
the block was issued after the command, which could wait for it. -/
def State.dumpStops (s : State) (c : Cmd) : Bool :=
  let mine (launch blk : Nat) : Bool := decide (launch = c.launch) && decide (blk = c.blk)
  let block := s.warps.filter fun e => decide (e.1 < 2 ^ 20) && mine e.2.launch e.2.blk && decide (e.2.status = .run)
  (match block with
    | [e] => (match e.2.wait with | .dumpw _ _ _ _ => true | _ => false)
    | _ => false) &&
  (s.cmds.all fun d => !mine d.launch d.blk || d.tiles || decide (d.id < c.id))

def State.unitCmds (s : State) (cid : Nat) : List Cmd :=
  s.cmds.filter fun c => decide (c.core = cid) && c.stepped && s.firstTile c && !s.dumpStops c

def execMatrixStep (cid : Nat) (s : State) : Host.Outcome State Fault Refusal :=
  .next (s.nextUnitStep false (s.unitCmds cid))
def execTxposeGroup (cid : Nat) (s : State) : Host.Outcome State Fault Refusal :=
  .next (s.nextUnitStep true (s.unitCmds cid))

/-- A command that is no step of the unit run to its end, in its warp's matrix order: ACCZ, ACCMV, ACCST, and a TMAC whose
record failed. -/
def State.runTile (s : State) (c : Cmd) : State :=
  if !s.firstTile c then s
  else match c.kind with
    | .tmacFail m rows =>
      let w := s.warp c.warp
      let w1 := (w.accRows m.acc rows).foldl (fun (t : Warp) r =>
        (List.range 32).foldl (fun (u : Warp) l => u.setV1 r l 0 true) t) w
      (s.putWarp c.warp w1).finishCmd c c.err 0 0
    | .mat m _ =>
      let w := s.warp c.warp
      if c.opc = 0xAB then (s.putWarp c.warp (w.zeroRows (w.bnd + m.acc) m.aoff)).endTile c
      else if c.opc = 0xAC then (s.runMove c m).endTile c
      else if c.opc = 0xAD then s.runStore c m
      else s
    | _ => s

end Sys2Proof.Machine
end

