-- ==== Sys2Proof/Machine/Control.lean ====
section
/-! DEFINITION. The control instructions (R102 to R113): targets and their checks, branches and calls over the
reconvergence stack, return, the retirement of lanes, and the two instructions without effect. -/

namespace Sys2Proof.Machine

/-! ## Targets (R103, R104) -/

def alignTrap (cause : BitVec 8) (a : Word) : TrapInfo := { cls := clsAlign, cause := cause, addr := a }
def stackTrap (cause : BitVec 8) : TrapInfo := { cls := clsStack, cause := cause }

/-- What the checks of a target answer, with the state that the reads leave: its header word, a trap, or a word that cannot
be read yet. -/
inductive Target where
  | ok (hw : Word) (s : State)
  | trap (t : TrapInfo) (s : State)
  | wait (s : State)
deriving DecidableEq, Repr

/-- Whether the word at an address is a header under R10, with the state that the read leaves; an error while it cannot be
read. A word lies at a multiple of 8 (R21), so no header stands at any other address (DEDUCED, log 18). A word that is a MISS,
fails at the memory side or is poisoned is no header either, so a reconvergence address of that kind is BAD-RECONV (R104;
DESIGN CHOICE, log 96). -/
def State.headerAt (s : State) (ctx : Nat) (a : Word) : Except State (Bool × State) :=
  match s.fetchWord ctx a with
  | .wait s1 => .error s1
  | .trap _ s1 => .ok (false, s1)
  | .word w s1 => .ok (headerOk w && decide (a.toNat % 8 = 0), s1)

/-- Steps 1, 2 and 4 of R103 for a target, with the causes that R106 puts between them: BAD-RECONV for the address that a
divergent branch would push, NOT-CALL-TARGET for a call. -/
def State.target (s : State) (t : Word) (rc : Option Word) (call : Bool) : Target :=
  let ctx := s.w.ctx
  match s.fetchWord ctx t with
  | .wait s1 => .wait s1
  | .trap x s1 => .trap x s1
  | .word hw s1 =>
    if !headerOk hw || decide (t.toNat % 8 ≠ 0) then .trap (alignTrap 1 t) s1
    else
      match (match rc with | none => Except.ok (true, s1) | some r => s1.headerAt ctx r) with
      | .error s2 => .wait s2
      | .ok (false, s2) => .trap (alignTrap 2 (rc.getD 0)) s2
      | .ok (true, s2) =>
        if call && !hdrCall hw then .trap (alignTrap 3 t) s2
        else if hdrHandler hw then .trap (alignTrap 4 t) s2
        else .ok hw s2

/-! ## Branches and calls (R106) -/

/-- What a branch finds: the lanes that take it, its target, and what its checks answer. -/
structure Branch where
  take : W32
  t    : Word
  div  : Bool
  rc   : Word
  none : Bool
deriving DecidableEq, Repr

/-- The lanes and the target of a branch whose target in lane `l` is `tgt l`. Where the reconv field is 0, RC takes the header's
own address beside NONE = 1 (R105; DESIGN CHOICE, log 97). -/
def Warp.branch (w : Warp) (pr : Pred) (tgt : Nat → Word) : Branch :=
  let take := w.holds pr
  let t := tgt (lowestLane take)
  let same := maskWhere fun l => take.getLsbD l && decide (tgt l = t)
  let rv := hdrReconv w.hw
  { take := same, t := t, div := decide (same ≠ w.exm)
    rc := w.hdr + BitVec.ofInt 64 (8 * rv), none := decide (rv = 0) }

/-- The control-stack causes of a branch, lowest first. -/
def Warp.branchStack (w : Warp) (b : Branch) (call : Bool) : Option TrapInfo :=
  if b.div && decide (32 ≤ w.rstk.length) then some (stackTrap 1)
  else if call && decide (32 ≤ w.cstk.length) then some (stackTrap 2)
  else if b.div && hdrUniform w.hw then some (stackTrap 5)
  else none

/-- The effects of a branch whose checks have passed. -/
def State.branchTo (s : State) (b : Branch) (call : Bool) (hw : Word) : State :=
  let w := s.w
  let e : REntry := { rc := b.rc, none := b.none, ppc := w.pc, phoff := (w.pc - w.hdr).toNat / 8
                      pend := w.exm &&& ~~~b.take, split := w.exm, depth := w.cstk.length, hw := w.hw }
  let w1 := { w with
    cstk := if call then (w.pc + 8) :: w.cstk else w.cstk
    rstk := if b.div then e :: w.rstk else w.rstk
    exm := if b.div then b.take else w.exm }
  (s.setW w1).enterAt b.t hw

/-- BRA, BRX, CALL and CALLX: `srcs` names the target operand of the indirect forms. -/
def branchOp (i : Instr) (pr : Pred) (srcs : List (Opnd × Nat)) (tgt : Warp → Nat → Word) (call : Bool) (s : State) :
    Host.Outcome State Fault Refusal :=
  let w := s.w
  let bad := firstPoison s [s.consumes 3 [(.p (pr.reg.setWidth 8), 1)] w.exm, s.consumes 4 srcs (w.holds pr)]
  match bad with
  | (some t, s1) => issue i s1 { early := some t } id
  | (none, _) =>
    let b := w.branch pr (tgt w)
    if b.take = 0 then issue i s {} fun u => u.advance 1
    else match s.target b.t (if b.div && !b.none then some b.rc else none) call with
      | .wait s1 => issue i s { ready := false, sent := some s1 } id
      | .trap t s1 => issue i s1 { early := some t } id
      | .ok hw s1 => issue i s1 { early := w.branchStack b call } fun u => u.branchTo b call hw

/-- BRA and CALL (R102): (address of the instruction + 8 × imm32) mod 2^64. -/
def directTarget (o : OpI) (w : Warp) (_ : Nat) : Word := w.pc + BitVec.ofInt 64 (8 * o.imm.toInt)
def indirectTarget (o : OpO) (w : Warp) (l : Nat) : Word := BitVec.ofNat 64 (w.read 64 o.a l).n

def execBra (o : OpI) (s : State) := branchOp (.bra o) o.pr [] (directTarget o) false s
def execBrx (o : OpO) (s : State) := branchOp (.brx o) o.pr [(o.a, 2)] (indirectTarget o) false s
def execCall (o : OpI) (s : State) := branchOp (.call o) o.pr [] (directTarget o) true s
def execCallx (o : OpO) (s : State) := branchOp (.callx o) o.pr [(o.a, 2)] (indirectTarget o) true s

/-! ## Return (R109) -/

def execRet (o : OpO) (s : State) : Host.Outcome State Fault Refusal :=
  let w := s.w
  match s.consumes 3 [(.p (o.pr.reg.setWidth 8), 1)] w.exm with
  | some (t, s1) => issue (.ret o) s1 { early := some t } id
  | none =>
    if w.holds o.pr = 0 then issue (.ret o) s {} fun u => u.advance 1
    else match w.cstk with
      | [] => issue (.ret o) s { early := some (stackTrap 3) } id
      | t :: rest =>
        match s.target t none false with
        | .wait s1 => issue (.ret o) s { ready := false, sent := some s1 } id
        | .trap x s1 => issue (.ret o) s1 { early := some x } id
        | .ok hw s1 =>
          let inside := match w.rstk with | e :: _ => decide (e.depth = w.cstk.length) | [] => false
          let div := decide (w.holds o.pr ≠ w.exm) || inside
          issue (.ret o) s1 { early := if div then some (stackTrap 4) else none } fun u =>
            if u.w.tryOpen && decide (rest.length < u.w.ck.cdepth) then u.abortTry 7 none
            else (u.setW { u.w with cstk := rest }).enterAt t hw

/-! ## Retirement of lanes (R108, R136) -/

/-- The entries that a warp without an active lane pops until one lets it go on; none: the warp retires. -/
def Warp.popExit (w : Warp) : List REntry → Option Warp
  | [] => none
  | t :: ts =>
    if t.pend ≠ 0 then
      some { w with exm := t.pend, rstk := { t with pend := 0 } :: ts, cstk := w.cstk.drop (w.cstk.length - t.depth)
                    hdr := t.ppc - 8 * BitVec.ofNat 64 t.phoff, hw := t.hw, reread := decide (t.hw = 0), pc := t.ppc }
    else if !t.none && decide (t.split ≠ 0) then
      some { w with exm := t.split, rstk := t :: ts, pc := t.rc, atHead := true }
    else w.popExit ts

/-- Lanes retired. -/
def State.exitLanes (s : State) (lanes : W32) : State :=
  let w := s.w
  let w1 := { w with
    exm := w.exm &&& ~~~lanes
    alive := w.alive &&& ~~~lanes
    rstk := w.rstk.map fun e => { e with pend := e.pend &&& ~~~lanes, split := e.split &&& ~~~lanes } }
  if w1.exm ≠ 0 then (s.setW w1).advance 1
  else match w1.popExit w1.rstk with
    | some w2 => (s.setW w2).fall
    | none => (s.setW { w1 with rstk := [], alive := 0 }).retire s.cur

/-- EXIT. With EXM 0 it still lets the warp go on or retires it (R108, R136), unless its predicate is (!p7), which never acts
(R25). -/
def execExit (o : OpO) (s : State) : Host.Outcome State Fault Refusal :=
  let w := s.w
  tryless (.exit o) o.pr s <| match s.consumes 3 [(.p (o.pr.reg.setWidth 8), 1)] w.exm with
  | some (t, s1) => issue (.exit o) s1 { early := some t } id
  | none =>
    if w.holds o.pr = 0 ∧ (w.exm ≠ 0 ∨ o.pr = { reg := 7, neg := true }) then issue (.exit o) s {} fun u => u.advance 1
    else issue (.exit o) s {} fun u => u.exitLanes (u.w.holds o.pr)

/-! ## NOP and HINT (R111, R112): a hint never has an effect on the architectural state -/

def execNop (o : OpO) (s : State) : Host.Outcome State Fault Refusal := issue (.nop o) s {} fun u => u.advance 1
def execHintNext (o : OpO) (s : State) : Host.Outcome State Fault Refusal := issue (.hintNext o) s {} fun u => u.advance 1
def execHintFar (o : OpO) (s : State) : Host.Outcome State Fault Refusal := issue (.hintFar o) s {} fun u => u.advance 1
def execHintLikely (o : OpO) (s : State) : Host.Outcome State Fault Refusal :=
  issue (.hintLikely o) s {} fun u => u.advance 1
def execHintUnlikely (o : OpO) (s : State) : Host.Outcome State Fault Refusal :=
  issue (.hintUnlikely o) s {} fun u => u.advance 1

end Sys2Proof.Machine
end

