-- ==== Sys2Proof/Machine/System.lean ====
section
/-! DEFINITION. The system instructions (R332 to R343, R347) but for dumps: special registers, software traps and the return
from the handler (R300), program-controlled versions, breakpoints, watchpoints, HALTA and TLBINV. -/

namespace Sys2Proof.Machine

/-! ## Special registers (R9, R334 to R337) -/

/-- The die of a core (R152, R335). -/
def dieOf (cid : Nat) : Nat := cid / Config.coresPerDie

/-- PKG (R335). -/
def pkgOf (cid : Nat) : Nat := Config.rev.toNat * 2 ^ 24 + dieOf cid * 2 ^ 22 + (Config.clusMask (dieOf cid)).toNat

/-- OCNT (R203). -/
def State.ocnt (s : State) (k : Nat) : Nat :=
  s.loads k * 2 ^ 48 + s.stores k * 2 ^ 32 + s.copies k * 2 ^ 16 + s.tiles k

/-- TRYST (R224) and TSKID (R154). -/
def Warp.tryst (w : Warp) : Nat :=
  Bool.n w.tryOpen * 2 ^ 63 + Bool.n w.tryDone * 2 ^ 62 + w.tryCode.toNat * 2 ^ 48 + w.tryUser.toNat * 2 ^ 40 + w.amask.toNat
def Warp.tskid (w : Warp) : Nat := Bool.n w.tskValid * 2 ^ 63 + Bool.n w.tskVers * 2 ^ 62 + w.tskIdx.toNat

/-- What SRD reads of register `f`. -/
def State.sreg (s : State) (f : Nat) : Nat :=
  let w := s.w
  let c := s.core s.cid
  let x := s.ctx w.ctx
  match f with
  | 0 => w.exm.toNat | 1 => w.part.toNat | 2 => w.bnd | 3 => w.vcnt.toNat | 4 => w.flg.toNat
  | 5 => c.tagDone.toNat | 6 => c.tagErr.toNat | 7 => s.ocnt s.cur | 8 => w.tryst | 9 => w.tskid
  | 10 => w.tcause.toNat | 11 => w.taddr.toNat | 12 => w.epc.toNat | 13 => s.clk | 14 => w.seed.toNat
  | 15 => widOf s.cur | 16 => s.cid | 17 => s.did | 18 => pkgOf s.cid
  | 19 => s.lyre.seq.toNat | 20 => s.lyre.dig.toNat
  | 32 => w.rsel
  | 33 => (look 0 x.rbase w.rsel).toNat | 34 => (look 0 x.rlim w.rsel).toNat | 35 => (look 0 x.roff w.rsel).toNat
  | 36 => (look 0 x.rctl w.rsel).toNat | 37 => x.tvec.toNat | 38 => x.spool.toNat | 39 => x.spsz.toNat
  | _ => if 24 ≤ f ∧ f ≤ 31 then look 0 w.lvl (f - 24) else 0

def execSrd (reg : BitVec 6) (o : OpO) (s : State) : Host.Outcome State Fault Refusal :=
  let h := s.w.holds o.pr
  warpWide (.srd reg o) o.pr [] 0x0B s { ready := s.operandsFree (.srd reg o) [o.d] 1 h } fun t =>
    (t.setW (t.w.wideResult h o.d (t.sreg reg.toNat))).advance 1

/-- Bits [11:0] of the page-granular context registers, and the reserved bits of the others, are not held (R190, R298,
R311). -/
def pageBits (x : Word) : Word := x &&& ~~~0xFFF

/-- A write to a context register (R337). -/
def Ctx.write (c : Ctx) (k f : Nat) (x : Word) : Ctx :=
  match f with
  | 33 => { c with rbase := put 0 c.rbase k (pageBits x) }
  | 34 => { c with rlim := put 0 c.rlim k (pageBits x) }
  | 35 => { c with roff := put 0 c.roff k (pageBits x) }
  | 36 => { c with rctl := put 0 c.rctl k (x &&& 0xF0) }
  | 37 => { c with tvec := x &&& ~~~2 }
  | 38 => { c with spool := pageBits x }
  | 39 => { c with spsz := x }
  | _ => c

/-- TCAUSE as software writes it: INH and the reserved bits keep their values (R292). -/
def Warp.writeTcause (w : Warp) (x : Word) : Warp :=
  { w with tcause := (w.tcause &&& 0x40000000) ||| (x.setWidth 32 &&& 0x80FFFFF0) }

/-- A write to register `f` (R136, R137, R139, R143, R58). -/
def State.writeSreg (s : State) (f : Nat) (x : Word) : State :=
  let w := s.w
  match f with
  | 0 => s.setW { w with exm := x.setWidth 32 &&& w.elig }
  | 1 => s.setW { w with part := x.setWidth 8 }
  | 2 => s.setW { w with bnd := x.toNat }
  | 3 => s.setW { w with vcnt := x.setWidth 32 }
  | 4 => s.setW { w with flg := x.setWidth 8 &&& 0x1F }
  | 10 => s.setW (w.writeTcause x)
  | 11 => s.setW { w with taddr := x }
  | 12 => s.setW { w with epc := x }
  | 14 => s.setW { w with seed := x }
  | 32 => s.setW { w with rsel := x.toNat % 16 }
  | _ => s.putCtx w.ctx ((s.ctx w.ctx).write w.rsel f x)

def execSwr (reg : BitVec 6) (o : OpO) (s : State) : Host.Outcome State Fault Refusal :=
  let w := s.w
  let f := reg.toNat
  let x := w.val64 o.a
  let c : Checks :=
    if f = 2 then
      { ready := decide (s.tiles s.cur = 0), late := s.badRange (decide (x = 0) || decide (Nat.min 256 w.rows < x)) }
    else if f = 1 then { early := s.badField (!partOk x) }
    else {}
  let run := warpWide (.swr reg o) o.pr (sSrc o.a) 8 s c fun t => (t.writeSreg f (BitVec.ofNat 64 x)).advance 1
  if f = 2 then tryless (.swr reg o) o.pr s run else run

/-! ## TRAP and RTT (R338, R339, R300) -/

def execTrap (o : OpO) (s : State) : Host.Outcome State Fault Refusal :=
  let t : TrapInfo := { cls := clsSoft, cause := BitVec.ofNat 8 o.a.num }
  let wait := s.handlerWaits t
  warpWide (.trap o) o.pr [] 0x0B s { ready := wait.isNone, sent := wait } fun u => u.takeTrap t (u.w.pc + 8)

/-- Whether an address lies after the header within a block of `n` words. -/
def inBlock (hdr : Word) (n : Nat) (a : Word) : Bool :=
  let d := (a - hdr).toNat
  decide (d % 8 = 0) && decide (0 < d) && decide (d < 8 * n)

/-- What the check of a resume address answers (R300), with the state that its reads leave: inside the block with its header
word, at a header, a trap, or not yet. -/
inductive Resume where
  | inside (hw : Word) (s : State)
  | header (s : State)
  | trap (t : TrapInfo) (s : State)
  | wait (s : State)

/-- An address outside the block checked as a branch target. -/
def State.resumeHeader (s : State) (a : Word) : Resume :=
  match s.target a none false with
  | .wait s1 => .wait s1
  | .trap t s1 => .trap t s1
  | .ok _ s1 => .header s1

/-- The check of an address against the block of a header. -/
def State.resumeAt (s : State) (hdr a : Word) : Resume :=
  match s.fetchWord s.w.ctx hdr with
  | .wait s1 => .wait s1
  | .trap _ s1 => s1.resumeHeader a
  | .word hw s1 => if headerOk hw && inBlock hdr (hdrLen hw) a then .inside hw s1 else s1.resumeHeader a

/-- TSTATE restored (R300). A header of the stack that a restore could not read is read before the next instruction (R105). -/
def Warp.restoreState (w : Warp) : Warp :=
  let t := w.tst
  { (w.setS1 62 t.s62.val t.s62.psn).setS1 63 t.s63.val t.s63.psn with
    exm := t.exm, part := t.part, flg := t.flg, p := t.p, tst := {}
    rstk := w.rstk.drop (w.rstk.length - t.rdepth), cstk := w.cstk.drop (w.cstk.length - t.cdepth)
    reread := w.rstk.any fun e => decide (e.hw = 0)
    tcause := w.tcause &&& ~~~0x40000000 }

def execRtt (o : OpO) (s : State) : Host.Outcome State Fault Refusal :=
  let w := s.w
  if w.tryOpen ∧ (w.tst.rdepth < w.ck.rdepth ∨ w.tst.cdepth < w.ck.cdepth) then
    issue (.rtt o) s {} fun t => t.abortTry 7 none
  else match s.resumeAt w.tst.hdr w.epc with
    | .wait s1 => issue (.rtt o) s { ready := false, sent := some s1 } id
    | .trap t s1 => issue (.rtt o) s1 { early := some t } id
    | .inside hw s1 => issue (.rtt o) s1 {} fun t =>
        t.setW { t.w.restoreState with hdr := w.tst.hdr, hw := hw, pc := w.epc, atHead := false }
    | .header s1 => issue (.rtt o) s1 {} fun t =>
        (t.setW { t.w.restoreState with hdr := w.tst.hdr, pc := w.epc, atHead := true }).fall

/-! ## VBEGIN and VEND (R340) -/

/-- D written and the instruction left behind. -/
def State.statusNext (s : State) (h : W32) (d : Opnd) (ok : Bool) : State := (s.setW (s.w.setStatus h d ok)).advance 1

/-- The version is aged by the TASKGET of its task (R306). -/
def execVbegin (o : OpO) (s : State) : Host.Outcome State Fault Refusal :=
  let w := s.w
  let h := w.holds o.pr
  let may := w.tskValid && !w.tskVers && !w.tryOpen
  warpWide (.vbegin o) o.pr [] 0x0B s { ready := !may || s.freeTag.isSome } fun t =>
    match (if may then t.freeTag else none) with
    | none => t.statusNext h o.d false
    | some v =>
      (({ t with vers := put {} t.vers v { taken := true, warp := t.cur, task := true, age := t.w.tskAge } }).setW
        { t.w with tskVers := true, tskVer := v }).statusNext h o.d true

def execVend (o : OpO) (s : State) : Host.Outcome State Fault Refusal :=
  let w := s.w
  let h := w.holds o.pr
  if !w.tskVers || w.tryOpen || decide (h = 0) then warpWide (.vend o) o.pr [] 0x0B s {} fun t => t.statusNext h o.d false
  else
    let v := w.tskVer
    let s1 := s.releaseL1 s.cur s.cid 4
    let (s2, can) := if s.quiet s.cur then s1.canPublish v s.cid 4 else (s1, false)
    let go := can && s2.released s.cur s.cid 4 s2.nextId
    warpWide (.vend o) o.pr [] 0x0B s2 { ready := go } fun t =>
      let t1 := ((t.publishMem v t.cid fun _ => true).countCtx t.w.ctx 0x10E).dropVersion v
      (t1.setW { t1.w with tskVers := false, tskVer := 0 }).statusNext h o.d true

/-! ## BKPT and WPSET (R341, R342) -/

def execBkpt (o : OpO) (s : State) : Host.Outcome State Fault Refusal :=
  let skip := s.w.skipBk && decide (s.w.skipPc = s.w.pc)
  warpWide (.bkpt o) o.pr [] 0x0B s {} fun t =>
    if skip then t.advance 1
    else if t.w.inh then t.takeTrap { cls := clsDebug, cause := 2 } t.w.pc
    else t.debugStop 2 noHit

def execWpset (o : OpO) (s : State) : Host.Outcome State Fault Refusal :=
  let w := s.w
  let ctl := w.val64 o.b
  warpWide (.wpset o) o.pr [(o.a, 2), (o.b, 2)] 8 s { early := s.badField (decide (255 < ctl) || decide (20 < ctl % 32)) }
    fun t => (t.setW { t.w with wp := put {} t.w.wp o.d.num { addr := BitVec.ofNat 64 (w.val64 o.a), ctl := BitVec.ofNat 8 ctl } }).advance 1

/-! ## HALTA (R343) -/

/-- A HALT-REQUEST to a warp: one that waits at a barrier, a back-off, a YIELD or a SIGWAIT stops where it waits; any other
stops at its next boundary, or after its RTT. -/
def State.haltTarget (s : State) (k : Nat) : State :=
  let w := s.warp k
  if w.status ≠ .run then s
  else
    let held : Bool := match w.wait with
      | .barrier _ _ _ _ _ => true | .backoff _ => true | .yield _ _ => true | .sigwait _ _ _ _ _ _ _ => true
      | _ => false
    if held && !w.inh && w.deferred.isEmpty && !w.ueHalt then s.asWarp k fun t => t.debugStop 3 noHit
    else s.putWarp k { w with haltReq := true }

/-- The warps that a HALTA names: every other warp of the unit. -/
def State.haltaTargets (s : State) (lvl : Nat) : List Nat :=
  if lvl = 0 then []
  else ((s.unitWarps s.w.launch lvl (s.unitOf s.w lvl)).map (·.1)).filter fun k => decide (k ≠ s.cur)

def execHalta (o : OpO) (s : State) : Host.Outcome State Fault Refusal :=
  let h := s.w.holds o.pr
  let lvl := bits o.m.toNat 5 3
  warpWide (.halta o) o.pr [] 0x0B s {} fun t =>
    let ts := t.haltaTargets lvl
    if ts = [] then t.statusNext h o.d true
    else
      let t1 := ts.foldl (fun (u : State) k => u.haltTarget k) t
      t1.setW { t1.w with wait := .halta (ts.map fun k => ((t.warp k).blk, (t.warp k).lin)) o.d h }

/-- The warp of a block at a linear index, wherever it stands: resident, or saved with its block. -/
def State.warpIn (s : State) (blk lin : Nat) : Option Warp :=
  match s.warps.find? fun e => decide (e.1 < 2 ^ 20) && decide (e.2.status ≠ .absent) && decide (e.2.blk = blk) && decide (e.2.lin = lin) with
  | some e => some e.2
  | none => (s.block blk).warps.find? fun w => decide (w.lin = lin)

/-- A HALTA's wait over: every target has stopped, halted, retired or entered its handler. -/
def State.endHalta (s : State) : State :=
  let w := s.w
  match w.wait with
  | .halta ts d mask =>
    let runs := ((ts.filterMap fun e => s.warpIn e.1 e.2)).filter fun x => decide (x.status = .run)
    if runs.all (·.inh) then
      (s.setW { w with wait := .none, ready0 := s.clk }).statusNext mask d runs.isEmpty
    else s
  | _ => s

/-! ## TLBINV (R347) -/

def execTlbinv (o : OpO) (s : State) : Host.Outcome State Fault Refusal :=
  let w := s.w
  let page := bits (w.val64 o.a) 55 21
  let n := w.val64 o.b
  let acc : Acc := { lane := 0, va := 0, loc := .miss false, n := 1 }
  warpWide (.tlbinv o) o.pr ((o.a, 2) :: sSrc o.b) 8 s
    { early := s.badField (decide (2 ^ 20 < n)), ready := s.roomFor false [] } fun t =>
      (t.pushOp { noOp with kind := if n = 0 then .tlbinv 0 (2 ^ 35) 0 else .tlbinv page n 0, accs := [acc] }).advance 1

end Sys2Proof.Machine
end

