-- ==== Sys2Proof/Machine/Zither.lean ====
section
/-! DEFINITION. The name router: homes of tile names (R374), the tile store (R375, R376), pending interests (R377), arrival
and delivery (R378), expiry (R379), the move of homes (R380) and the effects of a router that is not ready (R432). -/

namespace Sys2Proof.Machine

/-! ## Homes (R374) -/

/-- h of R374. -/
def tileHash (n : TileName) : Nat :=
  let m := 2 ^ 32
  Nat.xor (Nat.xor n.t.toNat (n.i.toNat * 0x9E3779B9 % m)) (Nat.xor (n.n.toNat * 0x85EBCA6B % m) (n.x.toNat * 0x10001 % m)) % m

/-- The DID of a row of the device table: the pod's DIDs share the bits above the row number (DEDUCED, log 25). -/
def State.didOf (s : State) (row : Nat) : Nat := s.did / 4096 * 4096 + row

/-- The live devices of the pod in increasing DID. -/
def LyreTables.live (t : LyreTables) : List Nat := (t.dev.filter fun e => decide (e.2.state = .live)).map (·.1)

/-- The home under a list of live rows; a device whose Lyre knows no live device is its own home (DEDUCED, log 25). -/
def State.homeIn (s : State) (live : List Nat) (n : TileName) : Nat :=
  if live = [] then s.did else s.didOf (nth 0 live (tileHash n % live.length))

def State.homeOf (s : State) (n : TileName) : Nat := s.homeIn s.zith.live n

def State.zithReady (s : State) : Bool := s.mgmt.ready.any fun f => decide (f = .zith)

/-! ## The pending-interest table (R375, R377) -/

def State.pitOf (s : State) (n : TileName) : Option PitEntry := s.zith.pit.find? fun e => decide (e.name = n)

/-- An entry written; one without waiters goes. -/
def State.putPit (s : State) (e : PitEntry) : State :=
  let pit := if s.zith.pit.any fun x => decide (x.name = e.name) then
      s.zith.pit.map fun x => if x.name = e.name then e else x
    else s.zith.pit ++ [e]
  { s with zith := { s.zith with pit := pit.filter fun x => !(x.waiters.isEmpty && x.remote.isEmpty) } }

/-- Whether the table takes one more entry: for this device's interests, but for the entries kept for others. An entry of which
every record has expired is in it no more (R379). -/
def State.pitRoom (s : State) (mine : Bool) : Bool :=
  let own (e : PitEntry) : Bool := !e.waiters.isEmpty
  decide ((s.zith.pit.filter fun e => own e || e.remote.any fun r => decide (s.atime < r.2.1)).length < Config.pitEntries) &&
    (!mine || decide ((s.zith.pit.filter own).length < Config.pitEntries - Config.pitForwarded))

/-! ## The tile store (R375, R376) -/

def State.tileOf (s : State) (n : TileName) : Option Tile := s.zith.store.find? fun t => decide (t.name = n)

/-- The tile used most recently. -/
def State.touchTile (s : State) (n : TileName) : State :=
  let st := s.zith.store
  { s with zith := { s.zith with store := (st.filter fun t => decide (t.name ≠ n)) ++ st.filter fun t => decide (t.name = n) } }

/-- Tiles replaced, least recently used first, until `need` lines are free; a tile with waiters stays. The tiles left, and
the lines still wanted. -/
def evictTiles (pinned : TileName → Bool) : List Tile → Nat → List Tile × Nat
  | [], need => ([], need)
  | t :: ts, need =>
    if need = 0 then (t :: ts, 0)
    else if pinned t.name then let r := evictTiles pinned ts need; (t :: r.1, r.2)
    else evictTiles pinned ts (need - t.size)

/-- The tile stored, in place of one of its name; false where the store cannot take it. -/
def State.storeTile (s : State) (t : Tile) : State × Bool :=
  let st := s.zith.store.filter fun x => decide (x.name ≠ t.name)
  let used := sumOf (·.size) st
  let r := evictTiles (fun n => (s.pitOf n).isSome) st (used + t.size - Config.tileLines)
  if r.2 = 0 then ({ s with zith := { s.zith with store := r.1 ++ [t] } }, true)
  else ({ s with zith := { s.zith with passed := s.zith.passed + 1 } }, false)

/-! ## Delivery (R378, R379) -/

/-- The bytes and the mark of sector `j` of a tile. -/
def Tile.sector (t : Tile) (j : Nat) : List Byte × Origin :=
  ((nth [] t.lines (j / 8)).drop (16 * (j % 8)) |>.take 16, nth .none (nth [] t.marks (j / 8)) (j % 8))

def fullSec (bs : List Byte) (o : Origin) : SecW :=
  { val := ofBytes bs, mask := 2 ^ 128 - 1, pmask := if o = .none then 0 else 2 ^ 128 - 1, psn := o }

/-- Every destination sector of a command written, sector `j` with `f j`. -/
def State.writeDst (s : State) (c : Cmd) (f : Nat → SecW) : State :=
  c.dst.zipIdx.foldl (fun (t : State) e => (t.writeSec c e.1.1 e.1.2 (f e.2)).1) s

/-- An interest that fails with a cause: its lines poisoned, its command complete; false while its lines are not free yet,
the cause kept with the command. -/
def State.failInterest (s : State) (c : Cmd) (err : Nat) : State × Bool :=
  match s.dstFree c with
  | (s1, false) => (s1.putCmd { c with err := err }, false)
  | (s1, true) =>
    let s2 := if err = 0x0B then s1.count 0x18 else s1
    ((s2.writeDst c fun _ => fullSec zeros16 .interestExpired).finishCmd c err 0 0, true)

/-- A tag's last setting noted as a named-tile delivery without error (R398). -/
def State.noteName (s : State) (cid : Nat) (tag : Option Nat) : State :=
  match tag with
  | some g => let k := s.core cid; s.putCore cid { k with tagName := k.tagName ||| (1 <<< g) }
  | none => s

/-- One waiter served with a tile; false while its lines are not free yet. -/
def State.serveWaiter (s : State) (c : Cmd) (size : Nat) (t : Tile) : State × Bool :=
  if size ≠ t.size then
    match s.failInterest c 8 with
    | (s1, _) => (s1, true)
  else match s.dstFree c with
    | (s1, false) => (s1, false)
    | (s1, true) =>
      let s2 := s1.writeDst c fun j => let x := t.sector j; fullSec x.1 x.2
      ((s2.finishCmd c 0 0 0).noteName c.core c.tag, true)

/-- The size that an interest asks for and its deadline. -/
def Cmd.asks (c : Cmd) : Nat × Nat :=
  match c.kind with
  | .interest _ size dl => (size, dl)
  | _ => (0, 0)

/-- The waiters of an entry served in join order, up to the first whose lines are not free. -/
def State.serveAll (s : State) (t : Tile) : List (Nat × Nat) → State × List (Nat × Nat)
  | [] => (s, [])
  | w :: ws =>
    match s.cmd w.1 with
    | none => s.serveAll t ws
    | some c =>
      match s.serveWaiter c c.asks.1 t with
      | (s1, true) => s1.serveAll t ws
      | (s1, false) => (s1, w :: ws)

/-- This device's waiters of a name served with its tile. -/
def State.serveLocal (s : State) (t : Tile) : State :=
  match s.pitOf t.name with
  | none => s
  | some e =>
    let (s1, left) := s.serveAll t e.waiters
    s1.putPit { e with waiters := left }

/-- A waiter with the tile that it is to write once its lines are free. -/
def Cmd.given (c : Cmd) (t : Tile) : Cmd :=
  { c with src := (List.range (8 * t.size)).map fun j => { key := j, loc := .miss false, got := some (t.sector j) } }

/-- The tile handed to waiters whose lines are not free: what passes through is not kept. -/
def State.handOver (s : State) (t : Tile) : State :=
  match s.pitOf t.name with
  | none => s
  | some e =>
    let s1 := e.waiters.foldl (fun (u : State) w => match u.cmd w.1 with
      | some c => u.putCmd (c.given t)
      | none => u) s
    s1.putPit { e with waiters := [] }

/-- The waiters of a name whose deadline has come expire, unless its tile is here (R379); records kept for other devices
go with theirs. -/
def State.expireName (s : State) (n : TileName) : State :=
  match s.pitOf n with
  | none => s
  | some e =>
    if (s.tileOf n).isSome then s
    else
      let due := e.waiters.filter fun w => decide (w.2 ≤ s.atime)
      let s1 := s.putPit { e with waiters := e.waiters.filter fun w => decide (s.atime < w.2)
                                  remote := e.remote.filter fun r => decide (s.atime < r.2.1) }
      due.foldl (fun (t : State) w => match t.cmd w.1 with
        | some c => (t.failInterest c 0x0B).1
        | none => t) s1

/-! ## Arrival (R376, R378) -/

/-- The TILE packets that carry a tile to a device, line 0 sent first. -/
def State.sendTile (s : State) (dev : Nat) (t : Tile) : State :=
  { s with outbox := ((List.range t.size).map fun i =>
      Packet.tile dev t.name t.size i (nth [] t.marks i) (nth [] t.lines i)).reverse ++ s.outbox }

/-- A tile that has reached this device: stored or passed through, its waiters served, and, at its home, sent to every
other device that waits for it, but for `src`. -/
def State.tileHere (s : State) (t : Tile) (src : Nat) : State :=
  let s0 := s.expireName t.name
  let (s1, kept) := s0.storeTile t
  let s2 := s1.serveLocal t
  let s3 := if kept then s2 else s2.handOver t
  if !t.home then s3
  else match s3.pitOf t.name with
    | none => s3
    | some e =>
      let s4 := (e.remote.filter fun r => decide (r.1 ≠ src)).foldl (fun (u : State) r => u.sendTile r.1 t) s3
      s4.putPit { e with remote := [] }

/-- The tile that an ANNOUNCE read at its issue (R378). -/
def Cmd.tile (c : Cmd) (name : TileName) (size : Nat) (home : Bool) : Tile :=
  let secs := c.src.map fun e => e.got.getD (zeros16, .none)
  { name := name, size := size, home := home
    lines := (List.range size).map fun i => ((secs.drop (8 * i)).take 8).flatMap (·.1)
    marks := (List.range size).map fun i => ((secs.drop (8 * i)).take 8).map (·.2) }

/-- An announced tile at its home on this device: refused where a tile of the name stands (R375). -/
def State.announceHome (s : State) (c : Cmd) (name : TileName) (size : Nat) : State :=
  if (s.tileOf name).isSome then s.finishCmd c 7 0 0
  else (s.tileHere (c.tile name size true) s.did).finishCmd c 0 0 0

/-- An announced tile published (R378): at its home, or stored here, delivered here and sent there. -/
def State.publishTile (s : State) (c : Cmd) (name : TileName) (size : Nat) : State :=
  let home := s.homeOf name
  if home = s.did then (if (s.tileOf name).isSome then s else s.countCtx c.ctx 0x10A).announceHome c name size
  else
    let t := c.tile name size false
    (((s.tileHere t s.did).sendTile home t).countCtx c.ctx 0x10A).putCmd { c with kind := .announce name size true }

/-- An ANNOUNCE goes on (R378, R398): published once its source has been read and the release that it is has nothing left
to wait for. -/
def State.runAnnounce (s : State) (id : Nat) : State :=
  match s.cmd id with
  | some c => match c.kind with
    | .announce name size false =>
      if !s.zithReady then s.finishCmd c Config.noZithCause 0 0
      else
        let s1 := s.fillCmd id
        match s1.cmd id with
        | some c1 =>
          if c1.unread then s1
          else
            let s2 := s1.releaseL1 c1.warp c1.core 6
            if s2.released c1.warp c1.core 6 id then s2.publishTile c1 name size else s2
        | none => s1
    | _ => s
  | none => s

/-- The home's answer to an announced tile (R406). -/
def State.announceAnswered (s : State) (name : TileName) (stored : Bool) : State :=
  match s.cmds.find? fun c => match c.kind with | .announce n _ true => decide (n = name) | _ => false with
  | some c => s.finishCmd c (if stored then 0 else 7) 0 0
  | none => s

/-! ## Interests (R377) -/

def State.sendInterest (s : State) (dev : Nat) (n : TileName) (size dl : Nat) : State :=
  { s.count 0x17 with outbox := .interest dev n size dl :: s.outbox }

/-- An interest of this device taken on the first path that applies; `instant`: its lifetime is 0. -/
def State.takeInterest (s : State) (id : Nat) (instant : Bool) : State :=
  match s.cmd id with
  | none => s
  | some c => match c.kind with
    | .interest name size dl =>
      let home := s.homeOf name
      let fwd (e : PitEntry) (t : State) : State :=
        if home ≠ t.did ∧ e.fwd < dl then (t.putPit { e with fwd := dl }).sendInterest home name size dl else t.putPit e
      if !s.zithReady then (s.failInterest c 0x0B).1
      else match s.tileOf name, s.pitOf name with
        | some t, some e => (((s.count 0x16).touchTile name).putPit { e with waiters := e.waiters ++ [(id, dl)] }).serveLocal t
        | some t, none =>
          match ((s.count 0x16).touchTile name).serveWaiter c size t with
          | (s1, true) => s1
          | (s1, false) => s1.putCmd (c.given t)
        | none, pit =>
          if instant then (s.failInterest c 0x0B).1
          else match pit with
            | some e => fwd { e with waiters := e.waiters ++ [(id, dl)] } s
            | none =>
              if s.pitRoom true then fwd { name := name, waiters := [(id, dl)] } s
              else { s with zith := { s.zith with waitTable := s.zith.waitTable ++ [id] } }
    | _ => s

/-- Whether an earlier interest of the same name is held by the full table. -/
def State.heldBefore (s : State) (id : Nat) (n : TileName) : Bool :=
  s.zith.waitTable.any fun j => decide (j < id) && (match s.cmd j with
    | some c => (match c.kind with | .interest m _ _ => decide (m = n) | _ => false)
    | none => false)

/-- A retry (R377): an interest held by the full table tried again, in order of issue among those of its name. -/
def State.retryInterest (s : State) (id : Nat) : State :=
  match s.cmd id with
  | some c => match c.kind with
    | .interest name _ dl =>
      if !s.zith.waitTable.contains id || s.heldBefore id name || decide (dl ≤ s.atime) then s
      else ({ s with zith := { s.zith with waitTable := s.zith.waitTable.filter fun j => decide (j ≠ id) } }).takeInterest id false
    | _ => s
  | none => s

def execInterestRetry (id : Nat) (s : State) : Host.Outcome State Fault Refusal := .next (s.retryInterest id)

/-- A waiter's deadline come while its tile has not (R379). -/
def State.expireWaiter (s : State) (id : Nat) : State :=
  match s.cmd id with
  | some c => match c.kind with
    | .interest name _ dl =>
      if s.atime < dl ∨ (s.tileOf name).isSome ∨ c.err ≠ 0 ∨ c.src ≠ [] then s
      else if s.zith.waitTable.contains id then
        (({ s with zith := { s.zith with waitTable := s.zith.waitTable.filter fun j => decide (j ≠ id) } }).failInterest c 0x0B).1
      else match s.pitOf name with
        | some e =>
          if e.waiters.any fun w => decide (w.1 = id) then
            ((s.putPit { e with waiters := e.waiters.filter fun w => decide (w.1 ≠ id) }).failInterest c 0x0B).1
          else s
        | none => s
    | _ => s
  | none => s

def execWaiterExpiry (id : Nat) (s : State) : Host.Outcome State Fault Refusal := .next (s.expireWaiter id)

/-- An interest that waits for its lines completes when they are free. -/
def State.runInterest (s : State) (id : Nat) : State :=
  match s.cmd id with
  | some c => match c.kind with
    | .interest name size _ =>
      if c.err ≠ 0 then (s.failInterest c c.err).1
      else if c.src ≠ [] then
        let secs := c.src.map fun e => e.got.getD (zeros16, .none)
        let t : Tile := { name := name, size := c.src.length / 8, home := false
                          lines := (List.range (c.src.length / 8)).map fun i => ((secs.drop (8 * i)).take 8).flatMap (·.1)
                          marks := (List.range (c.src.length / 8)).map fun i => ((secs.drop (8 * i)).take 8).map (·.2) }
        (s.serveWaiter c size t).1
      else match s.tileOf name with
        | some t => s.serveLocal t
        | none => s
    | _ => s
  | none => s

/-! ## Packets -/

/-- An interest forwarded to this device as a name's home: served from the store, or kept, one record for each device with
its latest deadline. A full table keeps nothing: the requester tries again. -/
def State.interestPacket (s : State) (src : Nat) (n : TileName) (size dl : Nat) : State :=
  match s.tileOf n with
  | some t => ((s.count 0x16).touchTile n).sendTile src t
  | none =>
    match s.pitOf n with
    | some e =>
      let old := e.remote.find? fun r => decide (r.1 = src)
      let r := match old with | some x => (src, Nat.max x.2.1 dl, size) | none => (src, dl, size)
      s.putPit { e with remote := (e.remote.filter fun x => decide (x.1 ≠ src)) ++ [r] }
    | none => if s.pitRoom false then s.putPit { name := n, remote := [(src, dl, size)] } else s

def execInterestPacket (src : Nat) (name : TileName) (size dl : Nat) (s : State) : Host.Outcome State Fault Refusal :=
  .next (if s.zithReady then s.interestPacket src name size dl else s)

/-- A whole tile from another device: at its home it is taken or refused, and the sender answered. -/
def State.tileArrived (s : State) (t : Tile) (src : Nat) : State :=
  let answer (u : State) (ok : Bool) : State :=
    { u with outbox := .response src (tileHash t.name % 16) { req := 0, ans := .named t.name ok } :: u.outbox }
  if s.homeOf t.name = s.did then
    if (s.tileOf t.name).isSome then answer s false
    else answer (s.tileHere { t with home := true } src) true
  else s.tileHere t src

/-- One line of a tile received; the tile arrives with its last line. -/
def State.tileLine (s : State) (src : Nat) (n : TileName) (size idx : Nat) (marks : List Origin) (data : List Byte) : State :=
  let same (a : Arriving) : Bool := decide (a.name = n) && decide (a.src = src) && decide (a.size = size)
  let a := (s.zith.arriving.find? same).getD { name := n, src := src, size := size }
  let a1 : Arriving := { a with lines := put ([], []) a.lines idx (data, marks) }
  let rest := s.zith.arriving.filter fun x => !same x
  let ls := a1.lines.map fun e => e.2.1
  let ms := a1.lines.map fun e => e.2.2
  if a1.lines.length = size then
    ({ s with zith := { s.zith with arriving := rest } }).tileArrived
      { name := n, size := size, home := false, lines := ls, marks := ms } src
  else { s with zith := { s.zith with arriving := rest ++ [a1] } }

def execTilePkt (src : Nat) (name : TileName) (size idx : Nat) (marks : List Origin) (data : List Byte) (s : State) :
    Host.Outcome State Fault Refusal :=
  .next (if s.zithReady && decide (idx < size) then s.tileLine src name size idx marks data else s)

/-! ## A list of live devices that changes (R380) -/

/-- The entry of a name whose home has moved: other devices' records dropped by the old home, this device's interests sent
again. -/
def State.rehomeEntry (s : State) (old : List Nat) (e0 : PitEntry) : State :=
  let home := s.homeOf e0.name
  let e := if s.homeIn old e0.name = s.did then { e0 with remote := [] } else e0
  let dl := maxOf (fun w => w.2) e.waiters
  let size := match e.waiters with
    | w :: _ => (match s.cmd w.1 with | some c => c.asks.1 | none => 0)
    | [] => 0
  if e.waiters = [] ∨ home = s.did then s.putPit e
  else (s.putPit { e with fwd := dl }).sendInterest home e.name size dl

/-- The records of devices that are live no more. -/
def State.dropLostWaiters (s : State) (old : List Nat) : State :=
  let gone := (old.filter fun d => !s.zith.live.contains d).map s.didOf
  s.zith.pit.foldl (fun (t : State) e => t.putPit { e with remote := e.remote.filter fun r => !gone.contains r.1 }) s

/-- A tile announced here that no home has stored or refused, sent to the new home. -/
def State.rehomeAnnounce (s : State) (c : Cmd) : State :=
  match c.kind with
  | .announce name size true =>
    if s.homeOf name = s.did then
      -- the copy kept here as producer is not the home's copy
      ({ s with zith := { s.zith with store := s.zith.store.filter fun t => decide (t.name ≠ name) || t.home } }).announceHome c
        name size
    else s.sendTile (s.homeOf name) (c.tile name size false)
  | _ => s

/-- The name router after an event that changed the list of live devices from `old`. -/
def State.rehome (s : State) (old : List Nat) : State :=
  let moved (n : TileName) : Bool := decide (s.homeIn old n ≠ s.homeOf n)
  let s0 := s.dropLostWaiters old
  let s1 := (s0.zith.pit.filter fun e => moved e.name).foldl (fun (t : State) e => t.rehomeEntry old e) s0
  let gone := s1.zith.store.filter fun t => decide (s1.homeIn old t.name = s1.did) && moved t.name
  let s2 := gone.foldl (fun (t : State) x => t.sendTile (t.homeOf x.name) x) s1
  let st := s2.zith.store.map fun t => if gone.contains t then { t with home := false } else t
  let s3 := { s2 with zith := { s2.zith with store := st } }
  (s3.cmds.filter fun c => match c.kind with | .announce n _ true => moved n | _ => false).foldl
    (fun (t : State) c => t.rehomeAnnounce c) s3

/-- A name router that fails (R432): what it held of this device's commands completes at once with err 1. -/
def State.zithFail (s : State) : State :=
  let s1 := { s with zith := { s.zith with pit := [], waitTable := [], arriving := [] } }
  s1.cmds.foldl (fun (t : State) c => match c.kind with
    | .interest _ _ _ => (t.failInterest c 0x0B).1
    | .announce _ _ _ => t.finishCmd c Config.noZithCause 0 0
    | _ => t) s1

end Sys2Proof.Machine
end

