-- ==== Sys2Proof/Machine/Multi.lean ====
section
/-! DEFINITION. The instructions that act beyond the device (R403 to R418): interests and announcements, lease requests and
returns, SIGNAL and SIGWAIT, the exact sums, events and the digest. -/

namespace Sys2Proof.Machine

/-! ## Posts (R381, R391, R432) -/

/-- Whether a function has reported ready (R431). -/
def State.isReady (s : State) (f : Function) : Bool := s.mgmt.ready.any fun g => decide (g = f)

/-- Whether the device sends its posts: its Lyre is ready and RUNNING. -/
def State.posting (s : State) : Bool := s.isReady .lyre && decide (s.lyre.mode = .running)

/-- An event that this device posts: its type, ORIGIN and body words. -/
def State.event (s : State) (ty : Nat) (w3 w4 : Nat) (w5 w6 w7 : Word) : Rec8 :=
  { w1 := BitVec.ofNat 64 (ty * 2 ^ 56 + s.did * 2 ^ 38), w3 := BitVec.ofNat 64 w3, w4 := BitVec.ofNat 64 w4, w5 := w5, w6 := w6
    w7 := w7 }

/-- An event posted: sent to the Harp, or held while the device is fenced or rejoins (R391; DEDUCED for posts other than
EVPOST, log 26). -/
def State.post (s : State) (ev : Rec8) : State :=
  if s.posting then { s with outbox := .post ev :: s.outbox }
  else { s with lyre := { s.lyre with held := s.lyre.held ++ [ev] } }

/-! ## Record words written at completion (R408, R417) -/

/-- The sectors of a record from byte `lo` to byte `hi`, as destinations. -/
def State.recDsts (s : State) (rec_ lo hi : Nat) : List (Nat × Loc) :=
  s.memDsts (runKeys (8 * (rec_ + lo)) (8 * (hi - lo)))

/-- Whether a command's destinations can all be written: each translates, and its line can be reached; a failure of the memory
side is logged (R198). -/
def State.canWrite (s : State) (c : Cmd) : State × Bool :=
  c.dst.foldl (fun (t, ok) e => match e.2 with
    | .mem ia => (match (t.prepare (.by .store c.ctx) ia).2 with
      | .fail f => (t.logFault ia (BitVec.ofNat 64 (16 * e.1)) c.ctx f, false)
      | _ => (t, ok))
    | .miss _ => (t, false)
    | .spad _ _ => (t, ok)) (s, true)

/-- The words of a command's answer written to its record and the command complete; where one cannot be written the record
stays as it is and the cause is RECORD-WRITE. -/
def State.runAnswer (s : State) (id : Nat) : State :=
  match s.cmd id with
  | some c => match c.kind with
    | .answer err ws =>
      match s.dstFree c with
      | (s1, false) => s1
      | (s1, true) =>
        match s1.canWrite c with
        | (s2, false) => s2.finishCmd c 0x0C 0 0
        | (s2, true) =>
          let m := layElems (ws.map fun w => { idx := 0, at_ := 8 * w.1, n := 64, val := w.2.toNat : ElemW })
          (c.dst.foldl (fun (t : State) e =>
            let x := look {} m e.1
            if x.mask = 0 then t else (t.writeSec c e.1 e.2 x).1) s2).finishCmd c err 0 0
    | _ => s
  | none => s

/-- A command that has nothing left to do completes. -/
def State.runDone (s : State) (id : Nat) : State :=
  match s.cmd id with
  | some c => match c.kind with
    | .done => s.finishCmd c c.err c.first c.nfail
    | .answer _ _ => s.runAnswer id
    | _ => s
  | none => s

/-- The answer of a lease request: GSEQ, OK and LID. -/
def State.answerLease (s : State) (c : Cmd) (gseq lid : Nat) (ok : Bool) : State :=
  let r := c.rec_.toNat
  let ws : List (Nat × Word) := [(r + 0x30, BitVec.ofNat 64 gseq), (r + 0x38, BitVec.ofNat 64 (Bool.n ok * 2 ^ 63 + lid))]
  (s.putCmd { c with kind := .answer (if ok then 0 else 9) ws }).runAnswer c.id

/-! ## INTEREST and ANNOUNCE (R405, R406) -/

def State.tileName (s : State) (a b : Nat) : TileName :=
  { t := BitVec.ofNat 32 (a / 2 ^ 32), i := BitVec.ofNat 32 a, n := BitVec.ofNat 32 (b / 2 ^ 32), x := BitVec.ofNat 16 s.w.ctx }

/-- The checks of R405. `badLow`: what B[31:0] may not be. -/
def State.nameChecks (s : State) (c : Nat) (badLow : Bool) :
    List (Option TrapInfo) × List (Option TrapInfo) :=
  let size := bits c 47 32
  let d := bits c 31 0
  ([s.badField (badLow || decide (size = 0) || decide (512 < size) || decide (bits c 63 48 ≠ 0)), misalign d 128],
   [if !s.formIn s.w s.cid (d % 2 ^ 24) (128 * size) then formErr 3 d else none,
    if 2 ^ 24 ≤ d then formErr 4 d else none])

/-- A command that may not issue yet in a revocable task (R306, R404) or behind an acquire (R401), else put in flight. -/
def State.planPlain (s : State) (c : Cmd) : Plan :=
  match s.taskStall with
  | some s1 => .wait s1
  | none => if (s.warpOps s.cur).any (·.acq) then .wait s else .go s c

/-- The same for a command with memory destinations. -/
def State.planDest (s : State) (c : Cmd) : Plan :=
  match s.taskStall with
  | some s1 => .wait s1
  | none => s.planOwn c

def execInterest (o : OpO) (s : State) : Host.Outcome State Fault Refusal :=
  let w := s.w
  let a := w.val64 o.a
  let b := w.val64 o.b
  let c := w.val64 o.c
  let life := bits b 31 0
  let (early, late) := s.nameChecks c (decide (1000000 < life))
  engIssueThen (.interest o) o.pr (sSrc o.d ++ [(o.a, 2), (o.b, 2), (o.c, 2)]) (s.badField (w.badTag o.d) :: early) late false
    (fun t => t.planPlain
      { opc := 0xD0, tag := some (w.val64 o.d), kind := .interest (t.tileName a b) (bits c 47 32) (t.atime + 1000 * life)
        dst := t.spadLocs w t.cid (bits c 31 0) 0 (128 * bits c 47 32) })
    (fun t id => (t.countCtx t.w.ctx 0x109).takeInterest id (decide (life = 0))) s

def execAnnounce (o : OpO) (s : State) : Host.Outcome State Fault Refusal :=
  let w := s.w
  let a := w.val64 o.a
  let b := w.val64 o.b
  let c := w.val64 o.c
  let (early, late) := s.nameChecks c (decide (bits b 31 0 ≠ 0))
  engIssueThen (.announce o) o.pr (sSrc o.d ++ [(o.a, 2), (o.b, 2), (o.c, 2)]) (s.badField (w.badTag o.d) :: early) late false
    (fun t => t.planPlain
      { opc := 0xD1, tag := some (w.val64 o.d), kind := .announce (t.tileName a b) (bits c 47 32) false
        src := t.spadSrcs w t.cid (bits c 31 0) 0 (128 * bits c 47 32) })
    (fun t id => t.runAnnounce id) s

/-! ## LEASEREQ and LEASERET (R407 to R409) -/

/-- A device that the local Lyre's device table holds LIVE. -/
def State.liveDev (s : State) (d : Nat) : Bool :=
  decide (d / 4096 = s.did / 4096) && decide ((look {} s.lyre.t.dev (d % 4096)).state = .live)

/-- The request that a record holds: lender, bound, pages, term, and the IAs of FBTAB and BBASE; none where a field breaks
its rule (R407). -/
def State.leaseFields (s : State) (bs : List Byte) : Option (Nat × Nat × Nat × Nat × Nat × Nat) :=
  let q := recWord bs
  let lender := bits (q 0) 63 46
  let bound := bits (q 0) 45 40
  let np := bits (q 0) 39 20
  let ia (va : Nat) : Option Nat := match (s.ctx s.w.ctx).translate {} (BitVec.ofNat 64 va) with | .ok x => some x | _ => none
  if bound = 0 ∨ 50 < bound ∨ np = 0 ∨ bits (q 0) 19 0 ≠ 0 ∨ q 1 = 0 ∨ q 2 % 8 ≠ 0 ∨ q 3 % 2 ^ 21 ≠ 0 ∨ q 4 ≠ 0 ∨ q 5 ≠ 0 then none
  else if lender = s.did ∨ ¬ s.liveDev lender then none
  else match ia (q 2), ia (q 3) with
    | some f, some b => some (lender, bound, np, q 1, f, b)
    | _, _ => none

/-- A lease request sent to its lender (R356). -/
def State.sendLease (s : State) (id term : Nat) : State :=
  match s.cmd id with
  | some c => match c.kind with
    | .leasereq tag lender bound np f b =>
      { s with leng := { s.leng with nextTag := (s.leng.nextTag + 1) % 2 ^ 16 }
               outbox := .leasereq lender tag bound np term (BitVec.ofNat 64 f) (BitVec.ofNat 64 b) :: s.outbox }
    | _ => s.runDone id
  | none => s

def execLeasereq (o : OpO) (s : State) : Host.Outcome State Fault Refusal :=
  let w := s.w
  let a := w.val64 o.a
  let base : Cmd := { opc := 0xD2, tag := some (w.val64 o.d), kind := .done, rec_ := BitVec.ofNat 64 a }
  let term := match s.readRec a 64 with | .ok _ bs => recWord bs 1 | _ => 0
  engIssueThen (.leasereq o) o.pr (sSrc o.d ++ [(o.a, 2)]) [s.badField (w.badTag o.d), misalign a 64] [s.recRange a] false
    (fun t => match t.readRec a 64 with
      | .wait s1 => .wait s1
      | .bad s1 => s1.planPlain { base with err := 1 }
      | .ok s1 bs =>
        match s1.leaseFields bs with
        | none => s1.planPlain { base with err := 2 }
        | some (lender, bound, np, _, f, b) =>
          let dst := s1.recDsts a 0x30 0x40
          if s1.isReady .lease then
            s1.planDest { base with kind := .leasereq s1.leng.nextTag lender bound np f b, dst := dst }
          else
            s1.planDest { base with kind := .answer 9 [(a + 0x30, 0), (a + 0x38, 0)], dst := dst })
    (fun t id => t.sendLease id term) s

def State.leaseRow (s : State) (lid : Nat) : LeaseRow := look {} s.lyre.t.lease lid

def execLeaseret (o : OpO) (s : State) : Host.Outcome State Fault Refusal :=
  let w := s.w
  let a := w.val64 o.a
  let g := w.val64 o.b
  let r := s.leaseRow (a % 1024)
  let mine := decide (r.state = .granted) && decide (r.gseq = g) && decide (r.borrower = s.did)
  let base : Cmd := { opc := 0xD3, tag := some (w.val64 o.d), kind := .done, err := 9 }
  engIssueThen (.leaseret o) o.pr (sSrc o.d ++ [(o.a, 2), (o.b, 2)]) [s.badField (w.badTag o.d || decide (1023 < a))] [] false
    (fun t => t.planPlain (if mine then { base with kind := .leaseret a g, err := 0 } else base))
    (fun t id => if mine then t.post (t.event 0x0B a g 0 0 0) else t.runDone id) s

/-! ## SIGNAL and the exact-sum steps (R410, R413) -/

def execSignal (o : OpO) (s : State) : Host.Outcome State Fault Refusal :=
  rmwIssue (.signal o) o.pr { op := .add, wide := true, addr := o.a, b := o.b, once := true, ctl := o.c.num } s

/-- XSCALE and XSUM: once for the warp where neither operand is a vector. -/
def sumStep (i : Instr) (o : OpO) (op : RmwOp) (s : State) : Host.Outcome State Fault Refusal :=
  rmwIssue i o.pr { op := op, wide := decide (bits o.m.toNat 2 0 = 0), addr := o.a, b := o.b, once := o.a.isS && o.b.isS
                    bCause := 9, ctl := o.c.num } s

def execXscale (o : OpO) (s : State) := sumStep (.xscale o) o (.xscale (bits o.m.toNat 2 0)) s
def execXsum (o : OpO) (s : State) := sumStep (.xsum o) o (.xsum (bits o.m.toNat 2 0)) s

/-! ## XFIN (R414) -/

def execXfin (o : OpO) (s : State) : Host.Outcome State Fault Refusal :=
  let w := s.w
  let h := w.holds o.pr
  let fmt := bits o.m.toNat 2 0
  let adr (l : Nat) : Nat := (w.read 64 o.a l).n
  let n := if o.d.isS then 1 else if fmt = 0 then 2 else 1
  tryless (.xfin o) o.pr s <| warpWide (.xfin o) o.pr [(o.a, 2)] 5 s
    (let accs := (if o.d.isS then [0] else lanesOf h).map fun l =>
        { lane := l, va := BitVec.ofNat 64 (adr l), n := 32, loc := s.memLoc .load (BitVec.ofNat 64 (adr l)) : Acc }
     { ready := s.operandsFree (.xfin o) [o.d] n h && s.roomFor true accs
       early := misaligned h (fun l => adr l) 32 })
    fun t =>
      let lanes := if o.d.isS then [0] else lanesOf h
      let accs := lanes.map fun l =>
        { lane := l, va := BitVec.ofNat 64 (adr l), n := 32, loc := t.memLoc .load (BitVec.ofNat 64 (adr l)) : Acc }
      let t1 := t.setW (lanes.foldl (fun u l => u.write (if fmt = 0 then 64 else 32) o.d l poisonVal) t.w)
      (t1.pushOp { noOp with kind := .xfin fmt (bits o.m.toNat 5 3) o.d, accs := accs, scope := o.c.num % 8
                             acq := bit o.c.num 3, fresh := true, lanes := if o.d.isS then h else 0 }).advance 1

/-! ## SIGWAIT (R411) -/

def execSigwait (o : OpO) (s : State) : Host.Outcome State Fault Refusal :=
  let w := s.w
  let h := w.holds o.pr
  let a := BitVec.ofNat 64 (w.val64 o.a)
  tryless (.sigwait o) o.pr s <| warpWide (.sigwait o) o.pr [(o.a, 2), (o.b, 2)] 5 s
    { early := misalign a.toNat 8
      late := match s.memLoc .load a with | .mem _ => none | _ => some (addrTrap 1 a) } fun t =>
      ({ t with nextId := t.nextId + 1 }).setW { t.w with
        wait := .sigwait a (BitVec.ofNat 64 (w.val64 o.b)) (o.c.num % 8) (bit o.c.num 3) o.d h t.nextId }

/-- The watch that the home slice keeps for a waiting warp of this device. -/
def State.watchWord (s : State) (k : Nat) (va : Word) : State :=
  match (s.ctx (s.warp k).ctx).translate .load va with
  | .ok ia =>
    let e := (ia, s.did, k)
    if s.watches.contains e then s else { s with watches := s.watches ++ [e] }
  | .miss _ => s

/-- A waiting SIGWAIT reads its word: the effect of the value. -/
def State.resolveSig (s : State) (k : Nat) : State :=
  let w0 := s.warp k
  match (if w0.status = .run then w0.wait else .none) with
  | .sigwait va thr scope acq d mask id =>
    match s.freshRead k id 8 mask va with
    | .wait s1 => s1
    | .psn s1 _ => s1.asWarp k fun t =>
        let w1 := (lanesOf mask).foldl (fun (u : Warp) l => u.write 32 d l poisonVal) { t.w with wait := .none, ready0 := t.clk }
        (t.setW w1).advance 1
    | .val s1 v =>
      if v < thr.toNat then s1.watchWord k va
      else s1.asWarp k fun t =>
        let w := { t.w with wait := .none, ready0 := t.clk }
        let t1 := t.setW (w.setStatus mask d true)
        (if acq then t1.acquireL1 w.launch t.cid w.ctx scope else t1).advance 1
  | _ => s

def execSigwaitReadResult (k : Nat) (s : State) : Host.Outcome State Fault Refusal := .next (s.resolveSig k)

/-- A word notification from the word's home on another device: the warp it names reads again, if it waits on that word. -/
def execNotifyPkt (ia k : Nat) (s : State) : Host.Outcome State Fault Refusal :=
  .next (match (s.warp k).wait with
    | .sigwait va _ _ _ _ _ _ => match (s.ctx (s.warp k).ctx).translate .load va with
      | .ok x => (match s.at .load x with
        | .peer _ pia _ _ => if pia = ia then s.resolveSig k else s
        | _ => s)
      | .miss _ => s
    | _ => s)

/-! ## EVPOST and DIGEST (R416 to R418) -/

/-- The event that an EVPOST sends: its record with the fields that the command sets. -/
def State.postRec (s : State) (bs : List Byte) : Rec8 :=
  let q (i : Nat) : Word := BitVec.ofNat 64 (recWord bs i)
  { w0 := 0, w1 := BitVec.ofNat 64 (bits (q 1).toNat 63 56 * 2 ^ 56 + s.did * 2 ^ 38), w2 := 0, w3 := q 3, w4 := q 4, w5 := q 5
    w6 := q 6, w7 := q 7 }

/-- The types that EVPOST may post, and the one that needs no privilege. -/
def postable (priv : Bool) (ty : Nat) : Bool :=
  [1, 2, 3, 4, 5, 8, 0xF].contains ty && (priv || decide (ty = 0xF))

/-- An EVPOST goes on: its event is sent once the release that it is has nothing left to wait for and every EVPOST issued
before it has been sent; it completes when the local Lyre has applied the event. -/
def State.runEvpost (s : State) (id : Nat) : State :=
  match s.cmd id with
  | some c => match c.kind with
    | .evpost ev false _ _ =>
      let s1 := s.releaseL1 c.warp c.core 6
      let first := s1.cmds.all fun d => !(decide (d.id < id)) || (match d.kind with | .evpost _ false _ _ => false | _ => true)
      if first && s1.posting && s1.released c.warp c.core 6 id then
        (s1.putCmd { c with kind := .evpost ev true 0 0 }).post ev
      else s1
    | .evpost _ true seq at_ =>
      if seq ≠ 0 ∧ seq ≤ s.lyre.seq.toNat then
        let r := c.rec_.toNat
        (s.putCmd { c with kind := .answer 0 [(r, BitVec.ofNat 64 seq), (r + 0x10, BitVec.ofNat 64 at_)] }).runAnswer id
      else s
    | _ => s.runDone id
  | none => s

/-- Every EVPOST of the device tried, oldest first: after an event has been applied, or when posting is possible again. -/
def State.runEvposts (s : State) : State := (s.cmds.map (·.id)).foldl (fun t id => match t.cmd id with
  | some c => (match c.kind with | .evpost _ _ _ _ => t.runEvpost id | _ => t)
  | none => t) s

/-- The Harp's answer to a post of this device (R417): the oldest EVPOST with that event learns SEQ and ATIME. -/
def State.postAnswered (s : State) (ev : Rec8) (seq at_ : Nat) : State :=
  match s.cmds.find? fun c => match c.kind with | .evpost e true 0 _ => decide (e = ev) | _ => false with
  | some c => s.putCmd { c with kind := .evpost ev true seq at_ }
  | none => s

def execEvpost (o : OpO) (s : State) : Host.Outcome State Fault Refusal :=
  let w := s.w
  let a := w.val64 o.a
  let base : Cmd := { opc := 0xD9, tag := some (w.val64 o.d), kind := .done, rec_ := BitVec.ofNat 64 a }
  engIssueThen (.evpost o) o.pr (sSrc o.d ++ [(o.a, 2)]) [s.badField (w.badTag o.d), misalign a 64] [s.recRange a] false
    (fun t => match t.readRec a 64 with
      | .wait s1 => .wait s1
      | .bad s1 => s1.planPlain { base with err := 1 }
      | .ok s1 bs =>
        if postable (s1.ctx w.ctx).priv (bits (recWord bs 1) 63 56) then
          s1.planDest { base with kind := .evpost (s1.postRec bs) false 0 0, dst := s1.recDsts a 0 0x18 }
        else s1.planPlain { base with err := 0x0A })
    (fun t id => t.runEvpost id) s

/-- DIGEST: LYRSEQ and LYRDIG of one point of the Lyre, and whether it is RUNNING. -/
def execDigest (o : OpO) (s : State) : Host.Outcome State Fault Refusal :=
  let h := s.w.holds o.pr
  let wt := bit o.m.toNat 0
  let thr := s.w.val64 o.a
  warpWide (.digest o) o.pr (if wt then [(o.a, 2)] else []) 5 s
    { ready := (!wt || decide (thr ≤ s.lyre.seq.toNat)) && s.operandsFree (.digest o) [o.d] 2 h } fun t =>
      let w := ((t.w.setS1 o.d.num t.lyre.seq false).setS1 (o.d.num + 1) t.lyre.dig false)
      (t.setW (w.setStatus h o.c (decide (t.lyre.mode = .running)))).advance 1

end Sys2Proof.Machine
end

