-- ==== Sys2Proof/Machine/Queue.lean ====
section
/-! DEFINITION. The queue engine (R256, R257) and its commands QINIT, QPUSH and QPOP (R278, R279, R402). -/

namespace Sys2Proof.Machine

/-! ## Control words (R256) -/

structure QWord where
  base  : Nat
  depth : Nat
  lsz   : Nat
  head  : Nat
  tail  : Nat
  full  : Bool
  v     : Bool
deriving DecidableEq, Repr

def QWord.ofBits (n : Nat) : QWord :=
  { base := bits n 63 42, depth := bits n 41 30, lsz := bits n 29 26, head := bits n 25 14, tail := bits n 13 2
    full := bit n 1, v := bit n 0 }

def QWord.toBits (q : QWord) : Nat :=
  q.base * 2 ^ 42 + q.depth * 2 ^ 30 + q.lsz * 2 ^ 26 + q.head * 2 ^ 14 + q.tail * 2 ^ 2 + Bool.n q.full * 2 + Bool.n q.v

/-- The fields that QINIT checks (R278). -/
def QWord.initOk (q : QWord) : Bool :=
  decide (q.depth ≠ 0) && decide (3 ≤ q.lsz) && decide (q.lsz ≤ 12) && decide (q.base % 16 = 0) &&
    decide (q.base % 2 ^ q.lsz = 0)

/-- The fields in range. FULL stands only with HEAD = TAIL (DEDUCED, log 22). -/
def QWord.ok (q : QWord) : Bool :=
  q.initOk && q.v && decide (q.head < q.depth) && decide (q.tail < q.depth) && (!q.full || decide (q.head = q.tail))

/-- The region of a core that holds a byte of its scratchpad. -/
def State.regionAt (s : State) (cid off : Nat) : Option Region :=
  (s.core cid).regions.find? fun r => decide (r.base ≤ off / 128) && decide (off / 128 < r.base + r.lines)

/-- The byte of its core at which slot 0 of a queue lies: BASE is an offset in the window that the holding region has its
place in (DEDUCED, log 23); none if a slot lies outside the region (R140, R256). -/
def State.slotBase (s : State) (at_ : Nat × Nat) (q : QWord) : Option Nat :=
  match s.regionAt at_.1 at_.2 with
  | none => none
  | some r =>
    match ((s.launch r.launch).window.find? fun e => decide (e.1 = r.level)) with
    | none => none
    | some e => if e.2.1 ≤ q.base ∧ q.base + q.depth * 2 ^ q.lsz ≤ e.2.1 + e.2.2 then some (r.base * 128 + (q.base - e.2.1)) else none

/-- The control word at a byte of a core; none if its sector is poisoned. -/
def State.qword (s : State) (at_ : Nat × Nat) : Option QWord :=
  let x := s.spadSector at_.1 at_.2
  if x.mark = .none then some (QWord.ofBits (ofBytes ((x.data.drop (at_.2 % 16)).take 8))) else none

def State.putQword (s : State) (at_ : Nat × Nat) (q : QWord) : State :=
  let ws := (toBytes 8 q.toBits).zipIdx.map fun e => (at_.2 % 16 + e.2, e.1)
  (s.putSpadSector at_.1 at_.2 (mergeSector (s.spadSector at_.1 at_.2) ws)).conflict noWarp (spadSec at_.1 (at_.2 / 128 * 128))

/-! ## Issue -/

/-- The scope of the launch level that holds a queue's region (R402). -/
def State.queueScope (s : State) (w : Warp) (cid d : Nat) : Nat :=
  match (s.formAt w cid d 0).bind fun p => s.regionAt p.1 p.2 with
  | some r => ((s.launch w.launch).level r.level).scope
  | none => 1

def execQinit (o : OpO) (s : State) : Host.Outcome State Fault Refusal :=
  let w := s.w
  let d := w.val32 o.a
  let q := QWord.ofBits (w.val64 o.b)
  let here := s.formAt w s.cid (d % 2 ^ 25) 0
  let outside := match here with | some p => (s.slotBase p q).isNone | none => false
  engIssue (.qinit o) o.pr [(o.a, 2), (o.b, 2)] [engField (!q.initOk), misalign d 8]
    [if !s.formLocal w s.cid d 8 && outside then formErr 3 d else none, s.formTrap w s.cid d 8] false
    (fun t => .go t { opc := 0xA4, dst := t.spadLocs w t.cid d 0 8, kind := .qinit d (BitVec.ofNat 64 ({ q with head := 0, tail := 0, full := false, v := true : QWord }.toBits)) }) s

def execQpush (o : OpO) (s : State) : Host.Outcome State Fault Refusal :=
  let w := s.w
  let d := w.val32 o.a
  let e := w.val32 o.b
  let n := 2 ^ o.c.num
  engIssue (.qpush o) o.pr (sSrc o.d ++ [(o.a, 2), (o.b, 2)]) [engField (w.badTag o.d), misalign d 8, misalign e n]
    [s.formTrap w s.cid d 8, s.formTrap w s.cid e n] false
    (fun t => .go t { opc := 0xA5, tag := some (w.val64 o.d), kind := .qpush d e o.c.num, src := t.spadSrcs w t.cid e 0 n }) s

def execQpop (o : OpO) (s : State) : Host.Outcome State Fault Refusal :=
  let w := s.w
  let d := w.val32 o.a
  let e := w.val32 o.b
  let n := 2 ^ o.c.num
  engIssue (.qpop o) o.pr (sSrc o.d ++ [(o.a, 2), (o.b, 2)]) [engField (w.badTag o.d), misalign d 8, misalign e n]
    [s.formTrap w s.cid d 8, s.formTrap w s.cid e n] false
    (fun t => .go t { opc := 0xA6, tag := some (w.val64 o.d), kind := .qpop d e o.c.num, dst := t.spadLocs w t.cid e 0 n }) s

/-! ## The queue engine (R257) -/

/-- The queue that a command names and its operation: 0 QINIT, 1 QPUSH, 2 QPOP. A pop that has taken its slot is past. -/
def Cmd.queueOp (c : Cmd) : Option (Nat × Nat) :=
  match c.kind with
  | .qinit d _ => some (0, d)
  | .qpush d _ _ => some (1, d)
  | .qpop d _ _ => if c.src = [] then some (2, d) else none
  | _ => none

/-- Where a command's control word lies. -/
def State.queueAt (s : State) (c : Cmd) : Option (Nat × Nat × Nat) :=
  match c.queueOp with
  | some (k, d) => (s.formAt (s.warp c.warp) c.core d 0).map fun p => (k, p.1, p.2)
  | none => none

/-- What the queue engine finds for a command: it fails, it is held, or the word and the byte of its slot. -/
inductive QAns where
  | fail
  | held
  | slot (q : QWord) (at_ : Nat)
deriving DecidableEq, Repr

def State.queueAnswer (s : State) (lsz : Nat) (push : Bool) (at_ : Nat × Nat) : QAns :=
  match s.qword at_ with
  | none => .fail
  | some q =>
    if !q.ok || decide (q.lsz ≠ lsz) then .fail
    else match s.slotBase at_ q with
      | none => .fail
      | some b =>
        if push then (if q.full then .held else .slot q (b + q.tail * 2 ^ lsz))
        else if q.head = q.tail && !q.full then .held
        else .slot q (b + q.head * 2 ^ lsz)

/-- A queue command arrives at its queue engine (R257). -/
def State.arriveQueue (s : State) (c : Cmd) (at_ : Nat × Nat) : State :=
  if c.arrived = 0 then s.putCmd { c with arrived := s.clk + 1, word := some at_ } else s

/-- Whether a queue command could proceed now. -/
def State.queueCan (s : State) (c : Cmd) : Bool :=
  match s.queueAt c, c.kind with
  | some (_, at_), .qpush _ _ lsz => !c.unread && (match s.queueAnswer lsz true at_ with | .held => false | _ => true)
  | some (_, at_), .qpop _ _ lsz => (match s.queueAnswer lsz false at_ with | .held => false | _ => true)
  | some _, _ => true
  | none, _ => true

/-- Whether command `d` comes before `c` at a queue engine (R257): an earlier one of its warp; of another warp, one that has arrived
in an earlier clock, or in the same clock from a core, or for one core from a warp slot, of lower number. -/
def Cmd.before (d c : Cmd) : Bool :=
  if d.warp = c.warp then decide (d.id < c.id)
  else decide (d.arrived ≠ 0) && (decide (d.arrived < c.arrived) ||
    (decide (d.arrived = c.arrived) && (decide (d.core < c.core) || (decide (d.core = c.core) && decide (d.wid < c.wid)))))

/-- Whether a command that has arrived is the next on its control word: its clock of arrival is over, so that the order of those
that arrived in it is known, none of its kind comes before it, and none of another kind that could proceed; its warp's earlier
accesses to the word are performed, and no earlier command marks the word's line (R250). -/
def State.queueNext (s : State) (c : Cmd) : Bool :=
  match s.queueAt c with
  | none => true
  | some (k, cid, off) =>
    decide (c.arrived ≠ 0) && decide (c.arrived ≤ s.clk) &&
    (s.cmds.all fun d => !d.before c || (match s.queueAt d with
      | some (j, cid', off') => !(decide (cid = cid') && decide (off = off')) || (decide (j ≠ k) && decide (j ≠ 0) && !s.queueCan d)
      | none => true)) &&
    (s.cmds.all fun d => !(decide (d.id < c.id) && d.marks cid (off / 128))) &&
    s.ops.all fun o => !(decide (o.warp = c.warp) && decide (o.id < c.id)) ||
      o.accs.all fun a => a.done || !(a.loc.meets a.n (.spad cid off) 8)

/-- Whether the bytes of a slot may be read or written: no earlier command marks a line of them (R250). -/
def State.slotFree (s : State) (c : Cmd) (cid slot n : Nat) : Bool :=
  s.cmds.all fun d => !(decide (d.id < c.id)) ||
    (List.range ((slot % 128 + n + 127) / 128)).all fun k => !(d.marks cid (slot / 128 + k))

/-- Bytes written at a byte of a core, from sectors with their origins (R296). -/
def State.putRun16 (s : State) (cid off : Nat) (bs : List Byte) (mark : Nat → Origin) : State :=
  let es : List ElemW := bs.zipIdx.map fun e =>
    { idx := e.2, at_ := 8 * (off + e.2), n := 8, val := e.1.toNat, psn := mark e.2 }
  (layElems es).foldl (fun (t : State) e =>
    (t.putSpadSector cid (16 * e.1) (e.2.into (t.spadSector cid (16 * e.1)))).conflict noWarp (spadSec cid (16 * e.1 / 128 * 128))) s

/-- The bytes of a command's sources from an offset, with their origins. -/
def srcRun (src : List Src) (d n : Nat) : List (Byte × Origin) :=
  (List.range n).map fun i => let x := srcBits src (8 * (formAddr d + i)) 8; (BitVec.ofNat 8 x.1, x.2)

/-- Whether the release that a push's issue is has nothing left to wait for (R402). -/
def State.pushReleased (s : State) (c : Cmd) : State × Bool :=
  let sc := s.queueScope (s.warp c.warp) c.core (match c.kind with | .qpush d _ _ => d | _ => 0)
  let s1 := s.releaseL1 c.warp c.core sc
  (s1, (s1.ops.all fun o => !(decide (o.warp = c.warp) && decide (o.id < c.id)) || o.isFence) && !s1.l1Left c.warp c.core sc)

/-- A push: it arrives; then, in its turn, its slot is written and TAIL moved, or it is held, or it fails. -/
def State.performPush (s : State) (id : Nat) : State :=
  let s1 := s.fillCmd id
  match s1.cmd id with
  | none => s
  | some c =>
    match c.kind, s1.queueAt c with
    | .qpush _ e lsz, some (_, at_) =>
      if c.arrived = 0 ∨ c.unread ∨ !s1.queueNext c then s1.arriveQueue c at_
      else match s1.pushReleased c with
        | (s2, false) => s2
        | (s2, true) => match s2.queueAnswer lsz true at_ with
          | .held => s2.putCmd { c with held := true }
          | .fail => s2.finishCmd c 5 0 0
          | .slot q slot =>
            if !s2.slotFree c at_.1 slot (2 ^ lsz) then s2
            else
            let xs := srcRun c.src e (2 ^ lsz)
            let s3 := s2.putRun16 at_.1 slot (xs.map (·.1)) fun i => (nth (0, .none) xs i).2
            let t := (q.tail + 1) % q.depth
            (s3.putQword at_ { q with tail := t, full := decide (t = q.head) }).finishCmd c 0 0 0
    | .qpush _ _ _, none => s1.finishCmd c 5 0 0
    | _, _ => s1

/-- What a pop writes: the slot's bytes as taken, the sectors' origins with them. -/
def Cmd.popElems (c : Cmd) : List ElemW :=
  match c.kind with
  | .qpop _ e lsz => (List.range (2 ^ lsz)).map fun i =>
      let x := srcBits c.src (8 * i) 8
      { idx := 0, at_ := 8 * (formAddr e + i), n := 8, val := x.1, psn := x.2 }
  | _ => []

/-- A pop's destination written and the pop complete, an acquire at the queue's scope (R402). A poisoned slot is moved as it
is and is no error (DEDUCED, log 24). -/
def State.finishPop (s : State) (c : Cmd) : State :=
  match s.dstFree c with
  | (s1, false) => s1
  | (s1, true) =>
    let m := layElems c.popElems
    let s2 := c.dst.foldl (fun (t : State) e =>
      let x := look {} m e.1
      if x.mask = 0 then t else (t.writeSec c e.1 e.2 x).1) s1
    let sc := s2.queueScope (s2.warp c.warp) c.core (match c.kind with | .qpop d _ _ => d | _ => 0)
    (s2.acquireL1 c.launch c.core c.ctx sc).finishCmd c 0 0 0

/-- A slot's bytes as sources keyed from 0, whatever its alignment in its sectors. -/
def State.slotSrcs (s : State) (cid slot n : Nat) : List Src :=
  (List.range ((n + 15) / 16)).map fun k =>
    let x := s.spadSector cid (slot + 16 * k)
    let bs := x.data.drop (slot % 16)
    { key := k, loc := .spad cid (slot + 16 * k), got := some (bs ++ List.replicate (16 - bs.length) 0, x.mark) }

/-- A pop: it arrives; then, in its turn, its slot is taken and HEAD moved, or it is held, or it fails; then its destination is
written. -/
def State.performPop (s : State) (id : Nat) : State :=
  match s.cmd id with
  | none => s
  | some c =>
    match c.kind, s.queueAt c with
    | .qpop _ _ lsz, some (_, at_) =>
      if c.arrived = 0 ∨ !s.queueNext c then s.arriveQueue c at_
      else match s.queueAnswer lsz false at_ with
        | .held => s.putCmd { c with held := true }
        | .fail => s.finishCmd c 5 0 0
        | .slot q slot =>
          if !s.slotFree c at_.1 slot (2 ^ lsz) then s
          else
          let c1 := { c with src := s.slotSrcs at_.1 slot (2 ^ lsz) }
          let s1 := (s.putQword at_ { q with head := (q.head + 1) % q.depth, full := false }).putCmd c1
          s1.finishPop c1
    | .qpop _ _ _, none => if c.src = [] then s.finishCmd c 5 0 0 else s.finishPop c
    | _, _ => s

def execQueuePushPerform (id : Nat) (s : State) : Host.Outcome State Fault Refusal := .next (s.performPush id)
def execQueuePopPerform (id : Nat) (s : State) : Host.Outcome State Fault Refusal := .next (s.performPop id)

/-- A QINIT performed. -/
def State.performInit (s : State) (c : Cmd) : State :=
  match c.kind, s.queueAt c with
  | .qinit _ v, some (_, at_) =>
    if c.arrived = 0 ∨ !s.queueNext c then s.arriveQueue c at_ else (s.putQword at_ (QWord.ofBits v.toNat)).finishCmd c 0 0 0
  | _, _ => s.finishCmd c 0 0 0

end Sys2Proof.Machine
end

