-- ==== Sys2Proof/Machine/Complete.lean ====
section
/-! DEFINITION. Completion steps: loads, stores and atomics (R124, R210), engine commands (R273), the deferred traps that
failed ones bring (R199, R293) and the eviction of an L1 line (R183). -/

namespace Sys2Proof.Machine

/-- Whether an operation counts as a load, as an atomic, or else as a store, by the step that completes it. -/
def Op.isRmw (o : Op) : Bool := match o.kind with | .rmw _ _ _ _ => true | _ => false

/-- Every lane of an outstanding operation performed, if it is of the sort that `which` selects. -/
def State.completeIf (s : State) (id : Nat) (which : Op → Bool) : State :=
  match s.op id with
  | some o => if which o && !o.isFence then s.performOp id 0xFFFFFFFF else s
  | none => s

def execLoadComplete (id : Nat) (s : State) : Host.Outcome State Fault Refusal := .next (s.completeIf id (·.readsOnly))
def execStoreComplete (id : Nat) (s : State) : Host.Outcome State Fault Refusal :=
  .next (s.completeIf id fun o => !o.readsOnly && !o.isRmw)
def execAtomicComplete (id : Nat) (s : State) : Host.Outcome State Fault Refusal := .next (s.completeIf id (·.isRmw))

/-- A command run to its end as far as it can be: what is left of its sources is read, then its writes are performed. -/
def State.completeCmd (s : State) (id : Nat) : State :=
  match s.cmd id with
  | none => s
  | some c =>
    match c.kind with
    | .qinit _ _ => s.performInit c
    | .qpop _ _ _ => if c.src = [] then s else s.finishPop c
    | .qpush _ _ _ => s
    | .mat _ _ => if s.dumpStops c then s else s.runTile c
    | .tmacFail _ _ => if s.dumpStops c then s else s.runTile c
    | .interest _ _ _ => s.runInterest id
    | .announce _ _ _ => s.runAnnounce id
    | .evpost _ _ _ _ => s.runEvpost id
    | .leasereq _ _ _ _ _ _ => s
    | .leaseret _ _ => s
    | .answer _ _ => s.runAnswer id
    | .done => s.runDone id
    | _ =>
      let s1 := s.fillCmd id
      match s1.cmd id with
      | none => s1
      | some c1 => if c1.unread then s1 else match c1.elems with
        | some es => s1.writeElems c1 es
        | none => s1

def execEngineCommandComplete (id : Nat) (s : State) : Host.Outcome State Fault Refusal := .next (s.completeCmd id)

/-- The oldest deferred trap taken before the next instruction (R293, item 2). -/
def State.takeDeferred (s : State) : State :=
  match s.w.deferred with
  | [] => s
  | t :: rest =>
    match s.handlerWaits t with
    | some s1 => s1
    | none => (s.setW { s.w with deferred := rest }).trapNow t s.w.pc

def execDeferredTrap (k : Nat) (s : State) : Host.Outcome State Fault Refusal :=
  let w := s.warp k
  .next (if decide (w.status = .run) && decide (w.wait = .none) && !w.ueHalt then s.asWarp k (·.takeDeferred) else s)

def execL1Eviction (cid line : Nat) (s : State) : Host.Outcome State Fault Refusal := .next (s.evictL1 cid line)

end Sys2Proof.Machine
end

