-- ==== Sys2Proof/Machine/Debug.lean ====
section
/-! DEFINITION. The debugger's commands (R325): HALT-REQUESTs to a warp or to a context, and the resumption of stopped
warps. -/

namespace Sys2Proof.Machine

/-- The fields of DBGCMD: the command, the slot of the selected warp, the context. -/
def dbgCmd (x : Word) : Nat := bits x.toNat 63 56
def dbgSlot (x : Word) : Nat := 64 * bits x.toNat 55 40 + bits x.toNat 39 34
def dbgCtx (x : Word) : Nat := bits x.toNat 33 18

/-- DBGCMD written, with the STATUS of a command that has completed. -/
def State.dbgDone (s : State) (cmd : Word) (st : BitVec 6) : State :=
  { s with mgmt := { s.mgmt with dbgcmd := cmd &&& ~~~0x3FFFF, dbgst := st, dbgrun := false } }

/-- A command that has not completed yet. -/
def State.dbgBusy (s : State) (cmd : Word) : State :=
  { s with mgmt := { s.mgmt with dbgcmd := cmd &&& ~~~0x3FFFF, dbgrun := true } }

/-- Whether the selected warp exists and belongs to the context. -/
def State.dbgWarp (s : State) (cmd : Word) : Bool :=
  let w := s.warp (dbgSlot cmd)
  decide (dbgSlot cmd / 64 < Config.cores) && decide (w.status ≠ .absent) && decide (w.ctx = dbgCtx cmd)

/-- A stopped warp made ready again where it stands: what it waited for it waits for again; an instruction stopped by a
watchpoint runs once without that check, a BKPT once as NOP. -/
def Warp.resumed (w : Warp) (clk : Nat) : Warp :=
  let stop (c : Nat) : Bool := decide (bits w.tcause.toNat 23 8 = 0x0900 + c) && !w.atHead
  { w with status := .run, lastIssue := clk, ready0 := clk, urgent := false, skipWp := stop 1, skipBk := stop 2, skipPc := w.pc }

/-- The current warp resumed at another address than the one where it stopped. -/
def State.resumeElse (s : State) (a : Word) : State × Bool :=
  let w := s.w
  let run (u : Warp) : Warp := { u with status := .run, wait := .none, lastIssue := s.clk, ready0 := s.clk, urgent := false }
  match s.resumeAt w.hdr a with
  | .wait s1 => (s1, false)
  | .inside hw s1 => (s1.setW (run { w with pc := a, hw := hw, atHead := false }), true)
  | .header s1 => ((s1.setW (run { w with pc := a, atHead := true })).fall, true)
  | .trap t s1 =>
    let s2 := s1.setW (run w)
    match s2.handlerWaits t with
    | some s3 => (s3.setW w, false)
    | none => (s2.takeTrap t w.pc, true)

/-- A stopped warp resumed at an address; false where the code that the check reads is not here yet. -/
def State.resumeWarp (s : State) (k : Nat) (a : Word) : State × Bool :=
  let w := s.warp k
  if a = w.pc then (s.putWarp k (w.resumed s.clk), true)
  else
    let r := ({ s with cur := k }).resumeElse a
    ({ r.1 with cur := s.cur }, r.2)

/-- Whether a confidential context refuses to have its warps resumed at an address of the debugger's (R325, R331). -/
def State.dbgConf (s : State) (cmd : Word) : Bool := (s.ctx (dbgCtx cmd)).conf

def execDbgHalt (cmd : Word) (s : State) : Host.Outcome State Fault Refusal :=
  .next (if dbgCmd cmd ≠ 1 then s
    else if s.dbgWarp cmd then (s.haltTarget (dbgSlot cmd)).dbgDone cmd 0
    else s.dbgDone cmd 1)

def execDbgResume (cmd : Word) (s : State) : Host.Outcome State Fault Refusal :=
  .next (if dbgCmd cmd ≠ 2 then s
    else if !s.dbgWarp cmd then s.dbgDone cmd 1
    else if (s.warp (dbgSlot cmd)).status ≠ .stopped then s.dbgDone cmd 2
    else ((s.resumeWarp (dbgSlot cmd) (s.warp (dbgSlot cmd)).pc).1).dbgDone cmd 0)

def execDbgResumePc (cmd : Word) (s : State) : Host.Outcome State Fault Refusal :=
  .next (if dbgCmd cmd ≠ 3 then s
    else if s.dbgConf cmd then s.dbgDone cmd 3
    else if !s.dbgWarp cmd then s.dbgDone cmd 1
    else if (s.warp (dbgSlot cmd)).status ≠ .stopped then s.dbgDone cmd 2
    else match s.resumeWarp (dbgSlot cmd) s.mgmt.dbgpc with
      | (s1, true) => s1.dbgDone cmd 0
      | (s1, false) => s1.dbgBusy cmd)

/-- The warps of a context on the device's cores. -/
def State.ctxWarps (s : State) (ctx : Nat) : List Nat :=
  (s.warps.filter fun e => decide (e.1 < 2 ^ 20) && decide (e.2.ctx = ctx) && decide (e.2.status ≠ .absent)).map (·.1)

def execDbgHaltCtx (cmd : Word) (s : State) : Host.Outcome State Fault Refusal :=
  .next (if dbgCmd cmd ≠ 4 then s
    else ((s.ctxWarps (dbgCtx cmd)).foldl (fun (t : State) k => t.haltTarget k) s).dbgDone cmd 0)

def execDbgResumeCtx (cmd : Word) (s : State) : Host.Outcome State Fault Refusal :=
  .next (if dbgCmd cmd ≠ 5 then s
    else ((s.ctxWarps (dbgCtx cmd)).foldl (fun (t : State) k =>
      if (t.warp k).status = .stopped then (t.resumeWarp k (t.warp k).pc).1 else t) s).dbgDone cmd 0)

/-- A command that the table does not list. -/
def execDbgRefused (cmd : Word) (s : State) : Host.Outcome State Fault Refusal :=
  .next (if dbgCmd cmd = 0 ∨ (dbgCmd cmd ≤ 5 ∧ ¬ (dbgCmd cmd = 3 ∧ s.dbgConf cmd)) then s else s.dbgDone cmd 3)

end Sys2Proof.Machine
end

