-- ==== Sys2Proof/Machine/Save.lean ====
section
/-! DEFINITION. The layout of save areas and dumps (R105, R269, R287, R312 to R315, R342, R345, R440): the bytes of each
section, and the warp, barriers, scratchpad lines and commands that they hold. -/

namespace Sys2Proof.Machine

/-! ## Fields -/

/-- Fields (offset, bytes, value) laid over zeros. -/
def layBytes (n : Nat) (fs : List (Nat × Nat × Nat)) : List Byte :=
  fs.foldl (fun bs f => (toBytes f.2.1 f.2.2).zipIdx.foldl (fun b e => setNth b (f.1 + e.2) e.1) bs) (List.replicate n 0)

/-- The number that `n` bytes from an offset hold. -/
def getN (bs : List Byte) (off n : Nat) : Nat := ofBytes ((bs.drop off).take n)
def getW (bs : List Byte) (off : Nat) : Word := BitVec.ofNat 64 (getN bs off 8)

/-- Padded with zeros to a multiple of `m` bytes. -/
def padTo (m : Nat) (bs : List Byte) : List Byte := bs ++ List.replicate (alignUp bs.length m - bs.length) 0

/-! ## Barriers (R312) -/

/-- The levels of 1 or above bound to the core or cluster domain. -/
def Launch.barLevels (l : Launch) : List Nat := (List.range l.nlvl).filter fun i => decide (1 ≤ i) && decide ((l.level i).dom ≤ 1)

def Barrier.word (b : Barrier) : Nat := b.gen % 2 ^ 32 * 2 ^ 32 + b.n % 2 ^ 16 * 2 ^ 16 + b.arr % 2 ^ 15 * 2 + Bool.n b.abandoned
def barOf (x : Nat) : Barrier := { gen := bits x 63 32, n := bits x 31 16, arr := bits x 15 1, abandoned := bit x 0 }

/-- One section for each such level: the barriers of the unit that holds the block. -/
def State.barSections (s : State) (launch idx : Nat) : List (List Byte) :=
  let l := s.launch launch
  l.barLevels.map fun i => (List.range 16).flatMap fun id =>
    toBytes 8 (look {} s.bars (barKey launch i (l.unit i idx 0) id)).word

/-! ## Warps (R105, R314, R315) -/

def REntry.bytes (e : REntry) : List Byte :=
  toBytes 32 (Bool.n e.none + e.rc.toNat / 8 * 8 + e.ppc.toNat * 2 ^ 64 + e.pend.toNat * 2 ^ 128 + e.split.toNat * 2 ^ 160 +
    e.depth % 64 * 2 ^ 192 + e.phoff % 2 ^ 12 * 2 ^ 198)

def rentryOf (x : Nat) : REntry :=
  { rc := BitVec.ofNat 64 (bits x 63 3 * 8), none := bit x 0, ppc := BitVec.ofNat 64 (bits x 127 64), phoff := bits x 209 198
    pend := BitVec.ofNat 32 (bits x 159 128), split := BitVec.ofNat 32 (bits x 191 160), depth := bits x 197 192 }

/-- The lanes of predicate k that are true. -/
def predMask (p : FMap PEl) (k : Nat) : Nat := (maskWhere fun l => (look {} p (32 * k + l)).val).toNat

def TState.fields (t : TState) : List (Nat × Nat × Nat) :=
  [(0x50, 8, t.exm.toNat * 2 ^ 32 + t.part.toNat * 2 ^ 24 + t.flg.toNat * 2 ^ 16 + t.rdepth % 64 * 2 ^ 10 + t.cdepth % 64 * 2 ^ 4 +
      Bool.n t.dbl),
    (0x58, 8, t.hdr.toNat), (0x60, 8, t.s62.val.toNat), (0x68, 8, t.s63.val.toNat)] ++
  ((List.range 7).map fun k => (0x70 + 4 * k, 4, predMask t.p k)) ++
  [(0x8C, 4, Bool.n t.s62.psn + 2 * Bool.n t.s63.psn)] ++
  (if t.dbl then [(0x90, 8, t.fepc.toNat), (0x98, 8, t.ftcause.toNat * 2 ^ 32), (0xA0, 8, t.ftaddr.toNat),
    (0xA8, 8, t.stcause.toNat * 2 ^ 32)] else [])

/-- WAITB and WAITG of a warp. -/
def Wait.saved (w : Wait) : Nat × Nat :=
  match w with
  | .barrier lvl id gen _ _ => (0x80 + lvl % 8 * 16 + id % 16, gen)
  | _ => (0, 0)

/-- The control part. -/
def Warp.control (w : Warp) : List Byte :=
  layBytes 1024 <|
    [(0x00, 8, w.pc.toNat),
      (0x08, 8, w.exm.toNat * 2 ^ 32 + w.part.toNat * 2 ^ 24 + w.bnd % 2 ^ 16 * 2 ^ 8 + w.flg.toNat),
      (0x10, 8, w.vcnt.toNat * 2 ^ 32 + w.prio % 4 * 2 ^ 30 + Nat.min w.pollK 15 * 2 ^ 26 + w.rstk.length % 64 * 2 ^ 20 +
        w.cstk.length % 64 * 2 ^ 14 + w.wait.saved.1),
      (0x18, 8, w.seed.toNat), (0x20, 8, w.tcause.toNat * 2 ^ 32 + w.wait.saved.2 % 2 ^ 32), (0x28, 8, w.taddr.toNat),
      (0x30, 8, w.epc.toNat), (0x38, 8, w.tryst), (0x40, 8, w.tskid), (0x48, 8, w.ahi % 2 ^ 16)] ++
    (if w.inh then w.tst.fields else []) ++
    ((List.range 64).map fun k => (0x100 + 8 * k, 8, (w.s1 k).val.toNat)) ++
    [(0x300, 8, sumOf (fun k => if (w.s1 k).psn then 2 ^ k else 0) (List.range 64))] ++
    ((List.range 7).map fun k => (0x308 + 4 * k, 4, predMask w.p k)) ++ [(0x324, 4, 0xFFFFFFFF)] ++
    ((List.range 4).flatMap fun k =>
      [(0x340 + 16 * k, 8, (look {} w.wp k).addr.toNat), (0x348 + 16 * k, 8, (look {} w.wp k).ctl.toNat)]) ++
    [(0x380, 8, w.hdr.toNat)]

/-- One warp's section: control part, stacks from the bottom up, pool rows, lane poison. -/
def Warp.section_ (w : Warp) : List Byte :=
  let stk := padTo 1024 (w.rstk.reverse.flatMap REntry.bytes)
  let stk := if stk = [] then List.replicate 1024 0 else stk
  let calls := padTo 256 (w.cstk.reverse.flatMap fun a => toBytes 8 a.toNat)
  let calls := if calls = [] then List.replicate 256 0 else calls
  let rows := (List.range w.rows).flatMap fun r => (List.range 32).flatMap fun l => toBytes 4 (w.v1 r l).val.toNat
  let marks := (List.range w.rows).flatMap fun r => toBytes 4 (maskWhere fun l => (w.v1 r l).psn).toNat
  padTo 128 (w.control ++ stk ++ calls ++ rows ++ marks)

/-- Bytes of a warp's section. -/
def sectionLen (rows : Nat) : Nat := alignUp (2304 + 132 * rows) 128

/-- The warp sections of a block, one for each of its W_blk warps by linear index; that of a warp that is not there any more holds
zeros (R312; the zeros are a DESIGN CHOICE, log 110). -/
def Launch.warpSections (l : Launch) (ws : List Warp) : List (List Byte) :=
  (List.range l.wBlk).map fun i => match ws.find? fun w => decide (w.lin = i) with
    | some w => w.section_
    | none => List.replicate (sectionLen l.rows) 0

/-- A map of numbers from a function, keys below `n`. -/
def mapOf [DecidableEq α] (d : α) (n : Nat) (f : Nat → α) : FMap α := (List.range n).foldl (fun m k => put d m k (f k)) []

def predsOf (f : Nat → Nat) : FMap PEl := mapOf {} 224 fun i => { val := bit (f (i / 32)) (i % 32) }

def tstateOf (bs : List Byte) (hw : TState) : TState :=
  let a := getN bs 0x50 8
  let dbl := bit a 0
  { hw with
    exm := BitVec.ofNat 32 (bits a 63 32), part := BitVec.ofNat 8 (bits a 31 24), flg := BitVec.ofNat 8 (bits a 23 16)
    rdepth := bits a 15 10, cdepth := bits a 9 4, dbl := dbl, hdr := getW bs 0x58
    s62 := { val := getW bs 0x60, psn := bit (getN bs 0x8C 4) 0 }, s63 := { val := getW bs 0x68, psn := bit (getN bs 0x8C 4) 1 }
    p := predsOf fun k => getN bs (0x70 + 4 * k) 4
    fepc := if dbl then getW bs 0x90 else 0, ftcause := if dbl then BitVec.ofNat 32 (getN bs 0x9C 4) else 0
    ftaddr := if dbl then getW bs 0xA0 else 0, stcause := if dbl then BitVec.ofNat 32 (getN bs 0xAC 4) else 0 }

/-- A warp as its section holds it; `w` gives what the section has no place for (log 27). -/
def Warp.ofSection (w : Warp) (bs : List Byte) : Warp :=
  let b := getN bs 0x08 8
  let c := getN bs 0x10 8
  let tc := BitVec.ofNat 32 (getN bs 0x24 4)
  let inh : Bool := tc.getLsbD 30
  let spsn := getN bs 0x300 8
  let tr := getN bs 0x38 8
  let tk := getN bs 0x40 8
  let rd := bits c 25 20
  let cd := bits c 19 14
  let rows := w.rows
  { w with
    pc := getW bs 0, exm := BitVec.ofNat 32 (bits b 63 32), part := BitVec.ofNat 8 (bits b 31 24), bnd := bits b 23 8
    flg := BitVec.ofNat 8 (bits b 7 0), vcnt := BitVec.ofNat 32 (bits c 63 32), prio := bits c 31 30, pollK := bits c 29 26
    seed := getW bs 0x18, tcause := tc, taddr := getW bs 0x28, epc := getW bs 0x30
    tryOpen := bit tr 63, tryDone := bit tr 62, tryCode := BitVec.ofNat 8 (bits tr 55 48), tryUser := BitVec.ofNat 8 (bits tr 47 40)
    amask := BitVec.ofNat 32 (bits tr 31 0)
    tskValid := bit tk 63, tskVers := bit tk 62, tskIdx := BitVec.ofNat 32 (bits tk 31 0)
    ahi := getN bs 0x48 2, tst := if inh then tstateOf bs w.tst else {}
    s := mapOf {} 64 fun k => { val := getW bs (0x100 + 8 * k), psn := bit spsn k }
    p := predsOf fun k => getN bs (0x308 + 4 * k) 4
    wp := mapOf {} 4 fun k => { addr := getW bs (0x340 + 16 * k), ctl := BitVec.ofNat 8 (getN bs (0x348 + 16 * k) 1) }
    hdr := getW bs 0x380
    rstk := ((List.range rd).map fun i => rentryOf (getN bs (1024 + 32 * i) 32)).reverse
    cstk := ((List.range cd).map fun i => getW bs (2048 + 8 * i)).reverse
    v := mapOf {} (32 * rows) fun k =>
      { val := BitVec.ofNat 32 (getN bs (2304 + 4 * k) 4), psn := bit (getN bs (2304 + 128 * rows + 4 * (k / 32)) 4) (k % 32) } }

/-! ## Scratchpad (R312) -/

/-- The units whose regions a block needs on its core: level and unit. -/
def Launch.regionUnits (l : Launch) (idx : Nat) : List (Nat × Nat) :=
  l.window.flatMap fun e =>
    if (l.level e.1).dom = 1 then [(e.1, l.unit e.1 idx 0)]
    else (List.range (l.prod (e.1 + 1) l.blkLevel)).map fun k => (e.1, idx * l.prod (e.1 + 1) l.blkLevel + k)

/-- Those of them that a core holds, in the order of levels and units (R140; the order is DEDUCED, log 110). -/
def State.heldUnits (s : State) (launch cid idx : Nat) : List (Nat × Nat) :=
  ((s.launch launch).regionUnits idx).filter fun e => (s.region cid launch e.1 e.2).isSome

/-- The regions of some units on a core. -/
def State.regionsOf (s : State) (launch cid : Nat) (us : List (Nat × Nat)) : List Region :=
  us.filterMap fun e => s.region cid launch e.1 e.2

/-- The regions that a block's units hold on a core. -/
def State.blockRegions (s : State) (launch cid idx : Nat) : List Region := s.regionsOf launch cid (s.heldUnits launch cid idx)

def State.spadSection (s : State) (launch cid idx : Nat) : List Byte :=
  let lines := (s.blockRegions launch cid idx).flatMap fun r => (List.range r.lines).map (r.base + ·)
  padTo 128 ((lines.flatMap fun k => lookRun 0 s.spad (spadKey cid (128 * k)) 128) ++
    lines.map fun k => BitVec.ofNat 8 (sumOf (fun q =>
      if (s.spadSector cid (128 * k + 16 * q)).mark = .none then 0 else 2 ^ q) (List.range 8)))

/-! ## Commands (R269, R287, R440) -/

/-- A matrix progress record. A command that has not run and still waits holds its instruction's fields. -/
def Cmd.matRecord (c : Cmd) (m : MatRec) : List Byte :=
  toBytes 8 (c.opc % 256 * 2 ^ 56 + m.f % 64 * 2 ^ 50 + m.rm % 8 * 2 ^ 47 + c.sdone % 2 ^ 16 * 2 ^ 16 + c.sleft % 2 ^ 16) ++
  toBytes 8 (c.vcnt % 2 ^ 32 * 2 ^ 32 + m.acc % 2 ^ 16 * 2 ^ 16) ++
  toBytes 8 (m.aoff % 2 ^ 32 * 2 ^ 32 + m.boff % 2 ^ 32) ++ toBytes 8 (wrapN 32 m.da * 2 ^ 32 + wrapN 32 m.db)

/-- A held queue command's record, with the bytes that a push has read. -/
def Cmd.queueRecord (c : Cmd) (q d lsz : Nat) : List Byte :=
  toBytes 8 (c.opc % 256 * 2 ^ 56 + (c.tag.getD 0xFF) % 256 * 2 ^ 48 + lsz % 16 * 2 ^ 44) ++
  toBytes 8 (q % 2 ^ 32 * 2 ^ 32 + d % 2 ^ 32) ++ toBytes 8 (c.wid % 64) ++ toBytes 8 0 ++
  (if c.opc = 0xA5 then (srcRun c.src d (2 ^ lsz)).map (·.1) else [])

/-- The record of a command, none for one that has none. -/
def Cmd.record (c : Cmd) : Option (List Byte) :=
  match c.kind with
  | .mat m recs => some (c.matRecord m ++ if c.opc = 0xAE then recs.take 320 else [])
  | .tmacFail m _ => some (c.matRecord m ++ List.replicate 320 0)
  | .qpush q d lsz => some (c.queueRecord q d lsz)
  | .qpop q d lsz => if c.src = [] then some (c.queueRecord q d lsz) else none
  | _ => none

def Cmd.isMat (c : Cmd) : Bool := match c.kind with | .mat _ _ => true | .tmacFail _ _ => true | _ => false

/-- The recorded commands of some warps: matrix records first, then held queue commands, each in issue order. -/
def recorded (cs : List Cmd) : List Cmd := (cs.filter (·.isMat)) ++ cs.filter fun c => !c.isMat && c.record.isSome

def commandSection (cs : List Cmd) : List Byte := (recorded cs).flatMap fun c => c.record.getD []

/-- A recorded command as its record's bytes hold it, with the bytes left. -/
def Cmd.ofRecord (c : Cmd) (bs : List Byte) : Cmd × List Byte :=
  let a := getN bs 0 8
  let b := getN bs 8 8
  let o := getN bs 16 8
  let d := getN bs 24 8
  let rest := bs.drop 32
  match c.kind with
  | .tmacFail _ _ => (c, rest.drop 320)
  | .mat _ recs =>
    let m1 : MatRec := { f := bits a 55 50, rm := bits a 49 47, acc := bits b 31 16, aoff := bits o 63 32, boff := bits o 31 0
                         da := sext 32 (d / 2 ^ 32), db := sext 32 d }
    let c1 := { c with sdone := bits a 31 16, sleft := bits a 15 0, vcnt := bits b 63 32 }
    if c.opc = 0xAE then ({ c1 with kind := .mat m1 (rest.take 320) }, rest.drop 320)
    else ({ c1 with kind := .mat m1 recs }, rest)
  | .qpush q e lsz =>
    let x := rest.take (2 ^ lsz)
    let src := c.src.zipIdx.map fun p =>
      { p.1 with got := p.1.got.map fun g =>
          ((List.range 16).map fun i =>
            let n := 16 * p.1.key + i
            if formAddr e ≤ n ∧ n < formAddr e + 2 ^ lsz then nth 0 x (n - formAddr e) else nth 0 g.1 i, g.2) }
    ({ c with kind := .qpush q e lsz, src := src }, rest.drop (2 ^ lsz))
  | _ => (c, rest)

def cmdsOf : List Cmd → List Byte → List Cmd
  | [], _ => []
  | c :: cs, bs => let r := c.ofRecord bs; r.1 :: cmdsOf cs r.2

/-! ## The header (R313, R345) -/

/-- The fields that a save area and a dump share, on the core of the warps that they describe. -/
def State.areaFields (s : State) (cid blk nwarp ncmd lines : Nat) : List (Nat × Nat × Nat) :=
  let b := s.block blk
  let l := s.launch b.launch
  let c := s.core cid
  [(0x00, 8, l.recVA.toNat), (0x08, 8, b.idx % 2 ^ 32 * 2 ^ 32 + nwarp % 256 * 2 ^ 24 + ncmd % 256 * 2 ^ 16),
    (0x10, 8, b.elapsed + s.clk - b.at_), (0x18, 8, (c.tagDone &&& b.tuse).toNat), (0x20, 8, (c.tagErr &&& b.tuse).toNat),
    (0x28, 8, b.tuse.toNat), (0x30, 8, lines % 2 ^ 32 * 2 ^ 32 + l.barLevels.length)]

/-! ## Encryption (R331, R345) -/

/-- The bytes of an area as they are written from an address: in a confidential context encrypted, but for those from
`lo` to `hi`. -/
def State.sealBytes (s : State) (ctx : Nat) (va : Word) (lo hi : Nat) (bs : List Byte) : List Byte :=
  if (s.ctx ctx).conf then bs.zipIdx.map fun e => if lo ≤ e.2 ∧ e.2 < hi then e.1 else Config.cipherByte ctx va.toNat e.2 bs
  else bs

/-- The clear bytes of an area read back: those saved, where the area still holds what was written. -/
def State.openBytes (s : State) (ctx : Nat) (va : Word) (saved bs : List Byte) : List Byte :=
  if (s.ctx ctx).conf then
    if bs = s.sealBytes ctx va 0 0 saved then saved else (List.range bs.length).map fun i => Config.clearByte ctx va.toNat i bs
  else bs

/-! ## Writing an area -/

/-- The area's lines of 128 bytes, with their offsets. -/
def linesOf : Nat → Nat → List Byte → List (Nat × List Byte)
  | 0, _, _ => []
  | n + 1, off, bs => (off, padTo 128 (bs.take 128)) :: linesOf n (off + 128) (bs.drop 128)

def areaLines (bs : List Byte) : List (Nat × List Byte) := linesOf (ceilDiv bs.length 128) 0 bs

/-- Whether every line of an area can be written now at `.sys`, or fails; with what it takes. -/
def State.areaReady (s : State) (cid ctx : Nat) (va : Word) (n : Nat) : State × Bool :=
  (List.range (ceilDiv n 128)).foldl (fun (t, ok) k =>
    match (t.ctx ctx).translate .store (va + BitVec.ofNat 64 (128 * k)) with
    | .miss _ => (t, ok)
    | .ok ia =>
      let line := ia / 128
      let t0 := t.writeBackL1 cid line
      match t0.prepare (.by .store ctx) ia with
      | (t1, .wait) => (t1, false)
      | (t1, .fail _) => (t1, ok)
      | (t1, r) =>
        let t2 := t1.soleReady r
        (t2, ok && decide ((t2.l1Line cid line).dirty = 0) && !(t2.cmdOwns line) && !(t2.homeWaits.any fun h => h.excl && decide (h.src = t2.did))))
    (s, true)

/-- Who writes an area: a warp, with the version that holds its stores and the lane that they are of, or no warp. -/
structure AreaBy where
  warp : Nat := noWarp
  ver  : Nat := 0
  lane : Nat := 0
deriving DecidableEq, Repr

/-- A line of 128 bytes held under a version as a store of its warp (R219). -/
def State.holdWhole (s : State) (a : AreaBy) (ia : Nat) (va : Word) (bs : List Byte) : State :=
  let sec0 := memSec (ia / 128 * 128)
  let s1 := (s.takeWay a.ver (ia / 128)).noteWhole a.ver ((List.range 8).map (sec0 + ·))
  ((List.range 8).foldl (fun (t : State) q =>
    t.hold a.ver true (sec0 + q) (ia + 16 * q) a.lane (va + BitVec.ofNat 64 (16 * q)) ((bs.drop (16 * q)).take 16)) s1).conflict a.warp sec0

/-- One line written from a core; false where it yields MISS or fails at the memory side. -/
def State.areaLine (s : State) (a : AreaBy) (cid ctx : Nat) (va : Word) (bs : List Byte) : State × Bool :=
  match (s.ctx ctx).translate .store va with
  | .miss _ => (s, false)
  | .ok ia =>
    if a.ver ≠ 0 then
      match s.at (.by .store ctx) ia with
      | .fail c => (s.logFault ia va ctx c, false)
      | _ => (s.holdWhole a ia va bs, true)
    else match s.prepare (.by .store ctx) ia with
      | (s1, .wait) => (s1, false)
      | (s1, .fail c) => (s1.logFault ia va ctx c, false)
      | (s1, r) => ((s1.writeReady r ia a.warp (bs.zipIdx.map fun e => (ia % 128 + e.2, e.1))).dropClean cid (ia / 128), true)

/-- An area's lines written in rising order; how many failed. -/
def State.writeArea (s : State) (a : AreaBy) (cid ctx : Nat) (va : Word) (lines : List (Nat × List Byte)) : State × Nat :=
  lines.foldl (fun (t, n) e =>
    match t.areaLine a cid ctx (va + BitVec.ofNat 64 e.1) e.2 with
    | (t1, true) => (t1, n)
    | (t1, false) => (t1, n + 1)) (s, 0)

end Sys2Proof.Machine
end

