-- ==== Sys2Proof/Machine/Dump.lean ====
section
/-! DEFINITION. Dumps: DUMPW (R344, R345, R348) and the dump of a halted warp (R346). -/

namespace Sys2Proof.Machine

/-! ## What a dump writes -/

/-- The warps of a block in the order of their linear index, with their slots. -/
def State.blockWarps (s : State) (launch blk : Nat) : List (Nat × Warp) :=
  sortBy (fun e => e.2.lin) (s.warps.filter fun e => decide (e.1 < 2 ^ 20) && decide (e.2.launch = launch) &&
    decide (e.2.blk = blk) && decide (e.2.status ≠ .absent) && decide (e.2.status ≠ .retired))

/-- The commands that a dump of some warps records. -/
def State.dumpCmds (s : State) (ks : List Nat) : List Cmd :=
  recorded ((s.cmds.filter fun c => ks.contains c.warp) ++ ks.flatMap fun k => look [] s.haltCmds k)

/-- The sections that fit in `room` bytes: those before the first that does not, and whether one was left out. -/
def fitSections : Nat → List (List Byte) → List (List Byte) × Bool
  | _, [] => ([], false)
  | room, x :: xs =>
    if x.length ≤ room then let r := fitSections (room - x.length) xs; (x :: r.1, r.2)
    else ([], true)

/-- A dump's sections on a core for some warps, whose own sections are `secs`. -/
def State.dumpSections (s : State) (cid blk : Nat) (ks : List Nat) (secs : List (List Byte)) : List (List Byte) :=
  let b := s.block blk
  let cs := commandSection (s.dumpCmds ks)
  s.barSections b.launch b.idx ++ secs ++ [s.spadSection b.launch cid b.idx] ++ if cs = [] then [] else [cs]

/-- The dump header. -/
def State.dumpHeader (s : State) (k blk nwarp ncmd size nfail : Nat) (partial_ : Bool) : List Byte :=
  let w := s.warp k
  let b := s.block blk
  let lines := sumOf (·.lines) (s.blockRegions b.launch (cidOf k) b.idx)
  layBytes 256 (s.areaFields (cidOf k) blk nwarp ncmd lines ++
    [(0x38, 8, s.clk), (0x40, 8, widOf k * 2 ^ 48 + bits w.tcause.toNat 23 16 * 2 ^ 40 + w.ctx % 2 ^ 16 * 2 ^ 24 +
        Bool.n (s.ctx w.ctx).conf * 2 + Bool.n partial_), (0x48, 8, nfail % 2 ^ 32 * 2 ^ 32), (0x50, 8, size)])

/-- A dump for warp `k` of the warps in slots `ks`, with their sections, at an area of `room` bytes: the state, and whether it is
whole. Every write is made in one step, once each can be made (DESIGN CHOICE, log 28). The header counts every warp and command, also those
whose sections are omitted (DEDUCED, log 43). -/
def State.writeDump (s : State) (a : AreaBy) (k blk : Nat) (va : Word) (room : Nat) (ks : List Nat) (warps : List (List Byte)) :
    State × Bool :=
  let ctx := (s.warp k).ctx
  let cid := cidOf k
  let (secs, part) := fitSections (room - 256) (s.dumpSections cid blk ks warps)
  let ncmd := (s.dumpCmds ks).length
  let body := secs.flatten
  let hdr (nfail : Nat) : List Byte := s.dumpHeader k blk ks.length ncmd (256 + body.length) nfail part
  let whole (nfail : Nat) : List Byte := s.sealBytes ctx va 0x38 0x48 (hdr nfail ++ body)
  let lines := (areaLines (whole 0)).drop 2
  let (s1, nfail) := s.writeArea a cid ctx va lines
  let (s2, n2) := s1.writeArea a cid ctx va ((areaLines (whole nfail)).take 2)
  (s2, decide (nfail + n2 = 0) && !part)

/-! ## DUMPW -/

/-- The warps of the issuing warp's block, but for itself. -/
def State.blockMates (s : State) (k : Nat) : List (Nat × Warp) :=
  let w := s.warp k
  (s.blockWarps w.launch w.blk).filter fun e => decide (e.1 ≠ k)

def Warp.inDumpw (w : Warp) : Bool := match w.wait with | .dumpw _ _ _ _ => decide (w.status = .run) | _ => false

/-- A DUMPW ended with its status. -/
def State.endDumpw (s : State) (k : Nat) (ok : Bool) : State :=
  match (s.warp k).wait with
  | .dumpw _ _ d mask => s.asWarp k fun t => (t.setW { t.w with wait := .none, ready0 := t.clk }).statusNext mask d ok
  | _ => s

/-- Whether a version has a way for each of some lines (R219), taken one after another. -/
def State.waysFor (s : State) (v : Nat) (lines : List Nat) : Bool :=
  (lines.foldl (fun (t, ok) k => if t.wayFree v k then (t.takeWay v k, ok) else (t, false)) (s, true)).2

/-- The memory lines of an area that translate. -/
def State.linesAt (s : State) (ctx : Nat) (va : Word) (n : Nat) : List Nat :=
  (List.range (ceilDiv n 128)).filterMap fun k => match (s.ctx ctx).translate .store (va + BitVec.ofNat 64 (128 * k)) with
    | .ok ia => some (ia / 128)
    | .miss _ => none

/-- Whether the writes of a DUMPW can be made: a version that holds the warp's stores needs a way for each line, without which a
try aborts and a task waits to become the oldest (R219, R306); stores that nothing holds must be performed at `.sys`. -/
def State.dumpwReady (s : State) (k v : Nat) (va : Word) (n : Nat) : State × Bool :=
  let ctx := (s.warp k).ctx
  if v = 0 then s.areaReady (cidOf k) ctx va n
  else if s.waysFor v (s.linesAt ctx va n) then (s, true)
  else
    let x := look {} s.vers v
    if x.task then ({ s with vers := put {} s.vers v { x with stalled := true } }, false)
    else (s.asWarp k fun t => t.abortTry 2 none, false)

/-- A waiting DUMPW goes on: of two that wait in one block the higher WID gives up; the dump is written once no other warp
of the block runs, the warp's loads and stores and the block's copies, those of retired warps among them, are over, and its area
can be written. -/
def State.runDumpw (s : State) (k : Nat) : State :=
  let w := s.warp k
  match w.wait with
  | .dumpw a b _ mask =>
    let mates := s.blockMates k
    if mates.any fun e => e.2.inDumpw && decide (e.1 < k) then s.endDumpw k false
    else if (mates.any fun e => decide (e.2.status = .run)) || !s.quiet k ||
        (s.cmds.any fun c => decide (c.launch = w.launch) && decide (c.blk = w.blk) && !c.tiles) then s
    else if b.toNat < 256 then s.endDumpw k false
    else
      let ws := s.blockWarps w.launch w.blk
      let ks := ws.map (·.1)
      let warps := (s.launch w.launch).warpSections (ws.map (·.2))
      let v := s.holdTag k
      let size := 256 + ((fitSections (b.toNat - 256) (s.dumpSections (cidOf k) w.blk ks warps)).1.flatten).length
      match s.dumpwReady k v a size with
      | (s1, false) => s1
      | (s1, true) =>
        let r := s1.writeDump { warp := k, ver := v, lane := lowestLane mask } k w.blk a b.toNat ks warps
        r.1.endDumpw k r.2
  | _ => s

def execDumpw (o : OpO) (s : State) : Host.Outcome State Fault Refusal :=
  let w := s.w
  let h := w.holds o.pr
  let a := w.val64 o.a
  warpWide (.dumpw o) o.pr [(o.a, 2), (o.b, 2)] 8 s { early := misalign a 128 } fun t =>
    let t1 := t.setW { t.w with wait := .dumpw (BitVec.ofNat 64 a) (BitVec.ofNat 64 (w.val64 o.b)) o.d h }
    let t2 := ((t1.blockMates t.cur).filter fun e => e.2.inDumpw && decide (t.cur < e.1)).foldl
      (fun (u : State) e => u.endDumpw e.1 false) t1
    t2.runDumpw t.cur

/-! ## The dump of a halted warp (R346) -/

/-- 4 KiB units of the pool of a context. -/
def Ctx.poolUnits (c : Ctx) : Nat := c.spsz.toNat / 4096

/-- Whether a run of units overlaps no save area and no dump. -/
def Ctx.unitsFree (c : Ctx) (lo n : Nat) : Bool :=
  (c.areas.all fun e =>
    let at_ := (e.1 - c.spool).toNat / 4096
    decide (at_ + e.2 ≤ lo) || decide (lo + n ≤ at_)) &&
  c.dumps.all fun e => decide (e.1 + e.2 ≤ lo) || decide (lo + n ≤ e.1)

/-- The highest run of `n` free units of a pool: it ends at the pool's end or where an area or a dump begins. -/
def Ctx.dumpAt (c : Ctx) (n : Nat) : Option Nat :=
  let tops := c.poolUnits :: (c.areas.map fun e => (e.1 - c.spool).toNat / 4096) ++ c.dumps.map (·.1)
  let los := (tops.filter fun t => decide (n ≤ t) && decide (t ≤ c.poolUnits) && c.unitsFree (t - n) n).map (· - n)
  match los with
  | [] => none
  | x :: xs => some (xs.foldl Nat.max x)

/-- A halted warp's dump: written to the pool's highest free units once its loads and stores are over; with no room for it
the warp counts as retired at once. -/
def State.haltDump (s : State) (k : Nat) : State :=
  let w := s.warp k
  if !s.quiet k then s
  else
    let c := s.ctx w.ctx
    let warps := [w.section_]
    let total := 256 + (s.dumpSections (cidOf k) w.blk [k] warps).flatten.length
    let n := ceilDiv total 4096
    let given (t : State) : State :=
      let t1 := t.putWarp k { t.warp k with wait := .none }
      { t1 with haltCmds := put [] t1.haltCmds k [] }
    match c.dumpAt n with
    | none => given s
    | some lo =>
      let va := c.spool + BitVec.ofNat 64 (4096 * lo)
      match s.areaReady (cidOf k) w.ctx va total with
      | (s1, false) => s1
      | (s1, true) =>
        let s2 := (s1.writeDump {} k w.blk va total [k] warps).1
        given (s2.putCtx w.ctx { s2.ctx w.ctx with dumps := c.dumps ++ [(lo, n)] })

/-- The order in which a halted warp halted, none where it waits for no dump. -/
def Warp.dumpNo (w : Warp) : Option Nat :=
  match (if w.status = .halted then w.wait else .none) with | .dump n => some n | _ => none

/-- The dumps of halted warps written as far as they can be: in each context in the order of the halts (R346). -/
def State.haltDumps (s : State) : State :=
  let due := sortBy (·.1) (s.warps.filterMap fun e => if e.1 < 2 ^ 20 then e.2.dumpNo.map fun n => (n, e.1) else none)
  (due.foldl (fun (t, held) e =>
    let x := (t.warp e.2).ctx
    if held.contains x then (t, held)
    else
      let t1 := t.haltDump e.2
      (t1, if (t1.warp e.2).dumpNo.isSome then x :: held else held)) (s, ([] : List Nat))).1

end Sys2Proof.Machine
end

