-- ==== Sys2Proof/Machine/Launch.lean ====
section
/-! DEFINITION. The distributor: launch commands (R147, R355), the launch record and the job card (R131 to R133, R150), the
order and the place of units (R151, R152), free-resource reports (R149), warps at launch (R134, R142) and after a save
(R310), launch completion (R145, R148), with what gangs add (R387). -/

namespace Sys2Proof.Machine

/-! ## Reads of the device itself -/

/-- What reading some bytes of a context's memory answers. -/
inductive DevRead where
  | ok (s : State) (bs : List Byte)
  | bad (s : State)
  | wait (s : State)

/-- `n` sectors from a VA as their homes hold them. -/
def State.devSectors (s : State) (ctx : Nat) (va : Word) : Nat → DevRead
  | 0 => .ok s []
  | n + 1 =>
    match s.devSectors ctx va n with
    | .ok s1 bs =>
      match (s1.ctx ctx).translate .load (va + BitVec.ofNat 64 (16 * n)) with
      | .miss _ => .bad s1
      | .ok ia => match s1.prepare (.by .load ctx) ia with
        | (s2, .wait) => .wait s2
        | (s2, .fail c) => .bad (s2.logFault ia va ctx c)
        | (s2, r) =>
          let x := s2.readySector r (ia % 128 / 16)
          if x.mark = .none then .ok s2 (bs ++ x.data) else .bad s2
    | r => r

def State.devRead (s : State) (ctx : Nat) (va : Word) (n : Nat) : DevRead := s.devSectors ctx va ((n + 15) / 16)

/-! ## The launch record (R131 to R133) -/

/-- A launch as its record gives it. -/
def recordOf (bs : List Byte) (recVA doneVA : Word) (ctx order : Nat) : Launch :=
  let q := recWord bs
  let nlvl := bits (q 2) 39 32
  { recVA := recVA, doneVA := doneVA, ctx := ctx, order := order, entry := getW bs 0, args := getW bs 8
    gang := bits (q 2) 31 0, l1wb := bit (q 2) 43, det := bit (q 2) 42, vers := bit (q 2) 41, idem := bit (q 2) 40
    lanes := bits (q 3) 39 32, bnd := bits (q 3) 31 16, rows := bits (q 3) 15 0, expcyc := q 4
    levels := (List.range nlvl).map fun i =>
      let a := q (8 + 2 * i)
      { ext := bits a 31 0, dom := bits a 34 32, scope := bits a 38 36, prio := bits a 41 40, spad := bits (q (9 + 2 * i)) 31 0 } }

/-- A must-be-zero field of the record that is not, or a reserved code. -/
def recordReserved (bs : List Byte) : Bool :=
  let q := recWord bs
  let nlvl := Nat.min (bits (q 2) 39 32) 8
  decide (bits (q 2) 63 44 ≠ 0) || decide (bits (q 3) 63 40 ≠ 0) || decide (q 6 ≠ 0) || decide (q 7 ≠ 0) ||
    ((List.range 8).any fun i =>
      let a := q (8 + 2 * i)
      let b := q (9 + 2 * i)
      if i < nlvl then decide (bits a 63 42 ≠ 0) || bit a 39 || bit a 35 || decide (bits b 63 32 ≠ 0) || decide (4 < bits a 34 32) ||
        decide (bits a 38 36 = 7)
      else decide (a ≠ 0) || decide (b ≠ 0)) ||
    (List.range 8).any fun i => decide (q (24 + i) ≠ 0)

/-- R129 and the SPAD of wide levels. -/
def Launch.badBinding (l : Launch) : Bool :=
  decide ((l.level 0).dom ≠ 0) ||
    ((List.range (l.nlvl - 1)).any fun i =>
      let a := l.level i
      let b := l.level (i + 1)
      decide (b.dom < a.dom) || decide (b.scope < b.dom + 1) || decide (b.scope < a.scope)) ||
    (l.levels.any fun x => decide (2 ≤ x.dom) && decide (x.spad ≠ 0)) ||
    ((l.levels.any fun x => decide (x.dom = 4)) && decide (l.gang = 0))

/-! ## Placement units and resources (R140, R141, R149, R151, R152) -/

/-- Free resources of a core. -/
structure CFree where
  lines : Nat := 32768
  rows  : Nat := 8192
  sub   : List Nat := [16, 16, 16, 16]
deriving DecidableEq, Repr

def CFree.toList (f : CFree) : List Nat := f.lines :: f.rows :: f.sub
def CFree.ofList : List Nat → CFree
  | l :: r :: sub => { lines := l, rows := r, sub := sub }
  | _ => {}
def CFree.warps (f : CFree) : Nat := f.sub.foldl (· + ·) 0

/-- The sub-core with the most free slots, the lower of equals. -/
def pickSub (sub : List Nat) : Nat :=
  (List.range sub.length).foldl (fun b i => if nth 0 sub b < nth 0 sub i then i else b) 0

/-- Slots taken one at a time (R142): the sub-cores taken, and what is left. -/
def takeSlots : Nat → List Nat → List Nat × List Nat
  | 0, sub => ([], sub)
  | n + 1, sub =>
    let i := pickSub sub
    let r := takeSlots n (setNth sub i (nth 0 sub i - 1))
    (i :: r.1, r.2)

/-- The highest level bound to the cluster domain, and the level whose units are placed. -/
def Launch.topClus (l : Launch) : Option Nat := (List.range l.nlvl).reverse.find? fun i => decide ((l.level i).dom = 1)
def Launch.unitLevel (l : Launch) : Nat := l.topClus.getD l.blkLevel

/-- Blocks of one placement unit. -/
def Launch.unitBlocks (l : Launch) : Nat := l.prod (l.blkLevel + 1) l.unitLevel

/-- The levels bound to the pod partition hold one unit for each rank; a device places the units of its own rank. -/
def Launch.devTop (l : Launch) : Nat := (l.levels.filter fun x => decide (x.dom ≤ 3)).length - 1
def Launch.unitCount (l : Launch) : Nat := l.prod (l.unitLevel + 1) l.devTop
def Launch.firstUnit (l : Launch) : Nat :=
  match l.gangRow with
  | some (_, rank) => if l.devTop + 1 < l.nlvl then rank * l.unitCount else 0
  | none => 0
def Launch.blockCount (l : Launch) : Nat := l.unitCount * l.unitBlocks

/-- Scratchpad lines of a block's own levels, and the cluster-level regions that a block needs: level and unit. -/
def Launch.blockLines (l : Launch) : Nat :=
  sumOf (fun i => if (l.level i).dom = 0 then (l.level i).spad / 128 * l.prod (i + 1) l.blkLevel else 0) (List.range l.nlvl)
def Launch.clusRegions (l : Launch) (idx : Nat) : List (Nat × Nat) :=
  ((List.range l.nlvl).filter fun i => decide ((l.level i).dom = 1) && decide (0 < (l.level i).spad)).map fun i => (i, l.unit i idx 0)

/-- Lines that a block takes on a core that already holds some cluster-level regions. -/
def Launch.linesFor (l : Launch) (idx : Nat) (have_ : List (Nat × Nat)) : Nat :=
  l.blockLines + sumOf (fun e => if have_.contains e then 0 else (l.level e.1).spad / 128) (l.clusRegions idx)

/-- A core that could take blocks: its number, what is free of it, and the regions that the unit holds there. -/
structure Cand where
  cid  : Nat
  free : CFree
  have_ : List (Nat × Nat) := []
deriving DecidableEq, Repr

def Launch.fits (l : Launch) (idx : Nat) (c : Cand) : Bool :=
  decide (l.linesFor idx c.have_ ≤ c.free.lines) && decide (l.wBlk * l.rows ≤ c.free.rows) && decide (l.wBlk ≤ c.free.warps)

def Launch.take (l : Launch) (idx : Nat) (c : Cand) : Cand :=
  { c with
    free := { lines := c.free.lines - l.linesFor idx c.have_, rows := c.free.rows - l.wBlk * l.rows
              sub := (takeSlots l.wBlk c.free.sub).2 }
    have_ := c.have_ ++ (l.clusRegions idx).filter fun e => !c.have_.contains e }

/-- The blocks of a unit laid out round-robin over some cores, from the core at position `p` on, skipping cores that cannot
take a block; none if a block finds no core. -/
def Launch.roundRobin (l : Launch) : List Nat → Nat → List Cand → Option (List (Nat × Nat))
  | [], _, _ => some []
  | idx :: rest, p, cs =>
    let n := cs.length
    match (List.range n).find? fun k => l.fits idx (nth { cid := 0, free := { lines := 0, rows := 0, sub := [] } } cs ((p + k) % n)) with
    | none => none
    | some k =>
      let i := (p + k) % n
      let c := nth { cid := 0, free := {} } cs i
      (l.roundRobin rest (i + 1) (setNth cs i (l.take idx c))).map fun r => (idx, c.cid) :: r

/-- One unit of a core or cluster level that no empty instance of its domain can hold (R133, TOO-LARGE). -/
def Launch.tooLarge (l : Launch) : Bool :=
  decide (64 < l.wBlk) || decide (8192 < l.wBlk * l.rows) ||
    (if l.topClus.isNone then !l.fits 0 { cid := 0, free := {} }
     else decide (256 < l.unitBlocks) || (l.roundRobin (List.range l.unitBlocks) 0
       ((List.range 4).map fun i => { cid := i, free := {} })).isNone)

/-- The STATUS of a record's bytes under codes 0x03 to 0x07, 0 if it passes. -/
def recordStatus (bs : List Byte) (l : Launch) : Nat :=
  if recordReserved bs then 3
  else if l.nlvl = 0 ∨ 8 < l.nlvl ∨ l.lanes = 0 ∨ 32 < l.lanes ∨ (l.levels.any fun x => decide (x.ext = 0) || decide (x.spad % 128 ≠ 0)) then 4
  else if l.badBinding then 5
  else if l.rows = 0 ∨ l.bnd = 0 ∨ 256 < l.bnd ∨ l.rows < l.bnd then 6
  else if l.tooLarge then 7
  else 0

/-! ## The job card (R150) -/

/-- The card that 64 bytes hold, if every field keeps its rule. -/
def cardOf (l : Launch) (bs : List Byte) : Option JobCard :=
  let q := recWord bs
  let rsize := bits (q 2) 31 16
  if getW bs 0 ≠ l.entry ∨ q 1 % 16 ≠ 0 ∨ rsize % 16 ≠ 0 ∨ rsize < 16 ∨ 4096 < rsize ∨ bits (q 2) 15 0 = 0 ∨
      ((List.range 5).any fun i => decide (q (3 + i) ≠ 0)) then none
  else some { recs := getW bs 8, nrec := bits (q 2) 63 32, rsize := rsize, minch := bits (q 2) 15 0 }

/-! ## Acceptance -/

/-- Whether a word can be the entry header of a launch: BAD-ENTRY otherwise, with the state that the read leaves; an error while it
cannot be read. -/
def State.entryOk (s : State) (ctx : Nat) (a : Word) : Except State (Bool × State) :=
  if a.toNat % 8 ≠ 0 then .ok (false, s)
  else match s.fetchWord ctx a with
    | .wait s1 => .error s1
    | .trap _ s1 => .ok (false, s1)
    | .word w s1 => .ok (headerOk w && !hdrHandler w, s1)

/-- The record of an accepted launch read and checked, with its job card; a launch whose memory cannot be read yet stays
unread. -/
def State.readLaunch (s : State) (id : Nat) : State :=
  let l := s.launch id
  let reject (t : State) (st : Nat) : State := t.putLaunch id { l with unread := false, verdict := some st }
  if !l.unread then s
  else if l.recVA.toNat % 128 ≠ 0 then reject s 1
  else match s.devRead l.ctx l.recVA 256 with
    | .wait s1 => s1
    | .bad s1 => reject s1 1
    | .ok s1 bs =>
      let l1 := { recordOf bs l.recVA l.doneVA l.ctx l.order with came := l.came, gangRow := l.gangRow, prime := l.prime }
      match s1.entryOk l.ctx l1.entry with
      | .error s2 => s2
      | .ok (false, s2) => reject s2 2
      | .ok (true, s2) =>
        let st := recordStatus bs l1
        let job := getW bs 0x28
        if st ≠ 0 then reject s2 st
        else if job = 0 then s2.putLaunch id l1
        else if job.toNat % 64 ≠ 0 then reject s2 8
        else match s2.devRead l.ctx job 64 with
          | .wait s3 => s3
          | .bad s3 => reject s3 8
          | .ok s3 cb => match cardOf l1 cb with
            | none => reject s3 8
            | some j => s3.putLaunch id { l1 with job := some j, rem := j.nrec }

/-- A launch accepted in this clock: by a command from a fabric port, or for a rank of a gang, which counts as coming after the
ports (DESIGN CHOICE, log 111). -/
def State.acceptLaunch (s : State) (recVA doneVA : Word) (ctx port : Nat) (gang : Option (Nat × Nat)) (prime : Word) : State :=
  let id := s.nextId
  ({ s with nextId := id + 1 }.putLaunch id
    { recVA := recVA, doneVA := doneVA, ctx := ctx, order := id, came := (s.clk, port), unread := true, gangRow := gang
      prime := prime }).readLaunch id

/-- A launch command from a fabric port (R355, R147): dropped and counted, or passed to the distributor. -/
def State.launchCommand (s : State) (p : Rec8) (port : Nat) : State :=
  let w0 := p.w0.toNat
  let ctx := bits p.w3.toNat 63 48
  let c := s.ctx ctx
  let bad := !c.v || decide (bits w0 55 38 ≠ c.host) || decide (bits w0 19 0 ≠ 0) || decide (bits p.w3.toNat 47 0 ≠ 0) ||
    decide (p.w4 ≠ 0) || decide (p.w5 ≠ 0) || decide (p.w6 ≠ 0) || decide (p.w7 ≠ 0) || decide (p.w2.toNat % 8 ≠ 0)
  if bad then { s with errCnt := s.errCnt + 1 } else s.acceptLaunch p.w1 p.w2 ctx port none 0

def execLaunchCommand (pkt : LaunchPkt) (s : State) : Host.Outcome State Fault Refusal :=
  .next (s.launchCommand pkt.words pkt.port)

/-! ## The shadow (R149) -/

/-- What is free of a core now. Pool rows of a retired warp count until its TILES is 0, and regions while commands use them
(R144). -/
def State.freeNow (s : State) (cid : Nat) : CFree :=
  let ws := s.warps.filter fun e => decide (e.1 < 2 ^ 20) && decide (cidOf e.1 = cid) && decide (e.2.status ≠ .absent)
  let zs := s.warps.filter fun e => decide (2 ^ 20 ≤ e.1) && s.cmds.any fun c => decide (c.warp = e.1) && decide (c.core = cid)
  let pinned := if s.pins.any fun e => e.2.v && !e.2.kind && decide (e.2.tgt = cid) then 16384 else 0
  { lines := 32768 - pinned - sumOf (·.lines) (s.core cid).regions
    rows := 8192 - sumOf (fun e => e.2.rows) (ws ++ zs)
    sub := (List.range 4).map fun i => 16 - (ws.filter fun e => decide (widOf e.1 / 16 = i)).length }

def State.shadowOf (s : State) (cid : Nat) : CFree := CFree.ofList (look [] s.shadow cid)

/-- Lines that a pin waits for on a core (R188). -/
def State.pinDue (s : State) (cid : Nat) : Nat :=
  if s.pins.any fun e => e.2.pend && !e.2.kind && decide (e.2.tgt = cid) then 16384 else 0

/-- A core's report: the shadow set to it, less the placements that the core had not received. -/
def State.reportCore (s : State) (cid : Nat) : State :=
  let f := s.freeNow cid
  let q := (s.core cid).pseq % 2 ^ 14
  let late := (look [] s.sent cid).filter fun e => decide (0 < (e.1 % 2 ^ 14 + 2 ^ 14 - q) % 2 ^ 14) &&
    decide ((e.1 % 2 ^ 14 + 2 ^ 14 - q) % 2 ^ 14 < 2 ^ 13)
  let sub (a b : List Nat) : List Nat := (List.range a.length).map fun i => nth 0 a i - nth 0 b i
  let x := late.foldl (fun a e => sub a e.2) (CFree.toList { f with lines := f.lines - s.pinDue cid })
  { s with shadow := put [] s.shadow cid x, sent := put [] s.sent cid late }

/-- The reports of a die's active cores; with die 0's, a report interval ends for the units skipped in it (R151). -/
def State.dieReport (s : State) (die : Nat) : State :=
  let cids := (List.range Config.coresPerDie).map (die * Config.coresPerDie + ·)
  let s1 := cids.foldl (fun (t : State) c => t.reportCore c) s
  if die ≠ 0 then s1
  else { s1 with launches := s1.launches.map fun e =>
    let l := e.2
    (e.1, { l with skips := l.skipped.foldl (fun m u => put 0 m u (look 0 l.skips u + 1)) [], skipped := [] }) }

def execResourceReport (die : Nat) (s : State) : Host.Outcome State Fault Refusal :=
  .next (if die < 4 then s.dieReport die else s)

/-- A unit skipped in 64 consecutive report intervals becomes blocking. -/
def execUnitBlocking (launch unit : Nat) (s : State) : Host.Outcome State Fault Refusal :=
  let l := s.launch launch
  .next (if 64 ≤ look 0 l.skips unit ∧ ¬ l.blocking.contains unit then s.putLaunch launch { l with blocking := l.blocking ++ [unit] } else s)

/-! ## The order of pending units (R151) -/

/-- Lexicographic order of two keys, higher values first; of two keys of which one begins the other, the longer goes first (DESIGN
CHOICE, log 103). -/
def keyBefore : List Nat → List Nat → Option Bool
  | [], [] => none
  | [], _ :: _ => some false
  | _ :: _, [] => some true
  | a :: as, b :: bs => if a = b then keyBefore as bs else some (decide (b < a))

/-- PRIO_top, …, PRIO_1. -/
def Launch.key (l : Launch) : List Nat := ((l.levels.drop 1).map (·.prio)).reverse

/-- Which of two launches is placed first: by key, then by acceptance: by clock, by fabric port, by order of arrival (R147). -/
def launchBefore (a b : Nat × Launch) : Bool :=
  match keyBefore a.2.key b.2.key with
  | some x => x
  | none => decide (a.2.came.1 < b.2.came.1) || (decide (a.2.came.1 = b.2.came.1) &&
      (decide (a.2.came.2 < b.2.came.2) || (decide (a.2.came.2 = b.2.came.2) && decide (a.2.order < b.2.order))))

def insertLaunch (a : Nat × Launch) : List (Nat × Launch) → List (Nat × Launch)
  | [] => [a]
  | b :: bs => if launchBefore a b then a :: b :: bs else b :: insertLaunch a bs

/-- Whether a launch has blocks resident or operations outstanding. -/
def State.resident (s : State) (id : Nat) : Bool :=
  (s.blocks.any fun e => decide (e.2.launch = id) && e.2.live && !e.2.saved) || (s.ops.any fun o => decide (o.launch = id)) ||
    s.cmds.any fun c => decide (c.launch = id)

/-- Whether units of a launch may be placed at all: accepted in an earlier clock, so that its place among the launches of that
clock is known (R147), read and not decided, not over, its L1 policy that of its context's resident launches (R146). -/
def State.placeable (s : State) (e : Nat × Launch) : Bool :=
  let l := e.2
  !l.unread && decide (l.came.1 < s.clk) && l.verdict.isNone && !l.ended && !l.blocked &&
    s.launches.all fun x => decide (x.1 = e.1) || decide (x.2.ctx ≠ l.ctx) || decide (x.2.l1wb = l.l1wb) || !s.resident x.1

def State.pendingLaunches (s : State) : List (Nat × Launch) :=
  (s.launches.filter s.placeable).foldl (fun acc e => insertLaunch e acc) []

/-! ## Where a unit goes (R152) -/

/-- Whether a core may take blocks of a launch: its cluster ready, the core not halted, no block of the launch draining. -/
def State.coreOpen (s : State) (id cid : Nat) : Bool :=
  s.isReady (.clus (cid / 4)) && !(s.core cid).dead &&
    !(s.blocks.any fun e => decide (e.2.launch = id) && e.2.live && decide (e.2.cid = cid) &&
      (match e.2.pre with | .drain _ => true | _ => false))

/-- The die-bound unit, of the highest die-bound level, that holds a unit; and the die it is fixed to. -/
def Launch.dieLevel (l : Launch) : Option Nat := (List.range l.nlvl).reverse.find? fun i => decide ((l.level i).dom = 2)
def Launch.dieUnit (l : Launch) (u : Nat) : Option Nat := l.dieLevel.map fun i => u / l.prod (l.unitLevel + 1) i

/-- A unit's index within its parent, and the instances of its domain within the parent's instance (R152, DET = 1). -/
def Launch.detIndex (l : Launch) (lvl u : Nat) : Nat := if l.nlvl ≤ lvl + 1 then 0 else u % l.ext (lvl + 1)

/-- The die on which a unit must go, if it is fixed. -/
def Launch.dieFor (l : Launch) (u : Nat) : Option Nat :=
  match l.dieUnit u, l.dieLevel with
  | some d, some i => if l.det then some (l.detIndex i d % 4) else match look 0 l.dieOf d with
    | 0 => none
    | n + 1 => some n
  | _, _ => none

/-- The blocks of unit `u`, by linear index, and those that have not retired. -/
def Launch.blocksOf (l : Launch) (u : Nat) : List Nat := (List.range l.unitBlocks).map (u * l.unitBlocks + ·)
def State.blocksLeft (s : State) (id : Nat) (l : Launch) (u : Nat) : List Nat :=
  (l.blocksOf u).filter fun i => !(s.blocks.any fun e => decide (e.2.launch = id) && decide (e.2.idx = i) && !e.2.live)

/-- The layout of a unit over one instance: a core, or a cluster. -/
def State.layoutOn (s : State) (id : Nat) (l : Launch) (u inst : Nat) : Option (List (Nat × Nat)) :=
  let cids := if l.topClus.isNone then [inst] else (List.range 4).map (4 * inst + ·)
  l.roundRobin (s.blocksLeft id l u) 0 ((cids.filter (s.coreOpen id)).map fun c => { cid := c, free := s.shadowOf c })

/-- Free warp slots of an instance. -/
def State.slotsOf (s : State) (l : Launch) (inst : Nat) : Nat :=
  if l.topClus.isNone then (s.shadowOf inst).warps else sumOf (fun i => (s.shadowOf (4 * inst + i)).warps) (List.range 4)

/-- The instances that a unit may go to. -/
def Launch.instances (l : Launch) (u : Nat) : List Nat :=
  let perDie := if l.topClus.isNone then Config.coresPerDie else Config.coresPerDie / 4
  let from_ (d : Nat) : List Nat := (List.range perDie).map (d * perDie + ·)
  match l.dieFor u with
  | some d => if l.det then [d * perDie + l.detIndex l.unitLevel u % perDie] else from_ d
  | none => if l.det then [l.detIndex l.unitLevel u % (4 * perDie)] else List.range (4 * perDie)

/-- The layout of a unit on the instance with the most free slots among those that it fits, the lowest of equals. -/
def State.layoutUnit (s : State) (id : Nat) (l : Launch) (u : Nat) : Option (List (Nat × Nat)) :=
  let fit := (l.instances u).filter fun i => (s.layoutOn id l u i).isSome
  match fit with
  | [] => none
  | x :: xs => s.layoutOn id l u (xs.foldl (fun b i => if s.slotsOf l b < s.slotsOf l i then i else b) x)

/-! ## A block on a core -/

/-- The lowest run of `n` free lines below `limit`, or above every region where none is left (DEDUCED, log 29). -/
def lowestRun (used : List Region) (n limit : Nat) : Nat :=
  let free (b : Nat) : Bool := decide (b + n ≤ limit) && used.all fun r => decide (b + n ≤ r.base) || decide (r.base + r.lines ≤ b)
  match (sortBy id (0 :: used.map fun r => r.base + r.lines)).find? free with
  | some b => b
  | none => maxOf (fun r => r.base + r.lines) ({ launch := 0, level := 0, unit := 0, base := 32768, lines := 0 } :: used)

/-- Lines that new regions of a core may take: not the upper half where a pin holds or awaits it (R188). -/
def State.spadLimit (s : State) (cid : Nat) : Nat :=
  if s.pins.any fun e => (e.2.v || e.2.pend) && !e.2.kind && decide (e.2.tgt = cid) then 16384 else 32768

/-- The victim entries of PTEs in some scratchpad lines of a core dropped: the lines are claimed (R196). -/
def State.claimLines (s : State) (cid lo n : Nat) : State :=
  { s with links := s.links.map fun e =>
      (e.1, { e.2 with victims := e.2.victims.filter fun x => !(decide (2 ^ 20 * cid + lo ≤ x.1) && decide (x.1 < 2 ^ 20 * cid + lo + n)) }) }

/-- The regions of a block allocated on a core, but for those that it holds already. -/
def State.holdRegions (s : State) (id idx cid : Nat) : State :=
  let l := s.launch id
  (l.regionUnits idx).foldl (fun (t : State) e =>
    if (t.region cid id e.1 e.2).isSome then t
    else
      let c := t.core cid
      let n := (l.level e.1).spad / 128
      let base := lowestRun c.regions n (t.spadLimit cid)
      (t.claimLines cid base n).putCore cid
        { c with regions := c.regions ++ [{ launch := id, level := e.1, unit := e.2, base := base, lines := n }] }) s

/-- The lowest free slot of a sub-core. -/
def State.freeSlot (s : State) (cid sub : Nat) : Nat :=
  ((List.range 16).find? fun i => decide ((s.warp (64 * cid + 16 * sub + i)).status = .absent)).map (64 * cid + 16 * sub + ·) |>.getD
    (64 * cid + 16 * sub)

/-- LVL0 to LVL7 of a warp (R134, R135). -/
def Launch.lvls (l : Launch) (idx lin : Nat) : FMap Nat :=
  let b := l.blkLevel
  (List.range l.nlvl).foldl (fun m i =>
    let below := if i = 0 then lin else if i ≤ b then lin / l.warpsOf (i - 1) else if i = b + 1 then idx
      else idx / l.prod (b + 1) (i - 1)
    put 0 m i (below % l.ext i)) []

/-- A warp at launch. -/
def Launch.newWarp (l : Launch) (id blk idx lin clk : Nat) : Warp :=
  let m := lanesBelow l.lanes
  { status := .run, ctx := l.ctx, launch := id, blk := blk, lin := lin, lvl := l.lvls idx lin, exist := m, alive := m, exm := m
    rows := l.rows, bnd := l.bnd, pc := l.entry, hdr := l.entry, atHead := true
    s := put {} (put {} [] 0 { val := l.args }) 1 { val := l.recVA }
    prio := (l.level 0).prio, basePrio := (l.level 0).prio, lastIssue := clk, ready0 := clk }

/-- Warps put into slots of a core, in order (R142). -/
def State.seat (s : State) (cid : Nat) : List Warp → State
  | [] => s
  | w :: ws =>
    let k := s.freeSlot cid (pickSub (s.freeNow cid).sub)
    (s.putWarp k w).seat cid ws

/-- A placement counted: the shadow lowered, and the core's sequence number raised. -/
def State.countPlacement (s : State) (cid lines rows warps : Nat) : State :=
  let f := s.shadowOf cid
  let g : CFree := { lines := f.lines - lines, rows := f.rows - rows, sub := (takeSlots warps f.sub).2 }
  let c := s.core cid
  let used := (List.range 6).map fun i => nth 0 f.toList i - nth 0 g.toList i
  { (s.putCore cid { c with pseq := c.pseq + 1 }) with
    shadow := put [] s.shadow cid g.toList, sent := put [] s.sent cid (look [] s.sent cid ++ [(c.pseq + 1, used)]) }

/-- The slots in which a block's warps sit, but for those that have halted. -/
def State.slotsOfBlock (s : State) (blk : Nat) : List Nat :=
  (sortBy (fun e => e.2.lin) (s.warps.filter fun e => decide (e.1 < 2 ^ 20) && decide (e.2.blk = blk) &&
    decide (e.2.status ≠ .absent) && decide (e.2.status ≠ .halted))).map (·.1)

/-! ## A saved block placed again (R310) -/

/-- The first header of a restored warp that is still to be read again: the current block's (0), or that of an entry of the
reconvergence stack, with its address. -/
def Warp.unreadHeader (w : Warp) : Option (Nat × Word) :=
  (((w.hdr, w.hw) :: w.rstk.map fun e => (e.ppc - 8 * BitVec.ofNat 64 e.phoff, e.hw)).zipIdx.find? fun e =>
    decide (e.1.2 = 0)).map fun e => (e.2, e.1.1)

/-- A header word as read again. -/
def Warp.withHeader (w : Warp) (i : Nat) (x : Word) : Warp :=
  match i with
  | 0 => { w with hw := x }
  | j + 1 => { w with rstk := w.rstk.zipIdx.map fun e => if e.2 = j then { e.1 with hw := x } else e.1 }

/-- The next header of a restored warp read again from memory (R105, R314), before its next instruction. One that cannot be read
or is no header any more is a trap there (DESIGN CHOICE, log 112). -/
def State.rereadHeaders (s : State) : State :=
  let w := s.w
  let lost (t : TrapInfo) (u : State) : State :=
    match u.handlerWaits t with
    | some u1 => u1
    | none => (u.setW { u.w with reread := false }).takeTrap t w.pc
  match w.unreadHeader with
  | none => s.setW { w with reread := false }
  | some (i, a) => match s.fetchWord w.ctx a with
    | .wait s1 => s1
    | .trap t s1 => lost t s1
    | .word x s1 =>
      if headerOk x then s1.setW (s1.w.withHeader i x)
      else lost { cls := clsIllegal, cause := Illegal.badHeader.code, addr := a } s1

/-- What a restored warp waits for: the generation saved, if it waited at a barrier. -/
def restoredWait (old : Wait) (waitb waitg : Nat) : Wait :=
  match old with
  | .barrier _ _ _ d mask => if bit waitb 7 then .barrier (bits waitb 6 4) (bits waitb 3 0) waitg d mask else .none
  | _ => .none

/-- The sections of a block's area from its bytes: barriers, warps, scratchpad, commands. -/
structure Area where
  bars  : List Byte
  warps : List (List Byte)
  spad  : List Byte
  cmds  : List Byte

def areaOf (nbar nwarp rows lines : Nat) (bs : List Byte) : Area :=
  let b := bs.drop 256
  let ws := b.drop (128 * nbar)
  let n := sectionLen rows
  let sp := ws.drop (n * nwarp)
  let m := alignUp (129 * lines) 128
  { bars := b.take (128 * nbar), warps := (List.range nwarp).map fun i => (ws.drop (n * i)).take n
    spad := sp.take m, cmds := sp.drop m }

/-- Barriers of the units that hold a block set from an area. -/
def State.loadBars (s : State) (id idx : Nat) (bs : List Byte) : State :=
  let l := s.launch id
  l.barLevels.zipIdx.foldl (fun (t : State) e => (List.range 16).foldl (fun (u : State) i =>
    { u with bars := put {} u.bars (barKey id e.1 (l.unit e.1 idx 0) i) (barOf (getN bs (128 * e.2 + 8 * i) 8)) }) t) s

/-- The scratchpad lines of some units set from an area; a marked sector comes back with kind RESTORED (R296). -/
def State.loadSpad (s : State) (id cid : Nat) (us : List (Nat × Nat)) (bs : List Byte) : State :=
  let lines := (s.regionsOf id cid us).flatMap fun r => (List.range r.lines).map (r.base + ·)
  lines.zipIdx.foldl (fun (t : State) e =>
    let psn := getN bs (128 * lines.length + e.2) 1
    (List.range 8).foldl (fun (u : State) q =>
      u.putSpadSector cid (128 * e.1 + 16 * q)
        (if bit psn q then zeroSector .restored else { data := (bs.drop (128 * e.2 + 16 * q)).take 16, mark := .none })) t) s

/-- The sources of a recorded TMAC: the boxes of the K-steps that are left, read as loads of its warp (R287). -/
def State.tmacSrcs (s : State) (c : Cmd) : List Src :=
  match c.kind with
  | .mat m recs => match tmacBoxes m recs with
    | some (_, a, b) => { s with cur := c.warp }.memSrcs (boxKeys a b m.aoff m.boff (stepK a.sf) c.sleft c.vcnt)
    | none => c.src
  | _ => c.src

/-- A recorded command where its scratchpad lines lie now. -/
def State.relocate (s : State) (c : Cmd) : Cmd :=
  let w := s.warp c.warp
  let cid := c.core
  let at_ (key : Nat) (old : Loc) : Loc :=
    if key < 2 ^ 60 then old
    else
      let d := 16 * key - 2 ^ 64
      match s.formAt w cid d 0 with
      | some p => .spad p.1 p.2
      | none => old
  { c with src := if c.opc = 0xAE then s.tmacSrcs c else c.src.map fun e => { e with loc := at_ e.key e.loc }
           dst := c.dst.map fun e => (e.1, at_ e.1 e.2) }

/-- The commands brought back with some blocks of a launch, once the regions of them all are held. -/
def State.relocateUnit (s : State) (id : Nat) (idxs : List Nat) : State :=
  { s with cmds := s.cmds.map fun c =>
      if decide (c.launch = id) && decide (c.warp < 2 ^ 20) && idxs.contains (s.block c.blk).idx then s.relocate c else c }

/-- A saved block's contents brought back on its new core: its area read, its warps seated, its commands issued again. The core
drops its clean lines, so that no lane reads behind what it has read or written on another core (R228). -/
def State.restoreBlock (s : State) (blk cid : Nat) (image : List Byte) : State :=
  let b := s.block blk
  let l := s.launch b.launch
  let lines := getN image 0x34 4
  let a := areaOf l.barLevels.length l.wBlk l.rows lines image
  let c := s.core cid
  let tuse := getW image 0x28
  let b1 : Block := { b with cid := cid, saved := false, live := true, at_ := s.clk, elapsed := getN image 0x10 8, tuse := tuse
                             pre := .none, area := none, warps := [], cmds := [], image := [], tname := 0, held := [] }
  let td := getW image 0x18 &&& tuse
  let s1 := ((s.putBlock blk b1).putCore cid { c with
    tagDone := c.tagDone ||| td, tagErr := c.tagErr ||| (getW image 0x20 &&& tuse), tagName := c.tagName ||| (b.tname &&& td) })
  let ws := b.warps.map fun old =>
    let sec := nth [] a.warps old.lin
    let x := getN sec 0x10 8
    { old.ofSection sec with
      wait := restoredWait old.wait (bits x 7 0) (getN sec 0x20 4), lastIssue := s1.clk, ready0 := s1.clk, urgent := false
      status := old.status, hw := 0, reread := true }
  let s2 := (((s1.seat cid ws).loadBars b.launch b.idx a.bars).loadSpad b.launch cid b.held a.spad).dropAllClean cid
  let slots := s2.slotsOfBlock blk
  -- a version kept by a warp of the block goes with it
  let s3 := b.warps.zipIdx.foldl (fun (t : State) e =>
    let k := nth 0 slots e.2
    { t with vers := t.vers.map fun v => if v.1 = e.1.tskVer ∧ e.1.tskVer ≠ 0 then (v.1, { v.2 with warp := k }) else v }) s2
  (cmdsOf b.cmds a.cmds).foldl (fun (t : State) c0 =>
    let k := nth 0 slots c0.warp
    { t with nextId := t.nextId + 1
             cmds := t.cmds ++ [{ c0 with id := t.nextId, blk := blk, warp := k, wid := widOf k, core := cid }] }) s3

/-! ## Placement -/

/-- The saved block of a launch with a linear index. -/
def State.savedBlock (s : State) (id idx : Nat) : Option (Nat × Block) :=
  s.blocks.find? fun e => decide (e.2.launch = id) && decide (e.2.idx = idx) && e.2.saved

/-- Whether the areas of a unit's saved blocks can be read now; with what it takes. -/
def State.areasReady (s : State) (id : Nat) (idxs : List Nat) : State × Bool :=
  idxs.foldl (fun (t, ok) i => match t.savedBlock id i with
    | none => (t, ok)
    | some (_, b) => match b.area with
      | none => (t, ok)
      | some (va, _) => match t.devRead (t.launch id).ctx va b.image.length with
        | .wait t1 => (t1, false)
        | .bad t1 => (t1, ok)
        | .ok t1 _ => (t1, ok)) (s, true)

/-- One block placed on a core: new, or brought back from its area. A core that cannot take it under R141 halts, and
its device fault counts in the Bridge die's error counter (R149; the counter is a DESIGN CHOICE, log 102). -/
def State.placeBlock (s : State) (id idx cid : Nat) : State :=
  let l := s.launch id
  let had := (s.core cid).regions.filterMap fun r => if r.launch = id then some (r.level, r.unit) else none
  let lines := l.linesFor idx had
  let f := s.freeNow cid
  if !l.fits idx { cid := cid, free := f, have_ := had } then
    let c := s.core cid
    { (s.putCore cid { c with dead := true }) with errCnt := s.errCnt + 1 }
  else
    let s1 := (s.countPlacement cid lines (l.wBlk * l.rows) l.wBlk).holdRegions id idx cid
    let s2 := s1.putLaunch id { l with
      used := if l.used.contains cid then l.used else l.used ++ [cid], reported := l.reported.filter fun c => decide (c ≠ cid)
      dieOf := match l.dieUnit (idx / l.unitBlocks) with
        | some d => if look 0 l.dieOf d = 0 then put 0 l.dieOf d (cid / Config.coresPerDie + 1) else l.dieOf
        | none => l.dieOf }
    match s2.savedBlock id idx with
    | some (blk, b) =>
      let image := match b.area with
        | some (va, _) => (match s2.devRead l.ctx va b.image.length with
          | .ok _ bs => s2.openBytes l.ctx va b.image (bs.take b.image.length)
          | _ => b.image)
        | none => b.image
      let s3 := s2.restoreBlock blk cid image
      match b.area with
      | some e => let c := s3.ctx l.ctx; s3.putCtx l.ctx { c with areas := c.areas.filter fun x => decide (x ≠ e) }
      | none => s3
    | none =>
      let blk := s2.nextId
      let s3 := { s2 with nextId := blk + 1 }.putBlock blk { launch := id, idx := idx, cid := cid, live := true, at_ := s2.clk }
      s3.seat cid ((List.range l.wBlk).map fun lin => l.newWarp id blk idx lin s3.clk)

/-- The next pending unit from position `i` on that has not been placed. -/
def Launch.nextNew (l : Launch) (fit : Nat → Bool) : Nat → Nat → Option Nat × List Nat
  | 0, _ => (none, [])
  | fuel + 1, i =>
    let u := l.firstUnit + i
    if l.placed.contains u then l.nextNew fit fuel (i + 1)
    else if fit u then (some u, [])
    else if l.blocking.contains u then (none, [u])
    else let r := l.nextNew fit fuel (i + 1); (r.1, u :: r.2)

/-- The first unit of a launch that fits, the units skipped before it, and whether a blocking unit ends the search. -/
def Launch.search (l : Launch) (fit : Nat → Bool) : Option Nat × List Nat × Bool :=
  let before := l.head.takeWhile fun u => !fit u && !l.blocking.contains u
  match l.head.drop before.length with
  | u :: _ => if fit u then (some u, before, false) else (none, before ++ [u], true)
  | [] =>
    let r := l.nextNew fit l.unitCount 0
    (r.1, before ++ r.2, r.1.isNone && r.2.any l.blocking.contains)

/-- A unit placed. -/
def State.placeUnit (s : State) (id u : Nat) (lay : List (Nat × Nat)) : State :=
  match s.areasReady id (lay.map (·.1)) with
  | (s1, false) => s1
  | (s1, true) =>
    let s2 := (lay.foldl (fun (t : State) e => t.placeBlock id e.1 e.2) s1).relocateUnit id (lay.map (·.1))
    let l := s2.launch id
    s2.putLaunch id { l with head := l.head.filter fun x => decide (x ≠ u), skips := put 0 l.skips u 0
                             placed := if l.placed.contains u then l.placed else l.placed ++ [u]
                             blocking := l.blocking.filter fun x => decide (x ≠ u) }

/-- The first pending unit in order that fits the shadow placed. -/
def State.placeFirst (s : State) : List (Nat × Launch) → State
  | [] => s
  | (id, l) :: rest =>
    let (hit, skipped, stop) := l.search fun u => (s.layoutUnit id l u).isSome
    let s1 := if skipped = [] then s else
      s.putLaunch id { l with skipped := dedup (l.skipped ++ skipped) }
    match hit with
    | some u => (match s1.layoutUnit id l u with | some lay => s1.placeUnit id u lay | none => s1)
    | none => if stop then s1 else State.placeFirst s1 rest

/-- Accepted launches whose record or card could not be read yet tried again. -/
def State.readLaunches (s : State) : State :=
  ((s.launches.filter fun e => e.2.unread).map (·.1)).foldl (fun (t : State) id => t.readLaunch id) s

def execPlacementAttempt (s : State) : Host.Outcome State Fault Refusal :=
  .next (let s1 := s.readLaunches
    if s1.isReady .dist then s1.placeFirst s1.pendingLaunches else s1)

/-! ## Completion (R145, R148) -/

/-- Operations of a launch that count and are outstanding on a core. -/
def State.outstanding (s : State) (id cid : Nat) : Bool :=
  (s.ops.any fun o => decide (o.launch = id) && decide (o.core = cid) && !o.readsOnly && !o.isFence) ||
    s.cmds.any fun c => decide (c.launch = id) && decide (c.core = cid)

def State.holdsBlock (s : State) (id cid : Nat) : Bool :=
  s.blocks.any fun e => decide (e.2.launch = id) && e.2.live && !e.2.saved && decide (e.2.cid = cid)

/-- Whether nothing of a launch is left to be placed or to retire. -/
def Launch.allRetired (l : Launch) : Bool := l.ended || decide (l.retired = l.blockCount)

/-- A core's report of a launch, and what it completes. -/
def State.coreReport (s : State) (cid id : Nat) : State :=
  let l := s.launch id
  if l.used.contains cid && !s.outstanding id cid && !s.holdsBlock id cid && l.verdict.isNone then
    let l1 := { l with reported := if l.reported.contains cid then l.reported else l.reported ++ [cid] }
    let all := l1.used.all l1.reported.contains
    s.putLaunch id (if all && l1.allRetired then { l1 with verdict := some (if l1.halted then 9 else 0) } else l1)
  else s

def execCoreLaunchReport (cid launch : Nat) (s : State) : Host.Outcome State Fault Refusal := .next (s.coreReport cid launch)

/-- A word written as a store of a context, with what is in the way at home performed first; none while it cannot be written yet. A
failed write is counted in the Bridge die's error counters. -/
def State.writeWord (s : State) (ctx : Nat) (va : Word) (x : Nat) : State × Bool :=
  if s.homeWaits.any fun h => h.excl && decide (h.src = s.did) then (s, false)
  else match (s.ctx ctx).translate .store va with
    | .miss _ => ({ s with errCnt := s.errCnt + 1 }, true)
    | .ok ia => match (s.recallL1s (ia / 128)).prepare (.by .store ctx) ia with
      | (s1, .wait) => (s1, false)
      | (s1, .fail c) => ({ s1.logFault ia va ctx c with errCnt := s1.errCnt + 1 }, true)
      | (s1, r) => (s1.writeReady r ia noWarp ((toBytes 8 x).zipIdx.map fun e => (ia % 128 + e.2, e.1)), true)

def doneWord (status failed : Nat) : Nat := status * 2 ^ 56 + Nat.min failed (2 ^ 32 - 1)

/-- What a launch leaves behind goes with it. -/
def State.dropLaunch (s : State) (id : Nat) : State :=
  { s with launches := put {} s.launches id {}, blocks := s.blocks.filter fun e => decide (e.2.launch ≠ id)
           bars := s.bars.filter fun e => decide (e.1 / 2 ^ 47 ≠ id) }

/-- The bytes that the cores of a launch have left dirty written back, as a release at `.sys` requires (R183, R233); and whether
none is left. -/
def State.releaseLaunch (s : State) (id : Nat) : State × Bool :=
  let used := (s.launch id).used
  let s1 := used.foldl (fun (t : State) cid => t.flushL1 cid) s
  (s1, used.all fun cid => !s1.l1Dirty cid)

/-- A decided launch ends, what it left dirty released at `.sys` first: its completion word is written, or, for a rank of a gang, FINISH
is posted (R148, R387; DEDUCED for a rank's word and its release, log 30). -/
def State.endLaunch (s : State) (id : Nat) : State :=
  let l := s.launch id
  match l.verdict with
  | none => s
  | some st => match s.releaseLaunch id with
    | (s1, false) => s1
    | (s1, true) =>
      match l.gangRow with
      | some (row, rank) =>
        let gang := if l.gang = 0 then (look {} s1.lyre.t.gang row).gang else l.gang
        (s1.post (s1.event 2 (gang * 2 ^ 32 + rank * 2 ^ 20 + st * 2 ^ 12) (Nat.min l.failed (2 ^ 32 - 1)) 0 0 0)).dropLaunch id
      | none => match s1.writeWord l.ctx l.doneVA (doneWord st l.failed) with
        | (s2, false) => s2
        | (s2, true) => s2.dropLaunch id

/-- Every decided launch ended as far as it can be, and the halts of ranks posted as FAULT. -/
def State.endLaunches (s : State) : State :=
  let s1 := s.launches.foldl (fun (t : State) e =>
    match e.2.gangRow with
    | some (row, rank) =>
      let gang := if e.2.gang = 0 then (look {} t.lyre.t.gang row).gang else e.2.gang
      if e.2.faults = [] then t
      else e.2.faults.foldl (fun (u : State) c => u.post (u.event 5 (gang * 2 ^ 32 + rank * 2 ^ 20 + c * 2 ^ 12) 0 0 0 0))
        (t.putLaunch e.1 { e.2 with faults := [] })
    | none => t) s
  ((s1.launches.filter fun e => e.2.verdict.isSome).map (·.1)).foldl (fun (t : State) id => t.endLaunch id) s1

end Sys2Proof.Machine
end

