-- ==== Sys2Proof/Machine/Pages.lean ====
section
/-! DEFINITION. Pages moved whole: the pin table (R188) and migrations between frames (R201, R202). -/

namespace Sys2Proof.Machine

/-! ## Runs of a map -/

/-- The `n` entries from `lo` on of one map laid over those from `to` on of another; what the first does not list reads
there as unlisted. -/
def moveRun (src : FMap α) (lo n : Nat) (dst : FMap α) (dest : Nat) : FMap α :=
  (src.filter fun e => decide (lo ≤ e.1) && decide (e.1 < lo + n)).foldl (fun m e => mapIns m (e.1 - lo + dest) e.2)
    (mapCut dst dest (dest + n))

/-- Where the bytes of a page are kept: DDR, or a core's scratchpad. -/
inductive Store where
  | ddr (addr : Nat)
  | spad (cid off : Nat)
deriving DecidableEq, Repr

/-- `n` bytes copied with the marks of their sectors; `n` and the places are whole sectors. A copy between frames keeps the keys under
which the sectors are stored (R195; DEDUCED, log 91). -/
def State.copyBytes (s : State) (a : Store) (n : Nat) (b : Store) : State :=
  let bytes := match a with | .ddr x => (s.mem, x) | .spad c o => (s.spad, spadKey c o)
  let marks := match a with | .ddr _ => s.memMark | .spad _ _ => s.spadMark
  match b with
  | .ddr y => { s with mem := moveRun bytes.1 bytes.2 n s.mem y, memMark := moveRun marks (bytes.2 / 16) (n / 16) s.memMark (y / 16)
                       memKey := match a with
                         | .ddr x => moveRun s.memKey (x / 16) (n / 16) s.memKey (y / 16)
                         | .spad _ _ => s.memKey }
  | .spad c o =>
    let y := spadKey c o
    { s with spad := moveRun bytes.1 bytes.2 n s.spad y, spadMark := moveRun marks (bytes.2 / 16) (n / 16) s.spadMark (y / 16) }

/-! ## The lines of a page -/

/-- Whether a line lies in the `n` bytes from an IA on. -/
def lineIn (ia n line : Nat) : Bool := decide (ia ≤ 128 * line) && decide (128 * line < ia + n)

/-- The cached lines of a run of bytes written back and dropped: L1s, then L2. -/
def State.purge (s : State) (ia n : Nat) : State :=
  let s1 := (s.l1.filter fun e => lineIn ia n (e.1 % 2 ^ 49)).foldl (fun (t : State) e => t.evictL1 (e.1 / 2 ^ 49) (e.1 % 2 ^ 49)) s
  (s1.l2.filter fun e => lineIn ia n e.1).foldl (fun (t : State) e => t.dropL2 e.1) s1

/-- Peers' copies of the lines of a run of bytes called back: owners recalled, sharers told; and whether no owner is left. -/
def State.callBack (s : State) (ia n : Nat) : State × Bool :=
  (s.dir.filter fun e => lineIn ia n e.1).foldl (fun (t, ok) e =>
    match e.2.owner with
    | some d => (t.recallOwner e.1 d false, false)
    | none => (t.invalidateSharers e.1, ok)) (s, true)

/-- Whether an L1 still holds dirty bytes of a run. -/
def State.dirtyIn (s : State) (ia n : Nat) : Bool := s.l1.any fun e => lineIn ia n (e.1 % 2 ^ 49) && decide (e.2.dirty ≠ 0)

/-! ## Pins (R188) -/

def State.pin (s : State) (i : Nat) : Pin := look {} s.pins i
def State.putPin (s : State) (i : Nat) (p : Pin) : State := { s with pins := put {} s.pins i p }

/-- The frame behind a page of this device. -/
def State.frameOf (s : State) (page : Nat) : Option Nat :=
  let w := (s.pte page).toNat
  if bit w 63 ∧ bits w 62 61 = 0 ∧ bits w 33 0 < (s.link (linkOf page)).frames then
    some (ddrKey (linkOf page) (bits w 33 0) 0)
  else none

/-- A scratchpad pin written back to DDR, its lines released. -/
def State.unpin (s : State) (i : Nat) : State :=
  let p := s.pin i
  let s1 := match (if p.v ∧ ¬ p.kind then s.frameOf p.page else none) with
    | some a => s.copyBytes (.spad p.tgt (2 ^ 21)) (2 ^ 21) (.ddr a)
    | none => s
  s1.putPin i { p with v := false, pend := false }

/-- Whether a core's scratchpad has a pin, valid or pending. -/
def State.pinnedCore (s : State) (cid : Nat) : Bool := s.pins.any fun e => (e.2.v || e.2.pend) && !e.2.kind && decide (e.2.tgt = cid)

/-- The cached lines of a page written back and dropped; and whether none of its bytes is left dirty. -/
def State.purgePage (s : State) (page : Nat) : State × Bool :=
  let s1 := s.purge (page * 2 ^ 21) (2 ^ 21)
  (s1, !s1.dirtyIn (page * 2 ^ 21) (2 ^ 21))

/-- A pending pin to a slice valid once no L1 or L2 holds a line of its page: the lines leave the caches in which they are before
their home changes (R188; DEDUCED, log 105). -/
def State.sliceActivate (s : State) (i : Nat) : State :=
  let p := s.pin i
  match s.purgePage p.page with
  | (s1, false) => s1
  | (s1, true) => s1.putPin i { p with v := true, pend := false }

/-- The write of an entry. A valid or pending entry that is given another page or target is released first (DEDUCED,
log 31). A target that is not active makes the write ignored: a core of a cluster that is not ready, or a number that no core or
slice has. -/
def State.pinWrite (s : State) (i : Nat) (val : Word) : State :=
  let x := val.toNat
  let kind := bit x 62
  let tgt := bits x 61 54
  let page := bits x 34 0
  if 64 ≤ i then s
  else if !bit x 63 then
    let s1 := s.unpin i
    s1.putPin i { v := false, kind := kind, tgt := tgt, pend := false, page := page }
  else if kind then
    if 128 ≤ tgt then s
    else ((s.unpin i).putPin i { v := false, kind := true, tgt := tgt, pend := true, page := page }).sliceActivate i
  else if Config.cores ≤ tgt ∨ s.pinnedCore tgt ∨ ¬ s.isReady (.clus (tgt / 4)) then s
  else
    let s1 := (s.unpin i).putPin i { v := false, kind := false, tgt := tgt, pend := true, page := page }
    let f := s1.shadowOf tgt
    { s1 with shadow := put [] s1.shadow tgt (CFree.toList { f with lines := f.lines - 16384 }) }

def execPinWrite (idx : Nat) (val : Word) (s : State) : Host.Outcome State Fault Refusal := .next (s.pinWrite idx val)

/-- A pending pin to a slice tried again. A pending pin to a scratchpad whose upper half holds no region any more: the page's cached
lines go to DDR, the page is copied in over what the lines held of PTEs (R196), and the entry is valid. -/
def State.pinActivate (s : State) (i : Nat) : State :=
  let p := s.pin i
  if p.pend && p.kind then s.sliceActivate i
  else if !p.pend || ((s.core p.tgt).regions.any fun r => decide (16384 < r.base + r.lines)) then s
  else
    let ia := p.page * 2 ^ 21
    match s.callBack ia (2 ^ 21) with
    | (s1, false) => s1
    | (s1, true) => match s1.purgePage p.page with
      | (s2, false) => s2
      | (s2, true) =>
        let s3 := match s2.frameOf p.page with
          | some a => s2.copyBytes (.ddr a) (2 ^ 21) (.spad p.tgt (2 ^ 21))
          | none => s2
        (s3.claimLines p.tgt 16384 16384).putPin i { p with v := true, pend := false }

def execPinActivate (idx : Nat) (s : State) : Host.Outcome State Fault Refusal := .next (s.pinActivate idx)

/-- V cleared: the lines written back to DDR and released. -/
def execPinRelease (idx : Nat) (s : State) : Host.Outcome State Fault Refusal :=
  .next (if (s.pin idx).v then s.unpin idx else s)

/-! ## Migration (R201, R202) -/

def State.slot (s : State) (link n : Nat) : MigSlot := look {} (s.link link).slots n
def State.putSlot (s : State) (link n : Nat) (m : MigSlot) : State :=
  let l := s.link link
  { s with links := put {} s.links link { l with slots := put {} l.slots n m } }

/-- A PTE that a migration may start from or end in: valid, local, STABLE. -/
def pteStable (w : Word) : Bool := bit w.toNat 63 && decide (bits w.toNat 62 61 = 0) && decide (bits w.toNat 35 34 = 0)

/-- Whether a start is refused. A page that is being migrated is not STABLE, whatever its PTE has been written to since (R202). -/
def State.migBad (s : State) (link p q : Nat) : Bool :=
  decide (linkOf p ≠ link) || decide (p = q) || !s.linkReady (linkOf p) || !s.linkReady (linkOf q) ||
    !pteStable (s.pte p) || !pteStable (s.pte q) || (s.migOf q).isSome ||
    (s.links.any fun e => e.2.slots.any fun m => m.2.busy && decide (m.2.src = p))

/-- The field MIG of a PTE. -/
def migMask : Word := BitVec.ofNat 64 (3 * 2 ^ 34)

/-- MIG of a page's PTE in its table. -/
def State.setMig (s : State) (page mig : Nat) : State :=
  let w := s.pteTable page
  s.putLinkWord (s.pteAddr page) ((w &&& ~~~migMask) ||| (BitVec.ofNat 64 mig <<< 34))

/-- A page's copied bitmap cleared. -/
def State.clearCopied (s : State) (page : Nat) : State :=
  (List.range 8).foldl (fun (t : State) i => t.putLinkWord (s.sideAddr page + 64 + 8 * i) 0) s

/-- BUSY written 1: the migration refused, or begun once every copy of the page's lines is back in its frame. -/
def State.migStart (s : State) (link n p q : Nat) : State :=
  let m := s.slot link n
  if n ≥ 4 ∨ link ≥ Config.links ∨ m.busy then s
  else if s.migBad link p q then s.putSlot link n { m with busy := false, err := true, src := p, dst := q }
  else
    let ia := p * 2 ^ 21
    match s.callBack ia (2 ^ 21) with
    | (s1, false) => s1
    | (s1, true) => match s1.purgePage p with
      | (s2, false) => s2
      | (s2, true) =>
        let w := s2.pte p
        ((((s2.putSlot link n { busy := true, src := p, dst := q, pte := w }).setMig p 1).clearCopied p).tlbInv p 1)

def execMigrationStart (link slot : Nat) (src dst : Word) (s : State) : Host.Outcome State Fault Refusal :=
  .next (s.migStart link slot (bits src.toNat 34 0) (bits dst.toNat 34 0))

/-- The next chunk copied with its marks; after the last one the page enters FORWARD. Lines of the destination's chunk that
a cache holds are dropped first. Where the destination fails at the memory side, nothing is copied: the failure is logged, with VA and
context 0, and the chunk is still to be copied (R194, R198; DEDUCED, log 114). -/
def State.migChunk (s : State) (link n : Nat) : State :=
  let m := s.slot link n
  if !m.busy || m.fwd || !s.linkReady link then s
  else
    let c := m.next
    let dest := m.dst * 2 ^ 21 + 4096 * c
    let (s0, ok) := s.callBack (m.src * 2 ^ 21 + 4096 * c) 4096
    match s0.callBack dest 4096 with
    | (s1, false) => s1
    | (s1, true) =>
      if !ok then s1 else
      let s2 := s1.purge dest 4096
      if s2.dirtyIn dest 4096 then s2
      else
        let copied (b : Store) : State :=
          let s3 := s2.copyBytes (.ddr (ddrKey link (bits m.pte.toNat 33 0) (4096 * c))) 4096 b
          let a := s3.sideAddr m.src + 64 + c / 8
          let s4 := s3.putLinkByte a (s3.linkByte a ||| (1 <<< (c % 8)))
          if c = 511 then (s4.putSlot link n { m with fwd := true }).setMig m.src 2
          else s4.putSlot link n { m with next := c + 1 }
        match s2.at {} dest with
        | .loc p => copied (.ddr p.addr)
        | .pin cid off _ => copied (.spad cid off)
        | .fail e => s2.logFault dest 0 0 e
        | _ => s2

def execMigrationChunkCopy (link slot : Nat) (s : State) : Host.Outcome State Fault Refusal := .next (s.migChunk link slot)

/-- BUSY written 0 in FORWARD: the slot is free, and the page reads as V = 0 unless its PTE has been written since (DEDUCED,
log 32); what caches hold of it under its own number leaves them first. A page that is still being copied stays. -/
def State.migRelease (s : State) (link n : Nat) : State :=
  let m := s.slot link n
  if !m.busy || !m.fwd then s
  else match s.purgePage m.src with
    | (s1, false) => s1
    | (s1, true) =>
      let w := s1.pteTable m.src
      let same := decide (w &&& ~~~migMask = m.pte &&& ~~~migMask)
      let new := if same then 0 else w &&& ~~~migMask
      (((s1.putLinkWord (s1.pteAddr m.src) new).putSlot link n { m with busy := false, fwd := false, next := 0 }).tlbInv m.src 1)

def execMigrationRelease (link slot : Nat) (s : State) : Host.Outcome State Fault Refusal := .next (s.migRelease link slot)

end Sys2Proof.Machine
end

