-- ==== Sys2Proof/Machine/Patrol.lean ====
section
/-! DEFINITION. The patrol engines of the memory links (R316 to R320), the sampler and its ring (R326 to R329), and the
tracer of tagged instructions (R330). -/

namespace Sys2Proof.Machine

/-! ## The patrol (R316 to R320) -/

/-- A record of a link's log ring. -/
def Link.logScrub (l : Link) (kind sector line clk : Nat) : Link :=
  let r : List Word := [BitVec.ofNat 64 (kind * 2 ^ 60 + sector * 2 ^ 57 + line % 2 ^ 31), BitVec.ofNat 64 clk]
  { l with log := (r :: l.log).take Config.scrubLogSize
           lost := if l.log.length < Config.scrubLogSize then l.lost else Nat.min (l.lost + 1) (2 ^ 32 - 1) }

/-- The context under whose key a line of a link is stored, if one has stored it (R195, R319). -/
def State.lineCtx (s : State) (t line : Nat) : Option Nat :=
  match look 0 s.memKey (ddrKey t 0 (128 * line) / 16) with
  | 0 => none
  | k + 1 => some k

/-- The same in a link's ring; LINE reads 0 for the pages of a confidential context (R331). -/
def State.logScrub (s : State) (t kind sector line : Nat) : State :=
  let hide := match s.lineCtx t line with | some c => (s.ctx c).conf | none => false
  { s with links := put {} s.links t ((s.link t).logScrub kind sector (if hide then 0 else line) s.clk) }

/-- One sector of the line visited (R317). A corrected write-back changes no value, and one that a program's write supersedes is
dropped; a sector found uncorrectable reads as poison from then on. -/
def State.scrubSector (s : State) (t line q : Nat) (r : EccResult) : State :=
  let k := ddrKey t 0 (128 * line) / 16 + q
  match r with
  | .ok => s
  | .correctable sup => if sup then s.logScrub t 2 q line else (s.count 0x12).logScrub t 1 q line
  | .uncorrectable =>
    let s1 := if look .none s.memMark k = .none then s.putDdrSector anyKey k (zeroSector .uncorrectable) else s
    (s1.count 0x13).logScrub t 3 q line

/-- Whether a frame of a link holds an encrypted page: a valid entry of the link's table with APER 0 and ENC 1. -/
def State.encFrame (s : State) (t frame : Nat) : Bool :=
  (List.range (s.link t).count).any fun i =>
    let w := (s.pteTable (Config.links * i + t)).toNat
    bit w 63 && decide (bits w 62 61 = 0) && bit w 36 && decide (bits w 33 0 = frame)

/-- The tag check of MODE 1 (R319): a page whose key is not loaded, or that the security processor does not check, is skipped, which
its first line records. -/
def State.tagCheck (s : State) (t line : Nat) (tag : TagResult) : State :=
  let loaded := match s.lineCtx t line with | some c => (s.ctx c).keyv | none => true
  match (if loaded then tag else .notChecked) with
  | .pass => s
  | .notChecked => if line % 16384 = 0 then s.logScrub t 5 0 line else s
  | .mismatch =>
    ((List.range 8).foldl (fun (u : State) q => u.putDdrSector anyKey (ddrKey t 0 (128 * line) / 16 + q) (zeroSector .uncorrectable)) s).logScrub
      t 4 0 line

/-- The engine of a link visits its next line. -/
def State.scrubLine (s : State) (t : Nat) (ecc : List EccResult) (tag : TagResult) : State :=
  let l := s.link t
  let n := l.frames * 16384
  if !l.scrubEn || !s.linkReady t || decide (n = 0) then s
  else
    let line := l.pos % n
    let s1 := (List.range 8).foldl (fun (u : State) q => u.scrubSector t line q (nth .ok ecc q)) s
    let s2 := if decide (l.scrubMode = 1) && !ecc.contains .uncorrectable && s1.encFrame t (line / 16384) then s1.tagCheck t line tag
      else s1
    { s2 with links := put {} s2.links t { s2.link t with pos := (line + 1) % n } }

def execScrubLine (link : Nat) (ecc : List EccResult) (tag : TagResult) (s : State) : Host.Outcome State Fault Refusal :=
  .next (s.scrubLine link ecc tag)

/-! ## The sampler (R326 to R329) -/

/-- The counters that the model counts; of the others the manual's table gives the events alone. -/
def counted (n : Nat) : Bool :=
  decide (2 ≤ n) && decide (n ≤ 7) || decide (0x10 ≤ n) && decide (n ≤ 0x1A) || decide (0x200 ≤ n) && decide (n < 0x2A0) ||
    [0x100, 0x105, 0x106, 0x107, 0x108, 0x109, 0x10A, 0x10C, 0x10D, 0x10E, 0x10F].contains n

/-- What counter `n` reads. -/
def State.counter (s : State) (n : Nat) : Word :=
  let c := s.ctx s.smp.ctx
  if n = 1 then BitVec.ofNat 64 s.clk
  else if 0x100 ≤ n ∧ n < 0x110 ∧ ¬ c.v then 0
  else if counted n then BitVec.ofNat 64 (look 0 s.smp.cnt n)
  else if (8 ≤ n ∧ n ≤ 0xF) ∨ (0x100 ≤ n ∧ n < 0x110 ∧ ¬ c.conf) ∨ (0x300 ≤ n ∧ n < 0x318) then Config.counter n s.clk
  else 0

/-- The bytes of a line of a context's memory written as a store at its home; none where it cannot be written yet. -/
def State.ringStore (s : State) (ctx : Nat) (va : Word) (bs : List Byte) : Option State × State :=
  match (s.ctx ctx).translate .store va with
  | .miss _ => (some s, s)
  | .ok ia => match (s.recallL1s (ia / 128)).prepare (.by .store ctx) ia with
    | (s1, .wait) => (none, s1)
    | (s1, .fail c) => (some (s1.logFault ia va ctx c), s1)
    | (s1, r) => (some (s1.writeReady r ia noWarp (bs.zipIdx.map fun e => (ia % 128 + e.2, e.1))), s1)

/-- A row offered to the ring: written, dropped where the ring is full, or nothing where writing is stopped. The state, and
whether the row is dealt with. -/
def State.offerRow (s : State) (kind : Nat) (data : List Word) : State × Bool :=
  let m := s.smp
  if m.len = 0 then (s, true)
  else if (m.wi + 2 ^ 32 - m.ri) % 2 ^ 32 < m.len then
    let row : List Word := BitVec.ofNat 64 s.atime :: BitVec.ofNat 64 (kind * 2 ^ 60 + m.dropped) :: data
    let va := m.base + BitVec.ofNat 64 (64 * (m.wi % m.len))
    match s.ringStore Config.mgmtCtx va (row.flatMap fun x => toBytes 8 x.toNat) with
    | (none, s1) => (s1, false)
    | (some s1, _) => ({ s1 with smp := { s1.smp with wi := (m.wi + 1) % 2 ^ 32, dropped := 0 } }, true)
  else ({ s with smp := { m with dropped := Nat.min (m.dropped + 1) (2 ^ 32 - 1) } }, true)

/-- A counter sample. -/
def execSampleRow (s : State) : Host.Outcome State Fault Refusal :=
  .next (if s.smp.en then
    (s.offerRow 0 ((List.range 6).map fun i => s.counter (bits s.smp.sel.toNat (10 * i + 9) (10 * i)))).1
  else s)

/-! ## The tracer (R330) -/

/-- A sub-core draws the number of issues after which it tags one, uniformly from [I/2, 3I/2); an interval that runs goes on. -/
def execTraceTag (cid sub interval : Nat) (s : State) : Host.Outcome State Fault Refusal :=
  let c := s.core cid
  let i := 2 ^ c.tlog
  .next (if cid < Config.cores ∧ sub < 4 ∧ i ≤ 2 * interval ∧ 2 * interval < 3 * i ∧ look 0 c.tagLeft sub = 0 then
      s.putCore cid { c with tagLeft := put 0 c.tagLeft sub interval }
    else s)

/-- LEVEL of a traced instruction: what its class fixes; of an access to memory the level that was measured (DEDUCED, log 116). -/
def traceLevel (cls measured : Nat) : Nat := if cls = 8 then Nat.min measured 5 else cls

/-- The oldest tagged instruction of a sub-core, if it has reached write-back, that is, its operation is over: its row, with the
stages as they were measured. -/
def execTraceRow (cid sub : Nat) (stages : Rec8) (s : State) : Host.Outcome State Fault Refusal :=
  .next (match look [] (s.core cid).tagged sub with
    | wid :: exm :: pc :: id :: cls :: rest =>
      if s.ops.any fun o => decide (o.id = id) then s
      else
        let x := stages.w5.toNat
        let data : List Word := [BitVec.ofNat 64 (cid * 2 ^ 48 + wid * 2 ^ 32 + exm), BitVec.ofNat 64 pc, stages.w4,
          BitVec.ofNat 64 (bits x 63 48 * 2 ^ 48 + traceLevel cls (bits x 47 45) * 2 ^ 45), 0, 0]
        match s.offerRow 1 data with
        | (s1, true) => s1.putCore cid { s1.core cid with tagged := put [] (s1.core cid).tagged sub rest }
        | (s1, false) => s1
    | _ => s)

end Sys2Proof.Machine
end

