-- ==== Sys2Proof/Machine/Peers.lean ====
section
/-! DEFINITION. Lines that pass between devices (R363 to R365): the home slice's directory, requests, write-backs, recalls and
invalidations, atomic packets, and the responses that come back. -/

namespace Sys2Proof.Machine

/-! ## Answers -/

/-- A response sent to a device about a line. -/
def State.respond (s : State) (dev line req : Nat) (a : PeerAnswer) : State :=
  { s with outbox := .response dev line { req := req, ans := a } :: s.outbox }

/-- The acknowledgement of a directory action; it names the line (DEDUCED, log 33). -/
def State.ackLine (s : State) (dev line : Nat) : State := s.respond dev line line .ack

/-! ## Requests at the home (R364, R365) -/

/-- Whether this device, as lender, has revoked a region from a requester (R373). -/
def State.revokedFor (s : State) (dev ia : Nat) : Bool :=
  s.leng.revoked.any fun r => decide (r.1 = dev) && decide (r.2.1 ≤ pageOf ia) && decide (pageOf ia < r.2.1 + r.2.2)

/-- What a waiting request needs of the page. -/
def HomeWait.need (h : HomeWait) : Need := if h.atomic.isSome then .rmw else if h.excl then .store else .load

/-- The lanes of an atomic packet performed in increasing order: the old values, and the lanes that found poison. -/
def State.rmwPacket (s : State) (r : Ready) (p : AtomicPkt) : State × List (Nat × Word) × List (Nat × Origin) :=
  (sortBy (fun a : RmwLane => a.lane) p.lanes).foldl (fun (t, vals, bad) a =>
    let (t1, res) := t.rmwReady noWarp r a.addr p.op p.wide p.signed a.opnd.toNat a.newv.toNat
    match res with
    | .ok old => (t1, vals ++ [(a.lane, BitVec.ofNat 64 old)], bad)
    | .error m => (t1, vals, bad ++ [(a.lane, m)])) (s, [], [])

/-- Whether invalidations of a line that this device sent for a write of its own are not all acknowledged. -/
def State.invalidating (s : State) (line : Nat) : Bool :=
  s.homeWaits.any fun h => h.excl && decide (h.src = s.did) && !h.back && decide (h.line = line)

/-- A request granted at its home: a line's data, OWNED once every invalidation is acknowledged, SHARED, or read once where there are
4 sharers, or an atomic's old values. Granting a line OWNED counts as the write for which it was asked (R220; DEDUCED, log 34). -/
def State.grantHome (s : State) (h : HomeWait) (r : Ready) (line : Nat) : State × Option HomeWait :=
  let e := s.dirEntry line
  let data : List Byte := (List.range 8).flatMap fun q => (s.readySector r q).data
  let marks := (List.range 8).map fun q => (s.readySector r q).mark
  let give (t : State) (install : Bool) : State := t.respond h.src (h.ia / 128) h.req (.line data marks install)
  match h.atomic with
  | some p =>
    let s1 := s.recallL1s line
    if s1.l1.any fun x => decide (x.1 % 2 ^ 49 = line) && decide (x.2.dirty ≠ 0) then (s1, some h)
    else
      let (s2, vals, bad) := s1.rmwPacket r p
      (s2.respond h.src (h.ia / 128) p.req (.olds vals bad), none)
  | none =>
    if h.excl then
      if s.invalidating line then (s, some { h with acks := [] })
      else (give (({ s with dir := put {} s.dir line { sharers := [], owner := some h.src } }).conflict noWarp (memSec (128 * line))) true, none)
    else if 4 ≤ e.sharers.length then (give s false, none)
    else if e.sharers.contains h.src then (give s true, none)
    else (give { s with dir := put {} s.dir line { e with sharers := e.sharers ++ [h.src], owner := none } } true, none)

/-- Directory actions sent toward holders, whose answers a request then waits for. -/
def State.callHolders (s : State) (h : HomeWait) (line : Nat) (ds : List Nat) (pkt : Nat → Packet) : State × Option HomeWait :=
  ({ s with outbox := (ds.map pkt).reverse ++ s.outbox }, some { h with line := line, acks := ds })

/-- A request at the home slice of a ready line: holders called first, where it takes that, then granted. -/
def State.atHome (s : State) (h : HomeWait) (r : Ready) (line : Nat) : State × Option HomeWait :=
  if s.cmdOwns (h.ia / 128) || s.cmdOwns line then (s, some { h with acks := [] })
  else
    let e := s.dirEntry line
    let fail := look none s.peerFail (failKey line false)
    match (if e.owner = some h.src ∧ h.atomic.isNone then none else e.owner), fail with
    | some _, some c =>
      (({ s with peerFail := put none s.peerFail (failKey line false) none }).respond h.src (h.ia / 128) h.req (.failed c), none)
    | some d, none =>
      let keep := !h.excl && h.atomic.isNone
      s.callHolders { h with keep := keep } line [d] fun x => .recall x (128 * line) keep
    | none, _ =>
      let away := if h.atomic.isSome then e.sharers else if h.excl then e.sharers.filter fun d => decide (d ≠ h.src) else []
      if away = [] then s.grantHome h r line
      else
        let s1 := { s with dir := put {} s.dir line { e with sharers := e.sharers.filter fun d => !away.contains d } }
        s1.callHolders h line away fun x => .invalidate x (128 * line)

/-- This device's copy of a peer line handed back (R364): its dirty sectors written back, the copy dropped or kept SHARED. -/
def State.handBack (s : State) (line : Nat) (keep : Bool) : State :=
  let l := s.l2Line line
  let s1 := s.dropL2 line
  if keep then s1.putL2 line { l with st := .shared, dirty := 0 } else s1.conflict noWarp (memSec (128 * line))

/-- A request tried: answered, or what it still waits for. -/
def State.tryHome (s : State) (h : HomeWait) : State × Option HomeWait :=
  if h.back then
    if s.cmdOwns (h.ia / 128) then (s, some h) else (s.handBack (h.ia / 128) h.keep, none)
  else if s.revokedFor h.src h.ia then (s.respond h.src (h.ia / 128) h.req (.failed .leaseRevoked), none)
  else match s.at h.need h.ia with
    | .wait => (s, some { h with acks := [] })
    | .fail c => ((s.logFault h.ia 0 0 c).respond h.src (h.ia / 128) h.req (.failed c), none)
    | .peer _ _ _ _ => (s.respond h.src (h.ia / 128) h.req (.failed .pteInvalid), none)
    | .pin cid off home => s.atHome h (.pin cid off home) home
    | .loc p => s.atHome h (.spot p) (p.ia / 128)

/-- A peer's request behind the earlier ones for its line, else tried at once. -/
def State.askHome (s : State) (h : HomeWait) : State :=
  if s.homeWaits.any fun e => decide (e.src ≠ s.did) && decide (e.ia / 128 = h.ia / 128) && (e.back == h.back) then
    { s with homeWaits := s.homeWaits ++ [h] }
  else match s.tryHome h with
    | (s1, none) => s1
    | (s1, some h1) => { s1 with homeWaits := s1.homeWaits ++ [h1] }

/-- Whether an entry is what a local access of this device waits for. -/
def State.ownWait (s : State) (h : HomeWait) : Bool := decide (h.src = s.did) && !h.back

/-- The peers' waiting requests gone through in order: those whose answers are all in are tried again, but not before an earlier
one for their line. -/
def State.serveHomes : List HomeWait → State → State
  | [], s => s
  | h :: hs, s =>
    let keep (t : State) (x : HomeWait) : State := { t with homeWaits := t.homeWaits ++ [x] }
    let behind := s.homeWaits.any fun e => decide (e.src ≠ s.did) && decide (e.ia / 128 = h.ia / 128) && (e.back == h.back)
    if h.acks ≠ [] then State.serveHomes hs (keep s h)
    else if behind then State.serveHomes hs (keep s h)
    else match s.tryHome h with
      | (s1, none) => State.serveHomes hs s1
      | (s1, some h1) => State.serveHomes hs (keep s1 h1)

/-- The same for all of them; what a local access waited for is over when its answers are in. -/
def State.serveHome (s : State) : State :=
  if s.homeWaits.any fun h => decide (h.acks = []) then
    State.serveHomes (s.homeWaits.filter fun h => !s.ownWait h)
      { s with homeWaits := s.homeWaits.filter fun h => s.ownWait h && decide (h.acks ≠ []) }
  else s

def execReadShared (src ia req : Nat) (s : State) : Host.Outcome State Fault Refusal :=
  .next (s.askHome { src := src, req := req, line := ia / 128, excl := false, acks := [], ia := ia })

def execReadExclusive (src ia req : Nat) (s : State) : Host.Outcome State Fault Refusal :=
  .next (s.askHome { src := src, req := req, line := ia / 128, excl := true, acks := [], ia := ia })

def execAtomicPkt (src : Nat) (pkt : AtomicPkt) (s : State) : Host.Outcome State Fault Refusal :=
  let ia := match pkt.lanes with | a :: _ => a.addr | [] => 0
  .next (s.askHome { src := src, req := pkt.req, line := ia / 128, excl := false, acks := [], ia := ia, atomic := some pkt })

/-! ## Write-backs at the home -/

/-- A holder's answer about a line taken off what waits for it. -/
def State.answered (s : State) (dev line : Nat) : State :=
  { s with homeWaits := s.homeWaits.map fun h => if h.line = line ∧ ¬ h.back then { h with acks := h.acks.filter fun d => decide (d ≠ dev) } else h }

/-- The place of a line of this device for a write-back, which finds the old frame of a chunk that is about to be copied. -/
def State.placeBack (s : State) (ia : Nat) : Place :=
  match s.at {} ia with
  | .wait => match s.migOf (pageOf ia) with
    | some m => s.underPte {} ia m.pte true
    | none => .wait
  | p => p

/-- The sectors of a write-back merged byte by byte (R184); one that comes marked is poisoned whole. -/
def State.mergeBack (s : State) (r : Ready) (ia : Nat) (mask : BitVec 128) (marks : List Origin) (data : List Byte) : State :=
  let bad := (List.range 8).filter fun q => decide (nth .none marks q ≠ .none) && decide (bits mask.toNat (16 * q + 15) (16 * q) ≠ 0)
  let ws := ((List.range 128).filter fun i => mask.getLsbD i && !bad.contains (i / 16)).map fun i => (i, nth 0 data i)
  bad.foldl (fun (t : State) q => t.putReadySector r q (zeroSector (nth .none marks q)))
    (if ws = [] then s else s.writeReady r ia noWarp ws)

/-- The writer of a line noted as the holder of a SHARED copy. -/
def State.keepSharer (s : State) (line src : Nat) (kept : Bool) : State :=
  if kept then { s with dir := put {} s.dir line { s.dirEntry line with sharers := (s.dirEntry line).sharers ++ [src] } } else s

/-- Whether a page of this device is lent to a device by a lease that stands (R367). -/
def State.lentTo (s : State) (dev page : Nat) : Bool :=
  s.lyre.t.lease.any fun e => decide (e.2.state ≠ .free) && decide (e.2.lender = s.did) && decide (e.2.borrower = dev) &&
    decide (e.2.lbase ≤ page) && decide (page < e.2.lbase + e.2.npages)

/-- A line of a fill brought to DDR, which sets no dirty bit: the chunk's stays as it was in `old` (R369). -/
def State.fillWritten (s old : State) (ia : Nat) : State :=
  let c := ia % 2 ^ 21 / 4096
  let a := s.sideAddr (pageOf ia) + c / 8
  let t := s.dropL2 (ia / 128)
  if bit (old.linkByte a).toNat (c % 8) then t else t.putLinkByte a (t.linkByte a &&& ~~~((1 : Byte) <<< (c % 8)))

/-- A write-back from a holder: merged, unless the region has been revoked from it; the line then has no owner, but a
SHARED copy where the recall let it keep one. One of a page lent to a device that does not own the line is its fill (R369;
DEDUCED, log 68). One that fails at the memory side writes nothing and is logged (R194, R198). -/
def State.takeBack (s : State) (src ia : Nat) (mask : BitVec 128) (marks : List Origin) (data : List Byte) : State :=
  if s.revokedFor src ia then { s with leng := { s.leng with dropped := s.leng.dropped + 1 } }
  else
    let go (r : Ready) (line : Nat) : State :=
      let e := s.dirEntry line
      let kept := s.homeWaits.any fun h => decide (h.line = line) && h.keep && h.acks.contains src
      let e1 : DirEntry := { sharers := e.sharers.filter fun d => decide (d ≠ src), owner := if e.owner = some src then none else e.owner }
      let t := ((({ s with dir := put {} s.dir line e1 }).mergeBack r ia mask marks data).keepSharer line src kept).answered src line
      if decide (e.owner ≠ some src) && s.lentTo src (pageOf ia) then t.fillWritten s ia else t
    match s.placeBack ia with
    | .loc p => go (.spot p) (p.ia / 128)
    | .pin cid off home => go (.pin cid off home) home
    | .fail c => (s.logFault ia 0 0 c).answered src (ia / 128)
    | _ => (s.logFault ia 0 0 .pteInvalid).answered src (ia / 128)

def execWriteBack (src ia : Nat) (mask : BitVec 128) (marks : List Origin) (data : List Byte) (s : State) :
    Host.Outcome State Fault Refusal := .next ((s.takeBack src ia mask marks data).serveHome)

/-! ## Directory actions toward this device -/

/-- The local lines under which this device holds a peer's line. -/
def State.heldAs (s : State) (dev pia : Nat) : List Nat :=
  (s.l2.filter fun e => decide (e.2.st ≠ .loc) && (match s.at {} (128 * e.1) with
    | .peer d a _ _ => decide (d = dev) && decide (a / 128 = pia / 128)
    | _ => false)).map (·.1)

/-- A SHARED copy dropped: another device writes the line, which the tries that touched it meet. -/
def execInvalidatePkt (dev ia : Nat) (s : State) : Host.Outcome State Fault Refusal :=
  .next (((s.heldAs dev ia).foldl (fun (t : State) k =>
    ({ t with l2 := put {} t.l2 k {} }).conflict noWarp (memSec (128 * k))) s).ackLine dev (ia / 128))

/-- A recall: an OWNED copy handed back, unless a command owns the line, which it waits for. -/
def State.recalled (s : State) (dev ia : Nat) (keep : Bool) : State :=
  match (s.heldAs dev ia).filter fun k => decide ((s.l2Line k).st = .owned) with
  | [] => s.ackLine dev (ia / 128)
  | ks => ks.foldl (fun (t : State) k => t.askHome { src := dev, req := 0, line := k, excl := !keep, acks := [], keep := keep
                                                     ia := 128 * k, back := true }) s

def execRecallPkt (dev ia : Nat) (keep : Bool) (s : State) : Host.Outcome State Fault Refusal := .next (s.recalled dev ia keep)

/-! ## Responses (R363, R365) -/

def State.dropReq (s : State) (id : Nat) : State := { s with peerReqs := s.peerReqs.filter fun r => decide (r.id ≠ id) }

/-- The lanes of an atomic packet that has been answered. The core's own copy of the line goes, which may have been read since the
packet was sent (R209, R228). -/
def State.atomicAnswer (s : State) (r : PeerReq) (ans : PeerAnswer) : State :=
  match s.op r.op with
  | none => s
  | some o =>
    match o.kind with
    | .rmw _ wide _ d =>
      let as := o.accs.filter fun a => r.lanes.contains a.lane && !a.done
      let (s1, ds) := as.foldl (fun (t, ds) a =>
        let ia := match a.loc with | .mem x => x | _ => 0
        let x := match ans with
          | .olds vals bad => match bad.find? (fun (e : Nat × Origin) => decide (e.1 = a.lane)) with
            | some e => t.rmwDone o wide d a (.error e.2)
            | none => t.rmwDone o wide d a
                (.ok (((vals.find? fun (e : Nat × Word) => decide (e.1 = a.lane)).map fun (e : Nat × Word) => e.2.toNat).getD 0))
          | .failed c => t.rmwFail o wide d a ia c
          | _ => (t, [])
        (x.1.dropClean o.core (ia / 128), ds ++ x.2)) (s, ([] : List Delivery))
      let s2 := if ds = [] then s1 else s1.deliverTo o ds
      (s2.completeOp o.id).fences o.warp
    | _ => s

/-- Whether L2 may keep the line that a request brings: its page's home allows it (R187), and no TLBINV under way has dropped the
PTE under which it was asked for (R347). -/
def State.keepsLine (s : State) (r : PeerReq) : Bool :=
  (match s.at {} (128 * r.line) with | .peer _ _ l2 _ => l2 | _ => false) &&
    s.ops.all fun o => match o.kind with
      | .tlbinv page n since => decide (since ≤ r.id) || decide (pageOf (128 * r.line) < page) || decide (page + n ≤ pageOf (128 * r.line))
      | _ => true

/-- A peer's line as the home slice of its local IA takes it; one that is read once serves only what had asked for it. -/
def installLine (req : Nat) (excl install : Bool) (data : List Byte) (marks : List Origin) : L2Line :=
  (List.range 8).foldl (fun (l : L2Line) q => l.putSector q { data := (data.drop (16 * q)).take 16, mark := nth .none marks q } false)
    { st := if excl then .owned else if install then .shared else .once, req := req }

def State.response (s : State) (src : Nat) (rsp : PeerResponse) : State :=
  match rsp.ans with
  | .named name stored => s.announceAnswered name stored
  | .ack =>
    let e := s.dirEntry rsp.req
    let s1 := if e.owner = some src then { s with dir := put {} s.dir rsp.req { e with owner := none } } else s
    (s1.answered src rsp.req).serveHome
  | ans =>
    match s.peerReqs.find? fun r => decide (r.id = rsp.req) && decide (r.dev = src) with
    | none => s
    | some r =>
      let s1 := s.dropReq r.id
      if r.op ≠ 0 then s1.atomicAnswer r ans
      else match ans with
        | .line data marks install => s1.putL2 r.line (installLine r.id r.excl (install && s.keepsLine r) data marks)
        | .failed c => { s1 with peerFail := put none s1.peerFail (failKey r.line r.excl) (some c) }
        | _ => s1

def execResponsePkt (src : Nat) (rsp : PeerResponse) (s : State) : Host.Outcome State Fault Refusal := .next (s.response src rsp)

end Sys2Proof.Machine
end

