-- ==== Sys2Proof/Machine/Tables.lean ====
section
/-! DEFINITION. The Lyre's tables as events change them (R382, R384 to R386, R388, R367, R368) and the digest (R389): functions
of the tables and the event alone, the same on every device. -/

namespace Sys2Proof

open Machine

/-! ## Events (R381, R382) -/

def evSeq (e : Rec8) : Nat := e.w0.toNat
def evType (e : Rec8) : Nat := bits e.w1.toNat 63 56
def evOrigin (e : Rec8) : Nat := bits e.w1.toNat 55 38
def evTime (e : Rec8) : Nat := e.w2.toNat

/-- The bits hi to lo of a word. -/
def field (hi lo : Nat) : Word := BitVec.ofNat 64 (2 ^ (hi + 1) - 2 ^ lo)

def allBits : Word := field 63 0

/-- The bits that the body words +0x18 to +0x38 of a type may use; none for a reserved type. -/
def bodyBits (ty : Nat) : Option (List Word) :=
  match ty with
  | 0x01 => some [field 63 16, allBits, allBits, allBits, field 63 22]
  | 0x02 => some [field 63 12, field 31 0, 0, 0, 0]
  | 0x03 => some [field 63 32, 0, 0, 0, 0]
  | 0x04 => some [field 63 32, 0, 0, 0, 0]
  | 0x05 => some [field 63 12, 0, 0, 0, 0]
  | 0x06 => some [field 63 46, 0, 0, 0, 0]
  | 0x07 => some [field 63 8, 0, 0, 0, 0]
  | 0x08 => some [field 63 23 ||| field 5 0, allBits, allBits, 0, 0]
  | 0x09 => some [field 63 20, field 63 29, allBits, allBits, allBits]
  | 0x0A => some [field 9 0, allBits, 0, 0, 0]
  | 0x0B => some [field 9 0, allBits, 0, 0, 0]
  | 0x0C => some [field 9 0, allBits, 0, 0, 0]
  | 0x0D => some [field 9 0, allBits, 0, 0, 0]
  | 0x0E => some [0, 0, 0, 0, 0]
  | 0x0F => some [allBits, allBits, allBits, allBits, allBits]
  | _ => none

/-- Whether an event is of a type that the table lists, with its must-be-zero bits zero. -/
def cleanEvent (e : Rec8) : Bool :=
  match bodyBits (evType e) with
  | none => false
  | some ms => decide (e.w1 &&& field 36 0 = 0) &&
      (([e.w3, e.w4, e.w5, e.w6, e.w7].zip ms).all fun x => decide (x.1 &&& ~~~x.2 = 0))

/-! ## What an applied event asks of the devices -/

/-- `word`: a device writes a gang's completion word. `rank`: a rank comes to a device, by placement or by takeover. `lease`:
a grant filled a row, or none; a row began to close; a row became FREE, by revocation or not. -/
inductive Fx where
  | word (dev ctx : Nat) (va : Word) (status failed : Nat)
  | rank (dev row rank : Nat) (takeover : Bool)
  | block (row : Nat)
  | unblock (row : Nat)
  | halt (row : Nat)
  | grant (lid : Nat)
  | refuse (row : LeaseRow)
  | close (lid : Nat)
  | free (lid : Nat) (row : LeaseRow) (revoked : Bool)
deriving DecidableEq, Repr

/-- The tables with what is asked so far. -/
structure Applying where
  t  : LyreTables := {}
  fx : List Fx := []
deriving DecidableEq, Repr

def Applying.ask (a : Applying) (x : Fx) : Applying := { a with fx := a.fx ++ [x] }

/-! ## Rows -/

def LyreTables.devRow (t : LyreTables) (r : Nat) : DevRow := look {} t.dev r
def LyreTables.putDev (t : LyreTables) (r : Nat) (x : DevRow) : LyreTables := { t with dev := put {} t.dev r x }
def LyreTables.gangAt (t : LyreTables) (r : Nat) : GangRow := look {} t.gang r
def LyreTables.putGang (t : LyreTables) (r : Nat) (x : GangRow) : LyreTables := { t with gang := put {} t.gang r x }
def LyreTables.leaseAt (t : LyreTables) (r : Nat) : LeaseRow := look {} t.lease r
def LyreTables.putLease (t : LyreTables) (r : Nat) (x : LeaseRow) : LyreTables := { t with lease := put {} t.lease r x }

def DevRow.slots (d : DevRow) : List (Option DevSlot) := [d.s0, d.s1, d.s2, d.s3]
def DevRow.setSlot (d : DevRow) (j : Nat) (x : Option DevSlot) : DevRow :=
  match j with
  | 0 => { d with s0 := x } | 1 => { d with s1 := x } | 2 => { d with s2 := x } | _ => { d with s3 := x }

/-- The lowest row that is not listed as in use. -/
def lowestFree (used : List Nat) (n : Nat) : Option Nat := (List.range n).find? fun r => !used.contains r

/-- The PLACED or BLOCKED row of a gang. -/
def LyreTables.gangRow (t : LyreTables) (gang : Nat) : Option (Nat × GangRow) :=
  t.gang.find? fun e => decide (e.2.gang = gang) && (decide (e.2.state = .placed) || decide (e.2.state = .blocked))

/-- Devices in locality order: by LOC, then by row. -/
def LyreTables.order (t : LyreTables) : List (Nat × DevRow) := sortBy (fun e => e.2.loc) t.dev

/-- The device that writes a gang's completion word: where its rank 0 last ran, if that is live, else the lowest live. -/
def LyreTables.writer (t : LyreTables) (r0 : Option Nat) : Option Nat :=
  match r0 with
  | some d => if (t.devRow d).state = .live then some d else (LyreTables.live t).head?
  | none => (LyreTables.live t).head?

/-! ## Gangs (R385, R388) -/

/-- A gang whose FIN has reached K: its row FREE, its completion word asked for. -/
def Applying.endGang (a : Applying) (row : Nat) : Applying :=
  let g := a.t.gangAt row
  if g.fin < g.k then a
  else
    let a1 := { a with t := a.t.putGang row {} }
    match a1.t.writer (some g.last0) with
    | some d => a1.ask (.word d g.ctx g.done (if g.halt then 9 else 0) g.failed)
    | none => a1

def Applying.submit (a : Applying) (e : Rec8) : Applying :=
  let q3 := e.w3.toNat
  let q7 := e.w7.toNat
  let gang := bits q3 63 32
  let k := bits q7 63 51
  let c := bits q7 50 43
  let m := bits q7 42 30
  let row := lowestFree ((a.t.gang.filter fun x => decide (x.2.state ≠ .free)).map (·.1)) 1024
  let ok := decide (gang ≠ 0) && !(a.t.gang.any fun x => decide (x.2.state ≠ .free) && decide (x.2.gang = gang)) && decide (1 ≤ k) &&
    decide (k ≤ 4096) && decide (1 ≤ c) && decide (c ≤ 160) && decide (m ≤ 6144)
  match (if ok then row else none) with
  | some r =>
    let g : GangRow := { state := .pending, prio := bits q7 29 28, cls := bits q7 27 22, k := k, c := c, m := m, gang := gang
                         ctx := bits q3 31 16, sseq := evSeq e, record := e.w4, done := e.w5, ttab := e.w6, host := evOrigin e }
    { a with t := a.t.putGang r g }
  | none => match a.t.writer none with
    | some d => a.ask (.word d (bits q3 31 16) e.w5 0x0A 0)
    | none => a

/-- The device row and slot of a gang's rank. -/
def LyreTables.slotOf (t : LyreTables) (row rank : Nat) : Option (Nat × Nat) :=
  t.dev.findSome? fun e => ((List.range 4).find? fun j => decide (nth none e.2.slots j = some { grow := row, rank := rank })).map fun j =>
    (e.1, j)

/-- FINISH of a rank; one of a rank that no slot holds changes nothing (DEDUCED, log 39). -/
def Applying.finish (a : Applying) (e : Rec8) : Applying :=
  let q := e.w3.toNat
  match a.t.gangRow (bits q 63 32) with
  | none => a
  | some (row, g) =>
    match a.t.slotOf row (bits q 31 20) with
    | none => a
    | some (d, j) =>
      let x := a.t.devRow d
      let x1 := { x.setSlot j none with fcore := x.fcore + g.c, fmem := x.fmem + g.m }
      let g1 := { g with fin := g.fin + 1, failed := Nat.min (g.failed + bits e.w4.toNat 31 0) (2 ^ 32 - 1)
                         halt := g.halt || decide (bits q 19 12 = 9) }
      { a with t := (a.t.putDev d x1).putGang row g1 }.endGang row

def Applying.block (a : Applying) (e : Rec8) : Applying :=
  match a.t.gangRow (bits e.w3.toNat 63 32) with
  | some (row, g) => if g.state = .placed then { a with t := a.t.putGang row { g with state := .blocked } }.ask (.block row) else a
  | none => a

def Applying.unblock (a : Applying) (e : Rec8) : Applying :=
  match a.t.gangRow (bits e.w3.toNat 63 32) with
  | some (row, g) => if g.state = .blocked then { a with t := a.t.putGang row { g with state := .placed } }.ask (.unblock row) else a
  | none => a

def Applying.fault (a : Applying) (e : Rec8) : Applying :=
  match a.t.gangRow (bits e.w3.toNat 63 32) with
  | some (row, g) => { a with t := a.t.putGang row { g with halt := true } }
  | none => a

/-- The rank that a slot of a lost device held: taken over by the first spare that has room, or counted as finished. -/
def Applying.loseRank (a : Applying) (x : DevSlot) : Applying :=
  let g := a.t.gangAt x.grow
  match a.t.order.find? fun e => decide (e.2.state = .spare) && decide (g.c ≤ e.2.fcore) && decide (g.m ≤ e.2.fmem) with
  | some (d, r) =>
    let r1 := { r with state := .live, s0 := some x, fcore := r.fcore - g.c, fmem := r.fmem - g.m }
    let g1 := if x.rank = 0 then { g with last0 := d } else g
    { a with t := (a.t.putDev d r1).putGang x.grow g1 }.ask (.rank d x.grow x.rank true)
  | none =>
    (({ a with t := a.t.putGang x.grow { g with halt := true, fin := g.fin + 1 } }.ask (.halt x.grow)).endGang x.grow)

/-! ## Leases (R367, R368) -/

/-- NPAGES × 2 MiB rounded up to GiB. -/
def gibOf (npages : Nat) : Nat := (npages + 511) / 512

/-- A lease row FREE, its memory back with the lender. -/
def Applying.freeLease (a : Applying) (lid : Nat) (revoked : Bool) : Applying :=
  let r := a.t.leaseAt lid
  let l := r.lender % 4096
  let d := a.t.devRow l
  { a with t := (a.t.putLease lid {}).putDev l { d with fmem := d.fmem + gibOf r.npages } }.ask (.free lid r revoked)

/-- The term and the deadline of one row met by an event's agreed time. -/
def Applying.leaseTime (a : Applying) (lid at_ : Nat) : Applying :=
  let r := a.t.leaseAt lid
  let a1 := if (r.state = .granted ∨ r.state = .returning) ∧ r.termend ≤ at_ then
      let a0 := { a with t := a.t.putLease lid { r with state := .reclaiming, deadline := r.termend + r.bound * 1000000 } }
      if r.state = .granted then a0.ask (.close lid) else a0
    else a
  let r1 := a1.t.leaseAt lid
  if r1.state = .reclaiming ∧ r1.deadline ≤ at_ then a1.freeLease lid true else a1

def Applying.leaseTimes (a : Applying) (at_ : Nat) : Applying :=
  (a.t.lease.map (·.1)).foldl (fun (x : Applying) lid => x.leaseTime lid at_) a

/-- A GRANT: the lowest FREE row filled, or nothing. `fb`: its fallback entries keep R195. -/
def Applying.grant (a : Applying) (e : Rec8) (fb : Bool) : Applying :=
  let q := e.w3.toNat
  let lender := evOrigin e
  let lbase := bits e.w4.toNat 63 29
  let np := bits q 39 20
  let bound := bits q 45 40
  let clash := a.t.lease.any fun x => decide (x.2.state ≠ .free) && decide (x.2.lender = lender) && decide (lbase < x.2.lbase + x.2.npages) &&
    decide (x.2.lbase < lbase + np)
  let row := lowestFree ((a.t.lease.filter fun x => decide (x.2.state ≠ .free)).map (·.1)) 1024
  let r : LeaseRow := { state := .granted, lender := lender, borrower := bits q 63 46, bound := bound, gseq := evSeq e, lbase := lbase
                        npages := np, termend := e.w5.toNat, fbtab := e.w6, bbase := e.w7.toNat }
  match (if clash ∨ bound = 0 ∨ 50 < bound ∨ np = 0 ∨ ¬ fb then none else row) with
  | none => a.ask (.refuse r)
  | some lid =>
    let d := a.t.devRow (lender % 4096)
    { a with t := (a.t.putLease lid r).putDev (lender % 4096) { d with fmem := d.fmem - gibOf np } }.ask (.grant lid)

/-- The row that an event names, if its GSEQ is the row's. -/
def LyreTables.named (t : LyreTables) (e : Rec8) : Option (Nat × LeaseRow) :=
  let lid := bits e.w3.toNat 9 0
  let r := t.leaseAt lid
  if r.state ≠ .free ∧ r.gseq = e.w4.toNat then some (lid, r) else none

def Applying.reclaim (a : Applying) (e : Rec8) : Applying :=
  match a.t.named e with
  | some (lid, r) =>
    if evOrigin e = r.lender ∧ (r.state = .granted ∨ r.state = .returning) then
      let a0 := { a with t := a.t.putLease lid { r with state := .reclaiming, deadline := evTime e + r.bound * 1000000 } }
      if r.state = .granted then a0.ask (.close lid) else a0
    else a
  | none => a

def Applying.return_ (a : Applying) (e : Rec8) : Applying :=
  match a.t.named e with
  | some (lid, r) =>
    if evOrigin e = r.borrower ∧ r.state = .granted then
      { a with t := a.t.putLease lid { r with state := .returning } }.ask (.close lid)
    else a
  | none => a

def Applying.done (a : Applying) (e : Rec8) : Applying :=
  match a.t.named e with
  | some (lid, r) => if evOrigin e = r.borrower ∧ r.state ≠ .granted then a.freeLease lid false else a
  | none => a

def Applying.revoke (a : Applying) (e : Rec8) : Applying :=
  match a.t.named e with
  | some (lid, r) => if evOrigin e = r.lender ∧ r.state = .reclaiming then a.freeLease lid true else a
  | none => a

/-! ## Devices (R385, R388) -/

/-- LOSS: the row LOST, its leases ended, its slots handled in order. -/
def Applying.loss (a : Applying) (e : Rec8) : Applying :=
  let did := bits e.w3.toNat 63 46
  let r := did % 4096
  let x := a.t.devRow r
  let a1 : Applying := { a with t := a.t.putDev r { x with state := .lost, s0 := none, s1 := none, s2 := none, s3 := none } }
  let a2 := (a1.t.lease.filter fun l => decide (l.2.state ≠ .free) && (decide (l.2.borrower = did) || decide (l.2.lender = did))).foldl
    (fun (y : Applying) l => y.freeLease l.1 (decide (l.2.lender = did))) a1
  x.slots.foldl (fun (y : Applying) s => match s with | some sl => y.loseRank sl | none => y) a2

def Applying.join (a : Applying) (e : Rec8) : Applying :=
  let q := e.w3.toNat
  let r := bits q 63 46 % 4096
  let x := a.t.devRow r
  if x.state = .absent ∨ x.state = .lost then
    { a with t := a.t.putDev r { state := if bit q 8 then .spare else .live, fcore := bits q 45 38, fmem := bits q 37 25, loc := bits q 24 9 } }
  else a

def Applying.reserve (a : Applying) (e : Rec8) : Applying :=
  let q := e.w3.toNat
  let r : ResvRow := if bit q 63 then
      { v := true, cls := bits q 62 57, k := bits q 56 44, c := bits q 43 36, m := bits q 35 23, start := e.w4.toNat, fin := e.w5.toNat }
    else {}
  { a with t := { a.t with resv := put {} a.t.resv (bits q 5 0) r } }

/-- What an event does by its type (R385). -/
def Applying.act (a : Applying) (e : Rec8) (fb : Bool) : Applying :=
  match evType e with
  | 0x01 => a.submit e | 0x02 => a.finish e | 0x03 => a.block e | 0x04 => a.unblock e | 0x05 => a.fault e
  | 0x06 => a.loss e | 0x07 => a.join e | 0x08 => a.reserve e | 0x09 => a.grant e fb | 0x0A => a.reclaim e
  | 0x0B => a.return_ e | 0x0C => a.done e | 0x0D => a.revoke e
  | _ => a

/-! ## Placement (R386) -/

def DevRow.eligible (d : DevRow) (c m : Nat) : Bool :=
  decide (d.state = .live) && decide (c ≤ d.fcore) && decide (m ≤ d.fmem) && d.slots.any (·.isNone)

/-- The devices that reservations mark at a time, with the class. -/
def LyreTables.marks (t : LyreTables) (at_ : Nat) : List (Nat × Nat) :=
  t.resv.foldl (fun (acc : List (Nat × Nat)) e =>
    let r := e.2
    if r.v ∧ r.start ≤ at_ ∧ at_ < r.fin then
      let free := t.order.filter fun d => !(acc.any fun x => decide (x.1 = d.1)) && d.2.eligible r.c r.m
      acc ++ (free.take r.k).map fun d => (d.1, r.cls)
    else acc) []

/-- One gang tried. -/
def Applying.placeGang (a : Applying) (marks : List (Nat × Nat)) (row : Nat) : Applying :=
  let g := a.t.gangAt row
  let open_ := a.t.order.filter fun d => (marks.all fun x => decide (x.1 ≠ d.1) || decide (x.2 = g.cls)) && d.2.eligible g.c g.m
  if open_.length < g.k then a
  else
    let a1 := (open_.take g.k).zipIdx.foldl (fun (x : Applying) d =>
      let r := x.t.devRow d.1.1
      let j := ((List.range 4).find? fun j => (nth none r.slots j).isNone).getD 0
      let r1 := { r.setSlot j (some { grow := row, rank := d.2 }) with fcore := r.fcore - g.c, fmem := r.fmem - g.m }
      { x with t := x.t.putDev d.1.1 r1 }.ask (.rank d.1.1 row d.2 false)) a
    let r0 := match open_ with | d :: _ => d.1 | [] => 0
    { a1 with t := a1.t.putGang row { g with state := .placed, last0 := r0 } }

/-- The pending queue: highest PRIO first, then lowest SSEQ. -/
def LyreTables.pending (t : LyreTables) : List Nat :=
  let ps := t.gang.filter fun e => decide (e.2.state = .pending)
  (sortBy (fun e => 3 - e.2.prio) (sortBy (fun e => e.2.sseq) ps)).map (·.1)

def Applying.pass (a : Applying) (at_ : Nat) : Applying :=
  let marks := a.t.marks at_
  a.t.pending.foldl (fun (x : Applying) row => x.placeGang marks row) a

/-- The tables after an event: the lease checks, its effect, a placement pass; an event of reserved type or with a nonzero
must-be-zero bit changes nothing (R382; DEDUCED for the checks and the pass, log 41). `fb`: of a GRANT, its fallback entries keep
R195. -/
def LyreTables.apply (t : LyreTables) (e : Rec8) (fb : Bool) : Applying :=
  let a : Applying := { t := t }
  if cleanEvent e then ((a.leaseTimes (evTime e)).act e fb).pass (evTime e) else a

/-! ## The digest (R389) -/

def rotl5 (d : Word) : Word := (d <<< 5) ||| (d >>> 59)

/-- w8: the exclusive or over the ranks placed or moved. -/
def movedWord (didOf : Nat → Nat) (fx : List Fx) : Word :=
  fx.foldl (fun (w : Word) x => match x with
    | .rank d row rank _ => w ^^^ BitVec.ofNat 64 (didOf d * 2 ^ 32 + row * 2 ^ 16 + rank)
    | _ => w) 0

def foldDigest (d : Word) (e : Rec8) (w8 : Word) : Word :=
  [e.w0, e.w1, e.w2, e.w3, e.w4, e.w5, e.w6, e.w7, w8].foldl (fun d w => rotl5 d ^^^ w) d

end Sys2Proof
end

