-- ==== Sys2Proof/Machine/Lease.lean ====
section
/-! DEFINITION. The lease engine: requests and grants (R408), the fill (R369), the copy-back (R369, R370), what the end of a
lease brings (R371, R373, R409), and the records of the notification ring (R371, R372). -/

namespace Sys2Proof.Machine

/-! ## Lending (R408) -/

/-- A refusal sent. -/
def State.refuseLease (s : State) (dev tag : Nat) : State := { s with outbox := .leasenak dev tag :: s.outbox }

/-- The runs of this device's pages that are lent or promised: first page and pages. -/
def State.lentRuns (s : State) : List (Nat × Nat) :=
  ((s.lyre.t.lease.filter fun e => decide (e.2.state ≠ .free) && decide (e.2.lender = s.did)).map fun e => (e.2.lbase, e.2.npages)) ++
    s.leng.grants.map fun g => (g.2.1, g.2.2)

/-- The lowest free run of `n` pages in the lending window. -/
def State.lendRun (s : State) (n : Nat) : Option Nat :=
  let first := bits s.leng.win.toNat 63 29
  let count := bits s.leng.win.toNat 19 0
  let used := s.lentRuns
  let ok (b : Nat) : Bool := decide (first ≤ b) && decide (b + n ≤ first + count) &&
    used.all fun r => decide (b + n ≤ r.1) || decide (r.1 + r.2 ≤ b)
  (sortBy id (first :: used.map fun r => r.1 + r.2)).find? ok

/-- A request served: a GRANT posted for the lowest free run, or a refusal; an engine that is not ready lends nothing
(R432). -/
def State.leaseRequest (s : State) (src tag bound np term : Nat) (fbtab bbase : Word) : State :=
  match (if s.isReady .lease ∧ np ≠ 0 then s.lendRun np else none) with
  | none => s.refuseLease src tag
  | some b =>
    ({ s with leng := { s.leng with grants := s.leng.grants ++ [(src, b, np)] } }).post
      (s.event 9 (src * 2 ^ 46 + bound % 64 * 2 ^ 40 + np % 2 ^ 20 * 2 ^ 20) (b * 2 ^ 29) (BitVec.ofNat 64 (s.atime + term)) fbtab
        (BitVec.ofNat 64 (bits bbase.toNat 55 21)))

def execLeasereqPacket (src tag bound npages term : Nat) (fbtab bbase : Word) (s : State) : Host.Outcome State Fault Refusal :=
  .next (s.leaseRequest src tag bound npages term fbtab bbase)

/-- A refusal from the lender: the request that it names completes. -/
def execLeasenak (tag : Nat) (s : State) : Host.Outcome State Fault Refusal :=
  .next (match s.cmds.find? fun c => match c.kind with | .leasereq t _ _ _ _ _ => decide (t = tag) | _ => false with
    | some c => s.answerLease c 0 0 false
    | none => s)

/-- The lender's engine posts REVOKE at the deadline of a row. -/
def execLeaseDeadline (lid : Nat) (s : State) : Host.Outcome State Fault Refusal :=
  let r := s.leaseRow lid
  .next (if r.state = .reclaiming ∧ r.lender = s.did ∧ r.deadline ≤ s.atime then s.post (s.event 0x0D lid r.gseq 0 0 0) else s)

/-! ## Chunks -/

/-- One line of a page under a given entry: its bytes and marks as its home holds them; none while it is on its way. -/
def State.lineUnder (s : State) (ia : Nat) (w : Word) : State × Option (List Byte × List Origin) :=
  let secs (x : Nat → Sector) : List Byte × List Origin :=
    ((List.range 8).flatMap fun q => (x q).data, (List.range 8).map fun q => (x q).mark)
  match s.underPte {} ia w true with
  | .loc p => (s, some (secs (s.homeSector p)))
  | .pin cid off _ => (s, some (secs fun q => s.spadSector cid (off / 128 * 128 + 16 * q)))
  | .fail c => (s, some (secs fun _ => zeroSector c.origin))
  | .wait => (s, none)
  | .peer dev pia _ _ =>
    let l := s.l2Line (ia / 128)
    if l.have_ = 0xFF ∧ l.st ≠ .loc then (s.doneReady (.held (ia / 128) true true), some (secs l.sector))
    else match look none s.peerFail (failKey (ia / 128) false) with
      | some c => ({ s with peerFail := put none s.peerFail (failKey (ia / 128) false) none }, some (secs fun _ => zeroSector c.origin))
      | none => (s.askPeer dev pia (ia / 128) false, none)

/-- The 32 lines of a chunk; none while one is on its way. -/
def State.chunkUnder (s : State) (ia : Nat) (w : Word) : State × Option (List (List Byte × List Origin)) :=
  (List.range 32).foldl (fun (t, acc) i =>
    let (t1, x) := t.lineUnder (ia + 128 * i) w
    (t1, match acc, x with | some ls, some l => some (ls ++ [l]) | _, _ => none)) (s, some [])

/-- A chunk written to another endpoint's page, line by line. -/
def State.sendChunk (s : State) (dev ia : Nat) (ls : List (List Byte × List Origin)) : State :=
  { s with outbox := (ls.zipIdx.map fun e => Packet.writeBack dev (ia + 128 * e.2) (BitVec.allOnes 128) e.1.2 e.1.1).reverse ++ s.outbox }

/-- A chunk written under a fallback entry. -/
def State.storeChunk (s : State) (ia : Nat) (w : Word) (ls : List (List Byte × List Origin)) : State :=
  match s.underPte {} ia w true with
  | .loc p => ls.zipIdx.foldl (fun (t : State) e => (List.range 8).foldl (fun (u : State) q =>
      u.putDdrSector p.key (p.addr / 16 + 8 * e.2 + q) { data := (e.1.1.drop (16 * q)).take 16, mark := nth .none e.1.2 q }) t) s
  | .peer dev pia _ _ => s.sendChunk dev pia ls
  | _ => s

/-- A word of this device's memory by its IA; none while it cannot be read yet. A word that cannot be read at all is 0. -/
def State.wordAt (s : State) (ia : Nat) : State × Option Word :=
  match s.prepare {} ia with
  | (s1, .wait) => (s1, none)
  | (s1, .fail _) => (s1, some 0)
  | (s1, r) => (s1, some (BitVec.ofNat 64 (ofBytes (((s1.readySector r (ia % 128 / 16)).data.drop (ia % 16)).take 8))))

def State.move (s : State) (lid : Nat) : LeaseMove := look {} s.leng.moves lid
def State.putMove (s : State) (lid : Nat) (m : LeaseMove) : State := { s with leng := { s.leng with moves := put {} s.leng.moves lid m } }

/-- A page's cached lines gone and peers' copies called back; whether that is done. -/
def State.clearPage (s : State) (page : Nat) : State × Bool :=
  let ia := page * 2 ^ 21
  match s.callBack ia (2 ^ 21) with
  | (s1, false) => (s1, false)
  | (s1, true) => let s2 := s1.purge ia (2 ^ 21); (s2, !s2.dirtyIn ia (2 ^ 21))

/-- A page's PTE written in its table, with nothing left of the old one. -/
def State.writePte (s : State) (page : Nat) (w : Word) : State :=
  (if pteIdx page < (s.link (linkOf page)).count then s.putLinkWord (s.pteAddr page) w else s).tlbInv page 1

/-! ## Fill (R369) -/

/-- One chunk of the fill of a lease: from the fallback frame to the lender; with the last one the page is remapped. -/
def State.fillChunk (s : State) (lid : Nat) : State :=
  let m := s.move lid
  let page := m.row.bbase + m.page
  let ia := page * 2 ^ 21 + 4096 * m.chunk
  if m.row.state = .free ∨ m.closing ∨ m.row.npages ≤ m.page ∨ ¬ s.isReady .lease then s
  else
    let (s1, ready) := if m.chunk = 0 then s.clearPage page else (s, true)
    if !ready then s1
    else
      let (s2, fb) := if m.chunk = 0 then s1.wordAt (m.row.fbtab.toNat + 8 * m.page) else (s1, some m.fb)
      match fb with
      | none => s2
      | some w => match s2.chunkUnder ia w with
        | (s3, none) => s3
        | (s3, some ls) =>
          let s4 := (s3.sendChunk m.row.lender ((m.row.lbase + m.page) * 2 ^ 21 + 4096 * m.chunk) ls).purge ia 4096
          if m.chunk = 511 then (s4.writePte page (m.lent m.page w)).putMove lid { m with page := m.page + 1, chunk := 0, fb := 0 }
          else s4.putMove lid { m with chunk := m.chunk + 1, fb := w }

def execLeaseFillChunk (lid : Nat) (s : State) : Host.Outcome State Fault Refusal := .next (s.fillChunk lid)

/-! ## Copy-back (R369, R370) -/

/-- Pages that the copy-back goes through: those filled, and the one in motion if some of it was filled. -/
def LeaseMove.backPages (m : LeaseMove) : Nat := m.page + (if 0 < m.chunk then 1 else 0)

/-- One step of the copy-back: a page begun, with the dirty bitmap that its lender holds, a dirty chunk copied, or a page
ended; after the last page DONE is posted. -/
def State.backChunk (s : State) (lid : Nat) (dirty : List Nat) : State :=
  let m := s.move lid
  let page := m.row.bbase + m.cur
  if m.row.state = .free ∨ ¬ m.closing ∨ m.posted ∨ ¬ s.isReady .lease then s
  else if m.backPages ≤ m.cur then (s.post (s.event 0x0C lid m.row.gseq 0 0 0)).putMove lid { m with posted := true }
  else if !m.begun then
    match s.clearPage page with
    | (s1, false) => s1
    | (s1, true) =>
      let part := decide (m.cur = m.page)
      let (s2, fb) := if part then (s1, some m.fb) else s1.wordAt (m.row.fbtab.toNat + 8 * m.cur)
      match fb with
      | none => s2
      | some w =>
        let clean := (List.range 512).filter fun c => !dirty.contains c || (part && decide (m.chunk ≤ c))
        s2.putMove lid { m with begun := true, cfb := w, copied := clean, dirty := 512 - clean.length }
  else
    match (List.range 512).find? fun c => !m.copied.contains c with
    | none =>
      ((s.purge (page * 2 ^ 21) (2 ^ 21)).writePte page m.cfb).putMove lid
        { m with cur := m.cur + 1, begun := false, copied := [], back := m.back ++ [(m.dirty, m.cfb)] }
    | some c =>
      let ia := page * 2 ^ 21 + 4096 * c
      match s.chunkUnder ia (m.lent m.cur m.cfb) with
      | (s1, none) => s1
      | (s1, some ls) =>
        let s2 := { s1 with l2 := s1.l2.filter fun e => !(lineIn ia 4096 e.1) }
        (s2.storeChunk ia m.cfb ls).putMove lid { m with copied := m.copied ++ [c] }

def execLeaseCopybackChunk (lid : Nat) (dirty : List Nat) (s : State) : Host.Outcome State Fault Refusal :=
  .next (s.backChunk lid dirty)

/-! ## What applied events bring (R368 to R373, R408, R409) -/

/-- A run of pages taken out of a list of revoked regions. -/
def cutRuns (dev first n : Nat) (rs : List (Nat × Nat × Nat)) : List (Nat × Nat × Nat) :=
  rs.flatMap fun r =>
    if r.1 ≠ dev ∨ r.2.1 + r.2.2 ≤ first ∨ first + n ≤ r.2.1 then [r]
    else (if r.2.1 < first then [(dev, r.2.1, first - r.2.1)] else []) ++
      (if first + n < r.2.1 + r.2.2 then [(dev, first + n, r.2.1 + r.2.2 - (first + n))] else [])

/-- The oldest request of this device that a grant answers. -/
def State.requestOf (s : State) (r : LeaseRow) : Option Cmd :=
  s.cmds.find? fun c => match c.kind with
    | .leasereq _ l b n f bb => decide (l = r.lender) && decide (b = r.bound) && decide (n = r.npages) && decide (f = r.fbtab.toNat) &&
        decide (bb / 2 ^ 21 = r.bbase)
    | _ => false

/-- A GRANT seen applied by its lender. -/
def State.grantSeen (s : State) (r : LeaseRow) : State :=
  if r.lender ≠ s.did then s
  else { s with leng := { s.leng with grants := s.leng.grants.filter fun g => decide (g ≠ (r.borrower, r.lbase, r.npages)) } }

/-- A dirty bitmap cleared. -/
def State.clearDirty (s : State) (page : Nat) : State :=
  (List.range 8).foldl (fun (t : State) i => t.putLinkWord (s.sideAddr page + 8 * i) 0) s

/-- A grant that filled row `lid`. -/
def State.leaseGranted (s : State) (lid : Nat) : State :=
  let r := s.leaseRow lid
  let s1 := s.grantSeen r
  let s2 := if r.lender = s.did then
      (List.range r.npages).foldl (fun (t : State) k => t.clearDirty (r.lbase + k))
        (({ s1 with leng := { s1.leng with revoked := cutRuns r.borrower r.lbase r.npages s1.leng.revoked } }).purge
          (r.lbase * 2 ^ 21) (r.npages * 2 ^ 21))
    else s1
  if r.borrower ≠ s.did then s2
  else
    let c := s2.requestOf r
    let s3 := { s2 with leng := { s2.leng with revoked := cutRuns s.did r.bbase r.npages s2.leng.revoked } }.putMove lid
      { row := r, ctx := c.map fun (x : Cmd) => x.ctx }
    match c with
    | some c => s3.answerLease c r.gseq lid true
    | none => s3

/-- A grant that was a no-op. -/
def State.leaseRefused (s : State) (r : LeaseRow) : State :=
  let s1 := s.grantSeen r
  if r.borrower ≠ s.did then s1
  else match s1.requestOf r with
    | some c => s1.answerLease c 0 0 false
    | none => s1

/-- A row that has begun to close: the fill stops, and the lender's home slices write their dirty lines of the region back. -/
def State.leaseClosing (s : State) (lid : Nat) : State :=
  let r := s.leaseRow lid
  let s1 := if r.lender = s.did then
      (s.l2.filter fun e => lineIn (r.lbase * 2 ^ 21) (r.npages * 2 ^ 21) e.1).foldl (fun (t : State) e => t.writeBackL2 e.1) s
    else s
  let m := s1.move lid
  if r.borrower = s.did ∧ m.row.state ≠ .free then s1.putMove lid { m with closing := true } else s1

/-- The demotion record of page `k` of a lease. -/
def LeaseMove.record (m : LeaseMove) (lid k time : Nat) (revoked : Bool) (aper : Nat) : List Word :=
  let w (kind ap dirty : Nat) : List Word :=
    [BitVec.ofNat 64 (kind * 2 ^ 56 + lid * 2 ^ 46 + ap * 2 ^ 44 + dirty), BitVec.ofNat 64 (m.row.bbase + k), BitVec.ofNat 64 time, 0]
  if k < m.back.length then
    let e := nth (0, 0) m.back k
    w 1 (bits e.2.toNat 62 61) e.1
  else if revoked ∧ k < m.backPages then
    w 2 2 (if k = m.cur ∧ m.begun then m.dirty - ((List.range 512).filter fun c => !m.copied.contains c).length else 0)
  else w 1 aper 0

/-- Directory entries of a device for a run of this device's pages dropped, with what is awaited of it. -/
def State.dropHolder (s : State) (dev first n : Nat) : State :=
  let here (line : Nat) : Bool := lineIn (first * 2 ^ 21) (n * 2 ^ 21) line
  let dir := s.dir.filterMap fun e =>
    if here e.1 then
      let x : DirEntry := { sharers := e.2.sharers.filter fun d => decide (d ≠ dev)
                            owner := if e.2.owner = some dev then none else e.2.owner }
      if x = {} then none else some (e.1, x)
    else some e
  { s with dir := dir, homeWaits := s.homeWaits.map fun h => if here h.line ∧ ¬ h.back then
      { h with acks := h.acks.filter fun d => decide (d ≠ dev) } else h }

/-- The cached lines of the pages that a revocation makes LOST, dropped on their borrower: what is dirty goes out as write-backs,
which the lender discards. -/
def State.dropLost (s : State) (m : LeaseMove) : State :=
  let ia := (m.row.bbase + m.back.length) * 2 ^ 21
  let n := (m.backPages - m.back.length) * 2 ^ 21
  let t := s.purge ia n
  { t with l1 := t.l1.filter fun e => !(lineIn ia n (e.1 % 2 ^ 49)), l2 := t.l2.filter fun e => !(lineIn ia n e.1) }

/-- A lease that has ended: on its lender the region is free again, or revoked; on its borrower the records are queued and a
LEASERET completes after them. -/
def State.leaseFreed (s : State) (lid : Nat) (r : LeaseRow) (revoked : Bool) (time : Nat) : State :=
  let s1 := if r.lender = s.did then
      let t := s.dropHolder r.borrower r.lbase r.npages
      if revoked then { t with leng := { t.leng with revoked := (r.borrower, r.lbase, r.npages) :: t.leng.revoked } } else t
    else s
  if r.borrower ≠ s.did then s1
  else
    let m := s1.move lid
    let s0 := if revoked then s1.dropLost m else s1
    let s2 := if revoked ∧ 0 < m.chunk ∧ m.back.length ≤ m.page then s0.writePte (r.bbase + m.page) (m.lent m.page m.fb) else s0
    let recs := if m.row.state = .free then [] else (List.range r.npages).map fun k =>
      LeaseTodo.record m.ctx (m.record lid k time revoked (bits (s2.pteTable (r.bbase + k)).toNat 62 61))
    let rets := (s2.cmds.filter fun c => match c.kind with | .leaseret l g => decide (l = lid) && decide (g = r.gseq) | _ => false).map fun c =>
      LeaseTodo.answer c.id (if revoked then 9 else 0)
    let t := s2.putMove lid {}
    { t with leng := { t.leng with
        todo := t.leng.todo ++ recs ++ rets
        revoked := if revoked then (s.did, r.bbase, r.npages) :: t.leng.revoked else t.leng.revoked } }

/-! ## The notification ring (R372) -/

/-- Whether a line of a context's memory can be written now or never, with what it takes. -/
def State.storeReady (s : State) (ctx : Nat) (va : Word) : State × Bool :=
  match (s.ctx ctx).translate .store va with
  | .miss _ => (s, true)
  | .ok ia => match (s.recallL1s (ia / 128)).prepare (.by .store ctx) ia with
    | (s1, .wait) => (s1, false)
    | (s1, _) => (s1, true)

/-- A record not written, counted. -/
def State.recordLost (s : State) : State × Bool := ({ s with leng := { s.leng with errs := s.leng.errs + 1 } }, true)

/-- A record written to a context's ring, its bytes before WI; or counted where there is no ring. False while it must wait. -/
def State.ringRecord (s : State) (ctx : Option Nat) (ws : List Word) : State × Bool :=
  match ctx with
  | none => s.recordLost
  | some c =>
    let nr := (s.ctx c).nrbase
    let va := pageBits nr
    let missed (a : Word) : Bool := match (s.ctx c).translate .store a with | .miss _ => true | _ => false
    if !bit nr.toNat 0 || missed va || missed (va + 0x203F) then s.recordLost
    else match s.devRead c va 32 with
      | .wait s1 => (s1, false)
      | .bad s1 => s1.recordLost
      | .ok s1 bs =>
        let wi := getN bs 0 4
        let lost := if 256 ≤ (wi + 2 ^ 32 - getN bs 8 4) % 2 ^ 32 then Nat.min (getN bs 16 4 + 1) (2 ^ 32 - 1) else getN bs 16 4
        let slot := va + BitVec.ofNat 64 (0x40 + 32 * (wi % 256))
        match s1.storeReady c slot with
        | (s2, false) => (s2, false)
        | (s2, true) => match s2.storeReady c va with
          | (s3, false) => (s3, false)
          | (s3, true) =>
            let s4 := (s3.ringStore c slot (ws.flatMap fun x => toBytes 8 x.toNat)).1.getD s3
            let s5 := (s4.ringStore c (va + 16) (toBytes 4 lost)).1.getD s4
            ((s5.ringStore c va (toBytes 4 ((wi + 1) % 2 ^ 32))).1.getD s5, true)

/-- The queue of records and answers worked off as far as it goes. -/
def State.drainLease : Nat → State → State
  | 0, s => s
  | n + 1, s =>
    match s.leng.todo with
    | [] => s
    | .record ctx ws :: rest =>
      match s.ringRecord ctx ws with
      | (s1, false) => s1
      | (s1, true) => State.drainLease n { s1 with leng := { s1.leng with todo := rest } }
    | .answer id err :: rest =>
      let s1 := match s.cmd id with
        | some c => s.finishCmd c err 0 0
        | none => s
      State.drainLease n { s1 with leng := { s1.leng with todo := rest } }

def State.leaseTodos (s : State) : State := State.drainLease s.leng.todo.length s

end Sys2Proof.Machine
end

