-- ==== Sys2Proof/Machine/Preempt.lean ====
section
/-! DEFINITION. Pre-emption (R308, R309): the choice of drain, flush or save for each block, the deadline of a drain, and the
stop, the area and the release of a saved block (R269, R311 to R315, R440). -/

namespace Sys2Proof.Machine

/-! ## The choice (R308) -/

/-- The pre-emption modes in the order in which a unit takes them. -/
inductive PMode where
  | save | flush | drain
deriving DecidableEq, Repr

/-- Clocks that a block has run. -/
def State.ranFor (s : State) (b : Block) : Nat := b.elapsed + s.clk - b.at_

/-- C_s of a block. -/
def State.saveClocks (s : State) (b : Block) : Nat :=
  let l := s.launch b.launch
  let lines := sumOf (·.lines) (s.blockRegions b.launch b.cid b.idx)
  ceilDiv (128 * (l.wBlk * l.rows) + 129 * lines + 1024 * l.wBlk) 64

def State.modeOf (s : State) (b : Block) (dl : Nat) : PMode :=
  let l := s.launch b.launch
  let e := s.ranFor b
  let c := 2 * s.saveClocks b
  if l.expcyc ≠ 0 ∧ e < l.expcyc ∧ l.expcyc - e ≤ c ∧ (dl = 0 ∨ l.expcyc - e ≤ dl) then .drain
  else if l.idem ∧ e ≤ c then .flush
  else .save

/-- The first of save, flush and drain that any block of a unit selects. -/
def strongest (ms : List PMode) : PMode :=
  if ms.contains .save then .save else if ms.contains .flush then .flush else .drain

/-! ## Areas (R311, R312) -/

/-- Bytes of a block's area as it stands. -/
def State.areaSize (s : State) (blk : Nat) : Nat :=
  let b := s.block blk
  let l := s.launch b.launch
  let ws := (s.blockWarps b.launch blk).filter fun e => decide (e.2.status ≠ .halted)
  256 + 128 * l.barLevels.length + sectionLen l.rows * l.wBlk + (s.spadSection b.launch b.cid b.idx).length +
    (commandSection (s.cmds.filter fun c => (ws.map (·.1)).contains c.warp)).length

/-- The lowest run of free 4 KiB units of a pool that holds `n` bytes. -/
def Ctx.areaFor (c : Ctx) (n : Nat) : Option (Word × Nat) :=
  let units := ceilDiv n 4096
  let ends := sortBy id (0 :: (c.areas.map fun e => (e.1 - c.spool).toNat / 4096 + e.2) ++ c.dumps.map fun e => e.1 + e.2)
  (ends.find? fun b => decide (b + units ≤ c.poolUnits) && c.unitsFree b units).map fun b => (c.spool + BitVec.ofNat 64 (4096 * b), units)

/-- Whether a pool holds areas for all of some blocks. -/
def State.poolHolds (s : State) (ctx : Nat) (blks : List Nat) : Bool :=
  ((blks.foldl (fun (c : Option Ctx) b => match c with
    | none => none
    | some x => (x.areaFor (s.areaSize b)).map fun a => { x with areas := x.areas ++ [a] }) (some (s.ctx ctx)))).isSome

/-! ## Flush (R309) -/

/-- A task index handed back to the re-deal queue. -/
def Launch.giveBack (l : Launch) (is : List Nat) : Launch := { l with redeal := l.redeal ++ is.filter fun i => !l.redeal.contains i }

/-- Whether a queue command is held (R257): it has found its queue full or empty, or stands behind one that has. It has changed no
control word. -/
def State.queueHeld (s : State) (c : Cmd) : Bool :=
  (match c.kind with
    | .qpush _ _ _ => true
    | .qpop _ _ _ => c.src.isEmpty
    | _ => false) &&
  (c.held || (c.word.isSome && decide (c.arrived ≤ s.clk) &&
    s.cmds.any fun d => d.held && d.before c && decide (d.word = c.word)))

/-- One warp of a flushed block: its try and its version discarded, its task handed back, its matrix and held queue commands
discarded, its other operations go on. -/
def State.flushWarp (s : State) (blk k : Nat) : State :=
  let w := s.warp k
  let s1 := if w.tryOpen then (s.countCtx w.ctx 0x10F).dropVersion (s.tryTag k) else s
  let s2 := if w.tskVer ≠ 0 then (s1.countCtx w.ctx 0x10F).dropVersion w.tskVer else s1
  let l := s2.launch w.launch
  let s3 := if w.tskValid then s2.putLaunch w.launch (l.giveBack [w.tskIdx.toNat]) else s2
  let s4 := { s3 with cmds := s3.cmds.filter fun c => !(decide (c.warp = k) && (c.tiles || s3.queueHeld c)) }
  let b := s4.block blk
  (s4.putBlock blk { b with after := b.after ++ [2 ^ 20 + s4.nextId] }).vacate k

/-- The warps of a block stopped for a flush; the rest of its chunk is handed back. A halted warp is left to its halt, and a block
of halted warps alone to its retirement. -/
def State.startFlush (s : State) (blk : Nat) : State :=
  let ks := ((s.blockWarps (s.block blk).launch blk).filter fun e => decide (e.2.status ≠ .halted)).map (·.1)
  if ks = [] then s
  else
  let s1 := ks.foldl (fun (t : State) k => t.flushWarp blk k) s
  let b := s1.block blk
  let l := s1.launch b.launch
  (s1.putLaunch b.launch { l.giveBack (look [] l.chunks b.idx) with
    chunks := put [] l.chunks b.idx [], asks := l.asks.filter fun e => decide (e.2 ≠ b.idx) }).putBlock blk { b with pre := .flush }

/-! ## The unit returns to the pending order -/

/-- The blocks of the placement unit of a block that are placed and not retired. -/
def State.unitMates (s : State) (id u : Nat) : List (Nat × Block) :=
  let l := s.launch id
  s.blocks.filter fun e => decide (e.2.launch = id) && e.2.live && decide (e.2.idx / l.unitBlocks = u)

/-- Barriers of every unit inside a placement unit, taken away. -/
def State.clearBars (s : State) (id u : Nat) : State :=
  let l := s.launch id
  let keys := l.barLevels.flatMap fun i => (l.blocksOf u).flatMap fun idx => (List.range 16).map fun n => barKey id i (l.unit i idx 0) n
  { s with bars := keys.foldl (fun m k => put {} m k {}) s.bars }

/-- A unit of which nothing is left on a core goes to the head of its launch's pending order. -/
def State.returnUnit (s : State) (id u : Nat) : State :=
  let ms := s.unitMates id u
  let l := s.launch id
  if (ms.any fun e => !e.2.saved) || l.head.contains u || (s.blocksLeft id l u).isEmpty then s
  else s.putLaunch id { l with head := u :: l.head }

/-- A flushed block whose operations are over leaves its core. Queue commands that have been held since are withdrawn too. -/
def State.finishFlush (s0 : State) (blk : Nat) : State :=
  let b := s0.block blk
  let s := { s0 with cmds := s0.cmds.filter fun c => !(b.after.contains c.warp && s0.queueHeld c) }
  let busy := (s.ops.any fun o => b.after.contains o.warp) || (s.cmds.any fun c => b.after.contains c.warp) ||
    decide ((s.blockWarps b.launch blk) ≠ [])
  if busy || decide (b.pre ≠ .flush) then s
  else
    let u := b.idx / (s.launch b.launch).unitBlocks
    let s1 := { s with blocks := put {} s.blocks blk {} }
    let s2 := if (s1.unitMates b.launch u).any fun e => !e.2.saved then s1 else s1.clearBars b.launch u
    (s2.sweepCore b.cid).returnUnit b.launch u

/-! ## Save (R309) -/

/-- A warp of a block that is being saved, brought to its boundary: a pending trap taken, its try aborted. It stops where it stands,
so one that waits in a YIELD stops there (R175; DEDUCED, log 113). -/
def State.stopForSave (s : State) (k : Nat) : State :=
  let w := s.warp k
  if w.status ≠ .run then s
  else s.asWarp k fun t =>
    match w.wait with
    | .aborting code stop h => if t.quiet k then t.finishAbort code stop h else t
    | _ =>
      if w.ueHalt then (t.setW { w with ueHalt := false }).takeTrap { cls := clsUncorr, cause := 2 } w.pc
      else if !w.deferred.isEmpty then t.takeDeferred
      else if w.tryOpen then t.abortTry 5 none
      else t

/-- A warp that stands at a boundary with nothing outstanding: no try, no trap pending, LOADS and STORES 0. -/
def State.stoppedForSave (s : State) (k : Nat) : Bool :=
  let w := s.warp k
  decide (w.status = .stopped) && s.quiet k ||
    (decide (w.status = .run) && !w.tryOpen && !w.ueHalt && w.deferred.isEmpty && s.quiet k &&
      match w.wait with | .aborting _ _ _ => false | _ => true)

/-- Queue commands that can go on do; runnable ACCZ, ACCMV and ACCST run (R269). -/
def State.drainQueues (s : State) (ks : List Nat) : State :=
  let ids := (s.cmds.filter fun c => ks.contains c.warp).map (·.id)
  ids.foldl (fun (t : State) id => match t.cmd id with
    | some c => (match c.kind with
      | .qpush _ _ _ => t.performPush id
      | .qpop _ _ _ => t.performPop id
      | .qinit _ _ => t.performInit c
      | .mat _ _ => t.runTile c
      | .tmacFail _ _ => t.runTile c
      | _ => t)
    | none => t) s

/-- Whether a command may stand while its block is saved: a held queue command that has read, or a matrix command, but for one that
runs to completion first (R269): an ACCZ, ACCMV, ACCST or failed TMAC that is first in its warp's order. -/
def State.savable (s : State) (c : Cmd) : Bool :=
  match c.kind with
  | .mat _ _ => !(s.firstTile c && decide (0xAB ≤ c.opc) && decide (c.opc ≤ 0xAD))
  | .tmacFail _ _ => !s.firstTile c
  | _ => s.queueHeld c && !c.unread

/-- A command as its block's record keeps it: its warp by its place among the saved warps, a copy-in begun anew. -/
def Cmd.forSave (c : Cmd) (ks : List Nat) : Cmd :=
  { c with warp := (ks.findIdx? (· = c.warp)).getD 0, src := if c.opc = 0xAE then [] else c.src
           arrived := 0, held := false, word := none }

/-- A stopped block's area written and its resources released. -/
def State.writeSave (s : State) (blk : Nat) (ks : List Nat) (area : Word × Nat) : State :=
  let b := s.block blk
  let l := s.launch b.launch
  let ws := ks.map s.warp
  let cs := recorded (s.cmds.filter fun c => ks.contains c.warp)
  let lines := sumOf (·.lines) (s.blockRegions b.launch b.cid b.idx)
  let image := layBytes 256 (s.areaFields b.cid blk ks.length cs.length lines) ++ (s.barSections b.launch b.idx).flatten ++
    (l.warpSections ws).flatten ++ s.spadSection b.launch b.cid b.idx ++ commandSection cs
  let (s1, _) := s.writeArea {} b.cid l.ctx area.1 (areaLines (s.sealBytes l.ctx area.1 0 0 image))
  let z := 2 ^ 20 + s1.nextId
  let vs := s1.vers.map fun v => if ks.contains v.2.warp then (v.1, { v.2 with warp := z }) else v
  let core := s1.core b.cid
  let b1 : Block := { b with pre := .none, saved := true, area := some area, warps := ws, cmds := cs.map (·.forSave ks), image := image
                             tname := core.tagName &&& b.tuse, held := s.heldUnits b.launch b.cid b.idx }
  let c := s1.ctx l.ctx
  let s2 := { (s1.putBlock blk b1).putCtx l.ctx { c with areas := c.areas ++ [area] } with
    nextId := s1.nextId + 1, vers := vs, warps := s1.warps.filter fun e => !ks.contains e.1
    cmds := s1.cmds.filter fun x => !ks.contains x.warp }
  (s2.sweepCore b.cid).returnUnit b.launch (b.idx / l.unitBlocks)

/-- A save goes on: warps to their boundaries, queues and runnable matrix commands drained; when nothing else is
outstanding, the core's dirty bytes are written back, which its lanes will read from another core (R228), and the area is
written. A pool with no room for it turns the save into a flush or a drain. -/
def State.runSave (s : State) (blk : Nat) : State :=
  let b := s.block blk
  let l := s.launch b.launch
  let mine (t : State) : List Nat := ((t.blockWarps b.launch blk).filter fun e => decide (e.2.status ≠ .halted)).map (·.1)
  let s1 := (mine s).foldl (fun (t : State) k => t.stopForSave k) s
  let s2 := s1.drainQueues (mine s1)
  let ks := mine s2
  if ks = [] ∨ ¬ (ks.all s2.stoppedForSave) ∨ ¬ (s2.cmds.all fun c => !ks.contains c.warp || s2.savable c) then s2
  else match (s2.ctx l.ctx).areaFor (s2.areaSize blk) with
    | none =>
      let b2 := s2.block blk
      if l.idem then s2.startFlush blk else s2.putBlock blk { b2 with pre := .drain 0 }
    | some a => match (s2.flushL1 b.cid).areaReady b.cid l.ctx a.1 (s2.areaSize blk) with
      | (s3, false) => s3
      | (s3, true) => if s3.l1Dirty b.cid then s3 else s3.writeSave blk ks a

/-- One more step of a block's save or flush. -/
def State.blockSave (s : State) (blk : Nat) : State :=
  match (s.block blk).pre with
  | .save => s.runSave blk
  | .flush => s.finishFlush blk
  | _ => s

def execBlockSave (blk : Nat) (s : State) : Host.Outcome State Fault Refusal := .next (s.blockSave blk)

/-! ## Requests -/

/-- A mode begun for one block. -/
def State.beginPreempt (s0 : State) (blk : Nat) (m : PMode) (dl : Nat) : State :=
  let b := s0.block blk
  let s := (s0.count 0x15).countCtx (s0.launch b.launch).ctx 0x108
  match m with
  | .drain => s.putBlock blk { b with pre := .drain (if dl = 0 then 0 else s.clk + dl) }
  | .flush => (s.startFlush blk).finishFlush blk
  | .save => (s.putBlock blk { b with pre := .save }).runSave blk

/-- The mode of a unit's blocks: `force`: save, as a Lyre's BLOCK asks. -/
def State.unitMode (s : State) (id : Nat) (ms : List (Nat × Block)) (dl : Nat) (force : Bool) : PMode :=
  let l := s.launch id
  let m := if force then PMode.save else strongest (ms.map fun e => s.modeOf e.2 dl)
  if m = .save ∧ ¬ s.poolHolds l.ctx (ms.map (·.1)) then (if l.idem then .flush else .drain) else m

/-- The placement units of some blocks pre-empted, each whole. -/
def State.preemptBlocks (s : State) (named : Nat × Block → Bool) (dl : Nat) (force : Bool) : State :=
  let hit := s.blocks.filter fun e => e.2.live && !e.2.saved && decide (e.2.pre = .none) && named e
  let units := dedup (hit.map fun e => (e.2.launch, e.2.idx / (s.launch e.2.launch).unitBlocks))
  units.foldl (fun (t : State) u =>
    let ms := (t.unitMates u.1 u.2).filter fun e => !e.2.saved && decide (e.2.pre = .none)
    let m := t.unitMode u.1 ms dl force
    ms.foldl (fun (t1 : State) e => t1.beginPreempt e.1 m dl) t) s

def execPreemptRequest (target : PreemptTarget) (dl : Nat) (s : State) : Host.Outcome State Fault Refusal :=
  .next (s.preemptBlocks (fun e => match target with
    | .launch id => decide (e.2.launch = id)
    | .core c => decide (e.2.cid = c)
    | .cluster c => decide (e.2.cid / 4 = c)) dl false)

/-- A drain whose deadline has passed becomes a save. -/
def execDrainDeadline (blk : Nat) (s : State) : Host.Outcome State Fault Refusal :=
  let b := s.block blk
  .next (match b.pre with
    | .drain u =>
      if u ≠ 0 ∧ u ≤ s.clk ∧ b.live then
        let id := b.launch
        let ms := [(blk, b)]
        s.beginPreempt blk (s.unitMode id ms 0 true) 0
      else s
    | _ => s)

end Sys2Proof.Machine
end

