-- ==== Sys2Proof/Machine/Lyre.lean ====
section
/-! DEFINITION. The Harp (R381), the event ring (R383), and the Lyre of this device: events applied and what they bring here
(R385 to R389), digest reports (R390), fencing and rejoining (R391, R392, R441). -/

namespace Sys2Proof.Machine

/-! ## The Harp (R381, R383) -/

/-- An event numbered and sent to every device of the pod. -/
def State.harpPost (s : State) (rec_ : Rec8) (at_ : Nat) : State :=
  let h := s.harp
  let t := Nat.max at_ h.atime
  let ev : Rec8 := { rec_ with w0 := BitVec.ofNat 64 (h.seq + 1), w2 := BitVec.ofNat 64 t }
  { s with harp := { seq := h.seq + 1, atime := t, held := (ev :: h.held).take Config.harpHeld, lastDelivery := t }
           outbox := .event ev :: s.outbox }

/-- A post of an endpoint reaches the Harp; one of this device learns its number (R417). -/
def execPostPkt (rec_ : Rec8) (atime : Nat) (s : State) : Host.Outcome State Fault Refusal :=
  let ev : Rec8 := { rec_ with w1 := rec_.w1 &&& ~~~field 37 37 }
  let s1 := s.harpPost ev atime
  .next (if evOrigin ev = s.did then s1.postAnswered { ev with w0 := 0, w2 := 0 } s1.harp.seq s1.harp.atime else s1)

/-- The word +0x08 of an event that the Harp itself posts. -/
def harpWord (ty : Nat) : Word := BitVec.ofNat 64 (ty * 2 ^ 56 + 2 ^ 37)

/-- A TICK once no event has been delivered for 1 ms. -/
def execHarpTick (s : State) : Host.Outcome State Fault Refusal :=
  .next (if s.harp.lastDelivery + 1000000 ≤ s.atime then s.harpPost { w1 := harpWord 0x0E } s.atime else s)

/-- The LOSS of a device that the Harp no longer reaches or hears. -/
def execHarpLoss (did : Nat) (s : State) : Host.Outcome State Fault Refusal :=
  .next (s.harpPost { w1 := harpWord 6, w3 := BitVec.ofNat 64 (did % 2 ^ 18 * 2 ^ 46) } s.atime)

/-! ## Fencing and sources (R391, R392, R441) -/

def LyreMode.code : LyreMode → Nat
  | .running => 0 | .fenced => 1 | .rejoining => 2

/-- The device fenced: its tables are discarded, and it rejoins; one that holds none already stays as it is. -/
def State.fence (s : State) (reason : Nat) : State :=
  let l := s.lyre
  if l.mode ≠ .running ∧ ¬ l.replay then s
  else { s with lyre := { l with
    mode := .rejoining, reason := reason, fences := Nat.min (l.fences + 1) 0xFFFF, t := {}, points := [], replay := false
    source := none, tried := [], rejects := 0, top := Nat.max l.top l.seq.toNat
    locs := l.t.dev.map fun e => (e.1, e.2.loc) } }

/-- Devices known to run, by the reports that they have sent, but for those tried in vain. -/
def State.runners (s : State) : List Nat :=
  dedup ((s.lyre.reports.filter fun r => decide (r.1 ≠ s.did) && !s.lyre.tried.contains r.1).map (·.1))

def natDiff (a b : Nat) : Nat := (a - b) + (b - a)

/-- The nearest of them by LOC as last known, ties to lower DID (DEDUCED, log 38). -/
def State.nearest (s : State) : Option Nat :=
  let loc (d : Nat) : Nat := look 0 s.lyre.locs (d % 4096)
  (sortBy (fun d => natDiff (loc d) (loc s.did)) (sortBy id s.runners)).head?

/-- The all-zero state of pod formation taken up, to which every event is then applied. -/
def State.startOver (s : State) : State :=
  { s with lyre := { s.lyre with t := {}, seq := 0, dig := 0, points := [], replay := true, source := none } }

/-- A source chosen and asked. With none left, the device stays fenced, unless every event can still be had. -/
def State.askSource (s : State) : State :=
  match s.nearest with
  | some d => { s with lyre := { s.lyre with mode := .rejoining, source := some d, rejects := 0, snapGot := 0 }, outbox := .snapreq d 0 :: s.outbox }
  | none =>
    if s.lyre.tried = [] then s
    else if s.harp.seq ≤ Config.harpHeld ∧ s.lyre.reports.all fun r => decide (r.1 = s.did) then s.startOver
    else { s with lyre := { s.lyre with mode := .fenced, reason := 5, source := none } }

/-- Whether the device waits for a source. -/
def State.sourceless (s : State) : Bool := decide (s.lyre.mode = .rejoining) && !s.lyre.replay && s.lyre.source.isNone

/-! ## The event ring (R383) -/

/-- Whether the Lyre applies events. -/
def State.applying (s : State) : Bool :=
  s.isReady .lyre && (decide (s.lyre.mode = .running) || (decide (s.lyre.mode = .rejoining) && s.lyre.replay))

def State.ringAt (s : State) (n : Nat) : Rec8 := look {} s.lyre.ring (n % Config.ringSlots)
def State.stands (s : State) (n : Nat) : Bool := decide (0 < n) && decide (evSeq (s.ringAt n) = n)

/-- An event received: discarded, stored, or more than the ring holds ahead. Where no device runs, the first event of a
forming pod begins the tables. -/
def State.takeEvent (s : State) (ev : Rec8) : State :=
  let n := evSeq ev
  let q := s.lyre.seq.toNat
  if n ≤ q ∨ s.stands n then s
  else if q + Config.ringSlots < n then s.fence 2
  else
    let s1 := { s with lyre := { s.lyre with ring := put {} s.lyre.ring (n % Config.ringSlots) ev } }
    if s1.sourceless && s1.runners.isEmpty && s1.stands 1 then s1.startOver else s1

def execEventPkt (rec_ : Rec8) (s : State) : Host.Outcome State Fault Refusal :=
  .next (if s.isReady .lyre then s.takeEvent rec_ else s)

/-- A device's request for the events `seqs.1` to `seqs.2`: the Harp sends it those that it still holds; a request for older
events fences the device. -/
def execResendPkt (src : Nat) (seqs : Nat × Nat) (s : State) : Host.Outcome State Fault Refusal :=
  let h := s.harp
  let evs := (h.held.filter fun e => decide (seqs.1 ≤ evSeq e) && decide (evSeq e ≤ seqs.2)).map (Packet.eventTo src)
  let s1 := { s with outbox := evs ++ s.outbox }
  .next (if seqs.1 + h.held.length ≤ h.seq ∧ src = s.did then s1.fence 3 else s1)

/-- The lowest event of the ring above the last one applied. -/
def State.nextStanding (s : State) : Option Nat :=
  let ns := s.lyre.ring.filterMap fun e => if s.lyre.seq.toNat < evSeq e.2 then some (evSeq e.2) else none
  (sortBy id ns).head?

/-- A later event stands while the next has been missing for 2 µs: the missing ones are asked for again. A device that can
find no source asks for every event from the first on. -/
def execMissingEventTimeout (s : State) : Host.Outcome State Fault Refusal :=
  let s1 := if s.sourceless && s.runners.isEmpty && decide (s.harp.seq ≤ Config.harpHeld) then s.startOver else s
  .next (match s1.nextStanding with
    | some n => if s1.applying ∧ s1.lyre.seq.toNat + 1 < n then
        { s1 with outbox := .resend (s1.lyre.seq.toNat + 1) (n - 1) :: s1.outbox }
      else s1
    | none => s1)

/-! ## What applied events bring to this device (R387, R388) -/

/-- The launches that enact ranks of a gang row here. -/
def State.rankLaunches (s : State) (row : Nat) : List Nat :=
  (s.launches.filter fun e => (match e.2.gangRow with | some (r, _) => decide (r = row) | none => false) && e.2.verdict.isNone).map (·.1)

/-- A rank accepted by the distributor; one of a blocked gang is not placed. -/
def State.acceptRank (s : State) (row rank : Nat) (prime : Word) : State :=
  let g := s.lyre.t.gangAt row
  let id := s.nextId
  let s1 := s.acceptLaunch g.record 0 g.ctx 16 (some (row, rank)) prime
  if g.state = .blocked then s1.putLaunch id { s1.launch id with blocked := true } else s1

/-- BLOCK: the rank pre-empted with save and DL 0, and placed no more until UNBLOCK. -/
def State.blockRank (s : State) (row : Nat) : State :=
  let ids := s.rankLaunches row
  let s1 := ids.foldl (fun (t : State) id => t.putLaunch id { t.launch id with blocked := true }) s
  s1.preemptBlocks (fun e => ids.contains e.2.launch) 0 true

def State.unblockRank (s : State) (row : Nat) : State :=
  (s.rankLaunches row).foldl (fun (t : State) id => t.putLaunch id { t.launch id with blocked := false }) s

/-- A launch ended early: its warps halted, its saved blocks dropped with their areas, nothing of it placed any more. -/
def State.endEarly (s : State) (id : Nat) : State :=
  let ks := (s.warps.filter fun e => decide (e.1 < 2 ^ 20) && decide (e.2.launch = id) && (decide (e.2.status = .run) || decide (e.2.status = .stopped))).map
    (·.1)
  let s1 := s.putLaunch id { s.launch id with ended := true, halted := true }
  let s2 := ks.foldl (fun (t : State) k => t.asWarp k fun u => u.halt) s1
  let saved := s2.blocks.filter fun e => decide (e.2.launch = id) && e.2.saved
  let s3 := saved.foldl (fun (t : State) e =>
    let c := t.ctx (t.launch id).ctx
    let t1 := match e.2.area with
      | some a => t.putCtx (t.launch id).ctx { c with areas := c.areas.filter fun x => decide (x ≠ a) }
      | none => t
    { t1 with blocks := put {} t1.blocks e.1 {} }) s2
  let l := s3.launch id
  if l.used = [] then s3.putLaunch id { l with verdict := some 9 } else s3

/-- Sectors of a context's memory from a VA that is a multiple of 8. -/
def State.readWords (s : State) (ctx : Nat) (va : Word) (n : Nat) : DevRead :=
  let off := va.toNat % 16
  match s.devRead ctx (va - BitVec.ofNat 64 off) (off + 8 * n) with
  | .ok s1 bs => .ok s1 ((bs.drop off).take (8 * n))
  | r => r

/-- A lost rank taken over: the PTEs of its takeover table written, then its launch accepted with the dealer primed. A table
that cannot be read remaps nothing. False while it cannot be read yet. -/
def State.takeOver (s : State) (row rank : Nat) : State × Bool :=
  let g := s.lyre.t.gangAt row
  if g.state = .free then (s, true)
  else if g.ttab = 0 then (s.acceptRank row rank 0, true)
  else match s.readWords g.ctx g.ttab 1 with
    | .wait s1 => (s1, false)
    | .bad s1 => (s1.acceptRank row rank 0, true)
    | .ok s1 b0 =>
      let n := (getW b0 0).toNat
      match s1.readWords g.ctx (g.ttab + 8) (2 * n) with
      | .wait s2 => (s2, false)
      | .bad s2 => (s2.acceptRank row rank 0, true)
      | .ok s2 bs =>
        let s3 := (List.range n).foldl (fun (t : State) i =>
          t.writePte (bits (getW bs (16 * i)).toNat 34 0) (getW bs (16 * i + 8))) s2
        (s3.acceptRank row rank (g.ttab + 8 + 16 * BitVec.ofNat 64 n), true)

/-- Takeovers and completion words that wait, in order, as far as they go. -/
def State.lyreTodos (s : State) : State :=
  let s1 := s.lyre.takeovers.foldl (fun (t : State) x =>
    match t.takeOver x.1 x.2 with
    | (t1, true) => { t1 with lyre := { t1.lyre with takeovers := t1.lyre.takeovers.filter fun y => decide (y ≠ x) } }
    | (t1, false) => t1) s
  s1.lyre.words.foldl (fun (t : State) x =>
    match t.writeWord x.1 x.2.1 x.2.2 with
    | (t1, true) => { t1 with lyre := { t1.lyre with words := t1.lyre.words.filter fun y => decide (y ≠ x) } }
    | (t1, false) => t1) s1

/-- One effect of an applied event. While the device replays, ranks are left to the reconciliation. -/
def State.enact (s : State) (time : Nat) (x : Fx) : State :=
  let live := decide (s.lyre.mode = .running)
  match x with
  | .word dev ctx va st failed =>
    if s.didOf dev = s.did then { s with lyre := { s.lyre with words := s.lyre.words ++ [(ctx, va, doneWord st failed)] } } else s
  | .rank dev row rank takeover =>
    if s.didOf dev ≠ s.did ∨ ¬ live then s
    else if takeover then { s with lyre := { s.lyre with takeovers := s.lyre.takeovers ++ [(row, rank)] } }
    else s.acceptRank row rank 0
  | .block row => if live then s.blockRank row else s
  | .unblock row => if live then s.unblockRank row else s
  | .halt row => if live then (s.rankLaunches row).foldl (fun (t : State) id => t.endEarly id) s else s
  | .grant lid => s.leaseGranted lid
  | .refuse row => s.leaseRefused row
  | .close lid => s.leaseClosing lid
  | .free lid row revoked => s.leaseFreed lid row revoked time

/-! ## Comparison points (R390) -/

/-- The digests reported for a point, this device's own included. -/
def State.votes (s : State) (p : Snapshot) : List Word :=
  ((s.lyre.reports.filter fun r => decide (r.2.1 = p.s0) && decide (r.1 ≠ s.did)).map fun r => r.2.2) ++ [p.dig]

def LyreTables.members (t : LyreTables) : Nat := (t.dev.filter fun e => decide (e.2.state = .live) || decide (e.2.state = .spare)).length

/-- The value that more devices report than half the members. -/
def majority (n : Nat) (vs : List Word) : Option Word := vs.find? fun v => decide (n < 2 * (vs.filter fun w => w == v).length)

/-- Whether no value can reach a majority any more. -/
def hung (n : Nat) (vs : List Word) : Bool := vs.all fun v => decide (2 * ((vs.filter fun w => w == v).length + (n - vs.length)) ≤ n)

/-- The points that can be judged: one where the majority differs from this device's digest fences it. -/
def State.judge (s : State) : State :=
  s.lyre.points.foldl (fun (t : State) p =>
    if p.2 then t
    else
      let vs := t.votes p.1
      let n := LyreTables.members p.1.tables
      let mark (u : State) : State := { u with lyre := { u.lyre with points := u.lyre.points.map fun x =>
        if x.1.s0 = p.1.s0 then (x.1, true) else x } }
      match majority n vs with
      | some v => if v = p.1.dig then mark t
        else t.fence 1
      | none => if hung n vs then
          let u := mark t
          { u with lyre := { u.lyre with nomaj := Nat.min (u.lyre.nomaj + 1) 0xFFFF } }
        else t) s

/-- The point after an event whose SEQ is a multiple of 16: kept, reported while the device runs, judged. -/
def State.comparePoint (s : State) : State :=
  let q := s.lyre.seq.toNat
  if q % 16 ≠ 0 then s
  else
    let p : Snapshot := { s0 := q, dig := s.lyre.dig, tables := s.lyre.t }
    let s1 := { s with lyre := { s.lyre with points := ((p, false) :: s.lyre.points).take 16 } }
    let s2 := if s1.lyre.mode = .running then { s1 with outbox := .report q s1.lyre.dig :: s1.outbox } else s1
    s2.judge

/-- A report kept for the last 16 points. -/
def State.takeReport (s : State) (src seq : Nat) (dig : Word) : State :=
  let old := s.lyre.reports.filter fun r => !(decide (r.1 = src) && decide (r.2.1 = seq))
  let new := old ++ [(src, seq, dig)]
  let top := maxOf (fun r => r.2.1) new
  let s1 := ({ s with lyre := { s.lyre with reports := new.filter fun r => decide (top < r.2.1 + 256) } }).judge
  if s1.sourceless then s1.askSource else s1

def execReportPkt (src seq : Nat) (dig : Word) (s : State) : Host.Outcome State Fault Refusal :=
  .next (if s.isReady .lyre ∧ seq % 16 = 0 then s.takeReport src seq dig else s)

/-! ## Resuming (R392) -/

/-- Whether a FINISH of a rank is held, to be posted when the device runs again. -/
def State.finishHeld (s : State) (gang rank : Nat) : Bool :=
  s.lyre.held.any fun e => decide (evType e = 2) && decide (bits e.w3.toNat 63 32 = gang) && decide (bits e.w3.toNat 31 20 = rank)

/-- The ranks that the tables place on this device. -/
def State.myRanks (s : State) : List (Nat × Nat) :=
  (s.lyre.t.devRow (s.did % 4096)).slots.filterMap fun x => x.map fun y => (y.grow, y.rank)

/-- Ranks and leases brought into line with the tables; a lease that has ended meanwhile has been revoked, unless this device has
posted its DONE (DEDUCED, log 68). -/
def State.reconcile (s : State) : State :=
  let mine := s.myRanks
  let stale := (s.launches.filter fun e => e.2.verdict.isNone && (match e.2.gangRow with | some r => !mine.contains r | none => false)).map (·.1)
  let s1 := stale.foldl (fun (t : State) id => t.endEarly id) s
  let have_ (t : State) (r : Nat × Nat) : Bool := t.launches.any fun e => decide (e.2.gangRow = some r)
  let s2 := mine.foldl (fun (t : State) r =>
    let g := t.lyre.t.gangAt r.1
    if have_ t r || t.finishHeld g.gang r.2 then
      (if g.state = .blocked then t.blockRank r.1 else t.unblockRank r.1)
    else t.acceptRank r.1 r.2 0) s1
  let s3 := s2.leng.moves.foldl (fun (t : State) e =>
    let r := t.leaseRow e.1
    if r.state ≠ .free ∧ r.gseq = e.2.row.gseq then
      (if r.state ≠ .granted then t.putMove e.1 { e.2 with closing := true } else t)
    else t.leaseFreed e.1 e.2.row (!e.2.posted) t.atime) s2
  (s3.lyre.t.lease.filter fun e => decide (e.2.state ≠ .free) && decide (e.2.borrower = s.did)).foldl (fun (t : State) e =>
    if (t.move e.1).row.state = .free then t.putMove e.1 { row := e.2, closing := decide (e.2.state ≠ .granted) } else t) s3

/-- Nothing known of the pod is left to apply. -/
def State.caughtUp (s : State) : Bool :=
  s.nextStanding.isNone && s.lyre.reports.all fun r => decide (r.2.1 ≤ s.lyre.seq.toNat)

/-- A replaying device that has caught up runs again: reconciled, its held posts sent. -/
def State.tryResume (s : State) : State :=
  let l := s.lyre
  if l.mode = .rejoining ∧ l.replay ∧ s.caughtUp then
    let s1 := ({ s with lyre := { l with mode := .running, reason := 0, replay := false, source := none, tried := [], rejects := 0 } }).reconcile
    let held := s1.lyre.held
    ({ s1 with lyre := { s1.lyre with held := [] }, outbox := (held.map Packet.post).reverse ++ s1.outbox }).runEvposts
  else s

/-! ## Events applied (R383, R385, R389) -/

/-- The Zither's list of live devices brought up to date (R380). -/
def State.newLive (s : State) : State :=
  let old := s.zith.live
  let live := LyreTables.live s.lyre.t
  if live = old then s else ({ s with zith := { s.zith with live := live } }).rehome old

/-- A word of this device's memory as its home holds it; 0 where the IA names no memory of this device. -/
def State.homeWord (s : State) (ia : Nat) : Word :=
  match s.at {} ia with
  | .loc p => s.linkWord p.addr
  | .pin cid off _ => BitVec.ofNat 64 (ofBytes (lookRun unlisted s.spad (spadKey cid off) 8))
  | _ => 0

/-- Whether a fallback entry of a page keeps R195 and R367: APER 0 or 3, MIG not reserved, an installed frame under APER 0. -/
def State.fallbackOk (s : State) (page : Nat) (w : Word) : Bool :=
  let p := w.toNat
  decide (bits p 35 34 ≠ 3) && (decide (bits p 62 61 = 3) ||
    (decide (bits p 62 61 = 0) && decide (bits p 33 0 < (s.link (linkOf page)).frames)))

/-- Whether the fallback entries of a GRANT keep R195: read where this device is the borrower, else a free value (R367; DEDUCED,
log 40). -/
def State.grantKept (s : State) (e : Rec8) : Bool :=
  let q := e.w3.toNat
  if bits q 63 46 = s.did then (List.range (bits q 39 20)).all fun k => s.fallbackOk (e.w7.toNat + k) (s.homeWord (e.w6.toNat + 8 * k))
  else Config.fallbackKept (evSeq e) (bits q 63 46) (bits q 39 20)

/-- The event after the last one applied, which stands in its slot: applied, folded into the digest, its effects carried
out here. -/
def State.applyEvent (s : State) (e : Rec8) : State :=
  let a := s.lyre.t.apply e (s.grantKept e)
  let n := evSeq e
  let fresh := decide (s.lyre.top < n)
  let s1 := { s.count 0x19 with lyre := { s.lyre with
    t := a.t, seq := BitVec.ofNat 64 n, dig := foldDigest s.lyre.dig e (movedWord s.didOf a.fx)
    top := Nat.max s.lyre.top n } }
  let s2 := if fresh then a.fx.foldl (fun (t : State) x => t.enact (evTime e) x) s1 else s1
  (((s2.newLive).comparePoint).runEvposts).tryResume

/-- The same, if that event is of the sort named. -/
def State.applyIf (s : State) (ty : Nat → Bool) : State :=
  let n := s.lyre.seq.toNat + 1
  if s.applying && s.stands n && ty (evType (s.ringAt n)) then s.applyEvent (s.ringAt n) else s

def execApplySubmit (s : State) : Host.Outcome State Fault Refusal := .next (s.applyIf fun t => decide (t = 0x01))
def execApplyFinish (s : State) : Host.Outcome State Fault Refusal := .next (s.applyIf fun t => decide (t = 0x02))
def execApplyBlock (s : State) : Host.Outcome State Fault Refusal := .next (s.applyIf fun t => decide (t = 0x03))
def execApplyUnblock (s : State) : Host.Outcome State Fault Refusal := .next (s.applyIf fun t => decide (t = 0x04))
def execApplyFault (s : State) : Host.Outcome State Fault Refusal := .next (s.applyIf fun t => decide (t = 0x05))
def execApplyLoss (s : State) : Host.Outcome State Fault Refusal := .next (s.applyIf fun t => decide (t = 0x06))
def execApplyJoin (s : State) : Host.Outcome State Fault Refusal := .next (s.applyIf fun t => decide (t = 0x07))
def execApplyReserve (s : State) : Host.Outcome State Fault Refusal := .next (s.applyIf fun t => decide (t = 0x08))
def execApplyGrant (s : State) : Host.Outcome State Fault Refusal := .next (s.applyIf fun t => decide (t = 0x09))
def execApplyReclaim (s : State) : Host.Outcome State Fault Refusal := .next (s.applyIf fun t => decide (t = 0x0A))
def execApplyReturn (s : State) : Host.Outcome State Fault Refusal := .next (s.applyIf fun t => decide (t = 0x0B))
def execApplyDone (s : State) : Host.Outcome State Fault Refusal := .next (s.applyIf fun t => decide (t = 0x0C))
def execApplyRevoke (s : State) : Host.Outcome State Fault Refusal := .next (s.applyIf fun t => decide (t = 0x0D))
def execApplyTick (s : State) : Host.Outcome State Fault Refusal := .next (s.applyIf fun t => decide (t = 0x0E))
def execApplyUser (s : State) : Host.Outcome State Fault Refusal := .next (s.applyIf fun t => decide (t = 0x0F))

/-- An event of a type that the table reserves: applied as a no-op and folded. -/
def execApplyReservedEvent (s : State) : Host.Outcome State Fault Refusal :=
  .next (s.applyIf fun t => decide (t = 0) || decide (0x10 ≤ t))

/-! ## Snapshots (R392) -/

/-- The latest point at which this device matches the majority, or a given one. -/
def State.pointFor (s : State) (s0 : Nat) : Option Snapshot :=
  (s.lyre.points.find? fun p => if s0 = 0 then decide (majority (LyreTables.members p.1.tables) (s.votes p.1) = some p.1.dig)
    else decide (p.1.s0 = s0)).map (·.1)

/-- SNAP packets of a snapshot: the four tables have 6,208 rows of 64 bytes, and a packet carries four flits (R356, R384). -/
def snapCount : Nat := (4096 + 1024 + 64 + 1024) * 64 / 128
def snapPackets (dev : Nat) (p : Snapshot) : List Packet :=
  (List.range snapCount).map fun i => .snap dev p (128 * i) (decide (i + 1 = snapCount))

/-- A request for a snapshot: the tables of a point, then the events after it from the ring. A device that does not run, or
cannot supply the next event, sends nothing. -/
def execSnapreq (src s0 : Nat) (s : State) : Host.Outcome State Fault Refusal :=
  .next (match (if s.isReady .lyre ∧ s.lyre.mode = .running then s.pointFor s0 else none) with
    | none => s
    | some p =>
      let n := s.lyre.seq.toNat - p.s0
      let evs := (List.range n).map fun i => s.ringAt (p.s0 + 1 + i)
      if (List.range n).all fun i => s.stands (p.s0 + 1 + i) then
        { s with outbox := (evs.map (Packet.eventTo src)).reverse ++ (snapPackets src p).reverse ++ s.outbox }
      else s)

/-- A snapshot from the source asked: accepted if its digest is the majority that this device holds for its point; after
three that are not, the next source is asked. -/
def State.takeSnap (s : State) (src : Nat) (p : Snapshot) : State :=
  if s.lyre.mode ≠ .rejoining ∨ s.lyre.source ≠ some src then s
  else
    let vs := (s.lyre.reports.filter fun r => decide (r.2.1 = p.s0) && decide (r.1 ≠ s.did)).map fun r => r.2.2
    if majority (LyreTables.members p.tables) vs = some p.dig then
      let s1 := { s with lyre := { s.lyre with t := p.tables, seq := BitVec.ofNat 64 p.s0, dig := p.dig, replay := true, source := none
                                               points := [(p, true)], snapGot := 0 } }
      (s1.newLive).tryResume
    else if s.lyre.rejects + 1 < 3 then
      { s with lyre := { s.lyre with rejects := s.lyre.rejects + 1, snapGot := 0 }, outbox := .snapreq src 0 :: s.outbox }
    else ({ s with lyre := { s.lyre with tried := s.lyre.tried ++ [src], source := none } }).askSource

/-- One packet of a snapshot, in whatever order they come: with the last to arrive the snapshot is whole. -/
def State.snapPart (s : State) (src : Nat) (p : Snapshot) : State :=
  if s.lyre.mode ≠ .rejoining ∨ s.lyre.source ≠ some src then s
  else if s.lyre.snapGot + 1 < snapCount then { s with lyre := { s.lyre with snapGot := s.lyre.snapGot + 1 } }
  else s.takeSnap src p

def execSnapPkt (src : Nat) (snap : SnapPart) (s : State) : Host.Outcome State Fault Refusal :=
  .next (if snap.off % 128 = 0 ∧ snap.off / 128 < snapCount ∧ snap.last = decide (snap.off / 128 + 1 = snapCount) then
      s.snapPart src snap.whole
    else s)

/-! ## Readiness (R441) -/

/-- Clusters ready, and the GiB installed on ready links: frames of 2 MiB. -/
def State.readyClusters (s : State) : Nat := ((List.range Config.clusters).filter fun c => s.isReady (.clus c)).length
def State.readyGib (s : State) : Nat :=
  sumOf (fun k => if s.linkReady k then (s.link k).frames / 512 else 0) (List.range Config.links)

/-- The Lyre becomes ready: it rejoins with REASON JOIN, and the device's own JOIN is posted at once. -/
def State.lyreUp (s : State) : State :=
  let cfg := s.mgmt.lyrcfg.toNat
  let ev := s.event 7 (s.did * 2 ^ 46 + 4 * s.readyClusters % 256 * 2 ^ 38 + s.readyGib % 2 ^ 13 * 2 ^ 25 + bits cfg 15 0 * 2 ^ 9 +
    Bool.n (bit cfg 16) * 2 ^ 8) 0 0 0 0
  { s with lyre := { s.lyre with mode := .rejoining, reason := 4, t := {}, points := [], replay := false, source := none, tried := []
                                 rejects := 0, locs := put 0 s.lyre.locs (s.did % 4096) (bits cfg 15 0) }
           mgmt := { s.mgmt with ready := if s.mgmt.ready.contains .lyre then s.mgmt.ready else .lyre :: s.mgmt.ready }
           outbox := .post ev :: s.outbox }

def execLyreReady (s : State) : Host.Outcome State Fault Refusal := .next s.lyreUp

end Sys2Proof.Machine
end

