-- ==== Sys2Proof/Machine/Fabric.lean ====
section
/-! DEFINITION. The fabric below the packets: planes and their ports (R357, R358), flows, windows and acknowledgements (R359,
R360), the keys and the replay of the port links (R361, R362), and packets of reserved kinds (R354). -/

namespace Sys2Proof.Machine

/-! ## The flows of a packet -/

/-- The endpoint number under which flows to the pod's Harp are kept, above every endpoint. -/
def harpEnd : Nat := 2 ^ 18

/-- A flow's number: 16 × the endpoint + the plane. -/
def flowNo (dev plane : Nat) : Nat := 16 * dev + plane

/-- The flows on which a packet travels, with the line it concerns (plus 1; 0: none). A digest report goes to every other
live or spare device; acknowledgements and control groups are no packets of a flow; what the Harp sends is not sent by the
device. -/
def State.flowsOf (s : State) (p : Packet) : List (Nat × Nat) :=
  let line (dev ia : Nat) : List (Nat × Nat) := [(flowNo dev (bits ia 10 7), ia / 128 + 1)]
  match p with
  | .readShared dev ia _ => line dev ia
  | .readExcl dev ia _ => line dev ia
  | .writeBack dev ia _ _ _ => line dev ia
  | .invalidate dev ia => line dev ia
  | .recall dev ia _ => line dev ia
  | .atomic dev pkt => line dev (match pkt.lanes with | a :: _ => a.addr | [] => 0)
  | .response dev k _ => [(flowNo dev (k % 16), k + 1)]
  | .post _ => [(flowNo harpEnd 0, 0)]
  | .resend _ _ => [(flowNo harpEnd 0, 0)]
  | .report _ _ => ((s.lyre.t.dev.filter fun e => (decide (e.2.state = .live) || decide (e.2.state = .spare)) &&
      decide (s.did / 4096 * 4096 + e.1 ≠ s.did)).map fun e => (flowNo (s.did / 4096 * 4096 + e.1) 1, 0))
  | .snapreq dev _ => [(flowNo dev 2, 0)]
  | .snap dev _ _ _ => [(flowNo dev 2, 0)]
  | .interest dev n _ _ => [(flowNo dev (tileHash n % 16), 0)]
  | .tile dev n _ _ _ _ => [(flowNo dev (tileHash n % 16), 0)]
  | .leasereq dev _ _ _ _ _ _ => [(flowNo dev 3, 0)]
  | .leasenak dev _ => [(flowNo dev 3, 0)]
  | .notify dev ia _ => line dev ia
  | .event _ => []
  | .eventTo dev ev => [(flowNo dev (ev.w0.toNat % 16), 0)]
  | .sack _ _ _ _ _ => []
  | .keyCleared _ => []
  | .nak _ _ => []

/-! ## Port links (R361, R362) -/

def State.portLink (s : State) (q : Nat) : PortLink := look {} s.keys q
def State.putPort (s : State) (q : Nat) (k : PortLink) : State := { s with keys := put {} s.keys q k }

/-- Whether a port can send a new group: its TX slot holds a key and its group count would not wrap. -/
def PortLink.canSend (k : PortLink) : Bool :=
  (if k.tx then k.v1 else k.v0) && decide (look 0 k.sentN (Bool.n k.tx) + 1 < 2 ^ 64)

/-- A new group under the TX slot, kept in the replay buffer of 512 groups. -/
def PortLink.send (k : PortLink) (flow pseq : Nat) : PortLink :=
  let buf := k.buf ++ [{ seq := k.txNext, key := k.tx, count := look 0 k.sentN (Bool.n k.tx), flow := flow, pseq := pseq : Group }]
  { k with txNext := (k.txNext + 1) % 2 ^ 16, sentN := put 0 k.sentN (Bool.n k.tx) (look 0 k.sentN (Bool.n k.tx) + 1), buf := buf.drop (buf.length - 512) }

/-- The port that carries a logical plane. -/
def State.portOf (s : State) (plane : Nat) : Nat := bits s.prt.toNat (4 * plane + 3) (4 * plane)
def State.portLive (s : State) (q : Nat) : Bool := s.plive.getLsbD q

/-- A group on a port for a packet of a flow; none where the port's TX slot can send none (R361). -/
def State.sendGroup (s : State) (q f pseq : Nat) : State :=
  if (s.portLink q).canSend then s.putPort q ((s.portLink q).send f pseq) else s

/-- The number under which groups go that carry no packet of a flow: acknowledgements and control groups. -/
def ctlFlow : Nat := 16 * (harpEnd + 1)

/-- A transmission of a packet of a flow: a group on its plane's port. -/
def State.transmit (s : State) (f pseq : Nat) : State := s.sendGroup (s.portOf (f % 16)) f pseq

/-! ## Sending (R359) -/

def State.flow (s : State) (f : Nat) : Flow := look {} s.flows f
def State.putFlow (s : State) (f : Nat) (x : Flow) : State := { s with flows := put {} s.flows f { x with peer := f / 16, plane := f % 16 } }

/-- Whether a plane can carry a new packet now. -/
def State.planeUp (s : State) (plane : Nat) : Bool := s.portLive (s.portOf plane) && (s.portLink (s.portOf plane)).canSend

/-- Whether a packet for a line may be sent: the window is open, and no earlier packet of the flow for the line is
unacknowledged or held. -/
def Flow.open_ (x : Flow) (held : List Nat) (line : Nat) : Bool :=
  decide (x.unack.length < 256) && (decide (line = 0) || !(x.unack.any fun e => decide (e.2.2 = line)) && !held.contains line)

/-- The held packets of a flow sent as far as they may be, in order, each under the flow's next number. -/
def State.sendHeld (s : State) (f : Nat) : List (Nat × Nat) → List (Nat × Nat) → State
  | [], held => s.putFlow f { s.flow f with queued := held }
  | e :: rest, held =>
    let x := s.flow f
    if s.planeUp (f % 16) && x.open_ (held.map (·.1)) e.1 then
      ((s.transmit f x.next).putFlow f { x with next := (x.next + 1) % 2 ^ 32, unack := x.unack ++ [(x.next, 1, e.1)]
                                                nums := (e.2, x.next) :: x.nums }).sendHeld f rest held
    else s.sendHeld f rest (held ++ [e])

def State.pump (s : State) (f : Nat) : State := s.sendHeld f (s.flow f).queued []

/-- The packets that have been handed to the Bridge die since the last step, put to their flows in order. -/
def State.sendPackets (s : State) : State :=
  let new := (s.outbox.take (s.outbox.length - s.numbered)).reverse
  if new = [] then s
  else
    let s1 := { s with numbered := s.outbox.length }
    new.zipIdx.foldl (fun (t : State) p => (s.flowsOf p.1).foldl (fun (u : State) e =>
      (u.putFlow e.1 { u.flow e.1 with queued := (u.flow e.1).queued ++ [(e.2, s.numbered + p.2)] }).pump e.1) t) s1

/-- Every flow of a plane tried again. -/
def State.pumpPlane (s : State) (plane : Nat) : State :=
  ((s.flows.filter fun e => decide (e.1 % 16 = plane)).map (·.1)).foldl (fun (t : State) f => t.pump f) s

/-! ## Ports (R358) -/

/-- The first live port after `q` in cyclic order. -/
def State.portAfter (s : State) (q : Nat) : Option Nat := ((List.range 15).map fun i => (q + 1 + i) % 16).find? s.portLive

/-- Every unacknowledged packet of a plane sent again, in sequence order, its count begun anew on the new port (DEDUCED,
log 35); then what was held. -/
def State.resendPlane (s : State) (plane : Nat) : State :=
  let fs := (s.flows.filter fun e => decide (e.1 % 16 = plane)).map (·.1)
  let s1 := fs.foldl (fun (t : State) f =>
    let x := t.flow f
    let t1 := x.unack.foldl (fun (u : State) e => u.transmit f e.1) t
    t1.putFlow f { x with unack := x.unack.map fun e => (e.1, 1, e.2.2) }) s
  s1.pumpPlane plane

/-- A plane moved to a port. -/
def State.movePlane (s : State) (plane q : Nat) : State :=
  let m : Word := (15 : Word) <<< (4 * plane)
  ({ s with prt := (s.prt &&& ~~~m) ||| (BitVec.ofNat 64 q <<< (4 * plane)) }).resendPlane plane

/-- The planes whose port is not live moved to the first live port after it. -/
def State.movePlanes (s : State) : State :=
  (List.range 16).foldl (fun (t : State) p =>
    if t.portLive (t.portOf p) then t else match t.portAfter (t.portOf p) with | some q => t.movePlane p q | none => t) s

/-- A port that fails: its readiness and LIVE clear, its planes move. -/
def State.portFail (s : State) (q : Nat) : State :=
  let live : BitVec 16 := s.plive &&& ~~~((1 : BitVec 16) <<< q)
  ({ s with plive := live, mgmt := { s.mgmt with ready := s.mgmt.ready.filter fun f => decide (f ≠ Function.port q) } }).movePlanes

/-- A port that becomes ready: LIVE is set, and the plane of its own number comes back to it; planes left on a dead port
while no port was live move too, but not before the start has been judged (DEDUCED, log 35). -/
def State.portUp (s : State) (q : Nat) : State :=
  let s1 := { s with plive := s.plive ||| (1 <<< q) }
  let s2 := if s1.portOf q = q then s1.pumpPlane q else s1.movePlane q q
  if s2.mgmt.starting then s2 else s2.movePlanes

def execPortFailure (port : Nat) (s : State) : Host.Outcome State Fault Refusal := .next (if port < 16 then s.portFail port else s)

def execPortReady (port : Nat) (s : State) : Host.Outcome State Fault Refusal :=
  .next (if port < 16 then
    ({ s with mgmt := { s.mgmt with ready := if s.mgmt.ready.contains (.port port) then s.mgmt.ready else .port port :: s.mgmt.ready } }).portUp
      port
  else s)

/-! ## Acknowledgement and retransmission (R360) -/

/-- One more transmission of an unacknowledged packet, once its port can send; the sixteenth without acknowledgement declares the
port failed. -/
def State.sendAgain (s : State) (f seq : Nat) : State :=
  let x := s.flow f
  match x.unack.find? fun e => decide (e.1 = seq) with
  | none => s
  | some e =>
    if 16 ≤ e.2.1 then s.portFail (s.portOf (f % 16))
    else if !(s.portLink (s.portOf (f % 16))).canSend then s
    else (s.transmit f seq).putFlow f { x with unack := x.unack.map fun u => if u.1 = seq then (u.1, u.2.1 + 1, u.2.2) else u }

/-- Whether one sequence number precedes another. -/
def seqBefore (a b : Nat) : Bool := let d := (b + 2 ^ 32 - a) % 2 ^ 32; decide (0 < d) && decide (d < 2 ^ 31)

/-- A SACK from the flow's receiver: what it covers is acknowledged, a packet past which it covers three later ones, whether or not
they were acknowledged before, is sent again, and held packets follow. -/
def State.sackIn (s : State) (f base cum : Nat) (map : Word) : State :=
  let x := s.flow f
  let has (n : Nat) : Bool := seqBefore n cum || (decide ((n + 2 ^ 32 - base) % 2 ^ 32 < 64) && map.getLsbD ((n + 2 ^ 32 - base) % 2 ^ 32))
  let covers (e : Nat) : Nat := ((List.range 256).filter fun i =>
    let n := (e + 1 + i) % 2 ^ 32
    seqBefore n x.next && has n).length
  let left := x.unack.filter fun e => !has e.1
  let late := left.filter fun e => decide (3 ≤ covers e.1)
  ((late.foldl (fun (t : State) e => t.sendAgain f e.1) (s.putFlow f { x with unack := left }))).pump f

def execSackPkt (flow base cum : Nat) (map : Word) (s : State) : Host.Outcome State Fault Refusal := .next (s.sackIn flow base cum map)

/-- The SACK that this device returns for a flow it receives, on the plane that it acknowledges: the bitmap of the 64 numbers from
the multiple of 64 at or below CUM. It is a group of its own. -/
def State.sackOut (s : State) (f : Nat) : State :=
  let x := s.flow f
  let base := x.cum / 64 * 64
  let has (n : Nat) : Bool := seqBefore n x.cum || x.got.contains n
  let map : Word := (List.range 64).foldl (fun (m : Word) i => if has (base + i) then m ||| (1 <<< i) else m) 0
  { (s.sendGroup (s.portOf (f % 16)) ctlFlow 0).putFlow f { x with since := 0 } with
    outbox := .sack (f / 16) (f % 16) base x.cum map :: s.outbox }

def execSackDue (flow : Nat) (s : State) : Host.Outcome State Fault Refusal := .next (s.sackOut flow)

def execRetransmitTimeout (flow seq : Nat) (s : State) : Host.Outcome State Fault Refusal := .next (s.sendAgain flow seq)

/-- The lanes of an atomic request whose peer cannot be reached. -/
def State.failReq (s : State) (r : PeerReq) (c : MemCause) : State :=
  let s1 := s.dropReq r.id
  if r.op ≠ 0 then s1.atomicAnswer r (.failed c)
  else { s1 with peerFail := put none s1.peerFail (failKey r.line r.excl) (some c) }

/-- The source of a rejoin that cannot be reached: the next one is asked (R392). -/
def State.sourceLost (s : State) (dev : Nat) : State :=
  if s.lyre.mode = .rejoining ∧ ¬ s.lyre.replay ∧ s.lyre.source = some dev then
    ({ s with lyre := { s.lyre with tried := s.lyre.tried ++ [dev], source := none } }).askSource
  else s

/-- The lease requests to a lender that cannot be reached end refused. -/
def State.lenderLost (s : State) (dev : Nat) : State :=
  s.cmds.foldl (fun (t : State) c => match c.kind with
    | .leasereq _ l _ _ _ _ => if l = dev then t.answerLease c 0 0 false else t
    | _ => t) s

/-- A destination that cannot be reached: the flow's requests complete failed, recalls of lines that it owns fail the accesses
that wait for them, and its acknowledgements are no longer awaited (DEDUCED, log 36). A snapshot travels on plane 2, a lease request
on plane 3 (R356). -/
def State.unreachable (s : State) (f : Nat) : State :=
  let dev := f / 16
  let here (line : Nat) : Bool := decide (line % 16 = f % 16)
  let s1 := s.putFlow f { s.flow f with unack := [], queued := [] }
  let s2 := (s1.peerReqs.filter fun r => decide (r.dev = dev) && here r.line).foldl (fun (t : State) r => t.failReq r .peerUnreachable) s1
  let hit (h : HomeWait) : Bool := !h.back && here h.line && h.acks.contains dev
  let s3 := (s2.homeWaits.filter hit).foldl (fun (t : State) h =>
    if (t.dirEntry h.line).owner = some dev then
      let m := put none t.peerFail (failKey h.line false) (some .peerUnreachable)
      { t with peerFail := put none m (failKey h.line true) (some .peerUnreachable) }
    else t) s2
  let heard (h : HomeWait) : HomeWait := if hit h then { h with acks := h.acks.filter fun d => decide (d ≠ dev) } else h
  let s4 := ({ s3 with homeWaits := s3.homeWaits.map heard }).serveHome
  if f % 16 = 2 then s4.sourceLost dev else if f % 16 = 3 then s4.lenderLost dev else s4

/-- A packet of the flow has gone unacknowledged for 64 µs on every live port. -/
def execPeerUnreachable (flow : Nat) (s : State) : Host.Outcome State Fault Refusal :=
  .next (if (s.flow flow).unack = [] then s else s.unreachable flow)

/-! ## Reception -/

/-- Whether a number on a flow is one that this device already holds. -/
def Flow.holds (x : Flow) (seq : Nat) : Bool := seqBefore seq x.cum || x.got.contains seq

/-- A packet's number received on a flow: a copy is acknowledged again; every 64th packet brings a SACK. -/
def State.receive (s : State) (f seq : Nat) : State :=
  let x := s.flow f
  if x.holds seq then s.sackOut f
  else
    let got := seq :: x.got
    let cum := (List.range got.length).foldl (fun c _ => if got.contains c then (c + 1) % 2 ^ 32 else c) x.cum
    let s1 := s.putFlow f { x with cum := cum, got := got.filter fun n => !seqBefore n cum, since := x.since + 1 }
    if x.since + 1 = 64 then s1.sackOut f else s1

/-- The control group of the other end of a port link: it has cleared a slot as sender, and this end, as receiver, clears its copy. -/
def State.peerCleared (s : State) (q : Nat) (slot : Bool) : State :=
  let k := s.portLink q
  if k.tx = slot then s else s.putPort q (if slot then { k with v1 := false } else { k with v0 := false })

/-- A flit group received on a port: checked under the slot that its index names. A group that fails, or whose slot is
empty, is discarded with every later one and answered with a NAK; one that passes hands on its packet, or, under the number of control
groups, tells which slot the other end has cleared. -/
def State.group (s : State) (q : Nat) (slot : Bool) (seq : Nat) (tagOk : Bool) (f pseq : Nat) : State :=
  let k := s.portLink q
  if seq ≠ k.rxNext then s
  else if !(if slot then k.v1 else k.v0) then { s with outbox := .nak q seq :: s.outbox }
  else if !tagOk then
    { s.putPort q { k with fails := Nat.min (k.fails + 1) (2 ^ 32 - 1) } with outbox := .nak q seq :: s.outbox }
  else
    let s1 := s.putPort q { k with rxNext := (seq + 1) % 2 ^ 16 }
    if f = ctlFlow then s1.peerCleared q (decide (pseq % 2 = 1)) else s1.receive f pseq

def execFlitGroup (port : Nat) (slot : Bool) (seq : Nat) (tagOk : Bool) (flow pseq : Nat) (s : State) :
    Host.Outcome State Fault Refusal := .next (s.group port slot seq tagOk flow pseq)

/-- A NAK from the other end of a port link: the groups from the one it names are sent again as they were. -/
def execLinkNak (port seq : Nat) (s : State) : Host.Outcome State Fault Refusal :=
  let k := s.portLink port
  let from_ := k.buf.dropWhile fun e => decide (e.seq ≠ seq)
  .next (if from_ = [] then s else s.putPort port { k with buf := from_, replay := from_ })

/-- The security processor loads a key with its salt into the idle slot, and new groups go out under it. A slot that still holds a
key is not idle. -/
def execKeyRotate (port : Nat) (s : State) : Host.Outcome State Fault Refusal :=
  let k := s.portLink port
  let salt := Config.keySalt port k.loads
  let k1 : PortLink := if k.tx then { k with v0 := true, tx := false, sentN := put 0 k.sentN 0 0, salt0 := salt, loads := k.loads + 1 }
    else { k with v1 := true, tx := true, sentN := put 0 k.sentN 1 0, salt1 := salt, loads := k.loads + 1 }
  .next (if (if k.tx then k.v0 else k.v1) then s
    else (List.range 16).foldl (fun (t : State) p => if t.portOf p = port then t.pumpPlane p else t) (s.putPort port k1))

/-- Whether a group is known to have been acknowledged: the packet that it carries has been (DEDUCED, log 37: the manual gives the
link no acknowledgement of its own). -/
def State.groupDone (s : State) (g : Group) : Bool :=
  decide (g.flow = ctlFlow) || !((s.flow g.flow).unack.any fun e => decide (e.1 = g.pseq))

/-- Every group sent under the idle slot has been acknowledged: the slot is cleared, and the receiver told in a control group. -/
def execKeySlotClear (port : Nat) (s : State) : Host.Outcome State Fault Refusal :=
  let k := s.portLink port
  let old := k.buf.filter fun g => g.key != k.tx
  let k1 : PortLink := if k.tx then { k with v0 := false } else { k with v1 := false }
  .next (if old.all s.groupDone then
    { (s.putPort port { k1 with buf := k.buf.filter fun g => g.key == k.tx }).sendGroup port ctlFlow (Bool.n !k.tx) with
      outbox := .keyCleared port :: s.outbox }
  else s)

/-- A packet of a reserved kind, dropped and counted. -/
def execPacketReserved (kind : Nat) (s : State) : Host.Outcome State Fault Refusal :=
  .next (if (kind = 0 ∨ (9 ≤ kind ∧ kind ≤ 0xF)) ∨ 0x1C ≤ kind then { s with errCnt := s.errCnt + 1 } else s)

end Sys2Proof.Machine
end

