-- ==== Sys2Proof/Machine/Integer.lean ====
section
/-! DEFINITION. The integer and address instructions (R66 to R86): one meaning for each, over exact integers. -/

namespace Sys2Proof.Machine

/-- Registers of an operand of a type. -/
def nT (o : OpO) : Nat := if o.ty < 2 then 1 else 2

/-- An exact integer of the operands, wrapped or saturated (R74). -/
def intOp (i : Instr) (o : OpO) (f : Int → Int → Int → Int) (s : State) : Host.Outcome State Fault Refusal :=
  let t := o.ty
  alu i o.pr o.d (nT o) [(o.a, nT o), (o.b, nT o), (o.c, nT o)] (extT t) (fun w l =>
    let a := w.read (tyWidth t) o.a l
    let b := w.read (tyWidth t) o.b l
    let c := w.read (tyWidth t) o.c l
    let x := f (valT t a.n) (valT t b.n) (valT t c.n)
    ofVals (usedVals o a b c) (if o.sat then satT t x else wrapT t x, 0)) s
where
  /-- The sources that the word names: a field that must be zero is no source (R69). -/
  usedVals (o : OpO) (a b c : Val) : List Val :=
    a :: (if o.b = .v 0 ∧ unusedB then [] else [b]) ++ (if unusedC then [] else [c])
  unusedB : Bool := match i with | .ineg _ => true | .iabs _ => true | _ => false
  unusedC : Bool := match i with | .imad _ => false | .sad _ => false | _ => true

/-- A bit-pattern operation of two W-bit operands (R79). -/
def bitOp (i : Instr) (o : OpO) (f : Nat → Nat → Nat → Nat) (s : State) : Host.Outcome State Fault Refusal :=
  let t := o.ty
  alu i o.pr o.d (nT o) [(o.a, nT o), (o.b, nT o)] (extT t) (fun w l =>
    let a := w.read (tyWidth t) o.a l
    let b := w.read (tyWidth t) o.b l
    ofVals [a, b] (f (tyWidth t) a.n b.n % 2 ^ tyWidth t, 0)) s

/-- A bit-pattern operation of one W-bit operand (R79); `dn` registers of destination. -/
def bitOp1 (i : Instr) (o : OpO) (dn : Nat) (f : Nat → Nat → Nat) (s : State) : Host.Outcome State Fault Refusal :=
  let t := o.ty
  alu i o.pr o.d dn [(o.a, nT o)] (extT t) (fun w l =>
    let a := w.read (tyWidth t) o.a l
    ofVals [a] (f (tyWidth t) a.n, 0)) s

/-- A W-bit operand and a 32-bit amount (R79). -/
def shiftOp (i : Instr) (o : OpO) (f : Nat → Nat → Nat → Nat) (s : State) : Host.Outcome State Fault Refusal :=
  let t := o.ty
  alu i o.pr o.d (nT o) [(o.a, nT o), (o.b, 1)] (extT t) (fun w l =>
    let a := w.read (tyWidth t) o.a l
    let b := w.read 32 o.b l
    ofVals [a, b] (f (tyWidth t) a.n b.n % 2 ^ tyWidth t, 0)) s

/-- The format I forms (R72): `sgn` tells whether the immediate is sign-extended. -/
def immOp (i : Instr) (o : OpI) (signed withA : Bool) (f : Nat → Nat → Nat) (s : State) : Host.Outcome State Fault Refusal :=
  let b := if o.d.isS then 64 else 32
  let imm := if signed then wrapN b o.imm.toInt else o.imm.toNat
  alu i o.pr o.d 1 (if withA then [(o.a, 1)] else []) id (fun w l =>
    let a := w.read b o.a l
    ofVals (if withA then [a] else []) (f a.n imm % 2 ^ b, 0)) s

/-! ## Format I (R72) and MOVL (R73) -/

def execIaddI (o : OpI) (s : State) := immOp (.iaddI o) o true true (fun a m => a + m) s
def execMovI (o : OpI) (s : State) := immOp (.movI o) o true false (fun _ m => m) s
def execAndI (o : OpI) (s : State) := immOp (.andI o) o false true (fun a m => a &&& m) s
def execOrI (o : OpI) (s : State) := immOp (.orI o) o false true (fun a m => a ||| m) s
def execXorI (o : OpI) (s : State) := immOp (.xorI o) o false true (fun a m => a ^^^ m) s
def execImulI (o : OpI) (s : State) := immOp (.imulI o) o true true (fun a m => a * m) s

/-- MOVL (R73): the literal word is the source. -/
def execMovl (o : OpO) (lit : Word) (s : State) : Host.Outcome State Fault Refusal :=
  alu (.movl o lit) o.pr o.d (nT o) [] (extT o.ty) (fun _ _ => { n := lit.toNat % 2 ^ tyWidth o.ty }) s

/-! ## Arithmetic (R74 to R78) -/

def execIadd (o : OpO) (s : State) := intOp (.iadd o) o (fun a b _ => a + b) s
def execIsub (o : OpO) (s : State) := intOp (.isub o) o (fun a b _ => a - b) s
def execImul (o : OpO) (s : State) := intOp (.imul o) o (fun a b _ => a * b) s
def execImad (o : OpO) (s : State) := intOp (.imad o) o (fun a b c => a * b + c) s
def execImin (o : OpO) (s : State) := intOp (.imin o) o (fun a b _ => if a ≤ b then a else b) s
def execImax (o : OpO) (s : State) := intOp (.imax o) o (fun a b _ => if a ≤ b then b else a) s
def execIabs (o : OpO) (s : State) := intOp (.iabs o) o (fun a _ _ => (a.natAbs : Int)) s
def execIneg (o : OpO) (s : State) := intOp (.ineg o) o (fun a _ _ => -a) s
def execSad (o : OpO) (s : State) := intOp (.sad o) o (fun a b c => c + ((a - b).natAbs : Int)) s

/-- IMULH (R76): the upper half of the product. -/
def execImulh (o : OpO) (s : State) := intOp (.imulh o) o (fun a b _ => (a * b) / ((2 ^ tyWidth o.ty : Nat) : Int)) s

/-- IDIV (R77). -/
def execIdiv (o : OpO) (s : State) :=
  intOp (.idiv o) o (fun a b _ =>
    if b = 0 then (if tySigned o.ty then (if a < 0 then loT o.ty else hiT o.ty) else hiT o.ty)
    else Int.tdiv a b) s

/-- IREM (R77). -/
def execIrem (o : OpO) (s : State) := intOp (.irem o) o (fun a b _ => if b = 0 then a else Int.tmod a b) s

/-- IADDC (R75): the carry-in is C, and the carry-out goes back to it. -/
def execIaddc (o : OpO) (s : State) : Host.Outcome State Fault Refusal :=
  let t := o.ty
  let m := s.w.holds o.pr ||| s.w.psnd o.pr
  let sum (w : Warp) (l : Nat) : List Val × Nat :=
    let a := w.read (tyWidth t) o.a l
    let b := w.read (tyWidth t) o.b l
    let c := w.read 32 o.c l
    ([a, b, c], a.n + b.n + c.n)
  issue (.iaddc o) s { ready := decide (m = 0) || s.operandsFree (.iaddc o) [o.d] (nT o) m } fun u =>
    let u1 := u.readPending [(o.a, nT o), (o.b, nT o)] m
    let w := u1.w
    let w1 := w.perLane o.pr (32 * nT o) o.d fun l => let x := sum w l; ofVals x.1 (x.2 % 2 ^ tyWidth t, 0)
    let w2 := (List.range 32).foldl (fun (v : Warp) l =>
      if (w.holds o.pr).getLsbD l then let x := sum w l; v.write 32 o.c l (ofVals x.1 (carryT t x.2, 0)).val
      else if (w.psnd o.pr).getLsbD l then v.write 32 o.c l poisonVal
      else v) w1
    (u1.setW w2).advance 1

/-- IDOT4 (R78). -/
def execIdot4 (o : OpO) (s : State) : Host.Outcome State Fault Refusal :=
  let t := o.ty
  let byte (sg : Bool) (x i : Nat) : Int := let b := bits x (8 * i + 7) (8 * i); if sg then sext 8 b else b
  alu (.idot4 o) o.pr o.d 1 [(o.a, 1), (o.b, 1), (o.c, 1)] (extT t) (fun w l =>
    let a := w.read 32 o.a l
    let b := w.read 32 o.b l
    let c := w.read 32 o.c l
    let term (i : Nat) : Int := byte (bit o.sub 0) a.n i * byte (bit o.sub 1) b.n i
    let x := valT t c.n + (term 0 + term 1 + term 2 + term 3)
    ofVals [a, b, c] (if o.sat then satT t x else wrapT t x, 0)) s

/-! ## Bits, shifts and fields (R79 to R81) -/

def execAndB (o : OpO) (s : State) := bitOp (.andB o) o (fun _ a b => a &&& b) s
def execOrB (o : OpO) (s : State) := bitOp (.orB o) o (fun _ a b => a ||| b) s
def execXorB (o : OpO) (s : State) := bitOp (.xorB o) o (fun _ a b => a ^^^ b) s
def execAndnB (o : OpO) (s : State) := bitOp (.andnB o) o (fun w a b => a &&& (b ^^^ (2 ^ w - 1))) s
def execNotB (o : OpO) (s : State) := bitOp1 (.notB o) o (nT o) (fun w a => a ^^^ (2 ^ w - 1)) s

/-- Shifts and rotates (R79); a left shift or a rotate of a huge amount is never formed. -/
def shlN (w a n : Nat) : Nat := if w ≤ n then 0 else a <<< n
def shrN (w a n : Nat) : Nat := if w ≤ n then 0 else a >>> n
def sarN (w a n : Nat) : Nat := wrapN w (sext w a / ((2 ^ (if w ≤ n then w else n) : Nat) : Int))
def rotlN (w a n : Nat) : Nat := a <<< (n % w) ||| a >>> (w - n % w)

def execShl (o : OpO) (s : State) := shiftOp (.shl o) o shlN s
def execShr (o : OpO) (s : State) := shiftOp (.shr o) o shrN s
def execSar (o : OpO) (s : State) := shiftOp (.sar o) o sarN s
def execRotl (o : OpO) (s : State) := shiftOp (.rotl o) o rotlN s

/-- FSHL (R79): the upper W bits of A × 2^W + B shifted left by C mod W. -/
def execFshl (o : OpO) (s : State) : Host.Outcome State Fault Refusal :=
  let t := o.ty
  let wd := tyWidth t
  alu (.fshl o) o.pr o.d (nT o) [(o.a, nT o), (o.b, nT o), (o.c, 1)] (extT t) (fun w l =>
    let a := w.read wd o.a l
    let b := w.read wd o.b l
    let c := w.read 32 o.c l
    ofVals [a, b, c] ((((a.n <<< wd + b.n) <<< (c.n % wd)) >>> wd) % 2 ^ wd, 0)) s

/-- The number of 1 bits among the low `n`, of 0 bits above the highest 1 and below the lowest 1 (R79). -/
def popN (n a : Nat) : Nat := ((List.range n).filter fun i => bit a i).length
def clzN (n a : Nat) : Nat := n - bitLen a
def ctzN (n a : Nat) : Nat := ((List.range n).find? fun i => bit a i).getD n
def brevN (n a : Nat) : Nat := sumOf (fun i => if bit a i then 2 ^ (n - 1 - i) else 0) (List.range n)

def execPopc (o : OpO) (s : State) := bitOp1 (.popc o) o 1 popN s
def execClz (o : OpO) (s : State) := bitOp1 (.clz o) o 1 clzN s
def execCtz (o : OpO) (s : State) := bitOp1 (.ctz o) o 1 ctzN s
def execBrev (o : OpO) (s : State) := bitOp1 (.brev o) o (nT o) brevN s

/-- p and n of R80. -/
def fieldPN (w b c : Nat) : Nat × Nat := let p := Nat.min b w; (p, Nat.min c (w - p))

/-- BFX (R80). -/
def execBfx (o : OpO) (s : State) : Host.Outcome State Fault Refusal :=
  let t := o.ty
  let wd := tyWidth t
  alu (.bfx o) o.pr o.d (nT o) [(o.a, nT o), (o.b, 1), (o.c, 1)] (extT t) (fun w l =>
    let a := w.read wd o.a l
    let b := w.read 32 o.b l
    let c := w.read 32 o.c l
    let (p, n) := fieldPN wd b.n c.n
    let x := (a.n >>> p) % 2 ^ n
    ofVals [a, b, c] (if n = 0 then 0 else if tySigned t then wrapN wd (sext n x) else x, 0)) s

/-- BFI (R80): D is a source. -/
def execBfi (o : OpO) (s : State) : Host.Outcome State Fault Refusal :=
  let t := o.ty
  let wd := tyWidth t
  alu (.bfi o) o.pr o.d (nT o) [(o.d, nT o), (o.a, nT o), (o.b, 1), (o.c, 1)] (extT t) (fun w l =>
    let d := w.read wd o.d l
    let a := w.read wd o.a l
    let b := w.read 32 o.b l
    let c := w.read 32 o.c l
    let (p, n) := fieldPN wd b.n c.n
    let mask := (2 ^ n - 1) <<< p
    ofVals [d, a, b, c] ((d.n &&& (mask ^^^ (2 ^ wd - 1))) ||| (a.n % 2 ^ n) <<< p, 0)) s

/-- PRMT (R81). -/
def prmtN (a b c : Nat) : Nat :=
  sumOf (fun i =>
    let x := bits c (3 * i + 2) (3 * i)
    let byte := if x < 4 then bits a (8 * x + 7) (8 * x) else bits b (8 * (x - 4) + 7) (8 * (x - 4))
    (if bit c (12 + i) then 0 else if bit c (16 + i) then brevN 8 byte else byte) <<< (8 * i)) (List.range 4)

def execPrmt (o : OpO) (s : State) : Host.Outcome State Fault Refusal :=
  alu (.prmt o) o.pr o.d 1 [(o.a, 1), (o.b, 1), (o.c, 1)] id (fun w l =>
    let a := w.read 32 o.a l
    let b := w.read 32 o.b l
    let c := w.read 32 o.c l
    ofVals [a, b, c] (prmtN a.n b.n c.n, 0)) s

/-! ## Compares, selects, predicates, moves, addresses (R82 to R86) -/

/-- The conditions of ICMP and POLL: 0 eq, 1 ne, 2 lt, 3 le, 4 gt, 5 ge (R82, R174). -/
def condI (c : Nat) (a b : Int) : Bool :=
  match c with
  | 0 => decide (a = b) | 1 => decide (a ≠ b) | 2 => decide (a < b) | 3 => decide (a ≤ b) | 4 => decide (b < a)
  | _ => decide (b ≤ a)

def execIcmp (o : OpO) (s : State) : Host.Outcome State Fault Refusal :=
  let t := o.ty
  alu (.icmp o) o.pr o.d 1 [(o.a, nT o), (o.b, nT o)] id (fun w l =>
    let a := w.read (tyWidth t) o.a l
    let b := w.read (tyWidth t) o.b l
    ofVals [a, b] (Bool.n (condI o.sub (valT t a.n) (valT t b.n)), 0)) s

/-- ISEL (R83): the unselected source's poison does not reach D. -/
def execIsel (o : OpO) (s : State) : Host.Outcome State Fault Refusal :=
  let t := o.ty
  alu (.isel o) o.pr o.d (nT o) [(o.a, nT o), (o.b, nT o)] (extT t) (fun w l =>
    let c := w.read 32 o.c l
    let x := w.read (tyWidth t) (if c.n = 1 then o.a else o.b) l
    ofVals [c, x] (x.n, 0)) s

/-- PSET (R84). -/
def execPset (o : OpO) (s : State) : Host.Outcome State Fault Refusal :=
  alu (.pset o) o.pr o.d 1 [] id (fun w l =>
    let a := w.read 32 o.a l
    let b := w.read 32 o.b l
    let x := match o.sub with
      | 0 => a.n * b.n | 1 => Nat.max a.n b.n | 2 => (a.n + b.n) % 2 | 3 => a.n * (1 - b.n) | 4 => 1 - a.n
      | 5 => 1 | _ => 0
    ofVals (if o.sub ≤ 3 then [a, b] else if o.sub = 4 then [a] else []) (x, 0)) s

/-- MOV (R85). -/
def execMov (o : OpO) (s : State) := bitOp1 (.mov o) o (nT o) (fun _ a => a) s

/-- LEA (R86): D and A are 64 bits wide, B has the type's width and signedness. -/
def execLea (o : OpO) (s : State) : Host.Outcome State Fault Refusal :=
  let t := o.ty
  alu (.lea o) o.pr o.d 2 [(o.a, 2), (o.b, nT o)] id (fun w l =>
    let a := w.read 64 o.a l
    let b := w.read (tyWidth t) o.b l
    ofVals [a, b] (wrapN 64 ((a.n : Int) + valT t b.n * ((2 ^ o.c.num : Nat) : Int)), 0)) s

end Sys2Proof.Machine
end

