-- ==== Sys2Proof/Machine/Mgmt.lean ====
section
/-! DEFINITION. The management interface (R431 to R437): starts and minimal mode, readiness and the basic controls,
contexts and their keys, power, and the writes to registers that have no row of their own. -/

namespace Sys2Proof.Machine

/-! ## Readiness (R431, R432, R194) -/

def Mgmt.ready1 (m : Mgmt) (f : Function) : Mgmt := { m with ready := if m.ready.contains f then m.ready else f :: m.ready }
def Mgmt.unready (m : Mgmt) (f : Function) : Mgmt :=
  { m with ready := m.ready.filter fun g => decide (g ≠ f), closing := m.closing.filter fun e => decide (e.1 ≠ f) }

/-- Whether the start that is running may release a function: minimal mode releases die 0 with its clusters 0 to 9, links 0
to 3, and neither the name router nor the lease engine (R433). -/
def Mgmt.released (m : Mgmt) (f : Function) : Bool :=
  !m.inReset && !m.off.contains f && (!m.minMode || match f with
    | .link k => decide (k < 4)
    | .clus c => decide (c < 10)
    | .zith => false
    | .lease => false
    | _ => true)

/-- The functions of R431. -/
def present (f : Function) : Bool :=
  match f with
  | .port q => decide (q < 16)
  | .link k => decide (k < Config.links)
  | .clus c => decide (c < Config.clusters)
  | _ => true

/-- What a link's loss takes with it: no line of its pages is held in L1 or L2, and the write-back of each dirty one fails with
LINK-DOWN (R194, R198). -/
def State.linkFail (s : State) (k : Nat) : State :=
  let mine (line : Nat) : Bool := decide (linkOf (pageOf (128 * line)) = k)
  let s1 := s.l1.foldl (fun (t : State) e =>
    if mine (e.1 % 2 ^ 49) && decide (e.2.dirty ≠ 0) then t.logFault (128 * (e.1 % 2 ^ 49)) e.2.va (e.2.ctxs.headD 0) .linkDown else t) s
  let s2 := s.l2.foldl (fun (t : State) e =>
    if mine e.1 && decide (e.2.dirty ≠ 0) then t.logFault (128 * e.1) 0 e.2.ctx .linkDown else t) s1
  { s2 with l1 := s2.l1.filter fun e => !mine (e.1 % 2 ^ 49), l2 := s2.l2.filter fun e => !mine e.1 }

/-- What a function that becomes ready does at once. -/
def State.functionUp (s : State) (f : Function) : State :=
  let s1 := { s with mgmt := s.mgmt.ready1 f }
  match f with
  | .port q => s1.portUp q
  | .link k => { s1 with links := put {} s1.links k { s1.link k with tlb := [], victims := [] } }
  | .lyre => s1.lyreUp
  | _ => s1

/-- What a function that fails does at once. -/
def State.functionDown (s : State) (f : Function) : State :=
  let s1 := { s with mgmt := s.mgmt.unready f }
  match f with
  | .port q => s1.portFail q
  | .link k => s1.linkFail k
  | .zith => s1.zithFail
  | _ => s1

def execFunctionReady (fn : Function) (s : State) : Host.Outcome State Fault Refusal :=
  .next (if present fn && s.mgmt.released fn && !s.isReady fn then s.functionUp fn else s)

def execFunctionFail (fn : Function) (s : State) : Host.Outcome State Fault Refusal :=
  .next (if s.isReady fn then s.functionDown fn else s)

/-! ## The basic control register (R434) -/

/-- Whether work with a number below `stamp` is still at a function. -/
def State.busyWith (s : State) (f : Function) (stamp : Nat) : Bool :=
  let cmd (p : CmdKind → Bool) : Bool := s.cmds.any fun c => decide (c.id < stamp) && p c.kind
  match f with
  | .zith => cmd fun k => match k with | .interest _ _ _ => true | .announce _ _ _ => true | _ => false
  | .lease => cmd fun k => match k with | .leasereq _ _ _ _ _ _ => true | .leaseret _ _ => true | _ => false
  | .lyre => cmd fun k => match k with | .evpost _ _ _ _ => true | _ => false
  | .link k => (s.ops.any fun o => decide (o.id < stamp) && o.accs.any fun a => !a.done &&
      match a.loc with | .mem ia => decide (linkOf (pageOf ia) = k) | _ => false) ||
      s.cmds.any fun c => decide (c.id < stamp) && (c.dst.any fun e =>
        match e.2 with | .mem ia => decide (linkOf (pageOf ia) = k) | _ => false)
  | .port q => s.flows.any fun e => decide (s.portOf (e.1 % 16) = q) && decide (e.2.unack ≠ [])
  | .clus c => s.blocks.any fun e => decide (e.1 < stamp) && e.2.live && !e.2.saved && decide (e.2.cid / 4 = c)
  | .dist => s.launches.any fun e => decide (e.1 < stamp)
  | .secp => false

/-- A function that has been switched off and whose earlier work is done loses its readiness bit. -/
def State.closeDown (s : State) : State :=
  s.mgmt.closing.foldl (fun (t : State) e => if t.busyWith e.1 e.2 then t else t.functionDown e.1) s

/-- EN written 0: the readiness bit is cleared once the work already issued to the function has completed. -/
def execFunctionDisable (fn : Function) (s : State) : Host.Outcome State Fault Refusal :=
  .next (if present fn then
    let m := s.mgmt
    let wait := s.isReady fn && !(m.closing.any fun e => decide (e.1 = fn))
    ({ s with mgmt := { m with off := if m.off.contains fn then m.off else fn :: m.off
                               closing := if wait then (fn, s.nextId) :: m.closing else m.closing } }).closeDown
  else s)

/-- EN written 1; a readiness failure in the same clock leaves the bit clear. -/
def execFunctionEnable (fn : Function) (fails : Bool) (s : State) : Host.Outcome State Fault Refusal :=
  .next (let s1 := { s with mgmt := { s.mgmt with off := s.mgmt.off.filter fun g => decide (g ≠ fn) } }
    if fails && s1.isReady fn then s1.functionDown fn else s1)

/-! ## Starts (R433, R436, R437) -/

/-- The module put into reset: every register and structure of the device at its reset value. The management controller's
count of failed starts and BREASON stay; what lies outside the module stays: the DDR behind the links, the Harp, the packets
already sent, agreed time, and the inputs still to come; and the model's own counters. -/
def State.intoReset (s : State) : State :=
  { did := s.did, agenda := s.agenda, outbox := s.outbox, numbered := s.numbered, atime := s.atime, nextId := s.nextId, draws := s.draws
    mem := s.mem, memMark := s.memMark, memKey := s.memKey, harp := s.harp
    links := s.links.map fun e => (e.1, { ({} : Link) with frames := e.2.frames })
    mgmt := { starts := s.mgmt.starts, breason := s.mgmt.breason, stuck := s.mgmt.stuck } }

/-- A start that fails for a reason: it is counted, the reason is latched, and the module goes into reset. -/
def State.startFails (s : State) (reason : BitVec 8) : State :=
  ({ s with mgmt := { s.mgmt with starts := s.mgmt.starts + 1, breason := reason, stuck := s.mgmt.stuck || s.mgmt.minMode } }).intoReset

/-- Reset released: a start begins, in minimal mode after the third failed start. A firmware image of which a signature does
not verify is not run, and the start fails. -/
def execResetRelease (ed25519 mldsa65 : Bool) (s : State) : Host.Outcome State Fault Refusal :=
  .next (if !s.mgmt.inReset || s.mgmt.stuck then s
    else
      let ok := ed25519 && mldsa65
      let s1 := { s with mgmt := { s.mgmt with inReset := false, starting := true, fwOk := ok, minMode := decide (3 ≤ s.mgmt.starts) } }
      if ok then s1 else s1.startFails 5)

/-- The lowest-numbered failure of a start 2 s after release; 0 for none. -/
def State.startReason (s : State) : BitVec 8 :=
  if !s.isReady .dist then 1
  else if !s.isReady .lyre then 2
  else if ((List.range 6).filter fun k => s.isReady (.link k)).length < 4 then 3
  else if (List.range 10).any fun c => !s.isReady (.clus c) then 4
  else 0

def execStartCheck (s : State) : Host.Outcome State Fault Refusal :=
  .next (if !s.mgmt.starting then s
    else
      let r := s.startReason
      if r = 0 then ({ s with mgmt := { s.mgmt with starting := false, starts := 0 } }).movePlanes
      else s.startFails r)

/-- A junction at 105 degrees puts the module into reset. -/
def execThermalReset (s : State) : Host.Outcome State Fault Refusal := .next s.intoReset

/-- The power of the last millisecond against PLIMIT: the arithmetic clock a step down, or a step back up once the average is
5 % below. Nothing else changes. -/
def execPowerAverage (watts : Nat) (s : State) : Host.Outcome State Fault Refusal :=
  let m := s.mgmt
  .next (if m.plimit < watts then
      if 1200 < m.mhz then ({ s with mgmt := { m with mhz := Nat.max 1200 (m.mhz - 100) } }).count 0x1A else s
    else if 100 * watts ≤ 95 * m.plimit then { s with mgmt := { m with mhz := Nat.min 2100 (m.mhz + 100) } }
    else s)

/-! ## Contexts (R435) -/

/-- CTXW0 written with V 1: a context that does not exist is created. -/
def State.createCtx (s : State) (id : Nat) (w0 : Word) : State :=
  if (s.ctx id).v then s
  else s.putCtx id { v := true, priv := bit w0.toNat 62, conf := bit w0.toNat 61, host := bits w0.toNat 17 0 }

/-- Whether a launch or a gang rank of a context is pending, placed or saved. -/
def State.ctxUsed (s : State) (id : Nat) : Bool :=
  (s.launches.any fun e => decide (e.2.ctx = id)) ||
    s.lyre.t.gang.any fun e => decide (e.2.ctx = id) && decide (e.2.state ≠ .free)

/-- CTXW0 written with V 0: the context is destroyed with every word of it and its key, or the refusal is counted. -/
def State.destroyCtx (s : State) (id : Nat) : State :=
  if !(s.ctx id).v then s
  else if s.ctxUsed id then { s with errCnt := s.errCnt + 1 }
  else s.putCtx id {}

/-- CTXW0 written: V decides. A write of V 1 to a context that exists is ignored. -/
def State.writeCtx0 (s : State) (w0 : Word) : State :=
  let id := s.mgmt.ctxsel
  if !(bit w0.toNat 63) then s.destroyCtx id else s.createCtx id w0

def execCtxCreate (w0 : Word) (s : State) : Host.Outcome State Fault Refusal :=
  .next (if bit w0.toNat 63 then s.createCtx s.mgmt.ctxsel w0 else s)

def execCtxDestroy (w0 : Word) (s : State) : Host.Outcome State Fault Refusal :=
  .next (if bit w0.toNat 63 then s else s.destroyCtx s.mgmt.ctxsel)

/-- The security processor installs the memory key of a context. -/
def execKeyInstall (ctx : Nat) (s : State) : Host.Outcome State Fault Refusal :=
  .next (if s.isReady .secp && (s.ctx ctx).v then s.putCtx ctx { s.ctx ctx with keyv := true } else s)

/-- CTXW1 to CTXW71 written, as an SWR to a context register writes it (R337). -/
def Ctx.writeWord (c : Ctx) (i : Nat) (x : Word) : Ctx :=
  if 1 ≤ i ∧ i ≤ 64 then c.write ((i - 1) / 4) (33 + (i - 1) % 4) x
  else match i with
    | 65 => c.write 0 37 x
    | 66 => c.write 0 38 x
    | 67 => c.write 0 39 x
    | 68 => { c with nrbase := x &&& ~~~0xFFE }
    | _ => c

def State.writeCtx (s : State) (i : Nat) (x : Word) : State :=
  let id := s.mgmt.ctxsel
  if i = 0 then s.writeCtx0 x
  else if (s.ctx id).v then s.putCtx id ((s.ctx id).writeWord i x) else s

/-! ## The other registers (R434) -/

/-- A register write, reserved bits and values ignored. -/
def State.writeReg (s : State) (r : MgmtReg) (x : Word) : State :=
  let m := s.mgmt
  let n := x.toNat
  let keep : Word := 0xFFFFFF000001FFFF
  match r with
  | .linkTable k =>
    if k < Config.links then { s with links := put {} s.links k { s.link k with table := x &&& keep } } else s
  | .scrubCtl k =>
    if Config.links ≤ k ∨ 2 ≤ bits n 62 61 then s
    else { s with links := put {} s.links k { s.link k with
      scrubEn := bit n 63, scrubMode := bits n 62 61, gap := Nat.max 64 (bits n 31 0) } }
  | .smpctl => { s with smp := { s.smp with en := bit n 63, interval := Nat.max 256 (bits n 31 0) } }
  | .smpsel => { s with smp := { s.smp with sel := x &&& 0x0FFFFFFFFFFFFFFF } }
  | .smpbase => { s with smp := { s.smp with base := x &&& ~~~0x3F } }
  | .smplen => { s with smp := { s.smp with len := bits n 19 0 } }
  | .smpri => { s with smp := { s.smp with ri := bits n 31 0 } }
  | .smpctx => { s with smp := { s.smp with ctx := bits n 15 0 } }
  | .tlog cid => if cid < Config.cores ∧ 10 ≤ n ∧ n ≤ 24 then s.putCore cid { s.core cid with tlog := n } else s
  | .dbgcmd => if dbgCmd x = 0 then { s with mgmt := { m with dbgcmd := x &&& ~~~0x3FFFF } } else s.dbgBusy x
  | .dbgpc => { s with mgmt := { m with dbgpc := x } }
  | .lendwin => { s with leng := { s.leng with win := x &&& ~~~0x1FF00000 } }
  | .lyrcfg => { s with mgmt := { m with lyrcfg := x &&& 0x1FFFF } }
  | .ctxsel => { s with mgmt := { m with ctxsel := bits n 15 0 } }
  | .ctxw i => s.writeCtx i x
  | .fnMode f => if n = 0 then { s with mgmt := { m with fmode := m.fmode.filter fun e => decide (e.1 ≠ f) } } else s
  | .plimit => { s with mgmt := { m with plimit := n } }

def execRegisterWrite (reg : MgmtReg) (val : Word) (s : State) : Host.Outcome State Fault Refusal := .next (s.writeReg reg val)

end Sys2Proof.Machine
end

