-- ==== Sys2Proof/Machine/Try.lean ====
section
/-! DEFINITION. TRY, COMMIT and ABORT (R217 to R225). -/

namespace Sys2Proof.Machine

/-- The elements of rows k to k + n − 1. -/
def Warp.declared (w : Warp) (k n : Nat) : FMap VEl :=
  w.v.filter fun e => decide (k ≤ e.1 / 32) && decide (e.1 / 32 < k + n)

/-- A TRY that cannot open its try aborts at once with OVERFLOW (R218): nothing is to be restored. -/
def State.tryOverflow (s : State) (d : Opnd) : State :=
  let w := s.w
  let w1 := w.setStatus w.exm d false
  (s.setW { w1 with tryOpen := false, tryDone := true, tryCode := 2, amask := w.exm }).advance 1

/-- What the hardware stores in the n + 1 pool rows that the checkpoint takes, from BND + AHI upward (R218): the manual gives no
layout, so they hold free values from then on; what is restored stands in `ck` (log 108). -/
def Warp.takeRows (w : Warp) (n draw : Nat) : FMap VEl :=
  (List.range (32 * (n + 1))).foldl (fun m i => put {} m (32 * (w.bnd + w.ahi) + i) { val := Config.ckptWord draw i }) w.v

/-- The try opened under a free tag. -/
def State.openTry (s : State) (d : Opnd) (k n tag : Nat) : State :=
  let w := s.w
  let c : TryCk := { ver := tag, k := k, n := n, v := w.declared k n, p := w.p, exm := w.exm, part := w.part, flg := w.flg
                     rdepth := w.rstk.length, cdepth := w.cstk.length, dreg := d.num, next := w.pc + 8, hdr := w.hdr
                     hw := w.hw }
  let w1 := { w.setStatus w.exm d true with tryOpen := true, amask := 0, ck := c, v := w.takeRows n s.draws }
  ({ s with draws := s.draws + 1, vers := put {} s.vers tag { taken := true, warp := s.cur } }.setW w1).advance 1

def execTryOpen (o : OpO) (s : State) : Host.Outcome State Fault Refusal :=
  match s.consumes 3 [(.p (o.pr.reg.setWidth 8), 1)] s.w.exm with
  | some (t, s1) => issue (.tryOpen o) s1 { early := some t } id
  | none =>
    let h := s.w.holds o.pr
    let k := o.a.num
    let n := o.b.num
    issue (.tryOpen o) s { ready := decide (h = 0) || s.w.tryOpen || decide (s.tiles s.cur = 0) } fun t =>
      let w := t.w
      if h = 0 then t.advance 1
      else if w.tryOpen then t.abortTry 6 none
      else if w.rows < w.bnd + w.ahi + n + 1 then t.tryOverflow o.d
      else match t.freeTag with
        | none => t.tryOverflow o.d
        | some tag => t.openTry o.d k n tag

/-! ## COMMIT (R222) -/

/-- The aborted lanes closed over the held sectors: whoever wrote or read a sector that an aborted lane wrote (R222). -/
def Version.closure (v : Version) : Nat → W32 → W32
  | 0, m => m
  | fuel + 1, m =>
    Version.closure v fuel (v.wr.foldl (fun (a : W32) e =>
      if e.2 &&& a ≠ 0 then a ||| e.2 ||| look 0 v.rd e.1 else a) m)

/-- A map with the entries in the given lanes replaced by those of a checkpoint. -/
def restoreLanes (now old : FMap α) (inside : Nat → Bool) : FMap α :=
  (old.filter fun e => inside e.1).foldr (fun e m => mapIns m e.1 e.2) (now.filter fun e => !inside e.1)

/-- Aborted lanes get their declared registers and predicates back. -/
def Warp.restoreTry (w : Warp) (m : W32) : Warp :=
  let c := w.ck
  { w with
    v := restoreLanes w.v c.v fun i => decide (c.k ≤ i / 32) && decide (i / 32 < c.k + c.n) && m.getLsbD (i % 32)
    p := restoreLanes w.p c.p fun i => m.getLsbD (i % 32) }

/-- The way that a try holds for a line passed to the task's version (R219, R225). -/
def State.passWay (s : State) (v task line : Nat) : State :=
  let x : Version := look {} s.vers v
  let s1 := { s with vers := put {} s.vers v { x with ways := x.ways.filter fun k => decide (k ≠ line) } }
  let y : Version := look {} s1.vers task
  { s1 with vers := put {} s1.vers task { y with ways := line :: y.ways.filter fun k => decide (k ≠ line) } }

/-- The bytes that a committing try holds published: into the revocable task's version, or into memory (R225). -/
def State.publishTry (s : State) (v : Nat) (keep : Held → Bool) : State :=
  let task := s.w.tskVer
  let s1 := s.publishSpad v keep
  if decide (task ≠ 0) && !(look {} s1.vers task).irrev then
    let x : Version := look {} s1.vers v
    let kept := x.mem.filterMap fun e => match e.2 with
      | some h => if keep h then some (e.1, h) else none
      | none => none
    let s2 := (dedup (kept.map fun e => e.1 / 128)).foldl (fun t line => t.passWay v task line) s1
    kept.foldl (fun (t : State) e => t.hold task true (memSec e.1) e.1 e.2.lane (look 0 x.vas (e.1 / 128)) [e.2.byte])
      (s2.noteWhole task (x.whole.filter fun q => kept.any fun e => decide (memSec e.1 = q)))
  else s1.publishMem v s.cid keep

/-- The one indivisible step of a COMMIT. -/
def State.commitTry (s : State) (d : Opnd) : State :=
  let w := s.w
  let v := s.tryTag s.cur
  let m := (look {} s.vers v).closure 33 w.amask
  let c := w.ck.exm &&& ~~~m
  if c = 0 then s.abortTry 1 none
  else
    let s1 := ((s.publishTry v fun h => c.getLsbD h.lane).countCtx w.ctx 0x10E).dropVersion v
    let w1 := s1.w.restoreTry m
    let w2 := ((w1.setStatus (w.ck.exm &&& m) d false).setStatus c d true)
    (s1.setW { w2 with tryOpen := false, tryDone := true, tryCode := 0, amask := m, ck := {} }).advance 1

def execCommit (o : OpO) (s : State) : Host.Outcome State Fault Refusal :=
  match s.consumes 3 [(.p (o.pr.reg.setWidth 8), 1)] s.w.exm with
  | some (t, s1) => issue (.commit o) s1 { early := some t } id
  | none =>
    let w := s.w
    let scope := o.m.toNat % 8
    if w.holds o.pr = 0 then issue (.commit o) s {} fun t => t.advance 1
    else if !w.tryOpen then
      issue (.commit o) s {} fun t => (t.setW (t.w.setStatus t.w.exm o.d false)).advance 1
    else
      let s1 := s.releaseL1 s.cur s.cid scope
      let (s2, can) := if s1.quiet s.cur then s1.canPublish (s1.tryTag s.cur) s.cid scope else (s1, false)
      let go := can && s2.released s.cur s.cid scope s2.nextId
      issue (.commit o) s2 { ready := go } fun t => t.commitTry o.d

/-! ## ABORT (R223) -/

def execAbort (o : OpO) (s : State) : Host.Outcome State Fault Refusal :=
  match s.consumes 3 [(.p (o.pr.reg.setWidth 8), 1)] s.w.exm with
  | some (t, s1) => issue (.abort o) s1 { early := some t } id
  | none =>
    issue (.abort o) s {} fun t =>
      let w := t.w
      if w.holds o.pr = 0 ∨ ¬ w.tryOpen then t.advance 1
      else (t.setW { w with tryUser := BitVec.ofNat 8 o.a.num }).abortTry 3 none

end Sys2Proof.Machine
end

