-- ==== Sys2Proof/Machine/Dispatch.lean ====
section
/-! DEFINITION. The meaning of every instruction and device step: one arm for each constructor of Instr. -/

namespace Sys2Proof.Machine

def exec (i : Instr) (s : State) : Host.Outcome State Fault Refusal :=
  match i with
  | .iaddI o => Sys2Proof.Machine.execIaddI o s
  | .movI o => Sys2Proof.Machine.execMovI o s
  | .andI o => Sys2Proof.Machine.execAndI o s
  | .orI o => Sys2Proof.Machine.execOrI o s
  | .xorI o => Sys2Proof.Machine.execXorI o s
  | .imulI o => Sys2Proof.Machine.execImulI o s
  | .movl o lit => Sys2Proof.Machine.execMovl o lit s
  | .iadd o => Sys2Proof.Machine.execIadd o s
  | .isub o => Sys2Proof.Machine.execIsub o s
  | .iaddc o => Sys2Proof.Machine.execIaddc o s
  | .imul o => Sys2Proof.Machine.execImul o s
  | .imulh o => Sys2Proof.Machine.execImulh o s
  | .imad o => Sys2Proof.Machine.execImad o s
  | .idiv o => Sys2Proof.Machine.execIdiv o s
  | .irem o => Sys2Proof.Machine.execIrem o s
  | .imin o => Sys2Proof.Machine.execImin o s
  | .imax o => Sys2Proof.Machine.execImax o s
  | .iabs o => Sys2Proof.Machine.execIabs o s
  | .ineg o => Sys2Proof.Machine.execIneg o s
  | .idot4 o => Sys2Proof.Machine.execIdot4 o s
  | .sad o => Sys2Proof.Machine.execSad o s
  | .andB o => Sys2Proof.Machine.execAndB o s
  | .orB o => Sys2Proof.Machine.execOrB o s
  | .xorB o => Sys2Proof.Machine.execXorB o s
  | .andnB o => Sys2Proof.Machine.execAndnB o s
  | .notB o => Sys2Proof.Machine.execNotB o s
  | .shl o => Sys2Proof.Machine.execShl o s
  | .shr o => Sys2Proof.Machine.execShr o s
  | .sar o => Sys2Proof.Machine.execSar o s
  | .rotl o => Sys2Proof.Machine.execRotl o s
  | .fshl o => Sys2Proof.Machine.execFshl o s
  | .popc o => Sys2Proof.Machine.execPopc o s
  | .clz o => Sys2Proof.Machine.execClz o s
  | .ctz o => Sys2Proof.Machine.execCtz o s
  | .brev o => Sys2Proof.Machine.execBrev o s
  | .bfx o => Sys2Proof.Machine.execBfx o s
  | .bfi o => Sys2Proof.Machine.execBfi o s
  | .prmt o => Sys2Proof.Machine.execPrmt o s
  | .icmp o => Sys2Proof.Machine.execIcmp o s
  | .isel o => Sys2Proof.Machine.execIsel o s
  | .pset o => Sys2Proof.Machine.execPset o s
  | .mov o => Sys2Proof.Machine.execMov o s
  | .lea o => Sys2Proof.Machine.execLea o s
  | .fadd dbl o => Sys2Proof.Machine.execFadd dbl o s
  | .fsub dbl o => Sys2Proof.Machine.execFsub dbl o s
  | .fmul dbl o => Sys2Proof.Machine.execFmul dbl o s
  | .ffma dbl o => Sys2Proof.Machine.execFfma dbl o s
  | .fmin dbl o => Sys2Proof.Machine.execFmin dbl o s
  | .fmax dbl o => Sys2Proof.Machine.execFmax dbl o s
  | .fcmp dbl o => Sys2Proof.Machine.execFcmp dbl o s
  | .fclass dbl o => Sys2Proof.Machine.execFclass dbl o s
  | .frnd dbl o => Sys2Proof.Machine.execFrnd dbl o s
  | .fdiv dbl o => Sys2Proof.Machine.execFdiv dbl o s
  | .fsqrt dbl o => Sys2Proof.Machine.execFsqrt dbl o s
  | .frcp o => Sys2Proof.Machine.execFrcp o s
  | .frsq o => Sys2Proof.Machine.execFrsq o s
  | .fexp2 o => Sys2Proof.Machine.execFexp2 o s
  | .flog2 o => Sys2Proof.Machine.execFlog2 o s
  | .fsinpi o => Sys2Proof.Machine.execFsinpi o s
  | .fcospi o => Sys2Proof.Machine.execFcospi o s
  | .hadd2 o => Sys2Proof.Machine.execHadd2 o s
  | .hmul2 o => Sys2Proof.Machine.execHmul2 o s
  | .hfma2 o => Sys2Proof.Machine.execHfma2 o s
  | .mxscan o => Sys2Proof.Machine.execMxscan o s
  | .pack6 o => Sys2Proof.Machine.execPack6 o s
  | .unpk6 o => Sys2Proof.Machine.execUnpk6 o s
  | .pack4 o => Sys2Proof.Machine.execPack4 o s
  | .unpk4 o => Sys2Proof.Machine.execUnpk4 o s
  | .cvt dst src o => Sys2Proof.Machine.execCvt dst src o s
  | .cvtq dst src o => Sys2Proof.Machine.execCvtq dst src o s
  | .bra o => Sys2Proof.Machine.execBra o s
  | .brx o => Sys2Proof.Machine.execBrx o s
  | .call o => Sys2Proof.Machine.execCall o s
  | .callx o => Sys2Proof.Machine.execCallx o s
  | .ret o => Sys2Proof.Machine.execRet o s
  | .exit o => Sys2Proof.Machine.execExit o s
  | .nop o => Sys2Proof.Machine.execNop o s
  | .hintNext o => Sys2Proof.Machine.execHintNext o s
  | .hintFar o => Sys2Proof.Machine.execHintFar o s
  | .hintLikely o => Sys2Proof.Machine.execHintLikely o s
  | .hintUnlikely o => Sys2Proof.Machine.execHintUnlikely o s
  | .ld w o => Sys2Proof.Machine.execLd w o s
  | .st w o => Sys2Proof.Machine.execSt w o s
  | .lds w o => Sys2Proof.Machine.execLds w o s
  | .sts w o => Sys2Proof.Machine.execSts w o s
  | .ldk w o => Sys2Proof.Machine.execLdk w o s
  | .stk w o => Sys2Proof.Machine.execStk w o s
  | .ldw w o => Sys2Proof.Machine.execLdw w o s
  | .prefL1 o => Sys2Proof.Machine.execPrefL1 o s
  | .prefL2 o => Sys2Proof.Machine.execPrefL2 o s
  | .shflFrom o => Sys2Proof.Machine.execShflFrom o s
  | .shflRot o => Sys2Proof.Machine.execShflRot o s
  | .shflShift o => Sys2Proof.Machine.execShflShift o s
  | .shflFlip o => Sys2Proof.Machine.execShflFlip o s
  | .voteOr o => Sys2Proof.Machine.execVoteOr o s
  | .voteAnd o => Sys2Proof.Machine.execVoteAnd o s
  | .voteSame o => Sys2Proof.Machine.execVoteSame o s
  | .voteMask o => Sys2Proof.Machine.execVoteMask o s
  | .reduxAdd o => Sys2Proof.Machine.execReduxAdd o s
  | .reduxMin o => Sys2Proof.Machine.execReduxMin o s
  | .reduxMax o => Sys2Proof.Machine.execReduxMax o s
  | .reduxAnd o => Sys2Proof.Machine.execReduxAnd o s
  | .reduxOr o => Sys2Proof.Machine.execReduxOr o s
  | .reduxXor o => Sys2Proof.Machine.execReduxXor o s
  | .scanAdd o => Sys2Proof.Machine.execScanAdd o s
  | .scanMin o => Sys2Proof.Machine.execScanMin o s
  | .scanMax o => Sys2Proof.Machine.execScanMax o s
  | .scanAnd o => Sys2Proof.Machine.execScanAnd o s
  | .scanOr o => Sys2Proof.Machine.execScanOr o s
  | .scanXor o => Sys2Proof.Machine.execScanXor o s
  | .matchPeers o => Sys2Proof.Machine.execMatchPeers o s
  | .matchLead o => Sys2Proof.Machine.execMatchLead o s
  | .elect o => Sys2Proof.Machine.execElect o s
  | .partset o => Sys2Proof.Machine.execPartset o s
  | .exmget o => Sys2Proof.Machine.execExmget o s
  | .exmset o => Sys2Proof.Machine.execExmset o s
  | .bar o => Sys2Proof.Machine.execBar o s
  | .bara o => Sys2Proof.Machine.execBara o s
  | .barw o => Sys2Proof.Machine.execBarw o s
  | .poll o => Sys2Proof.Machine.execPoll o s
  | .yield o => Sys2Proof.Machine.execYield o s
  | .taskget o => Sys2Proof.Machine.execTaskget o s
  | .taskdone o => Sys2Proof.Machine.execTaskdone o s
  | .lvlid k o => Sys2Proof.Machine.execLvlid k o s
  | .lvlidLane o => Sys2Proof.Machine.execLvlidLane o s
  | .atomAdd o => Sys2Proof.Machine.execAtomAdd o s
  | .atomMin o => Sys2Proof.Machine.execAtomMin o s
  | .atomMax o => Sys2Proof.Machine.execAtomMax o s
  | .atomAnd o => Sys2Proof.Machine.execAtomAnd o s
  | .atomOr o => Sys2Proof.Machine.execAtomOr o s
  | .atomXor o => Sys2Proof.Machine.execAtomXor o s
  | .atomExch o => Sys2Proof.Machine.execAtomExch o s
  | .atomInc o => Sys2Proof.Machine.execAtomInc o s
  | .atomDec o => Sys2Proof.Machine.execAtomDec o s
  | .atomfAdd o => Sys2Proof.Machine.execAtomfAdd o s
  | .atomfMin o => Sys2Proof.Machine.execAtomfMin o s
  | .atomfMax o => Sys2Proof.Machine.execAtomfMax o s
  | .cas o => Sys2Proof.Machine.execCas o s
  | .atomsAdd o => Sys2Proof.Machine.execAtomsAdd o s
  | .atomsMin o => Sys2Proof.Machine.execAtomsMin o s
  | .atomsMax o => Sys2Proof.Machine.execAtomsMax o s
  | .atomsAnd o => Sys2Proof.Machine.execAtomsAnd o s
  | .atomsOr o => Sys2Proof.Machine.execAtomsOr o s
  | .atomsXor o => Sys2Proof.Machine.execAtomsXor o s
  | .atomsExch o => Sys2Proof.Machine.execAtomsExch o s
  | .atomsInc o => Sys2Proof.Machine.execAtomsInc o s
  | .atomsDec o => Sys2Proof.Machine.execAtomsDec o s
  | .redAdd o => Sys2Proof.Machine.execRedAdd o s
  | .redMin o => Sys2Proof.Machine.execRedMin o s
  | .redMax o => Sys2Proof.Machine.execRedMax o s
  | .redAnd o => Sys2Proof.Machine.execRedAnd o s
  | .redOr o => Sys2Proof.Machine.execRedOr o s
  | .redXor o => Sys2Proof.Machine.execRedXor o s
  | .fence o => Sys2Proof.Machine.execFence o s
  | .ldacq w o => Sys2Proof.Machine.execLdacq w o s
  | .strel w o => Sys2Proof.Machine.execStrel w o s
  | .tryOpen o => Sys2Proof.Machine.execTryOpen o s
  | .commit o => Sys2Proof.Machine.execCommit o s
  | .abort o => Sys2Proof.Machine.execAbort o s
  | .wait o => Sys2Proof.Machine.execWait o s
  | .cctlInv o => Sys2Proof.Machine.execCctlInv o s
  | .cctlWb o => Sys2Proof.Machine.execCctlWb o s
  | .cctlWbinv o => Sys2Proof.Machine.execCctlWbinv o s
  | .tcopyLd o => Sys2Proof.Machine.execTcopyLd o s
  | .tcopySt o => Sys2Proof.Machine.execTcopySt o s
  | .scopy o => Sys2Proof.Machine.execScopy o s
  | .mcast o => Sys2Proof.Machine.execMcast o s
  | .chain o => Sys2Proof.Machine.execChain o s
  | .qinit o => Sys2Proof.Machine.execQinit o s
  | .qpush o => Sys2Proof.Machine.execQpush o s
  | .qpop o => Sys2Proof.Machine.execQpop o s
  | .tagany o => Sys2Proof.Machine.execTagany o s
  | .tagall o => Sys2Proof.Machine.execTagall o s
  | .tagff o => Sys2Proof.Machine.execTagff o s
  | .tagclr o => Sys2Proof.Machine.execTagclr o s
  | .accz o => Sys2Proof.Machine.execAccz o s
  | .accmvV o => Sys2Proof.Machine.execAccmvV o s
  | .accmvA o => Sys2Proof.Machine.execAccmvA o s
  | .accst o => Sys2Proof.Machine.execAccst o s
  | .tmac o => Sys2Proof.Machine.execTmac o s
  | .txpose o => Sys2Proof.Machine.execTxpose o s
  | .mma shape ty o => Sys2Proof.Machine.execMma shape ty o s
  | .mmloop shape ty o => Sys2Proof.Machine.execMmloop shape ty o s
  | .trap o => Sys2Proof.Machine.execTrap o s
  | .rtt o => Sys2Proof.Machine.execRtt o s
  | .srd reg o => Sys2Proof.Machine.execSrd reg o s
  | .swr reg o => Sys2Proof.Machine.execSwr reg o s
  | .vbegin o => Sys2Proof.Machine.execVbegin o s
  | .vend o => Sys2Proof.Machine.execVend o s
  | .bkpt o => Sys2Proof.Machine.execBkpt o s
  | .wpset o => Sys2Proof.Machine.execWpset o s
  | .halta o => Sys2Proof.Machine.execHalta o s
  | .dumpw o => Sys2Proof.Machine.execDumpw o s
  | .tlbinv o => Sys2Proof.Machine.execTlbinv o s
  | .interest o => Sys2Proof.Machine.execInterest o s
  | .announce o => Sys2Proof.Machine.execAnnounce o s
  | .leasereq o => Sys2Proof.Machine.execLeasereq o s
  | .leaseret o => Sys2Proof.Machine.execLeaseret o s
  | .signal o => Sys2Proof.Machine.execSignal o s
  | .sigwait o => Sys2Proof.Machine.execSigwait o s
  | .xscale o => Sys2Proof.Machine.execXscale o s
  | .xsum o => Sys2Proof.Machine.execXsum o s
  | .xfin o => Sys2Proof.Machine.execXfin o s
  | .evpost o => Sys2Proof.Machine.execEvpost o s
  | .digest o => Sys2Proof.Machine.execDigest o s
  | .versionIrrevocable k => Sys2Proof.Machine.execVersionIrrevocable k s
  | .deferredTrap k => Sys2Proof.Machine.execDeferredTrap k s
  | .loadComplete id => Sys2Proof.Machine.execLoadComplete id s
  | .storeComplete id => Sys2Proof.Machine.execStoreComplete id s
  | .atomicComplete id => Sys2Proof.Machine.execAtomicComplete id s
  | .engineCommandComplete id => Sys2Proof.Machine.execEngineCommandComplete id s
  | .queuePushPerform id => Sys2Proof.Machine.execQueuePushPerform id s
  | .queuePopPerform id => Sys2Proof.Machine.execQueuePopPerform id s
  | .matrixStep cid => Sys2Proof.Machine.execMatrixStep cid s
  | .txposeGroup cid => Sys2Proof.Machine.execTxposeGroup cid s
  | .l1Eviction cid line => Sys2Proof.Machine.execL1Eviction cid line s
  | .launchCommand pkt => Sys2Proof.Machine.execLaunchCommand pkt s
  | .placementAttempt => Sys2Proof.Machine.execPlacementAttempt s
  | .unitBlocking launch unit => Sys2Proof.Machine.execUnitBlocking launch unit s
  | .resourceReport die => Sys2Proof.Machine.execResourceReport die s
  | .coreLaunchReport cid launch => Sys2Proof.Machine.execCoreLaunchReport cid launch s
  | .dealChunk launch => Sys2Proof.Machine.execDealChunk launch s
  | .warpUrgent k => Sys2Proof.Machine.execWarpUrgent k s
  | .pollBackoffEnd k => Sys2Proof.Machine.execPollBackoffEnd k s
  | .yieldTimeout k => Sys2Proof.Machine.execYieldTimeout k s
  | .preemptRequest target dl => Sys2Proof.Machine.execPreemptRequest target dl s
  | .drainDeadline blk => Sys2Proof.Machine.execDrainDeadline blk s
  | .blockSave blk => Sys2Proof.Machine.execBlockSave blk s
  | .pinWrite idx val => Sys2Proof.Machine.execPinWrite idx val s
  | .pinActivate idx => Sys2Proof.Machine.execPinActivate idx s
  | .pinRelease idx => Sys2Proof.Machine.execPinRelease idx s
  | .migrationStart link slot src dst => Sys2Proof.Machine.execMigrationStart link slot src dst s
  | .migrationChunkCopy link slot => Sys2Proof.Machine.execMigrationChunkCopy link slot s
  | .migrationRelease link slot => Sys2Proof.Machine.execMigrationRelease link slot s
  | .scrubLine link ecc tag => Sys2Proof.Machine.execScrubLine link ecc tag s
  | .sampleRow => Sys2Proof.Machine.execSampleRow s
  | .traceTag cid sub interval => Sys2Proof.Machine.execTraceTag cid sub interval s
  | .traceRow cid sub stages => Sys2Proof.Machine.execTraceRow cid sub stages s
  | .dbgHalt cmd => Sys2Proof.Machine.execDbgHalt cmd s
  | .dbgResume cmd => Sys2Proof.Machine.execDbgResume cmd s
  | .dbgResumePc cmd => Sys2Proof.Machine.execDbgResumePc cmd s
  | .dbgHaltCtx cmd => Sys2Proof.Machine.execDbgHaltCtx cmd s
  | .dbgResumeCtx cmd => Sys2Proof.Machine.execDbgResumeCtx cmd s
  | .dbgRefused cmd => Sys2Proof.Machine.execDbgRefused cmd s
  | .readShared src ia req => Sys2Proof.Machine.execReadShared src ia req s
  | .readExclusive src ia req => Sys2Proof.Machine.execReadExclusive src ia req s
  | .writeBack src ia mask marks data => Sys2Proof.Machine.execWriteBack src ia mask marks data s
  | .invalidatePkt dev ia => Sys2Proof.Machine.execInvalidatePkt dev ia s
  | .recallPkt dev ia keep => Sys2Proof.Machine.execRecallPkt dev ia keep s
  | .atomicPkt src pkt => Sys2Proof.Machine.execAtomicPkt src pkt s
  | .responsePkt src rsp => Sys2Proof.Machine.execResponsePkt src rsp s
  | .sackPkt flow base cum map => Sys2Proof.Machine.execSackPkt flow base cum map s
  | .sackDue flow => Sys2Proof.Machine.execSackDue flow s
  | .packetReserved kind => Sys2Proof.Machine.execPacketReserved kind s
  | .retransmitTimeout flow seq => Sys2Proof.Machine.execRetransmitTimeout flow seq s
  | .peerUnreachable flow => Sys2Proof.Machine.execPeerUnreachable flow s
  | .portFailure port => Sys2Proof.Machine.execPortFailure port s
  | .portReady port => Sys2Proof.Machine.execPortReady port s
  | .flitGroup port slot seq tagOk flow pseq => Sys2Proof.Machine.execFlitGroup port slot seq tagOk flow pseq s
  | .linkNak port seq => Sys2Proof.Machine.execLinkNak port seq s
  | .keyRotate port => Sys2Proof.Machine.execKeyRotate port s
  | .keySlotClear port => Sys2Proof.Machine.execKeySlotClear port s
  | .postPkt rec_ atime => Sys2Proof.Machine.execPostPkt rec_ atime s
  | .harpTick => Sys2Proof.Machine.execHarpTick s
  | .harpLoss did => Sys2Proof.Machine.execHarpLoss did s
  | .eventPkt rec_ => Sys2Proof.Machine.execEventPkt rec_ s
  | .resendPkt src seqs => Sys2Proof.Machine.execResendPkt src seqs s
  | .missingEventTimeout => Sys2Proof.Machine.execMissingEventTimeout s
  | .applySubmit => Sys2Proof.Machine.execApplySubmit s
  | .applyFinish => Sys2Proof.Machine.execApplyFinish s
  | .applyBlock => Sys2Proof.Machine.execApplyBlock s
  | .applyUnblock => Sys2Proof.Machine.execApplyUnblock s
  | .applyFault => Sys2Proof.Machine.execApplyFault s
  | .applyLoss => Sys2Proof.Machine.execApplyLoss s
  | .applyJoin => Sys2Proof.Machine.execApplyJoin s
  | .applyReserve => Sys2Proof.Machine.execApplyReserve s
  | .applyGrant => Sys2Proof.Machine.execApplyGrant s
  | .applyReclaim => Sys2Proof.Machine.execApplyReclaim s
  | .applyReturn => Sys2Proof.Machine.execApplyReturn s
  | .applyDone => Sys2Proof.Machine.execApplyDone s
  | .applyRevoke => Sys2Proof.Machine.execApplyRevoke s
  | .applyTick => Sys2Proof.Machine.execApplyTick s
  | .applyUser => Sys2Proof.Machine.execApplyUser s
  | .applyReservedEvent => Sys2Proof.Machine.execApplyReservedEvent s
  | .reportPkt src seq dig => Sys2Proof.Machine.execReportPkt src seq dig s
  | .snapreq src s0 => Sys2Proof.Machine.execSnapreq src s0 s
  | .snapPkt src snap => Sys2Proof.Machine.execSnapPkt src snap s
  | .lyreReady => Sys2Proof.Machine.execLyreReady s
  | .leasereqPacket src tag bound npages term fbtab bbase => Sys2Proof.Machine.execLeasereqPacket src tag bound npages term fbtab bbase s
  | .leasenak tag => Sys2Proof.Machine.execLeasenak tag s
  | .leaseFillChunk lid => Sys2Proof.Machine.execLeaseFillChunk lid s
  | .leaseCopybackChunk lid dirty => Sys2Proof.Machine.execLeaseCopybackChunk lid dirty s
  | .leaseDeadline lid => Sys2Proof.Machine.execLeaseDeadline lid s
  | .interestPacket src name size deadline => Sys2Proof.Machine.execInterestPacket src name size deadline s
  | .tilePkt src name size idx marks data => Sys2Proof.Machine.execTilePkt src name size idx marks data s
  | .interestRetry id => Sys2Proof.Machine.execInterestRetry id s
  | .waiterExpiry id => Sys2Proof.Machine.execWaiterExpiry id s
  | .notifyPkt ia k => Sys2Proof.Machine.execNotifyPkt ia k s
  | .ctxCreate w0 => Sys2Proof.Machine.execCtxCreate w0 s
  | .ctxDestroy w0 => Sys2Proof.Machine.execCtxDestroy w0 s
  | .keyInstall ctx => Sys2Proof.Machine.execKeyInstall ctx s
  | .resetRelease ed25519 mldsa65 => Sys2Proof.Machine.execResetRelease ed25519 mldsa65 s
  | .startCheck => Sys2Proof.Machine.execStartCheck s
  | .functionReady fn => Sys2Proof.Machine.execFunctionReady fn s
  | .functionFail fn => Sys2Proof.Machine.execFunctionFail fn s
  | .functionDisable fn => Sys2Proof.Machine.execFunctionDisable fn s
  | .functionEnable fn fails => Sys2Proof.Machine.execFunctionEnable fn fails s
  | .powerAverage watts => Sys2Proof.Machine.execPowerAverage watts s
  | .thermalReset => Sys2Proof.Machine.execThermalReset s
  | .registerWrite reg val => Sys2Proof.Machine.execRegisterWrite reg val s
  | .pollAttemptResolved k => Sys2Proof.Machine.execPollAttemptResolved k s
  | .sigwaitReadResult k => Sys2Proof.Machine.execSigwaitReadResult k s

end Sys2Proof.Machine
end

