-- ==== Sys2Proof/Machine/Acts.lean ====
section
/-! DEFINITION. What the machine does next (R156, R293, R442): one act of the agenda, or, when it is empty, one issue of the
warp at hand and one clock. -/

namespace Sys2Proof.Machine

abbrev Answer := Host.Outcome State Fault Refusal

/-- An answer's next state changed further. -/
def andThen (f : State → State) : Answer → Answer
  | .next s => .next (f s)
  | .fault e => .fault e
  | .refused e => .refused e

/-- A word that does not decode traps (R35); else the instruction that it and its literal are is executed. -/
def State.runDecoded (s : State) (x lit : Word) (f : State → Instr → Answer) : Answer :=
  let pc := s.w.pc
  match decodeWord s.env x lit with
  | .ok i => f s i
  | .illegal e => .next (s.trapNow { cls := clsIllegal, cause := e.code, addr := pc } pc)
  | .align e => .next (s.trapNow { cls := clsAlign, cause := e, addr := if e = 5 then pc else 0 } pc)
  | .short => .next s

/-- What is done with an instruction that has been fetched and decoded. -/
abbrev Issuer := State → Instr → Answer

/-- The word at the pc fetched and decoded, and the instruction handed on (R293, item 3 on). The traps that the first word of an L
form meets at decode come before its literal word is read (R11, R20); that word's own traps are taken at the instruction
(R439). -/
def State.runWord (s : State) (go : Issuer) : Answer :=
  let w := s.w
  match s.fetchWord w.ctx w.pc with
  | .wait s1 => .next s1
  | .trap t s1 => .next (s1.trapNow t w.pc)
  | .word x s1 =>
    s1.runDecoded x 0 fun s2 i =>
      if i.words = 2 then
        match s2.fetchWord w.ctx (w.pc + 8) with
        | .wait s3 => .next s3
        | .trap t s3 => .next (s3.trapNow (if t.cls = clsPoison then { t with addr := w.pc } else t) w.pc)
        | .word lit s3 => s3.runDecoded x lit go
      else go s2 i

/-- The warp at a boundary: a pending halt, a pending trap, a header to be read again or entered, or an instruction. A block that is
being saved issues none (R309). -/
def State.runHead (s : State) (go : Issuer) : Answer :=
  let w := s.w
  if w.ueHalt then .next ((s.setW { w with ueHalt := false }).takeTrap { cls := clsUncorr, cause := 2 } w.pc)
  else if !w.deferred.isEmpty then .next s.takeDeferred
  else if (s.block w.blk).pre = .save then .next s
  else if w.atEntry then .next s.enterFall
  else s.runWord go

/-- The warp at hand goes on, if nothing holds it; headers that it has to read again after a restore come first (R105). -/
def State.tryIssue (s : State) (go : Issuer) : Answer :=
  let w := s.w
  if w.status ≠ .run ∨ (s.core s.cid).dead then .next s
  else if w.reread then .next s.rereadHeaders
  else match w.wait with
    | .none => s.runHead go
    | .backoff u => if u ≤ s.clk then (s.freeWarp s.cur).runHead go else .next s
    | .yield y u => if s.yieldOver y u then (s.freeWarp s.cur).runHead go else .next s
    | .aborting code stop h => .next (if s.quiet s.cur then s.finishAbort code stop h else s)
    | .halta _ _ _ => .next s.endHalta
    | .dumpw _ _ _ _ => .next (s.runDumpw s.cur)
    | _ => .next s

/-! ## Which warp issues (R155, R156) -/

/-- How many instructions the device has issued (R327). -/
def State.issueCount (s : State) : Nat := look 0 s.smp.cnt 2

/-- Whether warp `k`, left alone, would issue an instruction in this clock, given a test of the pipe that it needs. -/
def State.couldIssue (s : State) (k : Nat) (pipe : Core → (sub clk op : Nat) → Bool) : Bool :=
  match ({ s with cur := k }).tryIssue fun t i =>
      if pipe (t.core (cidOf k)) (widOf k / 16) t.clk (Instr.op i) then exec i t else .next t with
  | .next t => decide (s.issueCount < t.issueCount)
  | _ => false

/-- Ready, R156: the instruction's own conditions hold, the warp is not held, and the pipe accepts an instruction. -/
def State.warpReady (s : State) (k : Nat) : Bool := s.couldIssue k Core.pipeAccepts

/-- The other running warps of a warp's sub-core that have not issued in this clock. -/
def State.rivals (s : State) (k : Nat) : List (Nat × Warp) :=
  s.warps.filter fun e => decide (e.1 < 2 ^ 20) && decide (e.1 / 16 = k / 16) && decide (e.1 ≠ k) && decide (e.2.status = .run) &&
    decide (e.2.lastIssue ≠ s.clk)

/-- The order in which the slots of a clock are filled: urgent warps, then by priority, then the one that issued least recently, then
the lower WID. -/
def Warp.before (k : Nat) (w : Warp) (j : Nat) (v : Warp) : Bool :=
  if w.urgent ≠ v.urgent then w.urgent
  else if w.prio ≠ v.prio then decide (v.prio < w.prio)
  else if w.lastIssue ≠ v.lastIssue then decide (w.lastIssue < v.lastIssue)
  else decide (k < j)

/-- Whether a slot and pipe of this clock are for an instruction of warp `k`: it has issued none in this clock, one is free, and no
ready warp that could take one comes first. -/
def State.hasTurn (s : State) (k op : Nat) : Bool :=
  decide ((s.warp k).lastIssue ≠ s.clk) && ((s.core (cidOf k)).pipeFree (widOf k / 16) s.clk op).isSome &&
    !((s.rivals k).any fun e => Warp.before e.1 e.2 k (s.warp k) && s.couldIssue e.1 fun c sub clk o => (c.pipeFree sub clk o).isSome)

/-- What YIELD finds of the other warps of its sub-core: those that are ready in this clock and have not issued (R175). -/
def State.noteReady (s : State) (i : Instr) : State :=
  match i with
  | .yield _ => { s with readyNow := ((s.rivals s.cur).map (·.1)).filter s.warpReady }
  | _ => s

/-- The instruction of the warp at hand is executed, if it is its turn. -/
def issueNow : Issuer := fun s i => if s.hasTurn s.cur (Instr.op i) then exec i (s.noteReady i) else .next s

/-- The end of some clocks, of which all but the first pass without an issue: the barriers' part (R173), and the warps that were not
ready, from whose readiness on a wait of 32 clocks is counted (R156). -/
def State.clockEnd (s : State) (n : Nat) : State :=
  let idle := (s.warps.filter fun e => decide (e.1 < 2 ^ 20) && decide (e.2.status = .run) && decide (e.2.lastIssue ≠ s.clk) &&
    !s.warpReady e.1).map (·.1)
  let s1 := { s.clockBars with clk := s.clk + n }
  let s2 := idle.foldl (fun (t : State) k => t.putWarp k { t.warp k with ready0 := t.clk }) s1
  s2.warps.foldl (fun (t : State) e => if e.1 < 2 ^ 20 then t.makeUrgent e.1 else t) s2

/-! ## Acts of the surroundings -/

/-- A DDR sector whose bits can no longer be corrected: it reads as poison, and its link logs it (R189). -/
def State.decay (s : State) (key : Nat) : State :=
  let a := 16 * key
  if Config.links ≤ a / 2 ^ 56 then s
  else ((s.putDdrSector anyKey key (zeroSector .uncorrectable)).count 0x13).logScrub (a / 2 ^ 56) 3 (key % 8) (a % 2 ^ 56 / 128)

/-- A line that its home slice writes back and drops. A line locked by a pin and one that a command owns stay (R188, R250). -/
def State.evictL2 (s : State) (line : Nat) : State :=
  if (s.l2Line line).lock || s.cmdOwns line then s else s.dropL2 line

/-- A link's TLB takes the entry of a page as its table holds it now, if it has room, or drops it (R196). -/
def State.tlbFill (s : State) (t page : Nat) : State :=
  if linkOf page = t ∧ s.linkReady t ∧ (s.link t).tlb.length < Config.tlbEntries then
    { s with links := put {} s.links t { s.link t with tlb := put none (s.link t).tlb page (some (s.pteTable page)) } }
  else s
def State.tlbDrop (s : State) (t page : Nat) : State :=
  { s with links := put {} s.links t { s.link t with tlb := put none (s.link t).tlb page none } }

/-- Whether a line of a core of a link's own die is idle: a scratchpad line in no region and no pin, or an instruction-cache line,
for which the numbers from 32,768 on stand (R188, R196). -/
def State.idleLine (s : State) (t place : Nat) : Bool :=
  let cid := place / 2 ^ 20
  let line := place % 2 ^ 20
  decide (cid / Config.coresPerDie = t / (Config.links / (Config.cores / Config.coresPerDie))) && decide (cid < Config.cores) &&
    (decide (Config.spadLines ≤ line) ||
      (!((s.core cid).regions.any fun r => decide (r.base ≤ line) && decide (line < r.base + r.lines)) &&
        !(decide (16384 ≤ line) && s.pins.any fun e => e.2.v && !e.2.kind && decide (e.2.tgt = cid))))

/-- A TLB entry moves to a borrowed line of a core of the link's own die, which holds 16 (R196). -/
def State.tlbVictim (s : State) (t page place : Nat) : State :=
  let l := s.link t
  let held := look [] l.victims place
  match look none l.tlb page with
  | none => s
  | some w =>
    if s.idleLine t place ∧ held.length < Config.victimPtes then
      { s with links := put {} s.links t { l with tlb := put none l.tlb page none, victims := put [] l.victims place (held ++ [(page, w)]) } }
    else s

/-- A host's write packet, performed at the home slice of its line; one that cannot be performed yet changes nothing of the
line and comes again (R393), and one that fails is logged, with VA 0, since the packet holds an IA (R198; log 92). -/
def State.hostWrite (s : State) (ia : Nat) (data : List Byte) : State :=
  match (s.recallL1s (ia / 128)).prepare .store ia with
  | (s1, .wait) => s1
  | (s1, .fail c) => s1.logFault ia 0 0 c
  | (s1, r) => s1.writeReady r ia noWarp ((data.take (128 - ia % 128)).zipIdx.map fun e => (ia % 128 + e.2, e.1))

/-- A datapath mismatch in a command: in the coming step of a matrix command, or in an element that it moves (R304). -/
def State.engineUpset (s : State) (id elem : Nat) (step : Bool) : State :=
  { s with cmds := s.cmds.map fun c => if c.id ≠ id then c
                                        else if step then { c with rerun := c.rerun + 1 }
                                        else { c with bad := elem :: c.bad } }

/-- What every act ends with: halts that follow from it, dumps and retirements (R172, R302, R346), launches that end (R148),
functions switched off (R434), prefetches on their way (R126), and what the home slices, the lease engine, the Lyre and the fabric
have to do at once. -/
def State.settled (s : State) : State :=
  let s1 := State.settle 256 (State.settle 256 s).haltDumps
  s1.endLaunches.closeDown.serveHome.servePrefs.leaseTodos.lyreTodos.sendPackets

/-- A constructor that stands for a step of the device and has no words. -/
def isEvent (e : Instr) : Bool := (encode e).isEmpty

/-- An event executed; an instruction word in its place does nothing. -/
def State.happens (s : State) (e : Instr) : Answer := if isEvent e then exec e s else .next s

/-- One act. -/
def State.act (s : State) : Act → Answer
  | .issue k => ({ s with cur := k }).tryIssue issueNow
  | .event e => s.happens e
  | .packet flow seq e => if (s.flow flow).holds seq then .next (s.receive flow seq) else (s.receive flow seq).happens e
  | .perform id lanes => .next (s.performOp id lanes)
  | .tick clocks ns => .next (if clocks = 0 then { s with atime := s.atime + ns } else { s.clockEnd clocks with atime := s.atime + ns })
  | .upset cause => .next (if 1 ≤ cause.toNat ∧ cause.toNat ≤ 3 then { s with upset := cause } else s)
  | .engineUpset id elem step => .next (s.engineUpset id elem step)
  | .decay key => .next (s.decay key)
  | .stateError k => .next (if (s.warp k).status = .run then s.putWarp k { s.warp k with ueHalt := true } else s)
  | .l2Evict line => .next (s.evictL2 line)
  | .tlbFill t page => .next (s.tlbFill t page)
  | .tlbDrop t page => .next (s.tlbDrop t page)
  | .tlbVictim t page place => .next (s.tlbVictim t page place)
  | .hostWrite ia data => .next (s.hostWrite ia data)

/-- The next step: the first act of the agenda; with none left, one issue and one clock. -/
def State.nextStep (s : State) : Answer :=
  match s.agenda with
  | a :: rest => andThen State.settled (State.act { s with agenda := rest } a)
  | [] => andThen (fun t => t.settled.clockEnd 1) (s.tryIssue issueNow)

/-! ## One word as the first instruction -/

/-- A header of `n` words that ends no path and clears nothing (R10). -/
def plainHeader (n : Nat) : Word := BitVec.ofNat 64 (0xF * 2 ^ 60 + n * 2 ^ 48 + 255 * 2 ^ 40)

/-- The context, the range, the link, the launch and the warp under which a word at VA 0x1008 is the next instruction: what
a launch of one warp leaves (R134, R190, R193, R195), in the clock after its placement, the first in which the warp can issue. -/
def State.firstWarp (s : State) : State :=
  let ctl : Word := 0xF0
  let pte : Word := BitVec.ofNat 64 (2 ^ 63 + 0xF * 2 ^ 37)
  let c : Ctx := { v := true, priv := true, rbase := [], rlim := [(0, 0x200000)], roff := [], rctl := [(0, ctl)] }
  let l : Link := { s.link 0 with table := BitVec.ofNat 64 (2 ^ 40 + 1) }
  let lv : Level := { ext := 1, dom := 0, scope := 1, prio := 0, spad := 0 }
  let la : Launch := { ctx := 1, entry := 0x1000, lanes := 32, bnd := 256, rows := 8192, levels := List.replicate 8 lv }
  let w : Warp := { status := .run, ctx := 1, launch := 1, blk := 1, exist := 0xFFFFFFFF, alive := 0xFFFFFFFF, rows := 8192
                    bnd := 256, exm := 0xFFFFFFFF, pc := 0x1008, hdr := 0x1000, hw := plainHeader 3
                    lastIssue := s.clk, ready0 := s.clk }
  ({ s with cur := 0, agenda := [], clk := s.clk + 1
            mgmt := { s.mgmt with ready := .link 0 :: s.mgmt.ready }
            links := put {} s.links 0 l, ctxs := put {} s.ctxs 1 c, launches := put {} s.launches 1 la
            blocks := put {} s.blocks 1 { launch := 1, live := true }
            warps := put {} s.warps 0 w }).putLinkWord (ddrKey 0 1 0) pte

/-- A word and the word after it placed at VA 0x1008 of a block that ends after them, or after the first where that must be
the last of its block; a header follows. -/
def State.placeWord (s : State) (w0 w1 : Word) : State :=
  let op := w0.toNat / 2 ^ 56
  let one := decide (op = 0x62) || decide (op = 0x63) || decide (op = 0x98)
  let h := plainHeader (if one then 2 else 3)
  let s1 := (((s.putLinkWord (ddrKey 0 0 0x1000) h).putLinkWord (ddrKey 0 0 0x1008) w0).putLinkWord (ddrKey 0 0 0x1010)
    (if one then plainHeader 2 else w1)).putLinkWord (ddrKey 0 0 0x1018) (plainHeader 2)
  s1.setW { s1.w with hw := h }

end Sys2Proof.Machine
end

