-- ==== Sys2Proof/Machine/Step.lean ====
section
/-! DEFINITION. One step, and the state in which a given word is the next instruction. -/

namespace Sys2Proof.Machine

def step (s : State) : Host.Outcome State Fault Refusal := s.nextStep

/-- The word of `nbits` bits, with the word after it (every bit above `nbits` zero), placed where step fetches next. -/
def State.withFetchWord (s : State) (nbits w : Nat) : State :=
  let x := w % 2 ^ nbits
  s.firstWarp.placeWord (BitVec.ofNat 64 x) (BitVec.ofNat 64 (x / 2 ^ 64))

end Sys2Proof.Machine
end

