-- ==== Sys2Proof/Machine/View.lean ====
section
/-! DEFINITION. What the registers of the management interface read (R188, R193, R201, R316, R320, R321, R324 to R326, R330,
R358, R391, R408, R431 to R437, R441). No step of the device reads them: a read has no effect, and its answer goes to the
manager. -/

namespace Sys2Proof.Machine

/-- The registers that the management interface reads: those that it writes, and the read-only ones. -/
inductive MgmtView where
  | reg (r : MgmtReg)
  | fready | cready | breason
  | pin (i : Nat) | msrc (link slot : Nat) | mdst (link slot : Nat)
  | scrubLog (link i j : Nat) | scrubLost (link : Nat) | engineLog (cid i j : Nat) | debugRing (cid i j : Nat)
  | prt | plive | lyrstat | smpwi | dbgst
deriving DecidableEq, Repr

/-- The word whose bit `i` is `f i`. -/
def wordOf (f : Nat → Bool) : Word := (List.range 64).foldr (fun i w => if f i then w ||| BitVec.twoPow 64 i else w) 0

/-- FREADY's bit (R431). -/
def State.freadyBit (s : State) (i : Nat) : Bool :=
  if 48 ≤ i then s.isReady (.port (i - 48))
  else if 24 ≤ i then s.isReady (.link (i - 24))
  else match i with
    | 5 => s.isReady .secp
    | 4 => s.isReady .lease
    | 3 => s.isReady .zith
    | 2 => s.isReady .lyre
    | 1 => s.isReady .dist
    | 0 => s.mgmt.minMode
    | _ => false

/-- CTXW0 to CTXW71 of a context; those from 1 to 68 read 0 while it is confidential (R435). -/
def Ctx.readWord (c : Ctx) (i : Nat) : Word :=
  if i = 0 then BitVec.ofNat 64
    (Bool.n c.v * 2 ^ 63 + Bool.n c.priv * 2 ^ 62 + Bool.n c.conf * 2 ^ 61 + Bool.n c.keyv * 2 ^ 60 + c.host % 2 ^ 18)
  else if c.conf then 0
  else if i ≤ 64 then
    let k := (i - 1) / 4
    match (i - 1) % 4 with
    | 0 => look 0 c.rbase k
    | 1 => look 0 c.rlim k
    | 2 => look 0 c.roff k
    | _ => look 0 c.rctl k
  else match i with
    | 65 => c.tvec
    | 66 => c.spool
    | 67 => c.spsz
    | 68 => c.nrbase
    | _ => 0

/-- The basic control register of a function (R434). -/
def Mgmt.control (m : Mgmt) (f : Function) : Word :=
  BitVec.ofNat 64 (Bool.n (!m.off.contains f) * 2 ^ 63 + ((m.fmode.find? fun e => decide (e.1 = f)).map (·.2)).getD 0 * 2 ^ 60)

/-- LYRSTAT (R391). -/
def Lyre.stat (l : Lyre) : Word :=
  BitVec.ofNat 64 (l.mode.code * 2 ^ 62 + l.reason * 2 ^ 58 + l.fences % 2 ^ 16 * 2 ^ 16 + l.nomaj % 2 ^ 16)

/-- A register that the management interface also writes. -/
def State.readReg (s : State) (r : MgmtReg) : Word :=
  match r with
  | .linkTable k => (s.link k).table
  | .scrubCtl k =>
    let l := s.link k
    BitVec.ofNat 64 (Bool.n l.scrubEn * 2 ^ 63 + l.scrubMode % 4 * 2 ^ 61 + l.gap % 2 ^ 32)
  | .smpctl => BitVec.ofNat 64 (Bool.n s.smp.en * 2 ^ 63 + s.smp.interval % 2 ^ 32)
  | .smpsel => s.smp.sel
  | .smpbase => s.smp.base
  | .smplen => BitVec.ofNat 64 s.smp.len
  | .smpri => BitVec.ofNat 64 s.smp.ri
  | .smpctx => BitVec.ofNat 64 s.smp.ctx
  | .tlog cid => BitVec.ofNat 64 (s.core cid).tlog
  | .dbgcmd => s.mgmt.dbgcmd
  | .dbgpc => s.mgmt.dbgpc
  | .lendwin => s.leng.win
  | .lyrcfg => s.mgmt.lyrcfg
  | .ctxsel => BitVec.ofNat 64 s.mgmt.ctxsel
  | .ctxw i => (s.ctx s.mgmt.ctxsel).readWord i
  | .fnMode f => s.mgmt.control f
  | .plimit => BitVec.ofNat 64 s.mgmt.plimit

/-- What a read of the management interface answers. A record's word `j` is read from its ring, record `i` from the newest. -/
def State.view (s : State) (v : MgmtView) : Word :=
  let ring (l : List (List Word)) (i j : Nat) : Word := ((l[i]?).getD [])[j]?.getD 0
  match v with
  | .reg r => s.readReg r
  | .fready => wordOf s.freadyBit
  | .cready => wordOf fun c => decide (c < Config.clusters) && s.isReady (.clus c)
  | .breason => s.mgmt.breason.setWidth 64
  | .pin i =>
    let p := s.pin i
    BitVec.ofNat 64 (Bool.n p.v * 2 ^ 63 + Bool.n p.kind * 2 ^ 62 + p.tgt % 2 ^ 8 * 2 ^ 54 + Bool.n p.pend * 2 ^ 53 + p.page % 2 ^ 35)
  | .msrc k n => let m := s.slot k n; BitVec.ofNat 64 (Bool.n m.busy * 2 ^ 63 + m.src % 2 ^ 35)
  | .mdst k n => let m := s.slot k n; BitVec.ofNat 64 (Bool.n m.err * 2 ^ 63 + m.next % 2 ^ 9 * 2 ^ 35 + m.dst % 2 ^ 35)
  | .scrubLog k i j => ring (s.link k).log i j
  | .scrubLost k => BitVec.ofNat 64 (s.link k).lost
  | .engineLog cid i j => ring (s.core cid).engLog i j
  | .debugRing cid i j => ring (s.core cid).dbgRing i j
  | .prt => s.prt
  | .plive => s.plive.setWidth 64
  | .lyrstat => s.lyre.stat
  | .smpwi => BitVec.ofNat 64 s.smp.wi
  | .dbgst => BitVec.ofNat 64 (Bool.n s.mgmt.dbgrun * 2 ^ 63 + s.mgmt.dbgst.toNat * 2 ^ 56)

end Sys2Proof.Machine
end

