-- ==== Sys2Proof/Safety.lean ====
section
/-! DEFINITION. What counts as a safe run, and the terms in which the claims speak: when an instruction's own effect is
reached, what it leaves as it was, and what its results are. -/

namespace Sys2Proof.Machine

/-! ## Safe runs -/

/-- A step answers a next state: neither a fault nor a refusal. -/
def Answers (x : Answer) : Prop := ∃ t, x = .next t

/-- A state from which every step so far planned answers a next state. -/
def SafeFor : Nat → State → Prop
  | 0, _ => True
  | n + 1, s => ∃ t, step s = .next t ∧ SafeFor n t

/-! ## Codes and places -/

/-- The opcodes that R36 leaves unassigned. -/
def unassigned (n : Nat) : Prop :=
  n = 0 ∨ (0x0B ≤ n ∧ n ≤ 0x2F) ∨ (0x37 ≤ n ∧ n ≤ 0x3F) ∨ n = 0x4F ∨ n = 0x5F ∨ (0x68 ≤ n ∧ n ≤ 0x6F) ∨
    (0x78 ≤ n ∧ n ≤ 0x7F) ∨ (0x8E ≤ n ∧ n ≤ 0x8F) ∨ (0x9D ≤ n ∧ n ≤ 0x9F) ∨ (0xB8 ≤ n ∧ n ≤ 0xBF) ∨
    (0xCB ≤ n ∧ n ≤ 0xCF) ∨ (0xDB ≤ n ∧ n ≤ 0xDF) ∨ (0xE0 ≤ n ∧ n ≤ 0xEF)

/-- The warp at hand stands at word `x` of a block, with nothing pending and nothing that holds it; `lit` is the word after
it where the form has two; `t` is the state in which they have been fetched. -/
structure AtWord (s : State) (x lit : Word) (t : State) : Prop where
  run : s.w.status = .run
  core : (s.core s.cid).dead = false
  reread : s.w.reread = false
  wait : s.w.wait = .none
  ue : s.w.ueHalt = false
  deferred : s.w.deferred = []
  pre : (s.block s.w.blk).pre ≠ .save
  inside : s.w.atEntry = false
  words : ∃ u, s.fetchWord s.w.ctx s.w.pc = .word x u ∧
    if x.extractLsb' 56 8 = 0x0A then u.fetchWord s.w.ctx (s.w.pc + 8) = .word lit t else lit = 0 ∧ t = u

/-- An s register as a write leaves it: a poisoned one holds zero (R8). -/
def SEl.held (e : SEl) : SEl := if e.psn then { psn := true } else e

/-! ## Reaching the effect (R293) -/

/-- Nothing comes before the effect of an instruction of the warp at hand: the word is accepted where it stands, no
HALT-REQUEST waits outside a handler, and no mismatch is pending (R293). -/
def Runs (i : Instr) (s : State) : Prop :=
  checkInstr s.env (i.words == 2) false i = .ok i ∧ (s.w.haltReq && !s.w.inh) = false ∧ s.upset = 0

/-- The lanes that write: the predicate holds, or is poisoned (R16). -/
def Warp.writers (w : Warp) (pr : Pred) : W32 := w.holds pr ||| w.psnd pr

/-- The registers that an instruction names are free of pending rows, and those it writes of pending elements (R204, R262). -/
def FreeFor (i : Instr) (s : State) (pr : Pred) (d : Opnd) (n : Nat) : Prop :=
  s.w.writers pr = 0 ∨ s.operandsFree i [d] n (s.w.writers pr) = true

/-- No lane has a poisoned predicate, and some lane participates (R16, R160). -/
def Takes (s : State) (pr : Pred) : Prop := s.w.psnd pr = 0 ∧ s.w.holds pr ≠ 0

/-! ## What stays as it was -/

/-- The bookkeeping of an issue (R156, R175, R323, R341). -/
def Warp.noted (w : Warp) (clk : Nat) : Warp :=
  { w with lastIssue := clk, issues := w.issues + 1, urgent := false
           skipWp := w.skipWp && decide (w.skipPc ≠ w.pc), skipBk := w.skipBk && decide (w.skipPc ≠ w.pc) }

/-- Everything but the warp at hand is as it was in `s`: the other warps, the cores but for the issue slots of the clock and the
tracer's count of issues, memory, caches, scratchpads, tags, contexts and special registers, and what is outstanding; the sampler counts on. -/
structure Kept (s t : State) : Prop where
  others : ∀ k, k ≠ s.cur → t.warp k = s.warp k
  cores : ∀ c, t.core c = { s.core c with
    tagLeft := (t.core c).tagLeft, tagged := (t.core c).tagged, slots := (t.core c).slots }
  rest : t = { s with warps := t.warps, cores := t.cores, smp := { s.smp with cnt := t.smp.cnt } }

/-- The warp at hand differs by registers, flags, the origin record and the bookkeeping of an issue at most: its masks, its
place, its stacks and its special registers are as they were. -/
def SameWarp (s t : State) : Prop :=
  t.w = { s.w.noted s.clk with v := t.w.v, s := t.w.s, p := t.w.p, flg := t.w.flg, origin := t.w.origin
                               originA := t.w.originA, ucSticky := t.w.ucSticky }

/-! ## An instruction's own effect -/

/-- An instruction has its effect and goes on behind itself: before it goes on, its warp is `w` and everything else is as
`u` has it, but for the bookkeeping of the issue. -/
def Goes (i : Instr) (s u : State) (w : Warp) : Prop :=
  ∃ t, exec i s = .next (t.advance i.words) ∧ Kept u t ∧ t.w = w

/-- The warp at hand as an issue leaves it. -/
def State.w1 (s : State) : Warp := s.w.noted s.clk

/-- No lane's predicate is poisoned, and no operand is in a lane that takes part (R16, R294). -/
def Clean (s : State) (pr : Pred) (ops : List (Opnd × Nat)) : Prop :=
  s.w.psnd pr = 0 ∧ s.w.anyPoison ops (s.w.holds pr) = false

/-- An instruction that acts once for its warp (R160, R271) reaches its effect: nothing comes before it, no operand is
poisoned, some lane participates. -/
def Acts (i : Instr) (s : State) (pr : Pred) (ops : List (Opnd × Nat)) : Prop :=
  Runs i s ∧ Clean s pr ops ∧ s.w.holds pr ≠ 0

/-- No watchpoint of the warp is enabled, or the instruction runs without the check (R322, R323, R325). -/
def Warp.unwatched (w : Warp) : Prop := (w.skipWp = true ∧ w.skipPc = w.pc) ∨ ∀ k, k < 4 → (look {} w.wp k).ctl.getLsbD 7 = false

/-- A status written to predicate `k` in the lanes of a mask (R159); p7 keeps reading 1, and every other element is as it
was. -/
def StatusIs (w u : Warp) (k : BitVec 8) (m : W32) (x : Bool) : Prop :=
  u = { w with p := u.p } ∧
    ∀ j l, l < 32 → u.p1 j l = if j = k.toNat ∧ j ≠ 7 ∧ m.getLsbD l = true then { val := x } else w.p1 j l

/-- A value written by an instruction that acts once to an s register, or to a v register in the lanes of a mask. -/
def WideIs (w u : Warp) (d : Opnd) (m : W32) (n : Nat) : Prop :=
  (∀ k, d = .s k → u = { w with s := u.s } ∧ ∀ j, u.s1 j = if j = k.toNat then { val := BitVec.ofNat 64 n } else w.s1 j) ∧
  (∀ k, d = .v k → u = { w with v := u.v } ∧ ∀ row l, l < 32 → u.v1 row l =
    if row = k.toNat ∧ m.getLsbD l = true then { val := BitVec.ofNat 32 n } else w.v1 row l)

/-- The elements of `n` registers from a destination are poisoned in the lanes of a mask, as pending elements read (R204);
of s registers `n` are, if the mask has a lane. Every other element is as it was. -/
def Pends (w u : Warp) (d : Opnd) (n : Nat) (m : W32) : Prop :=
  u = { w with v := u.v, s := u.s } ∧
  (∀ k, d = .v k → u.s = w.s ∧ ∀ row l, l < 32 → u.v1 row l =
    if k.toNat ≤ row ∧ row < k.toNat + n ∧ m.getLsbD l = true then { psn := true } else w.v1 row l) ∧
  (∀ k, d = .s k → u.v = w.v ∧ ∀ j, u.s1 j =
    if k.toNat ≤ j ∧ j < k.toNat + n ∧ m ≠ 0 then { psn := true } else w.s1 j)

/-! ## Results -/

/-- The element that a result leaves in the `j`-th register of its destination; a poisoned one holds zero (R8). -/
def Res.elem (r : Res) (j : Nat) : VEl :=
  if r.psn then { psn := true } else { val := BitVec.ofNat 32 (r.n >>> (32 * j)) }

/-- What a computed result changes in a warp (R8, R16, R59, R68): in a v destination of `n` registers each lane whose
predicate holds receives its result and each whose predicate is poisoned receives poison; in an s destination the result
of lane 0's computation is written once, extended to 64 bits, if the predicate holds in some lane; a p destination other
than p7 is written like a v destination. Every other register, and every other element, is as it was. -/
structure LaneResult (w u : Warp) (pr : Pred) (n : Nat) (d : Opnd) (ext : Nat → Nat) (f : Nat → Res) : Prop where
  toV : ∀ k, d = .v k → u.s = w.s ∧ u.p = w.p ∧ ∀ row l, l < 32 → u.v1 row l =
    if k.toNat ≤ row ∧ row < k.toNat + n then
      if (w.holds pr).getLsbD l then (f l).elem (row - k.toNat)
      else if (w.psnd pr).getLsbD l then { psn := true } else w.v1 row l
    else w.v1 row l
  toS : ∀ k, d = .s k → u.v = w.v ∧ u.p = w.p ∧ ∀ j, u.s1 j =
    if j = k.toNat ∧ w.writers pr ≠ 0 then
      if w.psnd pr ≠ 0 ∨ (f 0).psn then { psn := true } else { val := BitVec.ofNat 64 (ext (f 0).n) }
    else w.s1 j
  toP : ∀ k, d = .p k → u.v = w.v ∧ u.s = w.s ∧ ∀ j l, l < 32 → u.p1 j l =
    if j = k.toNat ∧ j ≠ 7 then
      if (w.holds pr).getLsbD l then
        (if (f l).psn then { psn := true } else { val := decide ((f l).n % 2 = 1) })
      else if (w.psnd pr).getLsbD l then { psn := true } else w.p1 j l
    else w.p1 j l
  flags : u.flg =
    if d.isS then (if w.psnd pr ≠ 0 ∨ w.holds pr = 0 then w.flg else w.flg ||| (f 0).flags)
    else (lanesOf (w.holds pr)).foldl (fun a l => a ||| (f l).flags) w.flg

/-- An instruction that only computes: it leaves its result and goes on behind itself. -/
def Computes (i : Instr) (s : State) (pr : Pred) (n : Nat) (d : Opnd) (ext : Nat → Nat) (f : Nat → Res) : Prop :=
  ∃ t, exec i s = .next (t.advance i.words) ∧ Kept s t ∧ SameWarp s t ∧ LaneResult s.w t.w pr n d ext f

/-! ## What the instructions compute

One row for each computing instruction: its predicate, its destination with the registers of an element, how an s
destination extends a result, the operands that it reads with their bits, and the value with its flags as a function of
SEED, the lane and what was read. -/

structure Row where
  pr   : Pred
  d    : Opnd
  n    : Nat := 1
  ext  : Nat → Nat := id
  srcs : List (Opnd × Nat) := []
  val  : Word → Nat → List Nat → Nat × BitVec 8

/-- The result of a row in a lane: poison if an operand is poisoned there (R16, R69, R89). -/
def Row.res (x : Row) (w : Warp) (l : Nat) : Res :=
  let vs := x.srcs.map fun e => w.read e.2 e.1 l
  if vs.any (·.psn) then { n := 0, psn := true }
  else let r := x.val w.seed l (vs.map (·.n)); { n := r.1, fl := r.2 }

/-- Operand `k` of those read. -/
def arg (xs : List Nat) (k : Nat) : Nat := nth 0 xs k

/-- A word's predicate and destination with an element of its type (R66, R67). -/
def typedRow (o : OpO) (srcs : List (Opnd × Nat)) (val : List Nat → Nat) : Row :=
  { pr := o.pr, d := o.d, n := if o.ty < 2 then 1 else 2, ext := extT o.ty, srcs := srcs, val := fun _ _ xs => (val xs, 0) }

/-- An exact integer of some operands of the type, wrapped or saturated (R67, R74). -/
def exactRow (o : OpO) (srcs : List Opnd) (f : Int → Int → Int → Int) : Row :=
  typedRow o (srcs.map fun x => (x, tyWidth o.ty)) fun xs =>
    let x := f (valT o.ty (arg xs 0)) (valT o.ty (arg xs 1)) (valT o.ty (arg xs 2))
    if o.sat then satT o.ty x else wrapT o.ty x

/-- The arithmetic instructions over exact integers (R74, R76, R77). -/
def exactInt : Instr → Option Row
  | .iadd o => some (exactRow o [o.a, o.b] fun a b _ => a + b)
  | .isub o => some (exactRow o [o.a, o.b] fun a b _ => a - b)
  | .imul o => some (exactRow o [o.a, o.b] fun a b _ => a * b)
  | .imad o => some (exactRow o [o.a, o.b, o.c] fun a b c => a * b + c)
  | .imin o => some (exactRow o [o.a, o.b] fun a b _ => min a b)
  | .imax o => some (exactRow o [o.a, o.b] fun a b _ => max a b)
  | .ineg o => some (exactRow o [o.a] fun a _ _ => -a)
  | .iabs o => some (exactRow o [o.a] fun a _ _ => max a (-a))
  | .sad o => some (exactRow o [o.a, o.b, o.c] fun a b c => c + max (a - b) (b - a))
  | .imulh o => some (exactRow o [o.a, o.b] fun a b _ => (a * b).fdiv (2 ^ tyWidth o.ty))
  | .idiv o => some (exactRow o [o.a, o.b] fun a b _ =>
      if b = 0 then (if a < 0 then loT o.ty else hiT o.ty) else a.tdiv b)
  | .irem o => some (exactRow o [o.a, o.b] fun a b _ => if b = 0 then a else a - b * a.tdiv b)
  | _ => none

/-- The bit patterns of W bits (R79): sums of powers of two over the bits that are set. -/
def fromBits (w : Nat) (f : Nat → Bool) : Nat := sumOf (fun i => if f i then 2 ^ i else 0) (List.range w)

/-- The bitwise and shift instructions (R79): AND to NOT and the shifts bit by bit, the counts as counts. -/
def bitRow : Instr → Option Row
  | .andB o => some (two o fun a b i => bit a i && bit b i)
  | .orB o => some (two o fun a b i => bit a i || bit b i)
  | .xorB o => some (two o fun a b i => bit a i != bit b i)
  | .andnB o => some (two o fun a b i => bit a i && !bit b i)
  | .notB o => some (typedRow o [(o.a, W o)] fun xs => fromBits (W o) fun i => !bit (arg xs 0) i)
  | .shl o => some (shift o fun a s => if W o ≤ s then 0 else a * 2 ^ s % 2 ^ W o)
  | .shr o => some (shift o fun a s => if W o ≤ s then 0 else a / 2 ^ s)
  | .sar o => some (shift o fun a s => fromBits (W o) fun i => bit a (min (i + s) (W o - 1)))
  | .rotl o => some (shift o fun a s => fromBits (W o) fun i => bit a ((i + (W o - s % W o)) % W o))
  | .brev o => some (typedRow o [(o.a, W o)] fun xs => fromBits (W o) fun i => bit (arg xs 0) (W o - 1 - i))
  | .fshl o => some (typedRow o [(o.a, W o), (o.b, W o), (o.c, 32)] fun xs =>
      (arg xs 0 * 2 ^ W o + arg xs 1) * 2 ^ (arg xs 2 % W o) / 2 ^ W o % 2 ^ W o)
  | .popc o => some (count o fun a => ((List.range (W o)).filter fun i => bit a i).length)
  | .clz o => some (count o fun a => ((List.range (W o)).filter fun i => decide (a < 2 ^ i)).length)
  | .ctz o => some (count o fun a => ((List.range (W o)).filter fun i => decide (a % 2 ^ (i + 1) = 0)).length)
  | _ => none
where
  W (o : OpO) : Nat := tyWidth o.ty
  two (o : OpO) (f : Nat → Nat → Nat → Bool) : Row :=
    typedRow o [(o.a, W o), (o.b, W o)] fun xs => fromBits (W o) (f (arg xs 0) (arg xs 1))
  shift (o : OpO) (f : Nat → Nat → Nat) : Row := typedRow o [(o.a, W o), (o.b, 32)] fun xs => f (arg xs 0) (arg xs 1)
  count (o : OpO) (f : Nat → Nat) : Row := { typedRow o [(o.a, W o)] fun xs => f (arg xs 0) with n := 1 }

/-- Byte i of a word, signed or not (R78). -/
def byteInt (signed : Bool) (x i : Nat) : Int := if signed then sext 8 (x / 256 ^ i) else ((x / 256 ^ i % 256 : Nat) : Int)

/-- IDOT4, BFX, BFI and PRMT (R78, R80, R81). -/
def fieldRow : Instr → Option Row
  | .idot4 o => some { typedRow o [(o.a, 32), (o.b, 32), (o.c, 32)] fun xs =>
      let term (i : Nat) : Int := byteInt (bit o.sub 0) (arg xs 0) i * byteInt (bit o.sub 1) (arg xs 1) i
      let x := valT o.ty (arg xs 2) + term 0 + term 1 + term 2 + term 3
      if o.sat then satT o.ty x else wrapT o.ty x with n := 1 }
  | .bfx o => some (typedRow o [(o.a, W o), (o.b, 32), (o.c, 32)] fun xs =>
      let p := min (arg xs 1) (W o)
      let n := min (arg xs 2) (W o - p)
      fromBits (W o) fun i =>
        if i < n then bit (arg xs 0) (p + i) else tySigned o.ty && decide (0 < n) && bit (arg xs 0) (p + n - 1))
  | .bfi o => some (typedRow o [(o.d, W o), (o.a, W o), (o.b, 32), (o.c, 32)] fun xs =>
      let p := min (arg xs 2) (W o)
      let n := min (arg xs 3) (W o - p)
      fromBits (W o) fun i => if p ≤ i ∧ i < p + n then bit (arg xs 1) (i - p) else bit (arg xs 0) i)
  | .prmt o => some { pr := o.pr, d := o.d, srcs := [(o.a, 32), (o.b, 32), (o.c, 32)], val := fun _ _ xs =>
      (fromBits 32 fun j =>
        let x := bits (arg xs 2) (3 * (j / 8) + 2) (3 * (j / 8))
        let k := if bit (arg xs 2) (16 + j / 8) then 7 - j % 8 else j % 8
        !bit (arg xs 2) (12 + j / 8) && (if x < 4 then bit (arg xs 0) (8 * x + k) else bit (arg xs 1) (8 * (x - 4) + k)), 0) }
  | _ => none
where
  W (o : OpO) : Nat := tyWidth o.ty

/-- The format I forms (R72). -/
def immRow : Instr → Option Row
  | .iaddI o => some (row o true [(o.a, b o)] fun xs m => arg xs 0 + m)
  | .movI o => some (row o true [] fun _ m => m)
  | .andI o => some (row o false [(o.a, b o)] fun xs m => arg xs 0 &&& m)
  | .orI o => some (row o false [(o.a, b o)] fun xs m => arg xs 0 ||| m)
  | .xorI o => some (row o false [(o.a, b o)] fun xs m => arg xs 0 ^^^ m)
  | .imulI o => some (row o true [(o.a, b o)] fun xs m => arg xs 0 * m)
  | _ => none
where
  b (o : OpI) : Nat := if o.d.isS then 64 else 32
  row (o : OpI) (signed : Bool) (srcs : List (Opnd × Nat)) (f : List Nat → Nat → Nat) : Row :=
    { pr := o.pr, d := o.d, srcs := srcs, val := fun _ _ xs =>
        (f xs (if signed then wrapN (b o) o.imm.toInt else o.imm.toNat) % 2 ^ b o, 0) }

/-- MOVL, MOV, PSET, ICMP and LEA (R73, R82, R84 to R86). -/
def moveRow : Instr → Option Row
  | .movl o lit => some (typedRow o [] fun _ => lit.toNat % 2 ^ tyWidth o.ty)
  | .mov o => some (typedRow o [(o.a, tyWidth o.ty)] fun xs => arg xs 0)
  | .pset o => some { pr := o.pr, d := o.d,
                      srcs := if o.sub ≤ 3 then [(o.a, 32), (o.b, 32)] else if o.sub = 4 then [(o.a, 32)] else [],
                      val := fun _ _ xs => (match o.sub with
                        | 0 => Bool.n (arg xs 0 == 1 && arg xs 1 == 1) | 1 => Bool.n (arg xs 0 == 1 || arg xs 1 == 1)
                        | 2 => Bool.n (arg xs 0 != arg xs 1) | 3 => Bool.n (arg xs 0 == 1 && arg xs 1 == 0)
                        | 4 => Bool.n (arg xs 0 == 0) | 5 => 1 | _ => 0, 0) }
  | .icmp o => some { pr := o.pr, d := o.d, srcs := [(o.a, tyWidth o.ty), (o.b, tyWidth o.ty)], val := fun _ _ xs =>
      let a := valT o.ty (arg xs 0)
      let b := valT o.ty (arg xs 1)
      (Bool.n (match o.sub with
        | 0 => decide (a = b) | 1 => decide (a ≠ b) | 2 => decide (a < b) | 3 => decide (a ≤ b) | 4 => decide (a > b)
        | _ => decide (a ≥ b)), 0) }
  | .lea o => some { pr := o.pr, d := o.d, n := 2, srcs := [(o.a, 64), (o.b, tyWidth o.ty)], val := fun _ _ xs =>
      (wrapN 64 ((arg xs 0 : Int) + valT o.ty (arg xs 1) * 2 ^ o.c.num), 0) }
  | _ => none

/-- IADDC in a lane (R75): a function of A + B + C, poison if one of the three is. -/
def sumOr (w : Warp) (o : OpO) (l : Nat) (f : Nat → Nat) : Res :=
  let a := w.read (tyWidth o.ty) o.a l
  let b := w.read (tyWidth o.ty) o.b l
  let c := w.read 32 o.c l
  if a.psn || b.psn || c.psn then { n := 0, psn := true } else { n := f (a.n + b.n + c.n) }

/-! ## Floating point (R87 to R101): exact values rounded once -/

/-- A row of the FP32 or FP64 format: the exact value of the operands' values rounded under a mode (R89, R90). -/
def fltRow (dbl : Bool) (o : OpO) (rm : Nat) (srcs : List Opnd) (f : List Num → Num × BitVec 8) : Row :=
  { pr := o.pr, d := o.d, n := if dbl then 2 else 1, srcs := srcs.map fun x => (x, if dbl then 64 else 32),
    val := fun seed l xs =>
      let r := f (xs.map (unpack (fmtD dbl)))
      let y := round (fmtD dbl) rm (draw seed l) r.1
      (y.1, r.2 ||| y.2) }

/-- The arithmetic and the special functions of one format (R90, R95). -/
def arithRow : Instr → Option Row
  | .fadd dbl o => some (fltRow dbl o o.sub [o.a, o.b] (on2 (addN o.sub)))
  | .fsub dbl o => some (fltRow dbl o o.sub [o.a, o.b] (on2 fun a b => addN o.sub a b.neg))
  | .fmul dbl o => some (fltRow dbl o o.sub [o.a, o.b] (on2 mulN))
  | .ffma dbl o => some (fltRow dbl o o.sub [o.a, o.b, o.c] (on3 (fmaN o.sub)))
  | .fdiv dbl o => some (fltRow dbl o o.sub [o.a, o.b] (on2 divN))
  | .fsqrt dbl o => some (fltRow dbl o o.sub [o.a] (on1 sqrtN))
  | .frcp o => some (fltRow false o o.sub [o.a] (on1 (divN (.fin false 1 0 false))))
  | .frsq o => some (fltRow false o 0 [o.a] (on1 rsqN))
  | .fexp2 o => some (fltRow false o 0 [o.a] (on1 exp2N))
  | .flog2 o => some (fltRow false o 0 [o.a] (on1 log2N))
  | .fsinpi o => some (fltRow false o 0 [o.a] (on1 sinpiN))
  | .fcospi o => some (fltRow false o 0 [o.a] (on1 cospiN))
  | _ => none

/-- One half of a packed result (R96). -/
def halfVal (o : OpO) (f : List Num → Num × BitVec 8) (seed : Word) (l h : Nat) (xs : List Nat) : Nat × BitVec 8 :=
  let c := if o.sat then 2 else 3
  let r := f (xs.map fun x => unpack c (x / 2 ^ (16 * h) % 2 ^ 16))
  let y := round c o.sub (draw seed (2 * l + h)) r.1
  (y.1, r.2 ||| y.2)

/-- Minimum, maximum, compares, classes, integral rounding, packed arithmetic and conversions (R91 to R98, R100). -/
def formatRow : Instr → Option Row
  | .fmin dbl o => some (two dbl o fun a b => minmaxN (fmtD dbl) (decide (o.sub = 1)) pickMin a b)
  | .fmax dbl o => some (two dbl o fun a b => minmaxN (fmtD dbl) (decide (o.sub = 1)) pickMax a b)
  | .fcmp dbl o => some { two dbl o (fun a b => (Bool.n (cond dbl o a b).1, (cond dbl o a b).2)) with n := 1 }
  | .fclass dbl o => some { pr := o.pr, d := o.d, srcs := [(o.a, if dbl then 64 else 32)], val := fun _ _ xs =>
      (2 ^ classF dbl (unpack (fmtD dbl) (arg xs 0)), 0) }
  | .frnd dbl o => some { pr := o.pr, d := o.d, n := if dbl then 2 else 1, srcs := [(o.a, if dbl then 64 else 32)],
                          val := fun _ _ xs => rnd dbl o (unpack (fmtD dbl) (arg xs 0)) }
  | .hadd2 o => some (half o [o.a, o.b] (on2 (addN o.sub)))
  | .hmul2 o => some (half o [o.a, o.b] (on2 mulN))
  | .hfma2 o => some (half o [o.a, o.b, o.c] (on3 (fmaN o.sub)))
  | .cvt dst src o => some { pr := o.pr, d := o.d, n := regsOfF dst.toNat, srcs := [(o.a, bitsOfF src.toNat)],
                             val := fun seed l xs => conv dst.toNat src.toNat o (draw seed l) (arg xs 0) }
  | .cvtq dst src o => some { pr := o.pr, d := o.d, n := regsOfF dst.toNat,
                              srcs := [(o.a, bitsOfF src.toNat), (o.b, 32)],
                              val := fun seed l xs => convq dst.toNat src.toNat o (draw seed l) (arg xs 1 % 256) (arg xs 0) }
  | _ => none
where
  conv (d f : Nat) (o : OpO) (draws x : Nat) : Nat × BitVec 8 :=
    (extF d (cvtN d o.sat o.sub draws (unpack f x)).1, (cvtN d o.sat o.sub draws (unpack f x)).2)
  convq (d f : Nat) (o : OpO) (draws scale x : Nat) : Nat × BitVec 8 := cvtqN d f o.sub draws scale (unpack f x)
  rnd (dbl : Bool) (o : OpO) (x : Num) : Nat × BitVec 8 :=
    ((round (fmtD dbl) 1 0 (rndInt o.sub x).1).1, x.sig ||| (if o.sat && (rndInt o.sub x).2 then fNX else 0))
  cond (dbl : Bool) (o : OpO) (a b : Nat) : Bool × BitVec 8 := condF o.sub (unpack (fmtD dbl) a) (unpack (fmtD dbl) b)
  two (dbl : Bool) (o : OpO) (f : Nat → Nat → Nat × BitVec 8) : Row :=
    { pr := o.pr, d := o.d, n := if dbl then 2 else 1,
      srcs := [(o.a, if dbl then 64 else 32), (o.b, if dbl then 64 else 32)], val := fun _ _ xs => f (arg xs 0) (arg xs 1) }
  half (o : OpO) (srcs : List Opnd) (f : List Num → Num × BitVec 8) : Row :=
    { pr := o.pr, d := o.d, srcs := srcs.map fun x => (x, 32), val := fun seed l xs =>
        let lo := halfVal o f seed l 0 xs
        let hi := halfVal o f seed l 1 xs
        (lo.1 + hi.1 * 2 ^ 16, lo.2 ||| hi.2) }

/-! ## Block scales and packing (R99, R101) -/

/-- The lanes of lane l's group of `g` lanes. -/
def packGroup (g l : Nat) : List Nat := (List.range 32).filter fun j => decide (j / g = l / g)

/-- What MXSCAN, PACK and UNPK leave in a lane, of the elements of A that the participating lanes hold. -/
structure Packed where
  o : OpO
  res : Warp → Nat → Res

def packRow : Instr → Option Packed
  | .mxscan o => some ⟨o, fun w _ =>
      let vs := (lanesOf (w.holds o.pr)).map fun j => w.read 32 o.a j
      if vs.any (·.psn) then { n := 0, psn := true }
      else { n := blockScale (if bit o.m.toNat 0 then 8 else 2) (vs.map fun x => unpack 1 x.n) }⟩
  | .pack6 o => some ⟨o, pack o 4 6⟩
  | .pack4 o => some ⟨o, pack o 8 4⟩
  | .unpk6 o => some ⟨o, unpk o 4 6⟩
  | .unpk4 o => some ⟨o, unpk o 8 4⟩
  | _ => none
where
  pack (o : OpO) (g b : Nat) (w : Warp) (l : Nat) : Res :=
    let js := (packGroup g l).filter fun j => (w.holds o.pr).getLsbD j
    if js.any fun j => (w.read 32 o.a j).psn then { n := 0, psn := true }
    else { n := sumOf (fun j => (w.read 32 o.a j).n % 2 ^ b * 2 ^ (b * (j % g))) js }
  unpk (o : OpO) (g b : Nat) (w : Warp) (l : Nat) : Res :=
    let x := w.read 32 o.a (l / g * g)
    if x.psn then { n := 0, psn := true } else { n := x.n / 2 ^ (b * (l % g)) % 2 ^ b }

/-! ## Across lanes (R160 to R169) -/

/-- A result D of `n` registers and, for some, a status C in each participating lane. -/
structure Cross where
  o   : OpO
  n   : Nat := 1
  toD : Warp → Nat → Res
  toC : Option (Warp → Nat → Res) := none

/-- The participating lanes of the tile of lane `l` (R160). -/
def Warp.inTile (w : Warp) (pr : Pred) (l : Nat) : List Nat :=
  (List.range 32).filter fun j => decide (j / w.tile = l / w.tile) && (w.holds pr).getLsbD j

/-- SHFL (R162): `pos` answers the position in the tile that a lane at position q of a tile of n lanes reads for B. -/
def shuffleRow (o : OpO) (pos : Nat → Nat → Nat → Option Nat) : Cross :=
  { o := o, n := if wide64 o then 2 else 1
    toD := fun w l =>
      let b := w.read 32 o.b l
      let x := w.read (if wide64 o then 64 else 32) o.a ((from_ w l).getD l)
      { n := x.n, psn := x.psn || b.psn }
    toC := some fun w l => { n := if (from_ w l).isSome then 1 else 0, psn := (w.read 32 o.b l).psn } }
where
  from_ (w : Warp) (l : Nat) : Option Nat :=
    match pos w.tile (l % w.tile) (w.read 32 o.b l).n with
    | some q => let j := l / w.tile * w.tile + q; if (w.holds o.pr).getLsbD j then some j else none
    | none => none

/-- The value of A in a lane, for SHFL, MATCH, REDUX and SCAN. -/
def laneA (o : OpO) (wide : Bool) (w : Warp) (j : Nat) : Val := w.read (if wide then 64 else 32) o.a j

/-- The participating lanes of the tile that hold what lane `l` holds, and whether one of the tile is poisoned (R164). -/
def equals (o : OpO) (w : Warp) (l : Nat) : List Nat :=
  (w.inTile o.pr l).filter fun j => decide ((laneA o (wide64 o) w j).n = (laneA o (wide64 o) w l).n)
def tilePsn (o : OpO) (wide : Bool) (w : Warp) (l : Nat) : Bool := (w.inTile o.pr l).any fun j => (laneA o wide w j).psn

/-- Shuffles, votes, matches, the election and the indices. -/
def crossRow : Instr → Option Cross
  | .shflFrom o => some (shuffleRow o fun n _ b => some (b % n))
  | .shflRot o => some (shuffleRow o fun n q b => some ((q + b) % n))
  | .shflShift o => some (shuffleRow o fun n q b =>
      if 0 ≤ (q : Int) + sext 32 b ∧ (q : Int) + sext 32 b < n then some ((q : Int) + sext 32 b).toNat else none)
  | .shflFlip o => some (shuffleRow o fun n q b => some (q ^^^ (b % n)))
  | .voteOr o => some (vote o fun xs => xs.contains true)
  | .voteAnd o => some (vote o fun xs => !xs.contains false)
  | .voteSame o => some (vote o fun xs => !(xs.contains true && xs.contains false))
  | .voteMask o => some
      { o := o
        toD := fun w l =>
          let js := if o.d.isS then lanesOf (w.holds o.pr) else w.inTile o.pr l
          let from_ := if o.d.isS then 0 else l / w.tile * w.tile
          { n := sumOf (fun j => if (w.p1 o.a.num j).val then 2 ^ (j - from_) else 0) js
            psn := js.any fun j => (w.p1 o.a.num j).psn } }
  | .matchPeers o => some
      { o := o, n := if wide64 o then 2 else 1, toD := fun w l => { n := sumOf (2 ^ ·) (equals o w l), psn := tilePsn o (wide64 o) w l }
        toC := some fun w l => { n := if equals o w l = w.inTile o.pr l then 1 else 0, psn := tilePsn o (wide64 o) w l } }
  | .matchLead o => some
      { o := o, n := if wide64 o then 2 else 1, toD := fun w l => { n := (equals o w l).headD l % w.tile, psn := tilePsn o (wide64 o) w l }
        toC := some fun w l => { n := if (equals o w l).headD l = l then 1 else 0, psn := tilePsn o (wide64 o) w l } }
  | .elect o => some { o := o, toD := fun w l => { n := if (w.inTile o.pr l).headD l = l then 1 else 0 } }
  | .exmget o => some { o := o, toD := fun w _ => { n := w.exm.toNat } }
  | .lvlid k o => some { o := o, toD := fun w _ => { n := look 0 w.lvl k.toNat } }
  | .lvlidLane o => some { o := o, toD := fun _ l => { n := l } }
  | _ => none
where
  vote (o : OpO) (f : List Bool → Bool) : Cross :=
    { o := o, toD := fun w l =>
        { n := if f ((w.inTile o.pr l).map fun j => (w.p1 o.a.num j).val) then 1 else 0
          psn := (w.inTile o.pr l).any fun j => (w.p1 o.a.num j).psn } }

/-- The integer that a reduction of some elements gives (R166): the wrapped sum, the least, the greatest, or the bits. -/
inductive Red where
  | add | min | max | and | or | xor
deriving DecidableEq, Repr

def Red.of (r : Red) (ty : Nat) : List Nat → Nat
  | [] => 0
  | x :: xs => match r with
    | .add => wrapT ty ((x :: xs).foldl (fun a y => a + valT ty y) 0)
    | .min => wrapT ty (xs.foldl (fun a y => Min.min a (valT ty y)) (valT ty x))
    | .max => wrapT ty (xs.foldl (fun a y => Max.max a (valT ty y)) (valT ty x))
    | .and => xs.foldl (· &&& ·) x
    | .or => xs.foldl (· ||| ·) x
    | .xor => xs.foldl (· ^^^ ·) x

/-- The floating sum, least or greatest over the fixed tree of the tile (R60, R166), by the operation on two elements. -/
def Red.flt : Red → RedOp
  | .add => redAdd
  | .min => redMin
  | _ => redMax

/-- What the lanes `js` of a tile give. -/
def Red.res (r : Red) (o : OpO) (w : Warp) (l : Nat) (on : Nat → Bool) : Res :=
  let js := (w.inTile o.pr l).filter on
  let ty := bits o.m.toNat 5 3
  if ty < 4 then
    { n := r.of ty (js.map fun j => (laneA o (decide (2 ≤ ty)) w j).n)
      psn := js.any fun j => (laneA o (decide (2 ≤ ty)) w j).psn }
  else combine o r.flt w (w.tileOf l) fun j => (w.holds o.pr).getLsbD j && on j

def reduceRow : Instr → Option Cross
  | .reduxAdd o => some (redux .add o) | .reduxMin o => some (redux .min o) | .reduxMax o => some (redux .max o)
  | .reduxAnd o => some (redux .and o) | .reduxOr o => some (redux .or o) | .reduxXor o => some (redux .xor o)
  | .scanAdd o => some (scan .add o) | .scanMin o => some (scan .min o) | .scanMax o => some (scan .max o)
  | .scanAnd o => some (scan .and o) | .scanOr o => some (scan .or o) | .scanXor o => some (scan .xor o)
  | _ => none
where
  redux (r : Red) (o : OpO) : Cross := { o := o, n := redRegs o, toD := fun w l => r.res o w l fun _ => true }
  scan (r : Red) (o : OpO) : Cross := { o := o, n := redRegs o, toD := fun w l => r.res o w l fun j => decide (j ≤ l) }

/-- An instruction that computes D and then a status C. -/
def ComputesBoth (i : Instr) (s : State) (pr : Pred) (n : Nat) (d c : Opnd) (f g : Nat → Res) : Prop :=
  ∃ t u, exec i s = .next (t.advance i.words) ∧ Kept s t ∧ SameWarp s t ∧ LaneResult s.w u pr n d id f ∧
    LaneResult u t.w pr 1 c id g

/-- A row of the cross-lane instructions computes what it says. -/
def Cross.holds (x : Cross) (i : Instr) (s : State) : Prop :=
  match x.toC with
  | none => Computes i s x.o.pr x.n x.o.d id (x.toD s.w)
  | some g => ComputesBoth i s x.o.pr x.n x.o.d x.o.c (x.toD s.w) (g s.w)

/-! ## Control (R102 to R113) -/

/-- A branch or call: its predicate, the operand of an indirect target, the target of a lane. -/
structure Jump where
  pr   : Pred
  srcs : List (Opnd × Nat) := []
  tgt  : Warp → Nat → Word
  call : Bool

def jumpOf : Instr → Option Jump
  | .bra o => some { pr := o.pr, tgt := near o, call := false }
  | .call o => some { pr := o.pr, tgt := near o, call := true }
  | .brx o => some { pr := o.pr, srcs := [(o.a, 2)], tgt := far o, call := false }
  | .callx o => some { pr := o.pr, srcs := [(o.a, 2)], tgt := far o, call := true }
  | _ => none
where
  near (o : OpI) (w : Warp) (_ : Nat) : Word := w.pc + BitVec.ofInt 64 (8 * o.imm.toInt)
  far (o : OpO) (w : Warp) (l : Nat) : Word := BitVec.ofNat 64 (w.read 64 o.a l).n

/-- The target of the lowest lane that takes the branch, the lanes that share it, and the header where the others rejoin
(R106). -/
def Jump.to_ (x : Jump) (w : Warp) : Word := x.tgt w (lowestLane (w.holds x.pr))
def Jump.takers (x : Jump) (w : Warp) : W32 := maskWhere fun l => (w.holds x.pr).getLsbD l && decide (x.tgt w l = x.to_ w)
def Warp.rejoin (w : Warp) : Word := w.hdr + BitVec.ofInt 64 (8 * hdrReconv w.hw)

def isHint : Instr → Bool
  | .nop _ => true | .hintNext _ => true | .hintFar _ => true | .hintLikely _ => true | .hintUnlikely _ => true
  | _ => false

/-- The instructions that do nothing where no lane participates (R115, R160, R271), with their predicates. -/
def predicated : Instr → Option Pred
  | .bra o | .call o | .tagany o | .tagall o | .tagclr o => some o.pr
  | .ld _ o | .st _ o | .lds _ o | .sts _ o | .ldk _ o | .stk _ o | .ldw _ o | .ldacq _ o | .strel _ o => some o.pr
  | .prefL1 o | .prefL2 o | .cctlInv o | .cctlWb o | .cctlWbinv o => some o.pr
  | .brx o | .callx o | .ret o | .partset o | .exmset o | .bar o | .bara o | .barw o | .poll o | .yield o | .taskget o
  | .taskdone o | .atomAdd o | .atomMin o | .atomMax o | .atomAnd o | .atomOr o | .atomXor o | .atomExch o | .atomInc o
  | .atomDec o | .atomfAdd o | .atomfMin o | .atomfMax o | .cas o | .atomsAdd o | .atomsMin o | .atomsMax o | .atomsAnd o
  | .atomsOr o | .atomsXor o | .atomsExch o | .atomsInc o | .atomsDec o | .redAdd o | .redMin o | .redMax o | .redAnd o
  | .redOr o | .redXor o | .fence o | .tryOpen o | .commit o | .abort o | .tcopyLd o | .tcopySt o | .scopy o | .mcast o
  | .chain o | .qinit o | .qpush o | .qpop o | .tagff o | .accz o | .accmvV o | .accmvA o | .accst o | .tmac o | .txpose o
  | .mma _ _ o | .mmloop _ _ o | .trap o | .srd _ o | .swr _ o | .vbegin o | .vend o | .bkpt o | .wpset o | .halta o
  | .dumpw o | .tlbinv o | .interest o | .announce o | .leasereq o | .leaseret o | .signal o | .sigwait o | .xscale o
  | .xsum o | .xfin o | .evpost o | .digest o => some o.pr
  | _ => none

/-! ## Accesses (R114 to R126, R207 to R216) -/

/-- Where the access with address `a` goes under Translate (R17, R18): nowhere if its address is poisoned. -/
def State.goesTo (s : State) (need : Need) (a : Val) : Loc :=
  if a.psn then .miss true
  else match (s.ctx s.w.ctx).translate need (BitVec.ofNat 64 a.n) with
    | .ok ia => .mem ia
    | .miss _ => .miss false

/-- Where a scratchpad access with offset `x` goes (R116): in the warp's window, or in its cluster's region. -/
def State.goesToPad (s : State) (clus : Bool) (x : Int × Bool) : Loc :=
  if x.2 then .miss true
  else match s.spadLoc clus x.1 with
    | .ok p => .spad p.1 p.2
    | .error _ => .miss true

/-- The operation of the current warp that an issue puts among the outstanding ones (R203), with SEED as it stands (R56); `lanes` are
those for which an access made once for the warp acts. -/
def State.issues (s : State) (o : Op) (accs : List Acc) (lanes : W32 := 0) : State :=
  { s with nextId := s.nextId + 1
           ops := s.ops ++ [{ o with id := s.nextId, warp := s.cur, launch := s.w.launch, core := s.cid, ctx := s.w.ctx
                                     accs := accs, lanes := lanes, seed := s.w.seed }] }

/-- A load or store of memory: its word, its width, what kind of operation it starts, and whether a try forbids it. -/
structure MemForm where
  o   : OpM
  wd  : Width
  op  : Op
  tryless : Bool := false

def loadForm : Instr → Option MemForm
  | .ld wd o | .ldw wd o => some
      { o := o, wd := wd, op := { noOp with kind := .load wd o.d, fresh := o.fresh, nc := o.nc, wb := o.wb } }
  | .ldacq wd o => some
      { o := o, wd := wd, tryless := true
        op := { noOp with kind := .load wd o.d, scope := o.scope.toNat, acq := true, hold := true, prom := o.promote
                          fresh := true } }
  | _ => none

def storeForm : Instr → Option MemForm
  | .st wd o => some { o := o, wd := wd, op := { noOp with kind := .store, fresh := o.fresh, nc := o.nc, wb := o.wb } }
  | .strel wd o => some
      { o := o, wd := wd, tryless := true, op := { noOp with kind := .store, scope := o.scope.toNat, rel := true } }
  | _ => none

/-- The loads and the stores of scratchpads, with whether they name the cluster's. -/
def padLoadForm : Instr → Option (MemForm × Bool)
  | .lds wd o => some (f wd o, false)
  | .ldk wd o => some (f wd o, true)
  | _ => none
where
  f (wd : Width) (o : OpM) : MemForm :=
    { o := o, wd := wd, op := { noOp with kind := .load wd o.d, fresh := o.fresh, nc := o.nc, wb := o.wb } }

def padStoreForm : Instr → Option (MemForm × Bool)
  | .sts wd o => some (f wd o, false)
  | .stk wd o => some (f wd o, true)
  | _ => none
where
  f (wd : Width) (o : OpM) : MemForm :=
    { o := o, wd := wd, op := { noOp with kind := .store, fresh := o.fresh, nc := o.nc, wb := o.wb } }

/-- The registers of a loaded element, in the class of its destination (R122). -/
def MemForm.regs (x : MemForm) : Nat := if x.o.d.isS then (x.wd.regs + 1) / 2 else x.wd.regs

/-- The lanes for which the one access of a uniform load acts (R121). -/
def MemForm.group (x : MemForm) (w : Warp) : W32 := if x.o.d.isS then w.holds x.o.pr else 0

/-- The lanes for which a load makes an access: one for the warp where its destination is an s register (R120). -/
def MemForm.lanes (x : MemForm) (w : Warp) : List Nat := if x.o.d.isS then [0] else lanesOf (w.holds x.o.pr)

/-- A load's accesses, each at its base plus offset modulo 2^64. -/
def MemForm.loadAccs (x : MemForm) (s : State) : List Acc := (x.lanes s.w).map fun l =>
  { lane := l, va := BitVec.ofNat 64 (s.w.va x.o l).n, n := x.wd.bytes
    loc := if x.o.d.isS ∧ s.w.psnd x.o.pr ≠ 0 then .miss true else s.goesTo .load (s.w.va x.o l) }

/-- A store's accesses, each with the bytes of its data register (R123). -/
def MemForm.storeAccs (x : MemForm) (s : State) : List Acc := (lanesOf (s.w.holds x.o.pr)).map fun l =>
  { lane := l, va := BitVec.ofNat 64 (s.w.va x.o l).n, n := x.wd.bytes, loc := s.goesTo .store (s.w.va x.o l)
    data := s.w.dataOf x.wd x.o.d l }

def MemForm.padLoadAccs (x : MemForm) (clus : Bool) (s : State) : List Acc := (lanesOf (s.w.holds x.o.pr)).map fun l =>
  { lane := l, va := BitVec.ofInt 64 (s.w.spadX x.o l).1, n := x.wd.bytes, loc := s.goesToPad clus (s.w.spadX x.o l) }

def MemForm.padStoreAccs (x : MemForm) (clus : Bool) (s : State) : List Acc := (lanesOf (s.w.holds x.o.pr)).map fun l =>
  { lane := l, va := BitVec.ofInt 64 (s.w.spadX x.o l).1, n := x.wd.bytes, loc := s.goesToPad clus (s.w.spadX x.o l)
    data := s.w.dataOf x.wd x.o.d l }

/-- A load may issue (R203, R204, R206, R214): room, and no register that it names or writes is pending. -/
def MemForm.loadFree (x : MemForm) (i : Instr) (s : State) (accs : List Acc) : Prop :=
  s.operandsFree i [x.o.d] x.wd.regs (s.w.writers x.o.pr) = true ∧ s.roomFor true accs = true

/-- A store may issue: room, no pending row, and no poison to consume (R119, R204). -/
def MemForm.storeFree (x : MemForm) (i : Instr) (s : State) (accs : List Acc) (baseRegs : Nat) : Prop :=
  s.operandsFree i [] x.wd.regs (s.w.holds x.o.pr) = true ∧ s.roomFor false accs = true ∧
    Clean s x.o.pr [(baseOf x.o, baseRegs)] ∧ Clean s x.o.pr [(x.o.d, x.wd.regs)]

/-- The lanes whose predicate holds. -/
def Warp.takes (w : Warp) (pr : Pred) (l : Nat) : Prop := l < 32 ∧ (w.holds pr).getLsbD l = true

/-- Every lane with an unpoisoned address has an aligned one (R117). -/
def MemForm.aligned (x : MemForm) (s : State) : Prop :=
  ∀ l, s.w.takes x.o.pr l → (s.w.va x.o l).psn = false → (s.w.va x.o l).n % x.wd.bytes = 0
def MemForm.padAligned (x : MemForm) (s : State) : Prop :=
  ∀ l, s.w.takes x.o.pr l → (s.w.spadX x.o l).2 = false → (s.w.spadX x.o l).1 % (x.wd.bytes : Int) = 0

/-- Every lane's scratchpad byte exists (R118). -/
def MemForm.padThere (x : MemForm) (clus : Bool) (s : State) : Prop :=
  ∀ l, s.w.takes x.o.pr l → (s.w.spadX x.o l).2 = false → ∃ p, s.spadLoc clus (s.w.spadX x.o l).1 = .ok p

/-- Every lane's address lies in a range that allows a store (R119). -/
def MemForm.mapped (x : MemForm) (s : State) : Prop :=
  ∀ l, s.w.takes x.o.pr l → ∃ ia, (s.ctx s.w.ctx).translate .store (BitVec.ofNat 64 (s.w.va x.o l).n) = .ok ia

/-- The read-modify-writes (R207 to R209, R410, R413). -/
def rmwForm : Instr → Option (Pred × RmwForm)
  | .atomAdd o => atom o .add | .atomMin o => atom o .min | .atomMax o => atom o .max | .atomAnd o => atom o .and
  | .atomOr o => atom o .or | .atomXor o => atom o .xor | .atomExch o => atom o .exch | .atomInc o => atom o .inc
  | .atomDec o => atom o .dec
  | .atomfAdd o => atomf o .fadd | .atomfMin o => atomf o .fmin | .atomfMax o => atomf o .fmax
  | .cas o => (atom o .cas).map fun x => (x.1, { x.2 with cas := true })
  | .atomsAdd o => pad o .add | .atomsMin o => pad o .min | .atomsMax o => pad o .max | .atomsAnd o => pad o .and
  | .atomsOr o => pad o .or | .atomsXor o => pad o .xor | .atomsExch o => pad o .exch | .atomsInc o => pad o .inc
  | .atomsDec o => pad o .dec
  | .redAdd o => red o .add | .redMin o => red o .min | .redMax o => red o .max | .redAnd o => red o .and
  | .redOr o => red o .or | .redXor o => red o .xor
  | .signal o => some (o.pr, { op := .add, wide := true, addr := o.a, b := o.b, once := true, ctl := o.c.num })
  | .xscale o => sum o (.xscale (bits o.m.toNat 2 0)) | .xsum o => sum o (.xsum (bits o.m.toNat 2 0))
  | _ => none
where
  ints (o : OpO) (op : RmwOp) (d : Option Opnd) : RmwForm :=
    { op := op, wide := bit o.m.toNat 5, signed := bit o.m.toNat 4, addr := o.a, b := o.b, d := d, watch := true, ctl := o.c.num }
  atom (o : OpO) (op : RmwOp) : Option (Pred × RmwForm) := some (o.pr, ints o op (some o.d))
  atomf (o : OpO) (op : RmwOp) : Option (Pred × RmwForm) :=
    some (o.pr, { op := op, wide := decide (bits o.m.toNat 5 4 = 1), addr := o.a, b := o.b, d := some o.d, watch := true, ctl := o.c.num })
  pad (o : OpO) (op : RmwOp) : Option (Pred × RmwForm) := some (o.pr, { ints o op (some o.d) with spad := true, watch := false })
  red (o : OpO) (op : RmwOp) : Option (Pred × RmwForm) := some (o.pr, ints o op none)
  sum (o : OpO) (op : RmwOp) : Option (Pred × RmwForm) :=
    some (o.pr, { op := op, wide := decide (bits o.m.toNat 2 0 = 0), addr := o.a, b := o.b, once := o.a.isS && o.b.isS
                  bCause := 9, ctl := o.c.num })

/-- The accesses of a read-modify-write: one for each participating lane, or one for the warp, with the operand and, for
CAS, the new value. -/
def RmwForm.accs (f : RmwForm) (pr : Pred) (s : State) : List Acc :=
  (if f.once then [0] else lanesOf (s.w.holds pr)).map fun l =>
    { lane := l, va := BitVec.ofNat 64 (f.adr s.w l), n := rmwBytes f.op f.wide
      loc := if f.spad then s.goesToPad false (f.adr s.w l, false) else s.goesTo .rmw { n := f.adr s.w l }
      opnd := BitVec.ofNat 64 (s.w.read f.bits f.b l).n
      newv := if f.cas then BitVec.ofNat 64 (s.w.read f.bits (f.d.getD (.l 0)) l).n else 0 }

/-- A read-modify-write reaches its effect (R119, R203, R204, R206, R211, R306). -/
structure RmwForm.free (f : RmwForm) (i : Instr) (pr : Pred) (s : State) : Prop where
  runs : Runs i s
  try_ : s.w.tryOpen = false
  some_ : s.w.holds pr ≠ 0
  clean : Clean s pr ([(f.addr, if f.spad then 1 else 2), (f.b, if f.wide then 2 else 1)] ++
    if f.cas then [(f.d.getD (.l 0), if f.wide then 2 else 1)] else [])
  regs : s.operandsFree i f.d.toList (if f.wide then 2 else 1) (s.w.holds pr) = true
  room : s.roomFor f.d.isSome (f.accs pr s) = true
  task : s.w.tskVer = 0 ∨ (look {} s.vers s.w.tskVer).irrev = true
  aligned : ∀ l, s.w.takes pr l → f.adr s.w l % rmwBytes f.op f.wide = 0
  unwatched : s.w.unwatched
  there : ∀ l, s.w.takes pr l → if f.spad then ∃ p, s.spadLoc false (f.adr s.w l) = .ok p
    else ∃ ia, (s.ctx s.w.ctx).translate .rmw (BitVec.ofNat 64 (f.adr s.w l)) = .ok ia

/-- CCTL: what it does to its lines, and an access to the line of each participating lane (R216). -/
def cctlForm : Instr → Option (OpM × OpKind)
  | .cctlInv o => some (o, .cctl true false (decide (o.scope = 4)))
  | .cctlWb o => some (o, .cctl false true (decide (o.scope = 4)))
  | .cctlWbinv o => some (o, .cctl true true (decide (o.scope = 4)))
  | _ => none

def lineAccs (o : OpM) (s : State) : List Acc := (lanesOf (s.w.holds o.pr)).map fun l =>
  { lane := l, va := BitVec.ofNat 64 (s.w.va o l).n, n := 128
    loc := match s.goesTo {} (s.w.va o l) with | .mem ia => .mem (ia / 128 * 128) | x => x }

/-- The prefetches, with whether they fill L1, and the lines that one puts on their way (R126). -/
def prefForm : Instr → Option (OpM × Bool)
  | .prefL1 o => some (o, true)
  | .prefL2 o => some (o, false)
  | _ => none

def prefsOf (o : OpM) (l1 : Bool) (s : State) : List Pref := (lanesOf (s.w.holds o.pr)).filterMap fun l =>
  match s.goesTo .load (s.w.va o l) with
  | .mem ia => some { core := s.cid, ctx := s.w.ctx, va := BitVec.ofNat 64 (s.w.va o l).n, ia := ia, l1 := l1 }
  | _ => none

/-- XFIN: the registers of its result, and its accesses (R414). -/
def sumRegs (o : OpO) : Nat := if o.d.isS then 1 else if bits o.m.toNat 2 0 = 0 then 2 else 1
def sumAccs (o : OpO) (s : State) : List Acc := (if o.d.isS then [0] else lanesOf (s.w.holds o.pr)).map fun l =>
  { lane := l, va := BitVec.ofNat 64 (s.w.read 64 o.a l).n, n := 32, loc := s.goesTo .load { n := (s.w.read 64 o.a l).n } }

/-! ## Tags (R242, R280 to R282) -/

def tagWaitOf : Instr → Option (OpI × Bool)
  | .tagany o => some (o, false)
  | .tagall o => some (o, true)
  | _ => none

/-- The tags of a mask cleared on the core of the warp at hand, but for those that a completion sets in this clock (R19, R242). -/
def State.tagsCleared (s : State) (m : Word) : State :=
  let off := m &&& ~~~s.tagsKept s.cid m
  s.putCore s.cid { s.core s.cid with tagDone := (s.core s.cid).tagDone &&& ~~~off, tagErr := (s.core s.cid).tagErr &&& ~~~off }

/-- `n` is the lowest tag of TAGFF's mask that is done, and failed where it asks for that; 64 if there is none. -/
def tagFoundIs (s : State) (o : OpO) (n : Nat) : Prop :=
  let hit (t : Nat) : Prop := (BitVec.ofNat 64 (s.w.read 64 o.a 0).n).getLsbD t = true ∧ (s.core s.cid).tagDone.getLsbD t = true ∧
    (o.m.getLsbD 0 = true → (s.core s.cid).tagErr.getLsbD t = true)
  (n = 64 ∨ n < 64 ∧ hit n) ∧ ∀ t, t < n → ¬ hit t

/-! ## Tries, versions and barriers (R170 to R173, R217 to R225) -/

/-- The warp at hand has no access, no command and no dirty line outstanding, and at `.pod` and `.sys` no acknowledgement is
awaited: a release at scope `scope` has nothing to do (R212, R222). -/
def State.idleIn (s : State) (scope : Nat) : Prop :=
  s.warpOps s.cur = [] ∧ s.warpCmds s.cur = [] ∧ s.l1Lines s.cid (fun _ => true) = [] ∧ (scope < 5 ∨ s.homeWaits = [])

/-- A version holds no byte and has no sector read or written, and no outstanding store is held under its tag. -/
def State.holdsNothing (s : State) (v : Nat) : Prop :=
  (look {} s.vers v).mem = [] ∧ (look {} s.vers v).spad = [] ∧ (look {} s.vers v).wr = [] ∧ (look {} s.vers v).ways = [] ∧ ∀ o ∈ s.ops, o.ver ≠ v

/-- A barrier instruction's id and, if it has one, its count pass R170. -/
def State.barNamed (s : State) (o : OpO) (count : Bool) : Prop :=
  (s.w.read 64 o.a 0).n ≤ 15 ∧
    (count = true → (s.w.read 64 o.b 0).n ≤ (s.launch s.w.launch).warpsOf (bits o.m.toNat 5 3))

/-- What a generation with count `n` needs: `n` arrivals, or one of every warp of the unit that has not retired (R171). -/
def State.needs (s : State) (launch lvl unit n : Nat) : Nat :=
  if n ≠ 0 then n else (s.unitWarps launch lvl unit).length

/-- The barrier that a reference names, as `b`. -/
def State.withBar (s : State) (r : BarRef) (b : Barrier) : State :=
  { s with bars := put {} s.bars (barKey s.w.launch r.lvl r.unit r.id) b }

/-! ## Special registers (R9, R334 to R337) -/

/-- What SRD of register `f` reads: the register, then its bits. -/
def special (s : State) (f : Nat) : Option Nat :=
  let w := s.w
  let c := s.core s.cid
  let x := s.ctx w.ctx
  if 24 ≤ f ∧ f ≤ 31 then some (look 0 w.lvl (f - 24)) else match f with
  | 0 => some w.exm.toNat | 1 => some w.part.toNat | 2 => some w.bnd | 3 => some w.vcnt.toNat | 4 => some w.flg.toNat
  | 5 => some c.tagDone.toNat | 6 => some c.tagErr.toNat
  | 7 => some (s.tiles s.cur + 2 ^ 16 * s.copies s.cur + 2 ^ 32 * s.stores s.cur + 2 ^ 48 * s.loads s.cur)
  | 8 => some (w.amask.toNat + 2 ^ 40 * w.tryUser.toNat + 2 ^ 48 * w.tryCode.toNat + 2 ^ 62 * Bool.n w.tryDone +
      2 ^ 63 * Bool.n w.tryOpen)
  | 9 => some (w.tskIdx.toNat + 2 ^ 62 * Bool.n w.tskVers + 2 ^ 63 * Bool.n w.tskValid)
  | 10 => some w.tcause.toNat | 11 => some w.taddr.toNat | 12 => some w.epc.toNat | 13 => some s.clk
  | 14 => some w.seed.toNat | 15 => some (s.cur % 64) | 16 => some s.cid | 17 => some s.did
  | 18 => some (2 ^ 24 * Config.rev.toNat + 2 ^ 22 * dieOf s.cid + (Config.clusMask (dieOf s.cid)).toNat)
  | 19 => some s.lyre.seq.toNat | 20 => some s.lyre.dig.toNat
  | 32 => some w.rsel
  | 33 => some (look 0 x.rbase w.rsel).toNat | 34 => some (look 0 x.rlim w.rsel).toNat
  | 35 => some (look 0 x.roff w.rsel).toNat | 36 => some (look 0 x.rctl w.rsel).toNat
  | 37 => some x.tvec.toNat | 38 => some x.spool.toNat | 39 => some x.spsz.toNat
  | _ => none

/-- What SWR of `x` to register `f` leaves: the state but for its warp, and the warp. -/
def rewrites (s : State) (f : Nat) (x : Word) : Option (State × Warp) :=
  let w := s.w1
  let c := s.ctx s.w.ctx
  let ctx (y : Ctx) : Option (State × Warp) := some (s.putCtx s.w.ctx y, w)
  match f with
  | 0 => some (s, { w with exm := x.setWidth 32 &&& s.w.elig }) | 1 => some (s, { w with part := x.setWidth 8 })
  | 2 => some (s, { w with bnd := x.toNat }) | 3 => some (s, { w with vcnt := x.setWidth 32 })
  | 4 => some (s, { w with flg := x.setWidth 8 &&& 0x1F })
  | 10 => some (s, { w with tcause := (w.tcause &&& 0x40000000) ||| (x.setWidth 32 &&& 0x80FFFFF0) })
  | 11 => some (s, { w with taddr := x }) | 12 => some (s, { w with epc := x }) | 14 => some (s, { w with seed := x })
  | 32 => some (s, { w with rsel := x.toNat % 16 })
  | 33 => ctx { c with rbase := put 0 c.rbase w.rsel (x &&& ~~~0xFFF) }
  | 34 => ctx { c with rlim := put 0 c.rlim w.rsel (x &&& ~~~0xFFF) }
  | 35 => ctx { c with roff := put 0 c.roff w.rsel (x &&& ~~~0xFFF) }
  | 36 => ctx { c with rctl := put 0 c.rctl w.rsel (x &&& 0xF0) }
  | 37 => ctx { c with tvec := x &&& ~~~2 } | 38 => ctx { c with spool := x &&& ~~~0xFFF } | 39 => ctx { c with spsz := x }
  | _ => none

/-- The warp with watchpoint `k` set (R342). -/
def Warp.watching (w : Warp) (k : Nat) (x : Watch) : Warp := { w with wp := put {} w.wp k x }

/-! ## Engine and matrix commands (R244 to R288, R403 to R418) -/

/-- An instruction that puts a command in flight: its predicate, the operands whose poison it consumes, the checks of its
operands, and its command. -/
structure Order where
  pr  : Pred
  ops : List (Opnd × Nat)
  ok  : Prop
  cmd : Cmd

/-- A scratchpad operand names a whole run of bytes (R260). -/
def State.padOk (s : State) (d n : Nat) : Prop := s.formTrap s.w s.cid d n = none

/-- The rows of `n` accumulators from `k` (R261), and whether the warp holds them. -/
def Warp.tileRows (w : Warp) (k n : Nat) : List Nat := (List.range n).map fun i => w.bnd + k + i
def Warp.hasRows (w : Warp) (k n : Nat) : Prop := k + n ≤ w.rows - w.bnd

/-- The commands without a record: queues (R278, R279), accumulators (R284, R285), matrix steps (R283, R287), TXPOSE (R288). -/
def orderOf (s : State) : Instr → Option Order
  | .qinit o =>
    let q := QWord.ofBits (s.w.val64 o.b)
    some { pr := o.pr, ops := [(o.a, 2), (o.b, 2)]
           ok := q.initOk = true ∧ s.w.val32 o.a % 8 = 0 ∧ s.padOk (s.w.val32 o.a) 8 ∧
             ∃ p, s.formAt s.w s.cid (s.w.val32 o.a % 2 ^ 25) 0 = some p ∧ (s.slotBase p q).isSome = true
           cmd := { opc := 0xA4, dst := s.spadLocs s.w s.cid (s.w.val32 o.a) 0 8, kind := .qinit (s.w.val32 o.a)
                      (BitVec.ofNat 64 ({ q with head := 0, tail := 0, full := false, v := true : QWord }.toBits)) } }
  | .qpush o => some
      { pr := o.pr, ops := sSrc o.d ++ [(o.a, 2), (o.b, 2)], ok := queueOk o
        cmd := { opc := 0xA5, tag := some (s.w.val64 o.d), kind := .qpush (s.w.val32 o.a) (s.w.val32 o.b) o.c.num
                 src := s.spadSrcs s.w s.cid (s.w.val32 o.b) 0 (2 ^ o.c.num) } }
  | .qpop o => some
      { pr := o.pr, ops := sSrc o.d ++ [(o.a, 2), (o.b, 2)], ok := queueOk o
        cmd := { opc := 0xA6, tag := some (s.w.val64 o.d), kind := .qpop (s.w.val32 o.a) (s.w.val32 o.b) o.c.num
                 dst := s.spadLocs s.w s.cid (s.w.val32 o.b) 0 (2 ^ o.c.num) } }
  | .accz o =>
    let k := s.w.val64 o.d
    let n := s.w.val64 o.a
    some { pr := o.pr, ops := sSrc o.d ++ sSrc o.a, ok := k < 8192 ∧ 1 ≤ n ∧ n ≤ 8192 ∧ s.w.hasRows k n
           cmd := { opc := 0xAB, tiles := true, rows := s.w.tileRows k n
                    kind := .mat { f := o.m.toNat, acc := k, aoff := n } [] } }
  | .accmvV o => some (move o o.a o.d)
  | .accmvA o => some (move o o.d o.a)
  | .accst o =>
    let k := s.w.val64 o.a
    let off := s.w.val32 o.b
    let n := tileRows (bits o.m.toNat 1 0) (bits o.m.toNat 3 2)
    let len := panelBytes (bits o.m.toNat 1 0) (o.c.num % 16)
    some { pr := o.pr, ops := sSrc o.d ++ sSrc o.a ++ [(o.b, 2)]
           ok := s.w.val64 o.d ≤ 63 ∧ k < 8192 ∧ off % 128 = 0 ∧ s.padOk off len ∧ s.w.hasRows k n
           cmd := { opc := 0xAD, tag := some (s.w.val64 o.d), tiles := true, rows := s.w.tileRows k n
                    dst := s.spadLocs s.w s.cid off 0 len
                    kind := .mat { f := o.m.toNat, acc := k, aoff := off, boff := o.c.num, da := s.w.val64 o.d } [] } }
  | .mma shape ty o => some (steps o (0xB0 + shape.toNat) ty.toNat 1 0 0)
  | .mmloop shape ty o =>
    let x := s.w.val64 o.c
    some (steps o (0xB4 + shape.toNat) ty.toNat (bits x 63 48) (sext 24 (x >>> 24)) (sext 24 x))
  | .txpose o =>
    let a := s.w.val32 o.a
    let b := s.w.val32 o.b
    let x := s.w.val64 o.c
    let dim (n : Nat) : Prop := n % 8 = 0 ∧ 8 ≤ n ∧ n * 2 ^ (o.m.toNat % 4) ≤ 128
    some { pr := o.pr, ops := [(o.a, 2), (o.b, 2), (o.c, 2)]
           ok := dim (bits x 31 16) ∧ dim (bits x 15 0) ∧ x < 2 ^ 32 ∧ a % 128 = 0 ∧ b % 128 = 0 ∧
             s.padOk a (128 * bits x 31 16) ∧ s.padOk b (128 * bits x 15 0) ∧
             (∀ i j, i < bits x 31 16 → j < bits x 15 0 → ∀ p, s.formAt s.w s.cid a (128 * i) = some p →
               s.formAt s.w s.cid b (128 * j) ≠ some p) ∧ s.unitFull s.cid = false
           cmd := { opc := 0xAF, tiles := true, sleft := bits x 15 0 / 8, src := s.txposeSrcs s.w s.cid a (2 ^ (o.m.toNat % 4)) (bits x 31 16) (min (bits x 15 0) s.w.vcnt.toNat)
                    dst := s.spadLocs s.w s.cid b 0 (128 * bits x 15 0)
                    kind := .mat { aoff := a, boff := b, da := (x % 2 ^ 32 : Nat), db := (o.m.toNat % 4 : Nat) } [] } }
  | _ => none
where
  lastOk (off : Nat) (d : Int) (nk n : Nat) : Prop := ∃ x, lastOff off d nk = some x ∧ s.padOk x n
  queueOk (o : OpO) : Prop :=
    s.w.val64 o.d ≤ 63 ∧ s.w.val32 o.a % 8 = 0 ∧ s.w.val32 o.b % 2 ^ o.c.num = 0 ∧ s.padOk (s.w.val32 o.a) 8 ∧
      s.padOk (s.w.val32 o.b) (2 ^ o.c.num)
  move (o : OpO) (acc vec : Opnd) : Order :=
    let k := s.w.val64 acc
    let v := vec.num
    let n := s.w.val64 o.b
    { pr := o.pr, ops := sSrc acc ++ sSrc o.b
      ok := k < 8192 ∧ s.w.hasRows k n ∧ v + n ≤ s.w.bnd ∧ (o.m = 0 → ∀ j, j < n → s.pendV s.cur (v + j) = 0)
      cmd := { opc := 0xAC, tiles := true, rows := s.w.tileRows k n ++ (List.range n).map (v + ·)
               kind := .mat { f := o.m.toNat, acc := k, aoff := v, boff := n } [] } }
  steps (o : OpO) (opc ty nk : Nat) (da db : Int) : Order :=
    let k := s.w.val64 o.d
    let a := s.w.val32 o.a
    let b := s.w.val32 o.b
    let f := StepForm.ofTy (opc % 4) ty (o.m.toNat % 8)
    { pr := o.pr, ops := sSrc o.d ++ [(o.a, 2), (o.b, 2)] ++ sSrc o.c
      ok := k < 8192 ∧ a % 128 = 0 ∧ b % 128 = 0 ∧ da % 128 = 0 ∧ db % 128 = 0 ∧ s.padOk a f.aBytes ∧ s.padOk b f.bBytes ∧
        lastOk a da nk f.aBytes ∧ lastOk b db nk f.bBytes ∧
        s.w.hasRows k f.rows ∧ nk ≠ 0 ∧ s.unitFull s.cid = false
      cmd := { opc := opc, tiles := true, sleft := nk, rows := s.w.tileRows k f.rows
               src := if opc < 0xB4 then s.stepSrcs s.w s.cid s.w.vcnt.toNat f a b else []
               kind := .mat { f := ty, rm := o.m.toNat % 8, acc := k, aoff := a, boff := b, da := da, db := db } [] } }

/-- An instruction that reads records: the same, with what its records lead to. -/
structure RecordOrder where
  pr   : Pred
  ops  : List (Opnd × Nat)
  ok   : Prop
  tiles : Bool := false
  plan : Plan

/-- A record's address is a multiple of `n` and lies in a readable range (R272). -/
def State.readable (s : State) (a n : Nat) : Prop := a % n = 0 ∧ s.recRange a = none

def recordOrderOf (s : State) : Instr → Option RecordOrder
  | .tcopyLd o => some (tile o false)
  | .tcopySt o => some (tile o true)
  | .mcast o =>
    let off := s.w.val32 o.a
    let c := (s.launch s.w.launch).clusLevel.getD 0
    some { pr := o.pr, ops := sSrc o.d ++ [(o.a, 2), (o.b, 2)] ++ sSrc o.c
           ok := s.w.val64 o.d ≤ 63 ∧ s.w.val64 o.c ≤ 15 ∧ s.readable (s.w.val64 o.b) 128 ∧ off < 2 ^ 25 ∧ bit off 24 = true ∧
             bits off 23 22 = 0 ∧ (s.launch s.w.launch).clusLevel ≠ none ∧
             ∀ d ∈ mcastTargets off (s.w.val64 o.c),
               s.region (s.cid / 4 * 4 + bits d 23 22) s.w.launch c (s.unitOf s.w c) ≠ none
           plan := s.planCopy 0xA2 (s.w.val64 o.d) off (s.w.val64 o.b) false (some (mcastTargets off (s.w.val64 o.c))) }
  | .scopy o =>
    let ra := s.w.val64 o.a
    let n := s.w.vcnt.toNat
    let t := some (s.w.val64 o.d)
    some { pr := o.pr, ops := sSrc o.d ++ [(o.a, 2), (o.b, 2)]
           ok := s.w.val64 o.d ≤ 63 ∧ s.readable ra 64 ∧ s.readable (s.w.val64 o.b) 64
           plan := s.withStream 0xA1 t ra ra n fun u a => u.withStream 0xA1 t ra (s.w.val64 o.b) n fun v b =>
             if a.count ≠ b.count ∨ ¬ (a.fmt = b.fmt ∨ cvtPair b.fmt a.fmt = true) then .go v (failedCmd 0xA1 t ra 2)
             else v.planOwn { opc := 0xA1, tag := t, kind := .scopy a b (o.m.toNat % 8) (bit o.m.toNat 3)
                              rec_ := BitVec.ofNat 64 ra, src := v.streamSrcs a (min a.count n)
                              dst := v.streamDsts b (min a.count n) } }
  | .chain o => some
      { pr := o.pr, ops := sSrc o.d ++ [(o.a, 2)], ok := s.w.val64 o.d ≤ 63 ∧ s.readable (s.w.val64 o.a) 128
        plan := s.planChain (s.w.val64 o.d) (s.w.val64 o.a) }
  | .tmac o => some
      { pr := o.pr, ops := sSrc o.d ++ [(o.a, 2)], ok := s.w.val64 o.d < 8192 ∧ s.readable (s.w.val64 o.a) 64, tiles := true
        plan := s.planTmac (s.w.val64 o.d) (s.w.val64 o.a) }
  | _ => none
where
  tile (o : OpO) (store : Bool) : RecordOrder :=
    { pr := o.pr, ops := sSrc o.d ++ [(o.a, 2), (o.b, 2)]
      ok := s.w.val64 o.d ≤ 63 ∧ s.readable (s.w.val64 o.b) 128 ∧ s.w.val32 o.a < 2 ^ 25 ∧
        (bit (s.w.val32 o.a) 24 = true → (s.launch s.w.launch).clusLevel ≠ none)
      plan := s.planCopy 0xA0 (s.w.val64 o.d) (s.w.val32 o.a) (s.w.val64 o.b) store none }

/-- What an instruction of opcodes 0xD0 to 0xD9 needs before its own checks: no try, sound operands, a participating lane,
room, and no acquire outstanding or stall of its task (R306, R401, R404). -/
def State.free4 (s : State) (o : OpO) (ops : List (Opnd × Nat)) : Prop :=
  s.w.tryOpen = false ∧ Clean s o.pr (sSrc o.d ++ ops) ∧ s.w.holds o.pr ≠ 0 ∧ s.roomCmd false = true ∧
    s.taskStall = none ∧ (s.warpOps s.cur).any (·.acq) = false

/-- The operands of INTEREST and ANNOUNCE pass R405. -/
def nameOk (s : State) (o : OpO) (limit : Nat) : Prop :=
  let c := s.w.val64 o.c
  s.w.val64 o.d ≤ 63 ∧ bits (s.w.val64 o.b) 31 0 ≤ limit ∧ 1 ≤ bits c 47 32 ∧ bits c 47 32 ≤ 512 ∧ bits c 63 48 = 0 ∧
    bits c 31 0 % 128 = 0 ∧ bits c 31 0 < 2 ^ 24 ∧ s.formIn s.w s.cid (bits c 31 0 % 2 ^ 24) (128 * bits c 47 32) = true

/-- The operands of LEASEREQ and EVPOST pass R272. -/
def State.recordOk (s : State) (o : OpO) : Prop := s.w.val64 o.d ≤ 63 ∧ s.readable (s.w.val64 o.a) 64

/-! ## Steps outside the issue slot -/

/-- What R433 asks for 2 s after release, by the BREASON of its failure. -/
def startMeets (s : State) : Nat → Prop
  | 0 => True
  | 1 => s.isReady .dist = true
  | 2 => s.isReady .lyre = true
  | 3 => 4 ≤ ((List.range 6).filter fun k => s.isReady (.link k)).length
  | _ => ∀ c, c < 10 → s.isReady (.clus c) = true

/-- A command that the name router holds. -/
def Cmd.isNamed (c : Cmd) : Bool :=
  match c.kind with
  | .interest _ _ _ => true | .announce _ _ _ => true
  | _ => false

/-- A debugger's command done with a status (R325). -/
def State.debugged (s : State) (x : Word) (st : BitVec 6) : State :=
  { s with mgmt := { s.mgmt with dbgcmd := x &&& ~~~0x3FFFF, dbgst := st, dbgrun := false } }

/-- The answer that carries a line of this device, as its home holds it (R363). -/
def State.lineOf (s : State) (p : Spot) (req : Nat) : PeerResponse :=
  { req := req, ans := .line ((List.range 8).flatMap fun q => (s.homeSector p q).data)
      ((List.range 8).map fun q => (s.homeSector p q).mark) true }

/-- The sort of event that an apply step takes (R385). -/
def appliesType : Instr → Option (Nat → Prop)
  | .applySubmit => some (· = 0x01) | .applyFinish => some (· = 0x02) | .applyBlock => some (· = 0x03)
  | .applyUnblock => some (· = 0x04) | .applyFault => some (· = 0x05) | .applyLoss => some (· = 0x06)
  | .applyJoin => some (· = 0x07) | .applyReserve => some (· = 0x08) | .applyGrant => some (· = 0x09)
  | .applyReclaim => some (· = 0x0A) | .applyReturn => some (· = 0x0B) | .applyDone => some (· = 0x0C)
  | .applyRevoke => some (· = 0x0D) | .applyTick => some (· = 0x0E) | .applyUser => some (· = 0x0F)
  | .applyReservedEvent => some fun n => n = 0 ∨ 0x10 ≤ n
  | _ => none

/-- An event that this device posts: its type and ORIGIN (R382). -/
def State.posts (s : State) (e : Rec8) (ty : Nat) : Prop := evType e = ty ∧ evOrigin e = s.did

/-- The device waits for nothing that an applied event could free or end: no EVPOST of it is in flight. -/
def State.noPosts (s : State) : Prop := ∀ c ∈ s.cmds, match c.kind with | .evpost _ _ _ _ => False | _ => True

/-- A run of `n` pages of the lending window that nothing is lent of. -/
def State.lendable (s : State) (b n : Nat) : Prop :=
  bits s.leng.win.toNat 63 29 ≤ b ∧ b + n ≤ bits s.leng.win.toNat 63 29 + bits s.leng.win.toNat 19 0 ∧
    ∀ r ∈ s.lentRuns, b + n ≤ r.1 ∨ r.1 + r.2 ≤ b

/-- A command in flight alone. -/
def State.only (s : State) (c : Cmd) : Prop := s.cmds = [c]

/-- A tag's two bits as a completion with cause `err` sets them (R242, R273). -/
def State.tagSet (s : State) (cid g err : Nat) : Prop :=
  (s.core cid).tagDone.getLsbD g = true ∧ (s.core cid).tagErr.getLsbD g = decide (err ≠ 0)

/-- An operation outstanding alone, with one access that is still to be performed, and nothing to order or to acquire. -/
structure State.alone (s : State) (o : Op) (a : Acc) : Prop where
  ops  : s.ops = [o]
  cmds : s.cmds = []
  vers : s.vers = []
  accs : o.accs = [a]
  todo : a.done = false
  lane : a.lane < 32
  acq  : o.acq = false
  rel  : o.rel = false
  prom : o.prom = false
  fails : o.fails = []
  ver  : o.ver = 0
  flags : o.flags = 0
  open_ : (s.warp o.warp).tryOpen = false

/-- The bytes of a core's scratchpad from `off` hold `bs`, and every other byte of every scratchpad what it held in `s`. -/
def padHolds (s t : State) (cid off : Nat) (bs : List Byte) : Prop :=
  ∀ c f, f < 2 ^ 40 → look 0 t.spad (spadKey c f) =
    if c = cid ∧ off ≤ f ∧ f < off + bs.length then nth 0 bs (f - off) else look 0 s.spad (spadKey c f)

/-- No line is cached and no device holds one. -/
def State.uncached (s : State) : Prop := s.l1 = [] ∧ s.l2 = [] ∧ s.dir = []

/-- The sampler's ring takes rows and has room for one; and where that one goes (R328). -/
def State.rowFits (s : State) : Prop := 0 < s.smp.len ∧ (s.smp.wi + 2 ^ 32 - s.smp.ri) % 2 ^ 32 < s.smp.len
def State.rowVa (s : State) : Word := s.smp.base + BitVec.ofNat 64 (64 * (s.smp.wi % s.smp.len))

/-- Every slot of the warp table lists one warp. -/
def State.slotsOnce (s : State) : Prop := ∀ e ∈ s.warps, s.warp e.1 = e.2

end Sys2Proof.Machine
end

