-- ==== Sys2Proof/Certificates/Slice0/Obligations.lean ====
section
/-! DEFINITION. The statements for the provers. Each is about one step, one instruction, or one shared operation of the model,
in the vocabulary of Safety. -/

open Sys2Proof Sys2Proof.Machine

/-! ## Encoding -/

/-- The words of a well-formed instruction decode to it, with every operand at every value that its encoding admits; a
word that must be the last of its block stands last (R20 to R45). -/
def Obligations.DecodeEncode : Prop :=
  ∀ i : Instr, WellFormed i = true →
    decode (openEnv (lastOnly i).isSome) ((encode i).flatMap fun w => toBytes 8 w.toNat) = .ok i

/-- Words that the manual spells out, with what it says they are: FFMA.f32.rn v4, v1, v2, v3; WAIT 0, 0, 0, 0; and three
words that are refused. -/
def Obligations.SampleWords : Prop :=
  decodeTableWord 64 0x307040102030C000 =
      some (.ffma false { pr := ⟨false, 7⟩, d := .v 4, a := .v 1, b := .v 2, c := .v 3, m := 0 }) ∧
  decodeTableWord 64 0x9B70000000000000 = some (.wait { pr := ⟨false, 7⟩, d := .v 0, a := .v 0, imm := 0 }) ∧
  decodeWord (openEnv false) 0 0 = .illegal .reservedOpcode ∧
  decodeWord (openEnv false) 0xE570000000000000 0 = .illegal .reservedOpcode ∧
  decodeWord (openEnv false) 0x0270401020038000 0 = .illegal .reservedFunction

/-- R36: the codes that it leaves unassigned are refused as RESERVED-OPCODE, and no other; the codes of header words are
no instructions; a zero word is neither an instruction nor a header. -/
def Obligations.ReservedOpcodes : Prop :=
  ∀ (env : DecEnv) (w lit : Word),
    (decodeWord env w lit = .illegal .reservedOpcode ↔ unassigned (w.extractLsb' 56 8).toNat) ∧
    (0xF0 ≤ (w.extractLsb' 56 8).toNat → decodeWord env w lit = .illegal .headerInBlock) ∧
    decodeWord env 0 lit = .illegal .reservedOpcode ∧ headerOk 0 = false

/-! ## Steps -/

/-- When the word at the pc decodes to an instruction and it is the warp's turn, the step is that instruction, in the state in
which its words have been fetched, then what every step ends with and the end of one clock; so is the issue of a warp that the
agenda names, without the clock. Where it is not its turn, the warp waits. An event of the agenda is that event; one that a packet
of a flow brings happens once. -/
def Obligations.StepRunsDecoded : Prop :=
  (∀ (s t : State) (x lit : Word) (i : Instr), s.agenda = [] → AtWord s x lit t → decodeWord t.env x lit = .ok i →
    (t.hasTurn t.cur (Instr.op i) = true →
      step s = andThen (fun u => u.settled.clockEnd 1) (exec i (t.noteReady i))) ∧
    (t.hasTurn t.cur (Instr.op i) = false → step s = .next (t.settled.clockEnd 1))) ∧
  (∀ (s t : State) (k : Nat) (rest : List Act) (x lit : Word) (i : Instr), s.agenda = .issue k :: rest →
    AtWord { s with agenda := rest, cur := k } x lit t → decodeWord t.env x lit = .ok i →
    t.hasTurn t.cur (Instr.op i) = true → step s = andThen State.settled (exec i (t.noteReady i))) ∧
  (∀ (s : State) (rest : List Act) (e : Instr), s.agenda = .event e :: rest → isEvent e = true →
    step s = andThen State.settled (exec e { s with agenda := rest })) ∧
  (∀ (s : State) (rest : List Act) (flow seq : Nat) (e : Instr), s.agenda = .packet flow seq e :: rest → isEvent e = true →
    step s = if (s.flow flow).holds seq then .next (({ s with agenda := rest } : State).receive flow seq).settled
      else andThen State.settled (exec e (({ s with agenda := rest } : State).receive flow seq)))

/-- Every step answers a next state: no instruction and no event ends a run. -/
def Obligations.StepAnswers : Prop :=
  ∀ s : State, ∃ t, step s = .next t

/-- Memory and the scratchpads keep their canonical form in every step. -/
def Obligations.StepKeepsMemory : Prop :=
  ∀ s t : State, Memory.wf s.mem = true → mapWf 0 s.spad = true → step s = .next t →
    Memory.wf t.mem = true ∧ mapWf 0 t.spad = true

/-- What the rules say of a device after reset: memory and scratchpads in their form, no context, no warp and no
launch, no function ready (R431), the Lyre REJOINING with REASON JOIN (R391), the sampler's interval (R326), the power limit (R437), and the
patrol's gap with the patrol on (R316). -/
def Obligations.ResetMachine : Prop :=
  Memory.wf State.reset.mem = true ∧ mapWf 0 State.reset.spad = true ∧
  State.reset.ctxs = [] ∧ State.reset.warps = [] ∧ State.reset.launches = [] ∧
  State.reset.mgmt.ready = [] ∧ State.reset.mgmt.inReset = true ∧
  State.reset.lyre.mode = .rejoining ∧ State.reset.lyre.reason = 4 ∧ State.reset.smp.interval = 65536 ∧
  State.reset.mgmt.plimit = 2400 ∧
  (∀ t, (State.reset.link t).gap = 4096 ∧ (State.reset.link t).scrubEn = true) ∧ ∀ c, (State.reset.core c).tlog = 16

/-! ## Blocks, traps and the return from the handler -/

/-- Within a block an instruction leaves its warp at the next word and everything else as it is (R11). R107 and R12. With
no entry of the reconvergence stack for header h on top, the warp enters h: the registers from the live field to BND read
zero in its active lanes, all else is as it was. An entry for h with pending lanes resumes them where they split, and with
none is popped, its lanes active again, before the next is compared. -/
def Obligations.WalksBlocks : Prop :=
  (∀ (s : State) (n : Nat), ({ s.w with pc := s.w.pc + 8 * BitVec.ofNat 64 n } : Warp).atEntry = false →
     s.advance n = s.setW { s.w with pc := s.w.pc + 8 * BitVec.ofNat 64 n }) ∧
  (∀ (w : Warp) (h hw : Word),
     ((∀ t ts, w.rstk = t :: ts → ¬ (t.rc = h ∧ t.none = false)) →
       (w.enter h hw).hdr = h ∧ (w.enter h hw).pc = h + 8 ∧ (w.enter h hw).hw = hw ∧ (w.enter h hw).rstk = w.rstk ∧
       (w.enter h hw).exm = w.exm ∧ (w.enter h hw).s = w.s ∧ (w.enter h hw).p = w.p ∧
       ∀ row l, l < 32 → (w.enter h hw).v1 row l =
         if w.exm.getLsbD l = true ∧ hdrLive hw ≤ row ∧ row < w.bnd then {} else w.v1 row l) ∧
     (∀ t ts, w.rstk = t :: ts → t.rc = h → t.none = false → t.pend ≠ 0 →
       w.enter h hw = { w with exm := t.pend, rstk := { t with pend := 0 } :: ts
                               cstk := w.cstk.drop (w.cstk.length - t.depth), hdr := t.ppc - 8 * BitVec.ofNat 64 t.phoff
                               hw := t.hw, reread := decide (t.hw = 0), pc := t.ppc, atHead := false }) ∧
     (∀ t ts, w.rstk = t :: ts → t.rc = h → t.none = false → t.pend = 0 →
       w.enter h hw = { w with exm := t.split, rstk := ts }.enter h hw))

/-- R299 and R158: a trap whose class permits a handler, outside a try and outside the handler, in a context whose handler is on,
of a warp with nothing outstanding, enters the handler at TVEC once its header has been read: EPC, TCAUSE and TADDR are set, the
rest is saved in TSTATE, INH is 1 and PART 32, and the warp is not urgent; nothing else changes but the sampler's counts. R301: a trap taken inside the handler halts the warp with double-trap IN-HANDLER;
the first trap's registers and the TCAUSE of the second are kept in TSTATE. -/
def Obligations.TrapsEnter : Prop :=
  (∀ (s r : State) (t : TrapInfo) (epc hw : Word), s.w.tryOpen = false → s.w.inh = false → s.w.tskVers = false →
     clsHandler (t.uncorr s.w).cls = true → (s.ctx s.w.ctx).tvec.getLsbD 0 = true →
     ((s.count 0x14).countCtx s.w.ctx 0x107).fetchWord s.w.ctx ((s.ctx s.w.ctx).tvec &&& ~~~7) = .word hw r →
     headerOk hw = true → hdrHandler hw = true → r.cur = s.cur → r.ops = [] → r.cmds = [] →
     ∃ v u, s.takeTrap t epc = u ∧ Kept r u ∧
       u.w = { s.w with
         v := v, epc := epc, taddr := (t.uncorr s.w).addr, tcause := (t.uncorr s.w).tcause true, part := 32
         tst := { exm := s.w.exm, part := s.w.part, flg := s.w.flg, p := s.w.p, s62 := s.w.s1 62, s63 := s.w.s1 63
                  hdr := s.w.hdr, rdepth := s.w.rstk.length, cdepth := s.w.cstk.length }
         hdr := (s.ctx s.w.ctx).tvec &&& ~~~7, hw := hw, pc := ((s.ctx s.w.ctx).tvec &&& ~~~7) + 8, atHead := false
         lastIssue := s.clk, ready0 := s.clk, urgent := false } ∧
       ∀ row l, l < 32 → u.w.v1 row l =
         if s.w.exm.getLsbD l = true ∧ hdrLive hw ≤ row ∧ row < s.w.bnd then {} else s.w.v1 row l) ∧
  (∀ (s : State) (t : TrapInfo) (epc : Word), s.w.tryOpen = false → s.w.inh = true → s.w.tskVers = false →
     (s.takeTrap t epc).w.status = .halted ∧ (s.takeTrap t epc).w.epc = epc ∧
     (s.takeTrap t epc).w.taddr = (t.uncorr s.w).addr ∧
     (s.takeTrap t epc).w.tcause = tcauseOf (t.uncorr s.w).deferred true 0x0B 1 0 ∧
     (s.takeTrap t epc).w.tst = { s.w.tst with dbl := true, fepc := s.w.epc, ftcause := s.w.tcause, ftaddr := s.w.taddr
                                               stcause := (t.uncorr s.w).tcause true } ∧
     ((s.takeTrap t epc).launch s.w.launch).halted = true)

/-- R300: RTT with an EPC inside the saved block, whose header it reads, restores TSTATE, cuts both stacks, clears INH and resumes
at EPC. -/
def Obligations.ReturnFromHandler : Prop :=
  ∀ (s r : State) (o : OpO) (hw : Word), Runs (.rtt o) r → r.w = s.w → r.clk = s.clk → s.w.tryOpen = false →
    s.fetchWord s.w.ctx s.w.tst.hdr = .word hw r → headerOk hw = true → inBlock s.w.tst.hdr (hdrLen hw) s.w.epc = true →
    ∃ u, exec (.rtt o) s = .next u ∧ Kept r u ∧
      u.w = { s.w1 with
        exm := s.w.tst.exm, part := s.w.tst.part, flg := s.w.tst.flg, p := s.w.tst.p, tst := {}
        rstk := s.w.rstk.drop (s.w.rstk.length - s.w.tst.rdepth), cstk := s.w.cstk.drop (s.w.cstk.length - s.w.tst.cdepth)
        reread := s.w.rstk.any fun e => decide (e.hw = 0)
        tcause := s.w.tcause &&& ~~~0x40000000, hdr := s.w.tst.hdr, hw := hw, pc := s.w.epc, atHead := false, s := u.w.s } ∧
      ∀ j, u.w.s1 j = if j = 62 then s.w.tst.s62.held else if j = 63 then s.w.tst.s63.held else s.w.s1 j

/-! ## Computing instructions -/

/-- R74, R76 and R77: each exact-integer instruction completes with its exact value, wrapped, or saturated under `.sat`,
in the lanes that write; every other register, flag and special register, memory and all else is as it was. -/
def Obligations.ExactIntegers : Prop :=
  ∀ (i : Instr) (s : State) (x : Row), exactInt i = some x → Runs i s → FreeFor i s x.pr x.d x.n →
    Computes i s x.pr x.n x.d x.ext (x.res s.w)

/-- R79: the bitwise instructions, shifts, rotates and bit counts, bit by bit. R78, R80 and R81: IDOT4, BFX, BFI and PRMT.
R72: the forms with an immediate. R73, R82 and R84 to R86: MOVL, MOV, PSET, ICMP and LEA. -/
def Obligations.IntegerRows : Prop :=
  (∀ (i : Instr) (s : State) (x : Row), bitRow i = some x → Runs i s → FreeFor i s x.pr x.d x.n →
     Computes i s x.pr x.n x.d x.ext (x.res s.w)) ∧
  (∀ (i : Instr) (s : State) (x : Row), fieldRow i = some x → Runs i s → FreeFor i s x.pr x.d x.n →
     Computes i s x.pr x.n x.d x.ext (x.res s.w)) ∧
  (∀ (i : Instr) (s : State) (x : Row), immRow i = some x → Runs i s → FreeFor i s x.pr x.d x.n →
     Computes i s x.pr x.n x.d x.ext (x.res s.w)) ∧
  (∀ (i : Instr) (s : State) (x : Row), moveRow i = some x → Runs i s → FreeFor i s x.pr x.d x.n →
     Computes i s x.pr x.n x.d x.ext (x.res s.w))

/-- R75: IADDC leaves the sum of A, B and the carry modulo 2^W in D, and the carry-out in C. -/
def Obligations.AddWithCarry : Prop :=
  ∀ (s : State) (o : OpO), Runs (.iaddc o) s → FreeFor (.iaddc o) s o.pr o.d (if o.ty < 2 then 1 else 2) →
    ComputesBoth (.iaddc o) s o.pr (if o.ty < 2 then 1 else 2) o.d o.c
      (fun l => sumOr s.w o l fun x => x % 2 ^ tyWidth o.ty)
      (fun l => sumOr s.w o l fun x => if 2 ^ tyWidth o.ty ≤ x then 1 else 0)

/-- R83: ISEL leaves A where C is 1, else B; the source that C does not select, and its poison, do not reach D. -/
def Obligations.Select : Prop :=
  ∀ (s : State) (o : OpO), Runs (.isel o) s → FreeFor (.isel o) s o.pr o.d (if o.ty < 2 then 1 else 2) →
    Computes (.isel o) s o.pr (if o.ty < 2 then 1 else 2) o.d (extT o.ty) fun l =>
      if (s.w.read 32 o.c l).psn then { n := 0, psn := true }
      else
        let x := s.w.read (tyWidth o.ty) (if (s.w.read 32 o.c l).n = 1 then o.a else o.b) l
        if x.psn then { n := 0, psn := true } else { n := x.n }

/-- R90 and R95: the floating arithmetic and the special functions, their exact values rounded once. -/
def Obligations.FloatArithmetic : Prop :=
  ∀ (i : Instr) (s : State) (x : Row), arithRow i = some x → Runs i s → FreeFor i s x.pr x.d x.n →
    Computes i s x.pr x.n x.d x.ext (x.res s.w)

/-- R91 to R98 and R100: minimum, maximum, compares, classes, integral rounding, packed arithmetic and conversions. R99
and R101: the block scale and the packed formats, over groups of lanes. -/
def Obligations.FloatFormats : Prop :=
  (∀ (i : Instr) (s : State) (x : Row), formatRow i = some x → Runs i s → FreeFor i s x.pr x.d x.n →
     Computes i s x.pr x.n x.d x.ext (x.res s.w)) ∧
  (∀ (i : Instr) (s : State) (x : Packed), packRow i = some x → Runs i s → FreeFor i s x.o.pr x.o.d 1 →
     Computes i s x.o.pr 1 x.o.d id (x.res s.w))

/-- R162 to R165, R167 and R169: shuffles, votes, matches, the election and the indices of a lane. -/
def Obligations.AcrossLanes : Prop :=
  ∀ (i : Instr) (s : State) (x : Cross), crossRow i = some x → Runs i s → FreeFor i s x.o.pr x.o.d x.n → x.holds i s

/-- R60, R61 and R166: reductions and scans, over the fixed tree of the tile where they are floating. -/
def Obligations.Reductions : Prop :=
  ∀ (i : Instr) (s : State) (x : Cross), reduceRow i = some x → Runs i s → FreeFor i s x.o.pr x.o.d x.n → x.holds i s

/-- R167 and R168: PARTSET sets the tile size, EXMSET the active lanes among those that may be active. -/
def Obligations.SetsLanes : Prop :=
  (∀ (s : State) (o : OpO), Acts (.partset o) s o.pr [(o.a, 2)] → partOk (s.w.read 64 o.a 0).n = true →
    Goes (.partset o) s s { s.w1 with part := BitVec.ofNat 8 (s.w.read 64 o.a 0).n }) ∧
  (∀ (s : State) (o : OpO), Acts (.exmset o) s o.pr [(o.a, 2)] →
    Goes (.exmset o) s s { s.w1 with exm := BitVec.ofNat 32 (s.w.read 64 o.a 0).n &&& s.w.elig })

/-! ## Control -/

/-- R106: a branch or call some of whose lanes take it, with a target and a rejoining header that pass their checks and
room on the stacks. Where some active lane does not take it, the others' place is pushed and the taking lanes alone go on;
a call pushes the address behind it; then the warp enters the target. Nothing else changes. -/
def Obligations.Branches : Prop :=
  ∀ (i : Instr) (s r u : State) (x : Jump) (hw : Word), jumpOf i = some x → Runs i u → u.w = s.w → u.clk = s.clk →
    s.w.psnd x.pr = 0 → s.w.anyPoison x.srcs (s.w.holds x.pr) = false → s.w.holds x.pr ≠ 0 →
    s.fetchWord s.w.ctx (x.to_ s.w) = .word hw r → headerOk hw = true → (x.to_ s.w).toNat % 8 = 0 → hdrHandler hw = false →
    (x.call = true → hdrCall hw = true ∧ s.w.cstk.length < 32) →
    (x.takers s.w ≠ s.w.exm → s.w.rstk.length < 32 ∧ hdrUniform s.w.hw = false ∧
      (hdrReconv s.w.hw ≠ 0 → r.headerAt s.w.ctx s.w.rejoin = .ok (true, u))) →
    (x.takers s.w = s.w.exm ∨ hdrReconv s.w.hw = 0 → u = r) →
    ∃ t, exec i s = .next (t.enterAt (x.to_ s.w) hw) ∧ Kept u t ∧
      t.w = { s.w1 with
        cstk := if x.call then (s.w.pc + 8) :: s.w.cstk else s.w.cstk
        exm := x.takers s.w
        rstk := if x.takers s.w = s.w.exm then s.w.rstk
          else { rc := s.w.rejoin, none := decide (hdrReconv s.w.hw = 0), ppc := s.w.pc
                 phoff := (s.w.pc - s.w.hdr).toNat / 8, pend := s.w.exm &&& ~~~x.takers s.w, split := s.w.exm
                 depth := s.w.cstk.length, hw := s.w.hw } :: s.w.rstk }

/-- R109: RET by every active lane, from a function whose entry of the call stack is no lane's split: the return address
is popped and its header entered. R108: EXIT by some of the active lanes retires them: they leave EXM and every entry's
PEND and SPLIT, and the others go on. By all of them, with an entry that has pending lanes left on top, it resumes those.
-/
def Obligations.ReturnsAndExits : Prop :=
  (∀ (s r : State) (o : OpO) (a hw : Word) (rest : List Word), Runs (.ret o) r → r.w = s.w → r.clk = s.clk →
     s.w.psnd o.pr = 0 → s.w.exm ≠ 0 →
     s.w.holds o.pr = s.w.exm → s.w.cstk = a :: rest → s.w.tryOpen = false →
     (∀ e es, s.w.rstk = e :: es → e.depth ≠ s.w.cstk.length) →
     s.fetchWord s.w.ctx a = .word hw r → headerOk hw = true → a.toNat % 8 = 0 → hdrHandler hw = false →
     ∃ t, exec (.ret o) s = .next (t.enterAt a hw) ∧ Kept r t ∧ t.w = { s.w1 with cstk := rest }) ∧
  (∀ (s : State) (o : OpO), Runs (.exit o) s → s.w.tryOpen = false → s.w.psnd o.pr = 0 → s.w.holds o.pr ≠ 0 →
    s.w.exm &&& ~~~s.w.holds o.pr ≠ 0 →
    Goes (.exit o) s s { s.w1 with
      exm := s.w.exm &&& ~~~s.w.holds o.pr, alive := s.w.alive &&& ~~~s.w.holds o.pr
      rstk := s.w.rstk.map fun e => { e with pend := e.pend &&& ~~~s.w.holds o.pr, split := e.split &&& ~~~s.w.holds o.pr } }) ∧
  (∀ (s : State) (o : OpO) (e : REntry) (es : List REntry), Runs (.exit o) s → s.w.tryOpen = false → s.w.psnd o.pr = 0 →
    s.w.holds o.pr ≠ 0 → s.w.exm = s.w.holds o.pr → s.w.rstk = e :: es → e.pend &&& ~~~s.w.exm ≠ 0 →
    ∃ t, exec (.exit o) s = .next t.fall ∧ Kept s t ∧
      t.w = { s.w1 with
        exm := e.pend &&& ~~~s.w.exm, alive := s.w.alive &&& ~~~s.w.exm
        rstk := { e with pend := 0, split := e.split &&& ~~~s.w.exm } ::
          es.map fun e => { e with pend := e.pend &&& ~~~s.w.exm, split := e.split &&& ~~~s.w.exm }
        cstk := s.w.cstk.drop (s.w.cstk.length - e.depth), hdr := e.ppc - 8 * BitVec.ofNat 64 e.phoff, hw := e.hw
        reread := decide (e.hw = 0), pc := e.ppc })

/-- R111 and R112: NOP and the hints change nothing but the place of the warp. -/
def Obligations.Hints : Prop :=
  ∀ (i : Instr) (s : State), isHint i = true → Runs i s → Goes i s s s.w1

/-- R115, R160 and R271: an instruction with no participating lane, and no poisoned predicate in one, does nothing but go
on. -/
def Obligations.NoLaneNoEffect : Prop :=
  ∀ (i : Instr) (s : State) (pr : Pred), predicated i = some pr → Runs i s → s.w.psnd pr = 0 → s.w.holds pr = 0 →
    ∃ t, exec i s = .next (t.advance 1) ∧ Kept s t ∧ SameWarp s t ∧ t.w.v = s.w.v ∧ t.w.s = s.w.s ∧ t.w.p = s.w.p ∧
      t.w.flg = s.w.flg

/-! ## Loads, stores and atomics -/

/-- R115 to R117, R120, R122 and R203 to R206: a load whose registers are free starts an operation with one access for
each participating lane, at base plus offset modulo 2^64 where Translate puts it, or one for the warp; its destination
elements are pending and read as poison; nothing else changes. The same for the scratchpad loads, at the bytes that R116
gives. -/
def Obligations.LoadsStart : Prop :=
  (∀ (i : Instr) (s : State) (x : MemForm), loadForm i = some x → Runs i s → (x.tryless = true → s.w.tryOpen = false) →
     s.w.holds x.o.pr ≠ 0 → x.loadFree i s (x.loadAccs s) → x.aligned s → s.w.unwatched →
     ∃ t, exec i s = .next (t.advance 1) ∧ Kept (s.issues x.op (x.loadAccs s) (x.group s.w)) t ∧ SameWarp s t ∧ t.w.p = s.w.p ∧
       t.w.flg = s.w.flg ∧ Pends s.w { s.w with v := t.w.v, s := t.w.s } x.o.d x.regs (s.w.writers x.o.pr)) ∧
  (∀ (i : Instr) (s : State) (x : MemForm) (clus : Bool), padLoadForm i = some (x, clus) → Runs i s →
     s.w.holds x.o.pr ≠ 0 → x.o.d.isS = false → x.loadFree i s (x.padLoadAccs clus s) → x.padAligned s → x.padThere clus s →
     ∃ t, exec i s = .next (t.advance 1) ∧ Kept (s.issues x.op (x.padLoadAccs clus s)) t ∧ SameWarp s t ∧ t.w.p = s.w.p ∧
       t.w.flg = s.w.flg ∧ Pends s.w { s.w with v := t.w.v, s := t.w.s } x.o.d x.regs (s.w.writers x.o.pr))

/-- R119 and R123: a store whose operands hold no poison, whose addresses are aligned and mapped, starts an operation with
the bytes of each participating lane, held under the version of its try or task; it changes no register and nothing else.
The same for the scratchpad stores. -/
def Obligations.StoresStart : Prop :=
  (∀ (i : Instr) (s : State) (x : MemForm), storeForm i = some x → Runs i s → (x.tryless = true → s.w.tryOpen = false) →
     s.w.holds x.o.pr ≠ 0 → x.storeFree i s (x.storeAccs s) 2 → x.aligned s → x.mapped s → s.w.unwatched →
     Goes i s (s.issues { x.op with ver := s.storeTag true } (x.storeAccs s)) s.w1) ∧
  (∀ (i : Instr) (s : State) (x : MemForm) (clus : Bool), padStoreForm i = some (x, clus) → Runs i s →
     s.w.holds x.o.pr ≠ 0 → x.storeFree i s (x.padStoreAccs clus s) 1 → x.padAligned s → x.padThere clus s →
     Goes i s (s.issues { x.op with ver := s.storeTag false } (x.padStoreAccs clus s)) s.w1)

/-- R117 and R119: a load one of whose lanes has an unaligned address traps with MISALIGNED at the lowest such lane's
address, before any effect. R16, R119 and R294: a store with a poisoned address in a participating lane, its predicate
sound, traps with poison-consumed ADDRESS, reporting the origin record, before any effect. R103 and R104: a branch or call
whose target is no header traps with NOT-HEADER at its own address, TADDR at the target, before any effect. -/
def Obligations.TrapsBeforeEffect : Prop :=
  (∀ (i : Instr) (s : State) (x : MemForm) (l : Nat), loadForm i = some x →
     checkInstr s.env (i.words == 2) false i = .ok i → (x.tryless = true → s.w.tryOpen = false) →
     x.loadFree i s (x.loadAccs s) → s.w.takes x.o.pr l → (s.w.va x.o l).psn = false → (s.w.va x.o l).n % x.wd.bytes ≠ 0 →
     (∀ j, j < l → s.w.takes x.o.pr j → (s.w.va x.o j).psn = false → (s.w.va x.o j).n % x.wd.bytes = 0) →
     exec i s = .next (s.trapNow { cls := clsAddr, cause := 2, addr := BitVec.ofNat 64 (s.w.va x.o l).n } s.w.pc)) ∧
  (∀ (i : Instr) (s : State) (x : MemForm), storeForm i = some x → checkInstr s.env (i.words == 2) false i = .ok i →
     (x.tryless = true → s.w.tryOpen = false) → s.w.psnd x.o.pr = 0 → s.roomFor false (x.storeAccs s) = true →
     s.w.anyPoison [(baseOf x.o, 2)] (s.w.holds x.o.pr) = true →
     exec i s = .next ((s.readPending [(baseOf x.o, 2)] (s.w.holds x.o.pr)).trapNow
       ((s.readPending [(baseOf x.o, 2)] (s.w.holds x.o.pr)).w.psnTrap 1) s.w.pc)) ∧
  (∀ (i : Instr) (s r : State) (x : Jump) (hw : Word), jumpOf i = some x →
     checkInstr r.env (i.words == 2) false i = .ok i → r.w = s.w → s.w.psnd x.pr = 0 →
     s.w.anyPoison x.srcs (s.w.holds x.pr) = false → s.w.holds x.pr ≠ 0 →
     s.fetchWord s.w.ctx (x.to_ s.w) = .word hw r → headerOk hw = false →
     exec i s = .next (r.trapNow { cls := clsAlign, cause := 1, addr := x.to_ s.w } s.w.pc))

/-- R126, R212 and R216: with a participating lane, FENCE and CCTL start an operation that orders or cleans and change no
register; a prefetch goes on with its warp, its ranges and every register, flag and outstanding operation as they were, the
lines of its lanes put on their way; a line on its way comes into L2 where its home is ready. -/
def Obligations.CacheAndFence : Prop :=
  (∀ (i : Instr) (s : State) (x : OpM × OpKind), cctlForm i = some x → Runs i s → s.w.tryOpen = false →
    s.w.holds x.1.pr ≠ 0 → s.roomFor false (lineAccs x.1 s) = true →
    ∃ t, exec i s = .next (t.advance 1) ∧ Kept (s.issues { noOp with kind := x.2 } (lineAccs x.1 s)) t ∧ SameWarp s t ∧
      t.w.v = s.w.v ∧ t.w.s = s.w.s ∧ t.w.p = s.w.p ∧ t.w.flg = s.w.flg) ∧
  (∀ (s : State) (o : OpO), Runs (.fence o) s → s.w.tryOpen = false → s.w.psnd o.pr = 0 → s.w.holds o.pr ≠ 0 →
    ∃ t, exec (.fence o) s = .next ((t.fences t.cur).advance 1) ∧ t.w = s.w1 ∧
      Kept (s.issues { noOp with scope := o.m.toNat % 8, acq := decide (bits o.m.toNat 4 3 ≠ 2)
                                 rel := decide (bits o.m.toNat 4 3 ≠ 1) } []) t) ∧
  (∀ (i : Instr) (s : State) (o : OpM) (l1 : Bool), prefForm i = some (o, l1) → Runs i s →
    Goes i s { s with prefs := s.prefs ++ prefsOf o l1 s } s.w1) ∧
  (∀ (s : State) (x : Pref) (p : Spot), s.prefs = [x] → x.l1 = false →
    ({ s with prefs := [] } : State).prepare (.by .load x.ctx) x.ia = ({ s with prefs := [] }, .spot p) →
    s.servePrefs = { s with prefs := [] }.fillL2 p p.l2)

/-- R207 to R211, R410 and R413: a read-modify-write starts an operation with its accesses, each with its operand, under
its scope and its acquire and release; its destination elements, if it has one, are pending; nothing else changes. -/
def Obligations.ReadModifyWrites : Prop :=
  ∀ (i : Instr) (s : State) (pr : Pred) (f : RmwForm), rmwForm i = some (pr, f) → f.free i pr s →
    ∃ t, exec i s = .next (t.advance 1) ∧
      Kept (s.issues { noOp with kind := .rmw f.op f.wide f.signed f.d, scope := f.ctl % 8, acq := bit f.ctl 3
                                 rel := bit f.ctl 4, prom := bit f.ctl 5 } (f.accs pr s)
        (if f.once then s.w.holds pr else 0)) t ∧
      match f.d with
      | none => t.w = s.w1
      | some d => Pends s.w1 t.w d (if d.isS then 1 else if f.wide then 2 else 1) (s.w.holds pr)

/-- R414: XFIN starts a read of the 32 bytes of each participating lane's accumulator, or of one for the warp. -/
def Obligations.SumReads : Prop :=
  ∀ (s : State) (o : OpO), Runs (.xfin o) s → s.w.tryOpen = false → Clean s o.pr [(o.a, 2)] → s.w.holds o.pr ≠ 0 →
    s.operandsFree (.xfin o) [o.d] (sumRegs o) (s.w.holds o.pr) = true → s.roomFor true (sumAccs o s) = true →
    (∀ l, s.w.takes o.pr l → (s.w.read 64 o.a l).n % 32 = 0) →
    ∃ t, exec (.xfin o) s = .next (t.advance 1) ∧ Pends s.w1 t.w o.d (sumRegs o) (s.w.holds o.pr) ∧
      Kept (s.issues { noOp with kind := .xfin (bits o.m.toNat 2 0) (bits o.m.toNat 5 3) o.d, scope := o.c.num % 8
                                 acq := bit o.c.num 3, fresh := true } (sumAccs o s)
        (if o.d.isS then s.w.holds o.pr else 0)) t

/-! ## Waits, tags and barriers -/

/-- R44, R205 and R280: WAIT, TAGANY and TAGALL go on when their counts or tags are met, changing nothing but, for a tag
that a named tile set, the caches; until then they leave the machine as it is. -/
def Obligations.Waits : Prop :=
  (∀ (s : State) (o : OpI), Runs (.wait o) s →
    (waitMet s o.imm = true → Goes (.wait o) s s s.w1) ∧ (waitMet s o.imm = false → exec (.wait o) s = .next s)) ∧
  (∀ (i : Instr) (s : State) (o : OpI) (all : Bool), tagWaitOf i = some (o, all) → Runs i s → s.w.tryOpen = false →
    Clean s o.pr (tagSrc o) → s.w.holds o.pr ≠ 0 → (s.core s.cid).tagName &&& tagMask s.w o = 0 →
    ((if all then (s.core s.cid).tagDone &&& tagMask s.w o = tagMask s.w o
      else (s.core s.cid).tagDone &&& tagMask s.w o ≠ 0 ∨ tagMask s.w o = 0) → Goes i s s s.w1) ∧
    (¬ (if all then (s.core s.cid).tagDone &&& tagMask s.w o = tagMask s.w o
      else (s.core s.cid).tagDone &&& tagMask s.w o ≠ 0 ∨ tagMask s.w o = 0) → exec i s = .next s))

/-- R281 and R282: TAGFF finds the lowest tag of its mask that is done, and failed if it asks so, or 64, and may clear it;
TAGCLR clears DONE and ERR of its mask. Nothing else changes. -/
def Obligations.TagOperations : Prop :=
  (∀ (s : State) (o : OpO) (n : Nat), Acts (.tagff o) s o.pr [(o.a, 2)] → s.w.tryOpen = false →
    s.operandsFree (.tagff o) [o.d] 1 (s.w.holds o.pr) = true → tagFoundIs s o n →
    ∃ w, WideIs s.w1 w o.d (s.w.holds o.pr) n ∧
      Goes (.tagff o) s (if o.m.getLsbD 1 = true ∧ n < 64 then s.tagsCleared (1 <<< n) else s) w) ∧
  (∀ (s : State) (o : OpI), Acts (.tagclr o) s o.pr (tagSrc o) → s.w.tryOpen = false →
    Goes (.tagclr o) s (s.tagsCleared (tagMask s.w o)) s.w1)

/-! ## Tries -/

/-- R217 and R218: TRY with no try open, no matrix command in flight, room in the pool and a free tag opens its try: D is
1 in every active lane, and the declared registers, the predicates, EXM, PART, FLG, both depths and the next header are
kept; the pool rows from BND + AHI on, which hold the checkpoint, take free values (the model's choice, log 108). With too little room it aborts at once with OVERFLOW: D is 0, DONE 1, and AMASK the active lanes. R222: COMMIT with
no try open leaves 0 in D. With a try open that holds no bytes and has none of its warp's accesses outstanding, the lanes
of AMASK get their declared registers and predicates back and 0 in D, the others 1; the tag is free. R221 and R223: ABORT
with a try open and no access of the warp outstanding restores the declared registers, the predicates, EXM, PART, FLG and
both depths, and leaves the warp at the header after the TRY, with CODE EXPLICIT, its operand in USER and 0 in the TRY's
D; with none open it changes nothing. -/
def Obligations.Tries : Prop :=
  (∀ (s : State) (o : OpO) (k : BitVec 8) (tag : Nat), Acts (.tryOpen o) s o.pr [] → o.d = .p k → s.w.tryOpen = false →
    s.tiles s.cur = 0 → s.w.bnd + s.w.ahi + o.b.num + 1 ≤ s.w.rows → s.freeTag = some tag →
    ∃ w, StatusIs s.w1 w k s.w.exm true ∧
      Goes (.tryOpen o) s { s with draws := s.draws + 1, vers := put {} s.vers tag { taken := true, warp := s.cur } }
        { w with
          tryOpen := true, amask := 0, v := s.w.takeRows o.b.num s.draws
          ck := { ver := tag, k := o.a.num, n := o.b.num, v := s.w.declared o.a.num o.b.num, p := s.w.p, exm := s.w.exm
                  part := s.w.part, flg := s.w.flg, rdepth := s.w.rstk.length, cdepth := s.w.cstk.length
                  dreg := k.toNat, next := s.w.pc + 8, hdr := s.w.hdr, hw := s.w.hw } }) ∧
  (∀ (s : State) (o : OpO) (k : BitVec 8), Acts (.tryOpen o) s o.pr [] → o.d = .p k → s.w.tryOpen = false →
    s.tiles s.cur = 0 → s.w.rows < s.w.bnd + s.w.ahi + o.b.num + 1 →
    ∃ w, StatusIs s.w1 w k s.w.exm false ∧
      Goes (.tryOpen o) s s { w with tryOpen := false, tryDone := true, tryCode := 2, amask := s.w.exm }) ∧
  (∀ (s : State) (o : OpO) (k : BitVec 8), Acts (.commit o) s o.pr [] → o.d = .p k → s.w.tryOpen = false →
    ∃ w, StatusIs s.w1 w k s.w.exm false ∧ Goes (.commit o) s s w) ∧
  (∀ (s : State) (o : OpO) (k : BitVec 8), Acts (.commit o) s o.pr [] → o.d = .p k → s.w.tryOpen = true →
    s.idleIn (o.m.toNat % 8) → s.holdsNothing (s.tryTag s.cur) → s.w.ck.exm &&& ~~~s.w.amask ≠ 0 →
    ∃ w, Goes (.commit o) s { s with vers := put {} s.vers (s.tryTag s.cur) {} } w ∧
      w = { s.w1 with v := w.v, p := w.p, tryOpen := false, tryDone := true, tryCode := 0, ck := {} } ∧
      (∀ row l, l < 32 → w.v1 row l =
        if s.w.amask.getLsbD l = true ∧ s.w.ck.k ≤ row ∧ row < s.w.ck.k + s.w.ck.n then look {} s.w.ck.v (32 * row + l)
        else s.w.v1 row l) ∧
      ∀ j l, j < 7 → l < 32 → w.p1 j l =
        if j = k.toNat ∧ s.w.ck.exm.getLsbD l = true then { val := !s.w.amask.getLsbD l }
        else if s.w.amask.getLsbD l = true then look {} s.w.ck.p (32 * j + l) else s.w.p1 j l) ∧
  (∀ (s : State) (o : OpO), Acts (.abort o) s o.pr [] → s.w.tryOpen = false → Goes (.abort o) s s s.w1) ∧
  (∀ (s : State) (o : OpO), Acts (.abort o) s o.pr [] → s.w.tryOpen = true → s.quiet s.cur = true →
    ∃ u, exec (.abort o) s = .next u ∧
      u.w = { s.w1 with
        v := u.w.v, p := u.w.p, exm := s.w.ck.exm, part := s.w.ck.part, flg := s.w.ck.flg
        rstk := s.w.rstk.drop (s.w.rstk.length - s.w.ck.rdepth), cstk := s.w.cstk.drop (s.w.cstk.length - s.w.ck.cdepth)
        tryOpen := false, tryDone := true, tryCode := 3, tryUser := BitVec.ofNat 8 o.a.num, amask := s.w.ck.exm
        wait := .none, hdr := s.w.ck.hdr, hw := s.w.ck.hw, pc := s.w.ck.next, atHead := true } ∧
      (∀ row l, l < 32 → u.w.v1 row l =
        if s.w.ck.k ≤ row ∧ row < s.w.ck.k + s.w.ck.n then look {} s.w.ck.v (32 * row + l) else s.w.v1 row l) ∧
      (∀ j l, j < 7 → l < 32 → u.w.p1 j l =
        if j = s.w.ck.dreg % 256 ∧ s.w.ck.exm.getLsbD l = true then { val := false } else look {} s.w.ck.p (32 * j + l)) ∧
      u.mem = s.mem ∧ u.spad = s.spad ∧ u.l1 = s.l1 ∧ u.l2 = s.l2)

/-! ## Barriers, polls and tasks -/

/-- R170 to R173: with its release done, BAR waits in the open generation and arrives, BARA arrives and goes on; BARW
waits. At a barrier abandoned before this clock BAR and BARW go on with status 0 where they take one, and BARA goes on. R171,
Arrive and Check: the first arrival of a generation sets its count; at the end of the clock a generation that has what it needs
ends, and a warp that waits for it goes on with status 1, after the acquire that its scope asks for; one that waits at an abandoned
barrier goes on with status 0. -/
def Obligations.Barriers : Prop :=
  (∀ (s : State) (o : OpO), Acts (.bar o) s o.pr [(o.a, 2), (o.b, 2)] → s.w.tryOpen = false → s.barNamed o true →
    (s.barRef o).bar.gone s.clk = false → s.barRelease (s.barRef o).lvl = (s, true) →
    ∃ t, exec (.bar o) s = .next (t.arrive (s.barRef o) (s.w.read 64 o.b 0).n) ∧ Kept s t ∧
      t.w = { s.w1 with
        wait := .barrier (s.barRef o).lvl (s.barRef o).id (s.barRef o).bar.gen o.d (s.w.holds o.pr) }) ∧
  (∀ (s : State) (o : OpO), Acts (.bara o) s o.pr [(o.a, 2), (o.b, 2)] → s.w.tryOpen = false → s.barNamed o true →
    (s.barRef o).bar.gone s.clk = false → s.barRelease (s.barRef o).lvl = (s, true) →
    ∃ t, exec (.bara o) s = .next ((t.arrive (s.barRef o) (s.w.read 64 o.b 0).n).advance 1) ∧ Kept s t ∧ t.w = s.w1) ∧
  (∀ (s : State) (o : OpO), Acts (.barw o) s o.pr [(o.a, 2)] → s.w.tryOpen = false → s.barNamed o false →
    (s.barRef o).bar.gone s.clk = false →
    ∃ t, exec (.barw o) s = .next t ∧ Kept s t ∧
      t.w = { s.w1 with
        wait := .barrier (s.barRef o).lvl (s.barRef o).id (s.barRef o).bar.gen o.d (s.w.holds o.pr) }) ∧
  (∀ (s : State) (o : OpO) (k : BitVec 8), Acts (.bar o) s o.pr [(o.a, 2), (o.b, 2)] → s.w.tryOpen = false →
    s.barNamed o true → (s.barRef o).bar.gone s.clk = true → o.d = .p k → k ≠ 7 →
    ∃ w, StatusIs s.w1 w k (s.w.holds o.pr) false ∧ Goes (.bar o) s s w) ∧
  (∀ (s : State) (o : OpO), Acts (.bara o) s o.pr [(o.a, 2), (o.b, 2)] → s.w.tryOpen = false → s.barNamed o true →
    (s.barRef o).bar.gone s.clk = true → Goes (.bara o) s s s.w1) ∧
  (∀ (s : State) (o : OpO) (k : BitVec 8), Acts (.barw o) s o.pr [(o.a, 2)] → s.w.tryOpen = false → s.barNamed o false →
    (s.barRef o).bar.gone s.clk = true → o.d = .p k → k ≠ 7 →
    ∃ w, StatusIs s.w1 w k (s.w.holds o.pr) false ∧ Goes (.barw o) s s w) ∧
  (∀ (s : State) (r : BarRef) (count : Nat),
    (r.bar.arr = 0 → s.arrive r count = s.withBar r { r.bar with arr := 1, n := count }) ∧
    (r.bar.arr ≠ 0 → s.arrive r count = s.withBar r { r.bar with arr := r.bar.arr + 1 })) ∧
  (∀ (s : State) (lvl unit id k : Nat) (b : Barrier) (w : Warp), lvl < 8 → unit < 2 ^ 40 → id < 16 → k < 2 ^ 20 →
    s.bars = [(barKey w.launch lvl unit id, b)] → s.warps = [(k, w)] → s.unitOf w lvl = unit →
    ((b.arr = 0 ∨ b.arr < s.needs w.launch lvl unit b.n) → s.checkBar w.launch lvl unit id = s) ∧
    (b.arr ≠ 0 → s.needs w.launch lvl unit b.n ≤ b.arr →
      s.checkBar w.launch lvl unit id = { s with
        bars := put {} s.bars (barKey w.launch lvl unit id) { b with gen := b.gen + 1, arr := 0 } } ∧
      ∀ g d m, w.wait = .barrier lvl id g d m →
        s.clockBars = (s.checkBar w.launch lvl unit id).releaseWaiter k { b with gen := b.gen + 1, arr := 0 })) ∧
  (∀ (s : State) (k lvl id g : Nat) (b : Barrier) (p : BitVec 8) (m : W32), (s.warp k).status = .run →
    (s.warp k).reread = false → (s.warp k).wait = .barrier lvl id g (.p p) m →
    (g < b.gen → ∃ w, StatusIs { s.warp k with wait := .none, ready0 := s.clk } w p m true ∧
      s.releaseWaiter k b = s.asWarp k fun t => ((t.setW w).acquireL1 (s.warp k).launch (cidOf k) (s.warp k).ctx
        (s.barScope (s.warp k).launch lvl)).advance 1) ∧
    (b.gen ≤ g → b.abandoned = false → s.releaseWaiter k b = s) ∧
    (b.gen ≤ g → b.abandoned = true → p ≠ 7 → ∃ w, StatusIs { s.warp k with wait := .none, ready0 := s.clk } w p m false ∧
      s.releaseWaiter k b = s.asWarp k fun t => (t.setW w).advance 1))

/-- R174 and R175: POLL at an aligned, readable address waits for its read, with what it compares; YIELD goes on, and is
held while some warp that it lets first has not issued. -/
def Obligations.PollsAndYields : Prop :=
  (∀ (s : State) (o : OpO) (ia : Nat), Acts (.poll o) s o.pr [(o.a, 2), (o.b, if o.c.num = 8 then 2 else 1)] →
    s.w.tryOpen = false → (s.w.read 64 o.a 0).n % o.c.num = 0 → s.w.unwatched → (s.w.read 64 o.a 0).n < 2 ^ 64 →
    (s.ctx s.w.ctx).translate .load (BitVec.ofNat 64 (s.w.read 64 o.a 0).n) = .ok ia →
    ∃ t, exec (.poll o) s = .next t ∧ Kept { s with nextId := s.nextId + 1 } t ∧
      t.w = { s.w1 with
        wait := .poll (BitVec.ofNat 64 (s.w.read 64 o.a 0).n) (decide (o.c.num = 8))
          (BitVec.ofNat 64 (s.w.read (8 * o.c.num) o.b 0).n) o.sub (bits o.m.toNat 5 3) o.d (s.w.holds o.pr) s.nextId }) ∧
  (∀ (s : State) (o : OpO), Acts (.yield o) s o.pr [] →
    ∃ t, exec (.yield o) s = .next
        ((t.setW { t.w with wait := if t.yieldSet = [] then .none else .yield t.yieldSet (s.clk + 64) }).advance 1) ∧
      Kept s t ∧ t.w = s.w1)

/-- R150, R154 and R176: TASKGET answers the held task's record again; 0 where the launch has no job card, or no task
remains; else it draws an index of the block's chunk. R154, R177 and R340: TASKDONE ends the held task and reports its
index, or does nothing without one. VBEGIN opens a version for a held task that has none and answers 1, else 0; VEND
answers 0 where the task has none, and else discards an empty one and answers 1. That TASKDONE of a task without a version also
zeroes VERS and INDEX is the model's choice (log 99). -/
def Obligations.Tasks : Prop :=
  (∀ (s : State) (o : OpO) (k : BitVec 8), Acts (.taskget o) s o.pr [] → s.w.tryOpen = false → o.c = .p k → o.d.isS = true →
     s.operandsFree (.taskget o) [o.d] 1 (s.w.holds o.pr) = true →
     (s.w.tskValid = true →
       ∃ u w, WideIs s.w1 u o.d (s.w.holds o.pr) ((s.launch s.w.launch).recordOf s.w.tskIdx.toNat).toNat ∧
         StatusIs u w k (s.w.holds o.pr) true ∧ Goes (.taskget o) s s w) ∧
     (s.w.tskValid = false → (s.launch s.w.launch).job = none →
       ∃ u w, WideIs s.w1 u o.d (s.w.holds o.pr) 0 ∧ StatusIs u w k (s.w.holds o.pr) false ∧
         Goes (.taskget o) s s w) ∧
     (∀ i rest, s.w.tskValid = false → (s.launch s.w.launch).job ≠ none → (s.launch s.w.launch).vers = false →
       look [] (s.launch s.w.launch).chunks (s.block s.w.blk).idx = i :: rest →
       ∃ u w, WideIs { s.w1 with
             tskValid := true, tskVers := false, tskIdx := BitVec.ofNat 32 i, tskVer := 0, tskAge := s.nextAge } u o.d
           (s.w.holds o.pr) ((s.launch s.w.launch).recordOf i).toNat ∧
         StatusIs u w k (s.w.holds o.pr) true ∧
         Goes (.taskget o) s ({ s with nextAge := s.nextAge + 1 }.putLaunch s.w.launch { s.launch s.w.launch with
           chunks := put [] (s.launch s.w.launch).chunks (s.block s.w.blk).idx rest }) w) ∧
     (s.w.tskValid = false → (s.launch s.w.launch).job ≠ none →
       look [] (s.launch s.w.launch).chunks (s.block s.w.blk).idx = [] → (s.launch s.w.launch).rem = 0 →
       (s.launch s.w.launch).redeal = [] → (s.launch s.w.launch).undone = [] →
       ∃ u w, WideIs s.w1 u o.d (s.w.holds o.pr) 0 ∧ StatusIs u w k (s.w.holds o.pr) false ∧
         Goes (.taskget o) s (s.putLaunch s.w.launch { s.launch s.w.launch with
           asks := (s.launch s.w.launch).asks.filter fun x => decide (x.2 ≠ (s.block s.w.blk).idx) }) w)) ∧
  (∀ (s : State) (o : OpO), Acts (.taskdone o) s o.pr [] → s.w.tryOpen = false → s.w.tskValid = false →
    Goes (.taskdone o) s s s.w1) ∧
  (∀ (s : State) (o : OpO), Acts (.taskdone o) s o.pr [] → s.w.tryOpen = false → s.w.tskValid = true → s.w.tskVers = false →
    Goes (.taskdone o) s (s.putLaunch s.w.launch { s.launch s.w.launch with
        undone := (s.launch s.w.launch).undone.filter fun j => decide (j ≠ s.w.tskIdx.toNat)
        tries := put 0 (s.launch s.w.launch).tries s.w.tskIdx.toNat 0 })
      { s.w1 with tskValid := false, tskVers := false, tskIdx := 0, tskVer := 0, tskAge := 0 }) ∧
  (∀ (s : State) (o : OpO) (k : BitVec 8) (tag : Nat), Acts (.vbegin o) s o.pr [] → o.d = .p k → s.w.tryOpen = false →
    s.w.tskValid = true → s.w.tskVers = false → s.freeTag = some tag →
    ∃ w, StatusIs { s.w1 with tskVers := true, tskVer := tag } w k (s.w.holds o.pr) true ∧
      Goes (.vbegin o) s { s with
        vers := put {} s.vers tag { taken := true, warp := s.cur, task := true, age := s.w.tskAge } } w) ∧
  (∀ (s : State) (o : OpO) (k : BitVec 8), Acts (.vbegin o) s o.pr [] → o.d = .p k →
    (s.w.tryOpen = true ∨ s.w.tskValid = false ∨ s.w.tskVers = true) →
    ∃ w, StatusIs s.w1 w k (s.w.holds o.pr) false ∧ Goes (.vbegin o) s s w) ∧
  (∀ (s : State) (o : OpO) (k : BitVec 8), Acts (.vend o) s o.pr [] → o.d = .p k →
    (s.w.tryOpen = true ∨ s.w.tskVers = false) →
    ∃ w, StatusIs s.w1 w k (s.w.holds o.pr) false ∧ Goes (.vend o) s s w) ∧
  (∀ (s : State) (o : OpO) (k : BitVec 8), Acts (.vend o) s o.pr [] → o.d = .p k → s.w.tryOpen = false →
    s.w.tskVers = true → s.idleIn 4 → s.holdsNothing s.w.tskVer →
    ∃ w, StatusIs { s.w1 with tskVers := false, tskVer := 0 } w k (s.w.holds o.pr) true ∧
      Goes (.vend o) s { s with vers := put {} s.vers s.w.tskVer {} } w)

/-! ## System instructions -/

/-- R203, R224, R334 to R336: SRD reads its register, zero-extended into an s register or its low 32 bits into the
participating lanes of a v register; nothing else changes. R58, R136, R137, R139, R143, R190, R292, R298, R334 and R337:
SWR writes its register, with reserved bits ignored, in the warp or in its context; nothing else changes. BND waits for
the matrix commands and takes 1 to the lesser of 256 and ROWS; PART takes a tile size. -/
def Obligations.SpecialRegisters : Prop :=
  (∀ (s : State) (reg : BitVec 6) (o : OpO) (n : Nat), Acts (.srd reg o) s o.pr [] → special s reg.toNat = some n →
     s.operandsFree (.srd reg o) [o.d] 1 (s.w.holds o.pr) = true →
     ∃ w, WideIs s.w1 w o.d (s.w.holds o.pr) n ∧ Goes (.srd reg o) s s w) ∧
  (∀ (s : State) (reg : BitVec 6) (o : OpO) (u : State) (w : Warp), Acts (.swr reg o) s o.pr (sSrc o.a) →
     (reg = 1 → partOk (s.w.read 64 o.a 0).n = true) →
     (reg = 2 → s.w.tryOpen = false ∧ s.tiles s.cur = 0 ∧ 1 ≤ (s.w.read 64 o.a 0).n ∧
       (s.w.read 64 o.a 0).n ≤ min 256 s.w.rows) →
     rewrites s reg.toNat (BitVec.ofNat 64 (s.w.read 64 o.a 0).n) = some (u, w) → Goes (.swr reg o) s u w)

/-- R299 and R338: TRAP u takes a software trap with cause u, EPC at the word behind it. R322, R324, R341 and R342:
outside a handler and a try BKPT stops its warp with cause BREAKPOINT and EPC at itself, and runs once as NOP when it has
been resumed; inside the handler it is a trap there. WPSET sets its watchpoint. -/
def Obligations.DebugTraps : Prop :=
  (∀ (s : State) (o : OpO), Acts (.trap o) s o.pr [] →
     s.handlerWaits { cls := 0x0A, cause := BitVec.ofNat 8 o.a.num } = none →
     ∃ t, exec (.trap o) s = .next (t.takeTrap { cls := 0x0A, cause := BitVec.ofNat 8 o.a.num } (s.w.pc + 8)) ∧
       Kept s t ∧ t.w = s.w1) ∧
  (∀ (s : State) (o : OpO), Acts (.bkpt o) s o.pr [] → (s.w.skipBk = true → s.w.skipPc ≠ s.w.pc) → s.w.inh = false →
    s.w.tryOpen = false →
    ∃ t, exec (.bkpt o) s = .next t ∧
      t.w = { s.w1 with
        status := .stopped, haltReq := false, epc := s.w.pc, tcause := tcauseOf false false 0x09 2 0, taddr := 0 } ∧
      (t.core s.cid).dbgRing.length = min 16 ((s.core s.cid).dbgRing.length + 1) ∧ t.mem = s.mem ∧ t.ops = s.ops ∧
      t.cmds = s.cmds ∧ ((s.ctx s.w.ctx).conf = false → t.ctxs = s.ctxs)) ∧
  (∀ (s : State) (o : OpO), Acts (.bkpt o) s o.pr [] → s.w.skipBk = true → s.w.skipPc = s.w.pc → Goes (.bkpt o) s s s.w1) ∧
  (∀ (s : State) (o : OpO), Acts (.bkpt o) s o.pr [] → (s.w.skipBk = true → s.w.skipPc ≠ s.w.pc) → s.w.inh = true →
    ∃ t, exec (.bkpt o) s = .next (t.takeTrap { cls := 0x09, cause := 2 } s.w.pc) ∧ Kept s t ∧ t.w = s.w1) ∧
  (∀ (s : State) (o : OpO), Acts (.wpset o) s o.pr [(o.a, 2), (o.b, 2)] → (s.w.read 64 o.b 0).n ≤ 255 →
    (s.w.read 64 o.b 0).n % 32 ≤ 20 →
    Goes (.wpset o) s s (s.w1.watching o.d.num
      { addr := BitVec.ofNat 64 (s.w.read 64 o.a 0).n, ctl := BitVec.ofNat 8 (s.w.read 64 o.b 0).n }))

/-- R343 and R344: HALTA with no target answers 1 at once; with targets that run and wait for nothing it asks each to halt and
waits for them; when none of them runs any more it answers 1. DUMPW at an aligned area, with no other warp of its block in a DUMPW,
waits for its block and goes on as far as it can at once. When no other warp of the block runs, and neither the warp's accesses nor a
copy of the block is outstanding, it writes its dump, or, with no room for a header, answers 0; for a warp alone in its block that is
in the same step. -/
def Obligations.HaltsAndDumps : Prop :=
  (∀ (s : State) (o : OpO) (k : BitVec 8), Acts (.halta o) s o.pr [] → o.d = .p k → s.haltaTargets (bits o.m.toNat 5 3) = [] →
    ∃ w, StatusIs s.w1 w k (s.w.holds o.pr) true ∧ Goes (.halta o) s s w) ∧
  (∀ (s : State) (o : OpO) (ts : List Nat), Acts (.halta o) s o.pr [] → s.haltaTargets (bits o.m.toNat 5 3) = ts →
    ts ≠ [] → (∀ k ∈ ts, (s.warp k).status = .run ∧ (s.warp k).wait = .none) →
    ∃ t, exec (.halta o) s = .next t ∧
      t.w = { s.w1 with wait := .halta (ts.map fun k => ((s.warp k).blk, (s.warp k).lin)) o.d (s.w.holds o.pr) } ∧
      (∀ k ∈ ts, t.warp k = { s.warp k with haltReq := true }) ∧
      ∀ k, k ≠ s.cur → k ∉ ts → t.warp k = s.warp k) ∧
  (∀ (s : State) (ts : List (Nat × Nat)) (k : BitVec 8) (m : W32), s.w.wait = .halta ts (.p k) m →
    (∀ e ∈ ts, ∀ x, s.warpIn e.1 e.2 = some x → x.status ≠ .run) →
    ∃ w, StatusIs { s.w with wait := .none, ready0 := s.clk } w k m true ∧
      s.endHalta = ((s.setW { s.w with wait := .none, ready0 := s.clk }).setW w).advance 1) ∧
  (∀ (s : State) (o : OpO), Acts (.dumpw o) s o.pr [(o.a, 2), (o.b, 2)] → (s.w.read 64 o.a 0).n % 128 = 0 →
    (∀ e ∈ s.blockMates s.cur, e.2.inDumpw = false) →
    ∃ t : State, exec (.dumpw o) s = .next (t.runDumpw s.cur) ∧ Kept s t ∧
      t.w = { s.w1 with
        wait := .dumpw (BitVec.ofNat 64 (s.w.read 64 o.a 0).n) (BitVec.ofNat 64 (s.w.read 64 o.b 0).n) o.d (s.w.holds o.pr) }) ∧
  (∀ (s : State) (o : OpO) (k : BitVec 8), Acts (.dumpw o) s o.pr [(o.a, 2), (o.b, 2)] → o.d = .p k →
    (s.w.read 64 o.a 0).n % 128 = 0 → (s.w.read 64 o.b 0).n < 256 → s.blockMates s.cur = [] → s.quiet s.cur = true →
    (∀ c ∈ s.cmds, c.launch = s.w.launch → c.blk = s.w.blk → c.tiles = true) →
    ∃ (w : Warp) (t : State), StatusIs { s.w1 with wait := .none, ready0 := s.clk } w k (s.w.holds o.pr) false ∧
      exec (.dumpw o) s = .next { t.advance 1 with cur := s.cur } ∧ Kept s t ∧ t.w = w) ∧
  (∀ (s : State) (a b : Word) (d : Opnd) (m : W32), s.w.wait = .dumpw a b d m → s.blockMates s.cur = [] →
    s.quiet s.cur = true → (∀ c ∈ s.cmds, c.launch = s.w.launch → c.blk = s.w.blk → c.tiles = true) →
    (b.toNat < 256 → s.runDumpw s.cur = s.endDumpw s.cur false) ∧
    (256 ≤ b.toNat → s.holdTag s.cur = 0 → (∀ n, n ≤ b.toNat → s.areaReady s.cid s.w.ctx a n = (s, true)) →
      ∃ r : State × Bool, r = s.writeDump { warp := s.cur, ver := 0, lane := lowestLane m } s.cur s.w.blk a b.toNat
          ((s.blockWarps s.w.launch s.w.blk).map (·.1))
          ((s.launch s.w.launch).warpSections ((s.blockWarps s.w.launch s.w.blk).map (·.2))) ∧
        s.runDumpw s.cur = r.1.endDumpw s.cur r.2))

/-- R347, R411 and R418: TLBINV starts the discarding of its pages; SIGWAIT at an aligned, readable word waits for its
value; DIGEST answers LYRSEQ and LYRDIG, and whether the Lyre is RUNNING, at once or when LYRSEQ has reached its operand.
-/
def Obligations.SystemWaits : Prop :=
  (∀ (s : State) (o : OpO), Acts (.tlbinv o) s o.pr ((o.a, 2) :: sSrc o.b) → (s.w.read 64 o.b 0).n ≤ 2 ^ 20 →
    s.roomFor false [] = true →
    Goes (.tlbinv o) s (s.issues
      { noOp with kind := (if (s.w.read 64 o.b 0).n = 0 then .tlbinv 0 (2 ^ 35) 0
          else .tlbinv (bits (s.w.read 64 o.a 0).n 55 21) (s.w.read 64 o.b 0).n 0) }
      [{ lane := 0, va := 0, loc := .miss false, n := 1 }]) s.w1) ∧
  (∀ (s : State) (o : OpO) (ia : Nat), Acts (.sigwait o) s o.pr [(o.a, 2), (o.b, 2)] → s.w.tryOpen = false →
    (BitVec.ofNat 64 (s.w.read 64 o.a 0).n).toNat % 8 = 0 →
    (s.ctx s.w.ctx).translate .load (BitVec.ofNat 64 (s.w.read 64 o.a 0).n) = .ok ia →
    ∃ t, exec (.sigwait o) s = .next t ∧ Kept { s with nextId := s.nextId + 1 } t ∧
      t.w = { s.w1 with
        wait := .sigwait (BitVec.ofNat 64 (s.w.read 64 o.a 0).n) (BitVec.ofNat 64 (s.w.read 64 o.b 0).n) (o.c.num % 8)
          (bit o.c.num 3) o.d (s.w.holds o.pr) s.nextId }) ∧
  (∀ (s : State) (o : OpO) (k : BitVec 8), Acts (.digest o) s o.pr (if bit o.m.toNat 0 then [(o.a, 2)] else []) →
    o.c = .p k → s.operandsFree (.digest o) [o.d] 2 (s.w.holds o.pr) = true →
    (bit o.m.toNat 0 = true → (s.w.read 64 o.a 0).n ≤ s.lyre.seq.toNat) →
    ∃ u w, u = { s.w1 with s := u.s } ∧
      (∀ j, u.s1 j = if j = o.d.num then { val := s.lyre.seq } else if j = o.d.num + 1 then { val := s.lyre.dig } else s.w.s1 j) ∧
      StatusIs u w k (s.w.holds o.pr) (decide (s.lyre.mode = .running)) ∧ Goes (.digest o) s s w)

/-! ## Engine and matrix commands -/

/-- R203, R241, R250, R257, R260 to R265, R271, R278 to R288: a queue or matrix instruction whose operands pass their
checks puts its command in flight and goes on, with nothing else changed before the command is there. -/
def Obligations.OrdersCommands : Prop :=
  ∀ (i : Instr) (s : State) (x : Order), orderOf s i = some x → Runs i s → s.w.tryOpen = false → Clean s x.pr x.ops →
    s.w.holds x.pr ≠ 0 → x.ok → s.roomCmd x.cmd.tiles = true → (s.warpOps s.cur).any (·.acq) = false →
    ∃ t, exec i s = .next ((t.pushCmd x.cmd).advance 1) ∧ Kept s t ∧ t.w = s.w1

/-- R249, R271, R272, R275 to R277 and R286: an instruction with records whose operands pass their checks reads its
records; what they lead to is put in flight, and the instruction goes on. R243, R246 and R249: a tile copy whose record is
poisoned or fails puts a command with cause 1 in flight, one whose record breaks a field's rule a command with cause 2,
neither of which copies anything. -/
def Obligations.OrdersByRecord : Prop :=
  (∀ (i : Instr) (s u : State) (x : RecordOrder) (c : Cmd), recordOrderOf s i = some x → s.w.tryOpen = false →
     Clean s x.pr x.ops → s.w.holds x.pr ≠ 0 → x.ok → s.roomCmd x.tiles = true → x.plan = .go u c → Runs i u → u.w = s.w →
     ∃ t, exec i s = .next ((t.pushCmd c).advance 1) ∧ Kept u t ∧ t.w = u.w1) ∧
  (∀ (s u : State) (tag off rec_ : Nat) (store : Bool),
     (s.readRec rec_ 128 = .bad u →
       s.planCopy 0xA0 tag off rec_ store none = .go u { opc := 0xA0, tag := some tag, kind := .done, err := 1
                                                         rec_ := BitVec.ofNat 64 rec_ }) ∧
     (∀ bs, s.readRec rec_ 128 = .ok u bs → shapeOf bs = none →
       s.planCopy 0xA0 tag off rec_ store none = .go u { opc := 0xA0, tag := some tag, kind := .done, err := 2
                                                         rec_ := BitVec.ofNat 64 rec_ }))

/-- R56, R143, R241 and R313: a command is put in flight under the next number, for its warp, launch, block, core and
context, with VCNT, SEED and the task's version as they stand; its tag is noted in the block's TUSE. -/
def Obligations.PutsInFlight : Prop :=
  ∀ (s : State) (c : Cmd), (∀ d ∈ s.cmds, d.id < s.nextId) →
    (∃ d, (s.pushCmd c).cmd s.nextId = some d ∧ d.warp = s.cur ∧ d.launch = s.w.launch ∧ d.blk = s.w.blk ∧
      d.core = s.cid ∧ d.wid = s.cur % 64 ∧ d.ctx = s.w.ctx ∧ d.vcnt = s.w.vcnt.toNat ∧ d.seed = s.w.seed ∧
      d.tver = s.w.tskVer ∧ d.opc = c.opc ∧ d.tag = c.tag ∧ d.kind = c.kind ∧ d.rows = c.rows ∧ d.dst = c.dst) ∧
    (c.tiles = true → c.dst = [] →
      (s.pushCmd c).nextId = s.nextId + 1 ∧ (s.pushCmd c).cmds.length = s.cmds.length + 1 ∧ (s.pushCmd c).mem = s.mem ∧ (s.pushCmd c).spad = s.spad ∧
      ∀ g, c.tag = some g → ((s.pushCmd c).block s.w.blk).tuse = (s.block s.w.blk).tuse ||| (1 <<< g))

/-- R403 to R409, R416 and R417: INTEREST, ANNOUNCE, LEASERET and, with a readable record, LEASEREQ and EVPOST put their
commands in flight, which the Zither, the lease engine or the fabric then takes up. -/
def Obligations.OrdersBeyond : Prop :=
  (∀ (s : State) (o : OpO), Runs (.interest o) s → nameOk s o 1000000 → s.free4 o [(o.a, 2), (o.b, 2), (o.c, 2)] →
    ∃ t, exec (.interest o) s = .next
      (((((t.pushCmd
        { opc := 0xD0, tag := some (s.w.val64 o.d)
          kind := .interest (s.tileName (s.w.val64 o.a) (s.w.val64 o.b)) (bits (s.w.val64 o.c) 47 32)
            (s.atime + 1000 * bits (s.w.val64 o.b) 31 0)
          dst := s.spadLocs s.w s.cid (bits (s.w.val64 o.c) 31 0) 0 (128 * bits (s.w.val64 o.c) 47 32) }).countCtx
        s.w.ctx 0x109).takeInterest s.nextId (decide (bits (s.w.val64 o.b) 31 0 = 0))).advance 1)) ∧
      Kept s t ∧ t.w = s.w1) ∧
  (∀ (s : State) (o : OpO), Runs (.announce o) s → nameOk s o 0 → s.free4 o [(o.a, 2), (o.b, 2), (o.c, 2)] →
    ∃ t, exec (.announce o) s = .next
      (((t.pushCmd
        { opc := 0xD1, tag := some (s.w.val64 o.d)
          kind := .announce (s.tileName (s.w.val64 o.a) (s.w.val64 o.b)) (bits (s.w.val64 o.c) 47 32) false
          src := s.spadSrcs s.w s.cid (bits (s.w.val64 o.c) 31 0) 0 (128 * bits (s.w.val64 o.c) 47 32) }).runAnnounce
        s.nextId).advance 1) ∧ Kept s t ∧ t.w = s.w1) ∧
  (∀ (s : State) (o : OpO), Runs (.leaseret o) s → s.w.val64 o.d ≤ 63 → s.w.val64 o.a ≤ 1023 →
    s.free4 o [(o.a, 2), (o.b, 2)] → (s.leaseRow (s.w.val64 o.a)).state = .granted →
    (s.leaseRow (s.w.val64 o.a)).gseq = s.w.val64 o.b → (s.leaseRow (s.w.val64 o.a)).borrower = s.did →
    ∃ t, exec (.leaseret o) s = .next
      (((t.pushCmd { opc := 0xD3, tag := some (s.w.val64 o.d), kind := .leaseret (s.w.val64 o.a) (s.w.val64 o.b) }).post
        (s.event 0x0B (s.w.val64 o.a) (s.w.val64 o.b) 0 0 0)).advance 1) ∧ Kept s t ∧ t.w = s.w1) ∧
  (∀ (s u : State) (o : OpO) (bs : List Byte), Runs (.leasereq o) u → u.w = s.w → s.recordOk o → s.free4 o [(o.a, 2)] →
    s.readRec (s.w.val64 o.a) 64 = .ok u bs → u.leaseFields bs = none → u.taskStall = none →
    (u.warpOps u.cur).any (·.acq) = false →
    ∃ t, exec (.leasereq o) s = .next
      (((t.pushCmd { opc := 0xD2, tag := some (s.w.val64 o.d), kind := .done, err := 2
                     rec_ := BitVec.ofNat 64 (s.w.val64 o.a) }).runDone u.nextId).advance 1) ∧ Kept u t ∧ t.w = u.w1) ∧
  (∀ (s u v : State) (o : OpO) (bs : List Byte) (q : Nat × Nat × Nat × Nat × Nat × Nat), Runs (.leasereq o) v → v.w = s.w →
    s.recordOk o → s.free4 o [(o.a, 2)] → s.readRec (s.w.val64 o.a) 64 = .ok u bs → u.leaseFields bs = some q →
    u.isReady .lease = true → u.w = s.w →
    u.planDest { opc := 0xD2, tag := some (s.w.val64 o.d), rec_ := BitVec.ofNat 64 (s.w.val64 o.a)
                 kind := .leasereq u.leng.nextTag q.1 q.2.1 q.2.2.1 q.2.2.2.2.1 q.2.2.2.2.2
                 dst := u.recDsts (s.w.val64 o.a) 0x30 0x40 } = .go v
      { opc := 0xD2, tag := some (s.w.val64 o.d), rec_ := BitVec.ofNat 64 (s.w.val64 o.a)
        kind := .leasereq u.leng.nextTag q.1 q.2.1 q.2.2.1 q.2.2.2.2.1 q.2.2.2.2.2
        dst := u.recDsts (s.w.val64 o.a) 0x30 0x40 } →
    ∃ t, exec (.leasereq o) s = .next
      (((t.pushCmd
        { opc := 0xD2, tag := some (s.w.val64 o.d), rec_ := BitVec.ofNat 64 (s.w.val64 o.a)
          kind := .leasereq u.leng.nextTag q.1 q.2.1 q.2.2.1 q.2.2.2.2.1 q.2.2.2.2.2
          dst := u.recDsts (s.w.val64 o.a) 0x30 0x40 }).sendLease v.nextId (recWord bs 1)).advance 1) ∧
      Kept v t ∧ t.w = v.w1) ∧
  (∀ (s u v : State) (o : OpO) (bs : List Byte), Runs (.evpost o) v → v.w = s.w → s.recordOk o → s.free4 o [(o.a, 2)] →
    s.readRec (s.w.val64 o.a) 64 = .ok u bs → postable (u.ctx s.w.ctx).priv (bits (recWord bs 1) 63 56) = true →
    u.planDest { opc := 0xD9, tag := some (s.w.val64 o.d), rec_ := BitVec.ofNat 64 (s.w.val64 o.a)
                 kind := .evpost (u.postRec bs) false 0 0, dst := u.recDsts (s.w.val64 o.a) 0 0x18 } = .go v
      { opc := 0xD9, tag := some (s.w.val64 o.d), rec_ := BitVec.ofNat 64 (s.w.val64 o.a)
        kind := .evpost (u.postRec bs) false 0 0, dst := u.recDsts (s.w.val64 o.a) 0 0x18 } →
    ∃ t, exec (.evpost o) s = .next
      (((t.pushCmd
        { opc := 0xD9, tag := some (s.w.val64 o.d), rec_ := BitVec.ofNat 64 (s.w.val64 o.a)
          kind := .evpost (u.postRec bs) false 0 0, dst := u.recDsts (s.w.val64 o.a) 0 0x18 }).runEvpost v.nextId).advance 1) ∧
      Kept v t ∧ t.w = v.w1)

/-! ## The management interface and the debugger -/

/-- R190, R193, R326, R330, R434, R435 and R437: CTXW0 with V 1 creates the selected context where it does not exist, and with
V 0 destroys it, but for one with a launch or a gang row, which raises the error count; the security processor sets KEYV.
A write to a register reaches that register alone, its reserved bits ignored; to a context's words as SWR writes them. A read answers what the register holds, its reserved bits 0;
a confidential context's words read 0; and FREADY and CREADY show which links and clusters are ready (R431, R435). -/
def Obligations.ContextsAndRegisters : Prop :=
  (∀ (s : State) (w0 : Word), bit w0.toNat 63 = true → (s.ctx s.mgmt.ctxsel).v = false →
    exec (.ctxCreate w0) s = .next (s.putCtx s.mgmt.ctxsel
      { v := true, priv := w0.getLsbD 62, conf := w0.getLsbD 61, host := (w0.extractLsb' 0 18).toNat })) ∧
  (∀ (s : State) (w0 : Word), bit w0.toNat 63 = true → (s.ctx s.mgmt.ctxsel).v = true → exec (.ctxCreate w0) s = .next s) ∧
  (∀ (s : State) (w0 : Word), bit w0.toNat 63 = false → (s.ctx s.mgmt.ctxsel).v = true →
    (∀ e ∈ s.launches, e.2.ctx ≠ s.mgmt.ctxsel) → (∀ e ∈ s.lyre.t.gang, e.2.ctx = s.mgmt.ctxsel → e.2.state = .free) →
    exec (.ctxDestroy w0) s = .next (s.putCtx s.mgmt.ctxsel {})) ∧
  (∀ (s : State) (w0 : Word), bit w0.toNat 63 = false → (s.ctx s.mgmt.ctxsel).v = true →
    ((∃ e ∈ s.launches, e.2.ctx = s.mgmt.ctxsel) ∨ ∃ e ∈ s.lyre.t.gang, e.2.ctx = s.mgmt.ctxsel ∧ e.2.state ≠ .free) →
    exec (.ctxDestroy w0) s = .next { s with errCnt := s.errCnt + 1 }) ∧
  (∀ (s : State) (c : Nat), s.isReady .secp = true → (s.ctx c).v = true →
    exec (.keyInstall c) s = .next (s.putCtx c { s.ctx c with keyv := true })) ∧
  (∀ (s : State) (x : Word) (k : Nat), k < Config.links → bits x.toNat 62 61 < 2 →
    exec (.registerWrite (.linkTable k) x) s =
      .next { s with links := put {} s.links k { s.link k with table := x &&& ~~~0xFFFFFE0000 } } ∧
    exec (.registerWrite (.scrubCtl k) x) s =
      .next { s with links := put {} s.links k { s.link k with
        scrubEn := x.getLsbD 63, scrubMode := bits x.toNat 62 61, gap := max 64 (bits x.toNat 31 0) } }) ∧
  (∀ (s : State) (x : Word),
    exec (.registerWrite .smpctl x) s =
      .next { s with smp := { s.smp with en := x.getLsbD 63, interval := max 256 (bits x.toNat 31 0) } } ∧
    exec (.registerWrite .plimit x) s = .next { s with mgmt := { s.mgmt with plimit := x.toNat } } ∧
    exec (.registerWrite .ctxsel x) s = .next { s with mgmt := { s.mgmt with ctxsel := (x.extractLsb' 0 16).toNat } }) ∧
  (∀ (s : State) (x : Word) (c : Nat), c < Config.cores → 10 ≤ x.toNat → x.toNat ≤ 24 →
    exec (.registerWrite (.tlog c) x) s = .next (s.putCore c { s.core c with tlog := x.toNat })) ∧
  (∀ (s : State) (x : Word) (r : Nat), r < 16 → (s.ctx s.mgmt.ctxsel).v = true →
    exec (.registerWrite (.ctxw (4 * r + 1)) x) s = .next (s.putCtx s.mgmt.ctxsel
      { s.ctx s.mgmt.ctxsel with rbase := put 0 (s.ctx s.mgmt.ctxsel).rbase r (x &&& ~~~0xFFF) })) ∧
  (∀ (s : State) (x : Word),
    (s.writeReg .smpsel x).view (.reg .smpsel) = x &&& 0x0FFFFFFFFFFFFFFF ∧
    (s.writeReg .smpbase x).view (.reg .smpbase) = x &&& ~~~0x3F ∧
    (s.writeReg .smplen x).view (.reg .smplen) = x &&& 0xFFFFF ∧
    (s.writeReg .smpri x).view (.reg .smpri) = x &&& 0xFFFFFFFF ∧
    (s.writeReg .smpctx x).view (.reg .smpctx) = x &&& 0xFFFF ∧
    (s.writeReg .dbgpc x).view (.reg .dbgpc) = x ∧
    (s.writeReg .lendwin x).view (.reg .lendwin) = x &&& ~~~0x1FF00000 ∧
    (s.writeReg .lyrcfg x).view (.reg .lyrcfg) = x &&& 0x1FFFF ∧
    (s.writeReg .ctxsel x).view (.reg .ctxsel) = x &&& 0xFFFF) ∧
  (∀ (s : State) (x : Word) (k : Nat), k < Config.links → x.getLsbD 62 = false → 64 ≤ (x.extractLsb' 0 32).toNat →
    (s.writeReg (.scrubCtl k) x).view (.reg (.scrubCtl k)) = x &&& 0xA0000000FFFFFFFF) ∧
  (∀ (s : State) (i : Nat), (s.ctx s.mgmt.ctxsel).conf = true → 1 ≤ i → i ≤ 68 → s.view (.reg (.ctxw i)) = 0) ∧
  (∀ (s : State) (k : Nat), k < 24 → (s.view .fready).getLsbD (24 + k) = s.isReady (.link k)) ∧
  (∀ (s : State) (c : Nat), c < 40 → (s.view .cready).getLsbD c = s.isReady (.clus c))

/-- R433, R436 and R437: reset released begins a start, in minimal mode after three failed ones; a firmware signature that
does not verify fails it (the model's choice: at once; log 45). Two seconds later the start fails with the lowest BREASON
whose condition is not met, or has succeeded. A junction too hot resets the module. What a reset keeps is DDR, the count of
failed starts and BREASON. The arithmetic clock follows the power of the last millisecond. -/
def Obligations.Starts : Prop :=
  (∀ s : State, s.mgmt.inReset = true → s.mgmt.stuck = false →
    exec (.resetRelease true true) s = .next { s with mgmt := { s.mgmt with
      inReset := false, starting := true, fwOk := true, minMode := decide (3 ≤ s.mgmt.starts) } }) ∧
  (∀ (s : State) (a b : Bool), s.mgmt.inReset = true → s.mgmt.stuck = false → (a && b) = false →
    ∃ t, exec (.resetRelease a b) s = .next t ∧ t.mgmt.inReset = true ∧ t.mgmt.breason = 5 ∧
      t.mgmt.starts = s.mgmt.starts + 1 ∧ t.mgmt.ready = [] ∧ t.warps = [] ∧ t.mem = s.mem) ∧
  (∀ s : State, s.mgmt.starting = true → (∀ n, startMeets s n) →
    ∃ t, exec .startCheck s = .next t ∧ t.mgmt = { s.mgmt with starting := false, starts := 0 } ∧ t.mem = s.mem ∧
      t.warps = s.warps) ∧
  (∀ (s : State) (r : Nat), s.mgmt.starting = true → 1 ≤ r → r ≤ 4 → ¬ startMeets s r →
    (∀ n, 1 ≤ n → n < r → startMeets s n) →
    ∃ t, exec .startCheck s = .next t ∧ t.mgmt.inReset = true ∧ t.mgmt.breason = BitVec.ofNat 8 r ∧
      t.mgmt.starts = s.mgmt.starts + 1 ∧ t.mgmt.ready = [] ∧ t.mem = s.mem) ∧
  (∀ s : State, ∃ t, exec .thermalReset s = .next t ∧ t.mgmt.inReset = true ∧ t.mgmt.ready = [] ∧ t.warps = [] ∧
    t.launches = [] ∧ t.ctxs = [] ∧ t.lyre = {} ∧ t.mem = s.mem ∧ t.harp = s.harp ∧ t.mgmt.starts = s.mgmt.starts ∧
    t.mgmt.breason = s.mgmt.breason) ∧
  (∀ (s : State) (n : Nat),
    (s.mgmt.plimit < n → 1200 < s.mgmt.mhz → ∃ t, exec (.powerAverage n) s = .next t ∧
      t = { s with smp := { s.smp with cnt := t.smp.cnt }, mgmt := { s.mgmt with mhz := max 1200 (s.mgmt.mhz - 100) } }) ∧
    (n ≤ s.mgmt.plimit → 100 * n ≤ 95 * s.mgmt.plimit →
      exec (.powerAverage n) s = .next { s with mgmt := { s.mgmt with mhz := min 2100 (s.mgmt.mhz + 100) } }) ∧
    (n ≤ s.mgmt.plimit → 95 * s.mgmt.plimit < 100 * n → exec (.powerAverage n) s = .next s))

/-- R358, R431 and R434: a function that the start releases becomes ready; one that fails is not ready any more, and no line
of a failed link's pages is held in L2. A function switched off loses its bit when nothing issued to it is left, and keeps
it until then. A port that fails hands its planes to the first live port after it; a port that becomes ready takes its own
plane back. -/
def Obligations.Readiness : Prop :=
  (∀ (s : State) (f : Function), present f = true → s.mgmt.released f = true → s.isReady f = false →
    ∃ t, exec (.functionReady f) s = .next t ∧ t.isReady f = true ∧ t.mem = s.mem ∧ t.warps = s.warps ∧ t.cmds = s.cmds ∧
      t.ops = s.ops ∧ t.ctxs = s.ctxs) ∧
  (∀ (s : State) (f : Function), s.mgmt.released f = false → exec (.functionReady f) s = .next s) ∧
  (∀ (s : State) (f : Function), s.isReady f = true → (f = .zith → ∀ c ∈ s.cmds, c.isNamed = false) →
    ∃ t, exec (.functionFail f) s = .next t ∧ t.isReady f = false ∧ t.mem = s.mem ∧ t.warps = s.warps ∧ t.cmds = s.cmds ∧
      ∀ k, f = .link k → ∀ e ∈ t.l2, linkOf (pageOf (128 * e.1)) ≠ k) ∧
  (∀ (s : State) (f : Function), present f = true → s.isReady f = true → s.mgmt.closing = [] →
    (f = .zith → ∀ c ∈ s.cmds, c.isNamed = false) → s.busyWith f s.nextId = false →
    ∃ t, exec (.functionDisable f) s = .next t ∧ t.isReady f = false ∧ f ∈ t.mgmt.off ∧ t.warps = s.warps ∧ t.mem = s.mem) ∧
  (∀ (s : State) (f : Function), present f = true → s.isReady f = true → s.mgmt.closing = [] → s.busyWith f s.nextId = true →
    ∃ t, exec (.functionDisable f) s = .next t ∧ f ∈ t.mgmt.off ∧
      t = { s with mgmt := { s.mgmt with off := t.mgmt.off, closing := [(f, s.nextId)] } }) ∧
  (∀ (s : State) (f : Function), ∃ t, exec (.functionEnable f false) s = .next t ∧ f ∉ t.mgmt.off ∧
    t = { s with mgmt := { s.mgmt with off := t.mgmt.off } }) ∧
  (∀ (s : State) (q r p : Nat), q < 16 → r < 16 → p < 16 → r ≠ q → s.portLive r = true →
    (∀ j, 0 < j → j < (r + 16 - q) % 16 → s.portLive ((q + j) % 16) = false) → s.portOf p = q →
    ∃ t, exec (.portFailure q) s = .next t ∧ t.portOf p = r ∧ t.portLive q = false ∧ t.portLive r = true ∧
      t.isReady (.port q) = false) ∧
  (∀ (s : State) (q p : Nat), q < 16 → p < 16 → s.portOf p ≠ q → s.portLive (s.portOf p) = true →
    ∃ t, exec (.portFailure q) s = .next t ∧ t.portOf p = s.portOf p) ∧
  (∀ (s : State) (q : Nat), q < 16 →
    ∃ t, exec (.portReady q) s = .next t ∧ t.portLive q = true ∧ t.portOf q = q ∧ t.isReady (.port q) = true ∧
      t.mem = s.mem ∧ t.warps = s.warps)

/-- R325: the debugger's HALT asks a warp to stop, or every warp of a context; RESUME lets a stopped warp, or every one of a
context, run from where it stands; RESUME-PC from an address of the same block. Each sets its status: 0, or 1 where the warp
does not exist, 2 where it is not stopped, 3 where the command is refused; and no other warp changes. -/
def Obligations.Debugger : Prop :=
  (∀ (s : State) (x : Word), dbgCmd x = 1 → s.dbgWarp x = true → (s.warp (dbgSlot x)).status = .run →
    (s.warp (dbgSlot x)).wait = .none →
    exec (.dbgHalt x) s = .next ((s.putWarp (dbgSlot x) { s.warp (dbgSlot x) with haltReq := true }).debugged x 0)) ∧
  (∀ (s : State) (x : Word), dbgCmd x = 2 → s.dbgWarp x = true → (s.warp (dbgSlot x)).status = .stopped →
    ∃ w, exec (.dbgResume x) s = .next ((s.putWarp (dbgSlot x) w).debugged x 0) ∧
      w = { s.warp (dbgSlot x) with
        status := .run, lastIssue := s.clk, ready0 := s.clk, urgent := false, skipWp := w.skipWp, skipBk := w.skipBk
        skipPc := (s.warp (dbgSlot x)).pc } ∧
      (w.skipBk = true → bits w.tcause.toNat 23 8 = 0x0902) ∧ (w.skipWp = true → bits w.tcause.toNat 23 8 = 0x0901)) ∧
  (∀ (s r : State) (x hw : Word) (w : Warp), dbgCmd x = 3 → (s.ctx (dbgCtx x)).conf = false → s.dbgWarp x = true →
    w = s.warp (dbgSlot x) → w.status = .stopped → s.mgmt.dbgpc ≠ w.pc →
    ({ s with cur := dbgSlot x }).fetchWord w.ctx w.hdr = .word hw r → r.cur = dbgSlot x →
    headerOk hw = true → inBlock w.hdr (hdrLen hw) s.mgmt.dbgpc = true →
    exec (.dbgResumePc x) s = .next (({ r with cur := s.cur }.putWarp (dbgSlot x)
      { w with status := .run, wait := .none, lastIssue := s.clk, ready0 := s.clk, urgent := false, pc := s.mgmt.dbgpc, hw := hw
               atHead := false }).debugged x 0)) ∧
  (∀ (s : State) (x : Word), dbgCmd x = 4 → (∀ e ∈ s.warps, s.warp e.1 = e.2) →
    (∀ e ∈ s.warps, e.2.ctx = dbgCtx x → e.2.status = .run ∧ e.2.wait = .none) →
    ∃ t, exec (.dbgHaltCtx x) s = .next t ∧ t = ({ s with warps := t.warps }).debugged x 0 ∧
      ∀ k, t.warp k = if k < 2 ^ 20 ∧ (s.warp k).ctx = dbgCtx x ∧ (s.warp k).status ≠ .absent then
        { s.warp k with haltReq := true } else s.warp k) ∧
  (∀ (s : State) (x : Word), dbgCmd x = 5 → (∀ e ∈ s.warps, s.warp e.1 = e.2) →
    ∃ t, exec (.dbgResumeCtx x) s = .next t ∧ t = ({ s with warps := t.warps }).debugged x 0 ∧
      ∀ k, if k < 2 ^ 20 ∧ (s.warp k).ctx = dbgCtx x ∧ (s.warp k).status = .stopped then
          (t.warp k).status = .run ∧ (t.warp k).pc = (s.warp k).pc ∧ (t.warp k).wait = (s.warp k).wait
        else t.warp k = s.warp k) ∧
  (∀ (s : State) (x : Word), 5 < dbgCmd x → exec (.dbgRefused x) s = .next (s.debugged x 3)) ∧
  (∀ (s : State) (x : Word), dbgCmd x = 3 → (s.ctx (dbgCtx x)).conf = true →
    exec (.dbgResumePc x) s = .next (s.debugged x 3) ∧ exec (.dbgRefused x) s = .next (s.debugged x 3)) ∧
  (∀ (s : State) (x : Word), s.dbgWarp x = false → (dbgCmd x = 1 → exec (.dbgHalt x) s = .next (s.debugged x 1)) ∧
    (dbgCmd x = 2 → exec (.dbgResume x) s = .next (s.debugged x 1))) ∧
  (∀ (s : State) (x : Word), dbgCmd x = 2 → s.dbgWarp x = true → (s.warp (dbgSlot x)).status ≠ .stopped →
    exec (.dbgResume x) s = .next (s.debugged x 2))

/-! ## The fabric -/

/-- R354 and R359 to R362: a packet of a reserved kind is dropped and counted. A key loaded into the idle slot sends new groups
from then on; a slot whose groups are acknowledged is cleared, and one of which a group is not acknowledged stays; a peer that
says it has cleared a slot clears it here; a NAK makes the groups from the one that it names go out again. A SACK takes the
packets that it covers off a flow; what is not acknowledged is sent once more, but not while its port can send no group, or
after sixteen times its port has failed. A group whose tag verifies hands on its packet, another is answered with a NAK and
counted. A flow whose peer is unreachable ends its line requests with PEER-UNREACHABLE. -/
def Obligations.FabricLinks : Prop :=
  (∀ (s : State) (n : Nat), n = 0 ∨ (9 ≤ n ∧ n ≤ 0xF) ∨ 0x1C ≤ n →
    exec (.packetReserved n) s = .next { s with errCnt := s.errCnt + 1 }) ∧
  (∀ (s : State) (q : Nat), (if (s.portLink q).tx then (s.portLink q).v0 else (s.portLink q).v1) = false →
    ∃ t, exec (.keyRotate q) s = .next t ∧ (t.portLink q).tx = !(s.portLink q).tx ∧
      (if (t.portLink q).tx then (t.portLink q).v1 else (t.portLink q).v0) = true ∧ t.mem = s.mem ∧ t.warps = s.warps) ∧
  (∀ (s : State) (q : Nat), (if (s.portLink q).tx then (s.portLink q).v0 else (s.portLink q).v1) = true →
    exec (.keyRotate q) s = .next s) ∧
  (∀ (s : State) (q : Nat), (∀ g ∈ (s.portLink q).buf, g.key ≠ (s.portLink q).tx → s.groupDone g = true) →
    exec (.keySlotClear q) s = .next { (s.putPort q { s.portLink q with
      v0 := (s.portLink q).v0 && !(s.portLink q).tx, v1 := (s.portLink q).v1 && (s.portLink q).tx
      buf := (s.portLink q).buf.filter fun g => g.key == (s.portLink q).tx }).sendGroup q ctlFlow (Bool.n !(s.portLink q).tx) with
      outbox := .keyCleared q :: s.outbox }) ∧
  (∀ (s : State) (q : Nat) (g : Group), g ∈ (s.portLink q).buf → g.key ≠ (s.portLink q).tx → s.groupDone g = false →
    exec (.keySlotClear q) s = .next s) ∧
  (∀ (s : State) (q : Nat) (slot : Bool), (s.portLink q).v0 = true → (s.portLink q).v1 = true → (s.portLink q).tx ≠ slot →
    ∃ t, exec (.flitGroup q (!slot) (s.portLink q).rxNext true ctlFlow (Bool.n slot)) s = .next t ∧
      (if slot then (t.portLink q).v1 else (t.portLink q).v0) = false ∧
      (if slot then (t.portLink q).v0 else (t.portLink q).v1) = true ∧ t.mem = s.mem ∧ t.warps = s.warps) ∧
  (∀ (s : State) (q : Nat) (pre rest : List Group) (g : Group), (s.portLink q).buf = pre ++ g :: rest →
    (∀ e ∈ pre, e.seq ≠ g.seq) →
    exec (.linkNak q g.seq) s = .next { s with
      keys := put {} s.keys q { s.portLink q with buf := g :: rest, replay := g :: rest } }) ∧
  (∀ (s : State) (f : Nat), ∃ (t : State) (m : Word), exec (.sackDue f) s = .next t ∧
    t.outbox = .sack (f / 16) (f % 16) ((s.flow f).cum / 64 * 64) (s.flow f).cum m :: s.outbox ∧
    ∀ i, i < 64 → m.getLsbD i =
      (decide ((s.flow f).cum / 64 * 64 + i < (s.flow f).cum) || (s.flow f).got.contains ((s.flow f).cum / 64 * 64 + i))) ∧
  (∀ (s : State) (f base cum : Nat) (m : Word), (s.flow f).queued = [] →
    ∃ t, exec (.sackPkt f base cum m) s = .next t ∧
      (t.flow f).unack.map (·.1) = ((s.flow f).unack.filter fun e => !(seqBefore e.1 cum ||
        (decide ((e.1 + 2 ^ 32 - base) % 2 ^ 32 < 64) && m.getLsbD ((e.1 + 2 ^ 32 - base) % 2 ^ 32)))).map (·.1)) ∧
  (∀ (s : State) (f seq n line : Nat), (s.flow f).unack = [(seq, n, line)] → n < 16 →
    ((s.portLink (s.portOf (f % 16))).canSend = false → exec (.retransmitTimeout f seq) s = .next s) ∧
    ((s.portLink (s.portOf (f % 16))).canSend = true → ∃ t, exec (.retransmitTimeout f seq) s = .next t ∧ (t.flow f).unack = [(seq, n + 1, line)] ∧ t.plive = s.plive ∧
      (t.portLink (s.portOf (f % 16))).txNext = ((s.portLink (s.portOf (f % 16))).txNext + 1) % 2 ^ 16)) ∧
  (∀ (s : State) (f seq n line : Nat), (s.flow f).unack = [(seq, n, line)] → 16 ≤ n →
    ∃ t, exec (.retransmitTimeout f seq) s = .next t ∧ t.portLive (s.portOf (f % 16)) = false) ∧
  (∀ (s : State) (q f n : Nat) (slot : Bool), (if slot then (s.portLink q).v1 else (s.portLink q).v0) = true → f ≠ ctlFlow →
    (s.flow f).got = [] → (s.flow f).cum = n → n + 1 < 2 ^ 32 →
    ∃ t, exec (.flitGroup q slot (s.portLink q).rxNext true f n) s = .next t ∧ (t.flow f).cum = n + 1 ∧
      (t.flow f).got = [] ∧ (t.portLink q).rxNext = ((s.portLink q).rxNext + 1) % 2 ^ 16) ∧
  (∀ (s : State) (q f n : Nat) (slot : Bool), (if slot then (s.portLink q).v1 else (s.portLink q).v0) = true →
    exec (.flitGroup q slot (s.portLink q).rxNext false f n) s = .next { s with
      keys := put {} s.keys q { s.portLink q with fails := min ((s.portLink q).fails + 1) (2 ^ 32 - 1) }
      outbox := .nak q (s.portLink q).rxNext :: s.outbox }) ∧
  (∀ (s : State) (f : Nat), (s.flow f).unack = [] → exec (.peerUnreachable f) s = .next s) ∧
  (∀ (s : State) (f : Nat), s.homeWaits = [] → (s.flow f).unack ≠ [] →
    (∀ r ∈ s.peerReqs, r.dev = f / 16 → r.line % 16 = f % 16 → r.op = 0) →
    ∃ t, exec (.peerUnreachable f) s = .next t ∧ (t.flow f).unack = [] ∧ (t.flow f).queued = [] ∧ t.mem = s.mem ∧
      ∀ r ∈ s.peerReqs, r.dev = f / 16 → r.line % 16 = f % 16 →
        look none t.peerFail (failKey r.line r.excl) = some .peerUnreachable ∧ ∀ q ∈ t.peerReqs, q.id ≠ r.id)

/-- R363 to R365 and R373: at the home of a line that no device holds, a read answers its data and notes a sharer, or an owner
where it is exclusive; one that another device owns is recalled first, sharers are told first; an atomic packet reads and
writes the bytes of its lane and answers the old value. A write-back puts its bytes home, or is dropped where the region is
revoked. A device that holds a copy drops it on INVALIDATE, hands it back on RECALL, and acknowledges what it does not hold. A
line that answers a request is held as it was asked for; a failure is kept for the access that asked. -/
def Obligations.PeerLines : Prop :=
  (∀ (s : State) (src ia req : Nat) (p : Spot), s.homeWaits = [] → s.revokedFor src ia = false → s.at .load ia = .loc p →
    s.cmdOwns (ia / 128) = false → s.cmdOwns (p.ia / 128) = false → s.dirEntry (p.ia / 128) = {} →
    exec (.readShared src ia req) s = .next { s with
      dir := put {} s.dir (p.ia / 128) { sharers := [src] }, outbox := .response src (ia / 128) (s.lineOf p req) :: s.outbox }) ∧
  (∀ (s : State) (src ia req d : Nat) (p : Spot), s.homeWaits = [] → s.revokedFor src ia = false → s.at .load ia = .loc p →
    s.cmdOwns (ia / 128) = false → s.cmdOwns (p.ia / 128) = false → (s.dirEntry (p.ia / 128)).owner = some d → d ≠ src →
    look none s.peerFail (failKey (p.ia / 128) false) = none →
    exec (.readShared src ia req) s = .next { s with
      outbox := .recall d (128 * (p.ia / 128)) true :: s.outbox
      homeWaits := [{ src := src, req := req, line := p.ia / 128, excl := false, acks := [d], keep := true, ia := ia }] }) ∧
  (∀ (s : State) (src ia req : Nat) (p : Spot), s.homeWaits = [] → s.revokedFor src ia = false → s.at .store ia = .loc p →
    s.cmdOwns (ia / 128) = false → s.cmdOwns (p.ia / 128) = false → s.dirEntry (p.ia / 128) = {} →
    ∃ t, exec (.readExclusive src ia req) s = .next t ∧ t = { s with
      dir := put {} s.dir (p.ia / 128) { owner := some src }, outbox := .response src (ia / 128) (s.lineOf p req) :: s.outbox
      warps := t.warps }) ∧
  (∀ (s : State) (src ia req : Nat) (p : Spot), s.homeWaits = [] → s.revokedFor src ia = false → s.at .store ia = .loc p →
    s.cmdOwns (ia / 128) = false → s.cmdOwns (p.ia / 128) = false → (s.dirEntry (p.ia / 128)).owner = none →
    src ∉ (s.dirEntry (p.ia / 128)).sharers → (s.dirEntry (p.ia / 128)).sharers ≠ [] →
    exec (.readExclusive src ia req) s = .next { s with
      dir := put {} s.dir (p.ia / 128) {}
      outbox := ((s.dirEntry (p.ia / 128)).sharers.map fun d => .invalidate d (128 * (p.ia / 128))).reverse ++ s.outbox
      homeWaits := [{ src := src, req := req, line := p.ia / 128, excl := true, acks := (s.dirEntry (p.ia / 128)).sharers
                      ia := ia }] }) ∧
  (∀ (s : State) (src req : Nat) (a : RmwLane) (wide : Bool) (p : Spot) (old : Nat), s.homeWaits = [] →
    s.revokedFor src a.addr = false → s.at .rmw a.addr = .loc p → s.cmdOwns (a.addr / 128) = false →
    s.cmdOwns (p.ia / 128) = false → s.dirEntry (p.ia / 128) = {} → (∀ e ∈ s.l1, e.1 % 2 ^ 49 = p.ia / 128 → e.2.dirty = 0) →
    (s.homeSector p (a.addr % 128 / 16)).mark = .none →
    old = ofBytes (((s.homeSector p (a.addr % 128 / 16)).data.drop (a.addr % 16)).take (if wide then 8 else 4)) →
    exec (.atomicPkt src { req := req, op := .add, wide := wide, signed := false, lanes := [a] }) s =
      .next ((s.writeReady (.spot p) a.addr noWarp
          ((List.range (if wide then 8 else 4)).map fun i => (a.addr % 128 + i, nth 0 (toBytes (if wide then 8 else 4)
            ((old + a.opnd.toNat) % 2 ^ (if wide then 64 else 32))) i))).respond
        src (a.addr / 128) req (.olds [(a.lane, BitVec.ofNat 64 old)] []))) ∧
  (∀ (s : State) (src ia : Nat) (mask : BitVec 128) (data : List Byte) (p : Spot), s.homeWaits = [] →
    s.revokedFor src ia = false → s.at {} ia = .loc p → s.dirEntry (p.ia / 128) = { owner := some src } → mask ≠ 0 →
    exec (.writeBack src ia mask [] data) s = .next (({ s with dir := put {} s.dir (p.ia / 128) {} }).writeReady (.spot p) ia noWarp
      (((List.range 128).filter fun i => mask.getLsbD i).map fun i => (i, nth 0 data i)))) ∧
  (∀ (s : State) (src ia : Nat) (mask : BitVec 128) (marks : List Origin) (data : List Byte), s.homeWaits = [] →
    s.revokedFor src ia = true →
    exec (.writeBack src ia mask marks data) s = .next { s with leng := { s.leng with dropped := s.leng.dropped + 1 } }) ∧
  (∀ (s : State) (dev ia : Nat), ∃ t, exec (.invalidatePkt dev ia) s = .next t ∧
    t.outbox = .response dev (ia / 128) { req := ia / 128, ans := .ack } :: s.outbox ∧ t.mem = s.mem ∧
    ∀ k, t.l2Line k = if k ∈ s.heldAs dev ia then {} else s.l2Line k) ∧
  (∀ (s : State) (dev ia : Nat) (keep : Bool), (∀ k ∈ s.heldAs dev ia, (s.l2Line k).st ≠ .owned) →
    exec (.recallPkt dev ia keep) s =
      .next { s with outbox := .response dev (ia / 128) { req := ia / 128, ans := .ack } :: s.outbox }) ∧
  (∀ (s : State) (dev ia pia k : Nat) (l2 l1 : Bool), s.homeWaits = [] → s.heldAs dev ia = [k] → (s.l2Line k).st = .owned →
    s.at {} (128 * k) = .peer dev pia l2 l1 → s.cmdOwns k = false →
    ∃ (t : State) (mask : BitVec 128) (marks : List Origin) (data : List Byte),
      exec (.recallPkt dev ia false) s = .next t ∧ t.outbox = .writeBack dev pia mask marks data :: s.outbox ∧
      t.l2Line k = {} ∧ t.mem = s.mem ∧
      ∀ i, i < 128 → mask.getLsbD i = (s.l2Line k).dirty.getLsbD (i / 16) ∧ nth 0 data i = look 0 (s.l2Line k).data i) ∧
  (∀ (s : State) (r : PeerReq) (data : List Byte) (marks : List Origin) (install : Bool), s.peerReqs = [r] → r.op = 0 →
    s.inSet (s.setOf r.line) = [] → s.versionWays (s.setOf r.line) = 0 → ∃ t, exec (.responsePkt r.dev { req := r.id, ans := .line data marks install }) s = .next t ∧
      t = { s with peerReqs := [], l2 := t.l2 } ∧ (t.l2Line r.line).have_ = 0xFF ∧ (t.l2Line r.line).dirty = 0 ∧
      (t.l2Line r.line).st = (if r.excl then .owned else if install && s.keepsLine r then .shared else .once) ∧
      ∀ i, i < 128 → nth .none marks (i / 16) = .none → data.length = 128 → look 0 (t.l2Line r.line).data i = nth 0 data i) ∧
  (∀ (s : State) (r : PeerReq) (c : MemCause), s.peerReqs = [r] → r.op = 0 →
    exec (.responsePkt r.dev { req := r.id, ans := .failed c }) s = .next { s with
      peerReqs := [], peerFail := put none s.peerFail (failKey r.line r.excl) (some c) })

/-! ## The Harp and the Lyre -/

/-- R381 and R417: the Harp numbers a post with the next SEQ and an ATIME that does not fall, and sends it to every device; it
posts a TICK after a quiet millisecond, and the LOSS of a device. -/
def Obligations.NumbersEvents : Prop :=
  (∀ (s : State) (e : Rec8) (at_ : Nat), ∃ t, exec (.postPkt e at_) s = .next t ∧ t = { s with
      harp := t.harp, outbox := t.outbox, cmds := t.cmds } ∧
    t.harp.seq = s.harp.seq + 1 ∧ t.harp.atime = max at_ s.harp.atime ∧ t.harp.lastDelivery = t.harp.atime ∧
    t.outbox = .event { e with
      w0 := BitVec.ofNat 64 (s.harp.seq + 1), w1 := e.w1 &&& ~~~0x2000000000, w2 := BitVec.ofNat 64 t.harp.atime } :: s.outbox) ∧
  (∀ s : State, s.harp.lastDelivery + 1000000 ≤ s.atime → ∃ (t : State) (e : Rec8), exec .harpTick s = .next t ∧
    t.harp.seq = s.harp.seq + 1 ∧ t.outbox = .event e :: s.outbox ∧ evType e = 0x0E ∧ t.mem = s.mem ∧ t.warps = s.warps) ∧
  (∀ s : State, s.atime < s.harp.lastDelivery + 1000000 → exec .harpTick s = .next s) ∧
  (∀ (s : State) (d : Nat), d < 2 ^ 18 → ∃ (t : State) (e : Rec8), exec (.harpLoss d) s = .next t ∧
    t.harp.seq = s.harp.seq + 1 ∧ t.outbox = .event e :: s.outbox ∧ evType e = 6 ∧ bits e.w3.toNat 63 46 = d ∧
    t.mem = s.mem ∧ t.warps = s.warps)

/-- R383 and R390 to R392: a running Lyre stores an event in its slot of the ring, drops a copy, and is fenced by one that is
more than the ring holds ahead; it asks again for what is missing, and the Harp sends what it still holds. A report that leaves
the device's digest in a minority fences it. A source that runs answers a request for a snapshot with its point and the events
after it; the snapshot goes out in packets of 128 bytes, and with the last of them one that the majority confirms is taken up,
another is asked for again. A Lyre that becomes ready rejoins and posts its JOIN. -/
def Obligations.LyrePackets : Prop :=
  (∀ (s : State) (e : Rec8), s.isReady .lyre = true → s.lyre.mode = .running →
    (evSeq e ≤ s.lyre.seq.toNat ∨ s.stands (evSeq e) = true → exec (.eventPkt e) s = .next s) ∧
    (s.lyre.seq.toNat < evSeq e → s.stands (evSeq e) = false → evSeq e ≤ s.lyre.seq.toNat + Config.ringSlots →
      exec (.eventPkt e) s = .next { s with lyre := { s.lyre with
        ring := put {} s.lyre.ring (evSeq e % Config.ringSlots) e } }) ∧
    (s.lyre.seq.toNat + Config.ringSlots < evSeq e → s.stands (evSeq e) = false →
      ∃ t, exec (.eventPkt e) s = .next t ∧ t.lyre.mode = .rejoining ∧ t.lyre.reason = 2 ∧ t.lyre.t = {} ∧
        t.lyre.fences = min (s.lyre.fences + 1) 0xFFFF ∧ t.mem = s.mem ∧ t.warps = s.warps)) ∧
  (∀ (s : State) (src a b : Nat), s.harp.seq < a + s.harp.held.length →
    exec (.resendPkt src (a, b)) s = .next { s with outbox :=
      ((s.harp.held.filter fun e => decide (a ≤ evSeq e ∧ evSeq e ≤ b)).map (Packet.eventTo src)) ++ s.outbox }) ∧
  (∀ (s : State) (n : Nat), s.isReady .lyre = true → s.lyre.mode = .running → s.nextStanding = some n →
    s.lyre.seq.toNat + 1 < n →
    exec .missingEventTimeout s = .next { s with outbox := .resend (s.lyre.seq.toNat + 1) (n - 1) :: s.outbox }) ∧
  (∀ (s : State) (src q : Nat) (d v : Word) (p : Snapshot) (u : State), s.isReady .lyre = true → q % 16 = 0 →
    s.lyre.mode = .running → s.lyre.points = [(p, false)] → s.lyre.reports = [] →
    u = { s with lyre := { s.lyre with reports := [(src, q, d)] } } →
    majority (LyreTables.members p.tables) (u.votes p) = some v →
    ∃ t, exec (.reportPkt src q d) s = .next t ∧ t.lyre.reports = [(src, q, d)] ∧
      (v = p.dig → t.lyre.mode = .running ∧ t.lyre.points = [(p, true)]) ∧
      (v ≠ p.dig → t.lyre.mode = .rejoining ∧ t.lyre.reason = 1 ∧ t.lyre.t = {})) ∧
  (∀ (s : State) (src s0 : Nat) (p : Snapshot), s.isReady .lyre = true → s.lyre.mode = .running → s.pointFor s0 = some p →
    (∀ i, i < s.lyre.seq.toNat - p.s0 → s.stands (p.s0 + 1 + i) = true) →
    exec (.snapreq src s0) s = .next { s with outbox :=
      ((List.range (s.lyre.seq.toNat - p.s0)).map fun i => Packet.eventTo src (s.ringAt (p.s0 + 1 + i))).reverse ++
        ((snapPackets src p).reverse ++ s.outbox) }) ∧
  (∀ (src i : Nat) (p : Snapshot), (snapPackets src p)[i]? =
    if i < 3104 then some (.snap src p (128 * i) (decide (i = 3103))) else none) ∧
  (∀ (s : State) (src i : Nat) (p : Snapshot), s.lyre.mode = .rejoining → s.lyre.source = some src → i < 3104 →
    s.lyre.snapGot < 3103 → exec (.snapPkt src ⟨p, 128 * i, decide (i = 3103)⟩) s =
      .next { s with lyre := { s.lyre with snapGot := s.lyre.snapGot + 1 } }) ∧
  (∀ (s : State) (src i : Nat) (p : Snapshot), s.lyre.mode = .rejoining → s.lyre.source = some src → i < 3104 →
    s.lyre.snapGot = 3103 → majority (LyreTables.members p.tables) ((s.lyre.reports.filter fun r =>
      decide (r.2.1 = p.s0) && decide (r.1 ≠ s.did)).map fun r => r.2.2) = some p.dig →
    LyreTables.live p.tables = s.zith.live → p.s0 < 2 ^ 64 → (∃ r ∈ s.lyre.reports, p.s0 < r.2.1) →
    exec (.snapPkt src ⟨p, 128 * i, decide (i = 3103)⟩) s = .next { s with lyre := { s.lyre with
      t := p.tables, seq := BitVec.ofNat 64 p.s0, dig := p.dig, replay := true, source := none, points := [(p, true)]
      snapGot := 0 } }) ∧
  (∀ (s : State) (src i : Nat) (p : Snapshot), s.lyre.mode = .rejoining → s.lyre.source = some src → s.lyre.reports = [] →
    i < 3104 → s.lyre.snapGot = 3103 → s.lyre.rejects < 2 →
    exec (.snapPkt src ⟨p, 128 * i, decide (i = 3103)⟩) s = .next { s with
      lyre := { s.lyre with rejects := s.lyre.rejects + 1, snapGot := 0 }, outbox := .snapreq src 0 :: s.outbox }) ∧
  (∀ s : State, s.did < 2 ^ 18 → ∃ (t : State) (e : Rec8), exec .lyreReady s = .next t ∧ t.lyre.mode = .rejoining ∧
    t.lyre.reason = 4 ∧ t.isReady .lyre = true ∧ t.outbox = .post e :: s.outbox ∧ s.posts e 7 ∧
    bits e.w3.toNat 63 46 = s.did ∧ t.mem = s.mem ∧ t.warps = s.warps)

/-- R383, R385 and R389: the event after the last one applied, where it stands in the ring and is of the sort of the step,
leaves the tables as it changes them, its SEQ in LYRSEQ and itself folded into LYRDIG; where it asks nothing of this device, or
its effects have been carried out before, nothing else changes. An event of another sort, or none, leaves all as it is. An event
of a reserved type, or with a bit set that must be zero, changes no table. -/
def Obligations.AppliesEvents : Prop :=
  (∀ (i : Instr) (s : State) (ty : Nat → Prop) (e : Rec8), appliesType i = some ty → s.isReady .lyre = true →
    s.lyre.mode = .running → s.ringAt (s.lyre.seq.toNat + 1) = e → evSeq e = s.lyre.seq.toNat + 1 → ty (evType e) →
    evSeq e % 16 ≠ 0 → s.noPosts → LyreTables.live (s.lyre.t.apply e (s.grantKept e)).t = s.zith.live →
    ((s.lyre.t.apply e (s.grantKept e)).fx = [] ∨ evSeq e ≤ s.lyre.top) →
    ∃ t, exec i s = .next t ∧ t = { s with lyre := t.lyre, smp := { s.smp with cnt := t.smp.cnt } } ∧
      t.lyre = { s.lyre with
        t := (s.lyre.t.apply e (s.grantKept e)).t, seq := BitVec.ofNat 64 (evSeq e), top := max s.lyre.top (evSeq e),
        dig := foldDigest s.lyre.dig e (movedWord s.didOf (s.lyre.t.apply e (s.grantKept e)).fx) }) ∧
  (∀ (i : Instr) (s : State) (ty : Nat → Prop), appliesType i = some ty →
    (s.stands (s.lyre.seq.toNat + 1) = false ∨ ¬ ty (evType (s.ringAt (s.lyre.seq.toNat + 1))) ∨ s.isReady .lyre = false) →
    exec i s = .next s) ∧
  (∀ (t : LyreTables) (e : Rec8) (fb : Bool), cleanEvent e = false → t.apply e fb = { t := t }) ∧
  (∀ (a : Applying) (e : Rec8), evType e = 9 → (a.act e false).t = a.t) ∧
  (∀ e : Rec8, evType e = 0 ∨ 0x10 ≤ evType e → cleanEvent e = false) ∧
  (∀ (a : Applying) (e : Rec8) (fb : Bool) (row : Nat) (g : GangRow), a.t.gangRow (bits e.w3.toNat 63 32) = some (row, g) →
    (evType e = 3 → g.state = .placed →
      a.act e fb = { t := a.t.putGang row { g with state := .blocked }, fx := a.fx ++ [.block row] }) ∧
    (evType e = 4 → g.state = .blocked →
      a.act e fb = { t := a.t.putGang row { g with state := .placed }, fx := a.fx ++ [.unblock row] }) ∧
    (evType e = 5 → a.act e fb = { t := a.t.putGang row { g with halt := true }, fx := a.fx })) ∧
  (∀ (a : Applying) (e : Rec8) (fb : Bool) (lid : Nat) (r : LeaseRow), lid < 1024 → bits e.w3.toNat 9 0 = lid → a.t.leaseAt lid = r →
    r.gseq = e.w4.toNat → r.state = .granted →
    (evType e = 0x0A → evOrigin e = r.lender → a.act e fb =
      { t := a.t.putLease lid { r with state := .reclaiming, deadline := evTime e + r.bound * 1000000 }
        fx := a.fx ++ [.close lid] }) ∧
    (evType e = 0x0B → evOrigin e = r.borrower → a.act e fb =
      { t := a.t.putLease lid { r with state := .returning }, fx := a.fx ++ [.close lid] }))

/-! ## Leases and named tiles -/

/-- R367 to R371 and R408: a lender posts a GRANT for the lowest run of its lending window that nothing is lent of, or refuses;
a refused request's answer is GSEQ, OK and LID 0; at a row's deadline its lender posts REVOKE. A chunk of the fill goes from the
fallback frame to the lender, line by line; a dirty chunk of the copy-back comes back under the fallback entry; after the last
page DONE is posted. -/
def Obligations.LeaseSteps : Prop :=
  (∀ (s : State) (n b : Nat), 0 < n → (s.lendRun n = some b → s.lendable b n ∧ ∀ c, s.lendable c n → b ≤ c) ∧
    (s.lendRun n = none → ∀ c, ¬ s.lendable c n)) ∧
  (∀ (s : State) (src tag bound n term : Nat) (f b : Word), (s.isReady .lease = false ∨ n = 0 ∨ s.lendRun n = none) →
    exec (.leasereqPacket src tag bound n term f b) s = .next { s with outbox := .leasenak src tag :: s.outbox }) ∧
  (∀ (s : State) (src tag bound n term r : Nat) (f b : Word), s.isReady .lease = true → 0 < n → s.lendRun n = some r →
    s.posting = true → s.did < 2 ^ 18 → ∃ (t : State) (e : Rec8), exec (.leasereqPacket src tag bound n term f b) s = .next t ∧
      t = { s with outbox := .post e :: s.outbox, leng := { s.leng with grants := s.leng.grants ++ [(src, r, n)] } } ∧
      s.posts e 9 ∧ (src < 2 ^ 18 → bound < 64 → n < 2 ^ 20 → bits e.w3.toNat 63 46 = src ∧ bits e.w3.toNat 45 40 = bound ∧
        bits e.w3.toNat 39 20 = n) ∧ e.w5 = BitVec.ofNat 64 (s.atime + term) ∧ e.w6 = f) ∧
  (∀ (s : State) (c : Cmd) (tag l b n f x : Nat), s.only c → c.kind = .leasereq tag l b n f x → c.dst = [] →
    exec (.leasenak tag) s = .next (({ s with cmds := [{ c with
      kind := .answer 9 [(c.rec_.toNat + 0x30, 0), (c.rec_.toNat + 0x38, 0)] }] }).runAnswer c.id) ∧
    ∃ t, exec (.leasenak tag) s = .next t ∧ t.cmds = [] ∧ ∀ g, c.tag = some g → g < 64 → t.tagSet c.core g 9) ∧
  (∀ (s : State) (lid : Nat), (s.leaseRow lid).state = .reclaiming → (s.leaseRow lid).lender = s.did →
    (s.leaseRow lid).deadline ≤ s.atime → s.posting = true → s.did < 2 ^ 18 →
    ∃ e, exec (.leaseDeadline lid) s = .next { s with outbox := .post e :: s.outbox } ∧ s.posts e 0x0D ∧
      e.w3 = BitVec.ofNat 64 lid ∧ e.w4 = BitVec.ofNat 64 (s.leaseRow lid).gseq) ∧
  (∀ (s : State) (lid : Nat), s.atime < (s.leaseRow lid).deadline → exec (.leaseDeadline lid) s = .next s) ∧
  (∀ (s u : State) (lid : Nat) (m : LeaseMove) (ls : List (List Byte × List Origin)), s.move lid = m → m.row.state ≠ .free →
    m.closing = false → m.page < m.row.npages → s.isReady .lease = true → 0 < m.chunk → m.chunk < 511 →
    s.chunkUnder ((m.row.bbase + m.page) * 2 ^ 21 + 4096 * m.chunk) m.fb = (u, some ls) →
    exec (.leaseFillChunk lid) s = .next (((u.sendChunk m.row.lender ((m.row.lbase + m.page) * 2 ^ 21 + 4096 * m.chunk) ls).purge
      ((m.row.bbase + m.page) * 2 ^ 21 + 4096 * m.chunk) 4096).putMove lid { m with chunk := m.chunk + 1 })) ∧
  (∀ (s : State) (lid : Nat), (s.move lid).closing = true ∨ s.isReady .lease = false → exec (.leaseFillChunk lid) s = .next s) ∧
  (∀ (s : State) (lid : Nat) (m : LeaseMove) (d : List Nat), s.move lid = m → m.row.state ≠ .free → m.closing = true →
    m.posted = false → s.isReady .lease = true → m.backPages ≤ m.cur → s.posting = true → s.did < 2 ^ 18 →
    ∃ e, exec (.leaseCopybackChunk lid d) s = .next (({ s with outbox := .post e :: s.outbox }).putMove lid
      { m with posted := true }) ∧ s.posts e 0x0C) ∧
  (∀ (s u : State) (lid c : Nat) (m : LeaseMove) (d : List Nat) (ls : List (List Byte × List Origin)), s.move lid = m →
    m.row.state ≠ .free → m.closing = true → m.posted = false → s.isReady .lease = true → m.cur < m.backPages →
    m.begun = true → c < 512 → c ∉ m.copied → (∀ k, k < c → k ∈ m.copied) →
    s.chunkUnder ((m.row.bbase + m.cur) * 2 ^ 21 + 4096 * c) (m.lent m.cur m.cfb) = (u, some ls) →
    exec (.leaseCopybackChunk lid d) s = .next ((({ u with l2 := u.l2.filter fun e =>
      !(lineIn ((m.row.bbase + m.cur) * 2 ^ 21 + 4096 * c) 4096 e.1) }).storeChunk
        ((m.row.bbase + m.cur) * 2 ^ 21 + 4096 * c) m.cfb ls).putMove lid { m with copied := m.copied ++ [c] }))

/-- R375 to R379 and R411: at its home an interest in a stored tile is answered with its lines, one in a tile that is not there
is kept with its deadline; a tile's lines are gathered, and a whole tile is stored. An interest that the full table held is
tried again, and one whose deadline has come ends with cause 0x0B. A word notification makes the warp that waits for the word
read it again. -/
def Obligations.NamedTiles : Prop :=
  (∀ (s : State) (src size dl : Nat) (n : TileName) (t : Tile), s.zithReady = true → s.tileOf n = some t →
    exec (.interestPacket src n size dl) s = .next (((s.count 0x16).touchTile n).sendTile src t)) ∧
  (∀ (s : State) (src size dl : Nat) (n : TileName), s.zithReady = true → s.tileOf n = none → s.zith.pit = [] →
    exec (.interestPacket src n size dl) s = .next { s with zith := { s.zith with
      pit := [{ name := n, remote := [(src, dl, size)] }] } }) ∧
  (∀ (s : State) (src size idx : Nat) (n : TileName) (ms : List Origin) (d : List Byte), s.zithReady = true →
    s.zith.arriving = [] → idx < size → 1 < size →
    exec (.tilePkt src n size idx ms d) s = .next { s with zith := { s.zith with
      arriving := [{ name := n, src := src, size := size, lines := put ([], []) [] idx (d, ms) }] } }) ∧
  (∀ (s : State) (src : Nat) (n : TileName) (ms : List Origin) (d : List Byte), s.zithReady = true → s.zith.arriving = [] →
    d ≠ [] → s.homeOf n ≠ s.did → s.zith.pit = [] → (∀ t ∈ s.zith.store, t.name ≠ n) →
    sumOf (·.size) s.zith.store + 1 ≤ Config.tileLines →
    exec (.tilePkt src n 1 0 ms d) s = .next { s with zith := { s.zith with
      store := s.zith.store ++ [{ name := n, size := 1, home := false, lines := [d], marks := [ms] }] } }) ∧
  (∀ (s : State) (c : Cmd) (n : TileName) (size dl : Nat), s.only c → c.kind = .interest n size dl → s.zithReady = true →
    s.zith.waitTable = [c.id] → s.atime < dl → s.zith.pit = [] → s.tileOf n = none → s.homeOf n = s.did →
    exec (.interestRetry c.id) s = .next { s with zith := { s.zith with
      waitTable := [], pit := [{ name := n, waiters := [(c.id, dl)] }] } }) ∧
  (∀ (s : State) (c : Cmd) (n : TileName) (size dl : Nat), s.only c → c.kind = .interest n size dl → c.err = 0 → c.src = [] →
    c.dst = [] → s.zith.waitTable = [c.id] → dl ≤ s.atime → s.tileOf n = none →
    ∃ t, exec (.waiterExpiry c.id) s = .next t ∧ t.cmds = [] ∧ t.zith.waitTable = [] ∧ t.mem = s.mem ∧
      ∀ g, c.tag = some g → g < 64 → t.tagSet c.core g 0x0B) ∧
  (∀ (s : State) (c : Cmd) (n : TileName) (size dl : Nat), s.only c → c.kind = .interest n size dl → s.atime < dl →
    exec (.waiterExpiry c.id) s = .next s) ∧
  (∀ (s : State) (ia k dev x id : Nat) (va thr : Word) (sc : Nat) (acq : Bool) (d : Opnd) (m : W32) (l2 l1 : Bool),
    (s.warp k).wait = .sigwait va thr sc acq d m id → (s.ctx (s.warp k).ctx).translate .load va = .ok x →
    s.at .load x = .peer dev ia l2 l1 → exec (.notifyPkt ia k) s = exec (.sigwaitReadResult k) s) ∧
  (∀ (s u : State) (ia k dev x id v : Nat) (va thr : Word) (sc : Nat) (p : BitVec 8) (m : W32) (l2 l1 : Bool),
    (s.warp k).status = .run → (s.warp k).wait = .sigwait va thr sc false (.p p) m id →
    (s.ctx (s.warp k).ctx).translate .load va = .ok x → s.at .load x = .peer dev ia l2 l1 →
    s.freshRead k id 8 m va = .val u v → thr.toNat ≤ v →
    ∃ w, StatusIs { u.warp k with wait := .none, ready0 := u.clk } w p m true ∧
      exec (.notifyPkt ia k) s = .next (u.asWarp k fun t => (t.setW w).advance 1)) ∧
  (∀ (s : State) (ia k : Nat), (s.warp k).wait = .none → exec (.notifyPkt ia k) s = .next s)

/-! ## Completion -/

/-- R124, R183, R199, R209, R210, R293 and R306: a load completes with the bytes that stand in its scratchpad or L1 sector, a
store with its own bytes in the scratchpad and no other changed, an atomic with the sum there and the old value in its
register; the operation is then over. A line that leaves an L1 writes its dirty bytes home first. The oldest stalled version
becomes irrevocable. The oldest deferred trap is taken before the next instruction. -/
def Obligations.CompletesAccesses : Prop :=
  (∀ (s : State) (o : Op) (a : Acc) (wd : Width) (d : Opnd) (cid off : Nat), s.alone o a → o.kind = .load wd d →
    a.loc = .spad cid off → (s.spadSector cid off).mark = .none →
    exec (.loadComplete o.id) s = .next (({ s with ops := [] }).putWarp o.warp ((s.warp o.warp).loaded wd d a.live a.lane
      (ofBytes (((s.spadSector cid off).data.drop (off % 16)).take a.n)) false))) ∧
  (∀ (s : State) (o : Op) (a : Acc) (wd : Width) (d : Opnd) (ia : Nat), s.alone o a → o.kind = .load wd d → a.loc = .mem ia →
    o.fresh = false → (s.warp o.warp).tskVer = 0 → bit (s.l1Line o.core (ia / 128)).valid.toNat (ia % 128 / 16) = true →
    ((s.l1Line o.core (ia / 128)).sector (ia % 128 / 16)).mark = .none →
    exec (.loadComplete o.id) s = .next (({ s.putL1 o.core (ia / 128) ((s.l1Line o.core (ia / 128)).usedBy o.ctx) with
      ops := [] }).putWarp o.warp ((s.warp o.warp).loaded wd d a.live a.lane
      (ofBytes ((((s.l1Line o.core (ia / 128)).sector (ia % 128 / 16)).data.drop (ia % 16)).take a.n)) false))) ∧
  (∀ (s : State) (o : Op) (a : Acc) (cid off : Nat), s.alone o a → o.kind = .store → a.loc = .spad cid off →
    off + a.n < 2 ^ 40 → 0 < a.n → off % 16 + a.n ≤ 16 → a.data.length = a.n → (s.spadSector cid off).mark = .none →
    ∃ t, exec (.storeComplete o.id) s = .next t ∧ padHolds s t cid off a.data ∧
      t = { s with ops := [], spad := t.spad, spadMark := t.spadMark }) ∧
  (∀ (s : State) (o : Op) (a : Acc) (wide sg : Bool) (d : Opnd) (cid off n old : Nat), s.alone o a →
    o.kind = .rmw .add wide sg (some d) → a.loc = .spad cid off → off + n < 2 ^ 40 → n = (if wide then 8 else 4) → off % n = 0 →
    (s.spadSector cid off).mark = .none → old = ofBytes (((s.spadSector cid off).data.drop (off % 16)).take n) →
    ∃ t, exec (.atomicComplete o.id) s = .next t ∧ t.ops = [] ∧
      padHolds s t cid off (toBytes n ((old + a.opnd.toNat) % 2 ^ (8 * n))) ∧
      t.warp o.warp = (match d with
        | .v k => (s.warp o.warp).writeLive a.live (8 * n) k.toNat a.lane { n := old }
        | x => (s.warp o.warp).write (8 * n) x a.lane { n := old }) ∧
      ∀ k, k ≠ o.warp → t.warp k = s.warp k) ∧
  (∀ (s : State) (cid line : Nat), (s.l1Line cid line).dirty = 0 →
    exec (.l1Eviction cid line) s = .next (s.putL1 cid line {})) ∧
  (∀ (s : State) (cid line : Nat) (p : Spot) (l : L1Line), s.l1Line cid line = l → l.dirty ≠ 0 → s.cmdOwns line = false →
    s.prepare (.by .store (l.ctxs.headD 0)) (128 * line) = (s, .spot p) →
    exec (.l1Eviction cid line) s = .next
      (((s.writeFor (fun k => decide (k / 64 ≠ cid)) (.spot p) (128 * line) l.dirtyBytes).putL1 cid line (l.clean l.dirty)).putL1
        cid line {})) ∧
  (∀ (s : State) (v : Nat) (x : Version), look {} s.vers v = x → x.task = true → x.stalled = true → x.irrev = false →
    x.warp < 2 ^ 20 → s.isOldest v = true → x.mem = [] → x.spad = [] →
    exec (.versionIrrevocable v) s = .next { s with vers := (put {} s.vers v
      { x with irrev := true, stalled := false, mem := [], rd := [], wr := [], ways := [], vas := [], whole := [] }) }) ∧
  (∀ (s : State) (v : Nat), (look {} s.vers v).stalled = false → exec (.versionIrrevocable v) s = .next s) ∧
  (∀ (s q r : State) (k : Nat) (t : TrapInfo) (rest : List TrapInfo) (hw : Word) (w : Warp), s.warp k = w → w.status = .run →
    w.wait = .none → w.ueHalt = false → w.deferred = t :: rest → w.tryOpen = false → w.inh = false → w.tskVers = false →
    clsHandler (t.uncorr w).cls = true → (s.ctx w.ctx).tvec.getLsbD 0 = true →
    q = ({ s with cur := k }).putWarp k { w with deferred := rest } → ({ s with cur := k }).handlerWaits t = none →
    q.handlerWaits t = none →
    ((q.count 0x14).countCtx w.ctx 0x107).fetchWord w.ctx ((s.ctx w.ctx).tvec &&& ~~~7) = .word hw r → r.cur = k →
    headerOk hw = true → hdrHandler hw = true →
    ∃ u, exec (.deferredTrap k) s = .next u ∧ (u.warp k).deferred = rest ∧ (u.warp k).epc = w.pc ∧
      (u.warp k).tcause = (t.uncorr w).tcause true ∧ (u.warp k).taddr = (t.uncorr w).addr ∧
      (u.warp k).pc = ((s.ctx w.ctx).tvec &&& ~~~7) + 8 ∧ (∀ j, j ≠ k → u.warp j = r.warp j) ∧ u.mem = r.mem) ∧
  (∀ (s : State) (k : Nat), (s.warp k).deferred = [] → exec (.deferredTrap k) s = .next s)

/-- R242, R257, R263, R273, R278 and R279: a command that completes leaves, its tag is set, with ERR and the launch's count for
a failure. A queue command arrives at the queue engine once its word can be reached, and is performed from the next clock on.
QINIT writes its control word; QPUSH its bytes into the slot at TAIL and the word after it, QPOP takes the slot at HEAD; a queue
that is full or empty holds them, and a word that is none fails them with cause 5. A matrix step runs once over its operands as
they stand and counts. -/
def Obligations.CompletesCommands : Prop :=
  (∀ (s : State) (c : Cmd), s.only c → c.kind = .done → ∃ t, exec (.engineCommandComplete c.id) s = .next t ∧ t.cmds = [] ∧
    t.mem = s.mem ∧ (∀ g, c.tag = some g → g < 64 → t.tagSet c.core g c.err) ∧
    (c.err = 0 → t.launches = s.launches) ∧ (c.err ≠ 0 → (t.launch c.launch).failed = (s.launch c.launch).failed + 1)) ∧
  (∀ (s : State) (c : Cmd) (k cid off : Nat), s.only c → c.arrived = 0 → s.queueAt c = some (k, cid, off) → c.unread = false →
    ((∃ d v, c.kind = .qinit d v) → exec (.engineCommandComplete c.id) s =
      .next (s.putCmd { c with arrived := s.clk + 1, word := some (cid, off) })) ∧
    ((∃ d e n, c.kind = .qpush d e n) → exec (.queuePushPerform c.id) s =
      .next (s.putCmd { c with arrived := s.clk + 1, word := some (cid, off) })) ∧
    ((∃ d e n, c.kind = .qpop d e n) → exec (.queuePopPerform c.id) s =
      .next (s.putCmd { c with arrived := s.clk + 1, word := some (cid, off) }))) ∧
  (∀ (s : State) (c : Cmd) (d cid off : Nat) (v : Word), s.only c → s.ops = [] → c.kind = .qinit d v →
    c.arrived ≠ 0 → c.arrived ≤ s.clk → s.queueAt c = some (0, cid, off) →
    exec (.engineCommandComplete c.id) s = .next ((s.putQword (cid, off) (QWord.ofBits v.toNat)).finishCmd c 0 0 0)) ∧
  (∀ (s : State) (c : Cmd) (d e lsz cid off b : Nat) (q : QWord), s.only c → s.ops = [] → s.l1 = [] → c.kind = .qpush d e lsz →
    c.unread = false → c.arrived ≠ 0 → c.arrived ≤ s.clk → s.queueAt c = some (1, cid, off) →
    s.queueAnswer lsz true (cid, off) = .slot q b →
    exec (.queuePushPerform c.id) s = .next (((s.putRun16 cid b ((srcRun c.src e (2 ^ lsz)).map (·.1)) fun i =>
      (nth (0, .none) (srcRun c.src e (2 ^ lsz)) i).2).putQword (cid, off) { q with
        tail := (q.tail + 1) % q.depth, full := decide ((q.tail + 1) % q.depth = q.head) }).finishCmd c 0 0 0)) ∧
  (∀ (s : State) (c : Cmd) (d e lsz cid off : Nat), s.only c → s.ops = [] → s.l1 = [] → c.kind = .qpush d e lsz →
    c.unread = false → c.arrived ≠ 0 → c.arrived ≤ s.clk → s.queueAt c = some (1, cid, off) →
    (s.queueAnswer lsz true (cid, off) = .held → exec (.queuePushPerform c.id) s = .next (s.putCmd { c with held := true })) ∧
    (s.queueAnswer lsz true (cid, off) = .fail → exec (.queuePushPerform c.id) s = .next (s.finishCmd c 5 0 0))) ∧
  (∀ (s : State) (c : Cmd) (d e lsz cid off b : Nat) (q : QWord), s.only c → s.ops = [] → c.kind = .qpop d e lsz → c.src = [] →
    c.arrived ≠ 0 → c.arrived ≤ s.clk → s.queueAt c = some (2, cid, off) → s.queueAnswer lsz false (cid, off) = .slot q b →
    exec (.queuePopPerform c.id) s = .next (((s.putQword (cid, off) { q with
        head := (q.head + 1) % q.depth, full := false }).putCmd { c with src := s.slotSrcs cid b (2 ^ lsz) }).finishPop
      { c with src := s.slotSrcs cid b (2 ^ lsz) })) ∧
  (∀ (s : State) (c : Cmd) (d e lsz cid off : Nat), s.only c → s.ops = [] → c.kind = .qpop d e lsz → c.src = [] →
    c.arrived ≠ 0 → c.arrived ≤ s.clk → s.queueAt c = some (2, cid, off) →
    (s.queueAnswer lsz false (cid, off) = .held → exec (.queuePopPerform c.id) s = .next (s.putCmd { c with held := true })) ∧
    (s.queueAnswer lsz false (cid, off) = .fail → exec (.queuePopPerform c.id) s = .next (s.finishCmd c 5 0 0))) ∧
  (∀ (s : State) (c : Cmd) (m : MatRec) (recs : List Byte), s.only c → c.kind = .mat m recs → 0xB0 ≤ c.opc → c.warp < 2 ^ 20 →
    c.rerun = 0 → s.dumpStops c = false →
    s.stepFree c (decide (0xB4 ≤ c.opc)) (s.stepSrcs (s.warp c.warp) c.core c.vcnt (c.form m) m.aoff m.boff) = true →
    ∃ t, exec (.matrixStep c.core) s = .next t ∧
      t.warp c.warp = (c.form m).run (s.warp c.warp) ((s.warp c.warp).bnd + m.acc) c.vcnt c.seed
        (s.readNow (s.stepSrcs (s.warp c.warp) c.core c.vcnt (c.form m) m.aoff m.boff)) (8 * formAddr m.aoff) (8 * formAddr m.boff)
        false ∧
      t.cmds = if c.sleft ≤ 1 then [] else [{ c with
        kind := .mat { m with aoff := stepOff m.aoff m.da, boff := stepOff m.boff m.db } []
        sdone := c.sdone + 1, sleft := c.sleft - 1, rerun := 0 }]) ∧
  (∀ (s t : State) (c : Cmd) (m : MatRec) (recs : List Byte), s.only c → c.kind = .mat m recs → c.opc = 0xAF →
    s.dumpStops c = false → s.txposeStep c m = some t → exec (.txposeGroup c.core) s = .next t) ∧
  (∀ (s : State) (cid : Nat), s.cmds = [] → exec (.matrixStep cid) s = .next s ∧ exec (.txposeGroup cid) s = .next s)

/-! ## Launches, waits and pre-emption -/

/-- R133 to R135, R145, R147, R149, R151 and R153: a launch command of a context that does not exist, or with a reserved bit
set, is dropped and counted; another's record is read, and one that is not a multiple of 128 is rejected with STATUS 1. Of two
launches with one key the one that came first, or in one clock through the lower port, goes before the other. The first pending
unit that fits is placed; one skipped through 64 reports blocks; a report sets a die's shadow; a launch of which every core has
reported is complete; and a chunk goes to the block that asked first, in a later clock. A warp at launch has its arguments in s0
and s1 and zero in every other register. -/
def Obligations.Launches : Prop :=
  (∀ (s : State) (p : Rec8) (port : Nat), (s.ctx (bits p.w3.toNat 63 48)).v = false →
    exec (.launchCommand ⟨p, port⟩) s = .next { s with errCnt := s.errCnt + 1 }) ∧
  (∀ (s : State) (p : Rec8) (x port : Nat), (s.ctx x).v = true → p.w3 = BitVec.ofNat 64 (x * 2 ^ 48) → x < 2 ^ 16 →
    bits p.w0.toNat 55 38 = (s.ctx x).host → bits p.w0.toNat 19 0 = 0 → p.w4 = 0 → p.w5 = 0 → p.w6 = 0 → p.w7 = 0 →
    p.w2.toNat % 8 = 0 →
    exec (.launchCommand ⟨p, port⟩) s = .next (s.acceptLaunch p.w1 p.w2 x port none 0) ∧
    (p.w1.toNat % 128 ≠ 0 → ∃ t, exec (.launchCommand ⟨p, port⟩) s = .next t ∧ t.nextId = s.nextId + 1 ∧
      (t.launch s.nextId).verdict = some 1 ∧ t.mem = s.mem ∧ t.warps = s.warps)) ∧
  (∀ a b : Nat × Launch, a.2.key = b.2.key →
    a.2.came.1 < b.2.came.1 ∨ (a.2.came.1 = b.2.came.1 ∧ a.2.came.2 < b.2.came.2) → launchBefore a b = true) ∧
  (∀ (s : State) (id u : Nat) (l : Launch) (rest : List (Nat × Launch)) (lay : List (Nat × Nat)), s.isReady .dist = true →
    (∀ e ∈ s.launches, e.2.unread = false) → s.pendingLaunches = (id, l) :: rest →
    l.search (fun v => (s.layoutUnit id l v).isSome) = (some u, [], false) → s.layoutUnit id l u = some lay →
    exec .placementAttempt s = .next (s.placeUnit id u lay)) ∧
  (∀ s : State, s.isReady .dist = false → (∀ e ∈ s.launches, e.2.unread = false) → exec .placementAttempt s = .next s) ∧
  (∀ (s : State) (id u : Nat), (64 ≤ look 0 (s.launch id).skips u → u ∉ (s.launch id).blocking →
      exec (.unitBlocking id u) s = .next (s.putLaunch id { s.launch id with blocking := (s.launch id).blocking ++ [u] })) ∧
    (look 0 (s.launch id).skips u < 64 → exec (.unitBlocking id u) s = .next s)) ∧
  (∀ (s : State) (die : Nat), die < 4 → s.sent = [] → s.pins = [] → ∃ t, exec (.resourceReport die) s = .next t ∧
    ∀ c, c / Config.coresPerDie = die → t.shadowOf c = s.freeNow c) ∧
  (∀ (s : State) (cid id : Nat) (l : Launch), s.launch id = l → l.used = [cid] → l.reported = [] → l.verdict = none →
    l.allRetired = true → s.outstanding id cid = false → s.holdsBlock id cid = false →
    exec (.coreLaunchReport cid id) s = .next (s.putLaunch id
      { l with reported := [cid], verdict := some (if l.halted then 9 else 0) })) ∧
  (∀ (s : State) (cid id : Nat), s.outstanding id cid = true ∨ s.holdsBlock id cid = true →
    exec (.coreLaunchReport cid id) s = .next s) ∧
  (∀ (s : State) (id b a : Nat) (rest : List (Nat × Nat)), (s.launch id).asks = (a, b) :: rest → s.clk ≤ a →
    exec (.dealChunk id) s = .next s) ∧
  (∀ (s : State) (id b n a : Nat) (l : Launch) (rest : List (Nat × Nat)) (j : JobCard), s.launch id = l →
    l.asks = (a, b) :: rest → a < s.clk → l.dealtAt ≤ s.clk →
    l.job = some j → l.redeal = [] → l.prime = 0 → l.det = false → 0 < l.rem →
    n = min l.rem (max j.minch (ceilDiv l.rem (2 * max 1 (s.coresOf id).length))) →
    exec (.dealChunk id) s = .next (s.putLaunch id { l with
      next := l.next + n, rem := l.rem - n, chunkNo := l.chunkNo + 1, asks := rest, dealtAt := s.clk + 1
      chunks := put [] l.chunks b (look [] l.chunks b ++ (List.range n).map (l.next + ·))
      undone := l.undone ++ ((List.range n).map (l.next + ·)).filter fun i => !l.undone.contains i })) ∧
  (∀ (l : Launch) (id blk idx lin clk : Nat) (w : Warp), l.newWarp id blk idx lin clk = w →
    w.pc = l.entry ∧ w.atHead = true ∧ w.s1 0 = { val := l.args } ∧ w.s1 1 = { val := l.recVA } ∧
    (∀ j, 2 ≤ j → w.s1 j = {}) ∧ w.v = [] ∧ w.p = [] ∧ w.vcnt = 0xFFFFFFFF ∧ w.part = 32 ∧ w.flg = 0 ∧ w.bnd = l.bnd ∧
    w.rows = l.rows ∧ ∀ j, j < 32 → w.exm.getLsbD j = decide (j < l.lanes))

/-- R156, R157, R174, R175 and R411: a warp ready for 32 clocks is urgent; a back-off and a YIELD end with their clocks, or a
YIELD when every warp that it let first has issued; a POLL whose read meets its condition goes on with 1, another with 0 and
into a back-off; a SIGWAIT whose word has its value goes on with 1, another watches the word. -/
def Obligations.WaitsEnd : Prop :=
  (∀ (s : State) (k : Nat), (s.warp k).status = .run → max (s.warp k).ready0 ((s.warp k).lastIssue + 1) + 32 ≤ s.clk →
    exec (.warpUrgent k) s = .next (s.putWarp k { s.warp k with urgent := true })) ∧
  (∀ (s : State) (k : Nat), s.clk < (s.warp k).ready0 + 32 ∨ s.clk < (s.warp k).lastIssue + 33 → exec (.warpUrgent k) s = .next s) ∧
  (∀ (s : State) (k u : Nat), (s.warp k).wait = .backoff u →
    (u ≤ s.clk → exec (.pollBackoffEnd k) s = .next (s.putWarp k { s.warp k with wait := .none, ready0 := s.clk })) ∧
    (s.clk < u → exec (.pollBackoffEnd k) s = .next s)) ∧
  (∀ (s : State) (k u : Nat) (y : List (Nat × Nat)), (s.warp k).wait = .yield y u →
    (u ≤ s.clk ∨ (∀ e ∈ y, (s.warp e.1).status ≠ .run ∨ (s.warp e.1).issues ≠ e.2) →
      exec (.yieldTimeout k) s = .next (s.putWarp k { s.warp k with wait := .none, ready0 := s.clk })) ∧
    (s.clk < u → (∃ e ∈ y, (s.warp e.1).status = .run ∧ (s.warp e.1).issues = e.2) →
      exec (.yieldTimeout k) s = .next s)) ∧
  (∀ (s u : State) (k v id : Nat) (va cmp : Word) (wide : Bool) (c sc : Nat) (p : BitVec 8) (m : W32),
    (s.warp k).status = .run → (s.warp k).wait = .poll va wide cmp c sc (.p p) m id →
    s.freshRead k id (if wide then 8 else 4) m va = .val u v →
    (pollCond c v cmp.toNat = true → ∃ w, StatusIs { u.warp k with wait := .none, ready0 := u.clk } w p m true ∧
      exec (.pollAttemptResolved k) s = .next (u.asWarp k fun t => ((t.setW { w with
        prio := (u.warp k).basePrio, pollK := 0 }).acquireL1 (u.warp k).launch t.cid (u.warp k).ctx sc).advance 1)) ∧
    (pollCond c v cmp.toNat = false → ∃ w, StatusIs { u.warp k with wait := .none, ready0 := u.clk } w p m false ∧
      exec (.pollAttemptResolved k) s = .next (u.asWarp k fun t => (t.setW { w with
        prio := (u.warp k).prio - 1, pollK := (u.warp k).pollK + 1
        wait := .backoff (u.clk + backoffOf ((u.warp k).pollK + 1)) }).advance 1))) ∧
  (∀ k, 1 ≤ k → backoffOf k = min (16 * 2 ^ (k - 1)) 4096) ∧
  (∀ (s u : State) (k v ia id : Nat) (va thr : Word) (acq : Bool) (sc : Nat) (p : BitVec 8) (m : W32),
    (s.warp k).status = .run → (s.warp k).wait = .sigwait va thr sc acq (.p p) m id → s.freshRead k id 8 m va = .val u v →
    (v < thr.toNat → (u.ctx (u.warp k).ctx).translate .load va = .ok ia →
      ∃ t, exec (.sigwaitReadResult k) s = .next t ∧ t = { u with watches := t.watches } ∧ (ia, u.did, k) ∈ t.watches) ∧
    (thr.toNat ≤ v → acq = false → ∃ w, StatusIs { u.warp k with wait := .none, ready0 := u.clk } w p m true ∧
      exec (.sigwaitReadResult k) s = .next (u.asWarp k fun t => (t.setW w).advance 1)))

/-- R308, R309, R312 and R313: a block that will end soon drains, until its deadline; a drain that outlives it is saved, or goes
on draining where the pool has no room. A flushed block whose operations are over leaves its core. A block whose warps have
stopped, with nothing outstanding, is written to its area and is saved. -/
def Obligations.Preempts : Prop :=
  (∀ (s : State) (id blk dl : Nat) (b : Block), s.blocks = [(blk, b)] → b.launch = id → b.live = true → b.saved = false →
    b.pre = .none → (s.launch id).expcyc ≠ 0 → s.ranFor b < (s.launch id).expcyc →
    (s.launch id).expcyc - s.ranFor b ≤ 2 * s.saveClocks b → (dl = 0 ∨ (s.launch id).expcyc - s.ranFor b ≤ dl) →
    ∃ t, exec (.preemptRequest (.launch id) dl) s = .next t ∧ t = { s with
      blocks := put {} s.blocks blk { b with pre := .drain (if dl = 0 then 0 else s.clk + dl) }
      smp := { s.smp with cnt := t.smp.cnt } }) ∧
  (∀ (s : State) (id dl : Nat), (∀ e ∈ s.blocks, e.2.launch ≠ id) → exec (.preemptRequest (.launch id) dl) s = .next s) ∧
  (∀ (s : State) (blk u : Nat), (s.block blk).pre = .drain u → (u = 0 ∨ s.clk < u) → exec (.drainDeadline blk) s = .next s) ∧
  (∀ (s : State) (blk u : Nat) (b : Block), s.block blk = b → b.pre = .drain u → u ≠ 0 → u ≤ s.clk → b.live = true →
    (s.launch b.launch).idem = false →
    (s.poolHolds (s.launch b.launch).ctx [blk] = false → ∃ t, exec (.drainDeadline blk) s = .next t ∧ t = { s with
      blocks := put {} s.blocks blk { b with pre := .drain 0 }, smp := { s.smp with cnt := t.smp.cnt } }) ∧
    (s.poolHolds (s.launch b.launch).ctx [blk] = true →
      exec (.drainDeadline blk) s = .next (s.beginPreempt blk .save 0))) ∧
  (∀ (s : State) (blk : Nat), (s.block blk).pre = .none → exec (.blockSave blk) s = .next s) ∧
  (∀ (s : State) (blk : Nat) (b : Block), s.block blk = b → b.pre = .flush → s.ops = [] → s.cmds = [] →
    s.blockWarps b.launch blk = [] → ∃ t, exec (.blockSave blk) s = .next t ∧ t.blocks = put {} s.blocks blk {}) ∧
  (∀ (s u : State) (blk : Nat) (b : Block) (a : Word × Nat), s.block blk = b → b.pre = .save → s.slotsOnce → s.ops = [] →
    s.cmds = [] → s.blockWarps b.launch blk ≠ [] → (∀ e ∈ s.blockWarps b.launch blk, e.2.status = .stopped) →
    (s.ctx (s.launch b.launch).ctx).areaFor (s.areaSize blk) = some a →
    (s.flushL1 b.cid).areaReady b.cid (s.launch b.launch).ctx a.1 (s.areaSize blk) = (u, true) → u.l1Dirty b.cid = false →
    exec (.blockSave blk) s = .next (u.writeSave blk ((s.blockWarps b.launch blk).map (·.1)) a) ∧
    ∃ t, exec (.blockSave blk) s = .next t ∧ (t.block blk).saved = true ∧ (t.block blk).area = some a ∧
      (t.block blk).warps = (s.blockWarps b.launch blk).map fun e => u.warp e.1)

/-! ## Pages, the patrol and the sampler -/

/-- R188, R201, R202, R316, R317, R320 and R326 to R330: a pin entry written is valid at once for a slice, pending for a
scratchpad that has none, and ignored for one that has or that is not active; a pending pin is activated with the page's bytes
in the scratchpad, and released with them back in its frame. A migration is refused with ERR, or begun with MIG 1; a chunk is
copied and marked; one whose destination fails is logged and is still to be copied; in FORWARD it is released. The patrol moves
on by one line, and a sector found uncorrectable is poisoned. The sampler drops a row where its ring is full, and writes it at
its place where there is room, as the tracer does with the row of an instruction that has reached write-back; the tracer draws
its interval within the bounds. -/
def Obligations.PagesAndPatrol : Prop :=
  (∀ (s : State) (i : Nat) (x : Word), i < 64 → s.pin i = {} → bits x.toNat 63 62 = 3 → bits x.toNat 61 54 < 128 → s.uncached →
    ∃ t, exec (.pinWrite i x) s = .next t ∧ t = { s with pins := t.pins } ∧ ∀ j, t.pin j = if j = i then
      { v := true, kind := true, tgt := bits x.toNat 61 54, page := bits x.toNat 34 0 } else s.pin j) ∧
  (∀ (s : State) (i : Nat) (x : Word), i < 64 → s.pin i = {} → bits x.toNat 63 62 = 2 → bits x.toNat 61 54 < Config.cores →
    (s.pinnedCore (bits x.toNat 61 54) = true ∨ s.isReady (.clus (bits x.toNat 61 54 / 4)) = false →
      exec (.pinWrite i x) s = .next s) ∧
    (s.pinnedCore (bits x.toNat 61 54) = false → s.isReady (.clus (bits x.toNat 61 54 / 4)) = true → ∃ t, exec (.pinWrite i x) s = .next t ∧
      t = { s with pins := t.pins, shadow := t.shadow } ∧
      (t.shadowOf (bits x.toNat 61 54)).lines = (s.shadowOf (bits x.toNat 61 54)).lines - 16384 ∧
      ∀ j, t.pin j = if j = i then
        { v := false, kind := false, tgt := bits x.toNat 61 54, pend := true, page := bits x.toNat 34 0 } else s.pin j)) ∧
  (∀ (s : State) (i a : Nat) (p : Pin), s.pin i = p → p.pend = true → p.kind = false → s.uncached → Memory.wf s.mem = true →
    mapWf 0 s.spad = true → (∀ r ∈ (s.core p.tgt).regions, r.base + r.lines ≤ 16384) → s.frameOf p.page = some a →
    ∃ t, exec (.pinActivate i) s = .next t ∧ t.pin i = { p with v := true, pend := false } ∧ t.mem = s.mem ∧
      ∀ off, off < 2 ^ 21 → look 0 t.spad (spadKey p.tgt (2 ^ 21 + off)) = look unlisted s.mem (a + off)) ∧
  (∀ (s : State) (i a : Nat) (p : Pin), s.pin i = p → p.v = true → p.kind = false → Memory.wf s.mem = true →
    mapWf 0 s.spad = true → s.frameOf p.page = some a →
    ∃ t, exec (.pinRelease i) s = .next t ∧ t.pin i = { p with v := false, pend := false } ∧ t.spad = s.spad ∧
      ∀ off, off < 2 ^ 21 → look unlisted t.mem (a + off) = look 0 s.spad (spadKey p.tgt (2 ^ 21 + off))) ∧
  (∀ (s : State) (i : Nat), (s.pin i).v = false → exec (.pinRelease i) s = .next s) ∧
  (∀ (s : State) (k n : Nat) (a b : Word), k < Config.links → n < 4 → (s.slot k n).busy = false →
    (s.migBad k (bits a.toNat 34 0) (bits b.toNat 34 0) = true → exec (.migrationStart k n a b) s = .next (s.putSlot k n
      { s.slot k n with busy := false, err := true, src := bits a.toNat 34 0, dst := bits b.toNat 34 0 })) ∧
    (s.migBad k (bits a.toNat 34 0) (bits b.toNat 34 0) = false → s.uncached →
      pteIdx (bits a.toNat 34 0) < (s.link k).count → look .none s.memMark (s.pteAddr (bits a.toNat 34 0) / 16) = .none →
      ∃ t, exec (.migrationStart k n a b) s = .next t ∧ t.slot k n =
          { busy := true, src := bits a.toNat 34 0, dst := bits b.toNat 34 0, pte := s.pte (bits a.toNat 34 0) } ∧
        bits (t.pteTable (bits a.toNat 34 0)).toNat 35 34 = 1)) ∧
  (∀ (s u : State) (k n : Nat) (m : MigSlot) (b : Store), s.slot k n = m → m.busy = true → m.fwd = false →
    s.linkReady k = true → s.uncached → m.next < 511 →
    ((∃ p, s.at {} (m.dst * 2 ^ 21 + 4096 * m.next) = .loc p ∧ b = .ddr p.addr) ∨
      (∃ c o h, s.at {} (m.dst * 2 ^ 21 + 4096 * m.next) = .pin c o h ∧ b = .spad c o)) →
    u = s.copyBytes (.ddr (ddrKey k (bits m.pte.toNat 33 0) (4096 * m.next))) 4096 b →
    exec (.migrationChunkCopy k n) s = .next ((u.putLinkByte (s.sideAddr m.src + 64 + m.next / 8)
      (u.linkByte (s.sideAddr m.src + 64 + m.next / 8) ||| (1 <<< (m.next % 8)))).putSlot k n { m with next := m.next + 1 })) ∧
  (∀ (s : State) (k n : Nat) (m : MigSlot) (e : MemCause), s.slot k n = m → m.busy = true → m.fwd = false →
    s.linkReady k = true → s.uncached → s.at {} (m.dst * 2 ^ 21 + 4096 * m.next) = .fail e →
    exec (.migrationChunkCopy k n) s = .next (s.logFault (m.dst * 2 ^ 21 + 4096 * m.next) 0 0 e)) ∧
  (∀ (s : State) (k n : Nat), (s.slot k n).busy = false →
    exec (.migrationChunkCopy k n) s = .next s ∧ exec (.migrationRelease k n) s = .next s) ∧
  (∀ (s : State) (k n : Nat) (m : MigSlot), s.slot k n = m → m.busy = true → m.fwd = true → s.uncached →
    ∃ t, exec (.migrationRelease k n) s = .next t ∧ t.slot k n = { m with busy := false, fwd := false, next := 0 }) ∧
  (∀ (s : State) (k : Nat) (ecc : List EccResult) (tag : TagResult), (s.link k).scrubEn = true → s.linkReady k = true →
    0 < (s.link k).frames → ∃ t, exec (.scrubLine k ecc tag) s = .next t ∧
      (t.link k).pos = ((s.link k).pos % ((s.link k).frames * 16384) + 1) % ((s.link k).frames * 16384) ∧ t.warps = s.warps ∧
      ∀ q, q < 8 → nth .ok ecc q = .uncorrectable → look .none t.memMark
        (ddrKey k 0 (128 * ((s.link k).pos % ((s.link k).frames * 16384))) / 16 + q) ≠ .none) ∧
  (∀ (s : State) (k : Nat) (ecc : List EccResult) (tag : TagResult), (s.link k).scrubEn = false →
    exec (.scrubLine k ecc tag) s = .next s) ∧
  (∀ s : State, (s.smp.en = false → exec .sampleRow s = .next s) ∧
    (s.smp.en = true → 0 < s.smp.len → s.smp.len ≤ (s.smp.wi + 2 ^ 32 - s.smp.ri) % 2 ^ 32 →
      exec .sampleRow s = .next { s with smp := { s.smp with dropped := min (s.smp.dropped + 1) (2 ^ 32 - 1) } })) ∧
  (∀ (s u : State) (ia : Nat) (p : Spot) (row : List Word), s.smp.en = true → s.rowFits →
    (s.ctx Config.mgmtCtx).translate .store s.rowVa = .ok ia → s.l1 = [] →
    s.prepare (.by .store Config.mgmtCtx) ia = (s, .spot p) →
    row = BitVec.ofNat 64 s.atime :: BitVec.ofNat 64 s.smp.dropped ::
      (List.range 6).map (fun i => s.counter (bits s.smp.sel.toNat (10 * i + 9) (10 * i))) →
    u = s.writeReady (.spot p) ia noWarp ((row.flatMap fun x => toBytes 8 x.toNat).zipIdx.map fun e => (ia % 128 + e.2, e.1)) →
    exec .sampleRow s = .next { u with smp := { u.smp with wi := (s.smp.wi + 1) % 2 ^ 32, dropped := 0 } }) ∧
  (∀ (s : State) (c k n : Nat), c < Config.cores → k < 4 → look 0 (s.core c).tagLeft k = 0 →
    (2 ^ (s.core c).tlog ≤ 2 * n → 2 * n < 3 * 2 ^ (s.core c).tlog →
      exec (.traceTag c k n) s = .next (s.putCore c { s.core c with tagLeft := put 0 (s.core c).tagLeft k n })) ∧
    (3 * 2 ^ (s.core c).tlog ≤ 2 * n → exec (.traceTag c k n) s = .next s)) ∧
  (∀ (s : State) (c k n : Nat), look 0 (s.core c).tagLeft k ≠ 0 → exec (.traceTag c k n) s = .next s) ∧
  (∀ (s : State) (c k wid exm pc id cls : Nat) (rest : List Nat) (r : Rec8),
    look [] (s.core c).tagged k = wid :: exm :: pc :: id :: cls :: rest →
    ((∃ o ∈ s.ops, o.id = id) → exec (.traceRow c k r) s = .next s) ∧
    ((∀ o ∈ s.ops, o.id ≠ id) →
      (s.smp.len = 0 → exec (.traceRow c k r) s =
        .next (s.putCore c { s.core c with tagged := put [] (s.core c).tagged k rest })) ∧
      (∀ (u : State) (ia : Nat) (p : Spot) (row : List Word), s.rowFits →
        (s.ctx Config.mgmtCtx).translate .store s.rowVa = .ok ia → s.l1 = [] →
        s.prepare (.by .store Config.mgmtCtx) ia = (s, .spot p) →
        row = [BitVec.ofNat 64 s.atime, BitVec.ofNat 64 (2 ^ 60 + s.smp.dropped),
          BitVec.ofNat 64 (c * 2 ^ 48 + wid * 2 ^ 32 + exm), BitVec.ofNat 64 pc, r.w4,
          BitVec.ofNat 64 (bits r.w5.toNat 63 48 * 2 ^ 48 + traceLevel cls (bits r.w5.toNat 47 45) * 2 ^ 45), 0, 0] →
        u = s.writeReady (.spot p) ia noWarp ((row.flatMap fun x => toBytes 8 x.toNat).zipIdx.map fun e => (ia % 128 + e.2, e.1)) →
        exec (.traceRow c k r) s = .next ({ u with smp := { u.smp with wi := (s.smp.wi + 1) % 2 ^ 32, dropped := 0 } }.putCore c
          { u.core c with tagged := put [] (u.core c).tagged k rest }))))
end

