-- ==== Sys2Proof/Laws/Encoding.lean ====
section
/-! SUPPORT. The fields of an encoded word read back: one lemma for each field of the three formats, whole operand records,
and words as bytes. -/

namespace Sys2Proof

/-! ## Fields of format O -/

theorem wordO_op (op : BitVec 8) (f : BitVec 6) (o : OpO) : (wordO op f o).extractLsb' 56 8 = op := by
  ext i hi
  simp only [wordO, BitVec.getElem_extractLsb', BitVec.getLsbD_append]
  simp (disch := omega) only [if_neg]
  rw [← BitVec.getLsbD_eq_getElem]; congr 1; omega

theorem wordO_f (op : BitVec 8) (f : BitVec 6) (o : OpO) : (wordO op f o).extractLsb' 14 6 = f := by
  ext i hi
  simp only [wordO, BitVec.getElem_extractLsb', BitVec.getLsbD_append]
  simp (disch := omega) only [if_neg, if_pos]
  rw [← BitVec.getLsbD_eq_getElem]; congr 1; omega

theorem wordO_neg (op : BitVec 8) (f : BitVec 6) (o : OpO) : (wordO op f o).extractLsb' 55 1 = bitOf o.pr.neg := by
  ext i hi
  simp only [wordO, BitVec.getElem_extractLsb', BitVec.getLsbD_append]
  simp (disch := omega) only [if_neg, if_pos]
  rw [← BitVec.getLsbD_eq_getElem]; congr 1; omega

theorem wordO_reg (op : BitVec 8) (f : BitVec 6) (o : OpO) : (wordO op f o).extractLsb' 52 3 = o.pr.reg := by
  ext i hi
  simp only [wordO, BitVec.getElem_extractLsb', BitVec.getLsbD_append]
  simp (disch := omega) only [if_neg, if_pos]
  rw [← BitVec.getLsbD_eq_getElem]; congr 1; omega

theorem wordO_d (op : BitVec 8) (f : BitVec 6) (o : OpO) : (wordO op f o).extractLsb' 44 8 = o.d.numBits := by
  ext i hi
  simp only [wordO, BitVec.getElem_extractLsb', BitVec.getLsbD_append]
  simp (disch := omega) only [if_neg, if_pos]
  rw [← BitVec.getLsbD_eq_getElem]; congr 1; omega

theorem wordO_a (op : BitVec 8) (f : BitVec 6) (o : OpO) : (wordO op f o).extractLsb' 36 8 = o.a.numBits := by
  ext i hi
  simp only [wordO, BitVec.getElem_extractLsb', BitVec.getLsbD_append]
  simp (disch := omega) only [if_neg, if_pos]
  rw [← BitVec.getLsbD_eq_getElem]; congr 1; omega

theorem wordO_b (op : BitVec 8) (f : BitVec 6) (o : OpO) : (wordO op f o).extractLsb' 28 8 = o.b.numBits := by
  ext i hi
  simp only [wordO, BitVec.getElem_extractLsb', BitVec.getLsbD_append]
  simp (disch := omega) only [if_neg, if_pos]
  rw [← BitVec.getLsbD_eq_getElem]; congr 1; omega

theorem wordO_c (op : BitVec 8) (f : BitVec 6) (o : OpO) : (wordO op f o).extractLsb' 20 8 = o.c.numBits := by
  ext i hi
  simp only [wordO, BitVec.getElem_extractLsb', BitVec.getLsbD_append]
  simp (disch := omega) only [if_neg, if_pos]
  rw [← BitVec.getLsbD_eq_getElem]; congr 1; omega

theorem wordO_dc (op : BitVec 8) (f : BitVec 6) (o : OpO) : (wordO op f o).extractLsb' 12 2 = o.d.clsBits := by
  ext i hi
  simp only [wordO, BitVec.getElem_extractLsb', BitVec.getLsbD_append]
  simp (disch := omega) only [if_neg, if_pos]
  rw [← BitVec.getLsbD_eq_getElem]; congr 1; omega

theorem wordO_ac (op : BitVec 8) (f : BitVec 6) (o : OpO) : (wordO op f o).extractLsb' 10 2 = o.a.clsBits := by
  ext i hi
  simp only [wordO, BitVec.getElem_extractLsb', BitVec.getLsbD_append]
  simp (disch := omega) only [if_neg, if_pos]
  rw [← BitVec.getLsbD_eq_getElem]; congr 1; omega

theorem wordO_bc (op : BitVec 8) (f : BitVec 6) (o : OpO) : (wordO op f o).extractLsb' 8 2 = o.b.clsBits := by
  ext i hi
  simp only [wordO, BitVec.getElem_extractLsb', BitVec.getLsbD_append]
  simp (disch := omega) only [if_neg, if_pos]
  rw [← BitVec.getLsbD_eq_getElem]; congr 1; omega

theorem wordO_cc (op : BitVec 8) (f : BitVec 6) (o : OpO) : (wordO op f o).extractLsb' 6 2 = o.c.clsBits := by
  ext i hi
  simp only [wordO, BitVec.getElem_extractLsb', BitVec.getLsbD_append]
  simp (disch := omega) only [if_neg, if_pos]
  rw [← BitVec.getLsbD_eq_getElem]; congr 1; omega

theorem wordO_m (op : BitVec 8) (f : BitVec 6) (o : OpO) : (wordO op f o).extractLsb' 0 6 = o.m := by
  ext i hi
  simp only [wordO, BitVec.getElem_extractLsb', BitVec.getLsbD_append]
  simp (disch := omega) only [if_pos]
  rw [← BitVec.getLsbD_eq_getElem]; congr 1; omega

/-! ## Fields of format I -/

theorem wordI_op (op : BitVec 8) (o : OpI) : (wordI op o).extractLsb' 56 8 = op := by
  ext i hi
  simp only [wordI, BitVec.getElem_extractLsb', BitVec.getLsbD_append]
  simp (disch := omega) only [if_neg]
  rw [← BitVec.getLsbD_eq_getElem]; congr 1; omega

theorem wordI_neg (op : BitVec 8) (o : OpI) : (wordI op o).extractLsb' 55 1 = bitOf o.pr.neg := by
  ext i hi
  simp only [wordI, BitVec.getElem_extractLsb', BitVec.getLsbD_append]
  simp (disch := omega) only [if_neg, if_pos]
  rw [← BitVec.getLsbD_eq_getElem]; congr 1; omega

theorem wordI_reg (op : BitVec 8) (o : OpI) : (wordI op o).extractLsb' 52 3 = o.pr.reg := by
  ext i hi
  simp only [wordI, BitVec.getElem_extractLsb', BitVec.getLsbD_append]
  simp (disch := omega) only [if_neg, if_pos]
  rw [← BitVec.getLsbD_eq_getElem]; congr 1; omega

theorem wordI_d (op : BitVec 8) (o : OpI) : (wordI op o).extractLsb' 44 8 = o.d.numBits := by
  ext i hi
  simp only [wordI, BitVec.getElem_extractLsb', BitVec.getLsbD_append]
  simp (disch := omega) only [if_neg, if_pos]
  rw [← BitVec.getLsbD_eq_getElem]; congr 1; omega

theorem wordI_a (op : BitVec 8) (o : OpI) : (wordI op o).extractLsb' 36 8 = o.a.numBits := by
  ext i hi
  simp only [wordI, BitVec.getElem_extractLsb', BitVec.getLsbD_append]
  simp (disch := omega) only [if_neg, if_pos]
  rw [← BitVec.getLsbD_eq_getElem]; congr 1; omega

theorem wordI_dc (op : BitVec 8) (o : OpI) : (wordI op o).extractLsb' 34 2 = o.d.clsBits := by
  ext i hi
  simp only [wordI, BitVec.getElem_extractLsb', BitVec.getLsbD_append]
  simp (disch := omega) only [if_neg, if_pos]
  rw [← BitVec.getLsbD_eq_getElem]; congr 1; omega

theorem wordI_ac (op : BitVec 8) (o : OpI) : (wordI op o).extractLsb' 32 2 = o.a.clsBits := by
  ext i hi
  simp only [wordI, BitVec.getElem_extractLsb', BitVec.getLsbD_append]
  simp (disch := omega) only [if_neg, if_pos]
  rw [← BitVec.getLsbD_eq_getElem]; congr 1; omega

theorem wordI_imm (op : BitVec 8) (o : OpI) : (wordI op o).extractLsb' 0 32 = o.imm := by
  ext i hi
  simp only [wordI, BitVec.getElem_extractLsb', BitVec.getLsbD_append]
  simp (disch := omega) only [if_pos]
  rw [← BitVec.getLsbD_eq_getElem]; congr 1; omega

/-! ## Fields of format M -/

theorem wordM_op (op : BitVec 8) (f : BitVec 6) (o : OpM) : (wordM op f o).extractLsb' 56 8 = op := by
  ext i hi
  simp only [wordM, BitVec.getElem_extractLsb', BitVec.getLsbD_append]
  simp (disch := omega) only [if_neg]
  rw [← BitVec.getLsbD_eq_getElem]; congr 1; omega

theorem wordM_f (op : BitVec 8) (f : BitVec 6) (o : OpM) : (wordM op f o).extractLsb' 10 6 = f := by
  ext i hi
  simp only [wordM, BitVec.getElem_extractLsb', BitVec.getLsbD_append]
  simp (disch := omega) only [if_neg, if_pos]
  rw [← BitVec.getLsbD_eq_getElem]; congr 1; omega

theorem wordM_neg (op : BitVec 8) (f : BitVec 6) (o : OpM) : (wordM op f o).extractLsb' 55 1 = bitOf o.pr.neg := by
  ext i hi
  simp only [wordM, BitVec.getElem_extractLsb', BitVec.getLsbD_append]
  simp (disch := omega) only [if_neg, if_pos]
  rw [← BitVec.getLsbD_eq_getElem]; congr 1; omega

theorem wordM_reg (op : BitVec 8) (f : BitVec 6) (o : OpM) : (wordM op f o).extractLsb' 52 3 = o.pr.reg := by
  ext i hi
  simp only [wordM, BitVec.getElem_extractLsb', BitVec.getLsbD_append]
  simp (disch := omega) only [if_neg, if_pos]
  rw [← BitVec.getLsbD_eq_getElem]; congr 1; omega

theorem wordM_d (op : BitVec 8) (f : BitVec 6) (o : OpM) : (wordM op f o).extractLsb' 44 8 = o.d.numBits := by
  ext i hi
  simp only [wordM, BitVec.getElem_extractLsb', BitVec.getLsbD_append]
  simp (disch := omega) only [if_neg, if_pos]
  rw [← BitVec.getLsbD_eq_getElem]; congr 1; omega

theorem wordM_a (op : BitVec 8) (f : BitVec 6) (o : OpM) : (wordM op f o).extractLsb' 36 8 = o.a := by
  ext i hi
  simp only [wordM, BitVec.getElem_extractLsb', BitVec.getLsbD_append]
  simp (disch := omega) only [if_neg, if_pos]
  rw [← BitVec.getLsbD_eq_getElem]; congr 1; omega

theorem wordM_off (op : BitVec 8) (f : BitVec 6) (o : OpM) : (wordM op f o).extractLsb' 16 20 = o.off := by
  ext i hi
  simp only [wordM, BitVec.getElem_extractLsb', BitVec.getLsbD_append]
  simp (disch := omega) only [if_neg, if_pos]
  rw [← BitVec.getLsbD_eq_getElem]; congr 1; omega

theorem wordM_scope (op : BitVec 8) (f : BitVec 6) (o : OpM) : (wordM op f o).extractLsb' 7 3 = o.scope := by
  ext i hi
  simp only [wordM, BitVec.getElem_extractLsb', BitVec.getLsbD_append]
  simp (disch := omega) only [if_neg, if_pos]
  rw [← BitVec.getLsbD_eq_getElem]; congr 1; omega

theorem wordM_fresh (op : BitVec 8) (f : BitVec 6) (o : OpM) : (wordM op f o).extractLsb' 6 1 = bitOf o.fresh := by
  ext i hi
  simp only [wordM, BitVec.getElem_extractLsb', BitVec.getLsbD_append]
  simp (disch := omega) only [if_neg, if_pos]
  rw [← BitVec.getLsbD_eq_getElem]; congr 1; omega

theorem wordM_nc (op : BitVec 8) (f : BitVec 6) (o : OpM) : (wordM op f o).extractLsb' 5 1 = bitOf o.nc := by
  ext i hi
  simp only [wordM, BitVec.getElem_extractLsb', BitVec.getLsbD_append]
  simp (disch := omega) only [if_neg, if_pos]
  rw [← BitVec.getLsbD_eq_getElem]; congr 1; omega

theorem wordM_wb (op : BitVec 8) (f : BitVec 6) (o : OpM) : (wordM op f o).extractLsb' 4 1 = bitOf o.wb := by
  ext i hi
  simp only [wordM, BitVec.getElem_extractLsb', BitVec.getLsbD_append]
  simp (disch := omega) only [if_neg, if_pos]
  rw [← BitVec.getLsbD_eq_getElem]; congr 1; omega

theorem wordM_promote (op : BitVec 8) (f : BitVec 6) (o : OpM) : (wordM op f o).extractLsb' 3 1 = bitOf o.promote := by
  ext i hi
  simp only [wordM, BitVec.getElem_extractLsb', BitVec.getLsbD_append]
  simp (disch := omega) only [if_neg, if_pos]
  rw [← BitVec.getLsbD_eq_getElem]; congr 1; omega

theorem wordM_dc (op : BitVec 8) (f : BitVec 6) (o : OpM) : (wordM op f o).extractLsb' 1 2 = o.d.clsBits := by
  ext i hi
  simp only [wordM, BitVec.getElem_extractLsb', BitVec.getLsbD_append]
  simp (disch := omega) only [if_neg, if_pos]
  rw [← BitVec.getLsbD_eq_getElem]; congr 1; omega

theorem wordM_aS (op : BitVec 8) (f : BitVec 6) (o : OpM) : (wordM op f o).extractLsb' 0 1 = bitOf o.aS := by
  ext i hi
  simp only [wordM, BitVec.getElem_extractLsb', BitVec.getLsbD_append]
  simp (disch := omega) only [if_pos]
  rw [← BitVec.getLsbD_eq_getElem]; congr 1; omega

/-! ## Whole operand records -/

theorem opndOf_bits (x : Opnd) : opndOf x.clsBits x.numBits = x := by cases x <;> rfl

theorem bitOf_one (b : Bool) : decide (bitOf b = 1#1) = b := by cases b <;> rfl

theorem opO_wordO (op : BitVec 8) (f : BitVec 6) (o : OpO) : opO (wordO op f o) = o := by
  simp [opO, predOf, wordO_neg, wordO_reg, wordO_d, wordO_a, wordO_b, wordO_c, wordO_dc, wordO_ac, wordO_bc, wordO_cc,
    wordO_m, opndOf_bits, bitOf_one]

theorem opI_wordI (op : BitVec 8) (o : OpI) : opI (wordI op o) = o := by
  simp [opI, predOf, wordI_neg, wordI_reg, wordI_d, wordI_a, wordI_dc, wordI_ac, wordI_imm, opndOf_bits, bitOf_one]

theorem opM_wordM (op : BitVec 8) (f : BitVec 6) (o : OpM) : opM (wordM op f o) = o := by
  simp [opM, predOf, wordM_neg, wordM_reg, wordM_d, wordM_a, wordM_off, wordM_scope, wordM_fresh, wordM_nc, wordM_wb,
    wordM_promote, wordM_dc, wordM_aS, opndOf_bits, bitOf_one]

/-! ## Words as bytes -/

theorem ofBytes_toBytes (n w : Nat) : ofBytes (toBytes n w) = w % 2 ^ (8 * n) := by
  induction n generalizing w with
  | zero => simp [toBytes, ofBytes, Nat.mod_one]
  | succ n ih =>
    have h : toBytes (n + 1) w = BitVec.ofNat 8 w :: toBytes n (w / 256) := by
      simp only [toBytes, List.range_succ_eq_map, List.map_cons, List.map_map]
      congr 1
      apply List.map_congr_left
      intro i _
      simp only [Function.comp]
      rw [show 8 * (i.succ) = 8 + 8 * i by omega, Nat.shiftRight_add, Nat.shiftRight_eq_div_pow w 8]
    rw [h, ofBytes, ih]
    have e : (2 : Nat) ^ (8 * (n + 1)) = 256 * 2 ^ (8 * n) := by rw [show 8 * (n + 1) = 8 + 8 * n by omega, Nat.pow_add]
    rw [e, Nat.mod_mul]
    simp [BitVec.toNat_ofNat]

theorem toBytes_length (n w : Nat) : (toBytes n w).length = n := by simp [toBytes]

theorem word_ofBytes_toBytes (w : Word) : BitVec.ofNat 64 (ofBytes (toBytes 8 w.toNat)) = w := by
  rw [ofBytes_toBytes]
  apply BitVec.eq_of_toNat_eq
  simpa using w.isLt

/-- The decoder on a word laid out with a following one. -/
theorem decode_bytes (env : DecEnv) (w : Word) (rest : List Byte) :
    decode env (toBytes 8 w.toNat ++ rest) = decodeWord env w (BitVec.ofNat 64 (ofBytes (rest.take 8))) := by
  have h : (toBytes 8 w.toNat).length = 8 := toBytes_length 8 w.toNat
  simp only [decode, List.length_append, h]
  rw [if_neg (by omega), List.take_left' h, List.drop_left' h, word_ofBytes_toBytes]

end Sys2Proof
end

