-- ==== Sys2Proof/Laws/Map.lean ====
section
/-! SUPPORT. The sparse map: a read after a write, and the canonical form that every operation keeps. -/

namespace Sys2Proof

theorem look_mapDel (d : α) (m : FMap α) (k j : Nat) : look d (mapDel m k) j = if j = k then d else look d m j := by
  induction m with
  | nil => simp [mapDel, look]
  | cons e m ih =>
    obtain ⟨a, v⟩ := e
    simp only [mapDel]
    split
    · rename_i h; rw [ih]; simp only [look]; grind
    · simp only [look, ih]; grind

theorem look_mapIns (d : α) (m : FMap α) (k : Nat) (v : α) (j : Nat) :
    look d (mapIns m k v) j = if j = k then v else look d m j := by
  induction m with
  | nil => simp only [mapIns, look, eq_comm]
  | cons e m ih =>
    obtain ⟨a, w⟩ := e
    simp only [mapIns]
    split
    · simp only [look]; grind
    · split
      · rename_i h; subst h; simp only [look]; grind
      · simp only [look, ih]; grind

/-- A read after a write: the written value at the key, every other key as before. -/
theorem look_put [DecidableEq α] (d : α) (m : FMap α) (k : Nat) (v : α) (j : Nat) :
    look d (put d m k v) j = if j = k then v else look d m j := by
  unfold put
  split
  · rename_i h; rw [look_mapDel, h]
  · rw [look_mapIns]

theorem look_put_same [DecidableEq α] (d : α) (m : FMap α) (k : Nat) (v : α) : look d (put d m k v) k = v := by
  simp [look_put]

theorem look_put_other [DecidableEq α] (d : α) (m : FMap α) (k : Nat) (v : α) {j : Nat} (h : j ≠ k) :
    look d (put d m k v) j = look d m j := by
  simp [look_put, h]

/-! ## The canonical form -/

theorem mapAbove_iff (k : Nat) (m : FMap α) : mapAbove k m = true ↔ ∀ e ∈ m, k < e.1 := by
  simp [mapAbove]

theorem mem_mapDel {m : FMap α} {k : Nat} {e : Nat × α} (h : e ∈ mapDel m k) : e ∈ m := by
  induction m with
  | nil => exact h
  | cons x m ih =>
    simp only [mapDel] at h
    split at h
    · exact List.mem_cons_of_mem _ (ih h)
    · rcases List.mem_cons.mp h with rfl | h
      · exact List.mem_cons_self
      · exact List.mem_cons_of_mem _ (ih h)

theorem mem_mapIns {m : FMap α} {k : Nat} {v : α} {e : Nat × α} (h : e ∈ mapIns m k v) : e = (k, v) ∨ e ∈ m := by
  induction m with
  | nil => exact Or.inl (by simpa [mapIns] using h)
  | cons x m ih =>
    simp only [mapIns] at h
    split at h
    · simpa using h
    · split at h
      · rcases List.mem_cons.mp h with h | h
        · exact Or.inl h
        · exact Or.inr (List.mem_cons_of_mem _ h)
      · rcases List.mem_cons.mp h with rfl | h
        · exact Or.inr List.mem_cons_self
        · exact (ih h).imp_right (List.mem_cons_of_mem _)

theorem mapWf_cons [DecidableEq α] (d : α) (k : Nat) (v : α) (m : FMap α) :
    mapWf d ((k, v) :: m) = true ↔ v ≠ d ∧ (∀ e ∈ m, k < e.1) ∧ mapWf d m = true := by
  simp [mapWf, mapAbove_iff, and_assoc]

theorem mapWf_filter [DecidableEq α] (d : α) (p : Nat × α → Bool) {m : FMap α} (h : mapWf d m = true) :
    mapWf d (m.filter p) = true := by
  induction m with
  | nil => exact h
  | cons e m ih =>
    obtain ⟨k, v⟩ := e
    obtain ⟨hv, hk, hm⟩ := (mapWf_cons d k v m).mp h
    simp only [List.filter]
    split
    · exact (mapWf_cons d k v _).mpr ⟨hv, fun e he => hk e (List.mem_filter.mp he).1, ih hm⟩
    · exact ih hm

theorem mapWf_cut [DecidableEq α] (d : α) {m : FMap α} (h : mapWf d m = true) (lo hi : Nat) :
    mapWf d (mapCut m lo hi) = true := mapWf_filter d _ h

theorem mapWf_del [DecidableEq α] (d : α) {m : FMap α} (h : mapWf d m = true) (k : Nat) : mapWf d (mapDel m k) = true := by
  induction m with
  | nil => exact h
  | cons e m ih =>
    obtain ⟨a, v⟩ := e
    obtain ⟨hv, hk, hm⟩ := (mapWf_cons d a v m).mp h
    simp only [mapDel]
    split
    · exact ih hm
    · exact (mapWf_cons d a v _).mpr ⟨hv, fun e he => hk e (mem_mapDel he), ih hm⟩

theorem mapWf_ins [DecidableEq α] (d : α) {m : FMap α} (h : mapWf d m = true) (k : Nat) {v : α} (hv : v ≠ d) :
    mapWf d (mapIns m k v) = true := by
  induction m with
  | nil => simp [mapIns, mapWf, mapAbove, hv]
  | cons e m ih =>
    obtain ⟨a, w⟩ := e
    obtain ⟨hw, ha, hm⟩ := (mapWf_cons d a w m).mp h
    simp only [mapIns]
    split
    · rename_i hlt
      refine (mapWf_cons d k v _).mpr ⟨hv, ?_, h⟩
      intro e he
      rcases List.mem_cons.mp he with rfl | he
      · exact hlt
      · exact Nat.lt_trans hlt (ha e he)
    · split
      · rename_i hk; subst hk; exact (mapWf_cons d k v _).mpr ⟨hv, ha, hm⟩
      · rename_i h1 h2
        refine (mapWf_cons d a w _).mpr ⟨hw, ?_, ih hm⟩
        intro e he
        rcases mem_mapIns he with rfl | he
        · show a < k; omega
        · exact ha e he

/-- A write keeps the canonical form. -/
theorem mapWf_put [DecidableEq α] (d : α) {m : FMap α} (h : mapWf d m = true) (k : Nat) (v : α) :
    mapWf d (put d m k v) = true := by
  unfold put
  split
  · exact mapWf_del d h k
  · rename_i hv; exact mapWf_ins d h k hv

theorem mapWf_putRun [DecidableEq α] (d : α) {m : FMap α} (h : mapWf d m = true) (k : Nat) (vs : List α) :
    mapWf d (putRun d m k vs) = true := by
  induction vs generalizing m k with
  | nil => exact h
  | cons v vs ih => exact ih (mapWf_put d h k v) (k + 1)

theorem mapWf_ne [DecidableEq α] (d : α) {m : FMap α} (h : mapWf d m = true) {e : Nat × α} (he : e ∈ m) : e.2 ≠ d := by
  induction m with
  | nil => simp at he
  | cons x m ih =>
    obtain ⟨k, v⟩ := x
    obtain ⟨hv, _, hm⟩ := (mapWf_cons d k v m).mp h
    rcases List.mem_cons.mp he with rfl | he
    · exact hv
    · exact ih hm he

/-- Entries of one canonical map laid into another. -/
theorem mapWf_foldIns [DecidableEq α] (d : α) (es : List (Nat × α)) (f : Nat × α → Nat) (hes : ∀ e ∈ es, e.2 ≠ d)
    {m : FMap α} (h : mapWf d m = true) : mapWf d (es.foldl (fun m e => mapIns m (f e) e.2) m) = true := by
  induction es generalizing m with
  | nil => exact h
  | cons e es ih =>
    exact ih (fun x hx => hes x (List.mem_cons_of_mem _ hx)) (mapWf_ins d h _ (hes e List.mem_cons_self))

end Sys2Proof
end

