-- ==== Sys2Proof/Laws/Operands.lean ====
section
/-! SUPPORT. Registers of a warp: reads after writes, and what a computed result changes. -/

namespace Sys2Proof.Machine

/-! ## One write -/

@[simp] theorem Warp.v1_mk (w : Warp) (m : FMap VEl) (r l : Nat) : ({ w with v := m } : Warp).v1 r l = look {} m (32 * r + l) := rfl
@[simp] theorem Warp.s1_mk (w : Warp) (m : FMap SEl) (k : Nat) : ({ w with s := m } : Warp).s1 k = look {} m k := rfl

/-- A lane's write touches that lane's element of its row alone. -/
theorem Warp.v1_setV1 (w : Warp) (r l : Nat) (x : W32) (b : Bool) (r' l' : Nat) (hl : l < 32) (hl' : l' < 32) :
    (w.setV1 r l x b).v1 r' l' = if r' = r ∧ l' = l then { val := if b then 0 else x, psn := b } else w.v1 r' l' := by
  have h : 32 * r' + l' = 32 * r + l ↔ r' = r ∧ l' = l := by omega
  simp only [Warp.setV1, Warp.v1, look_put, h]

theorem Warp.s1_setS1 (w : Warp) (k : Nat) (x : Word) (b : Bool) (j : Nat) :
    (w.setS1 k x b).s1 j = if j = k then { val := if b then 0 else x, psn := b } else w.s1 j := by
  simp only [Warp.setS1, Warp.s1, look_put]

theorem Warp.p1_setP1 (w : Warp) (k l : Nat) (x b : Bool) (j l' : Nat) (hl : l < 32) (hl' : l' < 32) :
    (w.setP1 k l x b).p1 j l' =
      if j = k ∧ l' = l ∧ j ≠ 7 then { val := if b then false else x, psn := b } else w.p1 j l' := by
  have h : 32 * j + l' = 32 * k + l ↔ j = k ∧ l' = l := by omega
  by_cases hk : k = 7
  · simp only [Warp.setP1, hk, if_true]
    by_cases hj : j = 7
    · simp [hj]
    · simp [hj]
  · by_cases hj : j = 7
    · subst hj; simp [Warp.p1]
    · simp only [Warp.setP1, Warp.p1, look_put, h, hk, hj, if_false]; grind

theorem Warp.v_setP1 (w : Warp) (k l : Nat) (x b : Bool) : (w.setP1 k l x b).v = w.v := by unfold Warp.setP1; split <;> rfl
theorem Warp.s_setP1 (w : Warp) (k l : Nat) (x b : Bool) : (w.setP1 k l x b).s = w.s := by unfold Warp.setP1; split <;> rfl

/-- A write changes registers alone. -/
theorem Warp.write_frame (w : Warp) (b : Nat) (d : Opnd) (l : Nat) (x : Val) :
    w.write b d l x = { w with v := (w.write b d l x).v, s := (w.write b d l x).s, p := (w.write b d l x).p } := by
  cases d with
  | v k => simp only [Warp.write, Warp.writeV]; split <;> rfl
  | s k => rfl
  | p k => simp only [Warp.write, Warp.setP1]; split <;> rfl
  | l k => rfl

/-- A fold of writes changes registers alone. -/
theorem Warp.fold_frame (g : Warp → Nat → Warp)
    (hg : ∀ t l, g t l = { t with v := (g t l).v, s := (g t l).s, p := (g t l).p }) (L : List Nat) (w : Warp) :
    L.foldl g w = { w with v := (L.foldl g w).v, s := (L.foldl g w).s, p := (L.foldl g w).p } := by
  induction L generalizing w with
  | nil => rfl
  | cons a L ih =>
    have h := ih (g w a)
    rw [List.foldl_cons, h, hg w a]

/-! ## A result by lane -/

/-- The lane step of `perLane`. -/
def laneStep (h q : W32) (b : Nat) (d : Opnd) (f : Nat → Res) (t : Warp) (l : Nat) : Warp :=
  if h.getLsbD l then t.write b d l (f l).val else if q.getLsbD l then t.write b d l poisonVal else t

theorem laneStep_frame (h q : W32) (b : Nat) (d : Opnd) (f : Nat → Res) (t : Warp) (l : Nat) :
    laneStep h q b d f t l = { t with v := (laneStep h q b d f t l).v, s := (laneStep h q b d f t l).s
                                      p := (laneStep h q b d f t l).p } := by
  unfold laneStep
  split
  · exact Warp.write_frame ..
  · split
    · exact Warp.write_frame ..
    · rfl

theorem perLane_eq (w : Warp) (pr : Pred) (b : Nat) (d : Opnd) (f : Nat → Res) :
    w.perLane pr b d f =
      { (List.range 32).foldl (laneStep (w.holds pr) (w.psnd pr) b d f) w with
        flg := (lanesOf (w.holds pr)).foldl (fun fl l => fl ||| (f l).flags) w.flg } := by
  have h := Warp.fold_frame (laneStep (w.holds pr) (w.psnd pr) b d f) (fun t l => laneStep_frame ..) (List.range 32) w
  have hf : ((List.range 32).foldl (laneStep (w.holds pr) (w.psnd pr) b d f) w).flg = w.flg := by rw [h]
  rw [← hf]; rfl

theorem Warp.perLane_frame (w : Warp) (pr : Pred) (b : Nat) (d : Opnd) (f : Nat → Res) :
    w.perLane pr b d f = { w with v := (w.perLane pr b d f).v, s := (w.perLane pr b d f).s
                                  p := (w.perLane pr b d f).p, flg := (w.perLane pr b d f).flg } := by
  have h := Warp.fold_frame (laneStep (w.holds pr) (w.psnd pr) b d f) (fun t l => laneStep_frame ..) (List.range 32) w
  rw [perLane_eq, h]

theorem Res.elem_zero (r : Res) : r.elem 0 = { val := if r.psn then 0 else BitVec.ofNat 32 r.n, psn := r.psn } := by
  cases h : r.psn <;> simp [Res.elem, h]

theorem Res.elem_one (r : Res) :
    r.elem 1 = { val := if r.psn then 0 else BitVec.ofNat 32 (r.n >>> 32), psn := r.psn } := by
  cases h : r.psn <;> simp [Res.elem, h]

/-- The elements of a v destination of one or two registers after one lane's write. -/
theorem Warp.v1_writeV (w : Warp) (n k l : Nat) (r : Res) (row j : Nat) (hn : n = 1 ∨ n = 2) (hl : l < 32) (hj : j < 32) :
    (w.writeV (32 * n) k l r.val).v1 row j =
      if j = l ∧ k ≤ row ∧ row < k + n then r.elem (row - k) else w.v1 row j := by
  rcases hn with rfl | rfl
  · simp only [Warp.writeV, Res.val, show (32 * 1 = 64) = False by simp, if_false]
    rw [Warp.v1_setV1 _ _ _ _ _ _ _ hl hj]
    by_cases h : row = k ∧ j = l
    · obtain ⟨rfl, rfl⟩ := h; simp [Res.elem_zero]
    · rw [if_neg h, if_neg (by omega)]
  · simp only [Warp.writeV, Res.val, if_true]
    rw [Warp.v1_setV1 _ _ _ _ _ _ _ hl hj, Warp.v1_setV1 _ _ _ _ _ _ _ hl hj]
    by_cases h1 : row = k + 1 ∧ j = l
    · obtain ⟨rfl, rfl⟩ := h1
      simp [Res.elem_one]
    · rw [if_neg h1]
      by_cases h0 : row = k ∧ j = l
      · obtain ⟨rfl, rfl⟩ := h0; simp [Res.elem_zero]
      · rw [if_neg h0, if_neg (by omega)]

theorem poison_elem (j : Nat) : Res.elem { n := 0, psn := true } j = { psn := true } := rfl

theorem fold_v1 (h q : W32) (n : Nat) (hn : n = 1 ∨ n = 2) (k : BitVec 8) (f : Nat → Res) (L : List Nat)
    (hL : ∀ l ∈ L, l < 32) (w : Warp) (row j : Nat) (hj : j < 32) :
    (L.foldl (laneStep h q (32 * n) (.v k) f) w).v1 row j =
      if j ∈ L ∧ k.toNat ≤ row ∧ row < k.toNat + n then
        if h.getLsbD j then (f j).elem (row - k.toNat) else if q.getLsbD j then { psn := true } else w.v1 row j
      else w.v1 row j := by
  induction L generalizing w with
  | nil => simp
  | cons a L ih =>
    have ha := hL a List.mem_cons_self
    rw [List.foldl_cons, ih fun l hl => hL l (List.mem_cons_of_mem _ hl)]
    have step : (laneStep h q (32 * n) (.v k) f w a).v1 row j =
        if j = a ∧ k.toNat ≤ row ∧ row < k.toNat + n then
          if h.getLsbD j then (f j).elem (row - k.toNat) else if q.getLsbD j then { psn := true } else w.v1 row j
        else w.v1 row j := by
      unfold laneStep
      split
      · rw [Warp.write, Warp.v1_writeV _ _ _ _ _ _ _ hn ha hj]; grind
      · split
        · rw [Warp.write, show poisonVal = Res.val { n := 0, psn := true } from rfl, Warp.v1_writeV _ _ _ _ _ _ _ hn ha hj,
            poison_elem]; grind
        · grind
    rw [step]
    grind

theorem fold_p1 (h q : W32) (b : Nat) (k : BitVec 8) (f : Nat → Res) (L : List Nat) (hL : ∀ l ∈ L, l < 32) (w : Warp)
    (j l : Nat) (hl : l < 32) :
    (L.foldl (laneStep h q b (.p k) f) w).p1 j l =
      if l ∈ L ∧ j = k.toNat ∧ j ≠ 7 then
        if h.getLsbD l then (if (f l).psn then { psn := true } else { val := decide ((f l).n % 2 = 1) })
        else if q.getLsbD l then { psn := true } else w.p1 j l
      else w.p1 j l := by
  induction L generalizing w with
  | nil => simp
  | cons a L ih =>
    have ha := hL a List.mem_cons_self
    rw [List.foldl_cons, ih fun l hl => hL l (List.mem_cons_of_mem _ hl)]
    have step : (laneStep h q b (.p k) f w a).p1 j l =
        if l = a ∧ j = k.toNat ∧ j ≠ 7 then
          if h.getLsbD l then (if (f l).psn then { psn := true } else { val := decide ((f l).n % 2 = 1) })
          else if q.getLsbD l then { psn := true } else w.p1 j l
        else w.p1 j l := by
      unfold laneStep
      split
      · simp only [Warp.write, Res.val]; rw [Warp.p1_setP1 _ _ _ _ _ _ _ ha hl]
        have hn : (f a).val.n = (f a).n := rfl
        cases hp : (f a).psn <;> grind
      · split
        · simp only [Warp.write, poisonVal]; rw [Warp.p1_setP1 _ _ _ _ _ _ _ ha hl]; grind
        · grind
    rw [step]
    grind

theorem fold_keeps (g : Warp → Nat → Warp) (p : Warp → α) (hg : ∀ t l, p (g t l) = p t) (L : List Nat) (w : Warp) :
    p (L.foldl g w) = p w := by
  induction L generalizing w with
  | nil => rfl
  | cons a L ih => rw [List.foldl_cons, ih, hg]

theorem lt_of_range {l : Nat} (h : l ∈ List.range 32) : l < 32 := List.mem_range.mp h

/-- What `result` changes, in the terms of the claims. -/
theorem Warp.result_is (w : Warp) (pr : Pred) (n : Nat) (hn : n = 1 ∨ n = 2) (d : Opnd) (ext : Nat → Nat) (f : Nat → Res) :
    LaneResult w (w.result pr (32 * n) d ext f) pr n d ext f := by
  cases d with
  | v k =>
    have e : w.result pr (32 * n) (.v k) ext f = w.perLane pr (32 * n) (.v k) f := rfl
    rw [e, perLane_eq]
    have hs : ((List.range 32).foldl (laneStep (w.holds pr) (w.psnd pr) (32 * n) (.v k) f) w).s = w.s :=
      fold_keeps _ (·.s) (fun t l => by
        simp only [laneStep, Warp.write, Warp.writeV]; repeat' split
        all_goals rfl) _ _
    have hp : ((List.range 32).foldl (laneStep (w.holds pr) (w.psnd pr) (32 * n) (.v k) f) w).p = w.p :=
      fold_keeps _ (·.p) (fun t l => by
        simp only [laneStep, Warp.write, Warp.writeV]; repeat' split
        all_goals rfl) _ _
    refine ⟨?_, by simp, by simp, by simp [Opnd.isS]⟩
    intro k' hk; cases hk
    refine ⟨hs, hp, fun row l hl => ?_⟩
    have := fold_v1 (w.holds pr) (w.psnd pr) n hn k f (List.range 32) (fun l => lt_of_range) w row l hl
    simp only [List.mem_range.mpr hl, true_and] at this
    exact this
  | p k =>
    have e : w.result pr (32 * n) (.p k) ext f = w.perLane pr (32 * n) (.p k) f := rfl
    rw [e, perLane_eq]
    have hv : ((List.range 32).foldl (laneStep (w.holds pr) (w.psnd pr) (32 * n) (.p k) f) w).v = w.v :=
      fold_keeps _ (·.v) (fun t l => by
        simp only [laneStep, Warp.write]; repeat' split
        all_goals first | rfl | exact Warp.v_setP1 _ _ _ _ _) _ _
    have hs : ((List.range 32).foldl (laneStep (w.holds pr) (w.psnd pr) (32 * n) (.p k) f) w).s = w.s :=
      fold_keeps _ (·.s) (fun t l => by
        simp only [laneStep, Warp.write]; repeat' split
        all_goals first | rfl | exact Warp.s_setP1 _ _ _ _ _) _ _
    refine ⟨by simp, by simp, ?_, by simp [Opnd.isS]⟩
    intro k' hk; cases hk
    refine ⟨hv, hs, fun j l hl => ?_⟩
    have := fold_p1 (w.holds pr) (w.psnd pr) (32 * n) k f (List.range 32) (fun l => lt_of_range) w j l hl
    simp only [List.mem_range.mpr hl, true_and] at this
    exact this
  | s k =>
    have e : w.result pr (32 * n) (.s k) ext f = w.once pr (.s k) { f 0 with n := ext (f 0).n } := rfl
    rw [e]
    have hz : w.writers pr ≠ 0 ↔ w.psnd pr ≠ 0 ∨ w.holds pr ≠ 0 := by
      unfold Warp.writers
      constructor
      · intro h
        by_cases h2 : w.psnd pr = 0
        · exact Or.inr fun hc => h (by rw [h2, hc]; rfl)
        · exact Or.inl h2
      · intro h hc
        have := BitVec.or_eq_zero_iff.mp hc
        rcases h with h | h
        · exact h this.2
        · exact h this.1
    refine ⟨by simp, ?_, by simp, ?_⟩
    · intro k' hk; cases hk
      unfold Warp.once
      refine ⟨?_, ?_, fun j => ?_⟩
      · repeat' split
        all_goals rfl
      · repeat' split
        all_goals rfl
      · by_cases hq : w.psnd pr = 0
        · by_cases hh : w.holds pr = 0
          · have hw : ¬ w.writers pr ≠ 0 := fun c => (hz.mp c).elim (fun d => d hq) fun d => d hh
            rw [if_neg (not_not_intro hq), if_neg (not_not_intro hh), if_neg fun c => hw c.2]
          · have hw : w.writers pr ≠ 0 := hz.mpr (Or.inr hh)
            rw [if_neg (not_not_intro hq), if_pos hh]
            show ((w.setS1 k.toNat (BitVec.ofNat 64 (ext (f 0).n)) (f 0).psn).s1 j) = _
            rw [Warp.s1_setS1]
            simp only [ne_eq, hw, hq, not_false_eq_true, not_true_eq_false, and_true, false_or]
            by_cases hp : (f 0).psn = true
            · simp only [hp, if_true]
            · simp only [Bool.eq_false_iff.mpr hp, Bool.false_eq_true, if_false]
        · have hw : w.writers pr ≠ 0 := hz.mpr (Or.inl hq)
          rw [if_pos hq]
          simp only [Warp.write, poisonVal]; rw [Warp.s1_setS1]
          simp only [ne_eq, hw, hq, not_false_eq_true, and_true, true_or, if_true]
    · unfold Warp.once
      simp only [Opnd.isS]
      split
      · simp_all [Warp.write, Warp.setS1]
      · split
        · simp_all [Warp.write, Warp.setS1, Res.flags]
        · simp_all
  | l k =>
    have e : w.result pr (32 * n) (.l k) ext f = w.perLane pr (32 * n) (.l k) f := rfl
    rw [e, perLane_eq]
    exact ⟨by simp, by simp, by simp, by simp [Opnd.isS]⟩

theorem Warp.result_frame (w : Warp) (pr : Pred) (b : Nat) (d : Opnd) (ext : Nat → Nat) (f : Nat → Res) :
    w.result pr b d ext f = { w with v := (w.result pr b d ext f).v, s := (w.result pr b d ext f).s
                                     p := (w.result pr b d ext f).p, flg := (w.result pr b d ext f).flg } := by
  unfold Warp.result
  split
  · simp only [Warp.once]
    repeat' split
    all_goals rfl
  · exact Warp.perLane_frame ..

end Sys2Proof.Machine
end

