-- ==== Sys2Proof/Laws/State.lean ====
section
/-! SUPPORT. The fields of State after each shared update: one lemma for each, so that no later proof unfolds a record
update. -/

namespace Sys2Proof.Machine

/-! ## The warp at hand -/

theorem State.warp_putWarp (s : State) (k : Nat) (w : Warp) (j : Nat) :
    (s.putWarp k w).warp j = if j = k then w else s.warp j := by
  exact look_put _ s.warps k w j

@[simp] theorem State.warp_putWarp_same (s : State) (k : Nat) (w : Warp) : (s.putWarp k w).warp k = w := by
  simp [State.warp_putWarp]

@[simp] theorem State.w_setW (s : State) (w : Warp) : (s.setW w).w = w := by
  show (s.putWarp s.cur w).warp s.cur = w
  simp

theorem State.warp_setW (s : State) (w : Warp) (k : Nat) : (s.setW w).warp k = if k = s.cur then w else s.warp k :=
  State.warp_putWarp s s.cur w k

@[simp] theorem State.setW_cur (s : State) (w : Warp) : (s.setW w).cur = s.cur := rfl
@[simp] theorem State.setW_clk (s : State) (w : Warp) : (s.setW w).clk = s.clk := rfl
@[simp] theorem State.setW_cores (s : State) (w : Warp) : (s.setW w).cores = s.cores := rfl
@[simp] theorem State.setW_core (s : State) (w : Warp) (c : Nat) : (s.setW w).core c = s.core c := rfl
@[simp] theorem State.setW_ctx (s : State) (w : Warp) (c : Nat) : (s.setW w).ctx c = s.ctx c := rfl
@[simp] theorem State.setW_launch (s : State) (w : Warp) (n : Nat) : (s.setW w).launch n = s.launch n := rfl
@[simp] theorem State.setW_block (s : State) (w : Warp) (n : Nat) : (s.setW w).block n = s.block n := rfl
@[simp] theorem State.setW_ops (s : State) (w : Warp) : (s.setW w).ops = s.ops := rfl
@[simp] theorem State.setW_cmds (s : State) (w : Warp) : (s.setW w).cmds = s.cmds := rfl
@[simp] theorem State.setW_mem (s : State) (w : Warp) : (s.setW w).mem = s.mem := rfl
@[simp] theorem State.setW_smp (s : State) (w : Warp) : (s.setW w).smp = s.smp := rfl
@[simp] theorem State.setW_cid (s : State) (w : Warp) : (s.setW w).cid = s.cid := rfl

/-! ## Cores, launches, blocks, contexts -/

theorem State.core_putCore (s : State) (k : Nat) (c : Core) (j : Nat) :
    (s.putCore k c).core j = if j = k then c else s.core j := by
  exact look_put _ s.cores k c j

@[simp] theorem State.core_putCore_same (s : State) (k : Nat) (c : Core) : (s.putCore k c).core k = c := by
  simp [State.core_putCore]

@[simp] theorem State.putCore_w (s : State) (k : Nat) (c : Core) : (s.putCore k c).w = s.w := rfl
@[simp] theorem State.putCore_cur (s : State) (k : Nat) (c : Core) : (s.putCore k c).cur = s.cur := rfl
@[simp] theorem State.putCore_warp (s : State) (k : Nat) (c : Core) (j : Nat) : (s.putCore k c).warp j = s.warp j := rfl
@[simp] theorem State.putCore_mem (s : State) (k : Nat) (c : Core) : (s.putCore k c).mem = s.mem := rfl
@[simp] theorem State.putCore_clk (s : State) (k : Nat) (c : Core) : (s.putCore k c).clk = s.clk := rfl
@[simp] theorem State.putCore_smp (s : State) (k : Nat) (c : Core) : (s.putCore k c).smp = s.smp := rfl
@[simp] theorem State.putCore_ctx (s : State) (k : Nat) (c : Core) (n : Nat) : (s.putCore k c).ctx n = s.ctx n := rfl

theorem State.ctx_putCtx (s : State) (k : Nat) (c : Ctx) (j : Nat) :
    (s.putCtx k c).ctx j = if j = k then c else s.ctx j := by
  exact look_put _ s.ctxs k c j

@[simp] theorem State.ctx_putCtx_same (s : State) (k : Nat) (c : Ctx) : (s.putCtx k c).ctx k = c := by
  simp [State.ctx_putCtx]

@[simp] theorem State.putCtx_w (s : State) (k : Nat) (c : Ctx) : (s.putCtx k c).w = s.w := rfl
@[simp] theorem State.putCtx_mem (s : State) (k : Nat) (c : Ctx) : (s.putCtx k c).mem = s.mem := rfl

theorem State.launch_putLaunch (s : State) (k : Nat) (l : Launch) (j : Nat) :
    (s.putLaunch k l).launch j = if j = k then l else s.launch j := by
  exact look_put _ s.launches k l j

@[simp] theorem State.launch_putLaunch_same (s : State) (k : Nat) (l : Launch) : (s.putLaunch k l).launch k = l := by
  simp [State.launch_putLaunch]

@[simp] theorem State.putLaunch_w (s : State) (k : Nat) (l : Launch) : (s.putLaunch k l).w = s.w := rfl
@[simp] theorem State.putLaunch_mem (s : State) (k : Nat) (l : Launch) : (s.putLaunch k l).mem = s.mem := rfl

theorem State.block_putBlock (s : State) (k : Nat) (b : Block) (j : Nat) :
    (s.putBlock k b).block j = if j = k then b else s.block j := by
  exact look_put _ s.blocks k b j

@[simp] theorem State.putBlock_w (s : State) (k : Nat) (b : Block) : (s.putBlock k b).w = s.w := rfl
@[simp] theorem State.putBlock_mem (s : State) (k : Nat) (b : Block) : (s.putBlock k b).mem = s.mem := rfl

/-! ## The other fields after the current warp's update -/

@[simp] theorem State.setW_did (s : State) (w : Warp) : (s.setW w).did = s.did := rfl
@[simp] theorem State.setW_agenda (s : State) (w : Warp) : (s.setW w).agenda = s.agenda := rfl
@[simp] theorem State.setW_outbox (s : State) (w : Warp) : (s.setW w).outbox = s.outbox := rfl
@[simp] theorem State.setW_numbered (s : State) (w : Warp) : (s.setW w).numbered = s.numbered := rfl
@[simp] theorem State.setW_atime (s : State) (w : Warp) : (s.setW w).atime = s.atime := rfl
@[simp] theorem State.setW_upset (s : State) (w : Warp) : (s.setW w).upset = s.upset := rfl
@[simp] theorem State.setW_nextId (s : State) (w : Warp) : (s.setW w).nextId = s.nextId := rfl
@[simp] theorem State.setW_draws (s : State) (w : Warp) : (s.setW w).draws = s.draws := rfl
@[simp] theorem State.setW_blocks (s : State) (w : Warp) : (s.setW w).blocks = s.blocks := rfl
@[simp] theorem State.setW_launches (s : State) (w : Warp) : (s.setW w).launches = s.launches := rfl
@[simp] theorem State.setW_bars (s : State) (w : Warp) : (s.setW w).bars = s.bars := rfl
@[simp] theorem State.setW_haltCmds (s : State) (w : Warp) : (s.setW w).haltCmds = s.haltCmds := rfl
@[simp] theorem State.setW_vers (s : State) (w : Warp) : (s.setW w).vers = s.vers := rfl
@[simp] theorem State.setW_nextAge (s : State) (w : Warp) : (s.setW w).nextAge = s.nextAge := rfl
@[simp] theorem State.setW_readyNow (s : State) (w : Warp) : (s.setW w).readyNow = s.readyNow := rfl
@[simp] theorem State.setW_spad (s : State) (w : Warp) : (s.setW w).spad = s.spad := rfl
@[simp] theorem State.setW_spadMark (s : State) (w : Warp) : (s.setW w).spadMark = s.spadMark := rfl
@[simp] theorem State.setW_l1 (s : State) (w : Warp) : (s.setW w).l1 = s.l1 := rfl
@[simp] theorem State.setW_l2 (s : State) (w : Warp) : (s.setW w).l2 = s.l2 := rfl
@[simp] theorem State.setW_dir (s : State) (w : Warp) : (s.setW w).dir = s.dir := rfl
@[simp] theorem State.setW_memMark (s : State) (w : Warp) : (s.setW w).memMark = s.memMark := rfl
@[simp] theorem State.setW_memKey (s : State) (w : Warp) : (s.setW w).memKey = s.memKey := rfl
@[simp] theorem State.setW_links (s : State) (w : Warp) : (s.setW w).links = s.links := rfl
@[simp] theorem State.setW_pins (s : State) (w : Warp) : (s.setW w).pins = s.pins := rfl
@[simp] theorem State.setW_ctxs (s : State) (w : Warp) : (s.setW w).ctxs = s.ctxs := rfl
@[simp] theorem State.setW_shadow (s : State) (w : Warp) : (s.setW w).shadow = s.shadow := rfl
@[simp] theorem State.setW_sent (s : State) (w : Warp) : (s.setW w).sent = s.sent := rfl
@[simp] theorem State.setW_errCnt (s : State) (w : Warp) : (s.setW w).errCnt = s.errCnt := rfl
@[simp] theorem State.setW_flows (s : State) (w : Warp) : (s.setW w).flows = s.flows := rfl
@[simp] theorem State.setW_prt (s : State) (w : Warp) : (s.setW w).prt = s.prt := rfl
@[simp] theorem State.setW_plive (s : State) (w : Warp) : (s.setW w).plive = s.plive := rfl
@[simp] theorem State.setW_keys (s : State) (w : Warp) : (s.setW w).keys = s.keys := rfl
@[simp] theorem State.setW_prefs (s : State) (w : Warp) : (s.setW w).prefs = s.prefs := rfl
@[simp] theorem State.setW_peerReqs (s : State) (w : Warp) : (s.setW w).peerReqs = s.peerReqs := rfl
@[simp] theorem State.setW_homeWaits (s : State) (w : Warp) : (s.setW w).homeWaits = s.homeWaits := rfl
@[simp] theorem State.setW_peerFail (s : State) (w : Warp) : (s.setW w).peerFail = s.peerFail := rfl
@[simp] theorem State.setW_watches (s : State) (w : Warp) : (s.setW w).watches = s.watches := rfl
@[simp] theorem State.setW_harp (s : State) (w : Warp) : (s.setW w).harp = s.harp := rfl
@[simp] theorem State.setW_lyre (s : State) (w : Warp) : (s.setW w).lyre = s.lyre := rfl
@[simp] theorem State.setW_zith (s : State) (w : Warp) : (s.setW w).zith = s.zith := rfl
@[simp] theorem State.setW_leng (s : State) (w : Warp) : (s.setW w).leng = s.leng := rfl
@[simp] theorem State.setW_mgmt (s : State) (w : Warp) : (s.setW w).mgmt = s.mgmt := rfl

/-! ## The other fields after a warp's update -/

@[simp] theorem State.putWarp_did (s : State) (k : Nat) (w : Warp) : (s.putWarp k w).did = s.did := rfl
@[simp] theorem State.putWarp_cur (s : State) (k : Nat) (w : Warp) : (s.putWarp k w).cur = s.cur := rfl
@[simp] theorem State.putWarp_agenda (s : State) (k : Nat) (w : Warp) : (s.putWarp k w).agenda = s.agenda := rfl
@[simp] theorem State.putWarp_outbox (s : State) (k : Nat) (w : Warp) : (s.putWarp k w).outbox = s.outbox := rfl
@[simp] theorem State.putWarp_numbered (s : State) (k : Nat) (w : Warp) : (s.putWarp k w).numbered = s.numbered := rfl
@[simp] theorem State.putWarp_clk (s : State) (k : Nat) (w : Warp) : (s.putWarp k w).clk = s.clk := rfl
@[simp] theorem State.putWarp_atime (s : State) (k : Nat) (w : Warp) : (s.putWarp k w).atime = s.atime := rfl
@[simp] theorem State.putWarp_upset (s : State) (k : Nat) (w : Warp) : (s.putWarp k w).upset = s.upset := rfl
@[simp] theorem State.putWarp_nextId (s : State) (k : Nat) (w : Warp) : (s.putWarp k w).nextId = s.nextId := rfl
@[simp] theorem State.putWarp_draws (s : State) (k : Nat) (w : Warp) : (s.putWarp k w).draws = s.draws := rfl
@[simp] theorem State.putWarp_cores (s : State) (k : Nat) (w : Warp) : (s.putWarp k w).cores = s.cores := rfl
@[simp] theorem State.putWarp_blocks (s : State) (k : Nat) (w : Warp) : (s.putWarp k w).blocks = s.blocks := rfl
@[simp] theorem State.putWarp_launches (s : State) (k : Nat) (w : Warp) : (s.putWarp k w).launches = s.launches := rfl
@[simp] theorem State.putWarp_bars (s : State) (k : Nat) (w : Warp) : (s.putWarp k w).bars = s.bars := rfl
@[simp] theorem State.putWarp_ops (s : State) (k : Nat) (w : Warp) : (s.putWarp k w).ops = s.ops := rfl
@[simp] theorem State.putWarp_cmds (s : State) (k : Nat) (w : Warp) : (s.putWarp k w).cmds = s.cmds := rfl
@[simp] theorem State.putWarp_haltCmds (s : State) (k : Nat) (w : Warp) : (s.putWarp k w).haltCmds = s.haltCmds := rfl
@[simp] theorem State.putWarp_vers (s : State) (k : Nat) (w : Warp) : (s.putWarp k w).vers = s.vers := rfl
@[simp] theorem State.putWarp_nextAge (s : State) (k : Nat) (w : Warp) : (s.putWarp k w).nextAge = s.nextAge := rfl
@[simp] theorem State.putWarp_readyNow (s : State) (k : Nat) (w : Warp) : (s.putWarp k w).readyNow = s.readyNow := rfl
@[simp] theorem State.putWarp_spad (s : State) (k : Nat) (w : Warp) : (s.putWarp k w).spad = s.spad := rfl
@[simp] theorem State.putWarp_spadMark (s : State) (k : Nat) (w : Warp) : (s.putWarp k w).spadMark = s.spadMark := rfl
@[simp] theorem State.putWarp_l1 (s : State) (k : Nat) (w : Warp) : (s.putWarp k w).l1 = s.l1 := rfl
@[simp] theorem State.putWarp_l2 (s : State) (k : Nat) (w : Warp) : (s.putWarp k w).l2 = s.l2 := rfl
@[simp] theorem State.putWarp_dir (s : State) (k : Nat) (w : Warp) : (s.putWarp k w).dir = s.dir := rfl
@[simp] theorem State.putWarp_mem (s : State) (k : Nat) (w : Warp) : (s.putWarp k w).mem = s.mem := rfl
@[simp] theorem State.putWarp_memMark (s : State) (k : Nat) (w : Warp) : (s.putWarp k w).memMark = s.memMark := rfl
@[simp] theorem State.putWarp_memKey (s : State) (k : Nat) (w : Warp) : (s.putWarp k w).memKey = s.memKey := rfl
@[simp] theorem State.putWarp_links (s : State) (k : Nat) (w : Warp) : (s.putWarp k w).links = s.links := rfl
@[simp] theorem State.putWarp_pins (s : State) (k : Nat) (w : Warp) : (s.putWarp k w).pins = s.pins := rfl
@[simp] theorem State.putWarp_ctxs (s : State) (k : Nat) (w : Warp) : (s.putWarp k w).ctxs = s.ctxs := rfl
@[simp] theorem State.putWarp_shadow (s : State) (k : Nat) (w : Warp) : (s.putWarp k w).shadow = s.shadow := rfl
@[simp] theorem State.putWarp_sent (s : State) (k : Nat) (w : Warp) : (s.putWarp k w).sent = s.sent := rfl
@[simp] theorem State.putWarp_errCnt (s : State) (k : Nat) (w : Warp) : (s.putWarp k w).errCnt = s.errCnt := rfl
@[simp] theorem State.putWarp_flows (s : State) (k : Nat) (w : Warp) : (s.putWarp k w).flows = s.flows := rfl
@[simp] theorem State.putWarp_prt (s : State) (k : Nat) (w : Warp) : (s.putWarp k w).prt = s.prt := rfl
@[simp] theorem State.putWarp_plive (s : State) (k : Nat) (w : Warp) : (s.putWarp k w).plive = s.plive := rfl
@[simp] theorem State.putWarp_keys (s : State) (k : Nat) (w : Warp) : (s.putWarp k w).keys = s.keys := rfl
@[simp] theorem State.putWarp_prefs (s : State) (k : Nat) (w : Warp) : (s.putWarp k w).prefs = s.prefs := rfl
@[simp] theorem State.putWarp_peerReqs (s : State) (k : Nat) (w : Warp) : (s.putWarp k w).peerReqs = s.peerReqs := rfl
@[simp] theorem State.putWarp_homeWaits (s : State) (k : Nat) (w : Warp) : (s.putWarp k w).homeWaits = s.homeWaits := rfl
@[simp] theorem State.putWarp_peerFail (s : State) (k : Nat) (w : Warp) : (s.putWarp k w).peerFail = s.peerFail := rfl
@[simp] theorem State.putWarp_watches (s : State) (k : Nat) (w : Warp) : (s.putWarp k w).watches = s.watches := rfl
@[simp] theorem State.putWarp_harp (s : State) (k : Nat) (w : Warp) : (s.putWarp k w).harp = s.harp := rfl
@[simp] theorem State.putWarp_lyre (s : State) (k : Nat) (w : Warp) : (s.putWarp k w).lyre = s.lyre := rfl
@[simp] theorem State.putWarp_zith (s : State) (k : Nat) (w : Warp) : (s.putWarp k w).zith = s.zith := rfl
@[simp] theorem State.putWarp_leng (s : State) (k : Nat) (w : Warp) : (s.putWarp k w).leng = s.leng := rfl
@[simp] theorem State.putWarp_smp (s : State) (k : Nat) (w : Warp) : (s.putWarp k w).smp = s.smp := rfl
@[simp] theorem State.putWarp_mgmt (s : State) (k : Nat) (w : Warp) : (s.putWarp k w).mgmt = s.mgmt := rfl

/-! ## The other fields after a core's update -/

@[simp] theorem State.putCore_did (s : State) (k : Nat) (c : Core) : (s.putCore k c).did = s.did := rfl
@[simp] theorem State.putCore_agenda (s : State) (k : Nat) (c : Core) : (s.putCore k c).agenda = s.agenda := rfl
@[simp] theorem State.putCore_outbox (s : State) (k : Nat) (c : Core) : (s.putCore k c).outbox = s.outbox := rfl
@[simp] theorem State.putCore_numbered (s : State) (k : Nat) (c : Core) : (s.putCore k c).numbered = s.numbered := rfl
@[simp] theorem State.putCore_atime (s : State) (k : Nat) (c : Core) : (s.putCore k c).atime = s.atime := rfl
@[simp] theorem State.putCore_upset (s : State) (k : Nat) (c : Core) : (s.putCore k c).upset = s.upset := rfl
@[simp] theorem State.putCore_nextId (s : State) (k : Nat) (c : Core) : (s.putCore k c).nextId = s.nextId := rfl
@[simp] theorem State.putCore_draws (s : State) (k : Nat) (c : Core) : (s.putCore k c).draws = s.draws := rfl
@[simp] theorem State.putCore_warps (s : State) (k : Nat) (c : Core) : (s.putCore k c).warps = s.warps := rfl
@[simp] theorem State.putCore_blocks (s : State) (k : Nat) (c : Core) : (s.putCore k c).blocks = s.blocks := rfl
@[simp] theorem State.putCore_launches (s : State) (k : Nat) (c : Core) : (s.putCore k c).launches = s.launches := rfl
@[simp] theorem State.putCore_bars (s : State) (k : Nat) (c : Core) : (s.putCore k c).bars = s.bars := rfl
@[simp] theorem State.putCore_ops (s : State) (k : Nat) (c : Core) : (s.putCore k c).ops = s.ops := rfl
@[simp] theorem State.putCore_cmds (s : State) (k : Nat) (c : Core) : (s.putCore k c).cmds = s.cmds := rfl
@[simp] theorem State.putCore_haltCmds (s : State) (k : Nat) (c : Core) : (s.putCore k c).haltCmds = s.haltCmds := rfl
@[simp] theorem State.putCore_vers (s : State) (k : Nat) (c : Core) : (s.putCore k c).vers = s.vers := rfl
@[simp] theorem State.putCore_nextAge (s : State) (k : Nat) (c : Core) : (s.putCore k c).nextAge = s.nextAge := rfl
@[simp] theorem State.putCore_readyNow (s : State) (k : Nat) (c : Core) : (s.putCore k c).readyNow = s.readyNow := rfl
@[simp] theorem State.putCore_spad (s : State) (k : Nat) (c : Core) : (s.putCore k c).spad = s.spad := rfl
@[simp] theorem State.putCore_spadMark (s : State) (k : Nat) (c : Core) : (s.putCore k c).spadMark = s.spadMark := rfl
@[simp] theorem State.putCore_l1 (s : State) (k : Nat) (c : Core) : (s.putCore k c).l1 = s.l1 := rfl
@[simp] theorem State.putCore_l2 (s : State) (k : Nat) (c : Core) : (s.putCore k c).l2 = s.l2 := rfl
@[simp] theorem State.putCore_dir (s : State) (k : Nat) (c : Core) : (s.putCore k c).dir = s.dir := rfl
@[simp] theorem State.putCore_memMark (s : State) (k : Nat) (c : Core) : (s.putCore k c).memMark = s.memMark := rfl
@[simp] theorem State.putCore_memKey (s : State) (k : Nat) (c : Core) : (s.putCore k c).memKey = s.memKey := rfl
@[simp] theorem State.putCore_links (s : State) (k : Nat) (c : Core) : (s.putCore k c).links = s.links := rfl
@[simp] theorem State.putCore_pins (s : State) (k : Nat) (c : Core) : (s.putCore k c).pins = s.pins := rfl
@[simp] theorem State.putCore_ctxs (s : State) (k : Nat) (c : Core) : (s.putCore k c).ctxs = s.ctxs := rfl
@[simp] theorem State.putCore_shadow (s : State) (k : Nat) (c : Core) : (s.putCore k c).shadow = s.shadow := rfl
@[simp] theorem State.putCore_sent (s : State) (k : Nat) (c : Core) : (s.putCore k c).sent = s.sent := rfl
@[simp] theorem State.putCore_errCnt (s : State) (k : Nat) (c : Core) : (s.putCore k c).errCnt = s.errCnt := rfl
@[simp] theorem State.putCore_flows (s : State) (k : Nat) (c : Core) : (s.putCore k c).flows = s.flows := rfl
@[simp] theorem State.putCore_prt (s : State) (k : Nat) (c : Core) : (s.putCore k c).prt = s.prt := rfl
@[simp] theorem State.putCore_plive (s : State) (k : Nat) (c : Core) : (s.putCore k c).plive = s.plive := rfl
@[simp] theorem State.putCore_keys (s : State) (k : Nat) (c : Core) : (s.putCore k c).keys = s.keys := rfl
@[simp] theorem State.putCore_prefs (s : State) (k : Nat) (c : Core) : (s.putCore k c).prefs = s.prefs := rfl
@[simp] theorem State.putCore_peerReqs (s : State) (k : Nat) (c : Core) : (s.putCore k c).peerReqs = s.peerReqs := rfl
@[simp] theorem State.putCore_homeWaits (s : State) (k : Nat) (c : Core) : (s.putCore k c).homeWaits = s.homeWaits := rfl
@[simp] theorem State.putCore_peerFail (s : State) (k : Nat) (c : Core) : (s.putCore k c).peerFail = s.peerFail := rfl
@[simp] theorem State.putCore_watches (s : State) (k : Nat) (c : Core) : (s.putCore k c).watches = s.watches := rfl
@[simp] theorem State.putCore_harp (s : State) (k : Nat) (c : Core) : (s.putCore k c).harp = s.harp := rfl
@[simp] theorem State.putCore_lyre (s : State) (k : Nat) (c : Core) : (s.putCore k c).lyre = s.lyre := rfl
@[simp] theorem State.putCore_zith (s : State) (k : Nat) (c : Core) : (s.putCore k c).zith = s.zith := rfl
@[simp] theorem State.putCore_leng (s : State) (k : Nat) (c : Core) : (s.putCore k c).leng = s.leng := rfl
@[simp] theorem State.putCore_mgmt (s : State) (k : Nat) (c : Core) : (s.putCore k c).mgmt = s.mgmt := rfl

/-! ## The other fields after a context's update -/

@[simp] theorem State.putCtx_did (s : State) (k : Nat) (c : Ctx) : (s.putCtx k c).did = s.did := rfl
@[simp] theorem State.putCtx_cur (s : State) (k : Nat) (c : Ctx) : (s.putCtx k c).cur = s.cur := rfl
@[simp] theorem State.putCtx_agenda (s : State) (k : Nat) (c : Ctx) : (s.putCtx k c).agenda = s.agenda := rfl
@[simp] theorem State.putCtx_outbox (s : State) (k : Nat) (c : Ctx) : (s.putCtx k c).outbox = s.outbox := rfl
@[simp] theorem State.putCtx_numbered (s : State) (k : Nat) (c : Ctx) : (s.putCtx k c).numbered = s.numbered := rfl
@[simp] theorem State.putCtx_clk (s : State) (k : Nat) (c : Ctx) : (s.putCtx k c).clk = s.clk := rfl
@[simp] theorem State.putCtx_atime (s : State) (k : Nat) (c : Ctx) : (s.putCtx k c).atime = s.atime := rfl
@[simp] theorem State.putCtx_upset (s : State) (k : Nat) (c : Ctx) : (s.putCtx k c).upset = s.upset := rfl
@[simp] theorem State.putCtx_nextId (s : State) (k : Nat) (c : Ctx) : (s.putCtx k c).nextId = s.nextId := rfl
@[simp] theorem State.putCtx_draws (s : State) (k : Nat) (c : Ctx) : (s.putCtx k c).draws = s.draws := rfl
@[simp] theorem State.putCtx_warps (s : State) (k : Nat) (c : Ctx) : (s.putCtx k c).warps = s.warps := rfl
@[simp] theorem State.putCtx_cores (s : State) (k : Nat) (c : Ctx) : (s.putCtx k c).cores = s.cores := rfl
@[simp] theorem State.putCtx_blocks (s : State) (k : Nat) (c : Ctx) : (s.putCtx k c).blocks = s.blocks := rfl
@[simp] theorem State.putCtx_launches (s : State) (k : Nat) (c : Ctx) : (s.putCtx k c).launches = s.launches := rfl
@[simp] theorem State.putCtx_bars (s : State) (k : Nat) (c : Ctx) : (s.putCtx k c).bars = s.bars := rfl
@[simp] theorem State.putCtx_ops (s : State) (k : Nat) (c : Ctx) : (s.putCtx k c).ops = s.ops := rfl
@[simp] theorem State.putCtx_cmds (s : State) (k : Nat) (c : Ctx) : (s.putCtx k c).cmds = s.cmds := rfl
@[simp] theorem State.putCtx_haltCmds (s : State) (k : Nat) (c : Ctx) : (s.putCtx k c).haltCmds = s.haltCmds := rfl
@[simp] theorem State.putCtx_vers (s : State) (k : Nat) (c : Ctx) : (s.putCtx k c).vers = s.vers := rfl
@[simp] theorem State.putCtx_nextAge (s : State) (k : Nat) (c : Ctx) : (s.putCtx k c).nextAge = s.nextAge := rfl
@[simp] theorem State.putCtx_readyNow (s : State) (k : Nat) (c : Ctx) : (s.putCtx k c).readyNow = s.readyNow := rfl
@[simp] theorem State.putCtx_spad (s : State) (k : Nat) (c : Ctx) : (s.putCtx k c).spad = s.spad := rfl
@[simp] theorem State.putCtx_spadMark (s : State) (k : Nat) (c : Ctx) : (s.putCtx k c).spadMark = s.spadMark := rfl
@[simp] theorem State.putCtx_l1 (s : State) (k : Nat) (c : Ctx) : (s.putCtx k c).l1 = s.l1 := rfl
@[simp] theorem State.putCtx_l2 (s : State) (k : Nat) (c : Ctx) : (s.putCtx k c).l2 = s.l2 := rfl
@[simp] theorem State.putCtx_dir (s : State) (k : Nat) (c : Ctx) : (s.putCtx k c).dir = s.dir := rfl
@[simp] theorem State.putCtx_memMark (s : State) (k : Nat) (c : Ctx) : (s.putCtx k c).memMark = s.memMark := rfl
@[simp] theorem State.putCtx_memKey (s : State) (k : Nat) (c : Ctx) : (s.putCtx k c).memKey = s.memKey := rfl
@[simp] theorem State.putCtx_links (s : State) (k : Nat) (c : Ctx) : (s.putCtx k c).links = s.links := rfl
@[simp] theorem State.putCtx_pins (s : State) (k : Nat) (c : Ctx) : (s.putCtx k c).pins = s.pins := rfl
@[simp] theorem State.putCtx_shadow (s : State) (k : Nat) (c : Ctx) : (s.putCtx k c).shadow = s.shadow := rfl
@[simp] theorem State.putCtx_sent (s : State) (k : Nat) (c : Ctx) : (s.putCtx k c).sent = s.sent := rfl
@[simp] theorem State.putCtx_errCnt (s : State) (k : Nat) (c : Ctx) : (s.putCtx k c).errCnt = s.errCnt := rfl
@[simp] theorem State.putCtx_flows (s : State) (k : Nat) (c : Ctx) : (s.putCtx k c).flows = s.flows := rfl
@[simp] theorem State.putCtx_prt (s : State) (k : Nat) (c : Ctx) : (s.putCtx k c).prt = s.prt := rfl
@[simp] theorem State.putCtx_plive (s : State) (k : Nat) (c : Ctx) : (s.putCtx k c).plive = s.plive := rfl
@[simp] theorem State.putCtx_keys (s : State) (k : Nat) (c : Ctx) : (s.putCtx k c).keys = s.keys := rfl
@[simp] theorem State.putCtx_prefs (s : State) (k : Nat) (c : Ctx) : (s.putCtx k c).prefs = s.prefs := rfl
@[simp] theorem State.putCtx_peerReqs (s : State) (k : Nat) (c : Ctx) : (s.putCtx k c).peerReqs = s.peerReqs := rfl
@[simp] theorem State.putCtx_homeWaits (s : State) (k : Nat) (c : Ctx) : (s.putCtx k c).homeWaits = s.homeWaits := rfl
@[simp] theorem State.putCtx_peerFail (s : State) (k : Nat) (c : Ctx) : (s.putCtx k c).peerFail = s.peerFail := rfl
@[simp] theorem State.putCtx_watches (s : State) (k : Nat) (c : Ctx) : (s.putCtx k c).watches = s.watches := rfl
@[simp] theorem State.putCtx_harp (s : State) (k : Nat) (c : Ctx) : (s.putCtx k c).harp = s.harp := rfl
@[simp] theorem State.putCtx_lyre (s : State) (k : Nat) (c : Ctx) : (s.putCtx k c).lyre = s.lyre := rfl
@[simp] theorem State.putCtx_zith (s : State) (k : Nat) (c : Ctx) : (s.putCtx k c).zith = s.zith := rfl
@[simp] theorem State.putCtx_leng (s : State) (k : Nat) (c : Ctx) : (s.putCtx k c).leng = s.leng := rfl
@[simp] theorem State.putCtx_smp (s : State) (k : Nat) (c : Ctx) : (s.putCtx k c).smp = s.smp := rfl
@[simp] theorem State.putCtx_mgmt (s : State) (k : Nat) (c : Ctx) : (s.putCtx k c).mgmt = s.mgmt := rfl

/-! ## The other fields after a launch's update -/

@[simp] theorem State.putLaunch_did (s : State) (k : Nat) (l : Launch) : (s.putLaunch k l).did = s.did := rfl
@[simp] theorem State.putLaunch_cur (s : State) (k : Nat) (l : Launch) : (s.putLaunch k l).cur = s.cur := rfl
@[simp] theorem State.putLaunch_agenda (s : State) (k : Nat) (l : Launch) : (s.putLaunch k l).agenda = s.agenda := rfl
@[simp] theorem State.putLaunch_outbox (s : State) (k : Nat) (l : Launch) : (s.putLaunch k l).outbox = s.outbox := rfl
@[simp] theorem State.putLaunch_numbered (s : State) (k : Nat) (l : Launch) : (s.putLaunch k l).numbered = s.numbered := rfl
@[simp] theorem State.putLaunch_clk (s : State) (k : Nat) (l : Launch) : (s.putLaunch k l).clk = s.clk := rfl
@[simp] theorem State.putLaunch_atime (s : State) (k : Nat) (l : Launch) : (s.putLaunch k l).atime = s.atime := rfl
@[simp] theorem State.putLaunch_upset (s : State) (k : Nat) (l : Launch) : (s.putLaunch k l).upset = s.upset := rfl
@[simp] theorem State.putLaunch_nextId (s : State) (k : Nat) (l : Launch) : (s.putLaunch k l).nextId = s.nextId := rfl
@[simp] theorem State.putLaunch_draws (s : State) (k : Nat) (l : Launch) : (s.putLaunch k l).draws = s.draws := rfl
@[simp] theorem State.putLaunch_warps (s : State) (k : Nat) (l : Launch) : (s.putLaunch k l).warps = s.warps := rfl
@[simp] theorem State.putLaunch_cores (s : State) (k : Nat) (l : Launch) : (s.putLaunch k l).cores = s.cores := rfl
@[simp] theorem State.putLaunch_blocks (s : State) (k : Nat) (l : Launch) : (s.putLaunch k l).blocks = s.blocks := rfl
@[simp] theorem State.putLaunch_bars (s : State) (k : Nat) (l : Launch) : (s.putLaunch k l).bars = s.bars := rfl
@[simp] theorem State.putLaunch_ops (s : State) (k : Nat) (l : Launch) : (s.putLaunch k l).ops = s.ops := rfl
@[simp] theorem State.putLaunch_cmds (s : State) (k : Nat) (l : Launch) : (s.putLaunch k l).cmds = s.cmds := rfl
@[simp] theorem State.putLaunch_haltCmds (s : State) (k : Nat) (l : Launch) : (s.putLaunch k l).haltCmds = s.haltCmds := rfl
@[simp] theorem State.putLaunch_vers (s : State) (k : Nat) (l : Launch) : (s.putLaunch k l).vers = s.vers := rfl
@[simp] theorem State.putLaunch_nextAge (s : State) (k : Nat) (l : Launch) : (s.putLaunch k l).nextAge = s.nextAge := rfl
@[simp] theorem State.putLaunch_readyNow (s : State) (k : Nat) (l : Launch) : (s.putLaunch k l).readyNow = s.readyNow := rfl
@[simp] theorem State.putLaunch_spad (s : State) (k : Nat) (l : Launch) : (s.putLaunch k l).spad = s.spad := rfl
@[simp] theorem State.putLaunch_spadMark (s : State) (k : Nat) (l : Launch) : (s.putLaunch k l).spadMark = s.spadMark := rfl
@[simp] theorem State.putLaunch_l1 (s : State) (k : Nat) (l : Launch) : (s.putLaunch k l).l1 = s.l1 := rfl
@[simp] theorem State.putLaunch_l2 (s : State) (k : Nat) (l : Launch) : (s.putLaunch k l).l2 = s.l2 := rfl
@[simp] theorem State.putLaunch_dir (s : State) (k : Nat) (l : Launch) : (s.putLaunch k l).dir = s.dir := rfl
@[simp] theorem State.putLaunch_memMark (s : State) (k : Nat) (l : Launch) : (s.putLaunch k l).memMark = s.memMark := rfl
@[simp] theorem State.putLaunch_memKey (s : State) (k : Nat) (l : Launch) : (s.putLaunch k l).memKey = s.memKey := rfl
@[simp] theorem State.putLaunch_links (s : State) (k : Nat) (l : Launch) : (s.putLaunch k l).links = s.links := rfl
@[simp] theorem State.putLaunch_pins (s : State) (k : Nat) (l : Launch) : (s.putLaunch k l).pins = s.pins := rfl
@[simp] theorem State.putLaunch_ctxs (s : State) (k : Nat) (l : Launch) : (s.putLaunch k l).ctxs = s.ctxs := rfl
@[simp] theorem State.putLaunch_shadow (s : State) (k : Nat) (l : Launch) : (s.putLaunch k l).shadow = s.shadow := rfl
@[simp] theorem State.putLaunch_sent (s : State) (k : Nat) (l : Launch) : (s.putLaunch k l).sent = s.sent := rfl
@[simp] theorem State.putLaunch_errCnt (s : State) (k : Nat) (l : Launch) : (s.putLaunch k l).errCnt = s.errCnt := rfl
@[simp] theorem State.putLaunch_flows (s : State) (k : Nat) (l : Launch) : (s.putLaunch k l).flows = s.flows := rfl
@[simp] theorem State.putLaunch_prt (s : State) (k : Nat) (l : Launch) : (s.putLaunch k l).prt = s.prt := rfl
@[simp] theorem State.putLaunch_plive (s : State) (k : Nat) (l : Launch) : (s.putLaunch k l).plive = s.plive := rfl
@[simp] theorem State.putLaunch_keys (s : State) (k : Nat) (l : Launch) : (s.putLaunch k l).keys = s.keys := rfl
@[simp] theorem State.putLaunch_prefs (s : State) (k : Nat) (l : Launch) : (s.putLaunch k l).prefs = s.prefs := rfl
@[simp] theorem State.putLaunch_peerReqs (s : State) (k : Nat) (l : Launch) : (s.putLaunch k l).peerReqs = s.peerReqs := rfl
@[simp] theorem State.putLaunch_homeWaits (s : State) (k : Nat) (l : Launch) : (s.putLaunch k l).homeWaits = s.homeWaits := rfl
@[simp] theorem State.putLaunch_peerFail (s : State) (k : Nat) (l : Launch) : (s.putLaunch k l).peerFail = s.peerFail := rfl
@[simp] theorem State.putLaunch_watches (s : State) (k : Nat) (l : Launch) : (s.putLaunch k l).watches = s.watches := rfl
@[simp] theorem State.putLaunch_harp (s : State) (k : Nat) (l : Launch) : (s.putLaunch k l).harp = s.harp := rfl
@[simp] theorem State.putLaunch_lyre (s : State) (k : Nat) (l : Launch) : (s.putLaunch k l).lyre = s.lyre := rfl
@[simp] theorem State.putLaunch_zith (s : State) (k : Nat) (l : Launch) : (s.putLaunch k l).zith = s.zith := rfl
@[simp] theorem State.putLaunch_leng (s : State) (k : Nat) (l : Launch) : (s.putLaunch k l).leng = s.leng := rfl
@[simp] theorem State.putLaunch_smp (s : State) (k : Nat) (l : Launch) : (s.putLaunch k l).smp = s.smp := rfl
@[simp] theorem State.putLaunch_mgmt (s : State) (k : Nat) (l : Launch) : (s.putLaunch k l).mgmt = s.mgmt := rfl

/-! ## The other fields after a block's update -/

@[simp] theorem State.putBlock_did (s : State) (k : Nat) (b : Block) : (s.putBlock k b).did = s.did := rfl
@[simp] theorem State.putBlock_cur (s : State) (k : Nat) (b : Block) : (s.putBlock k b).cur = s.cur := rfl
@[simp] theorem State.putBlock_agenda (s : State) (k : Nat) (b : Block) : (s.putBlock k b).agenda = s.agenda := rfl
@[simp] theorem State.putBlock_outbox (s : State) (k : Nat) (b : Block) : (s.putBlock k b).outbox = s.outbox := rfl
@[simp] theorem State.putBlock_numbered (s : State) (k : Nat) (b : Block) : (s.putBlock k b).numbered = s.numbered := rfl
@[simp] theorem State.putBlock_clk (s : State) (k : Nat) (b : Block) : (s.putBlock k b).clk = s.clk := rfl
@[simp] theorem State.putBlock_atime (s : State) (k : Nat) (b : Block) : (s.putBlock k b).atime = s.atime := rfl
@[simp] theorem State.putBlock_upset (s : State) (k : Nat) (b : Block) : (s.putBlock k b).upset = s.upset := rfl
@[simp] theorem State.putBlock_nextId (s : State) (k : Nat) (b : Block) : (s.putBlock k b).nextId = s.nextId := rfl
@[simp] theorem State.putBlock_draws (s : State) (k : Nat) (b : Block) : (s.putBlock k b).draws = s.draws := rfl
@[simp] theorem State.putBlock_warps (s : State) (k : Nat) (b : Block) : (s.putBlock k b).warps = s.warps := rfl
@[simp] theorem State.putBlock_cores (s : State) (k : Nat) (b : Block) : (s.putBlock k b).cores = s.cores := rfl
@[simp] theorem State.putBlock_launches (s : State) (k : Nat) (b : Block) : (s.putBlock k b).launches = s.launches := rfl
@[simp] theorem State.putBlock_bars (s : State) (k : Nat) (b : Block) : (s.putBlock k b).bars = s.bars := rfl
@[simp] theorem State.putBlock_ops (s : State) (k : Nat) (b : Block) : (s.putBlock k b).ops = s.ops := rfl
@[simp] theorem State.putBlock_cmds (s : State) (k : Nat) (b : Block) : (s.putBlock k b).cmds = s.cmds := rfl
@[simp] theorem State.putBlock_haltCmds (s : State) (k : Nat) (b : Block) : (s.putBlock k b).haltCmds = s.haltCmds := rfl
@[simp] theorem State.putBlock_vers (s : State) (k : Nat) (b : Block) : (s.putBlock k b).vers = s.vers := rfl
@[simp] theorem State.putBlock_nextAge (s : State) (k : Nat) (b : Block) : (s.putBlock k b).nextAge = s.nextAge := rfl
@[simp] theorem State.putBlock_readyNow (s : State) (k : Nat) (b : Block) : (s.putBlock k b).readyNow = s.readyNow := rfl
@[simp] theorem State.putBlock_spad (s : State) (k : Nat) (b : Block) : (s.putBlock k b).spad = s.spad := rfl
@[simp] theorem State.putBlock_spadMark (s : State) (k : Nat) (b : Block) : (s.putBlock k b).spadMark = s.spadMark := rfl
@[simp] theorem State.putBlock_l1 (s : State) (k : Nat) (b : Block) : (s.putBlock k b).l1 = s.l1 := rfl
@[simp] theorem State.putBlock_l2 (s : State) (k : Nat) (b : Block) : (s.putBlock k b).l2 = s.l2 := rfl
@[simp] theorem State.putBlock_dir (s : State) (k : Nat) (b : Block) : (s.putBlock k b).dir = s.dir := rfl
@[simp] theorem State.putBlock_memMark (s : State) (k : Nat) (b : Block) : (s.putBlock k b).memMark = s.memMark := rfl
@[simp] theorem State.putBlock_memKey (s : State) (k : Nat) (b : Block) : (s.putBlock k b).memKey = s.memKey := rfl
@[simp] theorem State.putBlock_links (s : State) (k : Nat) (b : Block) : (s.putBlock k b).links = s.links := rfl
@[simp] theorem State.putBlock_pins (s : State) (k : Nat) (b : Block) : (s.putBlock k b).pins = s.pins := rfl
@[simp] theorem State.putBlock_ctxs (s : State) (k : Nat) (b : Block) : (s.putBlock k b).ctxs = s.ctxs := rfl
@[simp] theorem State.putBlock_shadow (s : State) (k : Nat) (b : Block) : (s.putBlock k b).shadow = s.shadow := rfl
@[simp] theorem State.putBlock_sent (s : State) (k : Nat) (b : Block) : (s.putBlock k b).sent = s.sent := rfl
@[simp] theorem State.putBlock_errCnt (s : State) (k : Nat) (b : Block) : (s.putBlock k b).errCnt = s.errCnt := rfl
@[simp] theorem State.putBlock_flows (s : State) (k : Nat) (b : Block) : (s.putBlock k b).flows = s.flows := rfl
@[simp] theorem State.putBlock_prt (s : State) (k : Nat) (b : Block) : (s.putBlock k b).prt = s.prt := rfl
@[simp] theorem State.putBlock_plive (s : State) (k : Nat) (b : Block) : (s.putBlock k b).plive = s.plive := rfl
@[simp] theorem State.putBlock_keys (s : State) (k : Nat) (b : Block) : (s.putBlock k b).keys = s.keys := rfl
@[simp] theorem State.putBlock_prefs (s : State) (k : Nat) (b : Block) : (s.putBlock k b).prefs = s.prefs := rfl
@[simp] theorem State.putBlock_peerReqs (s : State) (k : Nat) (b : Block) : (s.putBlock k b).peerReqs = s.peerReqs := rfl
@[simp] theorem State.putBlock_homeWaits (s : State) (k : Nat) (b : Block) : (s.putBlock k b).homeWaits = s.homeWaits := rfl
@[simp] theorem State.putBlock_peerFail (s : State) (k : Nat) (b : Block) : (s.putBlock k b).peerFail = s.peerFail := rfl
@[simp] theorem State.putBlock_watches (s : State) (k : Nat) (b : Block) : (s.putBlock k b).watches = s.watches := rfl
@[simp] theorem State.putBlock_harp (s : State) (k : Nat) (b : Block) : (s.putBlock k b).harp = s.harp := rfl
@[simp] theorem State.putBlock_lyre (s : State) (k : Nat) (b : Block) : (s.putBlock k b).lyre = s.lyre := rfl
@[simp] theorem State.putBlock_zith (s : State) (k : Nat) (b : Block) : (s.putBlock k b).zith = s.zith := rfl
@[simp] theorem State.putBlock_leng (s : State) (k : Nat) (b : Block) : (s.putBlock k b).leng = s.leng := rfl
@[simp] theorem State.putBlock_smp (s : State) (k : Nat) (b : Block) : (s.putBlock k b).smp = s.smp := rfl
@[simp] theorem State.putBlock_mgmt (s : State) (k : Nat) (b : Block) : (s.putBlock k b).mgmt = s.mgmt := rfl

end Sys2Proof.Machine
end

