-- ==== Sys2Proof/Laws/Issue.lean ====
section
/-! SUPPORT. The issue of an instruction: when its own effect is reached, and what the issue itself changes. -/

namespace Sys2Proof.Machine

/-! ## What an issue counts -/

theorem State.count_w (s : State) (n : Nat) : (s.count n).w = s.w := rfl

theorem State.countCtx_eq (s : State) (c n : Nat) : s.countCtx c n = { s with smp := { s.smp with cnt := (s.countCtx c n).smp.cnt } } := by
  unfold State.countCtx; split <;> rfl

theorem State.countCtx_w (s : State) (c n : Nat) : (s.countCtx c n).w = s.w := by rw [State.countCtx_eq]; rfl

theorem State.countIssue_eq (s : State) (i : Instr) :
    s.countIssue i = { s with smp := { s.smp with cnt := (s.countIssue i).smp.cnt } } := by
  unfold State.countIssue
  have h := State.countCtx_eq ((s.count 2).count (0x200 + s.cid)) s.w.ctx 0x100
  simp only []
  split
  · rw [h]; rfl
  · rw [h]; rfl

/-- The tracer's interval runs down: nothing of a core changes but that, and what is tagged. -/
theorem State.tagIssue_eq (s : State) (i : Instr) : s.tagIssue i = { s with cores := (s.tagIssue i).cores } := by
  unfold State.tagIssue
  simp only []
  split <;> rfl

theorem State.tagIssue_core (s : State) (i : Instr) (c : Nat) :
    (s.tagIssue i).core c = { s.core c with tagLeft := ((s.tagIssue i).core c).tagLeft, tagged := ((s.tagIssue i).core c).tagged } := by
  unfold State.tagIssue
  simp only []
  split
  · rfl
  · rw [State.core_putCore]; split
    · rename_i h; subst h; rfl
    · rfl
  · rw [State.core_putCore]; split
    · rename_i h; subst h; rfl
    · rfl

/-- An issue slot taken: nothing of a core changes but its slots. -/
theorem State.takeSlot_eq (s : State) (op : Nat) : s.takeSlot op = { s with cores := (s.takeSlot op).cores } := by
  unfold State.takeSlot
  simp only []
  split <;> rfl

theorem State.takeSlot_core (s : State) (op c : Nat) :
    (s.takeSlot op).core c = { s.core c with slots := ((s.takeSlot op).core c).slots } := by
  unfold State.takeSlot
  simp only []
  split
  · rw [State.core_putCore]; split
    · rename_i h; subst h; rfl
    · rfl
  · rfl

theorem Kept.cur {s t : State} (h : Kept s t) : t.cur = s.cur := by rw [h.rest]
theorem Kept.clk {s t : State} (h : Kept s t) : t.clk = s.clk := by rw [h.rest]
theorem Kept.mem {s t : State} (h : Kept s t) : t.mem = s.mem := by rw [h.rest]

theorem State.issued_w (s : State) (i : Instr) : (s.issued i).w = s.w.noted s.clk := by
  unfold State.issued
  simp only [State.w_setW]
  rw [State.countIssue_eq, State.tagIssue_eq, State.takeSlot_eq]
  rfl

theorem Kept.refl (s : State) : Kept s s := ⟨fun _ _ => rfl, fun _ => rfl, rfl⟩

theorem Kept.of_rest {s t : State} {w : FMap Warp} {c : FMap Core} {n : FMap Nat}
    (h : t = { s with warps := w, cores := c, smp := { s.smp with cnt := n } }) :
    t = { s with warps := t.warps, cores := t.cores, smp := { s.smp with cnt := t.smp.cnt } } := by subst h; rfl

theorem Kept.trans {s t u : State} (h : Kept s t) (g : Kept t u) : Kept s u := by
  refine ⟨fun k hk => ?_, fun c => ?_, ?_⟩
  · rw [g.others k (by rw [h.cur]; exact hk), h.others k hk]
  · have e := h.cores c
    have e' := g.cores c
    generalize u.core c = x at *
    generalize t.core c = y at *
    generalize s.core c = z at *
    rw [e']
    rw [e]
  · obtain ⟨w, c, n, e⟩ : ∃ w c n, t = { s with warps := w, cores := c, smp := { s.smp with cnt := n } } := ⟨_, _, _, h.rest⟩
    obtain ⟨w', c', n', e'⟩ : ∃ w c n, u = { t with warps := w, cores := c, smp := { t.smp with cnt := n } } := ⟨_, _, _, g.rest⟩
    subst e
    exact Kept.of_rest (s := s) e'

theorem State.takeSlot_kept (s : State) (op : Nat) : Kept s (s.takeSlot op) := by
  refine ⟨fun k _ => by rw [State.takeSlot_eq]; rfl, fun c => ?_, Kept.of_rest (State.takeSlot_eq s op)⟩
  have e := State.takeSlot_core s op c
  generalize (s.takeSlot op).core c = x at *
  rw [e]

theorem State.tagIssue_kept (s : State) (i : Instr) : Kept s (s.tagIssue i) := by
  refine ⟨fun k _ => by rw [State.tagIssue_eq]; rfl, fun c => ?_, Kept.of_rest (State.tagIssue_eq s i)⟩
  have e := State.tagIssue_core s i c
  generalize (s.tagIssue i).core c = x at *
  rw [e]

theorem State.countCtx_kept (s : State) (c n : Nat) : Kept s (s.countCtx c n) :=
  ⟨fun k _ => by rw [State.countCtx_eq]; rfl, fun c => by rw [State.countCtx_eq]; rfl, Kept.of_rest (State.countCtx_eq s c n)⟩

theorem State.countIssue_kept (s : State) (i : Instr) : Kept s (s.countIssue i) :=
  ⟨fun k _ => by rw [State.countIssue_eq]; rfl, fun c => by rw [State.countIssue_eq]; rfl, Kept.of_rest (State.countIssue_eq s i)⟩

theorem Kept.setW {s t : State} (h : Kept s t) (w : Warp) : Kept s (t.setW w) := by
  refine ⟨fun k hk => ?_, fun c => h.cores c, ?_⟩
  · rw [State.warp_setW, if_neg (by rw [h.cur]; exact hk)]
    exact h.others k hk
  · show ({ t with warps := (t.setW w).warps } : State) = _
    generalize (t.setW w).warps = m
    conv => lhs; rw [h.rest]
    rfl

/-- An issue changes nothing but its warp's bookkeeping, its core's slots, the tracer's count and the sampler's counters. -/
theorem State.issued_kept (s : State) (i : Instr) : Kept s (s.issued i) :=
  (((s.takeSlot_kept _).trans (State.tagIssue_kept _ i)).trans (State.countIssue_kept _ i)).setW _

/-! ## The effect reached -/

/-- An instruction before which nothing comes, and whose own checks find nothing, has its effect. -/
theorem issue_runs {i : Instr} {s : State} (h : Runs i s) (c : Checks) (eff : State → State) (hr : c.ready = true)
    (he : c.early = none) (hw : (s.w.skipWp = true ∧ s.w.skipPc = s.w.pc) ∨ c.watch = none) (hl : c.late = none) :
    issue i s c eff = .next (eff (s.issued i)) := by
  obtain ⟨h1, h2, h3⟩ := h
  unfold issue
  simp only [h1]
  have hhalt : (s.w.haltReq && !s.w.inh && (none : Option TrapInfo).isNone) = false := by rw [h2]; rfl
  have hwatch : (if (s.w.skipWp && decide (s.w.skipPc = s.w.pc)) = true then none else c.watch) = none := by
    rcases hw with hw | hw
    · rw [if_pos (by simp [hw.1, hw.2])]
    · rw [hw]; split <;> rfl
  simp only [hhalt, hr, he, hl, hwatch, h3, Bool.false_eq_true, if_false, Bool.not_true, ne_eq, not_true_eq_false]

/-- An instruction whose check traps takes that trap at its own address. -/
theorem issue_early {i : Instr} {s : State} (h1 : checkInstr s.env (i.words == 2) false i = .ok i) (c : Checks)
    (eff : State → State) (t : TrapInfo) (hr : c.ready = true) (he : c.early = some t) :
    issue i s c eff = .next (s.trapNow t s.w.pc) := by
  unfold issue
  simp [h1, he, hr]

theorem warpWide_runs {i : Instr} {s : State} (h : Runs i s) (pr : Pred) (ops : List (Opnd × Nat)) (cause : BitVec 8)
    (c : Checks) (eff : State → State)
    (hp : firstPoison s [s.consumes 3 [(.p (pr.reg.setWidth 8), 1)] s.w.exm, s.consumes cause ops (s.w.holds pr)] = (none, s))
    (h0 : s.w.holds pr ≠ 0) (hr : c.ready = true) (he : c.early = none)
    (hw : (s.w.skipWp = true ∧ s.w.skipPc = s.w.pc) ∨ c.watch = none)
    (hl : c.late = none) : warpWide i pr ops cause s c eff = .next (eff (s.issued i)) := by
  unfold warpWide
  simp only [hp, h0, if_false]
  exact issue_runs h c eff hr he hw hl

/-- With no participating lane a warp-wide instruction does nothing but go on (R160). -/
theorem warpWide_idle {i : Instr} {s : State} (h : Runs i s) (pr : Pred) (ops : List (Opnd × Nat)) (cause : BitVec 8)
    (c : Checks) (eff : State → State)
    (hp : firstPoison s [s.consumes 3 [(.p (pr.reg.setWidth 8), 1)] s.w.exm, s.consumes cause ops (s.w.holds pr)] = (none, s))
    (h0 : s.w.holds pr = 0) : warpWide i pr ops cause s c eff = .next ((s.issued i).advance 1) := by
  unfold warpWide
  simp only [hp]
  rw [if_pos h0]
  exact issue_runs h {} _ rfl rfl (Or.inr rfl) rfl

theorem tryless_closed {i : Instr} {s : State} {pr : Pred} {x : Host.Outcome State Fault Refusal} (h : s.w.tryOpen = false) :
    tryless i pr s x = x := by
  unfold tryless; simp [h]

/-! ## Computing instructions -/

theorem Warp.deliver_eq (w : Warp) (o : Origin) (a : Word) :
    w.deliver o a = { w with origin := (w.deliver o a).origin, originA := (w.deliver o a).originA
                             ucSticky := (w.deliver o a).ucSticky } := by
  unfold Warp.deliver; split <;> rfl

theorem State.readPending_kept {s t : State} (h : Kept s t) (src : List (Opnd × Nat)) (m : W32) : Kept s (t.readPending src m) := by
  unfold State.readPending
  simp only []
  split
  · exact (h.setW _).trans (State.countCtx_kept _ _ _)
  · exact h

theorem State.readPending_w (s : State) (src : List (Opnd × Nat)) (m : W32) :
    (s.readPending src m).w = { s.w with origin := (s.readPending src m).w.origin, originA := (s.readPending src m).w.originA
                                         ucSticky := (s.readPending src m).w.ucSticky } := by
  unfold State.readPending
  simp only []
  split
  · rw [State.countCtx_w, State.w_setW]
    exact Warp.deliver_eq _ _ _
  · rfl

/-- What a computation may have changed of a warp by the time it reads its operands: the origin record and the bookkeeping. -/
def Warp.as (w : Warp) (clk : Nat) (o : Origin) (a : Word) (u : Bool) : Warp :=
  { w.noted clk with origin := o, originA := a, ucSticky := u }

theorem LaneResult.of_as {w u : Warp} {clk : Nat} {o : Origin} {a : Word} {b : Bool} {pr : Pred} {n : Nat} {d : Opnd}
    {ext : Nat → Nat} {f : Nat → Res} (h : LaneResult (w.as clk o a b) u pr n d ext f) : LaneResult w u pr n d ext f :=
  ⟨h.toV, h.toS, h.toP, h.flags⟩

/-- A computing instruction reaches its result. -/
theorem aluFrom_runs {i : Instr} {s : State} (pr : Pred) (d : Opnd) (n : Nat) (hn : n = 1 ∨ n = 2) (srcs : List (Opnd × Nat))
    (rd : W32) (ext : Nat → Nat) (f : Warp → Nat → Res) (h : Runs i s) (hf : FreeFor i s pr d n) :
    ∃ t o a b, aluFrom i pr d n srcs rd ext f s = .next (t.advance i.words) ∧ Kept s t ∧ SameWarp s t ∧
      LaneResult s.w t.w pr n d ext (f (s.w.as s.clk o a b)) := by
  have hk := State.readPending_kept (State.issued_kept s i) (srcs.filter fun e => names i e.1) rd
  have hw := State.readPending_w (s.issued i) (srcs.filter fun e => names i e.1) rd
  rw [State.issued_w] at hw
  generalize hu : (s.issued i).readPending (srcs.filter fun e => names i e.1) rd = u at hk hw
  refine ⟨u.setW (u.w.result pr (32 * n) d ext (f u.w)), u.w.origin, u.w.originA, u.w.ucSticky, ?_, hk.setW _, ?_, ?_⟩
  · unfold aluFrom
    rw [issue_runs h _ _ _ rfl (Or.inr rfl) rfl, hu]
    rcases hf with hf | hf
    · simp only [Warp.writers] at hf; simp [hf]
    · simp only [Warp.writers] at hf; simp [hf]
  · unfold SameWarp
    rw [State.w_setW, Warp.result_frame]
    rw [hw]
  · rw [State.w_setW]
    have e : u.w = s.w.as s.clk u.w.origin u.w.originA u.w.ucSticky := hw
    have r := Warp.result_is u.w pr n hn d ext (f u.w)
    conv at r => arg 1; rw [e]
    conv at r => arg 7; rw [e]
    exact r.of_as

end Sys2Proof.Machine
end

