-- ==== Sys2Proof/Laws/Memory.lean ====
section
/-! SUPPORT. The laws of memory: each operation that writes it keeps its canonical form, and a byte written reads back. Memory
is written in three places only, `putDdrSector`, `putLinkByte` and `copyBytes`; everything else goes through these. -/

namespace Sys2Proof.Machine

/-- Memory of a state in its canonical form. -/
abbrev State.memWf (s : State) : Prop := Memory.wf s.mem = true

theorem reset_memWf : State.reset.memWf := rfl

/-! ## The three writers -/

theorem State.putDdrSector_memWf {s : State} (h : s.memWf) (key q : Nat) (x : Sector) : (s.putDdrSector key q x).memWf :=
  mapWf_putRun unlisted h _ _

/-- A byte written by a link is written where no mark covers it (R438): by the mark of the sector as its holder has it. -/
theorem State.putLinkByte_mem (s : State) (a : Nat) (b : Byte) :
    (s.putLinkByte a b).mem = s.mem ∨ (s.putLinkByte a b).mem = put unlisted s.mem a b := by
  unfold State.putLinkByte
  split
  · split
    · exact .inr rfl
    · exact .inl rfl
  · split
    · exact .inr rfl
    · exact .inl rfl

theorem State.putLinkByte_memWf {s : State} (h : s.memWf) (a : Nat) (b : Byte) : (s.putLinkByte a b).memWf := by
  unfold State.memWf
  rcases s.putLinkByte_mem a b with e | e <;> rw [e]
  · exact h
  · exact mapWf_put unlisted h _ _

theorem moveRun_wf [DecidableEq α] (d : α) {src dst : FMap α} (hs : mapWf d src = true) (hd : mapWf d dst = true)
    (lo n at_ : Nat) : mapWf d (moveRun src lo n dst at_) = true :=
  mapWf_foldIns d _ (fun e => e.1 - lo + at_) (fun _ he => mapWf_ne d hs (List.mem_filter.mp he).1) (mapWf_cut d hd _ _)

/-- A copy keeps memory and scratchpads in their form. -/
theorem State.copyBytes_memWf {s : State} (h : s.memWf) (hp : mapWf 0 s.spad = true) (a : Store) (n : Nat) (b : Store) :
    (s.copyBytes a n b).memWf ∧ mapWf 0 (s.copyBytes a n b).spad = true := by
  cases a <;> cases b
  · exact ⟨moveRun_wf unlisted h h _ _ _, hp⟩
  · exact ⟨h, moveRun_wf 0 h hp _ _ _⟩
  · exact ⟨moveRun_wf unlisted hp h _ _ _, hp⟩
  · exact ⟨h, moveRun_wf 0 hp hp _ _ _⟩

/-! ## What a write leaves -/

/-- A byte written by a link changes no other address, and where it lands it reads back. -/
theorem State.look_putLinkByte (s : State) (a : Nat) (b : Byte) (j : Nat) :
    look unlisted (s.putLinkByte a b).mem j = look unlisted s.mem j ∨
      j = a ∧ look unlisted (s.putLinkByte a b).mem j = b := by
  rcases s.putLinkByte_mem a b with e | e <;> rw [e]
  · exact .inl rfl
  · rw [look_put]
    split
    · exact .inr ⟨‹_›, rfl⟩
    · exact .inl rfl

/-! ## Operations over them -/

theorem memWf_fold {β : Type} (f : State → β → State) (hf : ∀ t x, t.memWf → (f t x).memWf) (xs : List β) {s : State}
    (h : s.memWf) : (xs.foldl f s).memWf := by
  induction xs generalizing s with
  | nil => exact h
  | cons x xs ih => exact ih (hf s x h)

theorem State.putLinkWord_memWf {s : State} (h : s.memWf) (a : Nat) (w : Word) : (s.putLinkWord a w).memWf :=
  memWf_fold _ (fun _ _ h => State.putLinkByte_memWf h _ _) _ h

theorem State.markChunk_memWf {s : State} (h : s.memWf) (ia : Nat) : (s.markChunk ia).memWf :=
  State.putLinkByte_memWf h _ _

theorem State.writeBackL2_memWf {s : State} (h : s.memWf) (k : Nat) : (s.writeBackL2 k).memWf := by
  simp only [State.writeBackL2]
  split
  · exact h
  · split
    · refine State.markChunk_memWf ?_ _
      exact memWf_fold _ (fun t q ht => by split; exact State.putDdrSector_memWf ht _ _ _; exact ht) _ h
    · exact h
    · exact h

theorem State.dropL2_memWf {s : State} (h : s.memWf) (k : Nat) : (s.dropL2 k).memWf := by
  simp only [State.dropL2]
  split
  · exact State.writeBackL2_memWf h k
  · split
    · exact h
    · split <;> exact h
    · exact h
  · exact h

/-- Making room in a set keeps memory in its form. -/
theorem State.fitL2_memWf (n : Nat) {s : State} (h : s.memWf) (k : Nat) : (State.fitL2 n s k).memWf := by
  induction n generalizing s with
  | zero => exact h
  | succ n ih =>
    unfold State.fitL2
    split
    · exact h
    · split
      · exact State.dropL2_memWf h k
      · exact ih (State.dropL2_memWf (s := { s with draws := s.draws + 1 }) h _)

theorem State.putL2_memWf {s : State} (h : s.memWf) (k : Nat) (l : L2Line) : (s.putL2 k l).memWf := by
  unfold State.putL2
  exact State.fitL2_memWf _ (s := { s with l2 := put {} s.l2 k { l with lock := s.locks k l } }) h k

theorem State.fillL2_memWf {s : State} (h : s.memWf) (p : Spot) (b : Bool) : (s.fillL2 p b).memWf := by
  simp only [State.fillL2]
  split
  · exact h
  · split
    · exact State.putL2_memWf h _ _
    · exact h

theorem State.putHomeSector_memWf {s : State} (h : s.memWf) (p : Spot) (q : Nat) (x : Sector) :
    (s.putHomeSector p q x).memWf := by
  simp only [State.putHomeSector]
  split
  · exact State.putL2_memWf h _ _
  · exact State.markChunk_memWf (State.putDdrSector_memWf h _ _ _) _

theorem State.putReadySector_memWf {s : State} (h : s.memWf) (r : Ready) (q : Nat) (x : Sector) :
    (s.putReadySector r q x).memWf := by
  cases r with
  | spot p => exact State.putHomeSector_memWf h p q x
  | held line _ _ => exact State.putL2_memWf h _ _
  | _ => exact h

theorem State.invalidateSharers_memWf {s : State} (h : s.memWf) (line : Nat) : (s.invalidateSharers line).memWf := by
  simp only [State.invalidateSharers]
  split <;> exact h

theorem State.soleReady_memWf {s : State} (h : s.memWf) (r : Ready) : (s.soleReady r).memWf := by
  cases r <;> first | exact State.invalidateSharers_memWf h _ | exact h

theorem State.doneReady_memWf {s : State} (h : s.memWf) (r : Ready) : (s.doneReady r).memWf := by
  cases r with
  | held line l2 l1 =>
    simp only [State.doneReady]
    split
    · exact State.dropL2_memWf h _
    · exact h
  | _ => exact h

theorem State.fillReady_memWf {s : State} (h : s.memWf) (r : Ready) : (s.fillReady r).memWf := by
  cases r <;> first | exact State.fillL2_memWf h _ _ | exact h

theorem State.conflictFor_memWf {s : State} (h : s.memWf) (who : Nat → Bool) (q : Nat) : (s.conflictFor who q).memWf :=
  memWf_fold _ (fun t e ht => by
    simp only []
    split
    · split <;> exact ht
    · exact ht) _ h

theorem State.notifyWrite_memWf {s : State} (h : s.memWf) (lo hi : Nat) : (s.notifyWrite lo hi).memWf := by
  simp only [State.notifyWrite]
  split
  · exact h
  · refine memWf_fold _ ?_ _ ?_
    · intro t x ht
      exact ht
    · exact h

/-- Every write of an agent to a line that is ready keeps memory in its form. -/
theorem State.writeFor_memWf {s : State} (h : s.memWf) (who : Nat → Bool) (r : Ready) (ia : Nat) (ws : List (Nat × Byte)) :
    (s.writeFor who r ia ws).memWf :=
  State.doneReady_memWf (State.notifyWrite_memWf (State.conflictFor_memWf
    (memWf_fold _ (fun _ _ ht => State.putReadySector_memWf ht _ _ _) _
      (State.soleReady_memWf (State.fillReady_memWf h r) r)) ..) ..) r

end Sys2Proof.Machine
end

