-- ==== Sys2Proof/Laws/PerInstr.lean ====
section
/-! SUPPORT. Decoding gives back every well-formed instruction that was encoded, in a warp against which all its fields
pass: one lemma for each constructor, over two lemmas for the checks. -/

set_option Elab.async false

namespace Sys2Proof.Laws.RoundTrip

/-- The bytes of an instruction decode to it, as the last word of its block where it must be that. -/
def Statement (i : Instr) : Prop :=
  WellFormed i = true → decode (openEnv (lastOnly i).isSome) ((encode i).flatMap fun w => toBytes 8 w.toNat) = .ok i

/-! ## The checks -/

/-- The registers that a use names are of a class and in groups that 256 registers hold. -/
def small : Use → Bool
  | .v k n => decide (k < 256) && (decide (n = 1) || decide (n = 2) || decide (n = 4))
  | .acc k n => decide (k + n ≤ 7936)
  | _ => true

theorem small_inRange (u : Use) (last : Bool) (hs : small u = true) (ha : u.aligned = true) :
    u.inRange (openEnv last) = true := by
  cases u with
  | v k n =>
    simp only [small, Bool.and_eq_true, Bool.or_eq_true, decide_eq_true_eq] at hs
    have h1 : k % n = 0 := of_decide_eq_true ha
    have h2 : k + n ≤ 256 := by obtain ⟨hk, (rfl | rfl) | rfl⟩ := hs <;> omega
    exact Bool.and_eq_true _ _ ▸ ⟨decide_eq_true h1, decide_eq_true h2⟩
  | vRange k n => exact ha
  | s k n => exact ha
  | acc k n =>
    have h1 : k + n ≤ 7936 := of_decide_eq_true hs
    have h2 : k + n + 256 ≤ 8192 := by omega
    exact decide_eq_true h2

theorem useR_small (n : Nat) (h : n = 1 ∨ n = 2 ∨ n = 4) (x : Opnd) : (useR n x).all small = true := by
  cases x with
  | v k => have := k.isLt; simp [useR, small, h, this, or_assoc]
  | _ => rfl

theorem useBase_small (n : Nat) (h : n = 1 ∨ n = 2 ∨ n = 4) (o : OpM) : (useBase n o).all small = true := by
  have := o.a.isLt
  unfold useBase
  split <;> simp [small, h, this, or_assoc]

theorem useO_small (d a b c : Nat) (hd : d = 1 ∨ d = 2 ∨ d = 4) (ha : a = 1 ∨ a = 2 ∨ a = 4) (hb : b = 1 ∨ b = 2 ∨ b = 4)
    (hc : c = 1 ∨ c = 2 ∨ c = 4) (o : OpO) : (useO d a b c o).all small = true := by
  simp [useO, List.all_append, useR_small d hd, useR_small a ha, useR_small b hb, useR_small c hc, -List.all_eq_true]

theorem useAcc_small (n : Nat) (h : n ≤ 256) (x : Opnd) : (useAcc n x).all small = true := by
  cases x with
  | l k => have := k.isLt; simp [useAcc, small]; omega
  | _ => rfl

theorem regsT_small (m : BitVec 6) : regsT m = 1 ∨ regsT m = 2 ∨ regsT m = 4 := by unfold regsT; split <;> simp
theorem regsD_small (b : Bool) : regsD b = 1 ∨ regsD b = 2 ∨ regsD b = 4 := by unfold regsD; split <;> simp
theorem regsF_small (n : Nat) : regsF n = 1 ∨ regsF n = 2 ∨ regsF n = 4 := by unfold regsF; split <;> simp
theorem regsW_small (w : Width) : w.regs = 1 ∨ w.regs = 2 ∨ w.regs = 4 := by cases w <;> simp [Width.regs]
theorem ite_small (p : Prop) [Decidable p] : (if p then 2 else 1) = 1 ∨ (if p then 2 else 1) = 2 ∨ (if p then 2 else 1) = 4 := by
  split <;> simp
theorem one_small : 1 = 1 ∨ 1 = 2 ∨ 1 = 4 := Or.inl rfl
theorem two_small : 2 = 1 ∨ 2 = 2 ∨ 2 = 4 := Or.inr (Or.inl rfl)

theorem tileRows_le (s a : Nat) : tileRows s a ≤ 256 := by unfold tileRows; split <;> split <;> split <;> simp
theorem litRows_le (x : Opnd) : litRows x ≤ 256 := by
  cases x with
  | l k => have := k.isLt; simp [litRows]; omega
  | _ => simp [litRows]

/-- The uses of every instruction are small. -/
theorem uses_small (i : Instr) : (uses i).all small = true := by
  cases i <;>
    first
    | rfl
    | exact useO_small _ _ _ _ (by first | exact regsT_small _ | exact regsD_small _ | exact regsF_small _ | exact one_small | exact two_small | exact ite_small _)
        (by first | exact regsT_small _ | exact regsD_small _ | exact regsF_small _ | exact one_small | exact two_small | exact ite_small _)
        (by first | exact regsT_small _ | exact regsD_small _ | exact regsF_small _ | exact one_small | exact two_small | exact ite_small _)
        (by first | exact regsT_small _ | exact regsD_small _ | exact regsF_small _ | exact one_small | exact two_small | exact ite_small _) _
    | exact useR_small _ (by first | exact regsT_small _ | exact one_small) _
    | exact useBase_small _ (by first | exact one_small | exact two_small) _
    | exact useAcc_small _ (by first | exact tileRows_le _ _ | exact litRows_le _) _
    | (simp only [uses, List.all_append, Bool.and_eq_true]
       exact ⟨useR_small _ (by first | exact regsW_small _ | exact one_small) _,
         (by first | exact useBase_small _ (by first | exact one_small | exact two_small) _ | exact useR_small _ one_small _)⟩)
    | (simp only [uses, List.all_append, Bool.and_eq_true]; exact ⟨useAcc_small _ (litRows_le _) _, rfl⟩)
    | (simp only [uses]; split <;> rfl)

theorem bits53_lt (m : BitVec 6) : bits m.toNat 5 3 < 8 := by simp [bits]; omega

theorem doms_zero (k : Nat) (h : k < 8) : nth 9 [0, 0, 0, 0, 0, 0, 0, 0] k = 0 := by
  match k, h with
  | 0, _ => rfl | 1, _ => rfl | 2, _ => rfl | 3, _ => rfl | 4, _ => rfl | 5, _ => rfl | 6, _ => rfl | 7, _ => rfl

theorem barLevel_open (last : Bool) (m : BitVec 6) (h : 1 ≤ bits m.toNat 5 3) :
    levelOk.barLevel (openEnv last) m = true := by
  simp [levelOk.barLevel, openEnv, h, bits53_lt m, doms_zero _ (bits53_lt m)]

theorem levelOk_open (last : Bool) (i : Instr) (h : fieldsOk i = true) : levelOk (openEnv last) i = true := by
  cases i <;> first
    | rfl
    | (simp only [fieldsOk, Bool.and_eq_true, decide_eq_true_eq] at h
       exact barLevel_open last _ h.2)
    | exact decide_eq_true (bits53_lt _)

theorem privOk_open (last : Bool) (i : Instr) : privOk (openEnv last) i = true := by
  cases i <;> first | rfl | simp [privOk, openEnv]

theorem wf_parts {i : Instr} (h : WellFormed i = true) :
    fnOk i = true ∧ fieldsOk i = true ∧ (uses i).all Use.aligned = true ∧ typesOk i = true := by
  simp only [WellFormed, Bool.and_eq_true] at h
  exact ⟨h.1.1.1.2, h.1.1.2, h.1.2, h.2⟩

/-- A well-formed instruction passes every check of an open warp, at the end of its block where it must stand there. -/
theorem check_open {i : Instr} (h : WellFormed i = true) (isL fNonzero : Bool) (hL : isL = true → lastOnly i = none)
    (hF : isL = true → fNonzero = false) : checkInstr (openEnv (lastOnly i).isSome) isL fNonzero i = .ok i := by
  obtain ⟨hf, hd, hu, ht⟩ := wf_parts h
  have hr : (uses i).all (Use.inRange (openEnv (lastOnly i).isSome)) = true := by
    rw [List.all_eq_true] at hu ⊢
    exact fun u m => small_inRange u _ (List.all_eq_true.mp (uses_small i) u m) (hu u m)
  have hl : (isL && (openEnv (lastOnly i).isSome).last) = false := by
    cases isL with
    | false => rfl
    | true => simp [openEnv, hL rfl]
  have hn : (isL && fNonzero) = false := by
    cases isL with
    | false => rfl
    | true => simp [hF rfl]
  simp only [checkInstr, hf, privOk_open, hd, levelOk_open _ i hd, hr, ht, hl, hn]
  cases e : lastOnly i <;> simp [openEnv]

/-! ## The words -/

theorem of_parse {i : Instr} {w : Word} {rest : List Byte} (hw : WellFormed i = true)
    (he : (encode i).flatMap (fun x => toBytes 8 x.toNat) = toBytes 8 w.toNat ++ rest)
    (h1 : (w.extractLsb' 56 8).toNat < 0xF0) (h2 : opAssigned (w.extractLsb' 56 8).toNat = true)
    (hp : parse w (BitVec.ofNat 64 (ofBytes (rest.take 8))) = some i)
    (hL : (w.extractLsb' 56 8).toNat = 0x0A → lastOnly i = none ∧ w.extractLsb' 14 6 = 0) :
    decode (openEnv (lastOnly i).isSome) ((encode i).flatMap fun x => toBytes 8 x.toNat) = .ok i := by
  rw [he, decode_bytes]
  simp only [decodeWord, h2, hp]
  rw [if_neg (by omega)]
  simp only [Bool.not_true, Bool.false_eq_true, if_false]
  apply check_open hw
  · intro h; exact (hL (by simpa using h)).1
  · intro h; simp [(hL (by simpa using h)).2]

theorem ofO {i : Instr} {op : BitVec 8} {f : BitVec 6} {o : OpO} (he : encode i = [wordO op f o])
    (h1 : op.toNat < 0xF0 ∧ op.toNat ≠ 0x0A ∧ opAssigned op.toNat = true) (hp : parse (wordO op f o) 0 = some i) : Statement i := by
  intro hw
  refine of_parse (w := wordO op f o) (rest := []) hw (by simp [he]) ?_ ?_ hp ?_ <;> rw [wordO_op]
  · exact h1.1
  · exact h1.2.2
  · exact fun h => absurd h h1.2.1

theorem ofI {i : Instr} {op : BitVec 8} {o : OpI} (he : encode i = [wordI op o])
    (h1 : op.toNat < 0xF0 ∧ op.toNat ≠ 0x0A ∧ opAssigned op.toNat = true) (hp : parse (wordI op o) 0 = some i) : Statement i := by
  intro hw
  refine of_parse (w := wordI op o) (rest := []) hw (by simp [he]) ?_ ?_ hp ?_ <;> rw [wordI_op]
  · exact h1.1
  · exact h1.2.2
  · exact fun h => absurd h h1.2.1

theorem ofM {i : Instr} {op : BitVec 8} {f : BitVec 6} {o : OpM} (he : encode i = [wordM op f o])
    (h1 : op.toNat < 0xF0 ∧ op.toNat ≠ 0x0A ∧ opAssigned op.toNat = true) (hp : parse (wordM op f o) 0 = some i) : Statement i := by
  intro hw
  refine of_parse (w := wordM op f o) (rest := []) hw (by simp [he]) ?_ ?_ hp ?_ <;> rw [wordM_op]
  · exact h1.1
  · exact h1.2.2
  · exact fun h => absurd h h1.2.1

/-- Bit 0 of a word of format O is bit 0 of its modifiers. -/
theorem wordO_bit0 (op : BitVec 8) (f : BitVec 6) (o : OpO) : bit (wordO op f o).toNat 0 = bit o.m.toNat 0 := by
  have h := congrArg BitVec.toNat (wordO_m op f o)
  simp only [BitVec.extractLsb'_toNat, Nat.shiftRight_zero] at h
  simp only [bit, Nat.shiftRight_zero, ← h]
  rw [Nat.mod_mod_of_dvd _ (by decide)]

theorem event {i : Instr} (h : i.isEvent = true) : Statement i := by
  intro hw
  simp [WellFormed, h] at hw

theorem nibble15 (x : BitVec 4) (h : x ≠ 15) : x = 0 ∨ x = 1 ∨ x = 2 ∨ x = 3 ∨ x = 4 ∨ x = 5 ∨ x = 6 ∨ x = 7 ∨ x = 8 ∨
    x = 9 ∨ x = 10 ∨ x = 11 ∨ x = 12 ∨ x = 13 ∨ x = 14 := by revert x; decide

/-! ## One lemma for each constructor -/

theorem iaddI (o : OpI) : Statement (.iaddI o) := by
  refine ofI rfl (by decide) ?_
  rw [parse, wordI_op]
  exact congrArg (fun x => some (Instr.iaddI x)) (opI_wordI _ _)
theorem movI (o : OpI) : Statement (.movI o) := by
  refine ofI rfl (by decide) ?_
  rw [parse, wordI_op]
  exact congrArg (fun x => some (Instr.movI x)) (opI_wordI _ _)
theorem andI (o : OpI) : Statement (.andI o) := by
  refine ofI rfl (by decide) ?_
  rw [parse, wordI_op]
  exact congrArg (fun x => some (Instr.andI x)) (opI_wordI _ _)
theorem orI (o : OpI) : Statement (.orI o) := by
  refine ofI rfl (by decide) ?_
  rw [parse, wordI_op]
  exact congrArg (fun x => some (Instr.orI x)) (opI_wordI _ _)
theorem xorI (o : OpI) : Statement (.xorI o) := by
  refine ofI rfl (by decide) ?_
  rw [parse, wordI_op]
  exact congrArg (fun x => some (Instr.xorI x)) (opI_wordI _ _)
theorem imulI (o : OpI) : Statement (.imulI o) := by
  refine ofI rfl (by decide) ?_
  rw [parse, wordI_op]
  exact congrArg (fun x => some (Instr.imulI x)) (opI_wordI _ _)
theorem movl (o : OpO) (lit : Word) : Statement (.movl o lit) := by
  intro hw
  refine of_parse (w := wordO 0x0A 0 o) (rest := toBytes 8 lit.toNat) hw (by simp [encode]) ?_ ?_ ?_ ?_
  · rw [wordO_op]; decide
  · rw [wordO_op]; decide
  · rw [List.take_of_length_le (by simp [toBytes_length]), word_ofBytes_toBytes, parse, wordO_op, wordO_f]
    exact congrArg (fun x => some (Instr.movl x lit)) (opO_wordO _ _ _)
  · intro _; exact ⟨rfl, wordO_f _ _ _⟩
theorem iadd (o : OpO) : Statement (.iadd o) := by
  refine ofO rfl (by decide) ?_
  rw [parse, wordO_op, wordO_f]
  exact congrArg (fun x => some (Instr.iadd x)) (opO_wordO _ _ _)
theorem isub (o : OpO) : Statement (.isub o) := by
  refine ofO rfl (by decide) ?_
  rw [parse, wordO_op, wordO_f]
  exact congrArg (fun x => some (Instr.isub x)) (opO_wordO _ _ _)
theorem iaddc (o : OpO) : Statement (.iaddc o) := by
  refine ofO rfl (by decide) ?_
  rw [parse, wordO_op, wordO_f]
  exact congrArg (fun x => some (Instr.iaddc x)) (opO_wordO _ _ _)
theorem imul (o : OpO) : Statement (.imul o) := by
  refine ofO rfl (by decide) ?_
  rw [parse, wordO_op, wordO_f]
  exact congrArg (fun x => some (Instr.imul x)) (opO_wordO _ _ _)
theorem imulh (o : OpO) : Statement (.imulh o) := by
  refine ofO rfl (by decide) ?_
  rw [parse, wordO_op, wordO_f]
  exact congrArg (fun x => some (Instr.imulh x)) (opO_wordO _ _ _)
theorem imad (o : OpO) : Statement (.imad o) := by
  refine ofO rfl (by decide) ?_
  rw [parse, wordO_op, wordO_f]
  exact congrArg (fun x => some (Instr.imad x)) (opO_wordO _ _ _)
theorem idiv (o : OpO) : Statement (.idiv o) := by
  refine ofO rfl (by decide) ?_
  rw [parse, wordO_op, wordO_f]
  exact congrArg (fun x => some (Instr.idiv x)) (opO_wordO _ _ _)
theorem irem (o : OpO) : Statement (.irem o) := by
  refine ofO rfl (by decide) ?_
  rw [parse, wordO_op, wordO_f]
  exact congrArg (fun x => some (Instr.irem x)) (opO_wordO _ _ _)
theorem imin (o : OpO) : Statement (.imin o) := by
  refine ofO rfl (by decide) ?_
  rw [parse, wordO_op, wordO_f]
  exact congrArg (fun x => some (Instr.imin x)) (opO_wordO _ _ _)
theorem imax (o : OpO) : Statement (.imax o) := by
  refine ofO rfl (by decide) ?_
  rw [parse, wordO_op, wordO_f]
  exact congrArg (fun x => some (Instr.imax x)) (opO_wordO _ _ _)
theorem iabs (o : OpO) : Statement (.iabs o) := by
  refine ofO rfl (by decide) ?_
  rw [parse, wordO_op, wordO_f]
  exact congrArg (fun x => some (Instr.iabs x)) (opO_wordO _ _ _)
theorem ineg (o : OpO) : Statement (.ineg o) := by
  refine ofO rfl (by decide) ?_
  rw [parse, wordO_op, wordO_f]
  exact congrArg (fun x => some (Instr.ineg x)) (opO_wordO _ _ _)
theorem idot4 (o : OpO) : Statement (.idot4 o) := by
  refine ofO rfl (by decide) ?_
  rw [parse, wordO_op, wordO_f]
  exact congrArg (fun x => some (Instr.idot4 x)) (opO_wordO _ _ _)
theorem sad (o : OpO) : Statement (.sad o) := by
  refine ofO rfl (by decide) ?_
  rw [parse, wordO_op, wordO_f]
  exact congrArg (fun x => some (Instr.sad x)) (opO_wordO _ _ _)
theorem andB (o : OpO) : Statement (.andB o) := by
  refine ofO rfl (by decide) ?_
  rw [parse, wordO_op, wordO_f]
  exact congrArg (fun x => some (Instr.andB x)) (opO_wordO _ _ _)
theorem orB (o : OpO) : Statement (.orB o) := by
  refine ofO rfl (by decide) ?_
  rw [parse, wordO_op, wordO_f]
  exact congrArg (fun x => some (Instr.orB x)) (opO_wordO _ _ _)
theorem xorB (o : OpO) : Statement (.xorB o) := by
  refine ofO rfl (by decide) ?_
  rw [parse, wordO_op, wordO_f]
  exact congrArg (fun x => some (Instr.xorB x)) (opO_wordO _ _ _)
theorem andnB (o : OpO) : Statement (.andnB o) := by
  refine ofO rfl (by decide) ?_
  rw [parse, wordO_op, wordO_f]
  exact congrArg (fun x => some (Instr.andnB x)) (opO_wordO _ _ _)
theorem notB (o : OpO) : Statement (.notB o) := by
  refine ofO rfl (by decide) ?_
  rw [parse, wordO_op, wordO_f]
  exact congrArg (fun x => some (Instr.notB x)) (opO_wordO _ _ _)
theorem shl (o : OpO) : Statement (.shl o) := by
  refine ofO rfl (by decide) ?_
  rw [parse, wordO_op, wordO_f]
  exact congrArg (fun x => some (Instr.shl x)) (opO_wordO _ _ _)
theorem shr (o : OpO) : Statement (.shr o) := by
  refine ofO rfl (by decide) ?_
  rw [parse, wordO_op, wordO_f]
  exact congrArg (fun x => some (Instr.shr x)) (opO_wordO _ _ _)
theorem sar (o : OpO) : Statement (.sar o) := by
  refine ofO rfl (by decide) ?_
  rw [parse, wordO_op, wordO_f]
  exact congrArg (fun x => some (Instr.sar x)) (opO_wordO _ _ _)
theorem rotl (o : OpO) : Statement (.rotl o) := by
  refine ofO rfl (by decide) ?_
  rw [parse, wordO_op, wordO_f]
  exact congrArg (fun x => some (Instr.rotl x)) (opO_wordO _ _ _)
theorem fshl (o : OpO) : Statement (.fshl o) := by
  refine ofO rfl (by decide) ?_
  rw [parse, wordO_op, wordO_f]
  exact congrArg (fun x => some (Instr.fshl x)) (opO_wordO _ _ _)
theorem popc (o : OpO) : Statement (.popc o) := by
  refine ofO rfl (by decide) ?_
  rw [parse, wordO_op, wordO_f]
  exact congrArg (fun x => some (Instr.popc x)) (opO_wordO _ _ _)
theorem clz (o : OpO) : Statement (.clz o) := by
  refine ofO rfl (by decide) ?_
  rw [parse, wordO_op, wordO_f]
  exact congrArg (fun x => some (Instr.clz x)) (opO_wordO _ _ _)
theorem ctz (o : OpO) : Statement (.ctz o) := by
  refine ofO rfl (by decide) ?_
  rw [parse, wordO_op, wordO_f]
  exact congrArg (fun x => some (Instr.ctz x)) (opO_wordO _ _ _)
theorem brev (o : OpO) : Statement (.brev o) := by
  refine ofO rfl (by decide) ?_
  rw [parse, wordO_op, wordO_f]
  exact congrArg (fun x => some (Instr.brev x)) (opO_wordO _ _ _)
theorem bfx (o : OpO) : Statement (.bfx o) := by
  refine ofO rfl (by decide) ?_
  rw [parse, wordO_op, wordO_f]
  exact congrArg (fun x => some (Instr.bfx x)) (opO_wordO _ _ _)
theorem bfi (o : OpO) : Statement (.bfi o) := by
  refine ofO rfl (by decide) ?_
  rw [parse, wordO_op, wordO_f]
  exact congrArg (fun x => some (Instr.bfi x)) (opO_wordO _ _ _)
theorem prmt (o : OpO) : Statement (.prmt o) := by
  refine ofO rfl (by decide) ?_
  rw [parse, wordO_op, wordO_f]
  exact congrArg (fun x => some (Instr.prmt x)) (opO_wordO _ _ _)
theorem icmp (o : OpO) : Statement (.icmp o) := by
  refine ofO rfl (by decide) ?_
  rw [parse, wordO_op, wordO_f]
  exact congrArg (fun x => some (Instr.icmp x)) (opO_wordO _ _ _)
theorem isel (o : OpO) : Statement (.isel o) := by
  refine ofO rfl (by decide) ?_
  rw [parse, wordO_op, wordO_f]
  exact congrArg (fun x => some (Instr.isel x)) (opO_wordO _ _ _)
theorem pset (o : OpO) : Statement (.pset o) := by
  refine ofO rfl (by decide) ?_
  rw [parse, wordO_op, wordO_f]
  exact congrArg (fun x => some (Instr.pset x)) (opO_wordO _ _ _)
theorem mov (o : OpO) : Statement (.mov o) := by
  refine ofO rfl (by decide) ?_
  rw [parse, wordO_op, wordO_f]
  exact congrArg (fun x => some (Instr.mov x)) (opO_wordO _ _ _)
theorem lea (o : OpO) : Statement (.lea o) := by
  refine ofO rfl (by decide) ?_
  rw [parse, wordO_op, wordO_f]
  exact congrArg (fun x => some (Instr.lea x)) (opO_wordO _ _ _)
theorem fadd (dbl : Bool) (o : OpO) : Statement (.fadd dbl o) := by
  cases dbl <;> (
    refine ofO rfl (by decide) ?_
    rw [parse, wordO_op, wordO_f]
    exact congrArg (fun x => some (Instr.fadd _ x)) (opO_wordO _ _ _))
theorem fsub (dbl : Bool) (o : OpO) : Statement (.fsub dbl o) := by
  cases dbl <;> (
    refine ofO rfl (by decide) ?_
    rw [parse, wordO_op, wordO_f]
    exact congrArg (fun x => some (Instr.fsub _ x)) (opO_wordO _ _ _))
theorem fmul (dbl : Bool) (o : OpO) : Statement (.fmul dbl o) := by
  cases dbl <;> (
    refine ofO rfl (by decide) ?_
    rw [parse, wordO_op, wordO_f]
    exact congrArg (fun x => some (Instr.fmul _ x)) (opO_wordO _ _ _))
theorem ffma (dbl : Bool) (o : OpO) : Statement (.ffma dbl o) := by
  cases dbl <;> (
    refine ofO rfl (by decide) ?_
    rw [parse, wordO_op, wordO_f]
    exact congrArg (fun x => some (Instr.ffma _ x)) (opO_wordO _ _ _))
theorem fmin (dbl : Bool) (o : OpO) : Statement (.fmin dbl o) := by
  cases dbl <;> (
    refine ofO rfl (by decide) ?_
    rw [parse, wordO_op, wordO_f]
    exact congrArg (fun x => some (Instr.fmin _ x)) (opO_wordO _ _ _))
theorem fmax (dbl : Bool) (o : OpO) : Statement (.fmax dbl o) := by
  cases dbl <;> (
    refine ofO rfl (by decide) ?_
    rw [parse, wordO_op, wordO_f]
    exact congrArg (fun x => some (Instr.fmax _ x)) (opO_wordO _ _ _))
theorem fcmp (dbl : Bool) (o : OpO) : Statement (.fcmp dbl o) := by
  cases dbl <;> (
    refine ofO rfl (by decide) ?_
    rw [parse, wordO_op, wordO_f]
    exact congrArg (fun x => some (Instr.fcmp _ x)) (opO_wordO _ _ _))
theorem fclass (dbl : Bool) (o : OpO) : Statement (.fclass dbl o) := by
  cases dbl <;> (
    refine ofO rfl (by decide) ?_
    rw [parse, wordO_op, wordO_f]
    exact congrArg (fun x => some (Instr.fclass _ x)) (opO_wordO _ _ _))
theorem frnd (dbl : Bool) (o : OpO) : Statement (.frnd dbl o) := by
  cases dbl <;> (
    refine ofO rfl (by decide) ?_
    rw [parse, wordO_op, wordO_f]
    exact congrArg (fun x => some (Instr.frnd _ x)) (opO_wordO _ _ _))
theorem fdiv (dbl : Bool) (o : OpO) : Statement (.fdiv dbl o) := by
  cases dbl <;> (
    refine ofO rfl (by decide) ?_
    rw [parse, wordO_op, wordO_f]
    exact congrArg (fun x => some (Instr.fdiv _ x)) (opO_wordO _ _ _))
theorem fsqrt (dbl : Bool) (o : OpO) : Statement (.fsqrt dbl o) := by
  cases dbl <;> (
    refine ofO rfl (by decide) ?_
    rw [parse, wordO_op, wordO_f]
    exact congrArg (fun x => some (Instr.fsqrt _ x)) (opO_wordO _ _ _))
theorem frcp (o : OpO) : Statement (.frcp o) := by
  refine ofO rfl (by decide) ?_
  rw [parse, wordO_op, wordO_f]
  exact congrArg (fun x => some (Instr.frcp x)) (opO_wordO _ _ _)
theorem frsq (o : OpO) : Statement (.frsq o) := by
  refine ofO rfl (by decide) ?_
  rw [parse, wordO_op, wordO_f]
  exact congrArg (fun x => some (Instr.frsq x)) (opO_wordO _ _ _)
theorem fexp2 (o : OpO) : Statement (.fexp2 o) := by
  refine ofO rfl (by decide) ?_
  rw [parse, wordO_op, wordO_f]
  exact congrArg (fun x => some (Instr.fexp2 x)) (opO_wordO _ _ _)
theorem flog2 (o : OpO) : Statement (.flog2 o) := by
  refine ofO rfl (by decide) ?_
  rw [parse, wordO_op, wordO_f]
  exact congrArg (fun x => some (Instr.flog2 x)) (opO_wordO _ _ _)
theorem fsinpi (o : OpO) : Statement (.fsinpi o) := by
  refine ofO rfl (by decide) ?_
  rw [parse, wordO_op, wordO_f]
  exact congrArg (fun x => some (Instr.fsinpi x)) (opO_wordO _ _ _)
theorem fcospi (o : OpO) : Statement (.fcospi o) := by
  refine ofO rfl (by decide) ?_
  rw [parse, wordO_op, wordO_f]
  exact congrArg (fun x => some (Instr.fcospi x)) (opO_wordO _ _ _)
theorem hadd2 (o : OpO) : Statement (.hadd2 o) := by
  refine ofO rfl (by decide) ?_
  rw [parse, wordO_op, wordO_f]
  exact congrArg (fun x => some (Instr.hadd2 x)) (opO_wordO _ _ _)
theorem hmul2 (o : OpO) : Statement (.hmul2 o) := by
  refine ofO rfl (by decide) ?_
  rw [parse, wordO_op, wordO_f]
  exact congrArg (fun x => some (Instr.hmul2 x)) (opO_wordO _ _ _)
theorem hfma2 (o : OpO) : Statement (.hfma2 o) := by
  refine ofO rfl (by decide) ?_
  rw [parse, wordO_op, wordO_f]
  exact congrArg (fun x => some (Instr.hfma2 x)) (opO_wordO _ _ _)
theorem mxscan (o : OpO) : Statement (.mxscan o) := by
  refine ofO rfl (by decide) ?_
  rw [parse, wordO_op, wordO_f]
  exact congrArg (fun x => some (Instr.mxscan x)) (opO_wordO _ _ _)
theorem pack6 (o : OpO) : Statement (.pack6 o) := by
  refine ofO rfl (by decide) ?_
  rw [parse, wordO_op, wordO_f]
  exact congrArg (fun x => some (Instr.pack6 x)) (opO_wordO _ _ _)
theorem unpk6 (o : OpO) : Statement (.unpk6 o) := by
  refine ofO rfl (by decide) ?_
  rw [parse, wordO_op, wordO_f]
  exact congrArg (fun x => some (Instr.unpk6 x)) (opO_wordO _ _ _)
theorem pack4 (o : OpO) : Statement (.pack4 o) := by
  refine ofO rfl (by decide) ?_
  rw [parse, wordO_op, wordO_f]
  exact congrArg (fun x => some (Instr.pack4 x)) (opO_wordO _ _ _)
theorem unpk4 (o : OpO) : Statement (.unpk4 o) := by
  refine ofO rfl (by decide) ?_
  rw [parse, wordO_op, wordO_f]
  exact congrArg (fun x => some (Instr.unpk4 x)) (opO_wordO _ _ _)
theorem cvt (dst : BitVec 4) (src : BitVec 4) (o : OpO) : Statement (.cvt dst src o) := by
  by_cases hd : dst = 15
  · intro hw; subst hd
    have h := (wf_parts hw).1
    simp [fnOk, cvtPair] at h
  · refine ofO rfl ?_ ?_
    · revert dst; decide
    · rw [parse, wordO_op, wordO_f]
      refine Eq.trans (b := some (Instr.cvt dst src (opO (wordO (0x40 + dst.setWidth 8) (src.setWidth 6) o)))) ?_ (by rw [opO_wordO])
      generalize wordO (0x40 + dst.setWidth 8) (src.setWidth 6) o = x
      have hs : (src.setWidth 6).toNat = src.toNat := by have := src.isLt; simp; omega
      have hl := src.isLt
      rcases nibble15 dst hd with rfl | rfl | rfl | rfl | rfl | rfl | rfl | rfl | rfl | rfl | rfl | rfl | rfl | rfl | rfl <;>
        (refine Eq.trans (b := if (src.setWidth 6).toNat < 16 then some (Instr.cvt _ (BitVec.ofNat 4 (src.setWidth 6).toNat) (opO x))
           else none) rfl ?_
         rw [hs, if_pos hl, BitVec.ofNat_toNat, BitVec.setWidth_eq]; rfl)
theorem cvtq (dst : BitVec 4) (src : BitVec 4) (o : OpO) : Statement (.cvtq dst src o) := by
  by_cases hd : dst = 15
  · intro hw; subst hd
    have h := (wf_parts hw).1
    simp [fnOk, cvtqPair] at h
  · refine ofO rfl ?_ ?_
    · revert dst; decide
    · rw [parse, wordO_op, wordO_f]
      refine Eq.trans (b := some (Instr.cvtq dst src (opO (wordO (0x50 + dst.setWidth 8) (src.setWidth 6) o)))) ?_ (by rw [opO_wordO])
      generalize wordO (0x50 + dst.setWidth 8) (src.setWidth 6) o = x
      have hs : (src.setWidth 6).toNat = src.toNat := by have := src.isLt; simp; omega
      have hl := src.isLt
      rcases nibble15 dst hd with rfl | rfl | rfl | rfl | rfl | rfl | rfl | rfl | rfl | rfl | rfl | rfl | rfl | rfl | rfl <;>
        (refine Eq.trans (b := if (src.setWidth 6).toNat < 16 then some (Instr.cvtq _ (BitVec.ofNat 4 (src.setWidth 6).toNat) (opO x))
           else none) rfl ?_
         rw [hs, if_pos hl, BitVec.ofNat_toNat, BitVec.setWidth_eq]; rfl)
theorem bra (o : OpI) : Statement (.bra o) := by
  refine ofI rfl (by decide) ?_
  rw [parse, wordI_op]
  exact congrArg (fun x => some (Instr.bra x)) (opI_wordI _ _)
theorem brx (o : OpO) : Statement (.brx o) := by
  refine ofO rfl (by decide) ?_
  rw [parse, wordO_op, wordO_f]
  exact congrArg (fun x => some (Instr.brx x)) (opO_wordO _ _ _)
theorem call (o : OpI) : Statement (.call o) := by
  refine ofI rfl (by decide) ?_
  rw [parse, wordI_op]
  exact congrArg (fun x => some (Instr.call x)) (opI_wordI _ _)
theorem callx (o : OpO) : Statement (.callx o) := by
  refine ofO rfl (by decide) ?_
  rw [parse, wordO_op, wordO_f]
  exact congrArg (fun x => some (Instr.callx x)) (opO_wordO _ _ _)
theorem ret (o : OpO) : Statement (.ret o) := by
  refine ofO rfl (by decide) ?_
  rw [parse, wordO_op, wordO_f]
  exact congrArg (fun x => some (Instr.ret x)) (opO_wordO _ _ _)
theorem exit (o : OpO) : Statement (.exit o) := by
  refine ofO rfl (by decide) ?_
  rw [parse, wordO_op, wordO_f]
  exact congrArg (fun x => some (Instr.exit x)) (opO_wordO _ _ _)
theorem nop (o : OpO) : Statement (.nop o) := by
  refine ofO rfl (by decide) ?_
  rw [parse, wordO_op, wordO_f]
  exact congrArg (fun x => some (Instr.nop x)) (opO_wordO _ _ _)
theorem hintNext (o : OpO) : Statement (.hintNext o) := by
  refine ofO rfl (by decide) ?_
  rw [parse, wordO_op, wordO_f]
  exact congrArg (fun x => some (Instr.hintNext x)) (opO_wordO _ _ _)
theorem hintFar (o : OpO) : Statement (.hintFar o) := by
  refine ofO rfl (by decide) ?_
  rw [parse, wordO_op, wordO_f]
  exact congrArg (fun x => some (Instr.hintFar x)) (opO_wordO _ _ _)
theorem hintLikely (o : OpO) : Statement (.hintLikely o) := by
  refine ofO rfl (by decide) ?_
  rw [parse, wordO_op, wordO_f]
  exact congrArg (fun x => some (Instr.hintLikely x)) (opO_wordO _ _ _)
theorem hintUnlikely (o : OpO) : Statement (.hintUnlikely o) := by
  refine ofO rfl (by decide) ?_
  rw [parse, wordO_op, wordO_f]
  exact congrArg (fun x => some (Instr.hintUnlikely x)) (opO_wordO _ _ _)
theorem ld (w : Width) (o : OpM) : Statement (.ld w o) := by
  cases w <;> (
    refine ofM rfl (by decide) ?_
    rw [parse, wordM_op, wordM_f]
    exact congrArg (fun x => some (Instr.ld _ x)) (opM_wordM _ _ _))
theorem st (w : Width) (o : OpM) : Statement (.st w o) := by
  cases w <;> (
    refine ofM rfl (by decide) ?_
    rw [parse, wordM_op, wordM_f]
    exact congrArg (fun x => some (Instr.st _ x)) (opM_wordM _ _ _))
theorem lds (w : Width) (o : OpM) : Statement (.lds w o) := by
  cases w <;> (
    refine ofM rfl (by decide) ?_
    rw [parse, wordM_op, wordM_f]
    exact congrArg (fun x => some (Instr.lds _ x)) (opM_wordM _ _ _))
theorem sts (w : Width) (o : OpM) : Statement (.sts w o) := by
  cases w <;> (
    refine ofM rfl (by decide) ?_
    rw [parse, wordM_op, wordM_f]
    exact congrArg (fun x => some (Instr.sts _ x)) (opM_wordM _ _ _))
theorem ldk (w : Width) (o : OpM) : Statement (.ldk w o) := by
  cases w <;> (
    refine ofM rfl (by decide) ?_
    rw [parse, wordM_op, wordM_f]
    exact congrArg (fun x => some (Instr.ldk _ x)) (opM_wordM _ _ _))
theorem stk (w : Width) (o : OpM) : Statement (.stk w o) := by
  cases w <;> (
    refine ofM rfl (by decide) ?_
    rw [parse, wordM_op, wordM_f]
    exact congrArg (fun x => some (Instr.stk _ x)) (opM_wordM _ _ _))
theorem ldw (w : Width) (o : OpM) : Statement (.ldw w o) := by
  cases w <;> (
    refine ofM rfl (by decide) ?_
    rw [parse, wordM_op, wordM_f]
    exact congrArg (fun x => some (Instr.ldw _ x)) (opM_wordM _ _ _))
theorem prefL1 (o : OpM) : Statement (.prefL1 o) := by
  refine ofM rfl (by decide) ?_
  rw [parse, wordM_op, wordM_f]
  exact congrArg (fun x => some (Instr.prefL1 x)) (opM_wordM _ _ _)
theorem prefL2 (o : OpM) : Statement (.prefL2 o) := by
  refine ofM rfl (by decide) ?_
  rw [parse, wordM_op, wordM_f]
  exact congrArg (fun x => some (Instr.prefL2 x)) (opM_wordM _ _ _)
theorem shflFrom (o : OpO) : Statement (.shflFrom o) := by
  refine ofO rfl (by decide) ?_
  rw [parse, wordO_op, wordO_f]
  exact congrArg (fun x => some (Instr.shflFrom x)) (opO_wordO _ _ _)
theorem shflRot (o : OpO) : Statement (.shflRot o) := by
  refine ofO rfl (by decide) ?_
  rw [parse, wordO_op, wordO_f]
  exact congrArg (fun x => some (Instr.shflRot x)) (opO_wordO _ _ _)
theorem shflShift (o : OpO) : Statement (.shflShift o) := by
  refine ofO rfl (by decide) ?_
  rw [parse, wordO_op, wordO_f]
  exact congrArg (fun x => some (Instr.shflShift x)) (opO_wordO _ _ _)
theorem shflFlip (o : OpO) : Statement (.shflFlip o) := by
  refine ofO rfl (by decide) ?_
  rw [parse, wordO_op, wordO_f]
  exact congrArg (fun x => some (Instr.shflFlip x)) (opO_wordO _ _ _)
theorem voteOr (o : OpO) : Statement (.voteOr o) := by
  refine ofO rfl (by decide) ?_
  rw [parse, wordO_op, wordO_f]
  exact congrArg (fun x => some (Instr.voteOr x)) (opO_wordO _ _ _)
theorem voteAnd (o : OpO) : Statement (.voteAnd o) := by
  refine ofO rfl (by decide) ?_
  rw [parse, wordO_op, wordO_f]
  exact congrArg (fun x => some (Instr.voteAnd x)) (opO_wordO _ _ _)
theorem voteSame (o : OpO) : Statement (.voteSame o) := by
  refine ofO rfl (by decide) ?_
  rw [parse, wordO_op, wordO_f]
  exact congrArg (fun x => some (Instr.voteSame x)) (opO_wordO _ _ _)
theorem voteMask (o : OpO) : Statement (.voteMask o) := by
  refine ofO rfl (by decide) ?_
  rw [parse, wordO_op, wordO_f]
  exact congrArg (fun x => some (Instr.voteMask x)) (opO_wordO _ _ _)
theorem reduxAdd (o : OpO) : Statement (.reduxAdd o) := by
  refine ofO rfl (by decide) ?_
  rw [parse, wordO_op, wordO_f]
  exact congrArg (fun x => some (Instr.reduxAdd x)) (opO_wordO _ _ _)
theorem reduxMin (o : OpO) : Statement (.reduxMin o) := by
  refine ofO rfl (by decide) ?_
  rw [parse, wordO_op, wordO_f]
  exact congrArg (fun x => some (Instr.reduxMin x)) (opO_wordO _ _ _)
theorem reduxMax (o : OpO) : Statement (.reduxMax o) := by
  refine ofO rfl (by decide) ?_
  rw [parse, wordO_op, wordO_f]
  exact congrArg (fun x => some (Instr.reduxMax x)) (opO_wordO _ _ _)
theorem reduxAnd (o : OpO) : Statement (.reduxAnd o) := by
  refine ofO rfl (by decide) ?_
  rw [parse, wordO_op, wordO_f]
  exact congrArg (fun x => some (Instr.reduxAnd x)) (opO_wordO _ _ _)
theorem reduxOr (o : OpO) : Statement (.reduxOr o) := by
  refine ofO rfl (by decide) ?_
  rw [parse, wordO_op, wordO_f]
  exact congrArg (fun x => some (Instr.reduxOr x)) (opO_wordO _ _ _)
theorem reduxXor (o : OpO) : Statement (.reduxXor o) := by
  refine ofO rfl (by decide) ?_
  rw [parse, wordO_op, wordO_f]
  exact congrArg (fun x => some (Instr.reduxXor x)) (opO_wordO _ _ _)
theorem scanAdd (o : OpO) : Statement (.scanAdd o) := by
  refine ofO rfl (by decide) ?_
  rw [parse, wordO_op, wordO_f]
  exact congrArg (fun x => some (Instr.scanAdd x)) (opO_wordO _ _ _)
theorem scanMin (o : OpO) : Statement (.scanMin o) := by
  refine ofO rfl (by decide) ?_
  rw [parse, wordO_op, wordO_f]
  exact congrArg (fun x => some (Instr.scanMin x)) (opO_wordO _ _ _)
theorem scanMax (o : OpO) : Statement (.scanMax o) := by
  refine ofO rfl (by decide) ?_
  rw [parse, wordO_op, wordO_f]
  exact congrArg (fun x => some (Instr.scanMax x)) (opO_wordO _ _ _)
theorem scanAnd (o : OpO) : Statement (.scanAnd o) := by
  refine ofO rfl (by decide) ?_
  rw [parse, wordO_op, wordO_f]
  exact congrArg (fun x => some (Instr.scanAnd x)) (opO_wordO _ _ _)
theorem scanOr (o : OpO) : Statement (.scanOr o) := by
  refine ofO rfl (by decide) ?_
  rw [parse, wordO_op, wordO_f]
  exact congrArg (fun x => some (Instr.scanOr x)) (opO_wordO _ _ _)
theorem scanXor (o : OpO) : Statement (.scanXor o) := by
  refine ofO rfl (by decide) ?_
  rw [parse, wordO_op, wordO_f]
  exact congrArg (fun x => some (Instr.scanXor x)) (opO_wordO _ _ _)
theorem matchPeers (o : OpO) : Statement (.matchPeers o) := by
  refine ofO rfl (by decide) ?_
  rw [parse, wordO_op, wordO_f]
  exact congrArg (fun x => some (Instr.matchPeers x)) (opO_wordO _ _ _)
theorem matchLead (o : OpO) : Statement (.matchLead o) := by
  refine ofO rfl (by decide) ?_
  rw [parse, wordO_op, wordO_f]
  exact congrArg (fun x => some (Instr.matchLead x)) (opO_wordO _ _ _)
theorem elect (o : OpO) : Statement (.elect o) := by
  refine ofO rfl (by decide) ?_
  rw [parse, wordO_op, wordO_f]
  exact congrArg (fun x => some (Instr.elect x)) (opO_wordO _ _ _)
theorem partset (o : OpO) : Statement (.partset o) := by
  refine ofO rfl (by decide) ?_
  rw [parse, wordO_op, wordO_f]
  exact congrArg (fun x => some (Instr.partset x)) (opO_wordO _ _ _)
theorem exmget (o : OpO) : Statement (.exmget o) := by
  refine ofO rfl (by decide) ?_
  rw [parse, wordO_op, wordO_f]
  exact congrArg (fun x => some (Instr.exmget x)) (opO_wordO _ _ _)
theorem exmset (o : OpO) : Statement (.exmset o) := by
  refine ofO rfl (by decide) ?_
  rw [parse, wordO_op, wordO_f]
  exact congrArg (fun x => some (Instr.exmset x)) (opO_wordO _ _ _)
theorem bar (o : OpO) : Statement (.bar o) := by
  refine ofO rfl (by decide) ?_
  rw [parse, wordO_op, wordO_f]
  exact congrArg (fun x => some (Instr.bar x)) (opO_wordO _ _ _)
theorem bara (o : OpO) : Statement (.bara o) := by
  refine ofO rfl (by decide) ?_
  rw [parse, wordO_op, wordO_f]
  exact congrArg (fun x => some (Instr.bara x)) (opO_wordO _ _ _)
theorem barw (o : OpO) : Statement (.barw o) := by
  refine ofO rfl (by decide) ?_
  rw [parse, wordO_op, wordO_f]
  exact congrArg (fun x => some (Instr.barw x)) (opO_wordO _ _ _)
theorem poll (o : OpO) : Statement (.poll o) := by
  refine ofO rfl (by decide) ?_
  rw [parse, wordO_op, wordO_f]
  exact congrArg (fun x => some (Instr.poll x)) (opO_wordO _ _ _)
theorem yield (o : OpO) : Statement (.yield o) := by
  refine ofO rfl (by decide) ?_
  rw [parse, wordO_op, wordO_f]
  exact congrArg (fun x => some (Instr.yield x)) (opO_wordO _ _ _)
theorem taskget (o : OpO) : Statement (.taskget o) := by
  refine ofO rfl (by decide) ?_
  rw [parse, wordO_op, wordO_f]
  exact congrArg (fun x => some (Instr.taskget x)) (opO_wordO _ _ _)
theorem taskdone (o : OpO) : Statement (.taskdone o) := by
  refine ofO rfl (by decide) ?_
  rw [parse, wordO_op, wordO_f]
  exact congrArg (fun x => some (Instr.taskdone x)) (opO_wordO _ _ _)
theorem lvlid (k : BitVec 3) (o : OpO) : Statement (.lvlid k o) := by
  refine ofO rfl (by decide) ?_
  rw [parse, wordO_op, wordO_f]
  refine Eq.trans (b := some (.lvlid k (opO (wordO 0x8D (k.setWidth 6) o)))) ?_ (by rw [opO_wordO])
  generalize wordO 0x8D (k.setWidth 6) o = x
  have h8 : k = 0 ∨ k = 1 ∨ k = 2 ∨ k = 3 ∨ k = 4 ∨ k = 5 ∨ k = 6 ∨ k = 7 := by revert k; decide
  rcases h8 with rfl | rfl | rfl | rfl | rfl | rfl | rfl | rfl <;> rfl
theorem lvlidLane (o : OpO) : Statement (.lvlidLane o) := by
  refine ofO rfl (by decide) ?_
  rw [parse, wordO_op, wordO_f]
  exact congrArg (fun x => some (Instr.lvlidLane x)) (opO_wordO _ _ _)
theorem atomAdd (o : OpO) : Statement (.atomAdd o) := by
  refine ofO rfl (by decide) ?_
  rw [parse, wordO_op, wordO_f]
  exact congrArg (fun x => some (Instr.atomAdd x)) (opO_wordO _ _ _)
theorem atomMin (o : OpO) : Statement (.atomMin o) := by
  refine ofO rfl (by decide) ?_
  rw [parse, wordO_op, wordO_f]
  exact congrArg (fun x => some (Instr.atomMin x)) (opO_wordO _ _ _)
theorem atomMax (o : OpO) : Statement (.atomMax o) := by
  refine ofO rfl (by decide) ?_
  rw [parse, wordO_op, wordO_f]
  exact congrArg (fun x => some (Instr.atomMax x)) (opO_wordO _ _ _)
theorem atomAnd (o : OpO) : Statement (.atomAnd o) := by
  refine ofO rfl (by decide) ?_
  rw [parse, wordO_op, wordO_f]
  exact congrArg (fun x => some (Instr.atomAnd x)) (opO_wordO _ _ _)
theorem atomOr (o : OpO) : Statement (.atomOr o) := by
  refine ofO rfl (by decide) ?_
  rw [parse, wordO_op, wordO_f]
  exact congrArg (fun x => some (Instr.atomOr x)) (opO_wordO _ _ _)
theorem atomXor (o : OpO) : Statement (.atomXor o) := by
  refine ofO rfl (by decide) ?_
  rw [parse, wordO_op, wordO_f]
  exact congrArg (fun x => some (Instr.atomXor x)) (opO_wordO _ _ _)
theorem atomExch (o : OpO) : Statement (.atomExch o) := by
  refine ofO rfl (by decide) ?_
  rw [parse, wordO_op, wordO_f]
  exact congrArg (fun x => some (Instr.atomExch x)) (opO_wordO _ _ _)
theorem atomInc (o : OpO) : Statement (.atomInc o) := by
  refine ofO rfl (by decide) ?_
  rw [parse, wordO_op, wordO_f]
  exact congrArg (fun x => some (Instr.atomInc x)) (opO_wordO _ _ _)
theorem atomDec (o : OpO) : Statement (.atomDec o) := by
  refine ofO rfl (by decide) ?_
  rw [parse, wordO_op, wordO_f]
  exact congrArg (fun x => some (Instr.atomDec x)) (opO_wordO _ _ _)
theorem atomfAdd (o : OpO) : Statement (.atomfAdd o) := by
  refine ofO rfl (by decide) ?_
  rw [parse, wordO_op, wordO_f]
  exact congrArg (fun x => some (Instr.atomfAdd x)) (opO_wordO _ _ _)
theorem atomfMin (o : OpO) : Statement (.atomfMin o) := by
  refine ofO rfl (by decide) ?_
  rw [parse, wordO_op, wordO_f]
  exact congrArg (fun x => some (Instr.atomfMin x)) (opO_wordO _ _ _)
theorem atomfMax (o : OpO) : Statement (.atomfMax o) := by
  refine ofO rfl (by decide) ?_
  rw [parse, wordO_op, wordO_f]
  exact congrArg (fun x => some (Instr.atomfMax x)) (opO_wordO _ _ _)
theorem cas (o : OpO) : Statement (.cas o) := by
  refine ofO rfl (by decide) ?_
  rw [parse, wordO_op, wordO_f]
  exact congrArg (fun x => some (Instr.cas x)) (opO_wordO _ _ _)
theorem atomsAdd (o : OpO) : Statement (.atomsAdd o) := by
  refine ofO rfl (by decide) ?_
  rw [parse, wordO_op, wordO_f]
  exact congrArg (fun x => some (Instr.atomsAdd x)) (opO_wordO _ _ _)
theorem atomsMin (o : OpO) : Statement (.atomsMin o) := by
  refine ofO rfl (by decide) ?_
  rw [parse, wordO_op, wordO_f]
  exact congrArg (fun x => some (Instr.atomsMin x)) (opO_wordO _ _ _)
theorem atomsMax (o : OpO) : Statement (.atomsMax o) := by
  refine ofO rfl (by decide) ?_
  rw [parse, wordO_op, wordO_f]
  exact congrArg (fun x => some (Instr.atomsMax x)) (opO_wordO _ _ _)
theorem atomsAnd (o : OpO) : Statement (.atomsAnd o) := by
  refine ofO rfl (by decide) ?_
  rw [parse, wordO_op, wordO_f]
  exact congrArg (fun x => some (Instr.atomsAnd x)) (opO_wordO _ _ _)
theorem atomsOr (o : OpO) : Statement (.atomsOr o) := by
  refine ofO rfl (by decide) ?_
  rw [parse, wordO_op, wordO_f]
  exact congrArg (fun x => some (Instr.atomsOr x)) (opO_wordO _ _ _)
theorem atomsXor (o : OpO) : Statement (.atomsXor o) := by
  refine ofO rfl (by decide) ?_
  rw [parse, wordO_op, wordO_f]
  exact congrArg (fun x => some (Instr.atomsXor x)) (opO_wordO _ _ _)
theorem atomsExch (o : OpO) : Statement (.atomsExch o) := by
  refine ofO rfl (by decide) ?_
  rw [parse, wordO_op, wordO_f]
  exact congrArg (fun x => some (Instr.atomsExch x)) (opO_wordO _ _ _)
theorem atomsInc (o : OpO) : Statement (.atomsInc o) := by
  refine ofO rfl (by decide) ?_
  rw [parse, wordO_op, wordO_f]
  exact congrArg (fun x => some (Instr.atomsInc x)) (opO_wordO _ _ _)
theorem atomsDec (o : OpO) : Statement (.atomsDec o) := by
  refine ofO rfl (by decide) ?_
  rw [parse, wordO_op, wordO_f]
  exact congrArg (fun x => some (Instr.atomsDec x)) (opO_wordO _ _ _)
theorem redAdd (o : OpO) : Statement (.redAdd o) := by
  refine ofO rfl (by decide) ?_
  rw [parse, wordO_op, wordO_f]
  exact congrArg (fun x => some (Instr.redAdd x)) (opO_wordO _ _ _)
theorem redMin (o : OpO) : Statement (.redMin o) := by
  refine ofO rfl (by decide) ?_
  rw [parse, wordO_op, wordO_f]
  exact congrArg (fun x => some (Instr.redMin x)) (opO_wordO _ _ _)
theorem redMax (o : OpO) : Statement (.redMax o) := by
  refine ofO rfl (by decide) ?_
  rw [parse, wordO_op, wordO_f]
  exact congrArg (fun x => some (Instr.redMax x)) (opO_wordO _ _ _)
theorem redAnd (o : OpO) : Statement (.redAnd o) := by
  refine ofO rfl (by decide) ?_
  rw [parse, wordO_op, wordO_f]
  exact congrArg (fun x => some (Instr.redAnd x)) (opO_wordO _ _ _)
theorem redOr (o : OpO) : Statement (.redOr o) := by
  refine ofO rfl (by decide) ?_
  rw [parse, wordO_op, wordO_f]
  exact congrArg (fun x => some (Instr.redOr x)) (opO_wordO _ _ _)
theorem redXor (o : OpO) : Statement (.redXor o) := by
  refine ofO rfl (by decide) ?_
  rw [parse, wordO_op, wordO_f]
  exact congrArg (fun x => some (Instr.redXor x)) (opO_wordO _ _ _)
theorem fence (o : OpO) : Statement (.fence o) := by
  refine ofO rfl (by decide) ?_
  rw [parse, wordO_op, wordO_f]
  exact congrArg (fun x => some (Instr.fence x)) (opO_wordO _ _ _)
theorem ldacq (w : Width) (o : OpM) : Statement (.ldacq w o) := by
  cases w <;> (
    refine ofM rfl (by decide) ?_
    rw [parse, wordM_op, wordM_f]
    exact congrArg (fun x => some (Instr.ldacq _ x)) (opM_wordM _ _ _))
theorem strel (w : Width) (o : OpM) : Statement (.strel w o) := by
  cases w <;> (
    refine ofM rfl (by decide) ?_
    rw [parse, wordM_op, wordM_f]
    exact congrArg (fun x => some (Instr.strel _ x)) (opM_wordM _ _ _))
theorem tryOpen (o : OpO) : Statement (.tryOpen o) := by
  refine ofO rfl (by decide) ?_
  rw [parse, wordO_op, wordO_f]
  exact congrArg (fun x => some (Instr.tryOpen x)) (opO_wordO _ _ _)
theorem commit (o : OpO) : Statement (.commit o) := by
  refine ofO rfl (by decide) ?_
  rw [parse, wordO_op, wordO_f]
  exact congrArg (fun x => some (Instr.commit x)) (opO_wordO _ _ _)
theorem abort (o : OpO) : Statement (.abort o) := by
  refine ofO rfl (by decide) ?_
  rw [parse, wordO_op, wordO_f]
  exact congrArg (fun x => some (Instr.abort x)) (opO_wordO _ _ _)
theorem wait (o : OpI) : Statement (.wait o) := by
  refine ofI rfl (by decide) ?_
  rw [parse, wordI_op]
  exact congrArg (fun x => some (Instr.wait x)) (opI_wordI _ _)
theorem cctlInv (o : OpM) : Statement (.cctlInv o) := by
  refine ofM rfl (by decide) ?_
  rw [parse, wordM_op, wordM_f]
  exact congrArg (fun x => some (Instr.cctlInv x)) (opM_wordM _ _ _)
theorem cctlWb (o : OpM) : Statement (.cctlWb o) := by
  refine ofM rfl (by decide) ?_
  rw [parse, wordM_op, wordM_f]
  exact congrArg (fun x => some (Instr.cctlWb x)) (opM_wordM _ _ _)
theorem cctlWbinv (o : OpM) : Statement (.cctlWbinv o) := by
  refine ofM rfl (by decide) ?_
  rw [parse, wordM_op, wordM_f]
  exact congrArg (fun x => some (Instr.cctlWbinv x)) (opM_wordM _ _ _)
theorem tcopyLd (o : OpO) : Statement (.tcopyLd o) := by
  intro hw
  have hm : o.m = 0 := by
    have h := (wf_parts hw).2.1
    simp only [fieldsOk, Bool.and_eq_true, decide_eq_true_eq] at h
    exact h.1.2
  refine ofO rfl (by decide) ?_ hw
  rw [parse, wordO_op, wordO_f]
  refine Eq.trans (b := some (if bit (wordO 0xA0 0 o).toNat 0 then Instr.tcopySt (opO (wordO 0xA0 0 o)) else Instr.tcopyLd (opO (wordO 0xA0 0 o)))) rfl ?_
  rw [wordO_bit0, opO_wordO, hm]
  rfl
theorem tcopySt (o : OpO) : Statement (.tcopySt o) := by
  intro hw
  have hm : o.m = 1 := by
    have h := (wf_parts hw).2.1
    simp only [fieldsOk, Bool.and_eq_true, decide_eq_true_eq] at h
    exact h.1.2
  refine ofO rfl (by decide) ?_ hw
  rw [parse, wordO_op, wordO_f]
  refine Eq.trans (b := some (if bit (wordO 0xA0 0 o).toNat 0 then Instr.tcopySt (opO (wordO 0xA0 0 o)) else Instr.tcopyLd (opO (wordO 0xA0 0 o)))) rfl ?_
  rw [wordO_bit0, opO_wordO, hm]
  rfl
theorem scopy (o : OpO) : Statement (.scopy o) := by
  refine ofO rfl (by decide) ?_
  rw [parse, wordO_op, wordO_f]
  exact congrArg (fun x => some (Instr.scopy x)) (opO_wordO _ _ _)
theorem mcast (o : OpO) : Statement (.mcast o) := by
  refine ofO rfl (by decide) ?_
  rw [parse, wordO_op, wordO_f]
  exact congrArg (fun x => some (Instr.mcast x)) (opO_wordO _ _ _)
theorem chain (o : OpO) : Statement (.chain o) := by
  refine ofO rfl (by decide) ?_
  rw [parse, wordO_op, wordO_f]
  exact congrArg (fun x => some (Instr.chain x)) (opO_wordO _ _ _)
theorem qinit (o : OpO) : Statement (.qinit o) := by
  refine ofO rfl (by decide) ?_
  rw [parse, wordO_op, wordO_f]
  exact congrArg (fun x => some (Instr.qinit x)) (opO_wordO _ _ _)
theorem qpush (o : OpO) : Statement (.qpush o) := by
  refine ofO rfl (by decide) ?_
  rw [parse, wordO_op, wordO_f]
  exact congrArg (fun x => some (Instr.qpush x)) (opO_wordO _ _ _)
theorem qpop (o : OpO) : Statement (.qpop o) := by
  refine ofO rfl (by decide) ?_
  rw [parse, wordO_op, wordO_f]
  exact congrArg (fun x => some (Instr.qpop x)) (opO_wordO _ _ _)
theorem tagany (o : OpI) : Statement (.tagany o) := by
  refine ofI rfl (by decide) ?_
  rw [parse, wordI_op]
  exact congrArg (fun x => some (Instr.tagany x)) (opI_wordI _ _)
theorem tagall (o : OpI) : Statement (.tagall o) := by
  refine ofI rfl (by decide) ?_
  rw [parse, wordI_op]
  exact congrArg (fun x => some (Instr.tagall x)) (opI_wordI _ _)
theorem tagff (o : OpO) : Statement (.tagff o) := by
  refine ofO rfl (by decide) ?_
  rw [parse, wordO_op, wordO_f]
  exact congrArg (fun x => some (Instr.tagff x)) (opO_wordO _ _ _)
theorem tagclr (o : OpI) : Statement (.tagclr o) := by
  refine ofI rfl (by decide) ?_
  rw [parse, wordI_op]
  exact congrArg (fun x => some (Instr.tagclr x)) (opI_wordI _ _)
theorem accz (o : OpO) : Statement (.accz o) := by
  refine ofO rfl (by decide) ?_
  rw [parse, wordO_op, wordO_f]
  exact congrArg (fun x => some (Instr.accz x)) (opO_wordO _ _ _)
theorem accmvV (o : OpO) : Statement (.accmvV o) := by
  intro hw
  have hm : o.m = 0 := by
    have h := (wf_parts hw).2.1
    simp only [fieldsOk, Bool.and_eq_true, decide_eq_true_eq] at h
    exact h.2
  refine ofO rfl (by decide) ?_ hw
  rw [parse, wordO_op, wordO_f]
  refine Eq.trans (b := some (if bit (wordO 0xAC 0 o).toNat 0 then Instr.accmvA (opO (wordO 0xAC 0 o)) else Instr.accmvV (opO (wordO 0xAC 0 o)))) rfl ?_
  rw [wordO_bit0, opO_wordO, hm]
  rfl
theorem accmvA (o : OpO) : Statement (.accmvA o) := by
  intro hw
  have hm : o.m = 1 := by
    have h := (wf_parts hw).2.1
    simp only [fieldsOk, Bool.and_eq_true, decide_eq_true_eq] at h
    exact h.2
  refine ofO rfl (by decide) ?_ hw
  rw [parse, wordO_op, wordO_f]
  refine Eq.trans (b := some (if bit (wordO 0xAC 0 o).toNat 0 then Instr.accmvA (opO (wordO 0xAC 0 o)) else Instr.accmvV (opO (wordO 0xAC 0 o)))) rfl ?_
  rw [wordO_bit0, opO_wordO, hm]
  rfl
theorem accst (o : OpO) : Statement (.accst o) := by
  refine ofO rfl (by decide) ?_
  rw [parse, wordO_op, wordO_f]
  exact congrArg (fun x => some (Instr.accst x)) (opO_wordO _ _ _)
theorem tmac (o : OpO) : Statement (.tmac o) := by
  refine ofO rfl (by decide) ?_
  rw [parse, wordO_op, wordO_f]
  exact congrArg (fun x => some (Instr.tmac x)) (opO_wordO _ _ _)
theorem txpose (o : OpO) : Statement (.txpose o) := by
  refine ofO rfl (by decide) ?_
  rw [parse, wordO_op, wordO_f]
  exact congrArg (fun x => some (Instr.txpose x)) (opO_wordO _ _ _)
theorem mma (shape : BitVec 2) (ty : BitVec 6) (o : OpO) : Statement (.mma shape ty o) := by
  refine ofO rfl ?_ ?_
  · revert shape; decide
  · rw [parse, wordO_op, wordO_f]
    refine Eq.trans (b := some (Instr.mma shape ty (opO (wordO (0xB0 + shape.setWidth 8) ty o)))) ?_ (by rw [opO_wordO])
    generalize wordO (0xB0 + shape.setWidth 8) ty o = x
    have h4 : shape = 0 ∨ shape = 1 ∨ shape = 2 ∨ shape = 3 := by revert shape; decide
    rcases h4 with rfl | rfl | rfl | rfl <;>
      (refine Eq.trans (b := some (Instr.mma _ (BitVec.ofNat 6 ty.toNat) (opO x))) rfl ?_
       rw [BitVec.ofNat_toNat, BitVec.setWidth_eq]; rfl)
theorem mmloop (shape : BitVec 2) (ty : BitVec 6) (o : OpO) : Statement (.mmloop shape ty o) := by
  refine ofO rfl ?_ ?_
  · revert shape; decide
  · rw [parse, wordO_op, wordO_f]
    refine Eq.trans (b := some (Instr.mmloop shape ty (opO (wordO (0xB4 + shape.setWidth 8) ty o)))) ?_ (by rw [opO_wordO])
    generalize wordO (0xB4 + shape.setWidth 8) ty o = x
    have h4 : shape = 0 ∨ shape = 1 ∨ shape = 2 ∨ shape = 3 := by revert shape; decide
    rcases h4 with rfl | rfl | rfl | rfl <;>
      (refine Eq.trans (b := some (Instr.mmloop _ (BitVec.ofNat 6 ty.toNat) (opO x))) rfl ?_
       rw [BitVec.ofNat_toNat, BitVec.setWidth_eq]; rfl)
theorem trap (o : OpO) : Statement (.trap o) := by
  refine ofO rfl (by decide) ?_
  rw [parse, wordO_op, wordO_f]
  exact congrArg (fun x => some (Instr.trap x)) (opO_wordO _ _ _)
theorem rtt (o : OpO) : Statement (.rtt o) := by
  refine ofO rfl (by decide) ?_
  rw [parse, wordO_op, wordO_f]
  exact congrArg (fun x => some (Instr.rtt x)) (opO_wordO _ _ _)
theorem srd (reg : BitVec 6) (o : OpO) : Statement (.srd reg o) := by
  refine ofO rfl (by decide) ?_
  rw [parse, wordO_op, wordO_f]
  refine Eq.trans (b := some (Instr.srd (BitVec.ofNat 6 reg.toNat) (opO (wordO 0xC2 reg o)))) rfl ?_
  rw [opO_wordO, BitVec.ofNat_toNat, BitVec.setWidth_eq]
theorem swr (reg : BitVec 6) (o : OpO) : Statement (.swr reg o) := by
  refine ofO rfl (by decide) ?_
  rw [parse, wordO_op, wordO_f]
  refine Eq.trans (b := some (Instr.swr (BitVec.ofNat 6 reg.toNat) (opO (wordO 0xC3 reg o)))) rfl ?_
  rw [opO_wordO, BitVec.ofNat_toNat, BitVec.setWidth_eq]
theorem vbegin (o : OpO) : Statement (.vbegin o) := by
  refine ofO rfl (by decide) ?_
  rw [parse, wordO_op, wordO_f]
  exact congrArg (fun x => some (Instr.vbegin x)) (opO_wordO _ _ _)
theorem vend (o : OpO) : Statement (.vend o) := by
  refine ofO rfl (by decide) ?_
  rw [parse, wordO_op, wordO_f]
  exact congrArg (fun x => some (Instr.vend x)) (opO_wordO _ _ _)
theorem bkpt (o : OpO) : Statement (.bkpt o) := by
  refine ofO rfl (by decide) ?_
  rw [parse, wordO_op, wordO_f]
  exact congrArg (fun x => some (Instr.bkpt x)) (opO_wordO _ _ _)
theorem wpset (o : OpO) : Statement (.wpset o) := by
  refine ofO rfl (by decide) ?_
  rw [parse, wordO_op, wordO_f]
  exact congrArg (fun x => some (Instr.wpset x)) (opO_wordO _ _ _)
theorem halta (o : OpO) : Statement (.halta o) := by
  refine ofO rfl (by decide) ?_
  rw [parse, wordO_op, wordO_f]
  exact congrArg (fun x => some (Instr.halta x)) (opO_wordO _ _ _)
theorem dumpw (o : OpO) : Statement (.dumpw o) := by
  refine ofO rfl (by decide) ?_
  rw [parse, wordO_op, wordO_f]
  exact congrArg (fun x => some (Instr.dumpw x)) (opO_wordO _ _ _)
theorem tlbinv (o : OpO) : Statement (.tlbinv o) := by
  refine ofO rfl (by decide) ?_
  rw [parse, wordO_op, wordO_f]
  exact congrArg (fun x => some (Instr.tlbinv x)) (opO_wordO _ _ _)
theorem interest (o : OpO) : Statement (.interest o) := by
  refine ofO rfl (by decide) ?_
  rw [parse, wordO_op, wordO_f]
  exact congrArg (fun x => some (Instr.interest x)) (opO_wordO _ _ _)
theorem announce (o : OpO) : Statement (.announce o) := by
  refine ofO rfl (by decide) ?_
  rw [parse, wordO_op, wordO_f]
  exact congrArg (fun x => some (Instr.announce x)) (opO_wordO _ _ _)
theorem leasereq (o : OpO) : Statement (.leasereq o) := by
  refine ofO rfl (by decide) ?_
  rw [parse, wordO_op, wordO_f]
  exact congrArg (fun x => some (Instr.leasereq x)) (opO_wordO _ _ _)
theorem leaseret (o : OpO) : Statement (.leaseret o) := by
  refine ofO rfl (by decide) ?_
  rw [parse, wordO_op, wordO_f]
  exact congrArg (fun x => some (Instr.leaseret x)) (opO_wordO _ _ _)
theorem signal (o : OpO) : Statement (.signal o) := by
  refine ofO rfl (by decide) ?_
  rw [parse, wordO_op, wordO_f]
  exact congrArg (fun x => some (Instr.signal x)) (opO_wordO _ _ _)
theorem sigwait (o : OpO) : Statement (.sigwait o) := by
  refine ofO rfl (by decide) ?_
  rw [parse, wordO_op, wordO_f]
  exact congrArg (fun x => some (Instr.sigwait x)) (opO_wordO _ _ _)
theorem xscale (o : OpO) : Statement (.xscale o) := by
  refine ofO rfl (by decide) ?_
  rw [parse, wordO_op, wordO_f]
  exact congrArg (fun x => some (Instr.xscale x)) (opO_wordO _ _ _)
theorem xsum (o : OpO) : Statement (.xsum o) := by
  refine ofO rfl (by decide) ?_
  rw [parse, wordO_op, wordO_f]
  exact congrArg (fun x => some (Instr.xsum x)) (opO_wordO _ _ _)
theorem xfin (o : OpO) : Statement (.xfin o) := by
  refine ofO rfl (by decide) ?_
  rw [parse, wordO_op, wordO_f]
  exact congrArg (fun x => some (Instr.xfin x)) (opO_wordO _ _ _)
theorem evpost (o : OpO) : Statement (.evpost o) := by
  refine ofO rfl (by decide) ?_
  rw [parse, wordO_op, wordO_f]
  exact congrArg (fun x => some (Instr.evpost x)) (opO_wordO _ _ _)
theorem digest (o : OpO) : Statement (.digest o) := by
  refine ofO rfl (by decide) ?_
  rw [parse, wordO_op, wordO_f]
  exact congrArg (fun x => some (Instr.digest x)) (opO_wordO _ _ _)
theorem versionIrrevocable (k : Nat) : Statement (.versionIrrevocable k) := event rfl
theorem deferredTrap (k : Nat) : Statement (.deferredTrap k) := event rfl
theorem loadComplete (id : Nat) : Statement (.loadComplete id) := event rfl
theorem storeComplete (id : Nat) : Statement (.storeComplete id) := event rfl
theorem atomicComplete (id : Nat) : Statement (.atomicComplete id) := event rfl
theorem engineCommandComplete (id : Nat) : Statement (.engineCommandComplete id) := event rfl
theorem queuePushPerform (id : Nat) : Statement (.queuePushPerform id) := event rfl
theorem queuePopPerform (id : Nat) : Statement (.queuePopPerform id) := event rfl
theorem matrixStep (cid : Nat) : Statement (.matrixStep cid) := event rfl
theorem txposeGroup (cid : Nat) : Statement (.txposeGroup cid) := event rfl
theorem l1Eviction (cid : Nat) (line : Nat) : Statement (.l1Eviction cid line) := event rfl
theorem launchCommand (pkt : LaunchPkt) : Statement (.launchCommand pkt) := event rfl
theorem placementAttempt : Statement (.placementAttempt) := event rfl
theorem unitBlocking (launch : Nat) (unit : Nat) : Statement (.unitBlocking launch unit) := event rfl
theorem resourceReport (die : Nat) : Statement (.resourceReport die) := event rfl
theorem coreLaunchReport (cid : Nat) (launch : Nat) : Statement (.coreLaunchReport cid launch) := event rfl
theorem dealChunk (launch : Nat) : Statement (.dealChunk launch) := event rfl
theorem warpUrgent (k : Nat) : Statement (.warpUrgent k) := event rfl
theorem pollBackoffEnd (k : Nat) : Statement (.pollBackoffEnd k) := event rfl
theorem yieldTimeout (k : Nat) : Statement (.yieldTimeout k) := event rfl
theorem preemptRequest (target : PreemptTarget) (dl : Nat) : Statement (.preemptRequest target dl) := event rfl
theorem drainDeadline (blk : Nat) : Statement (.drainDeadline blk) := event rfl
theorem blockSave (blk : Nat) : Statement (.blockSave blk) := event rfl
theorem pinWrite (idx : Nat) (val : Word) : Statement (.pinWrite idx val) := event rfl
theorem pinActivate (idx : Nat) : Statement (.pinActivate idx) := event rfl
theorem pinRelease (idx : Nat) : Statement (.pinRelease idx) := event rfl
theorem migrationStart (link : Nat) (slot : Nat) (src : Word) (dst : Word) : Statement (.migrationStart link slot src dst) := event rfl
theorem migrationChunkCopy (link : Nat) (slot : Nat) : Statement (.migrationChunkCopy link slot) := event rfl
theorem migrationRelease (link : Nat) (slot : Nat) : Statement (.migrationRelease link slot) := event rfl
theorem scrubLine (link : Nat) (ecc : List EccResult) (tag : TagResult) : Statement (.scrubLine link ecc tag) := event rfl
theorem sampleRow : Statement (.sampleRow) := event rfl
theorem traceTag (cid : Nat) (sub : Nat) (interval : Nat) : Statement (.traceTag cid sub interval) := event rfl
theorem traceRow (cid : Nat) (sub : Nat) (stages : Rec8) : Statement (.traceRow cid sub stages) := event rfl
theorem dbgHalt (cmd : Word) : Statement (.dbgHalt cmd) := event rfl
theorem dbgResume (cmd : Word) : Statement (.dbgResume cmd) := event rfl
theorem dbgResumePc (cmd : Word) : Statement (.dbgResumePc cmd) := event rfl
theorem dbgHaltCtx (cmd : Word) : Statement (.dbgHaltCtx cmd) := event rfl
theorem dbgResumeCtx (cmd : Word) : Statement (.dbgResumeCtx cmd) := event rfl
theorem dbgRefused (cmd : Word) : Statement (.dbgRefused cmd) := event rfl
theorem readShared (src : Nat) (ia : Nat) (req : Nat) : Statement (.readShared src ia req) := event rfl
theorem readExclusive (src : Nat) (ia : Nat) (req : Nat) : Statement (.readExclusive src ia req) := event rfl
theorem writeBack (src : Nat) (ia : Nat) (mask : BitVec 128) (marks : List Origin) (data : List Byte) : Statement (.writeBack src ia mask marks data) := event rfl
theorem invalidatePkt (dev : Nat) (ia : Nat) : Statement (.invalidatePkt dev ia) := event rfl
theorem recallPkt (dev : Nat) (ia : Nat) (keep : Bool) : Statement (.recallPkt dev ia keep) := event rfl
theorem atomicPkt (src : Nat) (pkt : AtomicPkt) : Statement (.atomicPkt src pkt) := event rfl
theorem responsePkt (src : Nat) (rsp : PeerResponse) : Statement (.responsePkt src rsp) := event rfl
theorem sackPkt (flow : Nat) (base : Nat) (cum : Nat) (map : Word) : Statement (.sackPkt flow base cum map) := event rfl
theorem sackDue (flow : Nat) : Statement (.sackDue flow) := event rfl
theorem packetReserved (kind : Nat) : Statement (.packetReserved kind) := event rfl
theorem retransmitTimeout (flow : Nat) (seq : Nat) : Statement (.retransmitTimeout flow seq) := event rfl
theorem peerUnreachable (flow : Nat) : Statement (.peerUnreachable flow) := event rfl
theorem portFailure (port : Nat) : Statement (.portFailure port) := event rfl
theorem portReady (port : Nat) : Statement (.portReady port) := event rfl
theorem flitGroup (port : Nat) (slot : Bool) (seq : Nat) (tagOk : Bool) (flow : Nat) (pseq : Nat) : Statement (.flitGroup port slot seq tagOk flow pseq) := event rfl
theorem linkNak (port : Nat) (seq : Nat) : Statement (.linkNak port seq) := event rfl
theorem keyRotate (port : Nat) : Statement (.keyRotate port) := event rfl
theorem keySlotClear (port : Nat) : Statement (.keySlotClear port) := event rfl
theorem postPkt (rec : Rec8) (atime : Nat) : Statement (.postPkt rec atime) := event rfl
theorem harpTick : Statement (.harpTick) := event rfl
theorem harpLoss (did : Nat) : Statement (.harpLoss did) := event rfl
theorem eventPkt (rec : Rec8) : Statement (.eventPkt rec) := event rfl
theorem resendPkt (src : Nat) (seqs : Nat × Nat) : Statement (.resendPkt src seqs) := event rfl
theorem missingEventTimeout : Statement (.missingEventTimeout) := event rfl
theorem applySubmit : Statement (.applySubmit) := event rfl
theorem applyFinish : Statement (.applyFinish) := event rfl
theorem applyBlock : Statement (.applyBlock) := event rfl
theorem applyUnblock : Statement (.applyUnblock) := event rfl
theorem applyFault : Statement (.applyFault) := event rfl
theorem applyLoss : Statement (.applyLoss) := event rfl
theorem applyJoin : Statement (.applyJoin) := event rfl
theorem applyReserve : Statement (.applyReserve) := event rfl
theorem applyGrant : Statement (.applyGrant) := event rfl
theorem applyReclaim : Statement (.applyReclaim) := event rfl
theorem applyReturn : Statement (.applyReturn) := event rfl
theorem applyDone : Statement (.applyDone) := event rfl
theorem applyRevoke : Statement (.applyRevoke) := event rfl
theorem applyTick : Statement (.applyTick) := event rfl
theorem applyUser : Statement (.applyUser) := event rfl
theorem applyReservedEvent : Statement (.applyReservedEvent) := event rfl
theorem reportPkt (src : Nat) (seq : Nat) (dig : Word) : Statement (.reportPkt src seq dig) := event rfl
theorem snapreq (src : Nat) (s0 : Nat) : Statement (.snapreq src s0) := event rfl
theorem snapPkt (src : Nat) (snap : SnapPart) : Statement (.snapPkt src snap) := event rfl
theorem lyreReady : Statement (.lyreReady) := event rfl
theorem leasereqPacket (src : Nat) (tag : Nat) (bound : Nat) (npages : Nat) (term : Nat) (fbtab : Word) (bbase : Word) : Statement (.leasereqPacket src tag bound npages term fbtab bbase) := event rfl
theorem leasenak (tag : Nat) : Statement (.leasenak tag) := event rfl
theorem leaseFillChunk (lid : Nat) : Statement (.leaseFillChunk lid) := event rfl
theorem leaseCopybackChunk (lid : Nat) (dirty : List Nat) : Statement (.leaseCopybackChunk lid dirty) := event rfl
theorem leaseDeadline (lid : Nat) : Statement (.leaseDeadline lid) := event rfl
theorem interestPacket (src : Nat) (name : TileName) (size : Nat) (deadline : Nat) : Statement (.interestPacket src name size deadline) := event rfl
theorem tilePkt (src : Nat) (name : TileName) (size : Nat) (idx : Nat) (marks : List Origin) (data : List Byte) : Statement (.tilePkt src name size idx marks data) := event rfl
theorem interestRetry (id : Nat) : Statement (.interestRetry id) := event rfl
theorem waiterExpiry (id : Nat) : Statement (.waiterExpiry id) := event rfl
theorem notifyPkt (ia : Nat) (k : Nat) : Statement (.notifyPkt ia k) := event rfl
theorem ctxCreate (w0 : Word) : Statement (.ctxCreate w0) := event rfl
theorem ctxDestroy (w0 : Word) : Statement (.ctxDestroy w0) := event rfl
theorem keyInstall (ctx : Nat) : Statement (.keyInstall ctx) := event rfl
theorem resetRelease (ed25519 : Bool) (mldsa65 : Bool) : Statement (.resetRelease ed25519 mldsa65) := event rfl
theorem startCheck : Statement (.startCheck) := event rfl
theorem functionReady (fn : Function) : Statement (.functionReady fn) := event rfl
theorem functionFail (fn : Function) : Statement (.functionFail fn) := event rfl
theorem functionDisable (fn : Function) : Statement (.functionDisable fn) := event rfl
theorem functionEnable (fn : Function) (fails : Bool) : Statement (.functionEnable fn fails) := event rfl
theorem powerAverage (watts : Nat) : Statement (.powerAverage watts) := event rfl
theorem thermalReset : Statement (.thermalReset) := event rfl
theorem registerWrite (reg : MgmtReg) (val : Word) : Statement (.registerWrite reg val) := event rfl
theorem pollAttemptResolved (k : Nat) : Statement (.pollAttemptResolved k) := event rfl
theorem sigwaitReadResult (k : Nat) : Statement (.sigwaitReadResult k) := event rfl

end Sys2Proof.Laws.RoundTrip
end

