-- ==== Sys2Proof/Laws/View.lean ====
section
/-! SUPPORT. What a read of the management interface answers, bit by bit. -/

namespace Sys2Proof.Machine

theorem getLsbD_foldr_bits (f : Nat → Bool) (l : List Nat) (i : Nat) (hi : i < 64) :
    (l.foldr (fun k (w : Word) => if f k then w ||| BitVec.twoPow 64 k else w) 0).getLsbD i = (decide (i ∈ l) && f i) := by
  induction l with
  | nil => simp
  | cons k l ih =>
    by_cases hk : f k <;> by_cases e : i = k <;> simp [hk, e, hi, BitVec.getLsbD_twoPow, Ne.symm] <;> simp_all

/-- A bit of a word built from its bits. -/
theorem getLsbD_wordOf (f : Nat → Bool) (i : Nat) (hi : i < 64) : (wordOf f).getLsbD i = f i :=
  (getLsbD_foldr_bits f _ i hi).trans (by simp [hi])

end Sys2Proof.Machine
end

