-- ==== Sys2Proof/Tests/Slice0.lean ====
section
/-! SUPPORT. The tests: words written out from the field tables and the opcode map of the spec decode to their instructions
(R22 to R45), ill-formed terms are refused, small steps give what the rules say, and every premise of the statements is met
by a concrete state. -/

namespace Sys2Proof.Tests

set_option Elab.async false

open Sys2Proof Sys2Proof.Machine

/-! ## Words (R22 to R45) -/

/-- A field that an operation does not use. -/
def z : Opnd := .v 0

/-- The predicate of a four-bit field. -/
def prd (n : Nat) : Pred := { neg := decide (8 ≤ n), reg := BitVec.ofNat 3 n }
def oO (p : Nat) (d a b c : Opnd) (m : BitVec 6) : OpO := { pr := prd p, d := d, a := a, b := b, c := c, m := m }
def oI (p : Nat) (d a : Opnd) (imm : W32) : OpI := { pr := prd p, d := d, a := a, imm := imm }
def oM (p : Nat) (d : Opnd) (aS : Bool) (a : BitVec 8) (off : BitVec 20) (scope : BitVec 3) (f n w q : Bool) : OpM :=
  { pr := prd p, d := d, aS := aS, a := a, off := off, scope := scope, fresh := f, nc := n, wb := w, promote := q }

/-- Every word decodes, in a warp with every register and bound, to the instruction beside it, which encodes to it. -/
def reads (es : List (Word × Instr)) : Bool :=
  es.all fun e => decide (decodeWord (openEnv (lastOnly e.2).isSome) e.1 0 = .ok e.2) && decide (encode e.2 = [e.1]) &&
    WellFormed e.2

def words_integer : List (Word × Instr) := [
    (0x0170101500000003, .iaddI (oI 7 (.s 1) (.s 1) 0x3)),
    (0x05902000FFFFFFFF, .movI (oI 9 (.v 2) z 0xFFFFFFFF)),
    (0x06702010000000FF, .andI (oI 7 (.v 2) (.v 1) 0xFF)),
    (0x077023F580000000, .orI (oI 7 (.s 2) (.s 63) 0x80000000)),
    (0x087FF01000000001, .xorI (oI 7 (.v 255) (.v 1) 0x1)),
    (0x09F03041FFFFFFF9, .imulI (oI 15 (.v 3) (.s 4) 0xFFFFFFF9)),
    (0x0270201FF0000318, .iadd (oO 7 (.v 2) (.v 1) (.l 255) z 24)),
    (0x0270201040004400, .isub (oO 7 (.v 2) (.s 1) (.v 4) z 0)),
    (0x02704060803081A0, .iaddc (oO 7 (.v 4) (.v 6) (.s 8) (.p 3) 32)),
    (0x027010203000D530, .imul (oO 7 (.s 1) (.s 2) (.s 3) z 48)),
    (0x0270102030010010, .imulh (oO 7 (.v 1) (.v 2) (.v 3) z 16)),
    (0x02702040609140E0, .imad (oO 7 (.v 2) (.v 4) (.v 6) (.l 9) 32)),
    (0x0270107020018C00, .idiv (oO 7 (.v 1) (.l 7) (.v 2) z 0)),
    (0x027010207001C300, .irem (oO 7 (.v 1) (.v 2) (.l 7) z 0)),
    (0x0270102030020010, .imin (oO 7 (.v 1) (.v 2) (.v 3) z 16)),
    (0x0270204060024020, .imax (oO 7 (.v 2) (.v 4) (.v 6) z 32)),
    (0x0270102000028018, .iabs (oO 7 (.v 1) (.v 2) z z 24)),
    (0x027010200002C000, .ineg (oO 7 (.v 1) (.v 2) z z 0)),
    (0x027010203043000B, .idot4 (oO 7 (.v 1) (.v 2) (.v 3) (.v 4) 11)),
    (0x0270102030434010, .sad (oO 7 (.v 1) (.v 2) (.v 3) (.v 4) 16)),
    (0x0370201030000000, .andB (oO 7 (.v 2) (.v 1) (.v 3) z 0)),
    (0x0370201030004000, .orB (oO 7 (.v 2) (.v 1) (.v 3) z 0)),
    (0x0370201030008000, .xorB (oO 7 (.v 2) (.v 1) (.v 3) z 0)),
    (0x037020103000C000, .andnB (oO 7 (.v 2) (.v 1) (.v 3) z 0)),
    (0x0370201000010000, .notB (oO 7 (.v 2) (.v 1) z z 0)),
    (0x0370201030014000, .shl (oO 7 (.v 2) (.v 1) (.v 3) z 0)),
    (0x0370201030018000, .shr (oO 7 (.v 2) (.v 1) (.v 3) z 0)),
    (0x037020103001C000, .sar (oO 7 (.v 2) (.v 1) (.v 3) z 0)),
    (0x0370201030020000, .rotl (oO 7 (.v 2) (.v 1) (.v 3) z 0)),
    (0x03702010305240C0, .fshl (oO 7 (.v 2) (.v 1) (.v 3) (.l 5) 0)),
    (0x0370201000028000, .popc (oO 7 (.v 2) (.v 1) z z 0)),
    (0x037020100002C000, .clz (oO 7 (.v 2) (.v 1) z z 0)),
    (0x0370201000030000, .ctz (oO 7 (.v 2) (.v 1) z z 0)),
    (0x0370201000034000, .brev (oO 7 (.v 2) (.v 1) z z 0)),
    (0x03702010305380C0, .bfx (oO 7 (.v 2) (.v 1) (.v 3) (.l 5) 0)),
    (0x037020103053C0C0, .bfi (oO 7 (.v 2) (.v 1) (.v 3) (.l 5) 0)),
    (0x03702010305400C0, .prmt (oO 7 (.v 2) (.v 1) (.v 3) (.l 5) 0)),
    (0x0470101040002302, .icmp (oO 7 (.p 1) (.v 1) (.l 4) z 2)),
    (0x0470308070104080, .isel (oO 7 (.v 3) (.v 8) (.v 7) (.p 1) 0)),
    (0x047010501000AA03, .pset (oO 7 (.p 1) (.p 5) (.p 1) z 3)),
    (0x043050600000D430, .mov (oO 3 (.s 5) (.s 6) z z 48)),
    (0x04704040102104C0, .lea (oO 7 (.v 4) (.s 4) (.v 1) (.l 2) 0))]
theorem test_words_integer : reads words_integer = true := by decide

def words_float : List (Word × Instr) := [
    (0x3070406020000103, .fadd false (oO 7 (.v 4) (.v 6) (.s 2) z 3)),
    (0x3070406020004103, .fsub false (oO 7 (.v 4) (.v 6) (.s 2) z 3)),
    (0x3070406020008103, .fmul false (oO 7 (.v 4) (.v 6) (.s 2) z 3)),
    (0x307040602080C103, .ffma false (oO 7 (.v 4) (.v 6) (.s 2) (.v 8) 3)),
    (0x3070406020010101, .fmin false (oO 7 (.v 4) (.v 6) (.s 2) z 1)),
    (0x3070406020014100, .fmax false (oO 7 (.v 4) (.v 6) (.s 2) z 0)),
    (0x307020602001A107, .fcmp false (oO 7 (.p 2) (.v 6) (.s 2) z 7)),
    (0x307040600001C000, .fclass false (oO 7 (.v 4) (.v 6) z z 0)),
    (0x307040600002000B, .frnd false (oO 7 (.v 4) (.v 6) z z 11)),
    (0x3170406020000103, .fadd true (oO 7 (.v 4) (.v 6) (.s 2) z 3)),
    (0x3170406020004103, .fsub true (oO 7 (.v 4) (.v 6) (.s 2) z 3)),
    (0x3170406020008103, .fmul true (oO 7 (.v 4) (.v 6) (.s 2) z 3)),
    (0x317040602080C103, .ffma true (oO 7 (.v 4) (.v 6) (.s 2) (.v 8) 3)),
    (0x3170406020010101, .fmin true (oO 7 (.v 4) (.v 6) (.s 2) z 1)),
    (0x3170406020014100, .fmax true (oO 7 (.v 4) (.v 6) (.s 2) z 0)),
    (0x317020602001A107, .fcmp true (oO 7 (.p 2) (.v 6) (.s 2) z 7)),
    (0x317040600001C000, .fclass true (oO 7 (.v 4) (.v 6) z z 0)),
    (0x317040600002000B, .frnd true (oO 7 (.v 4) (.v 6) z z 11)),
    (0x3270102030000004, .fdiv false (oO 7 (.v 1) (.v 2) (.v 3) z 4)),
    (0x3270102000004004, .fsqrt false (oO 7 (.v 1) (.v 2) z z 4)),
    (0x3270102000008004, .frcp (oO 7 (.v 1) (.v 2) z z 4)),
    (0x327010200000C000, .frsq (oO 7 (.v 1) (.v 2) z z 0)),
    (0x3270102000010000, .fexp2 (oO 7 (.v 1) (.v 2) z z 0)),
    (0x3270102000014000, .flog2 (oO 7 (.v 1) (.v 2) z z 0)),
    (0x3270102000018000, .fsinpi (oO 7 (.v 1) (.v 2) z z 0)),
    (0x327010200001C000, .fcospi (oO 7 (.v 1) (.v 2) z z 0)),
    (0x3370204060000001, .fdiv true (oO 7 (.v 2) (.v 4) (.v 6) z 1)),
    (0x3370204000005400, .fsqrt true (oO 7 (.s 2) (.s 4) z z 0)),
    (0x3470102030000008, .hadd2 (oO 7 (.v 1) (.v 2) (.v 3) z 8)),
    (0x3470102030004104, .hmul2 (oO 7 (.v 1) (.v 2) (.s 3) z 4)),
    (0x3470601020308008, .hfma2 (oO 7 (.v 6) (.v 1) (.v 2) (.v 3) 8)),
    (0x3570102000000001, .mxscan (oO 7 (.v 1) (.v 2) z z 1)),
    (0x3670102000000000, .pack6 (oO 7 (.v 1) (.v 2) z z 0)),
    (0x3670102000004000, .unpk6 (oO 7 (.v 1) (.v 2) z z 0)),
    (0x3670102000008000, .pack4 (oO 7 (.v 1) (.v 2) z z 0)),
    (0x367010200000C000, .unpk4 (oO 7 (.v 1) (.v 2) z z 0)),
    (0x4270201000004001, .cvt 2 1 (oO 7 (.v 2) (.v 1) z z 1)),
    (0x4C70204000000002, .cvt 12 0 (oO 7 (.v 2) (.v 4) z z 2)),
    (0x5670201030004100, .cvtq 6 1 (oO 7 (.v 2) (.v 1) (.s 3) z 0)),
    (0x507020103001C000, .cvtq 0 7 (oO 7 (.v 2) (.v 1) (.v 3) z 0))]
theorem test_words_float : reads words_float = true := by decide

def words_control : List (Word × Instr) := [
    (0x60100000FFFFFFF2, .bra (oI 1 z z 0xFFFFFFF2)),
    (0x6170004000000000, .brx (oO 7 z (.v 4) z z 0)),
    (0x6270000000000005, .call (oI 7 z z 0x5)),
    (0x6370004000000400, .callx (oO 7 z (.s 4) z z 0)),
    (0x6470000000000000, .ret (oO 7 z z z z 0)),
    (0x6590000000000000, .exit (oO 9 z z z z 0)),
    (0x6670000000000000, .nop (oO 7 z z z z 0)),
    (0x6770000000000000, .hintNext (oO 7 z z z z 0)),
    (0x6770004000004400, .hintFar (oO 7 z (.s 4) z z 0)),
    (0x6770000000008000, .hintLikely (oO 7 z z z z 0)),
    (0x677000000000C000, .hintUnlikely (oO 7 z z z z 0))]
theorem test_words_control : reads words_control = true := by decide

def words_memory : List (Word × Instr) := [
    (0x7070604000001000, .ld .u32 (oM 7 (.v 6) false 4 0x0 0 false false false false)),
    (0x7070802FFFF80C41, .ld .s16 (oM 7 (.v 8) true 2 0xFFFF8 0 true false false false)),
    (0x7170604000401411, .st .u64 (oM 7 (.v 6) true 4 0x40 0 false false true false)),
    (0x7170804000101820, .st .b128 (oM 7 (.v 8) false 4 0x10 0 false true false false)),
    (0x7270302000001000, .lds .u32 (oM 7 (.v 3) false 2 0x0 0 false false false false)),
    (0x7370302FFFFF0001, .sts .u8 (oM 7 (.v 3) true 2 0xFFFFF 0 false false false false)),
    (0x74703027FFFF0400, .ldk .s8 (oM 7 (.v 3) false 2 0x7FFFF 0 false false false false)),
    (0x7570302800000800, .stk .u16 (oM 7 (.v 3) false 2 0x80000 0 false false false false)),
    (0x7670604000001403, .ldw .u64 (oM 7 (.s 6) true 4 0x0 0 false false false false)),
    (0x7670604000201823, .ldw .b128 (oM 7 (.s 6) true 4 0x20 0 false true false false)),
    (0x7770004000800000, .prefL1 (oM 7 z false 4 0x80 0 false false false false)),
    (0x7770004FFF800401, .prefL2 (oM 7 z true 4 0xFFF80 0 false false false false))]
theorem test_words_memory : reads words_memory = true := by decide

def words_lanes : List (Word × Instr) := [
    (0x8070402040200381, .shflFrom (oO 7 (.v 4) (.v 2) (.l 4) (.p 2) 1)),
    (0x8070402040204381, .shflRot (oO 7 (.v 4) (.v 2) (.l 4) (.p 2) 1)),
    (0x8070402040208381, .shflShift (oO 7 (.v 4) (.v 2) (.l 4) (.p 2) 1)),
    (0x807040204020C381, .shflFlip (oO 7 (.v 4) (.v 2) (.l 4) (.p 2) 1)),
    (0x8170201000002800, .voteOr (oO 7 (.p 2) (.p 1) z z 0)),
    (0x8170201000006800, .voteAnd (oO 7 (.p 2) (.p 1) z z 0)),
    (0x817020100000A800, .voteSame (oO 7 (.p 2) (.p 1) z z 0)),
    (0x8170F0100000D800, .voteMask (oO 7 (.s 15) (.p 1) z z 0)),
    (0x8270402000000028, .reduxAdd (oO 7 (.v 4) (.v 2) z z 40)),
    (0x8270402000004010, .reduxMin (oO 7 (.v 4) (.v 2) z z 16)),
    (0x8270402000008010, .reduxMax (oO 7 (.v 4) (.v 2) z z 16)),
    (0x827040200000C010, .reduxAnd (oO 7 (.v 4) (.v 2) z z 16)),
    (0x8270402000010010, .reduxOr (oO 7 (.v 4) (.v 2) z z 16)),
    (0x8270402000014010, .reduxXor (oO 7 (.v 4) (.v 2) z z 16)),
    (0x8370402000000028, .scanAdd (oO 7 (.v 4) (.v 2) z z 40)),
    (0x8370402000004010, .scanMin (oO 7 (.v 4) (.v 2) z z 16)),
    (0x8370402000008010, .scanMax (oO 7 (.v 4) (.v 2) z z 16)),
    (0x837040200000C010, .scanAnd (oO 7 (.v 4) (.v 2) z z 16)),
    (0x8370402000010010, .scanOr (oO 7 (.v 4) (.v 2) z z 16)),
    (0x8370402000014010, .scanXor (oO 7 (.v 4) (.v 2) z z 16)),
    (0x8470401000200080, .matchPeers (oO 7 (.v 4) (.v 1) z (.p 2) 0)),
    (0x8470402000204081, .matchLead (oO 7 (.v 4) (.v 2) z (.p 2) 1)),
    (0x8570400000002000, .elect (oO 7 (.p 4) z z z 0)),
    (0x8670008000000C00, .partset (oO 7 z (.l 8) z z 0)),
    (0x8770100000001000, .exmget (oO 7 (.s 1) z z z 0)),
    (0x8870001000000400, .exmset (oO 7 z (.s 1) z z 0)),
    (0x8D70100000000000, .lvlid 0 (oO 7 (.v 1) z z z 0)),
    (0x8D70100000004000, .lvlid 1 (oO 7 (.v 1) z z z 0)),
    (0x8D70100000008000, .lvlid 2 (oO 7 (.v 1) z z z 0)),
    (0x8D7010000000C000, .lvlid 3 (oO 7 (.v 1) z z z 0)),
    (0x8D70100000010000, .lvlid 4 (oO 7 (.v 1) z z z 0)),
    (0x8D70100000014000, .lvlid 5 (oO 7 (.v 1) z z z 0)),
    (0x8D70100000018000, .lvlid 6 (oO 7 (.v 1) z z z 0)),
    (0x8D7010000001D000, .lvlid 7 (oO 7 (.s 1) z z z 0)),
    (0x8D70100000020000, .lvlidLane (oO 7 (.v 1) z z z 0))]
theorem test_words_lanes : reads words_lanes = true := by decide

def words_sync : List (Word × Instr) := [
    (0x8970300000002F08, .bar (oO 7 (.p 3) (.l 0) (.l 0) z 8)),
    (0x89700010F0004738, .bara (oO 7 z (.s 1) (.l 15) z 56)),
    (0x897070F00000AC10, .barw (oO 7 (.p 7) (.l 15) z z 16)),
    (0x8A701080704025C8, .poll (oO 7 (.p 1) (.s 8) (.s 7) (.l 4) 8)),
    (0x8B70000000000000, .yield (oO 7 z z z z 0)),
    (0x8C70400000101080, .taskget (oO 7 (.s 4) z z (.p 1) 0)),
    (0x8C70000000004000, .taskdone (oO 7 z z z z 0))]
theorem test_words_sync : reads words_sync = true := by decide

def words_atomics : List (Word × Instr) := [
    (0x9070604020C000D0, .atomAdd (oO 7 (.v 6) (.v 4) (.v 2) (.l 12) 16)),
    (0x93706040201003C0, .atomsAdd (oO 7 (.v 6) (.v 4) (.l 2) (.l 1) 0)),
    (0x94700040114000C0, .redAdd (oO 7 z (.v 4) (.v 1) (.l 20) 0)),
    (0x9070604020C040E0, .atomMin (oO 7 (.v 6) (.v 4) (.v 2) (.l 12) 32)),
    (0x93706040201043C0, .atomsMin (oO 7 (.v 6) (.v 4) (.l 2) (.l 1) 0)),
    (0x94700040114040C0, .redMin (oO 7 z (.v 4) (.v 1) (.l 20) 0)),
    (0x9070604020C080D0, .atomMax (oO 7 (.v 6) (.v 4) (.v 2) (.l 12) 16)),
    (0x93706040201083C0, .atomsMax (oO 7 (.v 6) (.v 4) (.l 2) (.l 1) 0)),
    (0x94700040114080C0, .redMax (oO 7 z (.v 4) (.v 1) (.l 20) 0)),
    (0x9070604020C0C0E0, .atomAnd (oO 7 (.v 6) (.v 4) (.v 2) (.l 12) 32)),
    (0x937060402010C3C0, .atomsAnd (oO 7 (.v 6) (.v 4) (.l 2) (.l 1) 0)),
    (0x947000401140C0C0, .redAnd (oO 7 z (.v 4) (.v 1) (.l 20) 0)),
    (0x9070604020C100D0, .atomOr (oO 7 (.v 6) (.v 4) (.v 2) (.l 12) 16)),
    (0x93706040201103C0, .atomsOr (oO 7 (.v 6) (.v 4) (.l 2) (.l 1) 0)),
    (0x94700040114100C0, .redOr (oO 7 z (.v 4) (.v 1) (.l 20) 0)),
    (0x9070604020C140E0, .atomXor (oO 7 (.v 6) (.v 4) (.v 2) (.l 12) 32)),
    (0x93706040201143C0, .atomsXor (oO 7 (.v 6) (.v 4) (.l 2) (.l 1) 0)),
    (0x94700040114140C0, .redXor (oO 7 z (.v 4) (.v 1) (.l 20) 0)),
    (0x9070604020C180D0, .atomExch (oO 7 (.v 6) (.v 4) (.v 2) (.l 12) 16)),
    (0x93706040201183C0, .atomsExch (oO 7 (.v 6) (.v 4) (.l 2) (.l 1) 0)),
    (0x9070604020C1C0E0, .atomInc (oO 7 (.v 6) (.v 4) (.v 2) (.l 12) 32)),
    (0x937060402011C3C0, .atomsInc (oO 7 (.v 6) (.v 4) (.l 2) (.l 1) 0)),
    (0x9070604020C200D0, .atomDec (oO 7 (.v 6) (.v 4) (.v 2) (.l 12) 16)),
    (0x93706040201203C0, .atomsDec (oO 7 (.v 6) (.v 4) (.l 2) (.l 1) 0)),
    (0x91706040204004C0, .atomfAdd (oO 7 (.v 6) (.s 4) (.v 2) (.l 4) 0)),
    (0x91706040204044D0, .atomfMin (oO 7 (.v 6) (.s 4) (.v 2) (.l 4) 16)),
    (0x91706040204084D0, .atomfMax (oO 7 (.v 6) (.s 4) (.v 2) (.l 4) 16)),
    (0x9270804061C004E0, .cas (oO 7 (.v 8) (.s 4) (.v 6) (.l 28) 32)),
    (0x9570000000000012, .fence (oO 7 z z z z 18)),
    (0x9670604000001209, .ldacq .u32 (oM 7 (.v 6) true 4 0x0 4 false false false true)),
    (0x9770604000001600, .strel .u64 (oM 7 (.v 6) false 4 0x0 4 false false false false)),
    (0x9870108040002F00, .tryOpen (oO 7 (.p 1) (.l 8) (.l 4) z 0)),
    (0x9970200000002004, .commit (oO 7 (.p 2) z z z 4)),
    (0x9A70005000000C00, .abort (oO 7 z (.l 5) z z 0)),
    (0x9B70000002000100, .wait (oI 7 z z 0x2000100)),
    (0x9C70004000000081, .cctlInv (oM 7 z true 4 0x0 1 false false false false)),
    (0x9C70004000000601, .cctlWb (oM 7 z true 4 0x0 4 false false false false)),
    (0x9C70004000000A01, .cctlWbinv (oM 7 z true 4 0x0 4 false false false false))]
theorem test_words_atomics : reads words_atomics = true := by decide

def words_engines : List (Word × Instr) := [
    (0xA070506050003500, .tcopyLd (oO 7 (.l 5) (.s 6) (.s 5) z 0)),
    (0xA070506050001501, .tcopySt (oO 7 (.s 5) (.s 6) (.s 5) z 1)),
    (0xA173F0605000350C, .scopy (oO 7 (.l 63) (.s 6) (.s 5) z 12)),
    (0xA270102030F035C0, .mcast (oO 7 (.l 1) (.s 2) (.s 3) (.l 15) 0)),
    (0xA370102000003400, .chain (oO 7 (.l 1) (.s 2) z z 0)),
    (0xA470002030000500, .qinit (oO 7 z (.s 2) (.s 3) z 0)),
    (0xA5701020303035C0, .qpush (oO 7 (.l 1) (.s 2) (.s 3) (.l 3) 0)),
    (0xA670102030C015C0, .qpop (oO 7 (.s 1) (.s 2) (.s 3) (.l 12) 0)),
    (0xA770100080000001, .tagany (oI 7 (.v 1) z 0x80000001)),
    (0xA870003100000000, .tagall (oI 7 z (.s 3) 0x0)),
    (0xA970102000000403, .tagff (oO 7 (.v 1) (.s 2) z z 3)),
    (0xAA700000FFFFFFFF, .tagclr (oI 7 z z 0xFFFFFFFF)),
    (0xAB70820000003C00, .accz (oO 7 (.l 8) (.l 32) z z 0)),
    (0xAC70400100000F00, .accmvV (oO 7 (.v 4) (.l 0) (.l 16) z 0)),
    (0xAC70408100001101, .accmvA (oO 7 (.s 4) (.v 8) (.s 16) z 1)),
    (0xAD70200031103DC2, .accst (oO 7 (.l 2) (.l 0) (.s 3) (.l 17) 2)),
    (0xAE70204000001400, .tmac (oO 7 (.s 2) (.s 4) z z 0)),
    (0xAF70002030400542, .txpose (oO 7 z (.s 2) (.s 3) (.s 4) 2)),
    (0xB070002030013504, .mma 0 4 (oO 7 (.l 0) (.s 2) (.s 3) z 4)),
    (0xB470102030411540, .mmloop 0 4 (oO 7 (.s 1) (.s 2) (.s 3) (.s 4) 0)),
    (0xB170002030007504, .mma 1 1 (oO 7 (.l 0) (.s 2) (.s 3) z 4)),
    (0xB570102030405540, .mmloop 1 1 (oO 7 (.s 1) (.s 2) (.s 3) (.s 4) 0)),
    (0xB27000203003B504, .mma 2 14 (oO 7 (.l 0) (.s 2) (.s 3) z 4)),
    (0xB670102030439540, .mmloop 2 14 (oO 7 (.s 1) (.s 2) (.s 3) (.s 4) 0)),
    (0xB370002030063504, .mma 3 24 (oO 7 (.l 0) (.s 2) (.s 3) z 4)),
    (0xB770102030461540, .mmloop 3 24 (oO 7 (.s 1) (.s 2) (.s 3) (.s 4) 0))]
theorem test_words_engines : reads words_engines = true := by decide

def words_system : List (Word × Instr) := [
    (0xC0700FF000000C00, .trap (oO 7 z (.l 255) z z 0)),
    (0xC170000000000000, .rtt (oO 7 z z z z 0)),
    (0xC27010000001D000, .srd 7 (oO 7 (.s 1) z z z 0)),
    (0xC27010000009C000, .srd 39 (oO 7 (.v 1) z z z 0)),
    (0xC37001000000CC00, .swr 3 (oO 7 z (.l 16) z z 0)),
    (0xC370005000090400, .swr 36 (oO 7 z (.s 5) z z 0)),
    (0xC470100000002000, .vbegin (oO 7 (.p 1) z z z 0)),
    (0xC570100000002000, .vend (oO 7 (.p 1) z z z 0)),
    (0xC670000000000000, .bkpt (oO 7 z z z z 0)),
    (0xC770302040003500, .wpset (oO 7 (.l 3) (.s 2) (.s 4) z 0)),
    (0xC870100000002010, .halta (oO 7 (.p 1) z z z 16)),
    (0xC970102040002500, .dumpw (oO 7 (.p 1) (.s 2) (.s 4) z 0)),
    (0xCA70002FF0000700, .tlbinv (oO 7 z (.s 2) (.l 255) z 0))]
theorem test_words_system : reads words_system = true := by decide

def words_devices : List (Word × Instr) := [
    (0xD070102040603540, .interest (oO 7 (.l 1) (.s 2) (.s 4) (.s 6) 0)),
    (0xD170102040601540, .announce (oO 7 (.s 1) (.s 2) (.s 4) (.s 6) 0)),
    (0xD270102000003400, .leasereq (oO 7 (.l 1) (.s 2) z z 0)),
    (0xD370102040003500, .leaseret (oO 7 (.l 1) (.s 2) (.s 4) z 0)),
    (0xD4700020114007C0, .signal (oO 7 z (.s 2) (.l 1) (.l 20) 0)),
    (0xD570102010D027C0, .sigwait (oO 7 (.p 1) (.s 2) (.l 1) (.l 13) 0)),
    (0xD6700020404000C0, .xscale (oO 7 z (.v 2) (.v 4) (.l 4) 0)),
    (0xD7700020404005C5, .xsum (oO 7 z (.s 2) (.s 4) (.l 4) 5)),
    (0xD870402000C000D8, .xfin (oO 7 (.v 4) (.v 2) z (.l 12) 24)),
    (0xD970102000003400, .evpost (oO 7 (.l 1) (.s 2) z z 0)),
    (0xDA70206000101481, .digest (oO 7 (.s 2) (.s 6) z (.p 1) 1))]
theorem test_words_devices : reads words_devices = true := by decide
/-- MOVL with its literal (R28, R73), the instruction before the last word of its block, and the same as the last word. -/
theorem test_word_movl :
    decodeWord (openEnv false) 0x0A70700000001020 0x123456789ABCDEF0 =
      .ok (.movl (oO 7 (.s 7) z z z 0x20) 0x123456789ABCDEF0) ∧
    decodeWord (openEnv true) 0x0A70700000001020 0 ≠ .ok (.movl (oO 7 (.s 7) z z z 0x20) 0) := by decide

/-- Words that the manual prints beside their assembly text. -/
theorem test_words_printed : reads [
    (0x0170101500000003, .iaddI (oI 7 (.s 1) (.s 1) 3)),                           -- IADD s1, s1, 3
    (0x04704040102104C0, .lea (oO 7 (.v 4) (.s 4) (.v 1) (.l 2) 0)),               -- LEA v4:v5, s4, v1, 2
    (0x307040102030C000, .ffma false (oO 7 (.v 4) (.v 1) (.v 2) (.v 3) 0)),        -- FFMA.f32.rn v4, v1, v2, v3
    (0x307010102001A002, .fcmp false (oO 7 (.p 1) (.v 1) (.v 2) z 2)),             -- FCMP.lt.f32 p1, v1, v2
    (0x4270201000004000, .cvt 2 1 (oO 7 (.v 2) (.v 1) z z 0)),                     -- CVT.bf16.f32.rn v2, v1
    (0x6090000000000005, .bra (oI 9 z z 5)),                                       -- (!p1) BRA step
    (0x7170604000401401, .st .u64 (oM 7 (.v 6) true 4 0x40 0 false false false false)), -- ST.u64 [s4+0x40], v6:v7
    (0x80704020B070C180, .shflFlip (oO 7 (.v 4) (.v 2) (.s 11) (.p 7) 0)),         -- SHFL.flip v4, v2, s11
    (0x8970300000002F08, .bar (oO 7 (.p 3) (.l 0) (.l 0) z 8)),                    -- BAR.l1 p3, 0, 0
    (0x9270804061C004E0, .cas (oO 7 (.v 8) (.s 4) (.v 6) (.l 28) 0x20)),           -- CAS.u64.ar.dev v8:v9, [s4], v6:v7
    (0x9670604000001209, .ldacq .u32 (oM 7 (.v 6) true 4 0 4 false false false true)), -- LDACQ.u32.dev.promote v6, [s4+0]
    (0x9870108040002F00, .tryOpen (oO 7 (.p 1) (.l 8) (.l 4) z 0)),                -- TRY p1, 8, 4
    (0x9B70000002000100, .wait (oI 7 z z 0x02000100)),                             -- WAIT 2, 0, 1, 0
    (0x8A701080704025C8, .poll (oO 7 (.p 1) (.s 8) (.s 7) (.l 4) 8)),              -- POLL.eq.core p1, [s8], s7, 4
    (0xA070506050003500, .tcopyLd (oO 7 (.l 5) (.s 6) (.s 5) z 0))                 -- TCOPY 5, s6, [s5]
  ] = true := by decide

/-- Refusals by name: reserved opcodes (R36), a header word, reserved functions (R37, R41), a
register above s63 (R24), an odd pair (R6), types not implemented together (R259), and the first word of an L form with bits
[19:14] set (R37). -/
theorem test_words_refused :
    decodeWord (openEnv false) 0x0070000000000000 0 = .illegal .reservedOpcode ∧
    decodeWord (openEnv false) 0x4F70000000000000 0 = .illegal .reservedOpcode ∧
    decodeWord (openEnv false) 0xF001FF0000000000 0 = .illegal .headerInBlock ∧
    decodeWord (openEnv false) 0x0270000000038000 0 = .illegal .reservedFunction ∧
    decodeWord (openEnv false) 0x4370000000008000 0 = .ok (.cvt 3 2 (oO 7 z z z z 0)) ∧
    decodeWord (openEnv false) 0x4270000000008000 0 = .illegal .reservedFunction ∧
    decodeWord (openEnv false) 0x0274000000001000 0 = .illegal .reservedField ∧
    decodeWord (openEnv false) 0x0270302040000020 0 = .illegal .registerRange ∧
    decodeWord (openEnv false) 0xB07000203000B500 0 = .illegal .unsupportedTypes ∧
    decodeWord (openEnv false) 0x0A70700000005020 0 = .illegal .reservedField := by decide

/-! ## Ill-formed terms, each refused by one check -/

theorem test_wf_event : WellFormed (.loadComplete 1) = false := by decide
theorem test_wf_width : WellFormed (.ldw .u16 (oM 7 (.s 6) true 4 0 0 false false false false)) = false := by decide
theorem test_wf_pairs : WellFormed (.cvt 2 2 (oO 7 (.v 2) (.v 1) z z 0)) = false ∧
    WellFormed (.cvtq 6 7 (oO 7 (.v 2) (.v 1) (.s 3) z 0)) = false := by decide
theorem test_wf_special : WellFormed (.srd 21 (oO 7 (.s 1) z z z 0)) = false ∧
    WellFormed (.swr 5 (oO 7 z (.s 1) z z 0)) = false := by decide
theorem test_wf_class : WellFormed (.iadd (oO 7 (.p 1) (.v 1) (.v 2) z 0)) = false ∧
    WellFormed (.iadd (oO 7 (.v 1) (.v 1) (.v 2) (.s 0) 0)) = false ∧
    WellFormed (.iadd (oO 7 (.s 1) (.v 1) (.s 2) z 0)) = false := by decide
theorem test_wf_number : WellFormed (.iadd (oO 7 (.s 64) (.s 1) (.s 2) z 0)) = false ∧
    WellFormed (.pset (oO 7 (.p 8) (.p 1) (.p 2) z 0)) = false := by decide
theorem test_wf_type : WellFormed (.iaddc (oO 7 (.v 1) (.v 2) (.v 3) (.p 1) 0x10)) = false ∧
    WellFormed (.imulh (oO 7 (.v 1) (.v 2) (.v 3) z 8)) = false ∧
    WellFormed (.icmp (oO 7 (.p 1) (.v 2) (.v 3) z 6)) = false := by decide
theorem test_wf_rounding : WellFormed (.fadd false (oO 7 (.v 1) (.v 2) (.v 3) z 5)) = false ∧
    WellFormed (.cvt 12 1 (oO 7 (.v 2) (.v 1) z z 8)) = false := by decide
theorem test_wf_immediate : WellFormed (.iaddI (oI 7 (.p 1) (.v 1) 0)) = false ∧
    WellFormed (.iaddI (oI 7 (.s 1) (.v 1) 0)) = false ∧ WellFormed (.movI (oI 7 (.v 1) (.v 1) 0)) = false := by decide
theorem test_wf_pset : WellFormed (.pset (oO 7 (.p 1) (.p 1) (.p 2) z 4)) = false := by decide
theorem test_wf_lea : WellFormed (.lea (oO 7 (.v 4) (.s 4) (.v 1) (.l 64) 0)) = false := by decide
theorem test_wf_branch : WellFormed (.bra (oI 7 (.v 1) z 0)) = false := by decide
theorem test_wf_qualifier : WellFormed (.ld .u32 (oM 7 (.v 6) false 4 0 1 false false false false)) = false ∧
    WellFormed (.lds .u32 (oM 7 (.v 6) false 4 0 0 true false false false)) = false ∧
    WellFormed (.ldacq .u32 (oM 7 (.v 6) false 4 0 1 false false false true)) = false ∧
    WellFormed (.strel .u32 (oM 7 (.v 6) false 4 0 7 false false false false)) = false := by decide
theorem test_wf_base : WellFormed (.ld .u32 (oM 7 (.v 6) true 64 0 0 false false false false)) = false := by decide
theorem test_wf_partition : WellFormed (.partset (oO 7 z (.l 3) z z 0)) = false := by decide
theorem test_wf_barrier : WellFormed (.bar (oO 7 (.p 1) (.l 16) (.l 0) z 8)) = false ∧
    WellFormed (.bar (oO 7 (.p 1) (.l 0) (.l 0) z 0)) = false := by decide
theorem test_wf_poll : WellFormed (.poll (oO 7 (.p 1) (.s 8) (.s 7) (.l 2) 8)) = false := by decide
theorem test_wf_control : WellFormed (.atomAdd (oO 7 (.v 6) (.v 4) (.v 2) (.l 7) 0)) = false ∧
    WellFormed (.atomAdd (oO 7 (.v 6) (.v 4) (.v 2) (.l 0x21) 0)) = false ∧
    WellFormed (.redAdd (oO 7 z (.v 4) (.v 1) (.l 8) 0)) = false ∧
    WellFormed (.atomsAdd (oO 7 (.v 6) (.v 4) (.v 2) (.l 2) 0)) = false := by decide
theorem test_wf_fence : WellFormed (.fence (oO 7 z z z z 0x1C)) = false ∧ WellFormed (.fence (oO 7 z z z z 7)) = false := by
  decide
theorem test_wf_cctl : WellFormed (.cctlWb (oM 7 z true 4 0 2 false false false false)) = false := by decide
theorem test_wf_tag : WellFormed (.tcopyLd (oO 7 (.l 64) (.s 6) (.s 5) z 0)) = false ∧
    WellFormed (.tagany (oI 7 (.v 2) z 0)) = false ∧ WellFormed (.tagany (oI 7 z (.s 1) 1)) = false := by decide
theorem test_wf_mcast : WellFormed (.mcast (oO 7 (.l 1) (.s 2) (.s 3) (.l 16) 0)) = false := by decide
theorem test_wf_queue : WellFormed (.qpush (oO 7 (.l 1) (.s 2) (.s 3) (.l 13) 0)) = false := by decide
theorem test_wf_accumulator : WellFormed (.accz (oO 7 (.l 8) (.l 0) z z 0)) = false ∧
    WellFormed (.accst (oO 7 (.l 2) (.l 0) (.s 3) (.l 0x54) 0)) = false ∧
    WellFormed (.accst (oO 7 (.l 2) (.l 0) (.s 3) (.l 8) 0)) = false := by decide
theorem test_wf_matrix : WellFormed (.mma 0 2 (oO 7 (.l 0) (.s 2) (.s 3) z 0)) = false ∧
    WellFormed (.mma 0 32 (oO 7 (.l 0) (.s 2) (.s 3) z 0)) = false ∧
    WellFormed (.mma 0 7 (oO 7 (.l 0) (.s 2) (.s 3) z 0)) = false := by decide
theorem test_wf_group : WellFormed (.iadd (oO 7 (.v 3) (.v 2) (.v 4) z 0x20)) = false ∧
    WellFormed (.ld .b128 (oM 7 (.v 6) false 4 0 0 false false false false)) = false ∧
    WellFormed (.ldw .b128 (oM 7 (.s 7) true 4 0 0 false false false false)) = false ∧
    WellFormed (.tryOpen (oO 7 (.p 1) (.l 250) (.l 8) z 0)) = false := by decide
theorem test_wf_watchpoint : WellFormed (.wpset (oO 7 (.l 4) (.s 2) (.s 4) z 0)) = false := by decide
theorem test_wf_digest : WellFormed (.digest (oO 7 (.s 63) z z (.p 1) 0)) = false := by decide


/-! ## Premises

One witness for each premise of the statements: `s0` is the first warp of a fresh device at a WAIT, `sL` at a CALL, which
ends its block, and `sPad` has a window of 80 KiB, the first 16 KiB of it the cluster's. -/

def s0 : State := State.reset.withFetchWord 64 0x9B70000000000000
def sL : State := State.reset.withFetchWord 64 0x6270000000000000
def withW (s : State) (f : Warp → Warp) : State := s.setW (f s.w)
def poke (s : State) (va : Nat) (w : Word) : State := s.putLinkWord (ddrKey 0 0 va) w
def pokes (s : State) (ws : List (Nat × Word)) : State := 
  { s with mem := (ws.foldl (fun t e => poke t e.1 e.2) s).mem }
def sPad : State :=
  let l := s0.launch 1
  let lv (dom spad : Nat) : Level := { ext := 1, dom := dom, scope := 1, prio := 0, spad := spad }
  { s0.putCore 0 { s0.core 0 with
      regions := [{ launch := 1, level := 0, unit := 0, base := 0, lines := 128 },
                  { launch := 1, level := 1, unit := 0, base := 128, lines := 512 }] } with
    launches := put {} s0.launches 1 { l with levels := lv 1 16384 :: lv 0 65536 :: l.levels.drop 2 } }
def nextOf (x : Answer) (s : State) : State :=
  match x with
  | .next t => t
  | _ => s
theorem nextOf_eq {x : Answer} {s : State} (h : (match x with | .next _ => true | _ => false) = true) :
    x = .next (nextOf x s) := by cases x <;> simp_all [nextOf]
def okB {α β : Type} (x : Except α β) : Bool := match x with | .ok _ => true | _ => false
def okX (x : Xlate) : Bool := match x with | .ok _ => true | _ => false
theorem isOk {α β : Type} {x : Except α β} (h : okB x = true) : ∃ p, x = .ok p := by cases x <;> simp_all [okB]
theorem isX {x : Xlate} (h : okX x = true) : ∃ p, x = .ok p := by cases x <;> simp_all [okX]
theorem lanes {P : Nat → Prop} (w : Warp) (pr : Pred) (h : ∀ l, l < 32 → (w.holds pr).getLsbD l = true → P l) :
    ∀ l, w.takes pr l → P l := fun l ⟨a, b⟩ => h l a b

def fetchState (x : Fetched) (s : State) : State := match x with | .word _ t => t | _ => s
def fetchIs (x : Fetched) (w : Word) : Bool := match x with | .word y _ => decide (y = w) | _ => false
theorem fetch_eq {x : Fetched} {w : Word} {s : State} (h : fetchIs x w = true) : x = .word w (fetchState x s) := by
  cases x <;> simp_all [fetchIs, fetchState]
/-- The state in which the word at an address has been read. -/
def fetched (s : State) (va : Word) : State := fetchState (s.fetchWord s.w.ctx va) s
theorem fetchTo {s : State} {c : Nat} {va vb w : Word}
    (h : (decide (c = s.w.ctx) && decide (vb = va) && fetchIs (s.fetchWord s.w.ctx va) w) = true) :
    s.fetchWord c vb = .word w (fetched s va) := by
  simp only [Bool.and_eq_true, decide_eq_true_eq] at h
  obtain ⟨⟨h1, h2⟩, h3⟩ := h
  rw [h1, h2]; exact fetch_eq h3
theorem atWord {s u : State} {x va : Word}
    (h : (decide (s = u) && decide (u.w.status = .run) && !(u.core u.cid).dead && !u.w.reread && decide (u.w.wait = .none) &&
      !u.w.ueHalt && decide (u.w.deferred = []) && decide ((u.block u.w.blk).pre ≠ .save) && !u.w.atEntry &&
      decide (u.w.pc = va) && fetchIs (u.fetchWord u.w.ctx va) x && decide (x.extractLsb' 56 8 ≠ 0x0A)) = true) :
    AtWord s x 0 (fetched u va) := by
  simp only [Bool.and_eq_true, Bool.not_eq_true', decide_eq_true_eq] at h
  obtain ⟨⟨⟨⟨⟨⟨⟨⟨⟨⟨⟨rfl, h1⟩, h2⟩, h3⟩, h4⟩, h5⟩, h6⟩, h7⟩, h8⟩, h9⟩, h0⟩, hx⟩ := h
  exact ⟨h1, h2, h3, h4, h5, h6, h7, h8, fetched s va, by rw [h9]; exact fetch_eq h0, by
    rw [if_neg hx]; exact ⟨rfl, rfl⟩⟩
def prepSpot (x : State × Ready) : Spot := match x.2 with | .spot p => p | _ => ⟨0, 0, false, false, 0⟩

theorem prepares {s : State} {n : Need} {ia : Nat} {p : Spot} (h : s.at n ia = .loc p)
    (o : (s.dirEntry (p.ia / 128)).owner = none) : s.prepare n ia = (s, .spot p) := by
  unfold State.prepare State.homeReady; rw [h]; simp [o]

def handlerHeader : Word := plainHeader 2 ||| 8
/-- A handler stands at 0x2000. -/
def trapping : State := poke (s0.putCtx 1 { s0.ctx 1 with tvec := 0x2001 }) 0x2000 handlerHeader
/-- Barrier 3 of level 1 is abandoned. -/
def sBar : State := { s0 with bars := [(barKey 1 1 0 3, { abandoned := true })] }
/-- A job of which the block's chunk holds index 5. -/
def sJob : State :=
  { s0 with launches := put {} s0.launches 1 { s0.launch 1 with job := some ⟨0x3000, 8, 64, 1⟩, chunks := [(0, [5])] } }

/-- The warp waits at barrier 3 of level 0. -/
def sAt (b : Barrier) : State :=
  { withW s0 fun w => { w with wait := .barrier 0 3 0 (.p 1) 0xFFFFFFFF } with bars := [(barKey 1 0 0 3, b)] }
/-- No task remains. -/
def sNoTask : State :=
  { s0 with launches := put {} s0.launches 1 { s0.launch 1 with job := some ⟨0x3000, 8, 64, 1⟩ } }
/-- Two warps of one unit of level 1. -/
def sTwo : State :=
  ({ s0 with launches := put {} s0.launches 1 { s0.launch 1 with levels := { (s0.launch 1).level 0 with ext := 2 } :: (s0.launch 1).levels.drop 1 } } : State).putWarp 1 { s0.w with lin := 1 }
def sHalta : State := withW s0 fun w => { w with wait := .halta [(2, 0)] (.p 1) 0xFFFFFFFF }
theorem noneThere {P : Warp → Prop} {s : State} {a b : Nat} (h : s.warpIn a b = none) :
    ∀ e ∈ [(a, b)], ∀ x, s.warpIn e.1 e.2 = some x → P x := fun e he x hx => by
  cases List.mem_singleton.mp he; rw [h] at hx; cases hx
def sRtt : State := withW s0 fun w => { w with tcause := 0x40000000, epc := 0x1010, tst := { hdr := 0x1000 } }
/-- Some lanes take the branch, to a block without a rejoining header. -/
def sSplit : State := withW s0 fun w => { w with p := [(0, { val := true })] }
def sRet : State := withW s0 fun w => { w with cstk := [0x1018] }
def sDump : State := withW s0 fun w => { w with wait := .dumpw 0 256 (.p 1) 0xFFFFFFFF }
theorem area256 (n : Nat) (h : n ≤ 256) : sDump.areaReady 0 1 0 n = (sDump, true) := by
  have h3 : ceilDiv n 128 = 0 ∨ ceilDiv n 128 = 1 ∨ ceilDiv n 128 = 2 := by unfold ceilDiv; omega
  unfold State.areaReady
  rcases h3 with h3 | h3 | h3 <;> rw [h3] <;> decide
/-- The window's second part starts at 16 KiB; registers hold the operands of the commands: a queue of four 16-byte slots
at 0x4100 with its control word at 0x4000, records at 0x3000 and after. -/
def withS (s : State) (es : List (Nat × Nat)) : State :=
  withW s fun w => { w with s := es.map fun e => (e.1, { val := BitVec.ofNat 64 e.2 }) }
def goState (p : Plan) (s : State) : State := match p with | .go u _ => u | _ => s
def goCmd (p : Plan) : Cmd := match p with | .go _ c => c | _ => { opc := 0, kind := .done }
theorem go_eq {p : Plan} {s : State} (h : (match p with | .go _ _ => true | _ => false) = true) :
    p = .go (goState p s) (goCmd p) := by cases p <;> simp_all [goState, goCmd]
def recState (p : RecRead) (s : State) : State := match p with | .ok u _ => u | .bad u => u | _ => s
def recBytes (p : RecRead) : List Byte := match p with | .ok _ bs => bs | _ => []
theorem rec_eq {p : RecRead} {s : State} (h : (match p with | .ok _ _ => true | _ => false) = true) :
    p = .ok (recState p s) (recBytes p) := by cases p <;> simp_all [recState, recBytes]
theorem bad_eq {p : RecRead} {s : State} (h : (match p with | .bad _ => true | _ => false) = true) :
    p = .bad (recState p s) := by cases p <;> simp_all [recState]
/-- A shape record of one row of 32 FP32 elements at 0x3000, its destination offsets in s2 and s7. -/
def sCopy : State :=
  pokes (withS sPad [(2, 0x4000), (3, 0x3000), (7, 0x1000000)])
    [(0x3000, 0x10000), (0x3010, 0x1120000000000000), (0x3018, 32), (0x3048, 32)]
/-- Stream records of four elements at 0x3080 and 0x30C0, and a chain record over them at 0x3100. -/
def sRec : State :=
  pokes (withS sPad [(4, 0x3080), (5, 0x30C0), (6, 0x3100)])
    [(0x3080, 0x10000), (0x3090, 0x0001000100010004), (0x3098, 4), (0x30B0, 0x1000000000000000),
     (0x30C0, 0x11000), (0x30D0, 0x0001000100010004), (0x30D8, 4), (0x30F0, 0x1000000000000000),
     (0x3100, 0x3080), (0x3110, 0x30C0), (0x3118, 0x1100000000000000), (0x3140, 0x28200000)]
/-- A macro record at 0x3180 and the shape of its operands, 32 rows of 16, at 0x3200. -/
def sMac : State :=
  pokes (withS sPad [(8, 0x3180)])
    [(0x3180, 0x3200), (0x3188, 0x3200), (0x3190, 0x0000400000010000),
     (0x3200, 0x10000), (0x3210, 0x1140000000000000), (0x3218, 0x00200010), (0x3228, 64), (0x3248, 0x0000002000000010)]
def planOf (s : State) (i : Instr) : Plan := match recordOrderOf s i with | some x => x.plan | none => .nothing s
theorem goes_eq {p : Plan} {s : State} {c : Cmd} (h : (match p with | .go _ d => decide (d = c) | _ => false) = true) :
    p = .go (goState p s) c := by cases p <;> simp_all [goState]
/-- The record at 0x3000 is poisoned. -/
def sBad : State := { s0 with memMark := [(ddrKey 0 0 0x3000 / 16, .uncorrectable)] }
theorem lastWell {s : State} {off : Nat} {d : Int} {nk n : Nat} (h : (lastOff off d nk).isSome = true)
    (k : s.padOk ((lastOff off d nk).getD 0) n) : orderOf.lastOk s off d nk n :=
  ⟨_, by cases e : lastOff off d nk <;> simp_all, k⟩
def sTx : State := withS sPad [(2, 0x4000), (3, 0x5000), (4, 0x80008)]
/-- A name, the longest lifetime and the longest tile, at 0x4000. -/
def sName : State := withS sPad [(2, 5), (4, 1000000), (6, 0x20000004000)]
/-- A request record at 0x3000: 50 ms, one page, of device 1, which is live; the lease engine is ready. -/
def sLend : State :=
  pokes { withS s0 [(3, 0x3000)] with lyre := { t := { dev := [(1, { state := .live })] } }, mgmt := { ready := [.link 0, .lease] } }
    [(0x3000, BitVec.ofNat 64 (2 ^ 46 + 50 * 2 ^ 40 + 2 ^ 20)), (0x3008, 1), (0x3010, 0x10000)]
def lendPlan : Plan :=
  let u := recState (sLend.readRec 0x3000 64) sLend
  u.planDest { opc := 0xD2, tag := some 1, rec_ := 0x3000, kind := .leasereq u.leng.nextTag 1 50 1 0x10000 0
               dst := u.recDsts 0x3000 0x30 0x40 }
/-- A record of a USER event at 0x3000. -/
def sPost : State := pokes (withS s0 [(3, 0x3000)]) [(0x3008, 0x0F00000000000000)]
def postPlan : Plan :=
  let u := recState (sPost.readRec 0x3000 64) sPost
  u.planDest { opc := 0xD9, tag := some 1, rec_ := 0x3000
               kind := .evpost (u.postRec (recBytes (sPost.readRec 0x3000 64))) false 0 0, dst := u.recDsts 0x3000 0 0x18 }
def freshState (x : FreshRead) (s : State) : State := match x with | .val u _ => u | _ => s
def freshVal (x : FreshRead) : Nat := match x with | .val _ v => v | _ => 0
theorem fresh_eq {x : FreshRead} {s : State} (h : (match x with | .val _ _ => true | _ => false) = true) :
    x = .val (freshState x s) (freshVal x) := by cases x <;> simp_all [freshState, freshVal]
def spotOf (x : Place) : Spot := match x with | .loc p => p | _ => ⟨0, 0, false, false, 0⟩
theorem loc_eq {x : Place} (h : (match x with | .loc _ => true | _ => false) = true) : x = .loc (spotOf x) := by
  cases x <;> simp_all [spotOf]
/-- An event with a number and a type. -/
def ev (n ty : Nat) : Rec8 := { w0 := BitVec.ofNat 64 n, w1 := BitVec.ofNat 64 (ty * 2 ^ 56) }
/-- A Lyre that runs, with some events in its ring. -/
def sLyre (es : List (Nat × Rec8)) : State := { State.reset with lyre := { mode := .running, ring := es }, mgmt := { ready := [.lyre] } }
def sReady (fs : List Function) : State := { State.reset with mgmt := { ready := fs } }
/-- Page 24 belongs to device 5. -/
def sPeer : State :=
  ({ s0 with links := put {} s0.links 0 { s0.link 0 with table := BitVec.ofNat 64 (2 * 2 ^ 40 + 1) } }).putLinkWord (ddrKey 0 1 8)
    (BitVec.ofNat 64 (2 ^ 63 + 2 ^ 61 + 5 * 2 ^ 43 + 0xF * 2 ^ 37 + 7))
def aName : TileName := { t := 1, i := 2, n := 3, x := 1 }
def dbg (cmd slot ctx : Nat) : Word := BitVec.ofNat 64 (cmd * 2 ^ 56 + slot * 2 ^ 34 + ctx * 2 ^ 18)
def sDbg : State := { withW s0 fun w => { w with status := .stopped } with mgmt := { s0.mgmt with dbgpc := 0x1010 } }
def peerL2 (x : Place) : Bool := match x with | .peer _ _ a _ => a | _ => false
def peerL1 (x : Place) : Bool := match x with | .peer _ _ _ b => b | _ => false
def started : State :=
  { State.reset with mgmt := { inReset := false, starting := true, ready :=
      .dist :: .lyre :: ((List.range 4).map Function.link ++ (List.range 10).map Function.clus) } }
/-- The comparison point at SEQ 16 of a pod of two live devices. -/
def aPoint : Snapshot := { s0 := 16, dig := 0xAB, tables := { dev := [(0, { state := .live }), (1, { state := .live })] } }
def sOwned (d : Nat) : State := { s0 with dir := [(32, { owner := some d })] }
def sShared : State := { s0 with dir := [(32, { sharers := [2, 3] })] }
theorem startsTo3 {s : State} (a : startMeets s 1) (b : startMeets s 2) (c : startMeets s 3) (n : Nat) (h : 1 ≤ n) (k : n < 4) :
    startMeets s n := by
  rcases n with _ | _ | _ | _ | n
  · omega
  · exact a
  · exact b
  · exact c
  · omega
theorem startsWell {s : State} (a : s.isReady .dist = true) (b : s.isReady .lyre = true)
    (c : 4 ≤ ((List.range 6).filter fun k => s.isReady (.link k)).length) (d : ∀ c, c < 10 → s.isReady (.clus c) = true)
    (n : Nat) : startMeets s n := by
  rcases n with _ | _ | _ | _ | n
  · trivial
  · exact a
  · exact b
  · exact c
  · exact d
theorem some_eq {α : Type} {x : Option α} {d : α} (h : x.isSome = true) : x = some (x.getD d) := by cases x <;> simp_all
def recStateC (x : State × Option (List (List Byte × List Origin))) : State := x.1
def linesC (x : State × Option (List (List Byte × List Origin))) : List (List Byte × List Origin) := x.2.getD []
theorem chunk_eq {x : State × Option (List (List Byte × List Origin))} (h : x.2.isSome = true) : x = (recStateC x, some (linesC x)) := by
  obtain ⟨a, b⟩ := x; cases b <;> simp_all [recStateC, linesC]
/-- A window of four pages from page 10, in a device that posts. -/
def sLender : State :=
  { sLyre [] with mgmt := { ready := [.lyre, .lease] }, leng := { win := BitVec.ofNat 64 (10 * 2 ^ 29 + 4) } }
def sOne (c : Cmd) : State := { sPad with cmds := [c], nextId := 2 }
def cLease : Cmd := { id := 1, opc := 0xD2, tag := some 63, kind := .leasereq 7 1 50 1 0 0, rec_ := 0x3000 }
def cInterest : Cmd := { id := 1, opc := 0xD0, tag := some 63, kind := .interest aName 1 5 }
/-- A lease of page 0, of which 510 chunks are filled, and one of which a chunk is copied back. -/
def fillMove : LeaseMove := { row := { state := .granted, lender := 5, npages := 1, lbase := 7 }, chunk := 510, fb := s0.pte 0 }
def backMove : LeaseMove :=
  { row := { state := .returning, lender := 5, npages := 1, lbase := 7 }, closing := true, chunk := 512, cfb := s0.pte 0, begun := true, copied := [0] }
def leased (m : LeaseMove) : State :=
  { s0 with leng := { moves := [(1023, m)] }, mgmt := { ready := [.link 0, .lease] } }
def sFill : State := leased fillMove
def sBack : State := { leased backMove with l2 := (List.range 32).map fun i => (32 + i, { st := .owned, have_ := 0xFF }) }
def aTile : Tile := { name := aName, size := 1, lines := [List.replicate 128 7], marks := [[]], home := true }
/-- The word that warp 0 waits for lies on device 5. -/
def sFar : State :=
  { withW sPeer fun w => { w with wait := .sigwait 0x1000 1 1 false (.p 1) 1 7 } with
    ctxs := put {} sPeer.ctxs 1 { sPeer.ctx 1 with roff := [(0, 50327552)] } }
def padAcc : Acc := { lane := 31, va := 0, loc := .spad 0 0x4000, n := 4, data := [1, 2, 3, 4], opnd := 5 }
def memAcc : Acc := { lane := 31, va := 0x1000, loc := .mem 0x1000, n := 4 }
def anOp (k : OpKind) (a : Acc) : Op := { id := 1, warp := 0, launch := 1, core := 0, ctx := 1, kind := k, accs := [a] }
def sOp (k : OpKind) (a : Acc) : State := { s0 with ops := [anOp k a], nextId := 2 }
def sDirty : State := { s0 with l1 := [(32, { ctxs := [1], valid := 0xFF, dirty := 1 })] }
def sDefer : State := withW trapping fun w => { w with deferred := [{ cls := 0x01, cause := 3, deferred := true }] }
def cCome (k : CmdKind) : Cmd := { id := 1, opc := 0xA5, launch := 1, kind := k }
def sTaken : State := ({ sDefer with cur := 0 }).putWarp 0 { sDefer.warp 0 with deferred := [] }
def cQueue (k : CmdKind) : Cmd := { cCome k with arrived := 1 }
def aQueue (h t : Nat) (full : Bool) : QWord := { base := 0x4100, depth := 4, lsz := 4, head := h, tail := t, full := full, v := true }
def sQueue (k : CmdKind) (h t : Nat) (full : Bool) : State := (sOne (cQueue k)).putQword (0, 0x4000) (aQueue h t full)
def cMma : Cmd := { id := 1, opc := 0xB0, launch := 1, tiles := true, kind := .mat { f := 4, aoff := 0x4000, boff := 0x6000 } [] }
def txRec : MatRec := { aoff := 0x4000, boff := 0x5000, da := 0x80008, db := 2 }
def cTx : Cmd :=
  { id := 1, opc := 0xAF, launch := 1, tiles := true, kind := .mat txRec [], src := sPad.spadSrcs sPad.w 0 0x4000 0 1024
    dst := sPad.spadLocs sPad.w 0 0x5000 0 1024 }
def aLaunch : Launch := { s0.launch 1 with rows := 64, bnd := 64 }
def sPlace : State := { sReady [.dist, .clus 0, .link 0] with clk := 1, launches := [(1, aLaunch)], ctxs := s0.ctxs }
def sPoll (cond : Nat) : State := withW s0 fun w => { w with wait := .poll 0x1008 true 0x9B70000000000000 cond 1 (.p 1) 0xFFFFFFFF 7 }
def sSig : State := withW s0 fun w => { w with wait := .sigwait 0x1008 0x9B70000000000001 1 false (.p 1) 0xFFFFFFFF 7 }
def sSigged : State := withW s0 fun w => { w with wait := .sigwait 0x1008 0x9B70000000000000 1 false (.p 1) 0xFFFFFFFF 7 }
def sNear : State := { sFar with l2 := [(393216, { st := .shared, have_ := 0xFF, data := [(0, 1)] })] }
/-- The sampler's ring has one row free, its second, in the management context's window. -/
def sSmp : State :=
  { s0 with ctxs := [(Config.mgmtCtx, s0.ctx 1)], smp := { en := true, base := 0x1000, len := 4, wi := 7, ri := 5 } }
def sSmpTag : State := { sSmp with cores := [(2, { tagged := [(1, [3, 4, 5, 1, 0])] })] }
theorem smpCtx : sSmp.ctx Config.mgmtCtx = s0.ctx 1 := by simp [sSmp, State.ctx, look]
theorem smpCtxTag : sSmpTag.ctx Config.mgmtCtx = s0.ctx 1 := by simp [sSmpTag, sSmp, State.ctx, look]
def sBlk (p : Preempt) (exp : Nat) : State :=
  { s0 with blocks := [(1, { launch := 1, live := true, pre := p })], launches := [(1, { s0.launch 1 with expcyc := exp })] }
/-- The warp is stopped and small, and its context has a pool. -/
def sArea (p : Preempt) : State :=
  let s := withW (sBlk p 0) fun w => { w with status := .stopped, rows := 32, bnd := 32 }
  { s with launches := [(1, { s0.launch 1 with rows := 32, bnd := 32 })]
           ctxs := [(1, { s0.ctx 1 with spool := 0x10000, spsz := 0x100000 })] }
/-- Pages 0 and 24 have frames of link 0. -/
def sPages : State :=
  ({ s0 with links := put {} s0.links 0 { s0.link 0 with table := BitVec.ofNat 64 (2 * 2 ^ 40 + 1) } }).putLinkWord (ddrKey 0 1 8)
    (BitVec.ofNat 64 (2 ^ 63 + 0xF * 2 ^ 37 + 7))
/-- A slot that moves page 24 to page 0, at its last chunk but one. -/
def aMig (fwd : Bool) : MigSlot := { busy := true, src := 24, dst := 0, next := 510, fwd := fwd, pte := BitVec.ofNat 64 (2 ^ 63 + 7) }
def sMig (fwd : Bool) : State := { s0 with links := [(0, { s0.link 0 with slots := [(0, aMig fwd)] })] }
/-- A CALL whose target takes calls. -/
def sCall : State := poke sL 0x1018 (plainHeader 2 ||| 4)
def sApply (ty : Nat) : State := { sLyre [(1, ev 1 ty)] with lyre := { mode := .running, ring := [(1, ev 1 ty)], top := 1 } }

/-- The instructions among some words that a row describes, and that each meets its row's premises. -/
def named {β : Type} (f : Instr → Option β) (ws : List (Word × Instr)) : List Instr :=
  (ws.map (·.2)).filter fun i => (f i).isSome
def meets (s : State) (i : Instr) (pr : Pred) (d : Opnd) (n : Nat) : Bool :=
  decide (checkInstr s.env (i.words == 2) false i = .ok i) && (s.w.haltReq && !s.w.inh) == false && decide (s.upset = 0) &&
    (decide (s.w.writers pr = 0) || s.operandsFree i [d] n (s.w.writers pr))
theorem meets_spec {s : State} {i : Instr} {pr : Pred} {d : Opnd} {n : Nat} (h : meets s i pr d n = true) :
    Runs i s ∧ FreeFor i s pr d n := by
  simp only [meets, Bool.and_eq_true, Bool.or_eq_true, decide_eq_true_eq, beq_iff_eq] at h
  exact ⟨⟨h.1.1.1, h.1.1.2, h.1.2⟩, h.2⟩
def allMeet {β : Type} (f : Instr → Option β) (g : β → Pred × Opnd × Nat) (is : List Instr) : Bool :=
  decide (is ≠ []) && is.all fun i => match f i with
    | some x => meets s0 i (g x).1 (g x).2.1 (g x).2.2
    | none => false
/-- Each of some instructions has a state that meets its row's premises; `g` answers the row's predicate, its destination
and the registers of an element. -/
def Met {β : Type} (f : Instr → Option β) (g : β → Pred × Opnd × Nat) (is : List Instr) : Prop :=
  is ≠ [] ∧ ∀ i ∈ is, ∃ s x, f i = some x ∧ Runs i s ∧ FreeFor i s (g x).1 (g x).2.1 (g x).2.2
theorem allMeet_spec {β : Type} {f : Instr → Option β} {g : β → Pred × Opnd × Nat} {is : List Instr}
    (h : allMeet f g is = true) : Met f g is := by
  simp only [allMeet, Bool.and_eq_true, decide_eq_true_eq, List.all_eq_true] at h
  refine ⟨h.1, fun i hi => ?_⟩
  have h2 := h.2 i hi
  cases hf : f i with
  | none => simp [hf] at h2
  | some x => rw [hf] at h2; exact ⟨s0, x, rfl, meets_spec h2⟩
def ofRow (x : Row) : Pred × Opnd × Nat := (x.pr, x.d, x.n)
def ofPacked (x : Packed) : Pred × Opnd × Nat := (x.o.pr, x.o.d, 1)
def ofCross (x : Cross) : Pred × Opnd × Nat := (x.o.pr, x.o.d, x.n)
theorem wit_ExactIntegers : Met exactInt ofRow (named exactInt words_integer) := allMeet_spec (by decide +kernel)
theorem wit_IntegerRows_1 : Met bitRow ofRow (named bitRow words_integer) := allMeet_spec (by decide +kernel)
theorem wit_IntegerRows_2 : Met fieldRow ofRow (named fieldRow words_integer) := allMeet_spec (by decide +kernel)
theorem wit_IntegerRows_3 : Met immRow ofRow (named immRow words_integer) := allMeet_spec (by decide +kernel)
theorem wit_IntegerRows_4 : Met moveRow ofRow (named moveRow words_integer) := allMeet_spec (by decide +kernel)
theorem wit_FloatArithmetic : Met arithRow ofRow (named arithRow words_float) := allMeet_spec (by decide +kernel)
theorem wit_FloatFormats_1 : Met formatRow ofRow (named formatRow words_float) := allMeet_spec (by decide +kernel)
theorem wit_FloatFormats_2 : Met packRow ofPacked (named packRow words_float) := allMeet_spec (by decide +kernel)
theorem wit_AcrossLanes : Met crossRow ofCross (named crossRow words_lanes) := allMeet_spec (by decide +kernel)
theorem wit_Reductions : Met reduceRow ofCross (named reduceRow words_lanes) := allMeet_spec (by decide +kernel)

def rmwMeets (s : State) (i : Instr) : Bool :=
  match rmwForm i with
  | none => false
  | some (pr, f) =>
    meets s i pr (.p 0) 0 && !s.w.tryOpen && decide (s.w.holds pr ≠ 0) && decide (s.w.psnd pr = 0) &&
      !(s.w.anyPoison ([(f.addr, if f.spad then 1 else 2), (f.b, if f.wide then 2 else 1)] ++
        if f.cas then [(f.d.getD (.l 0), if f.wide then 2 else 1)] else []) (s.w.holds pr)) &&
      s.operandsFree i f.d.toList (if f.wide then 2 else 1) (s.w.holds pr) && s.roomFor f.d.isSome (f.accs pr s) &&
      decide (s.w.tskVer = 0) && decide (s.w.skipWp = true ∧ s.w.skipPc = s.w.pc) &&
      (List.range 32).all fun l => decide (f.adr s.w l % rmwBytes f.op f.wide = 0) &&
        (if f.spad then okB (s.spadLoc false (f.adr s.w l))
         else okX ((s.ctx s.w.ctx).translate .rmw (BitVec.ofNat 64 (f.adr s.w l))))
theorem rmwMeets_spec {s : State} {i : Instr} (h : rmwMeets s i = true) :
    ∃ pr f, rmwForm i = some (pr, f) ∧ f.free i pr s := by
  unfold rmwMeets at h
  split at h
  · cases h
  · rename_i pr f hf
    simp only [Bool.and_eq_true, Bool.not_eq_true', decide_eq_true_eq, List.all_eq_true, List.mem_range] at h
    obtain ⟨⟨⟨⟨⟨⟨⟨⟨⟨hm, h1⟩, h2⟩, h3⟩, h4⟩, h5⟩, h6⟩, h7⟩, h8⟩, h9⟩ := h
    refine ⟨pr, f, hf, (meets_spec hm).1, h1, h2, ⟨h3, h4⟩, h5, h6, .inl h7, fun l hl => (h9 l hl.1).1, .inl h8, fun l hl => ?_⟩
    have h10 := (h9 l hl.1).2
    split at h10
    · rename_i hs; rw [if_pos hs]; exact isOk h10
    · rename_i hs; rw [if_neg hs]; exact isX h10
/-- Every read-modify-write, of memory or the scratchpad. -/
theorem wit_ReadModifyWrites_all : named rmwForm (words_atomics ++ words_devices) ≠ [] ∧
    ∀ i ∈ named rmwForm (words_atomics ++ words_devices), ∃ s pr f, rmwForm i = some (pr, f) ∧ f.free i pr s := by
  have h : ((named rmwForm (words_atomics ++ words_devices)).all (rmwMeets (withW sPad fun w => { w with skipWp := true, skipPc := w.pc }))) = true := by
    decide +kernel
  exact ⟨by decide, fun i hi => ⟨_, rmwMeets_spec (List.all_eq_true.mp h i hi)⟩⟩

theorem wit_DecodeEncode_1 : ∃ (i : Instr), WellFormed i = true :=
  ⟨.iaddI (oI 9 (.v 255) (.s 63) 0xFFFFFFFF), by decide +kernel⟩

theorem wit_ReservedOpcodes_1 : ∃ (env : DecEnv) (w lit : Word), 0xF0 ≤ (w.extractLsb' 56 8).toNat :=
  ⟨openEnv false, 0xF000000000000000, 0, by decide +kernel⟩

theorem wit_StepRunsDecoded_1 : ∃ (s t : State) (x lit : Word) (i : Instr), AtWord s x lit t ∧
    s.agenda = [] ∧
    decodeWord t.env x lit = .ok i ∧
    t.hasTurn t.cur (Instr.op i) = true :=
  ⟨s0, fetched s0 0x1008, 0x9B70000000000000, 0, .wait (oI 7 z z 0), atWord (by decide +kernel), by decide +kernel⟩

theorem wit_StepRunsDecoded_3 : ∃ (s t : State) (k : Nat) (rest : List Act) (x lit : Word) (i : Instr), AtWord { s with agenda := rest, cur := k } x lit t ∧
    s.agenda = .issue k :: rest ∧
    decodeWord t.env x lit = .ok i ∧
    t.hasTurn t.cur (Instr.op i) = true :=
  ⟨{ s0 with agenda := [.issue 0] }, fetched { s0 with agenda := [], cur := 0 } 0x1008, 0, [], 0x9B70000000000000, 0,
    .wait (oI 7 z z 0), atWord (by decide +kernel), by decide +kernel⟩

theorem wit_StepRunsDecoded_4 : ∃ (s : State) (rest : List Act) (e : Instr), s.agenda = .event e :: rest ∧
    isEvent e = true :=
  ⟨{ s0 with agenda := [.event (.sackDue 0)] }, [], .sackDue 0, by decide +kernel⟩

theorem wit_StepRunsDecoded_2 : ∃ (s t : State) (x lit : Word) (i : Instr), AtWord s x lit t ∧
    s.agenda = [] ∧
    decodeWord t.env x lit = .ok i ∧
    t.hasTurn t.cur (Instr.op i) = false :=
  ⟨withW s0 fun w => { w with lastIssue := 1 }, fetched (withW s0 fun w => { w with lastIssue := 1 }) 0x1008,
    0x9B70000000000000, 0, .wait (oI 7 z z 0), atWord (by decide +kernel), by decide +kernel⟩

theorem wit_StepRunsDecoded_5 : ∃ (s : State) (rest : List Act) (flow seq : Nat) (e : Instr), s.agenda = .packet flow seq e :: rest ∧
    isEvent e = true :=
  ⟨{ s0 with agenda := [.packet 16 0 (.sackDue 0)] }, [], 16, 0, .sackDue 0, by decide +kernel⟩

theorem wit_StepKeepsMemory_1 : ∃ (s t : State), step s = .next t ∧
    Memory.wf s.mem = true ∧
    mapWf 0 s.spad = true :=
  ⟨s0, nextOf (step s0) s0, (nextOf_eq (by decide +kernel)), by decide +kernel⟩

theorem wit_WalksBlocks_1 : ∃ (s : State) (n : Nat), ({ s.w with pc := s.w.pc + 8 * BitVec.ofNat 64 n } : Warp).atEntry = false :=
  ⟨s0, 1, by decide +kernel⟩

theorem wit_WalksBlocks_4 : ∃ (w : Warp) (h hw : Word) (t : _) (ts : _), w.rstk = t :: ts ∧
    t.rc = h ∧
    t.none = false ∧
    t.pend ≠ 0 :=
  ⟨{ rstk := [⟨0x2000, false, 0x1010, 2, 1, 3, 0, 0⟩] }, 0x2000, plainHeader 2, _, _, rfl, by decide +kernel⟩

theorem wit_WalksBlocks_5 : ∃ (w : Warp) (h hw : Word) (t : _) (ts : _), w.rstk = t :: ts ∧
    t.rc = h ∧
    t.none = false ∧
    t.pend = 0 :=
  ⟨{ rstk := [⟨0x2000, false, 0x1010, 2, 0, 3, 0, 0⟩] }, 0x2000, plainHeader 2, _, _, rfl, by decide +kernel⟩

theorem wit_WalksBlocks_2 : ∃ (w : Warp) (h hw : Word) (row : Nat) (l : Nat), (∀ t ts, w.rstk = t :: ts → ¬ (t.rc = h ∧ t.none = false)) ∧
    l < 32 :=
  ⟨s0.w, 0x2000, plainHeader 2, 3, 31, (fun _ _ h => by cases h), by decide +kernel⟩

theorem wit_TrapsEnter_1 : ∃ (s r : State) (t : TrapInfo) (epc hw : Word), ((s.count 0x14).countCtx s.w.ctx 0x107).fetchWord s.w.ctx ((s.ctx s.w.ctx).tvec &&& ~~~7) = .word hw r ∧
    s.w.tryOpen = false ∧
    s.w.inh = false ∧
    s.w.tskVers = false ∧
    clsHandler (t.uncorr s.w).cls = true ∧
    (s.ctx s.w.ctx).tvec.getLsbD 0 = true ∧
    headerOk hw = true ∧
    hdrHandler hw = true ∧
    r.cur = s.cur ∧
    r.ops = [] ∧
    r.cmds = [] :=
  ⟨trapping, fetched ((trapping.count 0x14).countCtx trapping.w.ctx 0x107) 0x2000, { cls := 0x0A, cause := 3 },
    0x1008, handlerHeader, fetchTo (by decide +kernel), by decide +kernel⟩

theorem wit_TrapsEnter_2 : ∃ (s : State) (t : TrapInfo) (epc : Word), s.w.tryOpen = false ∧
    s.w.inh = true ∧
    s.w.tskVers = false :=
  ⟨withW s0 fun w => { w with tcause := 0x40000000 }, { cls := 0x0A, cause := 3 }, 0x1008, by decide +kernel⟩

theorem wit_ReturnFromHandler_1 : ∃ (s r : State) (o : OpO) (hw : Word), Runs (.rtt o) r ∧
    s.fetchWord s.w.ctx s.w.tst.hdr = .word hw r ∧
    r.w = s.w ∧
    r.clk = s.clk ∧
    s.w.tryOpen = false ∧
    headerOk hw = true ∧
    inBlock s.w.tst.hdr (hdrLen hw) s.w.epc = true :=
  ⟨sRtt, fetched sRtt 0x1000, oO 7 z z z z 0, plainHeader 3, by unfold Runs; decide +kernel,
    fetchTo (by decide +kernel), by decide +kernel⟩

theorem wit_AddWithCarry_1 : ∃ (s : State) (o : OpO), Runs (.iaddc o) s ∧
    FreeFor (.iaddc o) s o.pr o.d (if o.ty < 2 then 1 else 2) :=
  ⟨s0, oO 7 (.v 4) (.v 6) (.s 8) (.p 3) 32, by unfold Runs; decide +kernel, by unfold FreeFor; decide +kernel⟩

theorem wit_Select_1 : ∃ (s : State) (o : OpO), Runs (.isel o) s ∧
    FreeFor (.isel o) s o.pr o.d (if o.ty < 2 then 1 else 2) :=
  ⟨s0, oO 7 (.v 3) (.v 8) (.v 7) (.p 1) 0, by unfold Runs; decide +kernel, by unfold FreeFor; decide +kernel⟩

theorem wit_SetsLanes_1 : ∃ (s : State) (o : OpO), Acts (.partset o) s o.pr [(o.a, 2)] ∧
    partOk (s.w.read 64 o.a 0).n = true :=
  ⟨withW s0 fun w => { w with s := [(4, { val := 8 })] }, oO 7 z (.s 4) z z 0,
    by unfold Acts Runs Clean; decide +kernel, by decide +kernel⟩

theorem wit_SetsLanes_2 : ∃ (s : State) (o : OpO), Acts (.exmset o) s o.pr [(o.a, 2)] :=
  ⟨withW s0 fun w => { w with s := [(4, { val := 3 })] }, oO 7 z (.s 4) z z 0,
    by unfold Acts Runs Clean; decide +kernel⟩

theorem wit_Branches_1 : ∃ (i : Instr) (s r u : State) (x : Jump) (hw : Word), jumpOf i = some x ∧
    Runs i u ∧
    s.fetchWord s.w.ctx (x.to_ s.w) = .word hw r ∧
    (x.call = true → hdrCall hw = true ∧ s.w.cstk.length < 32) ∧
    (x.takers s.w ≠ s.w.exm → s.w.rstk.length < 32 ∧ hdrUniform s.w.hw = false ∧ (hdrReconv s.w.hw ≠ 0 → r.headerAt s.w.ctx s.w.rejoin = .ok (true, u))) ∧
    (x.takers s.w = s.w.exm ∨ hdrReconv s.w.hw = 0 → u = r) ∧
    u.w = s.w ∧
    u.clk = s.clk ∧
    s.w.psnd x.pr = 0 ∧
    s.w.anyPoison x.srcs (s.w.holds x.pr) = false ∧
    s.w.holds x.pr ≠ 0 ∧
    headerOk hw = true ∧
    (x.to_ s.w).toNat % 8 = 0 ∧
    hdrHandler hw = false :=
  ⟨.bra (oI 0 z z 2), sSplit, fetched sSplit 0x1018, fetched sSplit 0x1018, _, plainHeader 2, rfl,
    by unfold Runs; decide +kernel, fetchTo (by decide +kernel), (fun h => absurd h (by decide +kernel)),
    (fun _ => ⟨by decide +kernel, by decide +kernel, fun h => absurd (by decide +kernel) h⟩), (fun _ => rfl),
    by decide +kernel⟩

theorem wit_ReturnsAndExits_1 : ∃ (s r : State) (o : OpO) (a hw : Word) (rest : List Word), Runs (.ret o) r ∧
    s.w.cstk = a :: rest ∧
    (∀ e es, s.w.rstk = e :: es → e.depth ≠ s.w.cstk.length) ∧
    s.fetchWord s.w.ctx a = .word hw r ∧
    r.w = s.w ∧
    r.clk = s.clk ∧
    s.w.psnd o.pr = 0 ∧
    s.w.exm ≠ 0 ∧
    s.w.holds o.pr = s.w.exm ∧
    s.w.tryOpen = false ∧
    headerOk hw = true ∧
    a.toNat % 8 = 0 ∧
    hdrHandler hw = false :=
  ⟨sRet, fetched sRet 0x1018, oO 7 z z z z 0, 0x1018, plainHeader 2, [], by unfold Runs; decide +kernel, rfl,
    (fun _ _ h => by cases h), fetchTo (by decide +kernel), by decide +kernel⟩

theorem wit_ReturnsAndExits_2 : ∃ (s : State) (o : OpO), Runs (.exit o) s ∧
    s.w.tryOpen = false ∧
    s.w.psnd o.pr = 0 ∧
    s.w.holds o.pr ≠ 0 ∧
    s.w.exm &&& ~~~s.w.holds o.pr ≠ 0 :=
  ⟨withW s0 fun w => { w with p := [(0, { val := true })] }, oO 0 z z z z 0, by unfold Runs; decide +kernel,
    by decide +kernel⟩

theorem wit_ReturnsAndExits_3 : ∃ (s : State) (o : OpO) (e : REntry) (es : List REntry), Runs (.exit o) s ∧
    s.w.tryOpen = false ∧
    s.w.psnd o.pr = 0 ∧
    s.w.holds o.pr ≠ 0 ∧
    s.w.exm = s.w.holds o.pr ∧
    s.w.rstk = e :: es ∧
    e.pend &&& ~~~s.w.exm ≠ 0 :=
  ⟨withW s0 fun w => { w with exm := 1, rstk := [⟨0x1018, false, 0x1008, 1, 2, 3, 0, plainHeader 3⟩] },
    oO 7 z z z z 0, ⟨0x1018, false, 0x1008, 1, 2, 3, 0, plainHeader 3⟩, [], by unfold Runs; decide +kernel,
    by decide +kernel⟩

theorem wit_Hints_1 : ∃ (i : Instr) (s : State), isHint i = true ∧
    Runs i s :=
  ⟨.nop (oO 7 z z z z 0), s0, by decide +kernel, by unfold Runs; decide +kernel⟩

theorem wit_NoLaneNoEffect_1 : ∃ (i : Instr) (s : State) (pr : Pred), predicated i = some pr ∧
    Runs i s ∧
    s.w.psnd pr = 0 ∧
    s.w.holds pr = 0 :=
  ⟨.ld .u32 (oM 0 (.v 6) true 4 0 0 false false false false), s0, _, rfl, by unfold Runs; decide +kernel,
    by decide +kernel⟩

theorem wit_LoadsStart_1 : ∃ (i : Instr) (s : State) (x : MemForm), loadForm i = some x ∧
    Runs i s ∧
    x.loadFree i s (x.loadAccs s) ∧
    x.aligned s ∧
    s.w.unwatched ∧
    (x.tryless = true → s.w.tryOpen = false) ∧
    s.w.holds x.o.pr ≠ 0 :=
  ⟨.ld .u64 (oM 7 (.v 6) false 4 0x1000 0 false false false false), s0, _, rfl, by unfold Runs; decide +kernel,
    by unfold MemForm.loadFree; decide +kernel, lanes _ _ (by decide +kernel),
    by unfold Warp.unwatched; decide +kernel, by decide +kernel⟩

theorem wit_LoadsStart_2 : ∃ (i : Instr) (s : State) (x : MemForm) (clus : Bool), padLoadForm i = some (x, clus) ∧
    Runs i s ∧
    x.loadFree i s (x.padLoadAccs clus s) ∧
    x.padAligned s ∧
    x.padThere clus s ∧
    s.w.holds x.o.pr ≠ 0 ∧
    x.o.d.isS = false :=
  ⟨.lds .u32 (oM 7 (.v 6) true 4 0x4100 0 false false false false), sPad, _, _, rfl, by unfold Runs; decide +kernel,
    by unfold MemForm.loadFree; decide +kernel, lanes _ _ (by decide +kernel),
    (by rintro l ⟨h, _⟩ _; apply isOk; revert l; decide +kernel), by decide +kernel⟩

theorem wit_StoresStart_1 : ∃ (i : Instr) (s : State) (x : MemForm), storeForm i = some x ∧
    Runs i s ∧
    x.storeFree i s (x.storeAccs s) 2 ∧
    x.aligned s ∧
    x.mapped s ∧
    s.w.unwatched ∧
    (x.tryless = true → s.w.tryOpen = false) ∧
    s.w.holds x.o.pr ≠ 0 :=
  ⟨.st .u32 (oM 7 (.v 6) true 4 0x1FFFC 0 false false false false), s0, _, rfl, by unfold Runs; decide +kernel,
    by unfold MemForm.storeFree Clean; decide +kernel, lanes _ _ (by decide +kernel),
    (by rintro l ⟨h, _⟩; apply isX; revert l; decide +kernel), by unfold Warp.unwatched; decide +kernel,
    by decide +kernel⟩

theorem wit_StoresStart_2 : ∃ (i : Instr) (s : State) (x : MemForm) (clus : Bool), padStoreForm i = some (x, clus) ∧
    Runs i s ∧
    s.w.holds x.o.pr ≠ 0 ∧
    x.storeFree i s (x.padStoreAccs clus s) 1 ∧
    x.padAligned s ∧
    x.padThere clus s :=
  ⟨.stk .u32 (oM 7 (.v 6) true 4 0x3FFC 0 false false false false), sPad, _, _, rfl, by unfold Runs; decide +kernel,
    by decide +kernel, by unfold MemForm.storeFree Clean; decide +kernel, lanes _ _ (by decide +kernel),
    (by rintro l ⟨h, _⟩ _; apply isOk; revert l; decide +kernel)⟩

theorem wit_TrapsBeforeEffect_1 : ∃ (i : Instr) (s : State) (x : MemForm) (l : Nat), loadForm i = some x ∧
    x.loadFree i s (x.loadAccs s) ∧
    s.w.takes x.o.pr l ∧
    (∀ j, j < l → s.w.takes x.o.pr j → (s.w.va x.o j).psn = false → (s.w.va x.o j).n % x.wd.bytes = 0) ∧
    checkInstr s.env (i.words == 2) false i = .ok i ∧
    (x.tryless = true → s.w.tryOpen = false) ∧
    (s.w.va x.o l).psn = false ∧
    (s.w.va x.o l).n % x.wd.bytes ≠ 0 :=
  ⟨.ld .u64 (oM 7 (.v 6) false 4 0x1004 0 false false false false), s0, _, 0, rfl,
    by unfold MemForm.loadFree; decide +kernel, (by unfold Warp.takes; decide +kernel),
    (fun j h => absurd h (by omega)), by decide +kernel⟩

theorem wit_TrapsBeforeEffect_2 : ∃ (i : Instr) (s : State) (x : MemForm), storeForm i = some x ∧
    checkInstr s.env (i.words == 2) false i = .ok i ∧
    (x.tryless = true → s.w.tryOpen = false) ∧
    s.w.psnd x.o.pr = 0 ∧
    s.roomFor false (x.storeAccs s) = true ∧
    s.w.anyPoison [(baseOf x.o, 2)] (s.w.holds x.o.pr) = true :=
  ⟨.st .u32 (oM 7 (.v 6) true 4 0 0 false false false false),
    withW s0 fun w => { w with s := [(4, { psn := true })] }, _, rfl, by decide +kernel⟩

theorem wit_TrapsBeforeEffect_3 : ∃ (i : Instr) (s r : State) (x : Jump) (hw : Word), jumpOf i = some x ∧
    s.fetchWord s.w.ctx (x.to_ s.w) = .word hw r ∧
    checkInstr r.env (i.words == 2) false i = .ok i ∧
    r.w = s.w ∧
    s.w.psnd x.pr = 0 ∧
    s.w.anyPoison x.srcs (s.w.holds x.pr) = false ∧
    s.w.holds x.pr ≠ 0 ∧
    headerOk hw = false :=
  ⟨.bra (oI 7 z z 1), s0, fetched s0 0x1010, _, 0, rfl, fetchTo (by decide +kernel), by decide +kernel⟩

theorem wit_CacheAndFence_1 : ∃ (i : Instr) (s : State) (x : OpM × OpKind), cctlForm i = some x ∧
    Runs i s ∧
    s.w.tryOpen = false ∧
    s.w.holds x.1.pr ≠ 0 ∧
    s.roomFor false (lineAccs x.1 s) = true :=
  ⟨.cctlWb (oM 7 z true 4 0x1000 1 false false false false), s0, _, rfl, by unfold Runs; decide +kernel,
    by decide +kernel⟩

theorem wit_CacheAndFence_2 : ∃ (s : State) (o : OpO), Runs (.fence o) s ∧
    s.w.tryOpen = false ∧
    s.w.psnd o.pr = 0 ∧
    s.w.holds o.pr ≠ 0 :=
  ⟨s0, oO 7 z z z z 18, by unfold Runs; decide +kernel, by decide +kernel⟩

theorem wit_CacheAndFence_3 : ∃ (i : Instr) (s : State) (o : OpM) (l1 : Bool), prefForm i = some (o, l1) ∧
    Runs i s :=
  ⟨.prefL1 (oM 7 z true 4 0x1000 0 false false false false), s0, _, _, rfl, by unfold Runs; decide +kernel⟩

theorem wit_ReadModifyWrites_1 : ∃ (i : Instr) (s : State) (pr : Pred) (f : RmwForm), rmwForm i = some (pr, f) ∧
    f.free i pr s :=
  ⟨.atomAdd (oO 7 (.v 6) (.s 4) (.v 2) (.l 1) 0), s0, _, _, rfl,
    (⟨by unfold Runs; decide +kernel, by decide +kernel, by decide +kernel, by unfold Clean; decide +kernel, by decide +kernel, by decide +kernel, by decide +kernel, lanes _ _ (by decide +kernel), by unfold Warp.unwatched; decide +kernel, by rintro l ⟨h, _⟩; apply isX; revert l; decide +kernel⟩)⟩

theorem wit_SumReads_1 : ∃ (s : State) (o : OpO), Runs (.xfin o) s ∧
    Clean s o.pr [(o.a, 2)] ∧
    (∀ l, s.w.takes o.pr l → (s.w.read 64 o.a l).n % 32 = 0) ∧
    s.w.tryOpen = false ∧
    s.w.holds o.pr ≠ 0 ∧
    s.operandsFree (.xfin o) [o.d] (sumRegs o) (s.w.holds o.pr) = true ∧
    s.roomFor true (sumAccs o s) = true :=
  ⟨s0, oO 7 (.v 6) (.s 4) z (.l 1) 0, by unfold Runs; decide +kernel, by unfold Clean; decide +kernel,
    (lanes _ _ (by decide +kernel)), by decide +kernel⟩

theorem wit_Waits_1 : ∃ (s : State) (o : OpI), Runs (.wait o) s ∧
    waitMet s o.imm = true :=
  ⟨s0, oI 7 z z 0, by unfold Runs; decide +kernel, by decide +kernel⟩

theorem wit_Waits_2 : ∃ (s : State) (o : OpI), Runs (.wait o) s ∧
    waitMet s o.imm = false :=
  ⟨{ s0 with ops := [{ id := 1, warp := 0, launch := 1, core := 0, ctx := 1, kind := .store, accs := [] }] },
    oI 7 z z 0, by unfold Runs; decide +kernel, by decide +kernel⟩

theorem wit_Waits_3 : ∃ (i : Instr) (s : State) (o : OpI) (all : Bool), tagWaitOf i = some (o, all) ∧
    Runs i s ∧
    Clean s o.pr (tagSrc o) ∧
    s.w.tryOpen = false ∧
    s.w.holds o.pr ≠ 0 ∧
    (s.core s.cid).tagName &&& Sys2Proof.Machine.tagMask s.w o = 0 ∧
    (if all then (s.core s.cid).tagDone &&& Sys2Proof.Machine.tagMask s.w o = Sys2Proof.Machine.tagMask s.w o else (s.core s.cid).tagDone &&& Sys2Proof.Machine.tagMask s.w o ≠ 0 ∨ Sys2Proof.Machine.tagMask s.w o = 0) :=
  ⟨.tagall (oI 7 z z 5), s0.putCore 0 { tagDone := 5 }, _, _, rfl, by unfold Runs; decide +kernel,
    by unfold Clean; decide +kernel, by decide +kernel⟩

theorem wit_Waits_4 : ∃ (i : Instr) (s : State) (o : OpI) (all : Bool), tagWaitOf i = some (o, all) ∧
    Runs i s ∧
    Clean s o.pr (tagSrc o) ∧
    s.w.tryOpen = false ∧
    s.w.holds o.pr ≠ 0 ∧
    (s.core s.cid).tagName &&& Sys2Proof.Machine.tagMask s.w o = 0 ∧
    (¬ (if all then (s.core s.cid).tagDone &&& Sys2Proof.Machine.tagMask s.w o = Sys2Proof.Machine.tagMask s.w o else (s.core s.cid).tagDone &&& Sys2Proof.Machine.tagMask s.w o ≠ 0 ∨ Sys2Proof.Machine.tagMask s.w o = 0)) :=
  ⟨.tagany (oI 7 z z 5), s0, _, _, rfl, by unfold Runs; decide +kernel, by unfold Clean; decide +kernel,
    by decide +kernel⟩

theorem wit_TagOperations_1 : ∃ (s : State) (o : OpO) (n : Nat), Acts (.tagff o) s o.pr [(o.a, 2)] ∧
    tagFoundIs s o n ∧
    s.w.tryOpen = false ∧
    s.operandsFree (.tagff o) [o.d] 1 (s.w.holds o.pr) = true :=
  ⟨s0, oO 7 (.s 6) (.s 4) z z 2, 64, by unfold Acts Runs Clean; decide +kernel,
    (by unfold tagFoundIs; decide +kernel), by decide +kernel⟩

theorem wit_TagOperations_2 : ∃ (s : State) (o : OpI), Acts (.tagclr o) s o.pr (tagSrc o) ∧
    s.w.tryOpen = false :=
  ⟨s0, oI 7 z z 63, by unfold Acts Runs Clean; decide +kernel, by decide +kernel⟩

theorem wit_Tries_1 : ∃ (s : State) (o : OpO) (k : BitVec 8) (tag : Nat), Acts (.tryOpen o) s o.pr [] ∧
    o.d = .p k ∧
    s.w.tryOpen = false ∧
    s.tiles s.cur = 0 ∧
    s.w.bnd + s.w.ahi + o.b.num + 1 ≤ s.w.rows ∧
    s.freeTag = some tag :=
  ⟨sL, oO 7 (.p 1) (.l 0) (.l 1) z 0, 1, 1, by unfold Acts Runs Clean; decide +kernel, rfl, by decide +kernel⟩

theorem wit_Tries_2 : ∃ (s : State) (o : OpO) (k : BitVec 8), Acts (.tryOpen o) s o.pr [] ∧
    o.d = .p k ∧
    s.w.tryOpen = false ∧
    s.tiles s.cur = 0 ∧
    s.w.rows < s.w.bnd + s.w.ahi + o.b.num + 1 :=
  ⟨withW sL fun w => { w with rows := 256 }, oO 7 (.p 1) (.l 0) (.l 1) z 0, 1,
    by unfold Acts Runs Clean; decide +kernel, rfl, by decide +kernel⟩

theorem wit_Tries_3 : ∃ (s : State) (o : OpO) (k : BitVec 8), Acts (.commit o) s o.pr [] ∧
    o.d = .p k ∧
    s.w.tryOpen = false :=
  ⟨s0, oO 7 (.p 1) z z z 0, 1, by unfold Acts Runs Clean; decide +kernel, rfl, by decide +kernel⟩

theorem wit_Tries_4 : ∃ (s : State) (o : OpO) (k : BitVec 8), Acts (.commit o) s o.pr [] ∧
    o.d = .p k ∧
    s.idleIn (o.m.toNat % 8) ∧
    s.holdsNothing (s.tryTag s.cur) ∧
    s.w.tryOpen = true ∧
    s.w.ck.exm &&& ~~~s.w.amask ≠ 0 :=
  ⟨withW s0 fun w => { w with tryOpen := true, ck := { ver := 1, exm := 3, next := 0x1018 }, amask := 1 },
    oO 7 (.p 1) z z z 0, 1, by unfold Acts Runs Clean; decide +kernel, rfl, (by unfold State.idleIn; decide +kernel),
    (by unfold State.holdsNothing; decide +kernel), by decide +kernel⟩

theorem wit_Tries_5 : ∃ (s : State) (o : OpO), Acts (.abort o) s o.pr [] ∧
    s.w.tryOpen = false :=
  ⟨s0, oO 7 z (.l 255) z z 0, by unfold Acts Runs Clean; decide +kernel, by decide +kernel⟩

theorem wit_Tries_6 : ∃ (s : State) (o : OpO), Acts (.abort o) s o.pr [] ∧
    s.w.tryOpen = true ∧
    s.quiet s.cur = true :=
  ⟨withW s0 fun w => { w with tryOpen := true, ck := { ver := 1, exm := 3, next := 0x1018 } }, oO 7 z (.l 255) z z 0,
    by unfold Acts Runs Clean; decide +kernel, by decide +kernel⟩

theorem wit_Barriers_1 : ∃ (s : State) (o : OpO), Acts (.bar o) s o.pr [(o.a, 2), (o.b, 2)] ∧
    s.barNamed o true ∧
    s.w.tryOpen = false ∧
    (s.barRef o).bar.gone s.clk = false ∧
    s.barRelease (s.barRef o).lvl = (s, true) :=
  ⟨s0, oO 7 (.p 1) (.l 15) (.l 0) z 8, by unfold Acts Runs Clean; decide +kernel,
    (by unfold State.barNamed; decide +kernel), by decide +kernel⟩

theorem wit_Barriers_2 : ∃ (s : State) (o : OpO), Acts (.bara o) s o.pr [(o.a, 2), (o.b, 2)] ∧
    s.barNamed o true ∧
    s.w.tryOpen = false ∧
    (s.barRef o).bar.gone s.clk = false ∧
    s.barRelease (s.barRef o).lvl = (s, true) :=
  ⟨s0, oO 7 z (.l 15) (.l 1) z 56, by unfold Acts Runs Clean; decide +kernel,
    (by unfold State.barNamed; decide +kernel), by decide +kernel⟩

theorem wit_Barriers_3 : ∃ (s : State) (o : OpO), Acts (.barw o) s o.pr [(o.a, 2)] ∧
    s.barNamed o false ∧
    s.w.tryOpen = false ∧
    (s.barRef o).bar.gone s.clk = false :=
  ⟨s0, oO 7 (.p 1) (.l 0) z z 8, by unfold Acts Runs Clean; decide +kernel,
    (by unfold State.barNamed; decide +kernel), by decide +kernel⟩

theorem wit_Barriers_4 : ∃ (s : State) (o : OpO) (k : BitVec 8), Acts (.bar o) s o.pr [(o.a, 2), (o.b, 2)] ∧
    s.barNamed o true ∧
    o.d = .p k ∧
    s.w.tryOpen = false ∧
    (s.barRef o).bar.gone s.clk = true ∧
    k ≠ 7 :=
  ⟨sBar, oO 7 (.p 1) (.l 3) (.l 1) z 8, 1, by unfold Acts Runs Clean; decide +kernel,
    (by unfold State.barNamed; decide +kernel), rfl, by decide +kernel⟩

theorem wit_Barriers_5 : ∃ (s : State) (o : OpO), Acts (.bara o) s o.pr [(o.a, 2), (o.b, 2)] ∧
    s.barNamed o true ∧
    s.w.tryOpen = false ∧
    (s.barRef o).bar.gone s.clk = true :=
  ⟨sBar, oO 7 z (.l 3) (.l 1) z 8, by unfold Acts Runs Clean; decide +kernel,
    (by unfold State.barNamed; decide +kernel), by decide +kernel⟩

theorem wit_Barriers_6 : ∃ (s : State) (o : OpO) (k : BitVec 8), Acts (.barw o) s o.pr [(o.a, 2)] ∧
    s.barNamed o false ∧
    o.d = .p k ∧
    s.w.tryOpen = false ∧
    (s.barRef o).bar.gone s.clk = true ∧
    k ≠ 7 :=
  ⟨sBar, oO 7 (.p 1) (.l 3) z z 8, 1, by unfold Acts Runs Clean; decide +kernel,
    (by unfold State.barNamed; decide +kernel), rfl, by decide +kernel⟩

theorem wit_Barriers_7 : ∃ (s : State) (r : BarRef) (count : Nat), r.bar.arr = 0 :=
  ⟨s0, { lvl := 0, unit := 0, id := 3, bar := {} }, 1, by decide +kernel⟩

theorem wit_Barriers_8 : ∃ (s : State) (r : BarRef) (count : Nat), r.bar.arr ≠ 0 :=
  ⟨s0, { lvl := 0, unit := 0, id := 3, bar := { arr := 1 } }, 2, by decide +kernel⟩

theorem wit_Barriers_10 : ∃ (s : State) (lvl unit id k : Nat) (b : Barrier) (w : Warp) (g : Nat) (d : _) (m : _), s.warps = [(k, w)] ∧
    w.wait = .barrier lvl id g d m ∧
    lvl < 8 ∧
    unit < 2 ^ 40 ∧
    id < 16 ∧
    k < 2 ^ 20 ∧
    s.bars = [(barKey w.launch lvl unit id, b)] ∧
    s.unitOf w lvl = unit ∧
    b.arr ≠ 0 ∧
    s.needs w.launch lvl unit b.n ≤ b.arr :=
  ⟨sAt { n := 1, arr := 1 }, 0, 0, 3, 0, { n := 1, arr := 1 }, _, _, _, _, rfl, rfl, by decide +kernel⟩

theorem wit_Barriers_9 : ∃ (s : State) (lvl unit id k : Nat) (b : Barrier) (w : Warp), s.warps = [(k, w)] ∧
    lvl < 8 ∧
    unit < 2 ^ 40 ∧
    id < 16 ∧
    k < 2 ^ 20 ∧
    s.bars = [(barKey w.launch lvl unit id, b)] ∧
    s.unitOf w lvl = unit ∧
    (b.arr = 0 ∨ b.arr < s.needs w.launch lvl unit b.n) :=
  ⟨sAt { n := 2, arr := 1 }, 0, 0, 3, 0, { n := 2, arr := 1 }, _, rfl, by decide +kernel⟩

theorem wit_Barriers_12 : ∃ (s : State) (k lvl id g : Nat) (b : Barrier) (p : BitVec 8) (m : W32), (s.warp k).status = .run ∧
    (s.warp k).reread = false ∧
    (s.warp k).wait = .barrier lvl id g (.p p) m ∧
    g < b.gen :=
  ⟨sAt {}, 0, 0, 3, 0, { gen := 1 }, 1, 0xFFFFFFFF, by decide +kernel⟩

theorem wit_Barriers_13 : ∃ (s : State) (k lvl id g : Nat) (b : Barrier) (p : BitVec 8) (m : W32), (s.warp k).status = .run ∧
    (s.warp k).reread = false ∧
    (s.warp k).wait = .barrier lvl id g (.p p) m ∧
    b.gen ≤ g ∧
    b.abandoned = false :=
  ⟨sAt {}, 0, 0, 3, 0, { arr := 1 }, 1, 0xFFFFFFFF, by decide +kernel⟩

theorem wit_Barriers_14 : ∃ (s : State) (k lvl id g : Nat) (b : Barrier) (p : BitVec 8) (m : W32), (s.warp k).status = .run ∧
    (s.warp k).reread = false ∧
    (s.warp k).wait = .barrier lvl id g (.p p) m ∧
    b.gen ≤ g ∧
    b.abandoned = true ∧
    p ≠ 7 :=
  ⟨sAt {}, 0, 0, 3, 0, { abandoned := true }, 1, 0xFFFFFFFF, by decide +kernel⟩

theorem wit_Barriers_11 : ∃ (s : State) (lvl unit id k : Nat) (b : Barrier) (w : Warp), s.warps = [(k, w)] ∧
    lvl < 8 ∧
    unit < 2 ^ 40 ∧
    id < 16 ∧
    k < 2 ^ 20 ∧
    s.bars = [(barKey w.launch lvl unit id, b)] ∧
    s.unitOf w lvl = unit ∧
    b.arr ≠ 0 ∧
    s.needs w.launch lvl unit b.n ≤ b.arr :=
  ⟨sAt { n := 1, arr := 1 }, 0, 0, 3, 0, { n := 1, arr := 1 }, _, rfl, by decide +kernel⟩

theorem wit_PollsAndYields_1 : ∃ (s : State) (o : OpO) (ia : Nat), Acts (.poll o) s o.pr [(o.a, 2), (o.b, if o.c.num = 8 then 2 else 1)] ∧
    s.w.unwatched ∧
    s.w.tryOpen = false ∧
    (s.w.read 64 o.a 0).n % o.c.num = 0 ∧
    (s.w.read 64 o.a 0).n < 2 ^ 64 ∧
    (s.ctx s.w.ctx).translate .load (BitVec.ofNat 64 (s.w.read 64 o.a 0).n) = .ok ia :=
  ⟨s0, oO 7 (.p 1) (.s 4) (.s 5) (.l 8) 0, 0, by unfold Acts Runs Clean; decide +kernel,
    by unfold Warp.unwatched; decide +kernel, by decide +kernel⟩

theorem wit_PollsAndYields_2 : ∃ (s : State) (o : OpO), Acts (.yield o) s o.pr [] :=
  ⟨s0, oO 7 z z z z 0, by unfold Acts Runs Clean; decide +kernel⟩

theorem wit_Tasks_1 : ∃ (s : State) (o : OpO) (k : BitVec 8), Acts (.taskget o) s o.pr [] ∧
    o.c = .p k ∧
    s.w.tryOpen = false ∧
    o.d.isS = true ∧
    s.operandsFree (.taskget o) [o.d] 1 (s.w.holds o.pr) = true ∧
    s.w.tskValid = true :=
  ⟨withW s0 fun w => { w with tskValid := true }, oO 7 (.s 6) z z (.p 1) 0, 1,
    by unfold Acts Runs Clean; decide +kernel, rfl, by decide +kernel⟩

theorem wit_Tasks_3 : ∃ (s : State) (o : OpO) (k : BitVec 8) (i : _) (rest : _), Acts (.taskget o) s o.pr [] ∧
    o.c = .p k ∧
    s.w.tryOpen = false ∧
    o.d.isS = true ∧
    s.operandsFree (.taskget o) [o.d] 1 (s.w.holds o.pr) = true ∧
    s.w.tskValid = false ∧
    (s.launch s.w.launch).job ≠ none ∧
    (s.launch s.w.launch).vers = false ∧
    look [] (s.launch s.w.launch).chunks (s.block s.w.blk).idx = i :: rest :=
  ⟨sJob, oO 7 (.s 6) z z (.p 1) 0, 1, 5, [], by unfold Acts Runs Clean; decide +kernel, rfl, by decide +kernel⟩

theorem wit_Tasks_5 : ∃ (s : State) (o : OpO), Acts (.taskdone o) s o.pr [] ∧
    s.w.tryOpen = false ∧
    s.w.tskValid = false :=
  ⟨s0, oO 7 z z z z 0, by unfold Acts Runs Clean; decide +kernel, by decide +kernel⟩

theorem wit_Tasks_6 : ∃ (s : State) (o : OpO), Acts (.taskdone o) s o.pr [] ∧
    s.w.tryOpen = false ∧
    s.w.tskValid = true ∧
    s.w.tskVers = false :=
  ⟨withW s0 fun w => { w with tskValid := true }, oO 7 z z z z 0, by unfold Acts Runs Clean; decide +kernel,
    by decide +kernel⟩

theorem wit_Tasks_7 : ∃ (s : State) (o : OpO) (k : BitVec 8) (tag : Nat), Acts (.vbegin o) s o.pr [] ∧
    o.d = .p k ∧
    s.w.tryOpen = false ∧
    s.w.tskValid = true ∧
    s.w.tskVers = false ∧
    s.freeTag = some tag :=
  ⟨withW s0 fun w => { w with tskValid := true }, oO 7 (.p 1) z z z 0, 1, 1,
    by unfold Acts Runs Clean; decide +kernel, rfl, by decide +kernel⟩

theorem wit_Tasks_8 : ∃ (s : State) (o : OpO) (k : BitVec 8), Acts (.vbegin o) s o.pr [] ∧
    o.d = .p k ∧
    (s.w.tryOpen = true ∨ s.w.tskValid = false ∨ s.w.tskVers = true) :=
  ⟨s0, oO 7 (.p 1) z z z 0, 1, by unfold Acts Runs Clean; decide +kernel, rfl, by decide +kernel⟩

theorem wit_Tasks_9 : ∃ (s : State) (o : OpO) (k : BitVec 8), Acts (.vend o) s o.pr [] ∧
    o.d = .p k ∧
    (s.w.tryOpen = true ∨ s.w.tskVers = false) :=
  ⟨s0, oO 7 (.p 1) z z z 0, 1, by unfold Acts Runs Clean; decide +kernel, rfl, by decide +kernel⟩

theorem wit_Tasks_10 : ∃ (s : State) (o : OpO) (k : BitVec 8), Acts (.vend o) s o.pr [] ∧
    o.d = .p k ∧
    s.idleIn 4 ∧
    s.holdsNothing s.w.tskVer ∧
    s.w.tryOpen = false ∧
    s.w.tskVers = true :=
  ⟨withW s0 fun w => { w with tskValid := true, tskVers := true, tskVer := 1 }, oO 7 (.p 1) z z z 0, 1,
    by unfold Acts Runs Clean; decide +kernel, rfl, (by unfold State.idleIn; decide +kernel),
    (by unfold State.holdsNothing; decide +kernel), by decide +kernel⟩

theorem wit_SpecialRegisters_1 : ∃ (s : State) (reg : BitVec 6) (o : OpO) (n : Nat), Acts (.srd reg o) s o.pr [] ∧
    special s reg.toNat = some n ∧
    s.operandsFree (.srd reg o) [o.d] 1 (s.w.holds o.pr) = true :=
  ⟨s0, 31, oO 7 (.s 6) z z z 0, 0, by unfold Acts Runs Clean; decide +kernel, by decide +kernel⟩

theorem wit_SpecialRegisters_2 : ∃ (s : State) (reg : BitVec 6) (o : OpO) (u : State) (w : Warp), Acts (.swr reg o) s o.pr (sSrc o.a) ∧
    rewrites s reg.toNat (BitVec.ofNat 64 (s.w.read 64 o.a 0).n) = some (u, w) ∧
    (reg = 1 → partOk (s.w.read 64 o.a 0).n = true) ∧
    (reg = 2 → s.w.tryOpen = false ∧ s.tiles s.cur = 0 ∧ 1 ≤ (s.w.read 64 o.a 0).n ∧ (s.w.read 64 o.a 0).n ≤ min 256 s.w.rows) :=
  ⟨s0, 14, oO 7 z (.s 6) z z 0, _, _, by unfold Acts Runs Clean; decide +kernel, rfl, by decide +kernel⟩

theorem wit_DebugTraps_1 : ∃ (s : State) (o : OpO), Acts (.trap o) s o.pr [] ∧
    s.handlerWaits { cls := 0x0A, cause := BitVec.ofNat 8 o.a.num } = none :=
  ⟨s0, oO 7 z (.l 255) z z 0, by unfold Acts Runs Clean; decide +kernel, by decide +kernel⟩

theorem wit_DebugTraps_2 : ∃ (s : State) (o : OpO), Acts (.bkpt o) s o.pr [] ∧
    (s.w.skipBk = true → s.w.skipPc ≠ s.w.pc) ∧
    s.w.inh = false ∧
    s.w.tryOpen = false :=
  ⟨s0, oO 7 z z z z 0, by unfold Acts Runs Clean; decide +kernel, by decide +kernel⟩

theorem wit_DebugTraps_3 : ∃ (s : State) (o : OpO), Acts (.bkpt o) s o.pr [] ∧
    s.w.skipBk = true ∧
    s.w.skipPc = s.w.pc :=
  ⟨withW s0 fun w => { w with skipBk := true, skipPc := w.pc }, oO 7 z z z z 0,
    by unfold Acts Runs Clean; decide +kernel, by decide +kernel⟩

theorem wit_DebugTraps_5 : ∃ (s : State) (o : OpO), Acts (.wpset o) s o.pr [(o.a, 2), (o.b, 2)] ∧
    (s.w.read 64 o.b 0).n ≤ 255 ∧
    (s.w.read 64 o.b 0).n % 32 ≤ 20 :=
  ⟨withW s0 fun w => { w with s := [(4, { val := 0xF4 })] }, oO 7 (.l 3) (.s 2) (.s 4) z 0,
    by unfold Acts Runs Clean; decide +kernel, by decide +kernel⟩

theorem wit_DebugTraps_4 : ∃ (s : State) (o : OpO), Acts (.bkpt o) s o.pr [] ∧
    (s.w.skipBk = true → s.w.skipPc ≠ s.w.pc) ∧
    s.w.inh = true :=
  ⟨withW s0 fun w => { w with tcause := 0x40000000 }, oO 7 z z z z 0, by unfold Acts Runs Clean; decide +kernel,
    by decide +kernel⟩

theorem wit_HaltsAndDumps_1 : ∃ (s : State) (o : OpO) (k : BitVec 8), Acts (.halta o) s o.pr [] ∧
    o.d = .p k ∧
    s.haltaTargets (bits o.m.toNat 5 3) = [] :=
  ⟨s0, oO 7 (.p 1) z z z 0, 1, by unfold Acts Runs Clean; decide +kernel, rfl, by decide +kernel⟩

theorem wit_HaltsAndDumps_2 : ∃ (s : State) (o : OpO) (ts : List Nat), Acts (.halta o) s o.pr [] ∧
    s.haltaTargets (bits o.m.toNat 5 3) = ts ∧
    ts ≠ [] ∧
    (∀ k ∈ ts, (s.warp k).status = .run ∧ (s.warp k).wait = .none) :=
  ⟨sTwo, oO 7 (.p 1) z z z 8, [1], by unfold Acts Runs Clean; decide +kernel, by decide +kernel⟩

theorem wit_HaltsAndDumps_4 : ∃ (s : State) (o : OpO), Acts (.dumpw o) s o.pr [(o.a, 2), (o.b, 2)] ∧
    (s.w.read 64 o.a 0).n % 128 = 0 ∧
    (∀ e ∈ s.blockMates s.cur, e.2.inDumpw = false) :=
  ⟨s0, oO 7 (.p 1) (.s 2) (.s 4) z 0, by unfold Acts Runs Clean; decide +kernel, by decide +kernel⟩

theorem wit_HaltsAndDumps_6 : ∃ (s : State) (a b : Word) (d : Opnd) (m : W32), s.w.wait = .dumpw a b d m ∧
    s.blockMates s.cur = [] ∧
    s.quiet s.cur = true ∧
    (∀ c ∈ s.cmds, c.launch = s.w.launch → c.blk = s.w.blk → c.tiles = true) ∧
    b.toNat < 256 :=
  ⟨withW s0 fun w => { w with wait := .dumpw 0 255 (.p 1) 0xFFFFFFFF }, 0, 255, .p 1, 0xFFFFFFFF, by decide +kernel⟩

theorem wit_HaltsAndDumps_7 : ∃ (s : State) (a b : Word) (d : Opnd) (m : W32), (∀ n, n ≤ b.toNat → s.areaReady s.cid s.w.ctx a n = (s, true)) ∧
    s.w.wait = .dumpw a b d m ∧
    s.blockMates s.cur = [] ∧
    s.quiet s.cur = true ∧
    (∀ c ∈ s.cmds, c.launch = s.w.launch → c.blk = s.w.blk → c.tiles = true) ∧
    256 ≤ b.toNat ∧
    s.holdTag s.cur = 0 :=
  ⟨sDump, 0, 256, .p 1, 0xFFFFFFFF, area256, by decide +kernel⟩

theorem wit_HaltsAndDumps_3 : ∃ (s : State) (ts : List (Nat × Nat)) (k : BitVec 8) (m : W32), s.w.wait = .halta ts (.p k) m ∧
    (∀ e ∈ ts, ∀ x, s.warpIn e.1 e.2 = some x → x.status ≠ .run) :=
  ⟨sHalta, [(2, 0)], 1, 0xFFFFFFFF, rfl, (noneThere (by decide +kernel))⟩

theorem wit_HaltsAndDumps_5 : ∃ (s : State) (o : OpO) (k : BitVec 8), Acts (.dumpw o) s o.pr [(o.a, 2), (o.b, 2)] ∧
    o.d = .p k ∧
    (s.w.read 64 o.a 0).n % 128 = 0 ∧
    (s.w.read 64 o.b 0).n < 256 ∧
    s.blockMates s.cur = [] ∧
    s.quiet s.cur = true ∧
    (∀ c ∈ s.cmds, c.launch = s.w.launch → c.blk = s.w.blk → c.tiles = true) :=
  ⟨s0, oO 7 (.p 1) (.s 2) (.s 4) z 0, 1, by unfold Acts Runs Clean; decide +kernel, rfl, by decide +kernel⟩

theorem wit_SystemWaits_1 : ∃ (s : State) (o : OpO), Acts (.tlbinv o) s o.pr ((o.a, 2) :: sSrc o.b) ∧
    (s.w.read 64 o.b 0).n ≤ 2 ^ 20 ∧
    s.roomFor false [] = true :=
  ⟨s0, oO 7 z (.s 2) (.l 255) z 0, by unfold Acts Runs Clean; decide +kernel, by decide +kernel⟩

theorem wit_SystemWaits_2 : ∃ (s : State) (o : OpO) (ia : Nat), Acts (.sigwait o) s o.pr [(o.a, 2), (o.b, 2)] ∧
    s.w.tryOpen = false ∧
    (BitVec.ofNat 64 (s.w.read 64 o.a 0).n).toNat % 8 = 0 ∧
    (s.ctx s.w.ctx).translate .load (BitVec.ofNat 64 (s.w.read 64 o.a 0).n) = .ok ia :=
  ⟨s0, oO 7 (.p 1) (.s 2) (.s 4) (.l 0) 0, 0, by unfold Acts Runs Clean; decide +kernel, by decide +kernel⟩

theorem wit_SystemWaits_3 : ∃ (s : State) (o : OpO) (k : BitVec 8), Acts (.digest o) s o.pr (if bit o.m.toNat 0 then [(o.a, 2)] else []) ∧
    o.c = .p k ∧
    s.operandsFree (.digest o) [o.d] 2 (s.w.holds o.pr) = true ∧
    (bit o.m.toNat 0 = true → (s.w.read 64 o.a 0).n ≤ s.lyre.seq.toNat) :=
  ⟨s0, oO 7 (.s 6) z z (.p 1) 0, 1, by unfold Acts Runs Clean; decide +kernel, rfl, by decide +kernel⟩

theorem wit_Branches_1_call : ∃ (i : Instr) (s r u : State) (x : Jump) (hw : Word), jumpOf i = some x ∧
    Runs i u ∧
    s.fetchWord s.w.ctx (x.to_ s.w) = .word hw r ∧
    (x.call = true → hdrCall hw = true ∧ s.w.cstk.length < 32) ∧
    (x.takers s.w ≠ s.w.exm → s.w.rstk.length < 32 ∧ hdrUniform s.w.hw = false ∧ (hdrReconv s.w.hw ≠ 0 → r.headerAt s.w.ctx s.w.rejoin = .ok (true, u))) ∧
    (x.takers s.w = s.w.exm ∨ hdrReconv s.w.hw = 0 → u = r) ∧
    u.w = s.w ∧
    u.clk = s.clk ∧
    s.w.psnd x.pr = 0 ∧
    s.w.anyPoison x.srcs (s.w.holds x.pr) = false ∧
    s.w.holds x.pr ≠ 0 ∧
    headerOk hw = true ∧
    (x.to_ s.w).toNat % 8 = 0 ∧
    hdrHandler hw = false :=
  ⟨.call (oI 7 z z 2), sCall, fetched sCall 0x1018, fetched sCall 0x1018, _, plainHeader 2 ||| 4, rfl,
    by unfold Runs; decide +kernel, fetchTo (by decide +kernel), (fun _ => by decide +kernel),
    (fun h => absurd (by decide +kernel) h), (fun _ => rfl), by decide +kernel⟩

theorem wit_Branches_1_brx : ∃ (i : Instr) (s r u : State) (x : Jump) (hw : Word), jumpOf i = some x ∧
    Runs i u ∧
    s.fetchWord s.w.ctx (x.to_ s.w) = .word hw r ∧
    (x.call = true → hdrCall hw = true ∧ s.w.cstk.length < 32) ∧
    (x.takers s.w ≠ s.w.exm → s.w.rstk.length < 32 ∧ hdrUniform s.w.hw = false ∧ (hdrReconv s.w.hw ≠ 0 → r.headerAt s.w.ctx s.w.rejoin = .ok (true, u))) ∧
    (x.takers s.w = s.w.exm ∨ hdrReconv s.w.hw = 0 → u = r) ∧
    u.w = s.w ∧
    u.clk = s.clk ∧
    s.w.psnd x.pr = 0 ∧
    s.w.anyPoison x.srcs (s.w.holds x.pr) = false ∧
    s.w.holds x.pr ≠ 0 ∧
    headerOk hw = true ∧
    (x.to_ s.w).toNat % 8 = 0 ∧
    hdrHandler hw = false :=
  ⟨.brx (oO 7 z (.s 4) z z 0), withS s0 [(4, 0x1018)], fetched (withS s0 [(4, 0x1018)]) 0x1018,
    fetched (withS s0 [(4, 0x1018)]) 0x1018, _, plainHeader 2, rfl, by unfold Runs; decide +kernel,
    fetchTo (by decide +kernel), (fun h => absurd h (by decide +kernel)), (fun h => absurd (by decide +kernel) h),
    (fun _ => rfl), by decide +kernel⟩

theorem wit_Branches_1_callx : ∃ (i : Instr) (s r u : State) (x : Jump) (hw : Word), jumpOf i = some x ∧
    Runs i u ∧
    s.fetchWord s.w.ctx (x.to_ s.w) = .word hw r ∧
    (x.call = true → hdrCall hw = true ∧ s.w.cstk.length < 32) ∧
    (x.takers s.w ≠ s.w.exm → s.w.rstk.length < 32 ∧ hdrUniform s.w.hw = false ∧ (hdrReconv s.w.hw ≠ 0 → r.headerAt s.w.ctx s.w.rejoin = .ok (true, u))) ∧
    (x.takers s.w = s.w.exm ∨ hdrReconv s.w.hw = 0 → u = r) ∧
    u.w = s.w ∧
    u.clk = s.clk ∧
    s.w.psnd x.pr = 0 ∧
    s.w.anyPoison x.srcs (s.w.holds x.pr) = false ∧
    s.w.holds x.pr ≠ 0 ∧
    headerOk hw = true ∧
    (x.to_ s.w).toNat % 8 = 0 ∧
    hdrHandler hw = false :=
  ⟨.callx (oO 7 z (.s 4) z z 0), withS sCall [(4, 0x1018)], fetched (withS sCall [(4, 0x1018)]) 0x1018,
    fetched (withS sCall [(4, 0x1018)]) 0x1018, _, plainHeader 2 ||| 4, rfl, by unfold Runs; decide +kernel,
    fetchTo (by decide +kernel), (fun _ => by decide +kernel), (fun h => absurd (by decide +kernel) h),
    (fun _ => rfl), by decide +kernel⟩

theorem wit_LoadsStart_1_ldw : ∃ (i : Instr) (s : State) (x : MemForm), loadForm i = some x ∧
    Runs i s ∧
    x.loadFree i s (x.loadAccs s) ∧
    x.aligned s ∧
    s.w.unwatched ∧
    (x.tryless = true → s.w.tryOpen = false) ∧
    s.w.holds x.o.pr ≠ 0 :=
  ⟨.ldw .b128 (oM 7 (.s 6) true 4 0x1FFF0 0 false false false false), s0, _, rfl, by unfold Runs; decide +kernel,
    by unfold MemForm.loadFree; decide +kernel, lanes _ _ (by decide +kernel),
    by unfold Warp.unwatched; decide +kernel, by decide +kernel⟩

theorem wit_LoadsStart_1_ldacq : ∃ (i : Instr) (s : State) (x : MemForm), loadForm i = some x ∧
    Runs i s ∧
    x.loadFree i s (x.loadAccs s) ∧
    x.aligned s ∧
    s.w.unwatched ∧
    (x.tryless = true → s.w.tryOpen = false) ∧
    s.w.holds x.o.pr ≠ 0 :=
  ⟨.ldacq .u32 (oM 7 (.v 6) true 4 0x1000 4 false false false true), s0, _, rfl, by unfold Runs; decide +kernel,
    by unfold MemForm.loadFree; decide +kernel, lanes _ _ (by decide +kernel),
    by unfold Warp.unwatched; decide +kernel, by decide +kernel⟩

theorem wit_LoadsStart_2_ldk : ∃ (i : Instr) (s : State) (x : MemForm) (clus : Bool), padLoadForm i = some (x, clus) ∧
    Runs i s ∧
    x.loadFree i s (x.padLoadAccs clus s) ∧
    x.padAligned s ∧
    x.padThere clus s ∧
    s.w.holds x.o.pr ≠ 0 ∧
    x.o.d.isS = false :=
  ⟨.ldk .u32 (oM 7 (.v 6) true 4 0x3FFC 0 false false false false), sPad, _, _, rfl, by unfold Runs; decide +kernel,
    by unfold MemForm.loadFree; decide +kernel, lanes _ _ (by decide +kernel),
    (by rintro l ⟨h, _⟩ _; apply isOk; revert l; decide +kernel), by decide +kernel⟩

theorem wit_StoresStart_1_strel : ∃ (i : Instr) (s : State) (x : MemForm), storeForm i = some x ∧
    Runs i s ∧
    x.storeFree i s (x.storeAccs s) 2 ∧
    x.aligned s ∧
    x.mapped s ∧
    s.w.unwatched ∧
    (x.tryless = true → s.w.tryOpen = false) ∧
    s.w.holds x.o.pr ≠ 0 :=
  ⟨.strel .u64 (oM 7 (.v 6) true 4 0x1000 3 false false false false), s0, _, rfl, by unfold Runs; decide +kernel,
    by unfold MemForm.storeFree Clean; decide +kernel, lanes _ _ (by decide +kernel),
    (by rintro l ⟨h, _⟩; apply isX; revert l; decide +kernel), by unfold Warp.unwatched; decide +kernel,
    by decide +kernel⟩

theorem wit_StoresStart_2_sts : ∃ (i : Instr) (s : State) (x : MemForm) (clus : Bool), padStoreForm i = some (x, clus) ∧
    Runs i s ∧
    s.w.holds x.o.pr ≠ 0 ∧
    x.storeFree i s (x.padStoreAccs clus s) 1 ∧
    x.padAligned s ∧
    x.padThere clus s :=
  ⟨.sts .u32 (oM 7 (.v 6) true 4 0x13FFC 0 false false false false), sPad, _, _, rfl, by unfold Runs; decide +kernel,
    by decide +kernel, by unfold MemForm.storeFree Clean; decide +kernel, lanes _ _ (by decide +kernel),
    (by rintro l ⟨h, _⟩ _; apply isOk; revert l; decide +kernel)⟩

theorem wit_CacheAndFence_1_inv : ∃ (i : Instr) (s : State) (x : OpM × OpKind), cctlForm i = some x ∧
    Runs i s ∧
    s.w.tryOpen = false ∧
    s.w.holds x.1.pr ≠ 0 ∧
    s.roomFor false (lineAccs x.1 s) = true :=
  ⟨.cctlInv (oM 7 z true 4 0x1000 4 false false false false), s0, _, rfl, by unfold Runs; decide +kernel,
    by decide +kernel⟩

theorem wit_CacheAndFence_1_wbinv : ∃ (i : Instr) (s : State) (x : OpM × OpKind), cctlForm i = some x ∧
    Runs i s ∧
    s.w.tryOpen = false ∧
    s.w.holds x.1.pr ≠ 0 ∧
    s.roomFor false (lineAccs x.1 s) = true :=
  ⟨.cctlWbinv (oM 7 z true 4 0x1000 1 false false false false), s0, _, rfl, by unfold Runs; decide +kernel,
    by decide +kernel⟩

theorem wit_CacheAndFence_3_l2 : ∃ (i : Instr) (s : State) (o : OpM) (l1 : Bool), prefForm i = some (o, l1) ∧
    Runs i s :=
  ⟨.prefL2 (oM 7 z true 4 0x1000 0 false false false false), s0, _, _, rfl, by unfold Runs; decide +kernel⟩

theorem wit_CacheAndFence_4 : ∃ (s : State) (x : Pref) (p : Spot), s.prefs = [x] ∧
    x.l1 = false ∧
    ({ s with prefs := [] } : State).prepare (.by .load x.ctx) x.ia = ({ s with prefs := [] }, .spot p) :=
  ⟨{ s0 with prefs := [⟨0, 1, 0x1000, 0x1000, false⟩] }, ⟨0, 1, 0x1000, 0x1000, false⟩,
    prepSpot (s0.prepare (.by .load 1) 0x1000), by decide +kernel⟩

theorem wit_Waits_3_any : ∃ (i : Instr) (s : State) (o : OpI) (all : Bool), tagWaitOf i = some (o, all) ∧
    Runs i s ∧
    Clean s o.pr (tagSrc o) ∧
    s.w.tryOpen = false ∧
    s.w.holds o.pr ≠ 0 ∧
    (s.core s.cid).tagName &&& Sys2Proof.Machine.tagMask s.w o = 0 ∧
    (if all then (s.core s.cid).tagDone &&& Sys2Proof.Machine.tagMask s.w o = Sys2Proof.Machine.tagMask s.w o else (s.core s.cid).tagDone &&& Sys2Proof.Machine.tagMask s.w o ≠ 0 ∨ Sys2Proof.Machine.tagMask s.w o = 0) :=
  ⟨.tagany (oI 7 z z 5), s0.putCore 0 { tagDone := 4 }, _, _, rfl, by unfold Runs; decide +kernel,
    by unfold Clean; decide +kernel, by decide +kernel⟩

theorem wit_Tasks_2 : ∃ (s : State) (o : OpO) (k : BitVec 8), Acts (.taskget o) s o.pr [] ∧
    o.c = .p k ∧
    s.w.tryOpen = false ∧
    o.d.isS = true ∧
    s.operandsFree (.taskget o) [o.d] 1 (s.w.holds o.pr) = true ∧
    s.w.tskValid = false ∧
    (s.launch s.w.launch).job = none :=
  ⟨s0, oO 7 (.s 6) z z (.p 1) 0, 1, by unfold Acts Runs Clean; decide +kernel, rfl, by decide +kernel⟩

theorem wit_Tasks_4 : ∃ (s : State) (o : OpO) (k : BitVec 8), Acts (.taskget o) s o.pr [] ∧
    o.c = .p k ∧
    s.w.tryOpen = false ∧
    o.d.isS = true ∧
    s.operandsFree (.taskget o) [o.d] 1 (s.w.holds o.pr) = true ∧
    s.w.tskValid = false ∧
    (s.launch s.w.launch).job ≠ none ∧
    look [] (s.launch s.w.launch).chunks (s.block s.w.blk).idx = [] ∧
    (s.launch s.w.launch).rem = 0 ∧
    (s.launch s.w.launch).redeal = [] ∧
    (s.launch s.w.launch).undone = [] :=
  ⟨sNoTask, oO 7 (.s 6) z z (.p 1) 0, 1, by unfold Acts Runs Clean; decide +kernel, rfl, by decide +kernel⟩

theorem wit_Hints_1_next : ∃ (i : Instr) (s : State), isHint i = true ∧
    Runs i s :=
  ⟨.hintNext (oO 7 z z z z 0), s0, by decide +kernel, by unfold Runs; decide +kernel⟩

theorem wit_Hints_1_far : ∃ (i : Instr) (s : State), isHint i = true ∧
    Runs i s :=
  ⟨.hintFar (oO 7 z (.s 4) z z 0), s0, by decide +kernel, by unfold Runs; decide +kernel⟩

theorem wit_Hints_1_likely : ∃ (i : Instr) (s : State), isHint i = true ∧
    Runs i s :=
  ⟨.hintLikely (oO 7 z z z z 0), s0, by decide +kernel, by unfold Runs; decide +kernel⟩

theorem wit_Hints_1_unlikely : ∃ (i : Instr) (s : State), isHint i = true ∧
    Runs i s :=
  ⟨.hintUnlikely (oO 7 z z z z 0), s0, by decide +kernel, by unfold Runs; decide +kernel⟩

theorem wit_OrdersCommands_1_qinit : ∃ (i : Instr) (s : State) (x : Order), orderOf s i = some x ∧
    Runs i s ∧
    Clean s x.pr x.ops ∧
    x.ok ∧
    s.w.tryOpen = false ∧
    s.w.holds x.pr ≠ 0 ∧
    s.roomCmd x.cmd.tiles = true ∧
    (s.warpOps s.cur).any (·.acq) = false :=
  ⟨.qinit (oO 7 z (.s 2) (.s 3) z 0), withS sPad [(2, 0x4000), (3, 0x4100 * 2 ^ 42 + 4 * 2 ^ 30 + 4 * 2 ^ 26)], _,
    rfl, by unfold Runs; decide +kernel, by unfold Clean; decide +kernel,
    (⟨by decide +kernel, by decide +kernel, by unfold State.padOk; decide +kernel, _, rfl, by decide +kernel⟩),
    by decide +kernel⟩

theorem wit_OrdersCommands_1_qpush : ∃ (i : Instr) (s : State) (x : Order), orderOf s i = some x ∧
    Runs i s ∧
    Clean s x.pr x.ops ∧
    x.ok ∧
    s.w.tryOpen = false ∧
    s.w.holds x.pr ≠ 0 ∧
    s.roomCmd x.cmd.tiles = true ∧
    (s.warpOps s.cur).any (·.acq) = false :=
  ⟨.qpush (oO 7 (.l 63) (.s 2) (.s 3) (.l 12) 0), withS sPad [(2, 0x4000), (3, 0x5000)], _, rfl,
    by unfold Runs; decide +kernel, by unfold Clean; decide +kernel,
    (by (repeat' apply And.intro) <;> first | decide | (unfold State.padOk; decide +kernel) | (unfold Warp.hasRows; decide +kernel) | exact lastWell (by decide +kernel) (by unfold State.padOk; decide +kernel)),
    by decide +kernel⟩

theorem wit_OrdersCommands_1_qpop : ∃ (i : Instr) (s : State) (x : Order), orderOf s i = some x ∧
    Runs i s ∧
    Clean s x.pr x.ops ∧
    x.ok ∧
    s.w.tryOpen = false ∧
    s.w.holds x.pr ≠ 0 ∧
    s.roomCmd x.cmd.tiles = true ∧
    (s.warpOps s.cur).any (·.acq) = false :=
  ⟨.qpop (oO 7 (.s 1) (.s 2) (.s 3) (.l 3) 0), withS sPad [(1, 63), (2, 0x4000), (3, 0x5008)], _, rfl,
    by unfold Runs; decide +kernel, by unfold Clean; decide +kernel,
    (by (repeat' apply And.intro) <;> first | decide | (unfold State.padOk; decide +kernel) | (unfold Warp.hasRows; decide +kernel) | exact lastWell (by decide +kernel) (by unfold State.padOk; decide +kernel)),
    by decide +kernel⟩

theorem wit_OrdersCommands_1_accz : ∃ (i : Instr) (s : State) (x : Order), orderOf s i = some x ∧
    Runs i s ∧
    Clean s x.pr x.ops ∧
    x.ok ∧
    s.w.tryOpen = false ∧
    s.w.holds x.pr ≠ 0 ∧
    s.roomCmd x.cmd.tiles = true ∧
    (s.warpOps s.cur).any (·.acq) = false :=
  ⟨.accz (oO 7 (.l 8) (.l 32) z z 0), s0, _, rfl, by unfold Runs; decide +kernel, by unfold Clean; decide +kernel,
    (by (repeat' apply And.intro) <;> first | decide | (unfold State.padOk; decide +kernel) | (unfold Warp.hasRows; decide +kernel) | exact lastWell (by decide +kernel) (by unfold State.padOk; decide +kernel)),
    by decide +kernel⟩

theorem wit_OrdersCommands_1_accmvV : ∃ (i : Instr) (s : State) (x : Order), orderOf s i = some x ∧
    Runs i s ∧
    Clean s x.pr x.ops ∧
    x.ok ∧
    s.w.tryOpen = false ∧
    s.w.holds x.pr ≠ 0 ∧
    s.roomCmd x.cmd.tiles = true ∧
    (s.warpOps s.cur).any (·.acq) = false :=
  ⟨.accmvV (oO 7 (.v 4) (.l 0) (.l 16) z 0), s0, _, rfl, by unfold Runs; decide +kernel,
    by unfold Clean; decide +kernel,
    (by (repeat' apply And.intro) <;> first | decide | (unfold State.padOk; decide +kernel) | (unfold Warp.hasRows; decide +kernel) | exact lastWell (by decide +kernel) (by unfold State.padOk; decide +kernel)),
    by decide +kernel⟩

theorem wit_OrdersCommands_1_accmvA : ∃ (i : Instr) (s : State) (x : Order), orderOf s i = some x ∧
    Runs i s ∧
    Clean s x.pr x.ops ∧
    x.ok ∧
    s.w.tryOpen = false ∧
    s.w.holds x.pr ≠ 0 ∧
    s.roomCmd x.cmd.tiles = true ∧
    (s.warpOps s.cur).any (·.acq) = false :=
  ⟨.accmvA (oO 7 (.s 4) (.v 8) (.s 16) z 1), withS s0 [(4, 7935), (16, 1)], _, rfl, by unfold Runs; decide +kernel,
    by unfold Clean; decide +kernel,
    (by (repeat' apply And.intro) <;> first | decide | (unfold State.padOk; decide +kernel) | (unfold Warp.hasRows; decide +kernel) | exact lastWell (by decide +kernel) (by unfold State.padOk; decide +kernel)),
    by decide +kernel⟩

theorem wit_OrdersCommands_1_accst : ∃ (i : Instr) (s : State) (x : Order), orderOf s i = some x ∧
    Runs i s ∧
    Clean s x.pr x.ops ∧
    x.ok ∧
    s.w.tryOpen = false ∧
    s.w.holds x.pr ≠ 0 ∧
    s.roomCmd x.cmd.tiles = true ∧
    (s.warpOps s.cur).any (·.acq) = false :=
  ⟨.accst (oO 7 (.l 2) (.l 0) (.s 3) (.l 17) 2), withS sPad [(3, 0x4000)], _, rfl, by unfold Runs; decide +kernel,
    by unfold Clean; decide +kernel,
    (by (repeat' apply And.intro) <;> first | decide | (unfold State.padOk; decide +kernel) | (unfold Warp.hasRows; decide +kernel) | exact lastWell (by decide +kernel) (by unfold State.padOk; decide +kernel)),
    by decide +kernel⟩

theorem wit_OrdersCommands_1_txpose : ∃ (i : Instr) (s : State) (x : Order), orderOf s i = some x ∧
    Runs i s ∧
    Clean s x.pr x.ops ∧
    x.ok ∧
    s.w.tryOpen = false ∧
    s.w.holds x.pr ≠ 0 ∧
    s.roomCmd x.cmd.tiles = true ∧
    (s.warpOps s.cur).any (·.acq) = false :=
  ⟨.txpose (oO 7 z (.s 2) (.s 3) (.s 4) 2), withS sPad [(2, 0x4000), (3, 0x5000), (4, 0x80008)], _, rfl,
    by unfold Runs; decide +kernel, by unfold Clean; decide +kernel,
    (⟨by decide +kernel, by decide +kernel, by decide +kernel, by decide +kernel, by decide +kernel, by unfold State.padOk; decide +kernel, by unfold State.padOk; decide +kernel, fun i j hi hj p h h2 => absurd (h.trans h2.symm) ((by decide +kernel : ∀ i, i < 8 → ∀ j, j < 8 → sTx.formAt sTx.w sTx.cid 0x4000 (128 * i) ≠ sTx.formAt sTx.w sTx.cid 0x5000 (128 * j)) i hi j hj), by decide +kernel⟩),
    by decide +kernel⟩

theorem wit_OrdersCommands_1_mma : ∃ (i : Instr) (s : State) (x : Order), orderOf s i = some x ∧
    Runs i s ∧
    Clean s x.pr x.ops ∧
    x.ok ∧
    s.w.tryOpen = false ∧
    s.w.holds x.pr ≠ 0 ∧
    s.roomCmd x.cmd.tiles = true ∧
    (s.warpOps s.cur).any (·.acq) = false :=
  ⟨.mma 0 4 (oO 7 (.l 0) (.s 2) (.s 3) z 4), withS sPad [(2, 0x4000), (3, 0x6000)], _, rfl,
    by unfold Runs; decide +kernel, by unfold Clean; decide +kernel,
    (by (repeat' apply And.intro) <;> first | decide | (unfold State.padOk; decide +kernel) | (unfold Warp.hasRows; decide +kernel) | exact lastWell (by decide +kernel) (by unfold State.padOk; decide +kernel)),
    by decide +kernel⟩

theorem wit_OrdersCommands_1_mmloop : ∃ (i : Instr) (s : State) (x : Order), orderOf s i = some x ∧
    Runs i s ∧
    Clean s x.pr x.ops ∧
    x.ok ∧
    s.w.tryOpen = false ∧
    s.w.holds x.pr ≠ 0 ∧
    s.roomCmd x.cmd.tiles = true ∧
    (s.warpOps s.cur).any (·.acq) = false :=
  ⟨.mmloop 0 4 (oO 7 (.s 1) (.s 2) (.s 3) (.s 4) 0),
    withS sPad [(2, 0x4000), (3, 0x8000), (4, 2 * 2 ^ 48 + 0x1000 * 2 ^ 24 + 0x1000)], _, rfl,
    by unfold Runs; decide +kernel, by unfold Clean; decide +kernel,
    (by (repeat' apply And.intro) <;> first | decide | (unfold State.padOk; decide +kernel) | (unfold Warp.hasRows; decide +kernel) | exact lastWell (by decide +kernel) (by unfold State.padOk; decide +kernel)),
    by decide +kernel⟩

theorem wit_OrdersByRecord_1_tcopyLd : ∃ (i : Instr) (s u : State) (x : RecordOrder) (c : Cmd), recordOrderOf s i = some x ∧
    Clean s x.pr x.ops ∧
    x.ok ∧
    x.plan = .go u c ∧
    Runs i u ∧
    s.w.tryOpen = false ∧
    s.w.holds x.pr ≠ 0 ∧
    s.roomCmd x.tiles = true ∧
    u.w = s.w :=
  ⟨.tcopyLd (oO 7 (.l 5) (.s 2) (.s 3) z 0), sCopy,
    goState (planOf sCopy (.tcopyLd (oO 7 (.l 5) (.s 2) (.s 3) z 0))) sCopy, _,
    goCmd (planOf sCopy (.tcopyLd (oO 7 (.l 5) (.s 2) (.s 3) z 0))), rfl, by unfold Clean; decide +kernel,
    (by (repeat' apply And.intro) <;> first | decide | decide +kernel), (go_eq (by decide +kernel)),
    (by unfold Runs; decide +kernel), by decide +kernel⟩

theorem wit_OrdersByRecord_1_tcopySt : ∃ (i : Instr) (s u : State) (x : RecordOrder) (c : Cmd), recordOrderOf s i = some x ∧
    Clean s x.pr x.ops ∧
    x.ok ∧
    x.plan = .go u c ∧
    Runs i u ∧
    s.w.tryOpen = false ∧
    s.w.holds x.pr ≠ 0 ∧
    s.roomCmd x.tiles = true ∧
    u.w = s.w :=
  ⟨.tcopySt (oO 7 (.l 5) (.s 2) (.s 3) z 1), sCopy,
    goState (planOf sCopy (.tcopySt (oO 7 (.l 5) (.s 2) (.s 3) z 1))) sCopy, _,
    goCmd (planOf sCopy (.tcopySt (oO 7 (.l 5) (.s 2) (.s 3) z 1))), rfl, by unfold Clean; decide +kernel,
    (by (repeat' apply And.intro) <;> first | decide | decide +kernel), (go_eq (by decide +kernel)),
    (by unfold Runs; decide +kernel), by decide +kernel⟩

theorem wit_OrdersByRecord_1_mcast : ∃ (i : Instr) (s u : State) (x : RecordOrder) (c : Cmd), recordOrderOf s i = some x ∧
    Clean s x.pr x.ops ∧
    x.ok ∧
    x.plan = .go u c ∧
    Runs i u ∧
    s.w.tryOpen = false ∧
    s.w.holds x.pr ≠ 0 ∧
    s.roomCmd x.tiles = true ∧
    u.w = s.w :=
  ⟨.mcast (oO 7 (.l 5) (.s 7) (.s 3) (.l 1) 0), sCopy,
    goState (planOf sCopy (.mcast (oO 7 (.l 5) (.s 7) (.s 3) (.l 1) 0))) sCopy, _,
    goCmd (planOf sCopy (.mcast (oO 7 (.l 5) (.s 7) (.s 3) (.l 1) 0))), rfl, by unfold Clean; decide +kernel,
    (by (repeat' apply And.intro) <;> first | decide | decide +kernel), (go_eq (by decide +kernel)),
    (by unfold Runs; decide +kernel), by decide +kernel⟩

theorem wit_OrdersByRecord_1_scopy : ∃ (i : Instr) (s u : State) (x : RecordOrder) (c : Cmd), recordOrderOf s i = some x ∧
    Clean s x.pr x.ops ∧
    x.ok ∧
    x.plan = .go u c ∧
    Runs i u ∧
    s.w.tryOpen = false ∧
    s.w.holds x.pr ≠ 0 ∧
    s.roomCmd x.tiles = true ∧
    u.w = s.w :=
  ⟨.scopy (oO 7 (.l 5) (.s 4) (.s 5) z 0), sRec, goState (planOf sRec (.scopy (oO 7 (.l 5) (.s 4) (.s 5) z 0))) sRec,
    _, goCmd (planOf sRec (.scopy (oO 7 (.l 5) (.s 4) (.s 5) z 0))), rfl, by unfold Clean; decide +kernel,
    (by (repeat' apply And.intro) <;> first | decide | decide +kernel), (go_eq (by decide +kernel)),
    (by unfold Runs; decide +kernel), by decide +kernel⟩

theorem wit_OrdersByRecord_1_chain : ∃ (i : Instr) (s u : State) (x : RecordOrder) (c : Cmd), recordOrderOf s i = some x ∧
    Clean s x.pr x.ops ∧
    x.ok ∧
    x.plan = .go u c ∧
    Runs i u ∧
    s.w.tryOpen = false ∧
    s.w.holds x.pr ≠ 0 ∧
    s.roomCmd x.tiles = true ∧
    u.w = s.w :=
  ⟨.chain (oO 7 (.l 5) (.s 6) z z 0), sRec, goState (planOf sRec (.chain (oO 7 (.l 5) (.s 6) z z 0))) sRec, _,
    goCmd (planOf sRec (.chain (oO 7 (.l 5) (.s 6) z z 0))), rfl, by unfold Clean; decide +kernel,
    (by (repeat' apply And.intro) <;> first | decide | decide +kernel), (go_eq (by decide +kernel)),
    (by unfold Runs; decide +kernel), by decide +kernel⟩

theorem wit_OrdersByRecord_1_tmac : ∃ (i : Instr) (s u : State) (x : RecordOrder) (c : Cmd), recordOrderOf s i = some x ∧
    Clean s x.pr x.ops ∧
    x.ok ∧
    x.plan = .go u c ∧
    Runs i u ∧
    s.w.tryOpen = false ∧
    s.w.holds x.pr ≠ 0 ∧
    s.roomCmd x.tiles = true ∧
    u.w = s.w :=
  ⟨.tmac (oO 7 (.l 0) (.s 8) z z 0), sMac, goState (planOf sMac (.tmac (oO 7 (.l 0) (.s 8) z z 0))) sMac, _,
    goCmd (planOf sMac (.tmac (oO 7 (.l 0) (.s 8) z z 0))), rfl, by unfold Clean; decide +kernel,
    (by (repeat' apply And.intro) <;> first | decide | decide +kernel), (go_eq (by decide +kernel)),
    (by unfold Runs; decide +kernel), by decide +kernel⟩

theorem wit_OrdersByRecord_2 : ∃ (s u : State) (tag off rec_ : Nat) (store : Bool), s.readRec rec_ 128 = .bad u :=
  ⟨sBad, recState (sBad.readRec 0x3000 128) sBad, 5, 0x4000, 0x3000, false, (bad_eq (by decide +kernel))⟩

theorem wit_OrdersByRecord_3 : ∃ (s u : State) (tag off rec_ : Nat) (store : Bool) (bs : _), s.readRec rec_ 128 = .ok u bs ∧
    shapeOf bs = none :=
  ⟨s0, recState (s0.readRec 0x3000 128) s0, 5, 0x4000, 0x3000, true, recBytes (s0.readRec 0x3000 128),
    (rec_eq (by decide +kernel)), (by decide +kernel)⟩

theorem wit_PutsInFlight_3 : ∃ (s : State) (c : Cmd), (∀ d ∈ s.cmds, d.id < s.nextId) :=
  ⟨{ s0 with cmds := [{ id := 1, opc := 0xA4, kind := .done }], nextId := 2 }, { opc := 0xA4, kind := .done },
    by decide +kernel⟩

theorem wit_PutsInFlight_1 : ∃ (s : State) (c : Cmd) (g : Nat), (∀ d ∈ s.cmds, d.id < s.nextId) ∧
    c.tiles = true ∧
    c.dst = [] ∧
    c.tag = some g :=
  ⟨s0, { opc := 0xB0, tiles := true, tag := some 63, kind := .done }, 63, by decide +kernel⟩

theorem wit_PutsInFlight_2 : ∃ (s : State) (c : Cmd), (∀ d ∈ s.cmds, d.id < s.nextId) ∧
    c.tiles = true ∧
    c.dst = [] :=
  ⟨s0, { opc := 0xB0, tiles := true, kind := .done }, by decide +kernel⟩

theorem wit_OrdersBeyond_1 : ∃ (s : State) (o : OpO), Runs (.interest o) s ∧
    nameOk s o 1000000 ∧
    s.free4 o [(o.a, 2), (o.b, 2), (o.c, 2)] :=
  ⟨sName, oO 7 (.l 63) (.s 2) (.s 4) (.s 6) 0, by unfold Runs; decide +kernel, (by unfold nameOk; decide +kernel),
    (by unfold State.free4 Clean; decide +kernel)⟩

theorem wit_OrdersBeyond_2 : ∃ (s : State) (o : OpO), Runs (.announce o) s ∧
    nameOk s o 0 ∧
    s.free4 o [(o.a, 2), (o.b, 2), (o.c, 2)] :=
  ⟨withS sPad [(6, 0x100004000)], oO 7 (.l 63) (.s 2) (.s 4) (.s 6) 0, by unfold Runs; decide +kernel,
    (by unfold nameOk; decide +kernel), (by unfold State.free4 Clean; decide +kernel)⟩

theorem wit_OrdersBeyond_3 : ∃ (s : State) (o : OpO), Runs (.leaseret o) s ∧
    s.free4 o [(o.a, 2), (o.b, 2)] ∧
    s.w.val64 o.d ≤ 63 ∧
    s.w.val64 o.a ≤ 1023 ∧
    (s.leaseRow (s.w.val64 o.a)).state = .granted ∧
    (s.leaseRow (s.w.val64 o.a)).gseq = s.w.val64 o.b ∧
    (s.leaseRow (s.w.val64 o.a)).borrower = s.did :=
  ⟨{ withS s0 [(2, 1023), (4, 9)] with lyre := { t := { lease := [(1023, { state := .granted, gseq := 9 })] } } },
    oO 7 (.l 63) (.s 2) (.s 4) z 0, by unfold Runs; decide +kernel, (by unfold State.free4 Clean; decide +kernel),
    by decide +kernel⟩

theorem wit_OrdersBeyond_4 : ∃ (s u : State) (o : OpO) (bs : List Byte), Runs (.leasereq o) u ∧
    s.recordOk o ∧
    s.free4 o [(o.a, 2)] ∧
    s.readRec (s.w.val64 o.a) 64 = .ok u bs ∧
    u.w = s.w ∧
    u.leaseFields bs = none ∧
    u.taskStall = none ∧
    (u.warpOps u.cur).any (·.acq) = false :=
  ⟨sCopy, recState (sCopy.readRec 0x3000 64) sCopy, oO 7 (.l 1) (.s 3) z z 0, recBytes (sCopy.readRec 0x3000 64),
    (by unfold Runs; decide +kernel), (by unfold State.recordOk State.readable; decide +kernel),
    (by unfold State.free4 Clean; decide +kernel), (rec_eq (by decide +kernel)), by decide +kernel⟩

theorem wit_OrdersBeyond_5 : ∃ (s u v : State) (o : OpO) (bs : List Byte) (q : Nat × Nat × Nat × Nat × Nat × Nat), Runs (.leasereq o) v ∧
    s.recordOk o ∧
    s.free4 o [(o.a, 2)] ∧
    s.readRec (s.w.val64 o.a) 64 = .ok u bs ∧
    u.planDest { opc := 0xD2, tag := some (s.w.val64 o.d), rec_ := BitVec.ofNat 64 (s.w.val64 o.a), kind := .leasereq u.leng.nextTag q.1 q.2.1 q.2.2.1 q.2.2.2.2.1 q.2.2.2.2.2, dst := u.recDsts (s.w.val64 o.a) 0x30 0x40 } = .go v { opc := 0xD2, tag := some (s.w.val64 o.d), rec_ := BitVec.ofNat 64 (s.w.val64 o.a), kind := .leasereq u.leng.nextTag q.1 q.2.1 q.2.2.1 q.2.2.2.2.1 q.2.2.2.2.2, dst := u.recDsts (s.w.val64 o.a) 0x30 0x40 } ∧
    v.w = s.w ∧
    u.leaseFields bs = some q ∧
    u.isReady .lease = true ∧
    u.w = s.w :=
  ⟨sLend, recState (sLend.readRec 0x3000 64) sLend, goState lendPlan sLend, oO 7 (.l 1) (.s 3) z z 0,
    recBytes (sLend.readRec 0x3000 64), (1, 50, 1, 1, 0x10000, 0), (by unfold Runs; decide +kernel),
    (by unfold State.recordOk State.readable; decide +kernel), (by unfold State.free4 Clean; decide +kernel),
    (rec_eq (by decide +kernel)), (goes_eq (by decide +kernel)), by decide +kernel⟩

theorem wit_OrdersBeyond_6 : ∃ (s u v : State) (o : OpO) (bs : List Byte), Runs (.evpost o) v ∧
    s.recordOk o ∧
    s.free4 o [(o.a, 2)] ∧
    s.readRec (s.w.val64 o.a) 64 = .ok u bs ∧
    u.planDest { opc := 0xD9, tag := some (s.w.val64 o.d), rec_ := BitVec.ofNat 64 (s.w.val64 o.a), kind := .evpost (u.postRec bs) false 0 0, dst := u.recDsts (s.w.val64 o.a) 0 0x18 } = .go v { opc := 0xD9, tag := some (s.w.val64 o.d), rec_ := BitVec.ofNat 64 (s.w.val64 o.a), kind := .evpost (u.postRec bs) false 0 0, dst := u.recDsts (s.w.val64 o.a) 0 0x18 } ∧
    v.w = s.w ∧
    postable (u.ctx s.w.ctx).priv (bits (recWord bs 1) 63 56) = true :=
  ⟨sPost, recState (sPost.readRec 0x3000 64) sPost, goState postPlan sPost, oO 7 (.l 1) (.s 3) z z 0,
    recBytes (sPost.readRec 0x3000 64), (by unfold Runs; decide +kernel),
    (by unfold State.recordOk State.readable; decide +kernel), (by unfold State.free4 Clean; decide +kernel),
    (rec_eq (by decide +kernel)), (goes_eq (by decide +kernel)), by decide +kernel⟩

theorem wit_ContextsAndRegisters_1 : ∃ (s : State) (w0 : Word), bit w0.toNat 63 = true ∧
    (s.ctx s.mgmt.ctxsel).v = false :=
  ⟨State.reset, 0x8000000000000000, by decide +kernel⟩

theorem wit_ContextsAndRegisters_2 : ∃ (s : State) (w0 : Word), bit w0.toNat 63 = true ∧
    (s.ctx s.mgmt.ctxsel).v = true :=
  ⟨{ State.reset with ctxs := [(0, { v := true })] }, 0x8000000000000000, by decide +kernel⟩

theorem wit_ContextsAndRegisters_3 : ∃ (s : State) (w0 : Word), bit w0.toNat 63 = false ∧
    (s.ctx s.mgmt.ctxsel).v = true ∧
    (∀ e ∈ s.launches, e.2.ctx ≠ s.mgmt.ctxsel) ∧
    (∀ e ∈ s.lyre.t.gang, e.2.ctx = s.mgmt.ctxsel → e.2.state = .free) :=
  ⟨{ State.reset with ctxs := [(0, { v := true })] }, 0, by decide +kernel⟩

theorem wit_ContextsAndRegisters_4 : ∃ (s : State) (w0 : Word), bit w0.toNat 63 = false ∧
    (s.ctx s.mgmt.ctxsel).v = true ∧
    ((∃ e ∈ s.launches, e.2.ctx = s.mgmt.ctxsel) ∨ ∃ e ∈ s.lyre.t.gang, e.2.ctx = s.mgmt.ctxsel ∧ e.2.state ≠ .free) :=
  ⟨{ State.reset with ctxs := [(0, { v := true })], launches := [(1, {})] }, 0, by decide +kernel⟩

theorem wit_ContextsAndRegisters_5 : ∃ (s : State) (c : Nat), s.isReady .secp = true ∧
    (s.ctx c).v = true :=
  ⟨{ sReady [.secp] with ctxs := [(0, { v := true })] }, 0, by decide +kernel⟩

theorem wit_ContextsAndRegisters_6 : ∃ (s : State) (x : Word) (k : Nat), k < Config.links ∧
    bits x.toNat 62 61 < 2 :=
  ⟨State.reset, 0x20000000FFFFFFFF, 23, by decide +kernel⟩

theorem wit_ContextsAndRegisters_7 : ∃ (s : State) (x : Word) (c : Nat), c < Config.cores ∧
    10 ≤ x.toNat ∧
    x.toNat ≤ 24 :=
  ⟨State.reset, 24, 159, by decide +kernel⟩

theorem wit_ContextsAndRegisters_8 : ∃ (s : State) (x : Word) (r : Nat), r < 16 ∧
    (s.ctx s.mgmt.ctxsel).v = true :=
  ⟨{ State.reset with ctxs := [(0, { v := true })] }, 0xFFF, 15, by decide +kernel⟩

theorem wit_ContextsAndRegisters_9 : ∃ (s : State) (x : Word) (k : Nat), k < Config.links ∧
    x.getLsbD 62 = false ∧
    64 ≤ (x.extractLsb' 0 32).toNat :=
  ⟨State.reset, 0x40, 23, by decide +kernel⟩

theorem wit_ContextsAndRegisters_10 : ∃ (s : State) (i : Nat), (s.ctx s.mgmt.ctxsel).conf = true ∧
    1 ≤ i ∧
    i ≤ 68 :=
  ⟨{ State.reset with ctxs := [(0, { v := true, conf := true })] }, 68, by decide +kernel⟩

theorem wit_ContextsAndRegisters_11 : ∃ (s : State) (k : Nat), k < 24 :=
  ⟨State.reset, 23, by decide +kernel⟩

theorem wit_ContextsAndRegisters_12 : ∃ (s : State) (c : Nat), c < 40 :=
  ⟨State.reset, 39, by decide +kernel⟩

theorem wit_Starts_1 : ∃ (s : State), s.mgmt.inReset = true ∧
    s.mgmt.stuck = false :=
  ⟨State.reset, by decide +kernel⟩

theorem wit_Starts_2 : ∃ (s : State) (a b : Bool), s.mgmt.inReset = true ∧
    s.mgmt.stuck = false ∧
    (a && b) = false :=
  ⟨State.reset, true, false, by decide +kernel⟩

theorem wit_Starts_3 : ∃ (s : State), s.mgmt.starting = true ∧
    (∀ n, startMeets s n) :=
  ⟨started, by decide +kernel,
    (startsWell (by decide +kernel) (by decide +kernel) (by decide +kernel) (by decide +kernel))⟩

theorem wit_Starts_4 : ∃ (s : State) (r : Nat), ¬ startMeets s r ∧
    (∀ n, 1 ≤ n → n < r → startMeets s n) ∧
    s.mgmt.starting = true ∧
    1 ≤ r ∧
    r ≤ 4 :=
  ⟨{ started with mgmt := { started.mgmt with ready := started.mgmt.ready.take 6 } }, 4,
    (fun h : ∀ c, c < 10 → _ => absurd (h 9 (by omega)) (by decide +kernel)),
    (fun n => startsTo3 (show _ = true by decide +kernel) (show _ = true by decide +kernel) (show 4 ≤ _ by decide +kernel) n),
    by decide +kernel⟩

theorem wit_Starts_6 : ∃ (s : State) (n : Nat), n ≤ s.mgmt.plimit ∧
    100 * n ≤ 95 * s.mgmt.plimit :=
  ⟨State.reset, 2280, by decide +kernel⟩

theorem wit_Starts_7 : ∃ (s : State) (n : Nat), n ≤ s.mgmt.plimit ∧
    95 * s.mgmt.plimit < 100 * n :=
  ⟨State.reset, 2281, by decide +kernel⟩

theorem wit_Starts_5 : ∃ (s : State) (n : Nat), s.mgmt.plimit < n ∧
    1200 < s.mgmt.mhz :=
  ⟨{ State.reset with mgmt := { mhz := 2400 } }, 2500, by decide +kernel⟩

theorem wit_Readiness_1 : ∃ (s : State) (f : Function), present f = true ∧
    s.mgmt.released f = true ∧
    s.isReady f = false :=
  ⟨{ State.reset with mgmt := { inReset := false } }, .dist, by decide +kernel⟩

theorem wit_Readiness_2 : ∃ (s : State) (f : Function), s.mgmt.released f = false :=
  ⟨State.reset, .dist, by decide +kernel⟩

theorem wit_Readiness_3 : ∃ (s : State) (f : Function), s.isReady f = true ∧
    (f = .zith → ∀ c ∈ s.cmds, c.isNamed = false) :=
  ⟨sReady [.link 23], .link 23, by decide +kernel⟩

theorem wit_Readiness_4 : ∃ (s : State) (f : Function), present f = true ∧
    s.isReady f = true ∧
    s.mgmt.closing = [] ∧
    (f = .zith → ∀ c ∈ s.cmds, c.isNamed = false) ∧
    s.busyWith f s.nextId = false :=
  ⟨sReady [.dist], .dist, by decide +kernel⟩

theorem wit_Readiness_5 : ∃ (s : State) (f : Function), present f = true ∧
    s.isReady f = true ∧
    s.mgmt.closing = [] ∧
    s.busyWith f s.nextId = true :=
  ⟨{ sReady [.lyre] with cmds := [{ id := 1, opc := 0xD9, kind := .evpost {} false 0 0 }], nextId := 2 }, .lyre,
    by decide +kernel⟩

theorem wit_Readiness_6 : ∃ (s : State) (q r p : Nat), (∀ j, 0 < j → j < (r + 16 - q) % 16 → s.portLive ((q + j) % 16) = false) ∧
    q < 16 ∧
    r < 16 ∧
    p < 16 ∧
    r ≠ q ∧
    s.portLive r = true ∧
    s.portOf p = q :=
  ⟨{ State.reset with plive := 9 }, 0, 3, 0, (fun j a b => by rcases j with _ | _ | _ | j <;> first | omega | decide),
    by decide +kernel⟩

theorem wit_Readiness_7 : ∃ (s : State) (q p : Nat), q < 16 ∧
    p < 16 ∧
    s.portOf p ≠ q ∧
    s.portLive (s.portOf p) = true :=
  ⟨{ State.reset with plive := 4 }, 1, 2, by decide +kernel⟩

theorem wit_Readiness_8 : ∃ (s : State) (q : Nat), q < 16 :=
  ⟨State.reset, 15, by decide +kernel⟩

theorem wit_Debugger_1 : ∃ (s : State) (x : Word), dbgCmd x = 1 ∧
    s.dbgWarp x = true ∧
    (s.warp (dbgSlot x)).status = .run ∧
    (s.warp (dbgSlot x)).wait = .none :=
  ⟨s0, dbg 1 0 1, by decide +kernel⟩

theorem wit_Debugger_2 : ∃ (s : State) (x : Word), dbgCmd x = 2 ∧
    s.dbgWarp x = true ∧
    (s.warp (dbgSlot x)).status = .stopped :=
  ⟨withW s0 fun w => { w with status := .stopped }, dbg 2 0 1, by decide +kernel⟩

theorem wit_Debugger_3 : ∃ (s r : State) (x hw : Word) (w : Warp), dbgCmd x = 3 ∧
    (s.ctx (dbgCtx x)).conf = false ∧
    s.dbgWarp x = true ∧
    w = s.warp (dbgSlot x) ∧
    w.status = .stopped ∧
    s.mgmt.dbgpc ≠ w.pc ∧
    ({ s with cur := dbgSlot x }).fetchWord w.ctx w.hdr = .word hw r ∧
    r.cur = dbgSlot x ∧
    headerOk hw = true ∧
    inBlock w.hdr (hdrLen hw) s.mgmt.dbgpc = true :=
  ⟨sDbg, fetchState (({ sDbg with cur := 0 } : State).fetchWord 1 0x1000) sDbg, dbg 3 0 1, plainHeader 3, sDbg.warp 0,
    by decide +kernel⟩

theorem wit_Debugger_4 : ∃ (s : State) (x : Word), dbgCmd x = 4 ∧
    (∀ e ∈ s.warps, s.warp e.1 = e.2) ∧
    (∀ e ∈ s.warps, e.2.ctx = dbgCtx x → e.2.status = .run ∧ e.2.wait = .none) :=
  ⟨s0, dbg 4 0 1, by decide +kernel⟩

theorem wit_Debugger_5 : ∃ (s : State) (x : Word), dbgCmd x = 5 ∧
    (∀ e ∈ s.warps, s.warp e.1 = e.2) :=
  ⟨s0, dbg 5 0 0, by decide +kernel⟩

theorem wit_Debugger_6 : ∃ (s : State) (x : Word), 5 < dbgCmd x :=
  ⟨s0, dbg 6 0 0, by decide +kernel⟩

theorem wit_Debugger_7 : ∃ (s : State) (x : Word), dbgCmd x = 3 ∧
    (s.ctx (dbgCtx x)).conf = true :=
  ⟨{ State.reset with ctxs := [(1, { v := true, conf := true })] }, dbg 3 0 1, by decide +kernel⟩

theorem wit_Debugger_8 : ∃ (s : State) (x : Word), s.dbgWarp x = false ∧
    dbgCmd x = 1 :=
  ⟨s0, dbg 1 1 1, by decide +kernel⟩

theorem wit_Debugger_9 : ∃ (s : State) (x : Word), s.dbgWarp x = false ∧
    dbgCmd x = 2 :=
  ⟨s0, dbg 2 0 2, by decide +kernel⟩

theorem wit_Debugger_10 : ∃ (s : State) (x : Word), dbgCmd x = 2 ∧
    s.dbgWarp x = true ∧
    (s.warp (dbgSlot x)).status ≠ .stopped :=
  ⟨s0, dbg 2 0 1, by decide +kernel⟩

theorem wit_FabricLinks_1 : ∃ (s : State) (n : Nat), (n = 0 ∨ (9 ≤ n ∧ n ≤ 0xF) ∨ 0x1C ≤ n) :=
  ⟨State.reset, 9, by decide +kernel⟩

theorem wit_FabricLinks_2 : ∃ (s : State) (q : Nat), (if (s.portLink q).tx then (s.portLink q).v0 else (s.portLink q).v1) = false :=
  ⟨State.reset, 15, by decide +kernel⟩

theorem wit_FabricLinks_3 : ∃ (s : State) (q : Nat), (if (s.portLink q).tx then (s.portLink q).v0 else (s.portLink q).v1) = true :=
  ⟨{ State.reset with keys := [(15, { v1 := true })] }, 15, by decide +kernel⟩

theorem wit_FabricLinks_7 : ∃ (s : State) (q : Nat) (pre rest : List Group) (g : Group), (s.portLink q).buf = pre ++ g :: rest ∧
    (∀ e ∈ pre, e.seq ≠ g.seq) :=
  ⟨{ State.reset with keys := [(0, { buf := [⟨4, false, 0, 16, 1⟩, ⟨5, true, 1, 16, 2⟩, ⟨6, true, 2, 16, 3⟩] })] }, 0,
    [⟨4, false, 0, 16, 1⟩], [⟨6, true, 2, 16, 3⟩], ⟨5, true, 1, 16, 2⟩, by decide +kernel⟩

theorem wit_FabricLinks_8 : ∃ (s : State) (f base cum : Nat) (m : Word), (s.flow f).queued = [] :=
  ⟨State.reset, 16, 0, 64, 0, by decide +kernel⟩

theorem wit_FabricLinks_10 : ∃ (s : State) (f seq n line : Nat), (s.flow f).unack = [(seq, n, line)] ∧
    n < 16 ∧
    (s.portLink (s.portOf (f % 16))).canSend = true :=
  ⟨{ State.reset with flows := [(16, { unack := [(3, 15, 0)] })], keys := [(0, { v0 := true })] }, 16, 3, 15, 0,
    by decide +kernel⟩

theorem wit_FabricLinks_11 : ∃ (s : State) (f seq n line : Nat), (s.flow f).unack = [(seq, n, line)] ∧
    16 ≤ n :=
  ⟨{ State.reset with flows := [(16, { unack := [(3, 16, 0)] })] }, 16, 3, 16, 0, by decide +kernel⟩

theorem wit_FabricLinks_12 : ∃ (s : State) (q f n : Nat) (slot : Bool), (if slot then (s.portLink q).v1 else (s.portLink q).v0) = true ∧
    f ≠ ctlFlow ∧
    (s.flow f).got = [] ∧
    (s.flow f).cum = n ∧
    n + 1 < 2 ^ 32 :=
  ⟨{ State.reset with keys := [(2, { v1 := true })], flows := [(16, { cum := 4294967294 })] }, 2, 16, 4294967294,
    true, by decide +kernel⟩

theorem wit_FabricLinks_13 : ∃ (s : State) (q f n : Nat) (slot : Bool), (if slot then (s.portLink q).v1 else (s.portLink q).v0) = true :=
  ⟨{ State.reset with keys := [(2, { v0 := true })] }, 2, 16, 3, false, by decide +kernel⟩

theorem wit_FabricLinks_15 : ∃ (s : State) (f : Nat), s.homeWaits = [] ∧
    (s.flow f).unack ≠ [] ∧
    (∀ r ∈ s.peerReqs, r.dev = f / 16 → r.line % 16 = f % 16 → r.op = 0) :=
  ⟨{ State.reset with peerReqs := [⟨3, 1, 16, true, 0, []⟩], flows := [(16, { unack := [(3, 16, 0)] })] }, 16,
    by decide +kernel⟩

theorem wit_FabricLinks_4 : ∃ (s : State) (q : Nat), (∀ g ∈ (s.portLink q).buf, g.key ≠ (s.portLink q).tx → s.groupDone g = true) :=
  ⟨{ State.reset with keys := [(0, { buf := [⟨4, true, 0, 16, 9⟩] })] }, 0, by decide +kernel⟩

theorem wit_FabricLinks_5 : ∃ (s : State) (q : Nat) (g : Group), g ∈ (s.portLink q).buf ∧
    g.key ≠ (s.portLink q).tx ∧
    s.groupDone g = false :=
  ⟨{ State.reset with keys := [(0, { buf := [⟨4, true, 0, 16, 9⟩] })], flows := [(16, { unack := [(9, 1, 0)] })] }, 0,
    ⟨4, true, 0, 16, 9⟩, by decide +kernel⟩

theorem wit_FabricLinks_6 : ∃ (s : State) (q : Nat) (slot : Bool), (s.portLink q).v0 = true ∧
    (s.portLink q).v1 = true ∧
    (s.portLink q).tx ≠ slot :=
  ⟨{ State.reset with keys := [(0, { v0 := true, v1 := true })] }, 0, true, by decide +kernel⟩

theorem wit_FabricLinks_9 : ∃ (s : State) (f seq n line : Nat), (s.flow f).unack = [(seq, n, line)] ∧
    n < 16 ∧
    (s.portLink (s.portOf (f % 16))).canSend = false :=
  ⟨{ State.reset with flows := [(16, { unack := [(3, 15, 0)] })] }, 16, 3, 15, 0, by decide +kernel⟩

theorem wit_FabricLinks_14 : ∃ (s : State) (f : Nat), (s.flow f).unack = [] :=
  ⟨State.reset, 16, by decide +kernel⟩

theorem wit_PeerLines_1 : ∃ (s : State) (src ia req : Nat) (p : Spot), s.at .load ia = .loc p ∧
    s.homeWaits = [] ∧
    s.revokedFor src ia = false ∧
    s.cmdOwns (ia / 128) = false ∧
    s.cmdOwns (p.ia / 128) = false ∧
    s.dirEntry (p.ia / 128) = {} :=
  ⟨s0, 1, 0x1000, 7, spotOf (s0.at .load 0x1000), (loc_eq (by decide +kernel)), by decide +kernel⟩

theorem wit_PeerLines_2 : ∃ (s : State) (src ia req d : Nat) (p : Spot), s.at .load ia = .loc p ∧
    s.homeWaits = [] ∧
    s.revokedFor src ia = false ∧
    s.cmdOwns (ia / 128) = false ∧
    s.cmdOwns (p.ia / 128) = false ∧
    (s.dirEntry (p.ia / 128)).owner = some d ∧
    d ≠ src ∧
    look none s.peerFail (failKey (p.ia / 128) false) = none :=
  ⟨sOwned 2, 1, 0x1000, 7, 2, spotOf ((sOwned 2).at .load 0x1000), (loc_eq (by decide +kernel)), by decide +kernel⟩

theorem wit_PeerLines_3 : ∃ (s : State) (src ia req : Nat) (p : Spot), s.at .store ia = .loc p ∧
    s.homeWaits = [] ∧
    s.revokedFor src ia = false ∧
    s.cmdOwns (ia / 128) = false ∧
    s.cmdOwns (p.ia / 128) = false ∧
    s.dirEntry (p.ia / 128) = {} :=
  ⟨s0, 1, 0x1FFFFF, 7, spotOf (s0.at .store 0x1FFFFF), (loc_eq (by decide +kernel)), by decide +kernel⟩

theorem wit_PeerLines_4 : ∃ (s : State) (src ia req : Nat) (p : Spot), s.at .store ia = .loc p ∧
    s.homeWaits = [] ∧
    s.revokedFor src ia = false ∧
    s.cmdOwns (ia / 128) = false ∧
    s.cmdOwns (p.ia / 128) = false ∧
    (s.dirEntry (p.ia / 128)).owner = none ∧
    src ∉ (s.dirEntry (p.ia / 128)).sharers ∧
    (s.dirEntry (p.ia / 128)).sharers ≠ [] :=
  ⟨sShared, 1, 0x1000, 7, spotOf (sShared.at .store 0x1000), (loc_eq (by decide +kernel)), by decide +kernel⟩

theorem wit_PeerLines_5 : ∃ (s : State) (src req : Nat) (a : RmwLane) (wide : Bool) (p : Spot) (old : Nat), s.at .rmw a.addr = .loc p ∧
    s.homeWaits = [] ∧
    s.revokedFor src a.addr = false ∧
    s.cmdOwns (a.addr / 128) = false ∧
    s.cmdOwns (p.ia / 128) = false ∧
    s.dirEntry (p.ia / 128) = {} ∧
    (∀ e ∈ s.l1, e.1 % 2 ^ 49 = p.ia / 128 → e.2.dirty = 0) ∧
    (s.homeSector p (a.addr % 128 / 16)).mark = .none ∧
    old = ofBytes (((s.homeSector p (a.addr % 128 / 16)).data.drop (a.addr % 16)).take (if wide then 8 else 4)) :=
  ⟨s0, 1, 7, { lane := 31, addr := 0x1008, opnd := 1 }, true, spotOf (s0.at .rmw 0x1008), 0x9B70000000000000,
    (loc_eq (by decide +kernel)), by decide +kernel⟩

theorem wit_PeerLines_6 : ∃ (s : State) (src ia : Nat) (mask : BitVec 128) (data : List Byte) (p : Spot), s.at {} ia = .loc p ∧
    s.homeWaits = [] ∧
    s.revokedFor src ia = false ∧
    s.dirEntry (p.ia / 128) = { owner := some src } ∧
    mask ≠ 0 :=
  ⟨sOwned 1, 1, 0x1000, 1, List.replicate 128 7, spotOf ((sOwned 1).at {} 0x1000), (loc_eq (by decide +kernel)),
    by decide +kernel⟩

theorem wit_PeerLines_7 : ∃ (s : State) (src ia : Nat) (mask : BitVec 128) (marks : List Origin) (data : List Byte), s.homeWaits = [] ∧
    s.revokedFor src ia = true :=
  ⟨{ s0 with leng := { revoked := [(1, 0, 1)] } }, 1, 0x1000, 1, [], [], by decide +kernel⟩

theorem wit_PeerLines_8 : ∃ (s : State) (dev ia : Nat) (keep : Bool), (∀ k ∈ s.heldAs dev ia, (s.l2Line k).st ≠ .owned) :=
  ⟨{ sPeer with l2 := [(393216, { st := .shared })] }, 5, 14680064, false, by decide +kernel⟩

theorem wit_PeerLines_9 : ∃ (s : State) (dev ia pia k : Nat) (l2 l1 : Bool), s.homeWaits = [] ∧
    s.heldAs dev ia = [k] ∧
    (s.l2Line k).st = .owned ∧
    s.at {} (128 * k) = .peer dev pia l2 l1 ∧
    s.cmdOwns k = false :=
  ⟨{ sPeer with l2 := [(393216, { st := .owned })] }, 5, 14680064, 14680064, 393216, peerL2 (sPeer.at {} 50331648),
    peerL1 (sPeer.at {} 50331648), by decide +kernel⟩

theorem wit_PeerLines_10 : ∃ (s : State) (r : PeerReq) (data : List Byte) (marks : List Origin) (install : Bool), s.peerReqs = [r] ∧
    r.op = 0 ∧
    s.inSet (s.setOf r.line) = [] ∧
    s.versionWays (s.setOf r.line) = 0 :=
  ⟨{ sPeer with peerReqs := [⟨3, 5, 393216, true, 0, []⟩] }, ⟨3, 5, 393216, true, 0, []⟩, List.replicate 128 7, [],
    true, by decide +kernel⟩

theorem wit_PeerLines_11 : ∃ (s : State) (r : PeerReq) (c : MemCause), s.peerReqs = [r] ∧
    r.op = 0 :=
  ⟨{ sPeer with peerReqs := [⟨3, 5, 393216, true, 0, []⟩] }, ⟨3, 5, 393216, true, 0, []⟩, .pteInvalid,
    by decide +kernel⟩

theorem wit_NumbersEvents_1 : ∃ (s : State), s.harp.lastDelivery + 1000000 ≤ s.atime :=
  ⟨{ State.reset with atime := 1000000 }, by decide +kernel⟩

theorem wit_NumbersEvents_2 : ∃ (s : State), s.atime < s.harp.lastDelivery + 1000000 :=
  ⟨{ State.reset with atime := 999999 }, by decide +kernel⟩

theorem wit_NumbersEvents_3 : ∃ (s : State) (d : Nat), d < 2 ^ 18 :=
  ⟨State.reset, 262143, by decide +kernel⟩

theorem wit_LyrePackets_1 : ∃ (s : State) (e : Rec8), s.isReady .lyre = true ∧
    s.lyre.mode = .running ∧
    (evSeq e ≤ s.lyre.seq.toNat ∨ s.stands (evSeq e) = true) :=
  ⟨sLyre [(5, ev 5 0x0E)], ev 5 0x0E, by decide +kernel⟩

theorem wit_LyrePackets_2 : ∃ (s : State) (e : Rec8), s.isReady .lyre = true ∧
    s.lyre.mode = .running ∧
    s.lyre.seq.toNat < evSeq e ∧
    s.stands (evSeq e) = false ∧
    evSeq e ≤ s.lyre.seq.toNat + Config.ringSlots :=
  ⟨sLyre [], ev 4096 0x0E, by decide +kernel⟩

theorem wit_LyrePackets_3 : ∃ (s : State) (e : Rec8), s.isReady .lyre = true ∧
    s.lyre.mode = .running ∧
    s.lyre.seq.toNat + Config.ringSlots < evSeq e ∧
    s.stands (evSeq e) = false :=
  ⟨sLyre [], ev 4097 0x0E, by decide +kernel⟩

theorem wit_LyrePackets_4 : ∃ (s : State) (src a b : Nat), s.harp.seq < a + s.harp.held.length :=
  ⟨{ State.reset with harp := { seq := 1, held := [ev 1 0x0E] } }, 5, 1, 1, by decide +kernel⟩

theorem wit_LyrePackets_5 : ∃ (s : State) (n : Nat), s.isReady .lyre = true ∧
    s.lyre.mode = .running ∧
    s.nextStanding = some n ∧
    s.lyre.seq.toNat + 1 < n :=
  ⟨sLyre [(3, ev 3 0x0E)], 3, by decide +kernel⟩

theorem wit_LyrePackets_6 : ∃ (s : State) (src q : Nat) (d v : Word) (p : Snapshot) (u : State), s.isReady .lyre = true ∧
    q % 16 = 0 ∧
    s.lyre.mode = .running ∧
    s.lyre.points = [(p, false)] ∧
    s.lyre.reports = [] ∧
    u = { s with lyre := { s.lyre with reports := [(src, q, d)] } } ∧
    majority (LyreTables.members p.tables) (u.votes p) = some v :=
  ⟨{ sLyre [] with lyre := { mode := .running, points := [(aPoint, false)] } }, 1, 16, 0xAB, 0xAB, aPoint,
    { sLyre [] with lyre := { mode := .running, points := [(aPoint, false)], reports := [(1, 16, 0xAB)] } },
    by decide +kernel⟩

theorem wit_LyrePackets_7 : ∃ (s : State) (src s0 : Nat) (p : Snapshot), s.isReady .lyre = true ∧
    s.lyre.mode = .running ∧
    s.pointFor s0 = some p ∧
    (∀ i, i < s.lyre.seq.toNat - p.s0 → s.stands (p.s0 + 1 + i) = true) :=
  ⟨{ sLyre [] with lyre := { mode := .running, points := [(aPoint, false)], ring := [(17, ev 17 0x0E)], seq := 17 } },
    1, 16, aPoint, by decide +kernel⟩

theorem wit_LyrePackets_9 : ∃ (s : State) (src i : Nat) (p : Snapshot), s.lyre.mode = .rejoining ∧
    s.lyre.source = some src ∧
    i < 3104 ∧
    s.lyre.snapGot = 3103 ∧
    majority (LyreTables.members p.tables) ((s.lyre.reports.filter fun r => decide (r.2.1 = p.s0) && decide (r.1 ≠ s.did)).map fun r => r.2.2) = some p.dig ∧
    LyreTables.live p.tables = s.zith.live ∧
    p.s0 < 2 ^ 64 ∧
    (∃ r ∈ s.lyre.reports, p.s0 < r.2.1) :=
  ⟨{ State.reset with lyre := { source := some 1, snapGot := 3103, reports := [(1, 16, 0xAB), (2, 16, 0xAB), (1, 32, 0xCD)] }, zith := { live := [0, 1] } },
    1, 0, aPoint, by decide +kernel⟩

theorem wit_LyrePackets_10 : ∃ (s : State) (src i : Nat) (p : Snapshot), s.lyre.mode = .rejoining ∧
    s.lyre.source = some src ∧
    s.lyre.reports = [] ∧
    i < 3104 ∧
    s.lyre.snapGot = 3103 ∧
    s.lyre.rejects < 2 :=
  ⟨{ State.reset with lyre := { source := some 1, snapGot := 3103, rejects := 1 } }, 1, 3103, aPoint,
    by decide +kernel⟩

theorem wit_LyrePackets_11 : ∃ (s : State), s.did < 2 ^ 18 :=
  ⟨{ State.reset with did := 262143 }, by decide +kernel⟩

theorem wit_LyrePackets_8 : ∃ (s : State) (src i : Nat) (p : Snapshot), s.lyre.mode = .rejoining ∧
    s.lyre.source = some src ∧
    i < 3104 ∧
    s.lyre.snapGot < 3103 :=
  ⟨{ State.reset with lyre := { source := some 1, snapGot := 3102 } }, 1, 3103, aPoint, by decide +kernel⟩

theorem wit_AppliesEvents_1 : ∃ (i : Instr) (s : State) (ty : Nat → Prop) (e : Rec8), appliesType i = some ty ∧
    ty (evType e) ∧
    s.noPosts ∧
    s.isReady .lyre = true ∧
    s.lyre.mode = .running ∧
    s.ringAt (s.lyre.seq.toNat + 1) = e ∧
    evSeq e = s.lyre.seq.toNat + 1 ∧
    evSeq e % 16 ≠ 0 ∧
    LyreTables.live (s.lyre.t.apply e (s.grantKept e)).t = s.zith.live ∧
    ((s.lyre.t.apply e (s.grantKept e)).fx = [] ∨ evSeq e ≤ s.lyre.top) :=
  ⟨.applyTick, sLyre [(1, ev 1 0x0E)], _, ev 1 0x0E, rfl, rfl, (fun c h => by cases h), by decide +kernel⟩

theorem wit_AppliesEvents_2 : ∃ (i : Instr) (s : State) (ty : Nat → Prop), appliesType i = some ty ∧
    (s.stands (s.lyre.seq.toNat + 1) = false ∨ ¬ ty (evType (s.ringAt (s.lyre.seq.toNat + 1))) ∨ s.isReady .lyre = false) :=
  ⟨.applySubmit, sLyre [(1, ev 1 0x0E)], _, rfl, (Or.inr (Or.inl (by decide +kernel)))⟩

theorem wit_AppliesEvents_3 : ∃ (t : LyreTables) (e : Rec8) (fb : Bool), cleanEvent e = false :=
  ⟨{}, ev 1 0x10, true, by decide +kernel⟩

theorem wit_AppliesEvents_5 : ∃ (e : Rec8), (evType e = 0 ∨ 0x10 ≤ evType e) :=
  ⟨ev 1 0x10, by decide +kernel⟩

theorem wit_AppliesEvents_6 : ∃ (a : Applying) (e : Rec8) (fb : Bool) (row : Nat) (g : GangRow), a.t.gangRow (bits e.w3.toNat 63 32) = some (row, g) ∧
    evType e = 3 ∧
    g.state = .placed :=
  ⟨{ t := { gang := [(2, { state := .placed, gang := 9 })] } }, { ev 1 3 with w3 := 0x900000000 }, false, 2,
    { state := .placed, gang := 9 }, by decide +kernel⟩

theorem wit_AppliesEvents_7 : ∃ (a : Applying) (e : Rec8) (fb : Bool) (row : Nat) (g : GangRow), a.t.gangRow (bits e.w3.toNat 63 32) = some (row, g) ∧
    evType e = 4 ∧
    g.state = .blocked :=
  ⟨{ t := { gang := [(2, { state := .blocked, gang := 9 })] } }, { ev 1 4 with w3 := 0x900000000 }, false, 2,
    { state := .blocked, gang := 9 }, by decide +kernel⟩

theorem wit_AppliesEvents_8 : ∃ (a : Applying) (e : Rec8) (fb : Bool) (row : Nat) (g : GangRow), a.t.gangRow (bits e.w3.toNat 63 32) = some (row, g) ∧
    evType e = 5 :=
  ⟨{ t := { gang := [(2, { state := .placed, gang := 9 })] } }, { ev 1 5 with w3 := 0x900000000 }, false, 2,
    { state := .placed, gang := 9 }, by decide +kernel⟩

theorem wit_AppliesEvents_9 : ∃ (a : Applying) (e : Rec8) (fb : Bool) (lid : Nat) (r : LeaseRow), lid < 1024 ∧
    bits e.w3.toNat 9 0 = lid ∧
    a.t.leaseAt lid = r ∧
    r.gseq = e.w4.toNat ∧
    r.state = .granted ∧
    evType e = 0x0A ∧
    evOrigin e = r.lender :=
  ⟨{ t := { lease := [(1023, { state := .granted, gseq := 9 })] } }, { ev 1 0x0A with w3 := 1023, w4 := 9 }, false,
    1023, { state := .granted, gseq := 9 }, by decide +kernel⟩

theorem wit_AppliesEvents_10 : ∃ (a : Applying) (e : Rec8) (fb : Bool) (lid : Nat) (r : LeaseRow), lid < 1024 ∧
    bits e.w3.toNat 9 0 = lid ∧
    a.t.leaseAt lid = r ∧
    r.gseq = e.w4.toNat ∧
    r.state = .granted ∧
    evType e = 0x0B ∧
    evOrigin e = r.borrower :=
  ⟨{ t := { lease := [(1023, { state := .granted, gseq := 9 })] } }, { ev 1 0x0B with w3 := 1023, w4 := 9 }, false,
    1023, { state := .granted, gseq := 9 }, by decide +kernel⟩

theorem wit_AppliesEvents_1_submit : ∃ (i : Instr) (s : State) (ty : Nat → Prop) (e : Rec8), appliesType i = some ty ∧
    ty (evType e) ∧
    s.noPosts ∧
    s.isReady .lyre = true ∧
    s.lyre.mode = .running ∧
    s.ringAt (s.lyre.seq.toNat + 1) = e ∧
    evSeq e = s.lyre.seq.toNat + 1 ∧
    evSeq e % 16 ≠ 0 ∧
    LyreTables.live (s.lyre.t.apply e (s.grantKept e)).t = s.zith.live ∧
    ((s.lyre.t.apply e (s.grantKept e)).fx = [] ∨ evSeq e ≤ s.lyre.top) :=
  ⟨.applySubmit, sApply 1, _, ev 1 1, rfl, rfl, (fun c h => by cases h), by decide +kernel⟩

theorem wit_AppliesEvents_1_finish : ∃ (i : Instr) (s : State) (ty : Nat → Prop) (e : Rec8), appliesType i = some ty ∧
    ty (evType e) ∧
    s.noPosts ∧
    s.isReady .lyre = true ∧
    s.lyre.mode = .running ∧
    s.ringAt (s.lyre.seq.toNat + 1) = e ∧
    evSeq e = s.lyre.seq.toNat + 1 ∧
    evSeq e % 16 ≠ 0 ∧
    LyreTables.live (s.lyre.t.apply e (s.grantKept e)).t = s.zith.live ∧
    ((s.lyre.t.apply e (s.grantKept e)).fx = [] ∨ evSeq e ≤ s.lyre.top) :=
  ⟨.applyFinish, sApply 2, _, ev 1 2, rfl, rfl, (fun c h => by cases h), by decide +kernel⟩

theorem wit_AppliesEvents_1_block : ∃ (i : Instr) (s : State) (ty : Nat → Prop) (e : Rec8), appliesType i = some ty ∧
    ty (evType e) ∧
    s.noPosts ∧
    s.isReady .lyre = true ∧
    s.lyre.mode = .running ∧
    s.ringAt (s.lyre.seq.toNat + 1) = e ∧
    evSeq e = s.lyre.seq.toNat + 1 ∧
    evSeq e % 16 ≠ 0 ∧
    LyreTables.live (s.lyre.t.apply e (s.grantKept e)).t = s.zith.live ∧
    ((s.lyre.t.apply e (s.grantKept e)).fx = [] ∨ evSeq e ≤ s.lyre.top) :=
  ⟨.applyBlock, sApply 3, _, ev 1 3, rfl, rfl, (fun c h => by cases h), by decide +kernel⟩

theorem wit_AppliesEvents_1_unblock : ∃ (i : Instr) (s : State) (ty : Nat → Prop) (e : Rec8), appliesType i = some ty ∧
    ty (evType e) ∧
    s.noPosts ∧
    s.isReady .lyre = true ∧
    s.lyre.mode = .running ∧
    s.ringAt (s.lyre.seq.toNat + 1) = e ∧
    evSeq e = s.lyre.seq.toNat + 1 ∧
    evSeq e % 16 ≠ 0 ∧
    LyreTables.live (s.lyre.t.apply e (s.grantKept e)).t = s.zith.live ∧
    ((s.lyre.t.apply e (s.grantKept e)).fx = [] ∨ evSeq e ≤ s.lyre.top) :=
  ⟨.applyUnblock, sApply 4, _, ev 1 4, rfl, rfl, (fun c h => by cases h), by decide +kernel⟩

theorem wit_AppliesEvents_1_fault : ∃ (i : Instr) (s : State) (ty : Nat → Prop) (e : Rec8), appliesType i = some ty ∧
    ty (evType e) ∧
    s.noPosts ∧
    s.isReady .lyre = true ∧
    s.lyre.mode = .running ∧
    s.ringAt (s.lyre.seq.toNat + 1) = e ∧
    evSeq e = s.lyre.seq.toNat + 1 ∧
    evSeq e % 16 ≠ 0 ∧
    LyreTables.live (s.lyre.t.apply e (s.grantKept e)).t = s.zith.live ∧
    ((s.lyre.t.apply e (s.grantKept e)).fx = [] ∨ evSeq e ≤ s.lyre.top) :=
  ⟨.applyFault, sApply 5, _, ev 1 5, rfl, rfl, (fun c h => by cases h), by decide +kernel⟩

theorem wit_AppliesEvents_1_loss : ∃ (i : Instr) (s : State) (ty : Nat → Prop) (e : Rec8), appliesType i = some ty ∧
    ty (evType e) ∧
    s.noPosts ∧
    s.isReady .lyre = true ∧
    s.lyre.mode = .running ∧
    s.ringAt (s.lyre.seq.toNat + 1) = e ∧
    evSeq e = s.lyre.seq.toNat + 1 ∧
    evSeq e % 16 ≠ 0 ∧
    LyreTables.live (s.lyre.t.apply e (s.grantKept e)).t = s.zith.live ∧
    ((s.lyre.t.apply e (s.grantKept e)).fx = [] ∨ evSeq e ≤ s.lyre.top) :=
  ⟨.applyLoss, sApply 6, _, ev 1 6, rfl, rfl, (fun c h => by cases h), by decide +kernel⟩

theorem wit_AppliesEvents_1_join : ∃ (i : Instr) (s : State) (ty : Nat → Prop) (e : Rec8), appliesType i = some ty ∧
    ty (evType e) ∧
    s.noPosts ∧
    s.isReady .lyre = true ∧
    s.lyre.mode = .running ∧
    s.ringAt (s.lyre.seq.toNat + 1) = e ∧
    evSeq e = s.lyre.seq.toNat + 1 ∧
    evSeq e % 16 ≠ 0 ∧
    LyreTables.live (s.lyre.t.apply e (s.grantKept e)).t = s.zith.live ∧
    ((s.lyre.t.apply e (s.grantKept e)).fx = [] ∨ evSeq e ≤ s.lyre.top) :=
  ⟨.applyJoin, { sApply 7 with zith := { live := [0] } }, _, ev 1 7, rfl, rfl, (fun c h => by cases h),
    by decide +kernel⟩

theorem wit_AppliesEvents_1_reserve : ∃ (i : Instr) (s : State) (ty : Nat → Prop) (e : Rec8), appliesType i = some ty ∧
    ty (evType e) ∧
    s.noPosts ∧
    s.isReady .lyre = true ∧
    s.lyre.mode = .running ∧
    s.ringAt (s.lyre.seq.toNat + 1) = e ∧
    evSeq e = s.lyre.seq.toNat + 1 ∧
    evSeq e % 16 ≠ 0 ∧
    LyreTables.live (s.lyre.t.apply e (s.grantKept e)).t = s.zith.live ∧
    ((s.lyre.t.apply e (s.grantKept e)).fx = [] ∨ evSeq e ≤ s.lyre.top) :=
  ⟨.applyReserve, sApply 8, _, ev 1 8, rfl, rfl, (fun c h => by cases h), by decide +kernel⟩

theorem wit_AppliesEvents_1_grant : ∃ (i : Instr) (s : State) (ty : Nat → Prop) (e : Rec8), appliesType i = some ty ∧
    ty (evType e) ∧
    s.noPosts ∧
    s.isReady .lyre = true ∧
    s.lyre.mode = .running ∧
    s.ringAt (s.lyre.seq.toNat + 1) = e ∧
    evSeq e = s.lyre.seq.toNat + 1 ∧
    evSeq e % 16 ≠ 0 ∧
    LyreTables.live (s.lyre.t.apply e (s.grantKept e)).t = s.zith.live ∧
    ((s.lyre.t.apply e (s.grantKept e)).fx = [] ∨ evSeq e ≤ s.lyre.top) :=
  ⟨.applyGrant, sApply 9, _, ev 1 9, rfl, rfl, (fun c h => by cases h), by decide +kernel⟩

theorem wit_AppliesEvents_1_reclaim : ∃ (i : Instr) (s : State) (ty : Nat → Prop) (e : Rec8), appliesType i = some ty ∧
    ty (evType e) ∧
    s.noPosts ∧
    s.isReady .lyre = true ∧
    s.lyre.mode = .running ∧
    s.ringAt (s.lyre.seq.toNat + 1) = e ∧
    evSeq e = s.lyre.seq.toNat + 1 ∧
    evSeq e % 16 ≠ 0 ∧
    LyreTables.live (s.lyre.t.apply e (s.grantKept e)).t = s.zith.live ∧
    ((s.lyre.t.apply e (s.grantKept e)).fx = [] ∨ evSeq e ≤ s.lyre.top) :=
  ⟨.applyReclaim, sApply 10, _, ev 1 10, rfl, rfl, (fun c h => by cases h), by decide +kernel⟩

theorem wit_AppliesEvents_1_return : ∃ (i : Instr) (s : State) (ty : Nat → Prop) (e : Rec8), appliesType i = some ty ∧
    ty (evType e) ∧
    s.noPosts ∧
    s.isReady .lyre = true ∧
    s.lyre.mode = .running ∧
    s.ringAt (s.lyre.seq.toNat + 1) = e ∧
    evSeq e = s.lyre.seq.toNat + 1 ∧
    evSeq e % 16 ≠ 0 ∧
    LyreTables.live (s.lyre.t.apply e (s.grantKept e)).t = s.zith.live ∧
    ((s.lyre.t.apply e (s.grantKept e)).fx = [] ∨ evSeq e ≤ s.lyre.top) :=
  ⟨.applyReturn, sApply 11, _, ev 1 11, rfl, rfl, (fun c h => by cases h), by decide +kernel⟩

theorem wit_AppliesEvents_1_done : ∃ (i : Instr) (s : State) (ty : Nat → Prop) (e : Rec8), appliesType i = some ty ∧
    ty (evType e) ∧
    s.noPosts ∧
    s.isReady .lyre = true ∧
    s.lyre.mode = .running ∧
    s.ringAt (s.lyre.seq.toNat + 1) = e ∧
    evSeq e = s.lyre.seq.toNat + 1 ∧
    evSeq e % 16 ≠ 0 ∧
    LyreTables.live (s.lyre.t.apply e (s.grantKept e)).t = s.zith.live ∧
    ((s.lyre.t.apply e (s.grantKept e)).fx = [] ∨ evSeq e ≤ s.lyre.top) :=
  ⟨.applyDone, sApply 12, _, ev 1 12, rfl, rfl, (fun c h => by cases h), by decide +kernel⟩

theorem wit_AppliesEvents_1_revoke : ∃ (i : Instr) (s : State) (ty : Nat → Prop) (e : Rec8), appliesType i = some ty ∧
    ty (evType e) ∧
    s.noPosts ∧
    s.isReady .lyre = true ∧
    s.lyre.mode = .running ∧
    s.ringAt (s.lyre.seq.toNat + 1) = e ∧
    evSeq e = s.lyre.seq.toNat + 1 ∧
    evSeq e % 16 ≠ 0 ∧
    LyreTables.live (s.lyre.t.apply e (s.grantKept e)).t = s.zith.live ∧
    ((s.lyre.t.apply e (s.grantKept e)).fx = [] ∨ evSeq e ≤ s.lyre.top) :=
  ⟨.applyRevoke, sApply 13, _, ev 1 13, rfl, rfl, (fun c h => by cases h), by decide +kernel⟩

theorem wit_AppliesEvents_1_user : ∃ (i : Instr) (s : State) (ty : Nat → Prop) (e : Rec8), appliesType i = some ty ∧
    ty (evType e) ∧
    s.noPosts ∧
    s.isReady .lyre = true ∧
    s.lyre.mode = .running ∧
    s.ringAt (s.lyre.seq.toNat + 1) = e ∧
    evSeq e = s.lyre.seq.toNat + 1 ∧
    evSeq e % 16 ≠ 0 ∧
    LyreTables.live (s.lyre.t.apply e (s.grantKept e)).t = s.zith.live ∧
    ((s.lyre.t.apply e (s.grantKept e)).fx = [] ∨ evSeq e ≤ s.lyre.top) :=
  ⟨.applyUser, sApply 15, _, ev 1 15, rfl, rfl, (fun c h => by cases h), by decide +kernel⟩

theorem wit_AppliesEvents_1_reserved : ∃ (i : Instr) (s : State) (ty : Nat → Prop) (e : Rec8), appliesType i = some ty ∧
    ty (evType e) ∧
    s.noPosts ∧
    s.isReady .lyre = true ∧
    s.lyre.mode = .running ∧
    s.ringAt (s.lyre.seq.toNat + 1) = e ∧
    evSeq e = s.lyre.seq.toNat + 1 ∧
    evSeq e % 16 ≠ 0 ∧
    LyreTables.live (s.lyre.t.apply e (s.grantKept e)).t = s.zith.live ∧
    ((s.lyre.t.apply e (s.grantKept e)).fx = [] ∨ evSeq e ≤ s.lyre.top) :=
  ⟨.applyReservedEvent, sApply 0x10, _, ev 1 0x10, rfl, (Or.inr (by decide +kernel)), (fun c h => by cases h),
    by decide +kernel⟩

theorem wit_AppliesEvents_4 : ∃ (a : Applying) (e : Rec8), evType e = 9 :=
  ⟨{}, ev 1 9, by decide +kernel⟩

theorem wit_LeaseSteps_1 : ∃ (s : State) (n b : Nat) (c : Nat), s.lendable c n ∧
    0 < n ∧
    s.lendRun n = some b :=
  ⟨sLender, 1, 10, 13, (by unfold State.lendable; decide +kernel), by decide +kernel⟩

theorem wit_LeaseSteps_3 : ∃ (s : State) (n b : Nat) (c : Nat), 0 < n ∧
    s.lendRun n = none :=
  ⟨sLender, 5, 0, 10, by decide +kernel⟩

theorem wit_LeaseSteps_4 : ∃ (s : State) (src tag bound n term : Nat) (f b : Word), (s.isReady .lease = false ∨ n = 0 ∨ s.lendRun n = none) :=
  ⟨sReady [.lease], 1, 0, 50, 0, 1000, 0, 0, by decide +kernel⟩

theorem wit_LeaseSteps_5 : ∃ (s : State) (src tag bound n term r : Nat) (f b : Word), s.isReady .lease = true ∧
    0 < n ∧
    s.lendRun n = some r ∧
    s.posting = true ∧
    s.did < 2 ^ 18 :=
  ⟨sLender, 1, 0, 50, 4, 1000, 10, 0, 0, by decide +kernel⟩

theorem wit_LeaseSteps_6 : ∃ (s : State) (c : Cmd) (tag l b n f x : Nat), s.only c ∧
    c.kind = .leasereq tag l b n f x ∧
    c.dst = [] :=
  ⟨sOne cLease, cLease, 7, 1, 50, 1, 0, 0, rfl, by decide +kernel⟩

theorem wit_LeaseSteps_7 : ∃ (s : State) (lid : Nat), (s.leaseRow lid).state = .reclaiming ∧
    (s.leaseRow lid).lender = s.did ∧
    (s.leaseRow lid).deadline ≤ s.atime ∧
    s.posting = true ∧
    s.did < 2 ^ 18 :=
  ⟨{ sLyre [] with lyre := { mode := .running, t := { lease := [(1023, { state := .reclaiming, deadline := 5 })] } }, atime := 5 },
    1023, by decide +kernel⟩

theorem wit_LeaseSteps_8 : ∃ (s : State) (lid : Nat), s.atime < (s.leaseRow lid).deadline :=
  ⟨{ State.reset with lyre := { t := { lease := [(0, { deadline := 5 })] } }, atime := 4 }, 0, by decide +kernel⟩

theorem wit_LeaseSteps_9 : ∃ (s u : State) (lid : Nat) (m : LeaseMove) (ls : List (List Byte × List Origin)), s.chunkUnder ((m.row.bbase + m.page) * 2 ^ 21 + 4096 * m.chunk) m.fb = (u, some ls) ∧
    s.move lid = m ∧
    m.row.state ≠ .free ∧
    m.closing = false ∧
    m.page < m.row.npages ∧
    s.isReady .lease = true ∧
    0 < m.chunk ∧
    m.chunk < 511 :=
  ⟨sFill,
    recStateC (sFill.chunkUnder ((fillMove.row.bbase + fillMove.page) * 2 ^ 21 + 4096 * fillMove.chunk) fillMove.fb),
    1023, fillMove,
    linesC (sFill.chunkUnder ((fillMove.row.bbase + fillMove.page) * 2 ^ 21 + 4096 * fillMove.chunk) fillMove.fb),
    (chunk_eq (by decide +kernel)), by decide +kernel⟩

theorem wit_LeaseSteps_10 : ∃ (s : State) (lid : Nat), (s.move lid).closing = true ∨ s.isReady .lease = false :=
  ⟨State.reset, 0, by decide +kernel⟩

theorem wit_LeaseSteps_11 : ∃ (s : State) (lid : Nat) (m : LeaseMove) (d : List Nat), s.move lid = m ∧
    m.row.state ≠ .free ∧
    m.closing = true ∧
    m.posted = false ∧
    s.isReady .lease = true ∧
    m.backPages ≤ m.cur ∧
    s.posting = true ∧
    s.did < 2 ^ 18 :=
  ⟨{ sLyre [] with mgmt := { ready := [.lyre, .lease] }, leng := { moves := [(3, { row := { state := .returning }, closing := true })] } },
    3, { row := { state := .returning }, closing := true }, [], by decide +kernel⟩

theorem wit_LeaseSteps_12 : ∃ (s u : State) (lid c : Nat) (m : LeaseMove) (d : List Nat) (ls : List (List Byte × List Origin)), (∀ k, k < c → k ∈ m.copied) ∧
    s.chunkUnder ((m.row.bbase + m.cur) * 2 ^ 21 + 4096 * c) (m.lent m.cur m.cfb) = (u, some ls) ∧
    s.move lid = m ∧
    m.row.state ≠ .free ∧
    m.closing = true ∧
    m.posted = false ∧
    s.isReady .lease = true ∧
    m.cur < m.backPages ∧
    m.begun = true ∧
    c < 512 ∧
    c ∉ m.copied :=
  ⟨sBack, recStateC (sBack.chunkUnder 4096 (backMove.lent 0 (s0.pte 0))), 1023, 1, backMove, [],
    linesC (sBack.chunkUnder 4096 (backMove.lent 0 (s0.pte 0))),
    (fun k h => by rcases k with _ | k <;> first | decide | omega), (chunk_eq (by decide +kernel)), by decide +kernel⟩

theorem wit_LeaseSteps_2 : ∃ (s : State) (n b : Nat), 0 < n ∧
    s.lendRun n = some b :=
  ⟨sLender, 1, 10, by decide +kernel⟩

theorem wit_NamedTiles_1 : ∃ (s : State) (src size dl : Nat) (n : TileName) (t : Tile), s.zithReady = true ∧
    s.tileOf n = some t :=
  ⟨{ sReady [.zith] with zith := { store := [aTile] } }, 1, 1, 5, aName, aTile, by decide +kernel⟩

theorem wit_NamedTiles_2 : ∃ (s : State) (src size dl : Nat) (n : TileName), s.zithReady = true ∧
    s.tileOf n = none ∧
    s.zith.pit = [] :=
  ⟨sReady [.zith], 1, 1, 5, aName, by decide +kernel⟩

theorem wit_NamedTiles_3 : ∃ (s : State) (src size idx : Nat) (n : TileName) (ms : List Origin) (d : List Byte), s.zithReady = true ∧
    s.zith.arriving = [] ∧
    idx < size ∧
    1 < size :=
  ⟨sReady [.zith], 1, 2, 1, aName, [], List.replicate 128 7, by decide +kernel⟩

theorem wit_NamedTiles_4 : ∃ (s : State) (src : Nat) (n : TileName) (ms : List Origin) (d : List Byte), s.zithReady = true ∧
    s.zith.arriving = [] ∧
    d ≠ [] ∧
    s.homeOf n ≠ s.did ∧
    s.zith.pit = [] ∧
    (∀ t ∈ s.zith.store, t.name ≠ n) ∧
    sumOf (·.size) s.zith.store + 1 ≤ Config.tileLines :=
  ⟨{ sReady [.zith] with zith := { live := [1] } }, 1, aName, [], List.replicate 128 7, by decide +kernel⟩

theorem wit_NamedTiles_5 : ∃ (s : State) (c : Cmd) (n : TileName) (size dl : Nat), s.only c ∧
    c.kind = .interest n size dl ∧
    s.zithReady = true ∧
    s.zith.waitTable = [c.id] ∧
    s.atime < dl ∧
    s.zith.pit = [] ∧
    s.tileOf n = none ∧
    s.homeOf n = s.did :=
  ⟨{ sOne cInterest with zith := { waitTable := [1] }, mgmt := { ready := [.zith] } }, cInterest, aName, 1, 5, rfl,
    by decide +kernel⟩

theorem wit_NamedTiles_6 : ∃ (s : State) (c : Cmd) (n : TileName) (size dl : Nat), s.only c ∧
    c.kind = .interest n size dl ∧
    c.err = 0 ∧
    c.src = [] ∧
    c.dst = [] ∧
    s.zith.waitTable = [c.id] ∧
    dl ≤ s.atime ∧
    s.tileOf n = none :=
  ⟨{ sOne cInterest with zith := { waitTable := [1] }, atime := 5 }, cInterest, aName, 1, 5, rfl, by decide +kernel⟩

theorem wit_NamedTiles_7 : ∃ (s : State) (c : Cmd) (n : TileName) (size dl : Nat), s.only c ∧
    c.kind = .interest n size dl ∧
    s.atime < dl :=
  ⟨{ sOne cInterest with atime := 4 }, cInterest, aName, 1, 5, rfl, by decide +kernel⟩

theorem wit_NamedTiles_8 : ∃ (s : State) (ia k dev x id : Nat) (va thr : Word) (sc : Nat) (acq : Bool) (d : Opnd) (m : W32) (l2 l1 : Bool), (s.warp k).wait = .sigwait va thr sc acq d m id ∧
    (s.ctx (s.warp k).ctx).translate .load va = .ok x ∧
    s.at .load x = .peer dev ia l2 l1 :=
  ⟨sFar, 14680064, 0, 5, 50331648, 7, 0x1000, 1, 1, false, .p 1, 1, peerL2 (sFar.at .load 50331648),
    peerL1 (sFar.at .load 50331648), by decide +kernel⟩

theorem wit_NamedTiles_10 : ∃ (s : State) (ia k : Nat), (s.warp k).wait = .none :=
  ⟨s0, 0, 0, by decide +kernel⟩

theorem wit_NamedTiles_9 : ∃ (s u : State) (ia k dev x id v : Nat) (va thr : Word) (sc : Nat) (p : BitVec 8) (m : W32) (l2 l1 : Bool), s.freshRead k id 8 m va = .val u v ∧
    (s.warp k).status = .run ∧
    (s.warp k).wait = .sigwait va thr sc false (.p p) m id ∧
    (s.ctx (s.warp k).ctx).translate .load va = .ok x ∧
    s.at .load x = .peer dev ia l2 l1 ∧
    thr.toNat ≤ v :=
  ⟨sNear, freshState (sNear.freshRead 0 7 8 1 0x1000) sNear, 14680064, 0, 5, 50331648, 7,
    freshVal (sNear.freshRead 0 7 8 1 0x1000), 0x1000, 1, 1, 1, 1, peerL2 (sNear.at .load 50331648),
    peerL1 (sNear.at .load 50331648), (fresh_eq (by decide +kernel)), by decide +kernel⟩

theorem wit_CompletesAccesses_1 : ∃ (s : State) (o : Op) (a : Acc) (wd : Width) (d : Opnd) (cid off : Nat), s.alone o a ∧
    o.kind = .load wd d ∧
    a.loc = .spad cid off ∧
    (s.spadSector cid off).mark = .none :=
  ⟨sOp (.load .u32 (.v 4)) padAcc, anOp (.load .u32 (.v 4)) padAcc, padAcc, .u32, .v 4, 0, 0x4000,
    ⟨rfl, rfl, rfl, rfl, rfl, by decide, rfl, rfl, rfl, rfl, rfl, rfl, by decide⟩, by decide +kernel⟩

theorem wit_CompletesAccesses_2 : ∃ (s : State) (o : Op) (a : Acc) (wd : Width) (d : Opnd) (ia : Nat), s.alone o a ∧
    o.kind = .load wd d ∧
    a.loc = .mem ia ∧
    o.fresh = false ∧
    (s.warp o.warp).tskVer = 0 ∧
    bit (s.l1Line o.core (ia / 128)).valid.toNat (ia % 128 / 16) = true ∧
    ((s.l1Line o.core (ia / 128)).sector (ia % 128 / 16)).mark = .none :=
  ⟨{ sOp (.load .u32 (.v 4)) memAcc with l1 := [(32, { ctxs := [1], valid := 0xFF })] },
    anOp (.load .u32 (.v 4)) memAcc, memAcc, .u32, .v 4, 0x1000,
    ⟨rfl, rfl, rfl, rfl, rfl, by decide, rfl, rfl, rfl, rfl, rfl, rfl, by decide⟩, by decide +kernel⟩

theorem wit_CompletesAccesses_3 : ∃ (s : State) (o : Op) (a : Acc) (cid off : Nat), s.alone o a ∧
    o.kind = .store ∧
    a.loc = .spad cid off ∧
    off + a.n < 2 ^ 40 ∧
    0 < a.n ∧
    off % 16 + a.n ≤ 16 ∧
    a.data.length = a.n ∧
    (s.spadSector cid off).mark = .none :=
  ⟨sOp .store padAcc, anOp .store padAcc, padAcc, 0, 0x4000,
    ⟨rfl, rfl, rfl, rfl, rfl, by decide, rfl, rfl, rfl, rfl, rfl, rfl, by decide⟩, by decide +kernel⟩

theorem wit_CompletesAccesses_4 : ∃ (s : State) (o : Op) (a : Acc) (wide sg : Bool) (d : Opnd) (cid off n old : Nat), s.alone o a ∧
    o.kind = .rmw .add wide sg (some d) ∧
    a.loc = .spad cid off ∧
    off + n < 2 ^ 40 ∧
    n = (if wide then 8 else 4) ∧
    off % n = 0 ∧
    (s.spadSector cid off).mark = .none ∧
    old = ofBytes (((s.spadSector cid off).data.drop (off % 16)).take n) :=
  ⟨sOp (.rmw .add false false (some (.v 4))) padAcc, anOp (.rmw .add false false (some (.v 4))) padAcc, padAcc, false,
    false, .v 4, 0, 0x4000, 4, 0, ⟨rfl, rfl, rfl, rfl, rfl, by decide, rfl, rfl, rfl, rfl, rfl, rfl, by decide⟩,
    by decide +kernel⟩

theorem wit_CompletesAccesses_5 : ∃ (s : State) (cid line : Nat), (s.l1Line cid line).dirty = 0 :=
  ⟨State.reset, 0, 0, by decide +kernel⟩

theorem wit_CompletesAccesses_6 : ∃ (s : State) (cid line : Nat) (p : Spot) (l : L1Line), s.l1Line cid line = l ∧
    l.dirty ≠ 0 ∧
    s.cmdOwns line = false ∧
    s.prepare (.by .store (l.ctxs.headD 0)) (128 * line) = (s, .spot p) :=
  ⟨sDirty, 0, 32, ⟨0x1000, ddrKey 0 0 0x1000, true, true, 0⟩, { ctxs := [1], valid := 0xFF, dirty := 1 },
    by decide +kernel⟩

theorem wit_CompletesAccesses_7 : ∃ (s : State) (v : Nat) (x : Version), look {} s.vers v = x ∧
    x.task = true ∧
    x.stalled = true ∧
    x.irrev = false ∧
    x.warp < 2 ^ 20 ∧
    s.isOldest v = true ∧
    x.mem = [] ∧
    x.spad = [] :=
  ⟨{ s0 with vers := [(1, { taken := true, task := true, age := 1, stalled := true })] }, 1,
    { taken := true, task := true, age := 1, stalled := true }, by decide +kernel⟩

theorem wit_CompletesAccesses_8 : ∃ (s : State) (v : Nat), (look {} s.vers v).stalled = false :=
  ⟨s0, 1, by decide +kernel⟩

theorem wit_CompletesAccesses_9 : ∃ (s q r : State) (k : Nat) (t : TrapInfo) (rest : List TrapInfo) (hw : Word) (w : Warp), s.warp k = w ∧
    w.status = .run ∧
    w.wait = .none ∧
    w.ueHalt = false ∧
    w.deferred = t :: rest ∧
    w.tryOpen = false ∧
    w.inh = false ∧
    w.tskVers = false ∧
    clsHandler (t.uncorr w).cls = true ∧
    (s.ctx w.ctx).tvec.getLsbD 0 = true ∧
    q = ({ s with cur := k }).putWarp k { w with deferred := rest } ∧
    ({ s with cur := k }).handlerWaits t = none ∧
    q.handlerWaits t = none ∧
    ((q.count 0x14).countCtx w.ctx 0x107).fetchWord w.ctx ((s.ctx w.ctx).tvec &&& ~~~7) = .word hw r ∧
    r.cur = k ∧
    headerOk hw = true ∧
    hdrHandler hw = true :=
  ⟨sDefer, sTaken, fetchState (((sTaken.count 0x14).countCtx 1 0x107).fetchWord 1 0x2000) sTaken, 0,
    { cls := 0x01, cause := 3, deferred := true }, [], handlerHeader, sDefer.warp 0, by decide +kernel⟩

theorem wit_CompletesAccesses_10 : ∃ (s : State) (k : Nat), (s.warp k).deferred = [] :=
  ⟨s0, 0, by decide +kernel⟩

theorem wit_CompletesCommands_1 : ∃ (s : State) (c : Cmd), s.only c ∧
    c.kind = .done :=
  ⟨sOne { id := 1, opc := 0xA4, kind := .done }, { id := 1, opc := 0xA4, kind := .done }, rfl, by decide +kernel⟩

theorem wit_CompletesCommands_5 : ∃ (s : State) (c : Cmd) (d cid off : Nat) (v : Word), s.only c ∧
    s.ops = [] ∧
    c.kind = .qinit d v ∧
    c.arrived ≠ 0 ∧
    c.arrived ≤ s.clk ∧
    s.queueAt c = some (0, cid, off) :=
  ⟨sOne (cQueue (.qinit 0x4000 0x1FFFFFFFF)), cQueue (.qinit 0x4000 0x1FFFFFFFF), 0x4000, 0, 0x4000, 0x1FFFFFFFF, rfl,
    by decide +kernel⟩

theorem wit_CompletesCommands_6 : ∃ (s : State) (c : Cmd) (d e lsz cid off b : Nat) (q : QWord), s.only c ∧
    s.ops = [] ∧
    s.l1 = [] ∧
    c.kind = .qpush d e lsz ∧
    c.unread = false ∧
    c.arrived ≠ 0 ∧
    c.arrived ≤ s.clk ∧
    s.queueAt c = some (1, cid, off) ∧
    s.queueAnswer lsz true (cid, off) = .slot q b :=
  ⟨sQueue (.qpush 0x4000 0x5000 4) 0 0 false, cQueue (.qpush 0x4000 0x5000 4), 0x4000, 0x5000, 4, 0, 0x4000, 0x4100,
    aQueue 0 0 false, rfl, by decide +kernel⟩

theorem wit_CompletesCommands_7 : ∃ (s : State) (c : Cmd) (d e lsz cid off : Nat), s.only c ∧
    s.ops = [] ∧
    s.l1 = [] ∧
    c.kind = .qpush d e lsz ∧
    c.unread = false ∧
    c.arrived ≠ 0 ∧
    c.arrived ≤ s.clk ∧
    s.queueAt c = some (1, cid, off) ∧
    s.queueAnswer lsz true (cid, off) = .held :=
  ⟨sQueue (.qpush 0x4000 0x5000 4) 3 3 true, cQueue (.qpush 0x4000 0x5000 4), 0x4000, 0x5000, 4, 0, 0x4000, rfl,
    by decide +kernel⟩

theorem wit_CompletesCommands_8 : ∃ (s : State) (c : Cmd) (d e lsz cid off : Nat), s.only c ∧
    s.ops = [] ∧
    s.l1 = [] ∧
    c.kind = .qpush d e lsz ∧
    c.unread = false ∧
    c.arrived ≠ 0 ∧
    c.arrived ≤ s.clk ∧
    s.queueAt c = some (1, cid, off) ∧
    s.queueAnswer lsz true (cid, off) = .fail :=
  ⟨sQueue (.qpush 0x4000 0x5000 3) 0 0 false, cQueue (.qpush 0x4000 0x5000 3), 0x4000, 0x5000, 3, 0, 0x4000, rfl,
    by decide +kernel⟩

theorem wit_CompletesCommands_9 : ∃ (s : State) (c : Cmd) (d e lsz cid off b : Nat) (q : QWord), s.only c ∧
    s.ops = [] ∧
    c.kind = .qpop d e lsz ∧
    c.src = [] ∧
    c.arrived ≠ 0 ∧
    c.arrived ≤ s.clk ∧
    s.queueAt c = some (2, cid, off) ∧
    s.queueAnswer lsz false (cid, off) = .slot q b :=
  ⟨sQueue (.qpop 0x4000 0x5000 4) 3 3 true, cQueue (.qpop 0x4000 0x5000 4), 0x4000, 0x5000, 4, 0, 0x4000, 0x4130,
    aQueue 3 3 true, rfl, by decide +kernel⟩

theorem wit_CompletesCommands_10 : ∃ (s : State) (c : Cmd) (d e lsz cid off : Nat), s.only c ∧
    s.ops = [] ∧
    c.kind = .qpop d e lsz ∧
    c.src = [] ∧
    c.arrived ≠ 0 ∧
    c.arrived ≤ s.clk ∧
    s.queueAt c = some (2, cid, off) ∧
    s.queueAnswer lsz false (cid, off) = .held :=
  ⟨sQueue (.qpop 0x4000 0x5000 4) 3 3 false, cQueue (.qpop 0x4000 0x5000 4), 0x4000, 0x5000, 4, 0, 0x4000, rfl,
    by decide +kernel⟩

theorem wit_CompletesCommands_11 : ∃ (s : State) (c : Cmd) (d e lsz cid off : Nat), s.only c ∧
    s.ops = [] ∧
    c.kind = .qpop d e lsz ∧
    c.src = [] ∧
    c.arrived ≠ 0 ∧
    c.arrived ≤ s.clk ∧
    s.queueAt c = some (2, cid, off) ∧
    s.queueAnswer lsz false (cid, off) = .fail :=
  ⟨sOne (cQueue (.qpop 0x4000 0x5000 4)), cQueue (.qpop 0x4000 0x5000 4), 0x4000, 0x5000, 4, 0, 0x4000, rfl,
    by decide +kernel⟩

theorem wit_CompletesCommands_12 : ∃ (s : State) (c : Cmd) (m : MatRec) (recs : List Byte), s.only c ∧
    c.kind = .mat m recs ∧
    0xB0 ≤ c.opc ∧
    c.warp < 2 ^ 20 ∧
    c.rerun = 0 ∧
    s.dumpStops c = false ∧
    s.stepFree c (decide (0xB4 ≤ c.opc)) (s.stepSrcs (s.warp c.warp) c.core c.vcnt (c.form m) m.aoff m.boff) = true :=
  ⟨sOne cMma, cMma, { f := 4, aoff := 0x4000, boff := 0x6000 }, [], rfl, by decide +kernel⟩

theorem wit_CompletesCommands_13 : ∃ (s t : State) (c : Cmd) (m : MatRec) (recs : List Byte), s.only c ∧
    s.txposeStep c m = some t ∧
    c.kind = .mat m recs ∧
    c.opc = 0xAF ∧
    s.dumpStops c = false :=
  ⟨sOne cTx, ((sOne cTx).txposeStep cTx txRec).getD s0, cTx, txRec, [], rfl, (some_eq (by decide +kernel)),
    by decide +kernel⟩

theorem wit_CompletesCommands_14 : ∃ (s : State) (cid : Nat), s.cmds = [] :=
  ⟨s0, 159, by decide +kernel⟩

theorem wit_CompletesCommands_2 : ∃ (s : State) (c : Cmd) (k cid off : Nat), s.only c ∧
    (∃ d v, c.kind = .qinit d v) ∧
    c.arrived = 0 ∧
    s.queueAt c = some (k, cid, off) ∧
    c.unread = false :=
  ⟨sOne (cCome (.qinit 0x4000 0x1FFFFFFFF)), cCome (.qinit 0x4000 0x1FFFFFFFF), 0, 0, 0x4000, rfl, (⟨_, _, rfl⟩),
    by decide +kernel⟩

theorem wit_CompletesCommands_3 : ∃ (s : State) (c : Cmd) (k cid off : Nat), s.only c ∧
    (∃ d e n, c.kind = .qpush d e n) ∧
    c.arrived = 0 ∧
    s.queueAt c = some (k, cid, off) ∧
    c.unread = false :=
  ⟨sOne (cCome (.qpush 0x4000 0x5000 4)), cCome (.qpush 0x4000 0x5000 4), 1, 0, 0x4000, rfl, (⟨_, _, _, rfl⟩),
    by decide +kernel⟩

theorem wit_CompletesCommands_4 : ∃ (s : State) (c : Cmd) (k cid off : Nat), s.only c ∧
    (∃ d e n, c.kind = .qpop d e n) ∧
    c.arrived = 0 ∧
    s.queueAt c = some (k, cid, off) ∧
    c.unread = false :=
  ⟨sOne (cCome (.qpop 0x4000 0x5000 4)), cCome (.qpop 0x4000 0x5000 4), 2, 0, 0x4000, rfl, (⟨_, _, _, rfl⟩),
    by decide +kernel⟩

theorem wit_Launches_1 : ∃ (s : State) (p : Rec8) (port : Nat), (s.ctx (bits p.w3.toNat 63 48)).v = false :=
  ⟨State.reset, {}, 16, by decide +kernel⟩

theorem wit_Launches_2 : ∃ (s : State) (p : Rec8) (x port : Nat), (s.ctx x).v = true ∧
    p.w3 = BitVec.ofNat 64 (x * 2 ^ 48) ∧
    x < 2 ^ 16 ∧
    bits p.w0.toNat 55 38 = (s.ctx x).host ∧
    bits p.w0.toNat 19 0 = 0 ∧
    p.w4 = 0 ∧
    p.w5 = 0 ∧
    p.w6 = 0 ∧
    p.w7 = 0 ∧
    p.w2.toNat % 8 = 0 ∧
    p.w1.toNat % 128 ≠ 0 :=
  ⟨{ State.reset with ctxs := [(5, { v := true, host := 262143 })] },
    { w0 := 262143 * 2 ^ 38, w1 := 0x1040, w3 := 5 * 2 ^ 48 }, 5, 15, by decide +kernel⟩

theorem wit_Launches_3 : ∃ (s : State) (p : Rec8) (x port : Nat), (s.ctx x).v = true ∧
    p.w3 = BitVec.ofNat 64 (x * 2 ^ 48) ∧
    x < 2 ^ 16 ∧
    bits p.w0.toNat 55 38 = (s.ctx x).host ∧
    bits p.w0.toNat 19 0 = 0 ∧
    p.w4 = 0 ∧
    p.w5 = 0 ∧
    p.w6 = 0 ∧
    p.w7 = 0 ∧
    p.w2.toNat % 8 = 0 :=
  ⟨{ State.reset with ctxs := [(5, { v := true, host := 7 })] }, { w0 := 7 * 2 ^ 38, w1 := 0x1080, w3 := 5 * 2 ^ 48 },
    5, 0, by decide +kernel⟩

theorem wit_Launches_5 : ∃ (s : State) (id u : Nat) (l : Launch) (rest : List (Nat × Launch)) (lay : List (Nat × Nat)), s.layoutUnit id l u = some lay ∧
    s.isReady .dist = true ∧
    (∀ e ∈ s.launches, e.2.unread = false) ∧
    s.pendingLaunches = (id, l) :: rest ∧
    l.search (fun v => (s.layoutUnit id l v).isSome) = (some u, [], false) :=
  ⟨sPlace, 1, 0, aLaunch, [], (sPlace.layoutUnit 1 aLaunch 0).getD [], (some_eq (by decide +kernel)),
    by decide +kernel⟩

theorem wit_Launches_6 : ∃ (s : State), s.isReady .dist = false ∧
    (∀ e ∈ s.launches, e.2.unread = false) :=
  ⟨State.reset, by decide +kernel⟩

theorem wit_Launches_7 : ∃ (s : State) (id u : Nat), 64 ≤ look 0 (s.launch id).skips u ∧
    u ∉ (s.launch id).blocking :=
  ⟨{ State.reset with launches := [(1, { skips := [(0, 64)] })] }, 1, 0, by decide +kernel⟩

theorem wit_Launches_8 : ∃ (s : State) (id u : Nat), look 0 (s.launch id).skips u < 64 :=
  ⟨{ State.reset with launches := [(1, { skips := [(0, 63)] })] }, 1, 0, by decide +kernel⟩

theorem wit_Launches_9 : ∃ (s : State) (die : Nat), die < 4 ∧
    s.sent = [] ∧
    s.pins = [] :=
  ⟨State.reset, 3, by decide +kernel⟩

theorem wit_Launches_10 : ∃ (s : State) (cid id : Nat) (l : Launch), s.launch id = l ∧
    l.used = [cid] ∧
    l.reported = [] ∧
    l.verdict = none ∧
    l.allRetired = true ∧
    s.outstanding id cid = false ∧
    s.holdsBlock id cid = false :=
  ⟨{ State.reset with launches := [(1, { used := [159], ended := true })] }, 159, 1, { used := [159], ended := true },
    by decide +kernel⟩

theorem wit_Launches_11 : ∃ (s : State) (cid id : Nat), (s.outstanding id cid = true ∨ s.holdsBlock id cid = true) :=
  ⟨s0, 0, 1, by decide +kernel⟩

theorem wit_Launches_13 : ∃ (s : State) (id b n a : Nat) (l : Launch) (rest : List (Nat × Nat)) (j : JobCard), s.launch id = l ∧
    l.asks = (a, b) :: rest ∧
    a < s.clk ∧
    l.dealtAt ≤ s.clk ∧
    l.job = some j ∧
    l.redeal = [] ∧
    l.prime = 0 ∧
    l.det = false ∧
    0 < l.rem ∧
    n = min l.rem (max j.minch (ceilDiv l.rem (2 * max 1 (s.coresOf id).length))) :=
  ⟨{ State.reset with clk := 1, launches := [(1, { asks := [(0, 0)], job := some ⟨0x3000, 8, 64, 1⟩, rem := 10 })] },
    1, 0, 5, 0, { asks := [(0, 0)], job := some ⟨0x3000, 8, 64, 1⟩, rem := 10 }, [], ⟨0x3000, 8, 64, 1⟩,
    by decide +kernel⟩

theorem wit_Launches_16 : ∃ (l : Launch) (id blk idx lin clk : Nat) (w : Warp), l.newWarp id blk idx lin clk = w :=
  ⟨aLaunch, 1, 1, 0, 0, 0, _, rfl⟩

theorem wit_Launches_4 : ∃ (a b : Nat × Launch), a.2.key = b.2.key ∧
    (a.2.came.1 < b.2.came.1 ∨ (a.2.came.1 = b.2.came.1 ∧ a.2.came.2 < b.2.came.2)) :=
  ⟨(2, { aLaunch with came := (3, 0) }), (1, { aLaunch with came := (3, 16) }), by decide +kernel⟩

theorem wit_Launches_12 : ∃ (s : State) (id b a : Nat) (rest : List (Nat × Nat)), (s.launch id).asks = (a, b) :: rest ∧
    s.clk ≤ a :=
  ⟨{ State.reset with launches := [(1, { asks := [(5, 0)] })] }, 1, 0, 5, [], by decide +kernel⟩

theorem wit_Launches_14 : ∃ (l : Launch) (id blk idx lin clk : Nat) (w : Warp) (j : Nat), l.newWarp id blk idx lin clk = w ∧
    2 ≤ j :=
  ⟨aLaunch, 1, 1, 0, 0, 0, _, 2, rfl, by decide +kernel⟩

theorem wit_Launches_15 : ∃ (l : Launch) (id blk idx lin clk : Nat) (w : Warp) (j : Nat), l.newWarp id blk idx lin clk = w ∧
    j < 32 :=
  ⟨aLaunch, 1, 1, 0, 0, 0, _, 31, rfl, by decide +kernel⟩

theorem wit_WaitsEnd_1 : ∃ (s : State) (k : Nat), (s.warp k).status = .run ∧
    max (s.warp k).ready0 ((s.warp k).lastIssue + 1) + 32 ≤ s.clk :=
  ⟨{ s0 with clk := 33 }, 0, by decide +kernel⟩

theorem wit_WaitsEnd_2 : ∃ (s : State) (k : Nat), (s.clk < (s.warp k).ready0 + 32 ∨ s.clk < (s.warp k).lastIssue + 33) :=
  ⟨{ s0 with clk := 32 }, 0, by decide +kernel⟩

theorem wit_WaitsEnd_3 : ∃ (s : State) (k u : Nat), (s.warp k).wait = .backoff u ∧
    u ≤ s.clk :=
  ⟨{ withW s0 fun w => { w with wait := .backoff 5 } with clk := 5 }, 0, 5, by decide +kernel⟩

theorem wit_WaitsEnd_4 : ∃ (s : State) (k u : Nat), (s.warp k).wait = .backoff u ∧
    s.clk < u :=
  ⟨{ withW s0 fun w => { w with wait := .backoff 5 } with clk := 4 }, 0, 5, by decide +kernel⟩

theorem wit_WaitsEnd_5 : ∃ (s : State) (k u : Nat) (y : List (Nat × Nat)), (s.warp k).wait = .yield y u ∧
    (u ≤ s.clk ∨ (∀ e ∈ y, (s.warp e.1).status ≠ .run ∨ (s.warp e.1).issues ≠ e.2)) :=
  ⟨withW s0 fun w => { w with wait := .yield [(1, 0)] 5 }, 0, 5, [(1, 0)], by decide +kernel⟩

theorem wit_WaitsEnd_6 : ∃ (s : State) (k u : Nat) (y : List (Nat × Nat)), (s.warp k).wait = .yield y u ∧
    s.clk < u ∧
    (∃ e ∈ y, (s.warp e.1).status = .run ∧ (s.warp e.1).issues = e.2) :=
  ⟨withW s0 fun w => { w with wait := .yield [(0, 0)] 5 }, 0, 5, [(0, 0)], by decide +kernel⟩

theorem wit_WaitsEnd_7 : ∃ (s u : State) (k v id : Nat) (va cmp : Word) (wide : Bool) (c sc : Nat) (p : BitVec 8) (m : W32), s.freshRead k id (if wide then 8 else 4) m va = .val u v ∧
    (s.warp k).status = .run ∧
    (s.warp k).wait = .poll va wide cmp c sc (.p p) m id ∧
    pollCond c v cmp.toNat = true :=
  ⟨sPoll 0, freshState ((sPoll 0).freshRead 0 7 8 0xFFFFFFFF 0x1008) (sPoll 0), 0,
    freshVal ((sPoll 0).freshRead 0 7 8 0xFFFFFFFF 0x1008), 7, 0x1008, 0x9B70000000000000, true, 0, 1, 1, 0xFFFFFFFF,
    (fresh_eq (by decide +kernel)), by decide +kernel⟩

theorem wit_WaitsEnd_8 : ∃ (s u : State) (k v id : Nat) (va cmp : Word) (wide : Bool) (c sc : Nat) (p : BitVec 8) (m : W32), s.freshRead k id (if wide then 8 else 4) m va = .val u v ∧
    (s.warp k).status = .run ∧
    (s.warp k).wait = .poll va wide cmp c sc (.p p) m id ∧
    pollCond c v cmp.toNat = false :=
  ⟨sPoll 1, freshState ((sPoll 1).freshRead 0 7 8 0xFFFFFFFF 0x1008) (sPoll 1), 0,
    freshVal ((sPoll 1).freshRead 0 7 8 0xFFFFFFFF 0x1008), 7, 0x1008, 0x9B70000000000000, true, 1, 1, 1, 0xFFFFFFFF,
    (fresh_eq (by decide +kernel)), by decide +kernel⟩

theorem wit_WaitsEnd_9 : ∃ (k : Nat), 1 ≤ k :=
  ⟨1, by decide +kernel⟩

theorem wit_WaitsEnd_10 : ∃ (s u : State) (k v ia id : Nat) (va thr : Word) (acq : Bool) (sc : Nat) (p : BitVec 8) (m : W32), s.freshRead k id 8 m va = .val u v ∧
    (s.warp k).status = .run ∧
    (s.warp k).wait = .sigwait va thr sc acq (.p p) m id ∧
    v < thr.toNat ∧
    (u.ctx (u.warp k).ctx).translate .load va = .ok ia :=
  ⟨sSig, freshState (sSig.freshRead 0 7 8 0xFFFFFFFF 0x1008) sSig, 0,
    freshVal (sSig.freshRead 0 7 8 0xFFFFFFFF 0x1008), 0x1008, 7, 0x1008, 0x9B70000000000001, false, 1, 1, 0xFFFFFFFF,
    (fresh_eq (by decide +kernel)), by decide +kernel⟩

theorem wit_WaitsEnd_11 : ∃ (s u : State) (k v ia id : Nat) (va thr : Word) (acq : Bool) (sc : Nat) (p : BitVec 8) (m : W32), s.freshRead k id 8 m va = .val u v ∧
    (s.warp k).status = .run ∧
    (s.warp k).wait = .sigwait va thr sc acq (.p p) m id ∧
    thr.toNat ≤ v ∧
    acq = false :=
  ⟨sSigged, freshState (sSigged.freshRead 0 7 8 0xFFFFFFFF 0x1008) sSigged, 0,
    freshVal (sSigged.freshRead 0 7 8 0xFFFFFFFF 0x1008), 0x1008, 7, 0x1008, 0x9B70000000000000, false, 1, 1,
    0xFFFFFFFF, (fresh_eq (by decide +kernel)), by decide +kernel⟩

theorem wit_Preempts_1 : ∃ (s : State) (id blk dl : Nat) (b : Block), s.blocks = [(blk, b)] ∧
    b.launch = id ∧
    b.live = true ∧
    b.saved = false ∧
    b.pre = .none ∧
    (s.launch id).expcyc ≠ 0 ∧
    s.ranFor b < (s.launch id).expcyc ∧
    (s.launch id).expcyc - s.ranFor b ≤ 2 * s.saveClocks b ∧
    (dl = 0 ∨ (s.launch id).expcyc - s.ranFor b ≤ dl) :=
  ⟨sBlk .none 100, 1, 1, 100, { launch := 1, live := true }, by decide +kernel⟩

theorem wit_Preempts_2 : ∃ (s : State) (id dl : Nat), (∀ e ∈ s.blocks, e.2.launch ≠ id) :=
  ⟨State.reset, 1, 0, by decide +kernel⟩

theorem wit_Preempts_3 : ∃ (s : State) (blk u : Nat), (s.block blk).pre = .drain u ∧
    (u = 0 ∨ s.clk < u) :=
  ⟨sBlk (.drain 0) 0, 1, 0, by decide +kernel⟩

theorem wit_Preempts_4 : ∃ (s : State) (blk u : Nat) (b : Block), s.block blk = b ∧
    b.pre = .drain u ∧
    u ≠ 0 ∧
    u ≤ s.clk ∧
    b.live = true ∧
    (s.launch b.launch).idem = false ∧
    s.poolHolds (s.launch b.launch).ctx [blk] = false :=
  ⟨{ sBlk (.drain 5) 0 with clk := 5 }, 1, 5, { launch := 1, live := true, pre := .drain 5 }, by decide +kernel⟩

theorem wit_Preempts_5 : ∃ (s : State) (blk u : Nat) (b : Block), s.block blk = b ∧
    b.pre = .drain u ∧
    u ≠ 0 ∧
    u ≤ s.clk ∧
    b.live = true ∧
    (s.launch b.launch).idem = false ∧
    s.poolHolds (s.launch b.launch).ctx [blk] = true :=
  ⟨{ sArea (.drain 5) with clk := 5 }, 1, 5, { launch := 1, live := true, pre := .drain 5 }, by decide +kernel⟩

theorem wit_Preempts_6 : ∃ (s : State) (blk : Nat), (s.block blk).pre = .none :=
  ⟨s0, 1, by decide +kernel⟩

theorem wit_Preempts_7 : ∃ (s : State) (blk : Nat) (b : Block), s.block blk = b ∧
    b.pre = .flush ∧
    s.ops = [] ∧
    s.cmds = [] ∧
    s.blockWarps b.launch blk = [] :=
  ⟨{ sBlk .flush 0 with warps := [] }, 1, { launch := 1, live := true, pre := .flush }, by decide +kernel⟩

theorem wit_Preempts_8 : ∃ (s u : State) (blk : Nat) (b : Block) (a : Word × Nat), s.slotsOnce ∧
    s.block blk = b ∧
    b.pre = .save ∧
    s.ops = [] ∧
    s.cmds = [] ∧
    s.blockWarps b.launch blk ≠ [] ∧
    (∀ e ∈ s.blockWarps b.launch blk, e.2.status = .stopped) ∧
    (s.ctx (s.launch b.launch).ctx).areaFor (s.areaSize blk) = some a ∧
    (s.flushL1 b.cid).areaReady b.cid (s.launch b.launch).ctx a.1 (s.areaSize blk) = (u, true) ∧
    u.l1Dirty b.cid = false :=
  ⟨sArea .save,
    (((sArea .save).flushL1 0).areaReady 0 1 (((sArea .save).ctx 1).areaFor ((sArea .save).areaSize 1)).get!.1 ((sArea .save).areaSize 1)).1,
    1, { launch := 1, live := true, pre := .save }, (((sArea .save).ctx 1).areaFor ((sArea .save).areaSize 1)).get!,
    (by unfold State.slotsOnce; decide +kernel), by decide +kernel⟩

theorem wit_PagesAndPatrol_1 : ∃ (s : State) (i : Nat) (x : Word), s.uncached ∧
    i < 64 ∧
    s.pin i = {} ∧
    bits x.toNat 63 62 = 3 ∧
    bits x.toNat 61 54 < 128 :=
  ⟨State.reset, 63, BitVec.ofNat 64 (3 * 2 ^ 62 + 127 * 2 ^ 54), by unfold State.uncached; decide +kernel,
    by decide +kernel⟩

theorem wit_PagesAndPatrol_2 : ∃ (s : State) (i : Nat) (x : Word), i < 64 ∧
    s.pin i = {} ∧
    bits x.toNat 63 62 = 2 ∧
    bits x.toNat 61 54 < Config.cores ∧
    (s.pinnedCore (bits x.toNat 61 54) = true ∨ s.isReady (.clus (bits x.toNat 61 54 / 4)) = false) :=
  ⟨{ State.reset with pins := [(1, { v := true })] }, 63, BitVec.ofNat 64 (2 ^ 63), by decide +kernel⟩

theorem wit_PagesAndPatrol_3 : ∃ (s : State) (i : Nat) (x : Word), i < 64 ∧
    s.pin i = {} ∧
    bits x.toNat 63 62 = 2 ∧
    bits x.toNat 61 54 < Config.cores ∧
    s.pinnedCore (bits x.toNat 61 54) = false ∧
    s.isReady (.clus (bits x.toNat 61 54 / 4)) = true :=
  ⟨sReady [.clus 39], 63, BitVec.ofNat 64 (2 ^ 63 + 159 * 2 ^ 54), by decide +kernel⟩

theorem wit_PagesAndPatrol_4 : ∃ (s : State) (i a : Nat) (p : Pin), s.uncached ∧
    s.pin i = p ∧
    p.pend = true ∧
    p.kind = false ∧
    Memory.wf s.mem = true ∧
    mapWf 0 s.spad = true ∧
    (∀ r ∈ (s.core p.tgt).regions, r.base + r.lines ≤ 16384) ∧
    s.frameOf p.page = some a :=
  ⟨{ s0 with pins := [(3, { pend := true })] }, 3, ddrKey 0 0 0, { pend := true },
    by unfold State.uncached; decide +kernel, by decide +kernel⟩

theorem wit_PagesAndPatrol_5 : ∃ (s : State) (i a : Nat) (p : Pin), s.pin i = p ∧
    p.v = true ∧
    p.kind = false ∧
    Memory.wf s.mem = true ∧
    mapWf 0 s.spad = true ∧
    s.frameOf p.page = some a :=
  ⟨{ s0 with pins := [(3, { v := true })] }, 3, ddrKey 0 0 0, { v := true }, by decide +kernel⟩

theorem wit_PagesAndPatrol_6 : ∃ (s : State) (i : Nat), (s.pin i).v = false :=
  ⟨State.reset, 0, by decide +kernel⟩

theorem wit_PagesAndPatrol_7 : ∃ (s : State) (k n : Nat) (a b : Word), k < Config.links ∧
    n < 4 ∧
    (s.slot k n).busy = false ∧
    s.migBad k (bits a.toNat 34 0) (bits b.toNat 34 0) = true :=
  ⟨s0, 0, 3, 0, 0, by decide +kernel⟩

theorem wit_PagesAndPatrol_8 : ∃ (s : State) (k n : Nat) (a b : Word), s.uncached ∧
    k < Config.links ∧
    n < 4 ∧
    (s.slot k n).busy = false ∧
    s.migBad k (bits a.toNat 34 0) (bits b.toNat 34 0) = false ∧
    pteIdx (bits a.toNat 34 0) < (s.link k).count ∧
    look .none s.memMark (s.pteAddr (bits a.toNat 34 0) / 16) = .none :=
  ⟨sPages, 0, 3, 24, 0, by unfold State.uncached; decide +kernel, by decide +kernel⟩

theorem wit_PagesAndPatrol_9 : ∃ (s u : State) (k n : Nat) (m : MigSlot) (b : Store), s.uncached ∧
    ((∃ p, s.at {} (m.dst * 2 ^ 21 + 4096 * m.next) = .loc p ∧ b = .ddr p.addr) ∨ (∃ c o h, s.at {} (m.dst * 2 ^ 21 + 4096 * m.next) = .pin c o h ∧ b = .spad c o)) ∧
    u = s.copyBytes (.ddr (ddrKey k (bits m.pte.toNat 33 0) (4096 * m.next))) 4096 b ∧
    s.slot k n = m ∧
    m.busy = true ∧
    m.fwd = false ∧
    s.linkReady k = true ∧
    m.next < 511 :=
  ⟨sMig false, _, 0, 0, aMig false, .ddr (ddrKey 0 0 (4096 * 510)), by unfold State.uncached; decide +kernel,
    (.inl ⟨_, loc_eq (by decide +kernel), by decide +kernel⟩), rfl, by decide +kernel⟩

theorem wit_PagesAndPatrol_11 : ∃ (s : State) (k n : Nat), (s.slot k n).busy = false :=
  ⟨State.reset, 23, 3, by decide +kernel⟩

theorem wit_PagesAndPatrol_12 : ∃ (s : State) (k n : Nat) (m : MigSlot), s.uncached ∧
    s.slot k n = m ∧
    m.busy = true ∧
    m.fwd = true :=
  ⟨sMig true, 0, 0, aMig true, by unfold State.uncached; decide +kernel, by decide +kernel⟩

theorem wit_PagesAndPatrol_13 : ∃ (s : State) (k : Nat) (ecc : List EccResult) (tag : TagResult), (s.link k).scrubEn = true ∧
    s.linkReady k = true ∧
    0 < (s.link k).frames :=
  ⟨sReady [.link 5], 5, [], .pass, by decide +kernel⟩

theorem wit_PagesAndPatrol_14 : ∃ (s : State) (k : Nat) (ecc : List EccResult) (tag : TagResult), (s.link k).scrubEn = false :=
  ⟨{ State.reset with links := [(0, { scrubEn := false })] }, 0, [], .pass, by decide +kernel⟩

theorem wit_PagesAndPatrol_15 : ∃ (s : State), s.smp.en = false :=
  ⟨State.reset, by decide +kernel⟩

theorem wit_PagesAndPatrol_16 : ∃ (s : State), s.smp.en = true ∧
    0 < s.smp.len ∧
    s.smp.len ≤ (s.smp.wi + 2 ^ 32 - s.smp.ri) % 2 ^ 32 :=
  ⟨{ State.reset with smp := { en := true, len := 1, wi := 1 } }, by decide +kernel⟩

theorem wit_PagesAndPatrol_18 : ∃ (s : State) (c k n : Nat), c < Config.cores ∧
    k < 4 ∧
    look 0 (s.core c).tagLeft k = 0 ∧
    2 ^ (s.core c).tlog ≤ 2 * n ∧
    2 * n < 3 * 2 ^ (s.core c).tlog :=
  ⟨State.reset, 159, 3, 98303, by decide +kernel⟩

theorem wit_PagesAndPatrol_19 : ∃ (s : State) (c k n : Nat), c < Config.cores ∧
    k < 4 ∧
    look 0 (s.core c).tagLeft k = 0 ∧
    3 * 2 ^ (s.core c).tlog ≤ 2 * n :=
  ⟨State.reset, 159, 3, 98304, by decide +kernel⟩

theorem wit_PagesAndPatrol_22 : ∃ (s : State) (c k wid exm pc id cls : Nat) (rest : List Nat) (r : Rec8), look [] (s.core c).tagged k = wid :: exm :: pc :: id :: cls :: rest ∧
    (∀ o ∈ s.ops, o.id ≠ id) ∧
    s.smp.len = 0 :=
  ⟨{ State.reset with cores := [(2, { tagged := [(1, [3, 4, 5, 1, 0, 9])] })] }, 2, 1, 3, 4, 5, 1, 0, [9], {},
    by decide +kernel⟩

theorem wit_PagesAndPatrol_10 : ∃ (s : State) (k n : Nat) (m : MigSlot) (e : MemCause), s.uncached ∧
    s.slot k n = m ∧
    m.busy = true ∧
    m.fwd = false ∧
    s.linkReady k = true ∧
    s.at {} (m.dst * 2 ^ 21 + 4096 * m.next) = .fail e :=
  ⟨{ s0 with links := [(0, { s0.link 0 with slots := [(0, { aMig false with dst := 48 })] })] }, 0, 0,
    { aMig false with dst := 48 }, .pteInvalid, by unfold State.uncached; decide +kernel, by decide +kernel⟩

theorem wit_PagesAndPatrol_17 : ∃ (s u : State) (ia : Nat) (p : Spot) (row : List Word), s.rowFits ∧
    (s.ctx Config.mgmtCtx).translate .store s.rowVa = .ok ia ∧
    s.prepare (.by .store Config.mgmtCtx) ia = (s, .spot p) ∧
    row = BitVec.ofNat 64 s.atime :: BitVec.ofNat 64 s.smp.dropped :: (List.range 6).map (fun i => s.counter (bits s.smp.sel.toNat (10 * i + 9) (10 * i))) ∧
    u = s.writeReady (.spot p) ia noWarp ((row.flatMap fun x => toBytes 8 x.toNat).zipIdx.map fun e => (ia % 128 + e.2, e.1)) ∧
    s.smp.en = true ∧
    s.l1 = [] :=
  ⟨sSmp, _, 0x10C0, spotOf (sSmp.at (.by .store 0) 0x10C0), _, (by unfold State.rowFits; decide +kernel),
    (by rw [smpCtx]; decide +kernel), (prepares (by decide +kernel) (by decide +kernel)), rfl, rfl, by decide +kernel⟩

theorem wit_PagesAndPatrol_20 : ∃ (s : State) (c k n : Nat), look 0 (s.core c).tagLeft k ≠ 0 :=
  ⟨{ State.reset with cores := [(2, { tagLeft := [(1, 3)] })] }, 2, 1, 9, by decide +kernel⟩

theorem wit_PagesAndPatrol_21 : ∃ (s : State) (c k wid exm pc id cls : Nat) (rest : List Nat) (r : Rec8), look [] (s.core c).tagged k = wid :: exm :: pc :: id :: cls :: rest ∧
    (∃ o ∈ s.ops, o.id = id) :=
  ⟨{ sOp .store memAcc with cores := [(2, { tagged := [(1, [3, 4, 5, 1, 0])] })] }, 2, 1, 3, 4, 5, 1, 0, [], {},
    by decide +kernel⟩

theorem wit_PagesAndPatrol_23 : ∃ (s : State) (c k wid exm pc id cls : Nat) (rest : List Nat) (r : Rec8) (u : State) (ia : Nat) (p : Spot) (row : List Word), s.rowFits ∧
    (s.ctx Config.mgmtCtx).translate .store s.rowVa = .ok ia ∧
    s.prepare (.by .store Config.mgmtCtx) ia = (s, .spot p) ∧
    row = [BitVec.ofNat 64 s.atime, BitVec.ofNat 64 (2 ^ 60 + s.smp.dropped), BitVec.ofNat 64 (c * 2 ^ 48 + wid * 2 ^ 32 + exm), BitVec.ofNat 64 pc, r.w4, BitVec.ofNat 64 (bits r.w5.toNat 63 48 * 2 ^ 48 + traceLevel cls (bits r.w5.toNat 47 45) * 2 ^ 45), 0, 0] ∧
    u = s.writeReady (.spot p) ia noWarp ((row.flatMap fun x => toBytes 8 x.toNat).zipIdx.map fun e => (ia % 128 + e.2, e.1)) ∧
    look [] (s.core c).tagged k = wid :: exm :: pc :: id :: cls :: rest ∧
    (∀ o ∈ s.ops, o.id ≠ id) ∧
    s.l1 = [] :=
  ⟨sSmpTag, 2, 1, 3, 4, 5, 1, 0, [], {}, _, 0x10C0, spotOf (sSmp.at (.by .store 0) 0x10C0), _,
    (by unfold State.rowFits; decide +kernel), (by rw [smpCtxTag]; decide +kernel),
    (prepares (by decide +kernel) (by decide +kernel)), rfl, rfl, by decide +kernel⟩

/-! ## Steps

One step each, with the result that the rule gives; the values are the manual's own examples or worked by hand. -/

def run (i : Instr) (s : State) : State := nextOf (exec i s) s
def lane0 (vs : List (Nat × Nat)) : State :=
  withW s0 fun w => { w with v := vs.map fun e => (32 * e.1, { val := BitVec.ofNat 32 e.2 }) }
/-- The lane-0 element that an instruction leaves in v2, the word in s2, and the bit in p1. -/
def inV (i : Instr) (vs : List (Nat × Nat)) : Nat := ((run i (lane0 vs)).w.v1 2 0).val.toNat
def inS (i : Instr) (ss : List (Nat × Nat)) : Nat := ((run i (withS s0 ss)).w.s1 2).val.toNat
def inP (i : Instr) (vs : List (Nat × Nat)) : Bool := ((run i (lane0 vs)).w.p1 1 0).val
def flagsOf (i : Instr) (vs : List (Nat × Nat)) : Nat := (run i (lane0 vs)).w.flg.toNat
def x1 (m : BitVec 6) : OpO := oO 7 (.v 2) (.v 1) z z m
def x2 (m : BitVec 6) : OpO := oO 7 (.v 2) (.v 1) (.v 3) z m
def x3 (m : BitVec 6) : OpO := oO 7 (.v 2) (.v 1) (.v 3) (.v 5) m
def y2 (m : BitVec 6) : OpO := oO 7 (.s 2) (.s 1) (.s 3) z m

/-! ### Integer (R72 to R86) -/

theorem test_iaddI_signExtends : inS (.iaddI (oI 7 (.s 2) (.s 1) 0xFFFFFFFF)) [(1, 5)] = 4 := by decide +kernel
theorem test_andI_zeroExtends : inS (.andI (oI 7 (.s 2) (.s 1) 0xFFFFFFFF)) [(1, 0x100000007)] = 7 := by decide +kernel
theorem test_orI : inV (.orI (oI 7 (.v 2) (.v 1) 0xF0)) [(1, 0x0F)] = 0xFF := by decide +kernel
theorem test_xorI : inV (.xorI (oI 7 (.v 2) (.v 1) 0xFF)) [(1, 0x0F)] = 0xF0 := by decide +kernel
theorem test_imulI : inV (.imulI (oI 7 (.v 2) (.v 1) 0xFFFFFFF9)) [(1, 3)] = 0xFFFFFFEB := by decide +kernel
theorem test_movI : inS (.movI (oI 7 (.s 2) z 0x80000000)) [] = 0xFFFFFFFF80000000 := by decide +kernel
theorem test_movl : inS (.movl (oO 7 (.s 2) z z z 0x20) 0x123456789ABCDEF0) [] = 0x123456789ABCDEF0 := by decide +kernel
theorem test_iadd_wraps : inV (.iadd (x2 0x10)) [(1, 0x7FFFFFFF), (3, 1)] = 0x80000000 := by decide +kernel
theorem test_iadd_saturates : inV (.iadd (x2 0x18)) [(1, 0x7FFFFFFF), (3, 1)] = 0x7FFFFFFF := by decide +kernel
theorem test_isub_saturates : inV (.isub (x2 0x08)) [(1, 3), (3, 5)] = 0 := by decide +kernel
theorem test_iaddc_carries :
    let t := run (.iaddc (oO 7 (.v 2) (.v 1) (.v 3) (.p 1) 0)) (lane0 [(1, 0xFFFFFFFF), (3, 1)])
    (t.w.v1 2 0).val = 0 ∧ (t.w.p1 1 0).val = true := by decide +kernel
theorem test_imulh : inS (.imulh (y2 0x20)) [(1, 2 ^ 64 - 1), (3, 2 ^ 64 - 1)] = 0xFFFFFFFFFFFFFFFE ∧
    inS (.imulh (y2 0x30)) [(1, 2 ^ 64 - 1), (3, 2 ^ 64 - 1)] = 0 := by decide +kernel
theorem test_imul : inV (.imul (x2 0)) [(1, 0x10000), (3, 0x10001)] = 0x10000 := by decide +kernel
theorem test_imad : inV (.imad (x3 0)) [(1, 3), (3, 4), (5, 5)] = 17 := by decide +kernel
theorem test_idiv : inV (.idiv (x2 0x10)) [(1, 0xFFFFFFF9), (3, 2)] = 0xFFFFFFFD ∧
    inV (.idiv (x2 0)) [(1, 7), (3, 0)] = 0xFFFFFFFF := by decide +kernel
theorem test_irem : inV (.irem (x2 0x10)) [(1, 0xFFFFFFF9), (3, 2)] = 0xFFFFFFFF ∧ inV (.irem (x2 0)) [(1, 7), (3, 0)] = 7 := by
  decide +kernel
theorem test_imin : inV (.imin (x2 0x10)) [(1, 0xFFFFFFFF), (3, 1)] = 0xFFFFFFFF := by decide +kernel
theorem test_imax : inV (.imax (x2 0x10)) [(1, 0xFFFFFFFF), (3, 1)] = 1 := by decide +kernel
theorem test_ineg : inV (.ineg (x1 0)) [(1, 1)] = 0xFFFFFFFF := by decide +kernel
theorem test_iabs_saturates : inV (.iabs (x1 0x18)) [(1, 0x80000000)] = 0x7FFFFFFF := by decide +kernel
theorem test_sad : inV (.sad (x3 0)) [(1, 3), (3, 10), (5, 100)] = 107 := by decide +kernel
theorem test_idot4 : inV (.idot4 (x3 1)) [(1, 0xFF020304), (3, 0x01010101), (5, 10)] = 18 := by decide +kernel
theorem test_and : inV (.andB (x2 0)) [(1, 0xC), (3, 0xA)] = 8 := by decide +kernel
theorem test_or : inV (.orB (x2 0)) [(1, 0xC), (3, 0xA)] = 14 := by decide +kernel
theorem test_xor : inV (.xorB (x2 0)) [(1, 0xC), (3, 0xA)] = 6 := by decide +kernel
theorem test_andn : inV (.andnB (x2 0)) [(1, 0xC), (3, 0xA)] = 4 := by decide +kernel
theorem test_not : inV (.notB (x1 0)) [(1, 1)] = 0xFFFFFFFE := by decide +kernel
theorem test_shl : inV (.shl (x2 0)) [(1, 3), (3, 31)] = 0x80000000 ∧ inV (.shl (x2 0)) [(1, 3), (3, 32)] = 0 := by decide +kernel
theorem test_shr : inV (.shr (x2 0)) [(1, 0x80000000), (3, 31)] = 1 := by decide +kernel
theorem test_sar : inV (.sar (x2 0)) [(1, 0x80000000), (3, 40)] = 0xFFFFFFFF := by decide +kernel
theorem test_rotl : inV (.rotl (x2 0)) [(1, 0x80000001), (3, 33)] = 3 := by decide +kernel
theorem test_fshl : inV (.fshl (x3 0)) [(1, 1), (3, 0x80000000), (5, 1)] = 3 := by decide +kernel
theorem test_popc : inV (.popc (x1 0)) [(1, 0xF0F)] = 8 := by decide +kernel
theorem test_clz : inV (.clz (x1 0)) [(1, 1)] = 31 ∧ inV (.clz (x1 0)) [] = 32 := by decide +kernel
theorem test_ctz : inV (.ctz (x1 0)) [(1, 8)] = 3 := by decide +kernel
theorem test_brev : inV (.brev (x1 0)) [(1, 1)] = 0x80000000 := by decide +kernel
theorem test_bfx : inV (.bfx (x3 0x10)) [(1, 0xF0), (3, 4), (5, 4)] = 0xFFFFFFFF ∧ inV (.bfx (x3 0)) [(1, 0xF0), (3, 4), (5, 4)] = 0xF := by
  decide +kernel
theorem test_bfi : inV (.bfi (x3 0)) [(1, 0xF), (2, 0xAAAA0000), (3, 8), (5, 4)] = 0xAAAA0F00 := by decide +kernel
theorem test_prmt : inV (.prmt (x3 0)) [(1, 0x44332211), (3, 0x88776655), (5, 0x10688)] = 0x44332288 ∧
    inV (.prmt (x3 0)) [(1, 0x44332211), (3, 0x88776655), (5, 0x8FAC)] = 0x00776655 := by decide +kernel
theorem test_icmp : inP (.icmp (oO 7 (.p 1) (.v 1) (.v 3) z 0x12)) [(1, 0xFFFFFFFF), (3, 0)] = true ∧
    inP (.icmp (oO 7 (.p 1) (.v 1) (.v 3) z 2)) [(1, 0xFFFFFFFF), (3, 0)] = false := by decide +kernel
theorem test_isel : inV (.isel (oO 7 (.v 2) (.v 1) (.v 3) (.p 7) 0)) [(1, 5), (3, 6)] = 5 := by decide +kernel
theorem test_pset : inP (.pset (oO 7 (.p 1) (.p 7) (.p 0) z 3)) [] = true := by decide +kernel
theorem test_mov : inS (.mov (oO 7 (.s 2) (.s 1) z z 0x20)) [(1, 0x123456789)] = 0x123456789 := by decide +kernel
theorem test_lea :
    let t := run (.lea (oO 7 (.v 2) (.s 4) (.v 1) (.l 2) 0)) ((lane0 [(1, 3)]).setW { (lane0 [(1, 3)]).w with s := [(4, { val := 2 ^ 32 - 4 })] })
    (t.w.v1 2 0).val = 8 ∧ (t.w.v1 3 0).val = 1 := by decide +kernel

/-! ### Floating point (R90 to R98): 1.0 is 0x3F800000, 2.0 0x40000000, 3.0 0x40400000 -/

theorem test_fadd : inV (.fadd false (x2 0)) [(1, 0x3F800000), (3, 0x40000000)] = 0x40400000 := by decide +kernel
theorem test_fsub_zero : inV (.fsub false (x2 0)) [(1, 0x3F800000), (3, 0x3F800000)] = 0 := by decide +kernel
theorem test_fmul_invalid : inV (.fmul false (x2 0)) [(1, 0), (3, 0x7F800000)] = 0x7FC00000 := by decide +kernel
theorem test_ffma : inV (.ffma false (x3 0)) [(1, 0x40000000), (3, 0x40000000), (5, 0xBF800000)] = 0x40400000 := by decide +kernel
theorem test_fdiv : inV (.fdiv false (x2 0)) [(1, 0x40400000), (3, 0x40000000)] = 0x3FC00000 := by decide +kernel
theorem test_fsqrt : inV (.fsqrt false (x1 0)) [(1, 0x40800000)] = 0x40000000 := by decide +kernel
theorem test_frcp_zero : inV (.frcp (x1 0)) [(1, 0x80000000)] = 0xFF800000 := by decide +kernel
theorem test_frsq : inV (.frsq (x1 0)) [(1, 0x40800000)] = 0x3F000000 := by decide +kernel
theorem test_fexp2 : inV (.fexp2 (x1 0)) [(1, 0x40400000)] = 0x41000000 := by decide +kernel
theorem test_flog2 : inV (.flog2 (x1 0)) [(1, 0x3F800000)] = 0 := by decide +kernel
theorem test_fsinpi : inV (.fsinpi (x1 0)) [(1, 0x3F000000)] = 0x3F800000 := by decide +kernel
theorem test_fcospi : inV (.fcospi (x1 0)) [(1, 0x3F800000)] = 0xBF800000 := by decide +kernel
theorem test_fmin_zeros : inV (.fmin false (x2 0)) [(1, 0), (3, 0x80000000)] = 0x80000000 := by decide +kernel
theorem test_fmax_zeros : inV (.fmax false (x2 0)) [(1, 0x80000000), (3, 0)] = 0 := by decide +kernel
theorem test_fcmp_unordered : inP (.fcmp false (oO 7 (.p 1) (.v 1) (.v 3) z 1)) [(1, 0x7FC00000), (3, 0)] = true ∧
    inP (.fcmp false (oO 7 (.p 1) (.v 1) (.v 3) z 5)) [(1, 0x7FC00000), (3, 0)] = false := by decide +kernel
theorem test_fclass : inV (.fclass false (x1 0)) [(1, 0x80000000)] = 8 ∧ inV (.fclass false (x1 0)) [(1, 0x7FC00000)] = 0x200 := by
  decide +kernel
theorem test_frnd : inV (.frnd false (x1 0)) [(1, 0x40200000)] = 0x40000000 := by decide +kernel
theorem test_hadd2 : inV (.hadd2 (x2 0)) [(1, 0x3C004000), (3, 0x3C003C00)] = 0x40004200 := by decide +kernel
theorem test_hmul2 : inV (.hmul2 (x2 0)) [(1, 0x40004000), (3, 0x40003C00)] = 0x44004000 := by decide +kernel
theorem test_hfma2 : inV (.hfma2 (x3 0)) [(1, 0x40004000), (3, 0x40003C00), (5, 0x3C003C00)] = 0x45004200 := by decide +kernel
theorem test_cvt_bf16 : inV (.cvt 2 1 (x1 0)) [(1, 0x3F804000)] = 0x3F80 := by decide +kernel

/-! ### Lanes (R162 to R169): lane l of v1 holds l -/

def ramp : State :=
  withW s0 fun w => { w with v := (List.range 32).map fun l => (32 + l, { val := BitVec.ofNat 32 l }), p := [(33, { val := true })] }
def lanesOut (i : Instr) (l : Nat) : Nat := ((run i ramp).w.v1 2 l).val.toNat
theorem test_shfl_rot : lanesOut (.shflRot (oO 7 (.v 2) (.v 1) (.l 1) (.p 7) 0)) 31 = 0 := by decide +kernel
theorem test_shfl_flip : lanesOut (.shflFlip (oO 7 (.v 2) (.v 1) (.l 1) (.p 7) 0)) 6 = 7 := by decide +kernel
theorem test_shfl_from : lanesOut (.shflFrom (oO 7 (.v 2) (.v 1) (.l 5) (.p 7) 0)) 9 = 5 := by decide +kernel
theorem test_shfl_shift : ((run (.shflShift (oO 7 (.v 2) (.v 1) (.l 1) (.p 1) 0)) ramp).w.p1 1 31).val = false := by decide +kernel
theorem test_vote_or : ((run (.voteOr (oO 7 (.p 2) (.p 1) z z 0)) ramp).w.p1 2 9).val = true := by decide +kernel
theorem test_vote_and : ((run (.voteAnd (oO 7 (.p 2) (.p 1) z z 0)) ramp).w.p1 2 9).val = false := by decide +kernel
theorem test_vote_same : ((run (.voteSame (oO 7 (.p 2) (.p 1) z z 0)) ramp).w.p1 2 9).val = false := by decide +kernel
theorem test_vote_mask : ((run (.voteMask (oO 7 (.s 2) (.p 1) z z 0)) ramp).w.s1 2).val = 2 := by decide +kernel
theorem test_redux_add : lanesOut (.reduxAdd (oO 7 (.v 2) (.v 1) z z 0)) 3 = 496 := by decide +kernel
theorem test_redux_max : lanesOut (.reduxMax (oO 7 (.v 2) (.v 1) z z 0)) 3 = 31 := by decide +kernel
theorem test_scan_add : lanesOut (.scanAdd (oO 7 (.v 2) (.v 1) z z 0)) 4 = 10 := by decide +kernel
theorem test_elect : ((run (.elect (oO 7 (.p 2) z z z 0)) ramp).w.p1 2 0).val = true ∧
    ((run (.elect (oO 7 (.p 2) z z z 0)) ramp).w.p1 2 1).val = false := by decide +kernel
theorem test_match_peers : lanesOut (.matchPeers (oO 7 (.v 2) (.v 1) z (.p 2) 0)) 5 = 32 := by decide +kernel
theorem test_partset : (run (.partset (oO 7 z (.l 8) z z 0)) s0).w.part = 8 := by decide +kernel
theorem test_exmset : (run (.exmset (oO 7 z (.s 2) z z 0)) (withS s0 [(2, 5)])).w.exm = 5 := by decide +kernel

/-! ### Control (R102 to R113, R298 to R302) -/

theorem test_bra_enters : (run (.bra (oI 7 z z 2)) s0).w.pc = 0x1020 ∧ (run (.bra (oI 7 z z 2)) s0).w.hdr = 0x1018 := by decide +kernel
theorem test_call_pushes : (run (.call (oI 7 z z 2)) sCall).w.cstk = [0x1010] := by decide +kernel
theorem test_ret_pops : (run (.ret (oO 7 z z z z 0)) (withW s0 fun w => { w with cstk := [0x1018] })).w.hdr = 0x1018 := by decide +kernel
theorem test_exit_retires : (run (.exit (oO 7 z z z z 0)) s0).warps = [] := by decide +kernel
theorem test_nop_advances : (run (.nop (oO 7 z z z z 0)) s0).w.pc = 0x1010 := by decide +kernel
theorem test_trap_enters :
    let t := (run (.trap (oO 7 z (.l 5) z z 0)) trapping).w
    t.hdr = 0x2000 ∧ t.epc = 0x1010 ∧ t.inh = true := by decide +kernel
theorem test_trap_without_handler : (run (.trap (oO 7 z (.l 5) z z 0)) s0).w.status = .halted := by decide +kernel
theorem test_bkpt_stops : (run (.bkpt (oO 7 z z z z 0)) s0).w.status = .stopped := by decide +kernel
theorem test_header_in_block_halts : (nextOf (step (State.reset.withFetchWord 64 0xF002FF0000000000)) s0).warps = [] := by decide +kernel

/-! ### Memory (R114 to R126, R203 to R216) -/

theorem test_load_starts :
    (run (.ld .u64 (oM 7 (.v 2) true 4 0x1008 0 false false false false)) s0).ops.length = 1 := by decide +kernel
theorem test_store_reaches_pad :
    let t := run (.storeComplete 1) (run (.sts .u32 (oM 7 (.v 2) true 4 0x4000 0 false false false false))
      (withW sPad fun w => { w with exm := 1, v := [(64, { val := 0x04030201 })] }))
    look 0 t.spad (spadKey 0 0x4002) = 3 ∧ t.ops = [] := by decide +kernel
theorem test_misaligned_traps : (run (.ld .u32 (oM 7 (.v 2) true 4 0x1002 0 false false false false)) s0).w.status = .halted := by
  decide +kernel
theorem test_atomic_adds :
    let t := run (.atomicComplete 1) (run (.atomsAdd (oO 7 (.v 2) (.s 4) (.v 3) (.l 1) 0))
      (withW sPad fun w => { w with s := [(4, { val := 0x4000 })], v := [(96, { val := 7 })], exm := 1 }))
    look 0 t.spad (spadKey 0 0x4000) = 7 ∧ (t.w.v1 2 0).val = 0 := by decide +kernel

/-! ### Compression (R186: the lines of its table) -/

def wordsOf (n : Nat) (ws : List Nat) : List Byte := ws.flatMap (toBytes n)
theorem test_codes :
    lineCode (List.replicate 128 0) = 1 ∧ lineCode (wordsOf 4 ((List.range 32).map (1000 + ·))) = 4 ∧
    lineCode (wordsOf 8 (List.replicate 16 0x4000000000000000)) = 2 ∧
    lineCode (wordsOf 4 (1000 :: (List.range 31).map (1300 + ·))) = 0 := by decide +kernel

end Sys2Proof.Tests
end

section
/-! The opcode map: the words that name no instruction (R34, R36, R46). `decodeWord` has one equation for each of the three kinds of
opcode: of a header word, unassigned, and assigned. -/

namespace Sys2Proof.Proofs.OpcodeMap

open Sys2Proof Sys2Proof.Machine

/-- The table of R36, read from its reserved side, is the complement of `opAssigned` below the header words. -/
theorem unassigned_iff (n : Nat) : unassigned n ↔ n < 0xF0 ∧ opAssigned n = false := by
  simp only [unassigned, opAssigned, Bool.or_eq_false_iff, Bool.and_eq_false_iff, decide_eq_false_iff_not]
  omega

theorem unassigned_zero : unassigned 0 := .inl rfl

section
variable {env : DecEnv} {w lit : Word}

theorem decodeWord_of_header (h : 0xF0 ≤ (w.extractLsb' 56 8).toNat) :
    decodeWord env w lit = .illegal .headerInBlock := by
  simp only [decodeWord, if_pos h]

theorem decodeWord_of_unassigned (h : unassigned (w.extractLsb' 56 8).toNat) :
    decodeWord env w lit = .illegal .reservedOpcode := by
  obtain ⟨hlt, hop⟩ := (unassigned_iff _).mp h
  simp only [decodeWord, if_neg (Nat.not_le.mpr hlt), hop, Bool.not_false, if_true]

theorem decodeWord_of_assigned (hlt : (w.extractLsb' 56 8).toNat < 0xF0)
    (hop : opAssigned (w.extractLsb' 56 8).toNat = true) :
    decodeWord env w lit = (parse w lit).elim (.illegal .reservedFunction)
      (checkInstr env ((w.extractLsb' 56 8).toNat == 0x0A) (w.extractLsb' 14 6 != 0)) := by
  simp only [decodeWord, if_neg (Nat.not_le.mpr hlt), hop, Bool.not_true, Bool.false_eq_true, if_false]
  cases parse w lit <;> rfl

end

/-- The checks of an instruction's fields come after its opcode's (R47), so none of them answers RESERVED-OPCODE. -/
theorem checkInstr_ne_reservedOpcode (env : DecEnv) (isL fNonzero : Bool) (i : Instr) :
    checkInstr env isL fNonzero i ≠ .illegal .reservedOpcode := by
  unfold checkInstr
  repeat' split
  all_goals nofun

theorem decodeWord_eq_reservedOpcode_iff (env : DecEnv) (w lit : Word) :
    decodeWord env w lit = .illegal .reservedOpcode ↔ unassigned (w.extractLsb' 56 8).toNat := by
  refine ⟨fun h => ?_, decodeWord_of_unassigned⟩
  rcases Nat.lt_or_ge (w.extractLsb' 56 8).toNat 0xF0 with hlt | hge
  · refine (unassigned_iff _).mpr ⟨hlt, Bool.eq_false_iff.mpr fun hop => ?_⟩
    rw [decodeWord_of_assigned hlt hop] at h
    cases hp : parse w lit with
    | none => simp [hp] at h
    | some i => exact checkInstr_ne_reservedOpcode _ _ _ i (by simpa [hp] using h)
  · simp [decodeWord_of_header hge] at h

/-- A zero word fails the checks of R10, its top four bits being zero. -/
theorem headerOk_zero : headerOk 0 = false := by decide

/-- Settles O3: the three kinds of opcode each have their answer, and what follows an assigned opcode has causes of its own. -/
theorem reservedOpcodes : Obligations.ReservedOpcodes := by
  intro env w lit
  exact ⟨decodeWord_eq_reservedOpcode_iff env w lit, decodeWord_of_header,
    decodeWord_of_unassigned (w := 0) unassigned_zero, headerOk_zero⟩

end Sys2Proof.Proofs.OpcodeMap
end

section
/-! The integer arithmetic (R74 to R77, R83): an `alu` operation leaves its row once its value in a lane is the row's. IADDC, which
writes twice, is two results one after the other. -/

namespace Sys2Proof.Proofs.Integers

open Sys2Proof Sys2Proof.Machine

/-! ## The meaning that `exec` gives each instruction -/

theorem exec_iadd (o : OpO) (s : State) : exec (.iadd o) s = execIadd o s := rfl
theorem exec_isub (o : OpO) (s : State) : exec (.isub o) s = execIsub o s := rfl
theorem exec_imul (o : OpO) (s : State) : exec (.imul o) s = execImul o s := rfl
theorem exec_imad (o : OpO) (s : State) : exec (.imad o) s = execImad o s := rfl
theorem exec_imin (o : OpO) (s : State) : exec (.imin o) s = execImin o s := rfl
theorem exec_imax (o : OpO) (s : State) : exec (.imax o) s = execImax o s := rfl
theorem exec_ineg (o : OpO) (s : State) : exec (.ineg o) s = execIneg o s := rfl
theorem exec_iabs (o : OpO) (s : State) : exec (.iabs o) s = execIabs o s := rfl
theorem exec_sad (o : OpO) (s : State) : exec (.sad o) s = execSad o s := rfl
theorem exec_imulh (o : OpO) (s : State) : exec (.imulh o) s = execImulh o s := rfl
theorem exec_idiv (o : OpO) (s : State) : exec (.idiv o) s = execIdiv o s := rfl
theorem exec_irem (o : OpO) (s : State) : exec (.irem o) s = execIrem o s := rfl
theorem exec_isel (o : OpO) (s : State) : exec (.isel o) s = execIsel o s := rfl
theorem exec_iaddc (o : OpO) (s : State) : exec (.iaddc o) s = execIaddc o s := rfl

/-! ## What a word that runs has -/

/-- An instruction that runs has passed the checks of its fields (R46). -/
theorem fieldsOk_of_runs {i : Instr} {s : State} (h : Runs i s) : fieldsOk i = true := by
  obtain ⟨hc, -, -⟩ := h
  cases hf : fieldsOk i with
  | true => rfl
  | false =>
    simp only [checkInstr, hf, Bool.false_and, Bool.not_false, Bool.true_or, if_true] at hc
    split at hc
    · cases hc
    · split at hc <;> cases hc

theorem inCls_of_cls4u {d a b c : Nat} {o : OpO} (h : cls4u d a b c o = true) :
    inCls d o.d = true ∧ inCls a o.a = true ∧ inCls b o.b = true ∧ inCls c o.c = true := by
  simp only [cls4u, cls4, Bool.and_eq_true] at h
  obtain ⟨⟨⟨⟨hd, ha⟩, hb⟩, hc⟩, -⟩ := h
  exact ⟨hd, ha, hb, hc⟩

theorem inCls_of_runs {i : Instr} {s : State} {o : OpO} {d a b c : Nat} {m : Bool} (h : Runs i s)
    (hi : fieldsOk i = (cls4u d a b c o && m)) :
    inCls d o.d = true ∧ inCls a o.a = true ∧ inCls b o.b = true ∧ inCls c o.c = true := by
  have hf := fieldsOk_of_runs h
  rw [hi, Bool.and_eq_true] at hf
  exact inCls_of_cls4u hf.1

theorem inCls_zero_iff {x : Opnd} : inCls 0 x = true ↔ x = .v 0 := by
  simp only [inCls, if_true, decide_eq_true_eq]

theorem bit_cls_of_inCls {set : Nat} {x : Opnd} (hs : set ≠ 0) (h : inCls set x = true) : bit set x.cls = true := by
  rw [inCls, if_neg hs, Bool.and_eq_true] at h
  exact h.1

theorem exists_v_of_inCls {x : Opnd} (h : inCls 1 x = true) : ∃ k, x = .v k := by
  have hb := bit_cls_of_inCls (by decide) h
  cases x with
  | v k => exact ⟨k, rfl⟩
  | s k => exact absurd hb (by decide : ¬ bit 1 1 = true)
  | p k => exact absurd hb (by decide : ¬ bit 1 2 = true)
  | l k => exact absurd hb (by decide : ¬ bit 1 3 = true)

theorem exists_p_of_inCls {x : Opnd} (h : inCls 4 x = true) : ∃ k, x = .p k := by
  have hb := bit_cls_of_inCls (by decide) h
  cases x with
  | p k => exact ⟨k, rfl⟩
  | v k => exact absurd hb (by decide : ¬ bit 4 0 = true)
  | s k => exact absurd hb (by decide : ¬ bit 4 1 = true)
  | l k => exact absurd hb (by decide : ¬ bit 4 3 = true)

theorem nT_eq_one_or_two (o : OpO) : nT o = 1 ∨ nT o = 2 := by
  unfold nT
  split
  · exact .inl rfl
  · exact .inr rfl

/-! ## A computation and its row -/

/-- The bookkeeping of an issue and the origin record are no operands. -/
theorem read_as (w : Warp) (clk : Nat) (g : Origin) (a : Word) (u : Bool) (n : Nat) (x : Opnd) (l : Nat) :
    (w.as clk g a u).read n x l = w.read n x l := rfl

/-- A computing instruction leaves what its function of the warp gives, if that function reads operands alone. -/
theorem alu_computes {i : Instr} {s : State} {pr : Pred} {d : Opnd} {n : Nat} {srcs : List (Opnd × Nat)} {ext : Nat → Nat}
    {f : Warp → Nat → Res} {r : Nat → Res} (hn : n = 1 ∨ n = 2) (h : Runs i s) (hf : FreeFor i s pr d n)
    (he : exec i s = alu i pr d n srcs ext f s) (hr : ∀ clk g a u, f (s.w.as clk g a u) = r) :
    Computes i s pr n d ext r := by
  obtain ⟨t, g, a, u, hx, hk, hs, hl⟩ := aluFrom_runs pr d n hn srcs (s.w.holds pr ||| s.w.psnd pr) ext f h hf
  rw [hr] at hl
  exact ⟨t, he.trans hx, hk, hs, hl⟩

/-- A row's result is that of its operands' values (R16, R69). -/
theorem row_res_eq_ofVals (x : Row) (w : Warp) (l : Nat) :
    x.res w l = ofVals (x.srcs.map fun e => w.read e.2 e.1 l)
      (x.val w.seed l ((x.srcs.map fun e => w.read e.2 e.1 l).map (·.n))) := rfl

/-! ## Exact integers (R74, R76, R77) -/

theorem valT_nonneg_of_unsigned {t : Nat} (h : tySigned t = false) (n : Nat) : 0 ≤ valT t n := by
  rw [valT, if_neg (Bool.eq_false_iff.mp h)]
  exact Int.natCast_nonneg n

/-- What `intOp` computes in a lane. -/
def intRes (i : Instr) (o : OpO) (f : Int → Int → Int → Int) (w : Warp) (l : Nat) : Res :=
  let a := w.read (tyWidth o.ty) o.a l
  let b := w.read (tyWidth o.ty) o.b l
  let c := w.read (tyWidth o.ty) o.c l
  let x := f (valT o.ty a.n) (valT o.ty b.n) (valT o.ty c.n)
  ofVals (intOp.usedVals i o a b c) (if o.sat then satT o.ty x else wrapT o.ty x, 0)

theorem intOp_eq_alu (i : Instr) (o : OpO) (f : Int → Int → Int → Int) (s : State) :
    intOp i o f s = alu i o.pr o.d (nT o) [(o.a, nT o), (o.b, nT o), (o.c, nT o)] (extT o.ty) (intRes i o f) s := rfl

theorem intRes_as (i : Instr) (o : OpO) (f : Int → Int → Int → Int) (w : Warp) (clk : Nat) (g : Origin) (a : Word) (u : Bool) :
    intRes i o f (w.as clk g a u) = intRes i o f w := by
  funext l; simp only [intRes, read_as]

theorem intOp_computes {i : Instr} {o : OpO} {s : State} {f : Int → Int → Int → Int} {r : Nat → Res} (h : Runs i s)
    (hf : FreeFor i s o.pr o.d (nT o)) (he : exec i s = intOp i o f s) (hr : intRes i o f s.w = r) :
    Computes i s o.pr (nT o) o.d (extT o.ty) r :=
  alu_computes (nT_eq_one_or_two o) h hf (he.trans (intOp_eq_alu i o f s)) fun clk g a u =>
    (intRes_as i o f s.w clk g a u).trans hr

/-- An instruction of one source: its B and C fields are zero and no sources. -/
theorem intRes_unary {i : Instr} {o : OpO} (hB : intOp.unusedB i = true) (hC : intOp.unusedC i = true) (hb : o.b = .v 0)
    {f : Int → Int → Int → Int} {g : Int → Int} (hfg : ∀ a b c, f (valT o.ty a) b c = g (valT o.ty a)) {w : Warp} :
    intRes i o f w = (exactRow o [o.a] fun a _ _ => g a).res w := by
  funext l
  rw [row_res_eq_ofVals]
  simp only [intRes, intOp.usedVals, hB, hC, hb, hfg, and_self, if_true]
  rfl

/-- An instruction of two sources. -/
theorem intRes_binary {i : Instr} {o : OpO} (hB : intOp.unusedB i = false) (hC : intOp.unusedC i = true)
    {f : Int → Int → Int → Int} {g : Int → Int → Int}
    (hfg : ∀ a b c, f (valT o.ty a) (valT o.ty b) c = g (valT o.ty a) (valT o.ty b)) {w : Warp} :
    intRes i o f w = (exactRow o [o.a, o.b] fun a b _ => g a b).res w := by
  funext l
  rw [row_res_eq_ofVals]
  simp only [intRes, intOp.usedVals, hB, hC, hfg, Bool.false_eq_true, and_false, if_true, if_false]
  rfl

/-- An instruction of three sources. -/
theorem intRes_ternary {i : Instr} {o : OpO} (hB : intOp.unusedB i = false) (hC : intOp.unusedC i = false)
    {f g : Int → Int → Int → Int} (hfg : f = g) {w : Warp} :
    intRes i o f w = (exactRow o [o.a, o.b, o.c] g).res w := by
  funext l
  subst hfg
  rw [row_res_eq_ofVals]
  simp only [intRes, intOp.usedVals, hB, hC, Bool.false_eq_true, and_false, if_false]
  rfl

/-- The quotient of R77 with a divisor of zero: an unsigned dividend is never negative, so the maximum answers it. -/
theorem zeroQuotient_eq (t n : Nat) :
    (if tySigned t then (if valT t n < 0 then loT t else hiT t) else hiT t) = if valT t n < 0 then loT t else hiT t := by
  cases hs : tySigned t with
  | true => rfl
  | false => rw [if_neg Bool.false_ne_true, if_neg (Int.not_lt.mpr (valT_nonneg_of_unsigned hs n))]

theorem natAbs_eq_max_neg (a : Int) : (a.natAbs : Int) = max a (-a) := by omega

/-- Settles O11: one case for each row of `exactInt`, by the number of its sources. -/
theorem exactIntegers : Obligations.ExactIntegers := by
  intro i s x hx h hf
  unfold exactInt at hx
  split at hx <;> cases hx
  case h_1 => exact intOp_computes h hf (exec_iadd _ s) (intRes_binary rfl rfl fun _ _ _ => rfl)
  case h_2 => exact intOp_computes h hf (exec_isub _ s) (intRes_binary rfl rfl fun _ _ _ => rfl)
  case h_3 => exact intOp_computes h hf (exec_imul _ s) (intRes_binary rfl rfl fun _ _ _ => rfl)
  case h_4 => exact intOp_computes h hf (exec_imad _ s) (intRes_ternary rfl rfl rfl)
  case h_5 => exact intOp_computes h hf (exec_imin _ s) (intRes_binary rfl rfl fun _ _ _ => (Int.min_def _ _).symm)
  case h_6 => exact intOp_computes h hf (exec_imax _ s) (intRes_binary rfl rfl fun _ _ _ => (Int.max_def _ _).symm)
  case h_7 =>
    obtain ⟨-, -, hb, -⟩ := inCls_of_runs h rfl
    exact intOp_computes h hf (exec_ineg _ s) (intRes_unary rfl rfl (inCls_zero_iff.mp hb) fun _ _ _ => rfl)
  case h_8 =>
    obtain ⟨-, -, hb, -⟩ := inCls_of_runs h rfl
    exact intOp_computes h hf (exec_iabs _ s) (intRes_unary rfl rfl (inCls_zero_iff.mp hb) fun _ _ _ => natAbs_eq_max_neg _)
  case h_9 =>
    refine intOp_computes h hf (exec_sad _ s) (intRes_ternary rfl rfl ?_)
    funext a b c
    rw [natAbs_eq_max_neg, Int.neg_sub]
  case h_10 =>
    refine intOp_computes h hf (exec_imulh _ s) (intRes_binary rfl rfl fun a b _ => ?_)
    rw [Int.fdiv_eq_ediv_of_nonneg _ (Int.pow_nonneg (by decide)), Int.natCast_pow]
    rfl
  case h_11 =>
    refine intOp_computes h hf (exec_idiv _ s) (intRes_binary rfl rfl fun a b _ => ?_)
    rw [zeroQuotient_eq]
  case h_12 =>
    refine intOp_computes h hf (exec_irem _ s) (intRes_binary rfl rfl fun a b _ => ?_)
    rw [Int.tmod_def]

/-! ## ISEL (R83) -/

theorem ofVals_pair (a b : Val) (r : Nat × BitVec 8) :
    ofVals [a, b] r =
      if a.psn then { n := 0, psn := true } else if b.psn then { n := 0, psn := true } else { n := r.1, fl := r.2 } := by
  simp only [ofVals, List.any_cons, List.any_nil, Bool.or_false]
  cases a.psn with
  | true => rfl
  | false => rfl

/-- Settles O14: the sources of a lane are C and the one that C selects. -/
theorem select : Obligations.Select := by
  intro s o h hf
  refine alu_computes (nT_eq_one_or_two o) h hf (exec_isel o s) fun clk g a u => funext fun l => ?_
  rw [ofVals_pair]
  rfl

/-! ## IADDC (R75) -/

/-- A function of the sum of A, B and the carry in a lane, with the poison of all three, as `execIaddc` forms it. -/
theorem sumOr_eq_ofVals (w : Warp) (o : OpO) (l : Nat) (f : Nat → Nat) :
    sumOr w o l f = ofVals [w.read (tyWidth o.ty) o.a l, w.read (tyWidth o.ty) o.b l, w.read 32 o.c l]
      (f ((w.read (tyWidth o.ty) o.a l).n + (w.read (tyWidth o.ty) o.b l).n + (w.read 32 o.c l).n), 0) := by
  simp only [ofVals, sumOr, List.any_cons, List.any_nil, Bool.or_false, Bool.or_assoc]

/-- What R75 writes to D in a lane. -/
def sumIn (w : Warp) (o : OpO) (l : Nat) : Res := sumOr w o l fun x => x % 2 ^ tyWidth o.ty
/-- What R75 writes to C in a lane. -/
def carryIn (w : Warp) (o : OpO) (l : Nat) : Res := sumOr w o l fun x => if 2 ^ tyWidth o.ty ≤ x then 1 else 0

theorem sumIn_eq (w : Warp) (o : OpO) : sumIn w o = fun l =>
    ofVals [w.read (tyWidth o.ty) o.a l, w.read (tyWidth o.ty) o.b l, w.read 32 o.c l]
      (((w.read (tyWidth o.ty) o.a l).n + (w.read (tyWidth o.ty) o.b l).n + (w.read 32 o.c l).n) % 2 ^ tyWidth o.ty, 0) :=
  funext fun l => sumOr_eq_ofVals w o l _

theorem carryIn_eq (w : Warp) (o : OpO) : carryIn w o = fun l =>
    ofVals [w.read (tyWidth o.ty) o.a l, w.read (tyWidth o.ty) o.b l, w.read 32 o.c l]
      (carryT o.ty ((w.read (tyWidth o.ty) o.a l).n + (w.read (tyWidth o.ty) o.b l).n + (w.read 32 o.c l).n), 0) :=
  funext fun l => sumOr_eq_ofVals w o l _

theorem sumIn_as (w : Warp) (clk : Nat) (g : Origin) (a : Word) (u : Bool) (o : OpO) :
    sumIn (w.as clk g a u) o = sumIn w o := by
  simp only [sumIn_eq, read_as]

theorem carryIn_as (w : Warp) (clk : Nat) (g : Origin) (a : Word) (u : Bool) (o : OpO) :
    carryIn (w.as clk g a u) o = carryIn w o := by
  simp only [carryIn_eq, read_as]

/-- A carry raises no flag (R70). -/
theorem carryIn_flags (w : Warp) (o : OpO) (l : Nat) : (carryIn w o l).flags = 0 := by
  simp only [carryIn, sumOr]
  split <;> rfl

/-- The warp once the sums are in D. -/
def withSums (w : Warp) (o : OpO) : Warp := w.perLane o.pr (32 * nT o) o.d (sumIn w o)
/-- The warp once the carries are in C too: the lanes and operands are those before either write (R70). -/
def withCarries (w : Warp) (o : OpO) : Warp :=
  (List.range 32).foldl (laneStep (w.holds o.pr) (w.psnd o.pr) 32 o.c (carryIn w o)) (withSums w o)

theorem execIaddc_eq (o : OpO) (s : State) :
    execIaddc o s = issue (.iaddc o) s
      { ready := decide (s.w.writers o.pr = 0) || s.operandsFree (.iaddc o) [o.d] (nT o) (s.w.writers o.pr) } fun u =>
        let v := u.readPending [(o.a, nT o), (o.b, nT o)] (s.w.writers o.pr)
        (v.setW (withCarries v.w o)).advance 1 := by
  simp only [withCarries, withSums, carryIn_eq, sumIn_eq]
  rfl

/-- The two writes change registers and flags alone. -/
theorem withCarries_frame (w : Warp) (o : OpO) :
    withCarries w o = { w with v := (withCarries w o).v, s := (withCarries w o).s, p := (withCarries w o).p
                               flg := (withCarries w o).flg } := by
  have h := Warp.fold_frame (laneStep (w.holds o.pr) (w.psnd o.pr) 32 o.c (carryIn w o)) (fun t l => laneStep_frame ..)
    (List.range 32) (withSums w o)
  rw [withCarries, h, withSums, Warp.perLane_frame]

/-- The lanes that a predicate picks depend on the predicates and the active lanes alone. -/
theorem holds_congr {w u : Warp} (hp : u.p = w.p) (he : u.exm = w.exm) (pr : Pred) : u.holds pr = w.holds pr := by
  simp only [Warp.holds, Warp.predAt, Warp.p1, hp, he]
theorem psnd_congr {w u : Warp} (hp : u.p = w.p) (he : u.exm = w.exm) (pr : Pred) : u.psnd pr = w.psnd pr := by
  simp only [Warp.psnd, Warp.predAt, Warp.p1, hp, he]

theorem foldl_flags_of_zero {f : Nat → Res} (hf : ∀ l, (f l).flags = 0) (L : List Nat) (x : BitVec 8) :
    L.foldl (fun a l => a ||| (f l).flags) x = x := by
  induction L with
  | nil => rfl
  | cons l L ih => rw [List.foldl_cons, hf, show x ||| 0 = x from BitVec.or_zero, ih]

/-- Results that raise no flag, written by lane: `perLane` without its flags. -/
theorem perLane_eq_fold_of_flags_zero {f : Nat → Res} (hf : ∀ l, (f l).flags = 0) (w : Warp) (pr : Pred) (b : Nat) (d : Opnd) :
    w.perLane pr b d f = (List.range 32).foldl (laneStep (w.holds pr) (w.psnd pr) b d f) w := by
  rw [perLane_eq, foldl_flags_of_zero hf, Warp.fold_frame _ (fun t l => laneStep_frame ..) (List.range 32) w]

theorem result_v (w : Warp) (pr : Pred) (b : Nat) (k : BitVec 8) (ext : Nat → Nat) (f : Nat → Res) :
    w.result pr b (.v k) ext f = w.perLane pr b (.v k) f := rfl
theorem result_p (w : Warp) (pr : Pred) (b : Nat) (k : BitVec 8) (ext : Nat → Nat) (f : Nat → Res) :
    w.result pr b (.p k) ext f = w.perLane pr b (.p k) f := rfl

theorem withSums_is (w : Warp) {o : OpO} {k : BitVec 8} (hd : o.d = .v k) :
    LaneResult w (withSums w o) o.pr (nT o) o.d id (sumIn w o) := by
  rw [withSums, hd, ← result_v (ext := id)]
  exact Warp.result_is w o.pr (nT o) (nT_eq_one_or_two o) (.v k) id (sumIn w o)

/-- The sums leave every predicate as it was, so the carries are written in the same lanes. -/
theorem withCarries_is (w : Warp) {o : OpO} {k c : BitVec 8} (hd : o.d = .v k) (hc : o.c = .p c) :
    LaneResult (withSums w o) (withCarries w o) o.pr 1 o.c id (carryIn w o) := by
  obtain ⟨-, hp, -⟩ := (withSums_is w hd).toV k hd
  have he : (withSums w o).exm = w.exm := by rw [withSums, Warp.perLane_frame]
  rw [withCarries, ← holds_congr hp he, ← psnd_congr hp he, ← perLane_eq_fold_of_flags_zero (carryIn_flags w o), hc,
    ← result_p (ext := id)]
  exact Warp.result_is (withSums w o) o.pr 1 (.inl rfl) (.p c) id (carryIn w o)

/-- What the issue of an instruction and the reads of its operands leave of the warp at hand. -/
theorem readPending_issued_w (s : State) (i : Instr) (src : List (Opnd × Nat)) (m : W32) :
    ∃ g a u, ((s.issued i).readPending src m).w = s.w.as s.clk g a u := by
  have h := State.readPending_w (s.issued i) src m
  rw [State.issued_w] at h
  exact ⟨_, _, _, h⟩

theorem sameWarp_of_frame {s t : State} {w : Warp} {g : Origin} {a : Word} {u : Bool}
    (h : t.w = { s.w.as s.clk g a u with v := w.v, s := w.s, p := w.p, flg := w.flg }) : SameWarp s t := by
  rw [SameWarp, h]; rfl

/-- Settles O13: D is written first, a v register, and then C, a predicate, with the lanes and operands of before. -/
theorem addWithCarry : Obligations.AddWithCarry := by
  intro s o h hf
  obtain ⟨hd, -, -, hc⟩ := inCls_of_runs h rfl
  obtain ⟨k, hd⟩ := exists_v_of_inCls hd
  obtain ⟨c, hc⟩ := exists_p_of_inCls hc
  have hready : (decide (s.w.writers o.pr = 0) || s.operandsFree (.iaddc o) [o.d] (nT o) (s.w.writers o.pr)) = true := by
    rw [Bool.or_eq_true, decide_eq_true_eq]; exact hf
  have hk := State.readPending_kept (State.issued_kept s (.iaddc o)) [(o.a, nT o), (o.b, nT o)] (s.w.writers o.pr)
  obtain ⟨g, a, u, hw⟩ := readPending_issued_w s (.iaddc o) [(o.a, nT o), (o.b, nT o)] (s.w.writers o.pr)
  refine ⟨_, withSums (s.w.as s.clk g a u) o, ?_, hk.setW (withCarries (s.w.as s.clk g a u) o), ?_, ?_, ?_⟩
  · rw [exec_iaddc, execIaddc_eq, issue_runs h _ _ hready rfl (.inr rfl) rfl]
    simp only [hw, Instr.words]
  · refine sameWarp_of_frame (w := withCarries (s.w.as s.clk g a u) o) (g := g) (a := a) (u := u) ?_
    rw [State.w_setW]
    exact withCarries_frame ..
  · have hs := (withSums_is (s.w.as s.clk g a u) hd).of_as
    rw [sumIn_as] at hs
    exact hs
  · have hs := withCarries_is (s.w.as s.clk g a u) hd hc
    rw [carryIn_as] at hs
    rw [State.w_setW]
    exact hs

end Sys2Proof.Proofs.Integers
end

section
/-! The round trip of the encoding (R20 to R45) and the words that the manual spells out. -/

namespace Sys2Proof.Proofs.Encoding

open Sys2Proof Sys2Proof.Machine Sys2Proof.Laws.RoundTrip

/-- The round trip of every constructor, in the order of `Instr`. -/
theorem roundTrip (i : Instr) : Statement i :=
  Instr.casesOn (motive := Statement) i
    iaddI movI andI orI xorI imulI movl iadd isub iaddc imul imulh imad idiv irem imin imax iabs ineg idot4 sad andB orB xorB
    andnB notB shl shr sar rotl fshl popc clz ctz brev bfx bfi prmt icmp isel pset mov lea fadd fsub fmul ffma fmin fmax fcmp
    fclass frnd fdiv fsqrt frcp frsq fexp2 flog2 fsinpi fcospi hadd2 hmul2 hfma2 mxscan pack6 unpk6 pack4 unpk4 cvt cvtq bra
    brx call callx ret exit nop hintNext hintFar hintLikely hintUnlikely ld st lds sts ldk stk ldw prefL1 prefL2 shflFrom
    shflRot shflShift shflFlip voteOr voteAnd voteSame voteMask reduxAdd reduxMin reduxMax reduxAnd reduxOr reduxXor scanAdd
    scanMin scanMax scanAnd scanOr scanXor matchPeers matchLead elect partset exmget exmset bar bara barw poll yield taskget
    taskdone lvlid lvlidLane atomAdd atomMin atomMax atomAnd atomOr atomXor atomExch atomInc atomDec atomfAdd atomfMin
    atomfMax cas atomsAdd atomsMin atomsMax atomsAnd atomsOr atomsXor atomsExch atomsInc atomsDec redAdd redMin redMax redAnd
    redOr redXor fence ldacq strel tryOpen commit abort wait cctlInv cctlWb cctlWbinv tcopyLd tcopySt scopy mcast chain qinit
    qpush qpop tagany tagall tagff tagclr accz accmvV accmvA accst tmac txpose mma mmloop trap rtt srd swr vbegin vend bkpt
    wpset halta dumpw tlbinv interest announce leasereq leaseret signal sigwait xscale xsum xfin evpost digest
    versionIrrevocable deferredTrap loadComplete storeComplete atomicComplete engineCommandComplete queuePushPerform
    queuePopPerform matrixStep txposeGroup l1Eviction launchCommand placementAttempt unitBlocking resourceReport
    coreLaunchReport dealChunk warpUrgent pollBackoffEnd yieldTimeout preemptRequest drainDeadline blockSave pinWrite
    pinActivate pinRelease migrationStart migrationChunkCopy migrationRelease scrubLine sampleRow traceTag traceRow dbgHalt
    dbgResume dbgResumePc dbgHaltCtx dbgResumeCtx dbgRefused readShared readExclusive writeBack invalidatePkt recallPkt
    atomicPkt responsePkt sackPkt sackDue packetReserved retransmitTimeout peerUnreachable portFailure portReady flitGroup
    linkNak keyRotate keySlotClear postPkt harpTick harpLoss eventPkt resendPkt missingEventTimeout applySubmit applyFinish
    applyBlock applyUnblock applyFault applyLoss applyJoin applyReserve applyGrant applyReclaim applyReturn applyDone
    applyRevoke applyTick applyUser applyReservedEvent reportPkt snapreq snapPkt lyreReady leasereqPacket leasenak
    leaseFillChunk leaseCopybackChunk leaseDeadline interestPacket tilePkt interestRetry waiterExpiry notifyPkt ctxCreate
    ctxDestroy keyInstall resetRelease startCheck functionReady functionFail functionDisable functionEnable powerAverage
    thermalReset registerWrite pollAttemptResolved sigwaitReadResult

/-- Settles O1: each constructor has its lemma. -/
theorem decodeEncode : Obligations.DecodeEncode := fun i => roundTrip i

/-- Settles O2: two words read by evaluation, and three that `decodeWord` refuses, two by their opcode alone. -/
theorem sampleWords : Obligations.SampleWords :=
  ⟨by decide +kernel, by decide +kernel,
    OpcodeMap.decodeWord_of_unassigned (.inl rfl), OpcodeMap.decodeWord_of_unassigned (by simp [unassigned]), by decide +kernel⟩

end Sys2Proof.Proofs.Encoding
end

section
/-! The meaning that `exec` gives each instruction and event: its own, one for each constructor. -/

namespace Sys2Proof.Proofs.Arms

open Sys2Proof Sys2Proof.Machine

theorem exec_iaddI (o : OpI) (s : State) : exec (.iaddI o) s = execIaddI o s := rfl
theorem exec_movI (o : OpI) (s : State) : exec (.movI o) s = execMovI o s := rfl
theorem exec_andI (o : OpI) (s : State) : exec (.andI o) s = execAndI o s := rfl
theorem exec_orI (o : OpI) (s : State) : exec (.orI o) s = execOrI o s := rfl
theorem exec_xorI (o : OpI) (s : State) : exec (.xorI o) s = execXorI o s := rfl
theorem exec_imulI (o : OpI) (s : State) : exec (.imulI o) s = execImulI o s := rfl
theorem exec_movl (o : OpO) (lit : Word) (s : State) : exec (.movl o lit) s = execMovl o lit s := rfl
theorem exec_idot4 (o : OpO) (s : State) : exec (.idot4 o) s = execIdot4 o s := rfl
theorem exec_andB (o : OpO) (s : State) : exec (.andB o) s = execAndB o s := rfl
theorem exec_orB (o : OpO) (s : State) : exec (.orB o) s = execOrB o s := rfl
theorem exec_xorB (o : OpO) (s : State) : exec (.xorB o) s = execXorB o s := rfl
theorem exec_andnB (o : OpO) (s : State) : exec (.andnB o) s = execAndnB o s := rfl
theorem exec_notB (o : OpO) (s : State) : exec (.notB o) s = execNotB o s := rfl
theorem exec_shl (o : OpO) (s : State) : exec (.shl o) s = execShl o s := rfl
theorem exec_shr (o : OpO) (s : State) : exec (.shr o) s = execShr o s := rfl
theorem exec_sar (o : OpO) (s : State) : exec (.sar o) s = execSar o s := rfl
theorem exec_rotl (o : OpO) (s : State) : exec (.rotl o) s = execRotl o s := rfl
theorem exec_fshl (o : OpO) (s : State) : exec (.fshl o) s = execFshl o s := rfl
theorem exec_popc (o : OpO) (s : State) : exec (.popc o) s = execPopc o s := rfl
theorem exec_clz (o : OpO) (s : State) : exec (.clz o) s = execClz o s := rfl
theorem exec_ctz (o : OpO) (s : State) : exec (.ctz o) s = execCtz o s := rfl
theorem exec_brev (o : OpO) (s : State) : exec (.brev o) s = execBrev o s := rfl
theorem exec_bfx (o : OpO) (s : State) : exec (.bfx o) s = execBfx o s := rfl
theorem exec_bfi (o : OpO) (s : State) : exec (.bfi o) s = execBfi o s := rfl
theorem exec_prmt (o : OpO) (s : State) : exec (.prmt o) s = execPrmt o s := rfl
theorem exec_icmp (o : OpO) (s : State) : exec (.icmp o) s = execIcmp o s := rfl
theorem exec_pset (o : OpO) (s : State) : exec (.pset o) s = execPset o s := rfl
theorem exec_mov (o : OpO) (s : State) : exec (.mov o) s = execMov o s := rfl
theorem exec_lea (o : OpO) (s : State) : exec (.lea o) s = execLea o s := rfl
theorem exec_fadd (dbl : Bool) (o : OpO) (s : State) : exec (.fadd dbl o) s = execFadd dbl o s := rfl
theorem exec_fsub (dbl : Bool) (o : OpO) (s : State) : exec (.fsub dbl o) s = execFsub dbl o s := rfl
theorem exec_fmul (dbl : Bool) (o : OpO) (s : State) : exec (.fmul dbl o) s = execFmul dbl o s := rfl
theorem exec_ffma (dbl : Bool) (o : OpO) (s : State) : exec (.ffma dbl o) s = execFfma dbl o s := rfl
theorem exec_fmin (dbl : Bool) (o : OpO) (s : State) : exec (.fmin dbl o) s = execFmin dbl o s := rfl
theorem exec_fmax (dbl : Bool) (o : OpO) (s : State) : exec (.fmax dbl o) s = execFmax dbl o s := rfl
theorem exec_fcmp (dbl : Bool) (o : OpO) (s : State) : exec (.fcmp dbl o) s = execFcmp dbl o s := rfl
theorem exec_fclass (dbl : Bool) (o : OpO) (s : State) : exec (.fclass dbl o) s = execFclass dbl o s := rfl
theorem exec_frnd (dbl : Bool) (o : OpO) (s : State) : exec (.frnd dbl o) s = execFrnd dbl o s := rfl
theorem exec_fdiv (dbl : Bool) (o : OpO) (s : State) : exec (.fdiv dbl o) s = execFdiv dbl o s := rfl
theorem exec_fsqrt (dbl : Bool) (o : OpO) (s : State) : exec (.fsqrt dbl o) s = execFsqrt dbl o s := rfl
theorem exec_frcp (o : OpO) (s : State) : exec (.frcp o) s = execFrcp o s := rfl
theorem exec_frsq (o : OpO) (s : State) : exec (.frsq o) s = execFrsq o s := rfl
theorem exec_fexp2 (o : OpO) (s : State) : exec (.fexp2 o) s = execFexp2 o s := rfl
theorem exec_flog2 (o : OpO) (s : State) : exec (.flog2 o) s = execFlog2 o s := rfl
theorem exec_fsinpi (o : OpO) (s : State) : exec (.fsinpi o) s = execFsinpi o s := rfl
theorem exec_fcospi (o : OpO) (s : State) : exec (.fcospi o) s = execFcospi o s := rfl
theorem exec_hadd2 (o : OpO) (s : State) : exec (.hadd2 o) s = execHadd2 o s := rfl
theorem exec_hmul2 (o : OpO) (s : State) : exec (.hmul2 o) s = execHmul2 o s := rfl
theorem exec_hfma2 (o : OpO) (s : State) : exec (.hfma2 o) s = execHfma2 o s := rfl
theorem exec_mxscan (o : OpO) (s : State) : exec (.mxscan o) s = execMxscan o s := rfl
theorem exec_pack6 (o : OpO) (s : State) : exec (.pack6 o) s = execPack6 o s := rfl
theorem exec_unpk6 (o : OpO) (s : State) : exec (.unpk6 o) s = execUnpk6 o s := rfl
theorem exec_pack4 (o : OpO) (s : State) : exec (.pack4 o) s = execPack4 o s := rfl
theorem exec_unpk4 (o : OpO) (s : State) : exec (.unpk4 o) s = execUnpk4 o s := rfl
theorem exec_cvt (dst : BitVec 4) (src : BitVec 4) (o : OpO) (s : State) : exec (.cvt dst src o) s = execCvt dst src o s := rfl
theorem exec_cvtq (dst : BitVec 4) (src : BitVec 4) (o : OpO) (s : State) : exec (.cvtq dst src o) s = execCvtq dst src o s := rfl
theorem exec_bra (o : OpI) (s : State) : exec (.bra o) s = execBra o s := rfl
theorem exec_brx (o : OpO) (s : State) : exec (.brx o) s = execBrx o s := rfl
theorem exec_call (o : OpI) (s : State) : exec (.call o) s = execCall o s := rfl
theorem exec_callx (o : OpO) (s : State) : exec (.callx o) s = execCallx o s := rfl
theorem exec_ret (o : OpO) (s : State) : exec (.ret o) s = execRet o s := rfl
theorem exec_exit (o : OpO) (s : State) : exec (.exit o) s = execExit o s := rfl
theorem exec_nop (o : OpO) (s : State) : exec (.nop o) s = execNop o s := rfl
theorem exec_hintNext (o : OpO) (s : State) : exec (.hintNext o) s = execHintNext o s := rfl
theorem exec_hintFar (o : OpO) (s : State) : exec (.hintFar o) s = execHintFar o s := rfl
theorem exec_hintLikely (o : OpO) (s : State) : exec (.hintLikely o) s = execHintLikely o s := rfl
theorem exec_hintUnlikely (o : OpO) (s : State) : exec (.hintUnlikely o) s = execHintUnlikely o s := rfl
theorem exec_ld (w : Width) (o : OpM) (s : State) : exec (.ld w o) s = execLd w o s := rfl
theorem exec_st (w : Width) (o : OpM) (s : State) : exec (.st w o) s = execSt w o s := rfl
theorem exec_lds (w : Width) (o : OpM) (s : State) : exec (.lds w o) s = execLds w o s := rfl
theorem exec_sts (w : Width) (o : OpM) (s : State) : exec (.sts w o) s = execSts w o s := rfl
theorem exec_ldk (w : Width) (o : OpM) (s : State) : exec (.ldk w o) s = execLdk w o s := rfl
theorem exec_stk (w : Width) (o : OpM) (s : State) : exec (.stk w o) s = execStk w o s := rfl
theorem exec_ldw (w : Width) (o : OpM) (s : State) : exec (.ldw w o) s = execLdw w o s := rfl
theorem exec_prefL1 (o : OpM) (s : State) : exec (.prefL1 o) s = execPrefL1 o s := rfl
theorem exec_prefL2 (o : OpM) (s : State) : exec (.prefL2 o) s = execPrefL2 o s := rfl
theorem exec_shflFrom (o : OpO) (s : State) : exec (.shflFrom o) s = execShflFrom o s := rfl
theorem exec_shflRot (o : OpO) (s : State) : exec (.shflRot o) s = execShflRot o s := rfl
theorem exec_shflShift (o : OpO) (s : State) : exec (.shflShift o) s = execShflShift o s := rfl
theorem exec_shflFlip (o : OpO) (s : State) : exec (.shflFlip o) s = execShflFlip o s := rfl
theorem exec_voteOr (o : OpO) (s : State) : exec (.voteOr o) s = execVoteOr o s := rfl
theorem exec_voteAnd (o : OpO) (s : State) : exec (.voteAnd o) s = execVoteAnd o s := rfl
theorem exec_voteSame (o : OpO) (s : State) : exec (.voteSame o) s = execVoteSame o s := rfl
theorem exec_voteMask (o : OpO) (s : State) : exec (.voteMask o) s = execVoteMask o s := rfl
theorem exec_reduxAdd (o : OpO) (s : State) : exec (.reduxAdd o) s = execReduxAdd o s := rfl
theorem exec_reduxMin (o : OpO) (s : State) : exec (.reduxMin o) s = execReduxMin o s := rfl
theorem exec_reduxMax (o : OpO) (s : State) : exec (.reduxMax o) s = execReduxMax o s := rfl
theorem exec_reduxAnd (o : OpO) (s : State) : exec (.reduxAnd o) s = execReduxAnd o s := rfl
theorem exec_reduxOr (o : OpO) (s : State) : exec (.reduxOr o) s = execReduxOr o s := rfl
theorem exec_reduxXor (o : OpO) (s : State) : exec (.reduxXor o) s = execReduxXor o s := rfl
theorem exec_scanAdd (o : OpO) (s : State) : exec (.scanAdd o) s = execScanAdd o s := rfl
theorem exec_scanMin (o : OpO) (s : State) : exec (.scanMin o) s = execScanMin o s := rfl
theorem exec_scanMax (o : OpO) (s : State) : exec (.scanMax o) s = execScanMax o s := rfl
theorem exec_scanAnd (o : OpO) (s : State) : exec (.scanAnd o) s = execScanAnd o s := rfl
theorem exec_scanOr (o : OpO) (s : State) : exec (.scanOr o) s = execScanOr o s := rfl
theorem exec_scanXor (o : OpO) (s : State) : exec (.scanXor o) s = execScanXor o s := rfl
theorem exec_matchPeers (o : OpO) (s : State) : exec (.matchPeers o) s = execMatchPeers o s := rfl
theorem exec_matchLead (o : OpO) (s : State) : exec (.matchLead o) s = execMatchLead o s := rfl
theorem exec_elect (o : OpO) (s : State) : exec (.elect o) s = execElect o s := rfl
theorem exec_partset (o : OpO) (s : State) : exec (.partset o) s = execPartset o s := rfl
theorem exec_exmget (o : OpO) (s : State) : exec (.exmget o) s = execExmget o s := rfl
theorem exec_exmset (o : OpO) (s : State) : exec (.exmset o) s = execExmset o s := rfl
theorem exec_bar (o : OpO) (s : State) : exec (.bar o) s = execBar o s := rfl
theorem exec_bara (o : OpO) (s : State) : exec (.bara o) s = execBara o s := rfl
theorem exec_barw (o : OpO) (s : State) : exec (.barw o) s = execBarw o s := rfl
theorem exec_poll (o : OpO) (s : State) : exec (.poll o) s = execPoll o s := rfl
theorem exec_yield (o : OpO) (s : State) : exec (.yield o) s = execYield o s := rfl
theorem exec_taskget (o : OpO) (s : State) : exec (.taskget o) s = execTaskget o s := rfl
theorem exec_taskdone (o : OpO) (s : State) : exec (.taskdone o) s = execTaskdone o s := rfl
theorem exec_lvlid (k : BitVec 3) (o : OpO) (s : State) : exec (.lvlid k o) s = execLvlid k o s := rfl
theorem exec_lvlidLane (o : OpO) (s : State) : exec (.lvlidLane o) s = execLvlidLane o s := rfl
theorem exec_atomAdd (o : OpO) (s : State) : exec (.atomAdd o) s = execAtomAdd o s := rfl
theorem exec_atomMin (o : OpO) (s : State) : exec (.atomMin o) s = execAtomMin o s := rfl
theorem exec_atomMax (o : OpO) (s : State) : exec (.atomMax o) s = execAtomMax o s := rfl
theorem exec_atomAnd (o : OpO) (s : State) : exec (.atomAnd o) s = execAtomAnd o s := rfl
theorem exec_atomOr (o : OpO) (s : State) : exec (.atomOr o) s = execAtomOr o s := rfl
theorem exec_atomXor (o : OpO) (s : State) : exec (.atomXor o) s = execAtomXor o s := rfl
theorem exec_atomExch (o : OpO) (s : State) : exec (.atomExch o) s = execAtomExch o s := rfl
theorem exec_atomInc (o : OpO) (s : State) : exec (.atomInc o) s = execAtomInc o s := rfl
theorem exec_atomDec (o : OpO) (s : State) : exec (.atomDec o) s = execAtomDec o s := rfl
theorem exec_atomfAdd (o : OpO) (s : State) : exec (.atomfAdd o) s = execAtomfAdd o s := rfl
theorem exec_atomfMin (o : OpO) (s : State) : exec (.atomfMin o) s = execAtomfMin o s := rfl
theorem exec_atomfMax (o : OpO) (s : State) : exec (.atomfMax o) s = execAtomfMax o s := rfl
theorem exec_cas (o : OpO) (s : State) : exec (.cas o) s = execCas o s := rfl
theorem exec_atomsAdd (o : OpO) (s : State) : exec (.atomsAdd o) s = execAtomsAdd o s := rfl
theorem exec_atomsMin (o : OpO) (s : State) : exec (.atomsMin o) s = execAtomsMin o s := rfl
theorem exec_atomsMax (o : OpO) (s : State) : exec (.atomsMax o) s = execAtomsMax o s := rfl
theorem exec_atomsAnd (o : OpO) (s : State) : exec (.atomsAnd o) s = execAtomsAnd o s := rfl
theorem exec_atomsOr (o : OpO) (s : State) : exec (.atomsOr o) s = execAtomsOr o s := rfl
theorem exec_atomsXor (o : OpO) (s : State) : exec (.atomsXor o) s = execAtomsXor o s := rfl
theorem exec_atomsExch (o : OpO) (s : State) : exec (.atomsExch o) s = execAtomsExch o s := rfl
theorem exec_atomsInc (o : OpO) (s : State) : exec (.atomsInc o) s = execAtomsInc o s := rfl
theorem exec_atomsDec (o : OpO) (s : State) : exec (.atomsDec o) s = execAtomsDec o s := rfl
theorem exec_redAdd (o : OpO) (s : State) : exec (.redAdd o) s = execRedAdd o s := rfl
theorem exec_redMin (o : OpO) (s : State) : exec (.redMin o) s = execRedMin o s := rfl
theorem exec_redMax (o : OpO) (s : State) : exec (.redMax o) s = execRedMax o s := rfl
theorem exec_redAnd (o : OpO) (s : State) : exec (.redAnd o) s = execRedAnd o s := rfl
theorem exec_redOr (o : OpO) (s : State) : exec (.redOr o) s = execRedOr o s := rfl
theorem exec_redXor (o : OpO) (s : State) : exec (.redXor o) s = execRedXor o s := rfl
theorem exec_fence (o : OpO) (s : State) : exec (.fence o) s = execFence o s := rfl
theorem exec_ldacq (w : Width) (o : OpM) (s : State) : exec (.ldacq w o) s = execLdacq w o s := rfl
theorem exec_strel (w : Width) (o : OpM) (s : State) : exec (.strel w o) s = execStrel w o s := rfl
theorem exec_tryOpen (o : OpO) (s : State) : exec (.tryOpen o) s = execTryOpen o s := rfl
theorem exec_commit (o : OpO) (s : State) : exec (.commit o) s = execCommit o s := rfl
theorem exec_abort (o : OpO) (s : State) : exec (.abort o) s = execAbort o s := rfl
theorem exec_wait (o : OpI) (s : State) : exec (.wait o) s = execWait o s := rfl
theorem exec_cctlInv (o : OpM) (s : State) : exec (.cctlInv o) s = execCctlInv o s := rfl
theorem exec_cctlWb (o : OpM) (s : State) : exec (.cctlWb o) s = execCctlWb o s := rfl
theorem exec_cctlWbinv (o : OpM) (s : State) : exec (.cctlWbinv o) s = execCctlWbinv o s := rfl
theorem exec_tcopyLd (o : OpO) (s : State) : exec (.tcopyLd o) s = execTcopyLd o s := rfl
theorem exec_tcopySt (o : OpO) (s : State) : exec (.tcopySt o) s = execTcopySt o s := rfl
theorem exec_scopy (o : OpO) (s : State) : exec (.scopy o) s = execScopy o s := rfl
theorem exec_mcast (o : OpO) (s : State) : exec (.mcast o) s = execMcast o s := rfl
theorem exec_chain (o : OpO) (s : State) : exec (.chain o) s = execChain o s := rfl
theorem exec_qinit (o : OpO) (s : State) : exec (.qinit o) s = execQinit o s := rfl
theorem exec_qpush (o : OpO) (s : State) : exec (.qpush o) s = execQpush o s := rfl
theorem exec_qpop (o : OpO) (s : State) : exec (.qpop o) s = execQpop o s := rfl
theorem exec_tagany (o : OpI) (s : State) : exec (.tagany o) s = execTagany o s := rfl
theorem exec_tagall (o : OpI) (s : State) : exec (.tagall o) s = execTagall o s := rfl
theorem exec_tagff (o : OpO) (s : State) : exec (.tagff o) s = execTagff o s := rfl
theorem exec_tagclr (o : OpI) (s : State) : exec (.tagclr o) s = execTagclr o s := rfl
theorem exec_accz (o : OpO) (s : State) : exec (.accz o) s = execAccz o s := rfl
theorem exec_accmvV (o : OpO) (s : State) : exec (.accmvV o) s = execAccmvV o s := rfl
theorem exec_accmvA (o : OpO) (s : State) : exec (.accmvA o) s = execAccmvA o s := rfl
theorem exec_accst (o : OpO) (s : State) : exec (.accst o) s = execAccst o s := rfl
theorem exec_tmac (o : OpO) (s : State) : exec (.tmac o) s = execTmac o s := rfl
theorem exec_txpose (o : OpO) (s : State) : exec (.txpose o) s = execTxpose o s := rfl
theorem exec_mma (shape : BitVec 2) (ty : BitVec 6) (o : OpO) (s : State) : exec (.mma shape ty o) s = execMma shape ty o s := rfl
theorem exec_mmloop (shape : BitVec 2) (ty : BitVec 6) (o : OpO) (s : State) : exec
    (.mmloop shape ty o) s = execMmloop shape ty o s :=
  rfl
theorem exec_trap (o : OpO) (s : State) : exec (.trap o) s = execTrap o s := rfl
theorem exec_srd (reg : BitVec 6) (o : OpO) (s : State) : exec (.srd reg o) s = execSrd reg o s := rfl
theorem exec_swr (reg : BitVec 6) (o : OpO) (s : State) : exec (.swr reg o) s = execSwr reg o s := rfl
theorem exec_vbegin (o : OpO) (s : State) : exec (.vbegin o) s = execVbegin o s := rfl
theorem exec_vend (o : OpO) (s : State) : exec (.vend o) s = execVend o s := rfl
theorem exec_bkpt (o : OpO) (s : State) : exec (.bkpt o) s = execBkpt o s := rfl
theorem exec_wpset (o : OpO) (s : State) : exec (.wpset o) s = execWpset o s := rfl
theorem exec_halta (o : OpO) (s : State) : exec (.halta o) s = execHalta o s := rfl
theorem exec_dumpw (o : OpO) (s : State) : exec (.dumpw o) s = execDumpw o s := rfl
theorem exec_tlbinv (o : OpO) (s : State) : exec (.tlbinv o) s = execTlbinv o s := rfl
theorem exec_interest (o : OpO) (s : State) : exec (.interest o) s = execInterest o s := rfl
theorem exec_announce (o : OpO) (s : State) : exec (.announce o) s = execAnnounce o s := rfl
theorem exec_leasereq (o : OpO) (s : State) : exec (.leasereq o) s = execLeasereq o s := rfl
theorem exec_leaseret (o : OpO) (s : State) : exec (.leaseret o) s = execLeaseret o s := rfl
theorem exec_signal (o : OpO) (s : State) : exec (.signal o) s = execSignal o s := rfl
theorem exec_sigwait (o : OpO) (s : State) : exec (.sigwait o) s = execSigwait o s := rfl
theorem exec_xscale (o : OpO) (s : State) : exec (.xscale o) s = execXscale o s := rfl
theorem exec_xsum (o : OpO) (s : State) : exec (.xsum o) s = execXsum o s := rfl
theorem exec_xfin (o : OpO) (s : State) : exec (.xfin o) s = execXfin o s := rfl
theorem exec_evpost (o : OpO) (s : State) : exec (.evpost o) s = execEvpost o s := rfl
theorem exec_digest (o : OpO) (s : State) : exec (.digest o) s = execDigest o s := rfl
theorem exec_versionIrrevocable (k : Nat) (s : State) : exec (.versionIrrevocable k) s = execVersionIrrevocable k s := rfl
theorem exec_deferredTrap (k : Nat) (s : State) : exec (.deferredTrap k) s = execDeferredTrap k s := rfl
theorem exec_loadComplete (id : Nat) (s : State) : exec (.loadComplete id) s = execLoadComplete id s := rfl
theorem exec_storeComplete (id : Nat) (s : State) : exec (.storeComplete id) s = execStoreComplete id s := rfl
theorem exec_atomicComplete (id : Nat) (s : State) : exec (.atomicComplete id) s = execAtomicComplete id s := rfl
theorem exec_engineCommandComplete (id : Nat) (s : State) : exec (.engineCommandComplete id) s = execEngineCommandComplete id s :=
  rfl
theorem exec_queuePushPerform (id : Nat) (s : State) : exec (.queuePushPerform id) s = execQueuePushPerform id s := rfl
theorem exec_queuePopPerform (id : Nat) (s : State) : exec (.queuePopPerform id) s = execQueuePopPerform id s := rfl
theorem exec_matrixStep (cid : Nat) (s : State) : exec (.matrixStep cid) s = execMatrixStep cid s := rfl
theorem exec_txposeGroup (cid : Nat) (s : State) : exec (.txposeGroup cid) s = execTxposeGroup cid s := rfl
theorem exec_l1Eviction (cid : Nat) (line : Nat) (s : State) : exec (.l1Eviction cid line) s = execL1Eviction cid line s := rfl
theorem exec_launchCommand (pkt : LaunchPkt) (s : State) : exec (.launchCommand pkt) s = execLaunchCommand pkt s := rfl
theorem exec_placementAttempt (s : State) : exec .placementAttempt s = execPlacementAttempt s := rfl
theorem exec_unitBlocking (launch : Nat) (unit : Nat) (s : State) : exec
    (.unitBlocking launch unit) s = execUnitBlocking launch unit s :=
  rfl
theorem exec_resourceReport (die : Nat) (s : State) : exec (.resourceReport die) s = execResourceReport die s := rfl
theorem exec_coreLaunchReport (cid : Nat) (launch : Nat) (s : State) : exec
    (.coreLaunchReport cid launch) s = execCoreLaunchReport cid launch s :=
  rfl
theorem exec_dealChunk (launch : Nat) (s : State) : exec (.dealChunk launch) s = execDealChunk launch s := rfl
theorem exec_warpUrgent (k : Nat) (s : State) : exec (.warpUrgent k) s = execWarpUrgent k s := rfl
theorem exec_pollBackoffEnd (k : Nat) (s : State) : exec (.pollBackoffEnd k) s = execPollBackoffEnd k s := rfl
theorem exec_yieldTimeout (k : Nat) (s : State) : exec (.yieldTimeout k) s = execYieldTimeout k s := rfl
theorem exec_preemptRequest (target : PreemptTarget) (dl : Nat) (s : State) : exec
    (.preemptRequest target dl) s = execPreemptRequest target dl s :=
  rfl
theorem exec_drainDeadline (blk : Nat) (s : State) : exec (.drainDeadline blk) s = execDrainDeadline blk s := rfl
theorem exec_blockSave (blk : Nat) (s : State) : exec (.blockSave blk) s = execBlockSave blk s := rfl
theorem exec_pinWrite (idx : Nat) (val : Word) (s : State) : exec (.pinWrite idx val) s = execPinWrite idx val s := rfl
theorem exec_pinActivate (idx : Nat) (s : State) : exec (.pinActivate idx) s = execPinActivate idx s := rfl
theorem exec_pinRelease (idx : Nat) (s : State) : exec (.pinRelease idx) s = execPinRelease idx s := rfl
theorem exec_migrationStart (link : Nat) (slot : Nat) (src : Word) (dst : Word) (s : State) : exec
    (.migrationStart link slot src dst) s = execMigrationStart link slot src dst s :=
  rfl
theorem exec_migrationChunkCopy (link : Nat) (slot : Nat) (s : State) : exec
    (.migrationChunkCopy link slot) s = execMigrationChunkCopy link slot s :=
  rfl
theorem exec_migrationRelease (link : Nat) (slot : Nat) (s : State) : exec
    (.migrationRelease link slot) s = execMigrationRelease link slot s :=
  rfl
theorem exec_scrubLine (link : Nat) (ecc : List EccResult) (tag : TagResult) (s : State) : exec
    (.scrubLine link ecc tag) s = execScrubLine link ecc tag s :=
  rfl
theorem exec_sampleRow (s : State) : exec .sampleRow s = execSampleRow s := rfl
theorem exec_traceTag (cid : Nat) (sub : Nat) (interval : Nat) (s : State) : exec
    (.traceTag cid sub interval) s = execTraceTag cid sub interval s :=
  rfl
theorem exec_traceRow (cid : Nat) (sub : Nat) (stages : Rec8) (s : State) : exec
    (.traceRow cid sub stages) s = execTraceRow cid sub stages s :=
  rfl
theorem exec_dbgHalt (cmd : Word) (s : State) : exec (.dbgHalt cmd) s = execDbgHalt cmd s := rfl
theorem exec_dbgResume (cmd : Word) (s : State) : exec (.dbgResume cmd) s = execDbgResume cmd s := rfl
theorem exec_dbgResumePc (cmd : Word) (s : State) : exec (.dbgResumePc cmd) s = execDbgResumePc cmd s := rfl
theorem exec_dbgHaltCtx (cmd : Word) (s : State) : exec (.dbgHaltCtx cmd) s = execDbgHaltCtx cmd s := rfl
theorem exec_dbgResumeCtx (cmd : Word) (s : State) : exec (.dbgResumeCtx cmd) s = execDbgResumeCtx cmd s := rfl
theorem exec_dbgRefused (cmd : Word) (s : State) : exec (.dbgRefused cmd) s = execDbgRefused cmd s := rfl
theorem exec_readShared (src : Nat) (ia : Nat) (req : Nat) (s : State) : exec
    (.readShared src ia req) s = execReadShared src ia req s :=
  rfl
theorem exec_readExclusive (src : Nat) (ia : Nat) (req : Nat) (s : State) : exec
    (.readExclusive src ia req) s = execReadExclusive src ia req s :=
  rfl
theorem exec_writeBack (src : Nat) (ia : Nat) (mask : BitVec 128) (marks : List Origin) (data : List Byte) (s : State) :
    exec (.writeBack src ia mask marks data) s = execWriteBack src ia mask marks data s :=
  rfl
theorem exec_invalidatePkt (dev : Nat) (ia : Nat) (s : State) : exec (.invalidatePkt dev ia) s = execInvalidatePkt dev ia s := rfl
theorem exec_recallPkt (dev : Nat) (ia : Nat) (keep : Bool) (s : State) : exec
    (.recallPkt dev ia keep) s = execRecallPkt dev ia keep s :=
  rfl
theorem exec_atomicPkt (src : Nat) (pkt : AtomicPkt) (s : State) : exec (.atomicPkt src pkt) s = execAtomicPkt src pkt s := rfl
theorem exec_responsePkt (src : Nat) (rsp : PeerResponse) (s : State) : exec
    (.responsePkt src rsp) s = execResponsePkt src rsp s :=
  rfl
theorem exec_peerUnreachable (flow : Nat) (s : State) : exec (.peerUnreachable flow) s = execPeerUnreachable flow s := rfl
theorem exec_portFailure (port : Nat) (s : State) : exec (.portFailure port) s = execPortFailure port s := rfl
theorem exec_portReady (port : Nat) (s : State) : exec (.portReady port) s = execPortReady port s := rfl
theorem exec_postPkt (rec_ : Rec8) (atime : Nat) (s : State) : exec (.postPkt rec_ atime) s = execPostPkt rec_ atime s := rfl
theorem exec_harpTick (s : State) : exec .harpTick s = execHarpTick s := rfl
theorem exec_harpLoss (did : Nat) (s : State) : exec (.harpLoss did) s = execHarpLoss did s := rfl
theorem exec_eventPkt (rec_ : Rec8) (s : State) : exec (.eventPkt rec_) s = execEventPkt rec_ s := rfl
theorem exec_resendPkt (src : Nat) (seqs : Nat × Nat) (s : State) : exec (.resendPkt src seqs) s = execResendPkt src seqs s := rfl
theorem exec_missingEventTimeout (s : State) : exec .missingEventTimeout s = execMissingEventTimeout s := rfl
theorem exec_applyReservedEvent (s : State) : exec .applyReservedEvent s = execApplyReservedEvent s := rfl
theorem exec_reportPkt (src : Nat) (seq : Nat) (dig : Word) (s : State) : exec
    (.reportPkt src seq dig) s = execReportPkt src seq dig s :=
  rfl
theorem exec_snapreq (src : Nat) (s0 : Nat) (s : State) : exec (.snapreq src s0) s = execSnapreq src s0 s := rfl
theorem exec_snapPkt (src : Nat) (snap : SnapPart) (s : State) : exec (.snapPkt src snap) s = execSnapPkt src snap s := rfl
theorem exec_lyreReady (s : State) : exec .lyreReady s = execLyreReady s := rfl
theorem exec_leasereqPacket (src : Nat) (tag : Nat) (bound : Nat) (npages : Nat) (term : Nat) (fbtab : Word) (bbase :
    Word) (s : State) : exec (.leasereqPacket src tag bound npages term fbtab bbase) s = execLeasereqPacket src tag bound npages term fbtab bbase s :=
  rfl
theorem exec_leaseFillChunk (lid : Nat) (s : State) : exec (.leaseFillChunk lid) s = execLeaseFillChunk lid s := rfl
theorem exec_leaseCopybackChunk (lid : Nat) (dirty : List Nat) (s : State) : exec
    (.leaseCopybackChunk lid dirty) s = execLeaseCopybackChunk lid dirty s :=
  rfl
theorem exec_leaseDeadline (lid : Nat) (s : State) : exec (.leaseDeadline lid) s = execLeaseDeadline lid s := rfl
theorem exec_interestPacket (src : Nat) (name : TileName) (size : Nat) (deadline : Nat) (s : State) : exec
    (.interestPacket src name size deadline) s = execInterestPacket src name size deadline s :=
  rfl
theorem exec_tilePkt (src : Nat) (name : TileName) (size : Nat) (idx : Nat) (marks : List Origin) (data : List Byte) (s :
    State) : exec (.tilePkt src name size idx marks data) s = execTilePkt src name size idx marks data s :=
  rfl
theorem exec_interestRetry (id : Nat) (s : State) : exec (.interestRetry id) s = execInterestRetry id s := rfl
theorem exec_waiterExpiry (id : Nat) (s : State) : exec (.waiterExpiry id) s = execWaiterExpiry id s := rfl
theorem exec_notifyPkt (ia : Nat) (k : Nat) (s : State) : exec (.notifyPkt ia k) s = execNotifyPkt ia k s := rfl
theorem exec_ctxCreate (w0 : Word) (s : State) : exec (.ctxCreate w0) s = execCtxCreate w0 s := rfl
theorem exec_ctxDestroy (w0 : Word) (s : State) : exec (.ctxDestroy w0) s = execCtxDestroy w0 s := rfl
theorem exec_keyInstall (ctx : Nat) (s : State) : exec (.keyInstall ctx) s = execKeyInstall ctx s := rfl
theorem exec_resetRelease (ed25519 : Bool) (mldsa65 : Bool) (s : State) : exec
    (.resetRelease ed25519 mldsa65) s = execResetRelease ed25519 mldsa65 s :=
  rfl
theorem exec_startCheck (s : State) : exec .startCheck s = execStartCheck s := rfl
theorem exec_functionReady (fn : Function) (s : State) : exec (.functionReady fn) s = execFunctionReady fn s := rfl
theorem exec_functionFail (fn : Function) (s : State) : exec (.functionFail fn) s = execFunctionFail fn s := rfl
theorem exec_functionDisable (fn : Function) (s : State) : exec (.functionDisable fn) s = execFunctionDisable fn s := rfl
theorem exec_functionEnable (fn : Function) (fails : Bool) (s : State) : exec
    (.functionEnable fn fails) s = execFunctionEnable fn fails s :=
  rfl
theorem exec_powerAverage (watts : Nat) (s : State) : exec (.powerAverage watts) s = execPowerAverage watts s := rfl
theorem exec_thermalReset (s : State) : exec .thermalReset s = execThermalReset s := rfl
theorem exec_registerWrite (reg : MgmtReg) (val : Word) (s : State) : exec
    (.registerWrite reg val) s = execRegisterWrite reg val s :=
  rfl
theorem exec_pollAttemptResolved (k : Nat) (s : State) : exec (.pollAttemptResolved k) s = execPollAttemptResolved k s := rfl
theorem exec_sigwaitReadResult (k : Nat) (s : State) : exec (.sigwaitReadResult k) s = execSigwaitReadResult k s := rfl

/-! ## Conditionals and folds -/

theorem ite_of_iff {α : Type} {b c : Prop} [Decidable b] [Decidable c] {x y : α} (h : b ↔ c) :
    (if b then x else y) = if c then x else y :=
  ite_congr (propext h) (fun _ => rfl) fun _ => rfl

theorem ite_join {α : Type} {b c : Prop} [Decidable b] [Decidable c] {x y : α} :
    (if b then x else if c then x else y) = if b ∨ c then x else y := by
  by_cases hb : b
  · rw [if_pos hb, if_pos (Or.inl hb)]
  · rw [if_neg hb, ite_of_iff (or_iff_right hb)]

theorem foldl_unmoved {α β : Type} {f : β → α → β} {b : β} (h : ∀ x, f b x = b) (xs : List α) : xs.foldl f b = b := by
  induction xs with
  | nil => rfl
  | cons x xs ih => rw [List.foldl_cons, h, ih]

end Sys2Proof.Proofs.Arms
end

section
/-! Bit patterns, fields and moves (R72, R73, R78 to R82, R84 to R86): what `alu` computes in a lane is the row's value,
shown bit by
bit where the row is given by its bits. -/

namespace Sys2Proof.Proofs.Integers

open Sys2Proof Sys2Proof.Machine Arms

/-! ## Numbers by their bits -/

theorem bit_eq_testBit (a i : Nat) : bit a i = a.testBit i := by
  rw [bit, Nat.shiftRight_eq_div_pow, Nat.testBit_eq_decide_div_mod_eq]; rfl

theorem sumOf_append (f : Nat → Nat) (xs ys : List Nat) : sumOf f (xs ++ ys) = sumOf f xs + sumOf f ys := by
  induction xs with
  | nil => simp [sumOf]
  | cons x xs ih => simp only [List.cons_append, sumOf, ih]; omega

theorem sumOf_range_succ (f : Nat → Nat) (n : Nat) : sumOf f (List.range (n + 1)) = sumOf f (List.range n) + f n := by
  rw [List.range_succ, sumOf_append]; rfl

theorem sumOf_congr {α : Type} {f g : α → Nat} {xs : List α} (h : ∀ x ∈ xs, f x = g x) : sumOf f xs = sumOf g xs := by
  induction xs with
  | nil => rfl
  | cons x xs ih => rw [sumOf, sumOf, h x List.mem_cons_self, ih fun y hy => h y (List.mem_cons_of_mem x hy)]

theorem sumOf_range_succ_left (f : Nat → Nat) (n : Nat) :
    sumOf f (List.range (n + 1)) = f 0 + sumOf (fun i => f (i + 1)) (List.range n) := by
  induction n with
  | zero => rfl
  | succ n ih => rw [sumOf_range_succ, ih, sumOf_range_succ, Nat.add_assoc]

/-- A sum read from its last term down. -/
theorem sumOf_range_reflect (f : Nat → Nat) (n : Nat) :
    sumOf (fun i => f (n - 1 - i)) (List.range n) = sumOf f (List.range n) := by
  induction n with
  | zero => rfl
  | succ n ih =>
    rw [sumOf_range_succ_left, sumOf_range_succ, Nat.add_comm, ← ih]
    congr 1
    exact sumOf_congr fun i _ => by rw [Nat.add_sub_cancel, Nat.sub_sub, Nat.add_comm]

theorem fromBits_succ (n : Nat) (f : Nat → Bool) : fromBits (n + 1) f = fromBits n f + if f n then 2 ^ n else 0 :=
  sumOf_range_succ _ n

theorem fromBits_lt (n : Nat) (f : Nat → Bool) : fromBits n f < 2 ^ n := by
  induction n with
  | zero => exact Nat.zero_lt_one
  | succ n ih => rw [fromBits_succ, Nat.pow_succ]; split <;> omega

theorem testBit_fromBits (n : Nat) (f : Nat → Bool) (i : Nat) : (fromBits n f).testBit i = (decide (i < n) && f i) := by
  induction n with
  | zero => simp [fromBits, sumOf]
  | succ n ih =>
    have hlt := fromBits_lt n f
    rw [fromBits_succ]
    cases hf : f n with
    | false =>
      rw [if_neg Bool.false_ne_true, Nat.add_zero, ih]
      by_cases hi : i = n
      · simp [hi, hf]
      · simp only [show (i < n + 1) ↔ (i < n) by omega]
    | true =>
      rw [if_pos rfl, Nat.add_comm]
      rcases Nat.lt_trichotomy i n with hi | rfl | hi
      · rw [Nat.testBit_two_pow_add_gt hi, ih]; simp [hi, Nat.lt_succ_of_lt hi]
      · rw [Nat.testBit_two_pow_add_eq, ih]; simp [hf]
      · rw [Nat.testBit_lt_two_pow]
        · simp [Nat.not_lt.mpr (Nat.succ_le_of_lt hi)]
        · have : 2 ^ (n + 1) ≤ 2 ^ i := Nat.pow_le_pow_right (by decide) hi
          rw [Nat.pow_succ] at this; omega

/-- A number of `n` bits is the sum over its bits. -/
theorem eq_fromBits {n x : Nat} {f : Nat → Bool} (hx : x < 2 ^ n) (h : ∀ i, i < n → x.testBit i = f i) : x = fromBits n f := by
  refine Nat.eq_of_testBit_eq fun i => ?_
  rw [testBit_fromBits]
  by_cases hi : i < n
  · simp [hi, h i hi]
  · rw [Nat.testBit_lt_two_pow (Nat.lt_of_lt_of_le hx (Nat.pow_le_pow_right (by decide) (Nat.le_of_not_lt hi)))]
    simp [hi]

theorem mod_eq_fromBits {n x : Nat} {f : Nat → Bool} (h : ∀ i, i < n → x.testBit i = f i) : x % 2 ^ n = fromBits n f := by
  refine eq_fromBits (Nat.mod_lt _ (Nat.two_pow_pos n)) fun i hi => ?_
  rw [Nat.testBit_mod_two_pow, h i hi]; simp [hi]

theorem fromBits_congr {n : Nat} {f g : Nat → Bool} (h : ∀ i, i < n → f i = g i) : fromBits n f = fromBits n g :=
  eq_fromBits (fromBits_lt n f) fun i hi => by rw [testBit_fromBits]; simp [hi, h i hi]

/-- An integer's `w` bits are those of its bit vector. -/
theorem wrapN_eq_toNat (w : Nat) (x : Int) : wrapN w x = (BitVec.ofInt w x).toNat := by
  rw [BitVec.toNat_ofInt]; rfl

theorem sext_eq_toInt (w a : Nat) (h : 0 < w) : sext w a = (BitVec.ofNat w a).toInt := by
  obtain ⟨k, rfl⟩ : ∃ k, w = k + 1 := ⟨w - 1, by omega⟩
  simp only [sext, BitVec.toInt_eq_toNat_cond, BitVec.toNat_ofNat, Nat.add_sub_cancel, Nat.pow_succ]
  have := Nat.mod_lt a (Nat.two_pow_pos (k + 1))
  split <;> split <;> omega

/-! ## What a lane reads -/

/-- An operand of 32 or 64 bits has that many (R67, R88). -/
theorem read_lt (w : Warp) (b : Nat) (hb : b = 32 ∨ b = 64) (x : Opnd) (l : Nat) : (w.read b x l).n < 2 ^ b := by
  cases x with
  | v k =>
    have h0 := (w.v1 k.toNat l).val.isLt
    have h1 := (w.v1 (k.toNat + 1) l).val.isLt
    rcases hb with rfl | rfl
    · exact h0
    · simp only [Warp.read, if_true, Nat.shiftLeft_eq]; omega
  | s k =>
    have h0 := (w.s1 k.toNat).val.isLt
    rcases hb with rfl | rfl
    · exact Nat.mod_lt _ (Nat.two_pow_pos 32)
    · exact h0
  | p k =>
    have h : Bool.n (w.p1 k.toNat l).val < 2 := by cases (w.p1 k.toNat l).val <;> decide
    exact Nat.lt_of_lt_of_le h (by rcases hb with rfl | rfl <;> decide)
  | l k => exact Nat.lt_of_lt_of_le k.isLt (by rcases hb with rfl | rfl <;> decide)

theorem tyWidth_eq (t : Nat) : tyWidth t = 32 ∨ tyWidth t = 64 := by
  unfold tyWidth
  split
  · exact .inr rfl
  · exact .inl rfl

theorem read_tyWidth_lt (w : Warp) (t : Nat) (x : Opnd) (l : Nat) : (w.read (tyWidth t) x l).n < 2 ^ tyWidth t :=
  read_lt w _ (tyWidth_eq t) x l

theorem tyWidth_pos (t : Nat) : 0 < tyWidth t := by rcases tyWidth_eq t with h | h <;> rw [h] <;> decide

/-! ## Rows of `alu` -/

/-- An `alu` operation leaves its row once its value in a lane is the row's. -/
theorem row_computes {i : Instr} {s : State} {x : Row} {pr : Pred} {d : Opnd} {n : Nat} {srcs : List (Opnd × Nat)}
    {ext : Nat → Nat}
    {f : Warp → Nat → Res} (h : Runs i s) (hf : FreeFor i s pr d n) (hn : n = 1 ∨ n = 2)
    (he : exec i s = alu i pr d n srcs ext f s) (hr : ∀ w l, f w l = x.res w l) : Computes i s pr n d ext (x.res s.w) :=
  alu_computes hn h hf he fun _ _ _ _ => funext fun l => hr _ l

/-- What `bitOp` computes in a lane. -/
def bitRes (o : OpO) (f : Nat → Nat → Nat → Nat) (w : Warp) (l : Nat) : Res :=
  let a := w.read (tyWidth o.ty) o.a l
  let b := w.read (tyWidth o.ty) o.b l
  ofVals [a, b] (f (tyWidth o.ty) a.n b.n % 2 ^ tyWidth o.ty, 0)
/-- What `bitOp1` computes in a lane. -/
def bitRes1 (o : OpO) (f : Nat → Nat → Nat) (w : Warp) (l : Nat) : Res :=
  let a := w.read (tyWidth o.ty) o.a l
  ofVals [a] (f (tyWidth o.ty) a.n, 0)
/-- What `shiftOp` computes in a lane. -/
def shiftRes (o : OpO) (f : Nat → Nat → Nat → Nat) (w : Warp) (l : Nat) : Res :=
  let a := w.read (tyWidth o.ty) o.a l
  let b := w.read 32 o.b l
  ofVals [a, b] (f (tyWidth o.ty) a.n b.n % 2 ^ tyWidth o.ty, 0)

theorem bitOp_eq_alu (i : Instr) (o : OpO) (f : Nat → Nat → Nat → Nat) (s : State) :
    bitOp i o f s = alu i o.pr o.d (nT o) [(o.a, nT o), (o.b, nT o)] (extT o.ty) (bitRes o f) s := rfl
theorem bitOp1_eq_alu (i : Instr) (o : OpO) (n : Nat) (f : Nat → Nat → Nat) (s : State) :
    bitOp1 i o n f s = alu i o.pr o.d n [(o.a, nT o)] (extT o.ty) (bitRes1 o f) s := rfl
theorem shiftOp_eq_alu (i : Instr) (o : OpO) (f : Nat → Nat → Nat → Nat) (s : State) :
    shiftOp i o f s = alu i o.pr o.d (nT o) [(o.a, nT o), (o.b, 1)] (extT o.ty) (shiftRes o f) s := rfl

section
variable {i : Instr} {o : OpO} {s : State} {x : Row}

/-- A bit pattern of two operands. -/
theorem bitOp_computes {f : Nat → Nat → Nat → Nat} {g : Nat → Nat → Nat → Bool} (h : Runs i s)
    (hf : FreeFor i s o.pr o.d (nT o)) (he : exec i s = bitOp i o f s)
    (hg : ∀ w a b j, a < 2 ^ w → b < 2 ^ w → j < w → (f w a b).testBit j = g a b j) :
    Computes i s o.pr (nT o) o.d (extT o.ty) ((bitRow.two o g).res s.w) := by
  refine row_computes h hf (nT_eq_one_or_two o) (he.trans (bitOp_eq_alu ..)) fun w l => ?_
  rw [row_res_eq_ofVals]
  refine congrArg (fun n => ofVals _ (n, 0)) (mod_eq_fromBits fun j hj => ?_)
  exact hg _ _ _ j (read_tyWidth_lt ..) (read_tyWidth_lt ..) hj

/-- A bit pattern of one operand, and the counts. -/
theorem bitOp1_computes {n : Nat} {f : Nat → Nat → Nat} (h : Runs i s) (hf : FreeFor i s o.pr o.d n) (hn : n = 1 ∨ n = 2)
    (he : exec i s = bitOp1 i o n f s)
    (hg : ∀ w l, ofVals [w.read (tyWidth o.ty) o.a l] (f (tyWidth o.ty) (w.read (tyWidth o.ty) o.a l).n, 0) = x.res w l) :
    Computes i s o.pr n o.d (extT o.ty) (x.res s.w) :=
  row_computes h hf hn (he.trans (bitOp1_eq_alu ..)) hg

/-- A shift or rotate. -/
theorem shiftOp_computes {f : Nat → Nat → Nat → Nat} {g : Nat → Nat → Nat} (h : Runs i s)
    (hf : FreeFor i s o.pr o.d (nT o)) (he : exec i s = shiftOp i o f s)
    (hg : ∀ a b, a < 2 ^ tyWidth o.ty → f (tyWidth o.ty) a b % 2 ^ tyWidth o.ty = g a b) :
    Computes i s o.pr (nT o) o.d (extT o.ty) ((bitRow.shift o g).res s.w) := by
  refine row_computes h hf (nT_eq_one_or_two o) (he.trans (shiftOp_eq_alu ..)) fun w l => ?_
  rw [row_res_eq_ofVals]
  exact congrArg (fun n => ofVals _ (n, 0)) (hg _ _ (read_tyWidth_lt ..))

end

/-! ## The values (R79) -/

theorem testBit_ones (w j : Nat) : (2 ^ w - 1).testBit j = decide (j < w) := Nat.testBit_two_pow_sub_one w j

theorem notB_eq (w a : Nat) (ha : a < 2 ^ w) : a ^^^ (2 ^ w - 1) = fromBits w fun i => !bit a i := by
  refine eq_fromBits (Nat.xor_lt_two_pow ha (Nat.sub_lt (Nat.two_pow_pos w) Nat.one_pos)) fun i hi => ?_
  rw [Nat.testBit_xor, testBit_ones, bit_eq_testBit, decide_eq_true hi, Bool.xor_true]

theorem shl_eq (w a n : Nat) : shlN w a n % 2 ^ w = if w ≤ n then 0 else a * 2 ^ n % 2 ^ w := by
  unfold shlN
  split
  · exact Nat.zero_mod _
  · rw [Nat.shiftLeft_eq]

theorem shr_eq (w a n : Nat) (ha : a < 2 ^ w) : shrN w a n % 2 ^ w = if w ≤ n then 0 else a / 2 ^ n := by
  unfold shrN
  split
  · exact Nat.zero_mod _
  · rw [Nat.shiftRight_eq_div_pow, Nat.mod_eq_of_lt (Nat.lt_of_le_of_lt (Nat.div_le_self _ _) ha)]

/-- An arithmetic shift repeats the sign bit. -/
theorem sar_eq (w a n : Nat) (hw : 0 < w) :
    sarN w a n % 2 ^ w = fromBits w fun i => bit a (min (i + n) (w - 1)) := by
  have hs : sarN w a n = ((BitVec.ofNat w a).sshiftRight (if w ≤ n then w else n)).toNat := by
    rw [sarN, wrapN_eq_toNat, sext_eq_toInt w a hw, BitVec.sshiftRight, Int.shiftRight_eq_div_pow]
  rw [hs]
  refine mod_eq_fromBits fun i hi => ?_
  rw [BitVec.testBit_toNat, BitVec.getLsbD_sshiftRight, bit_eq_testBit, BitVec.msb_eq_getLsbD_last, BitVec.getLsbD_ofNat,
    BitVec.getLsbD_ofNat]
  split <;> split <;> simp (disch := omega) only [decide_eq_true, decide_eq_false, Bool.not_false, Bool.true_and]
  all_goals congr 1; omega

theorem rotl_eq (w a n : Nat) (hw : 0 < w) (ha : a < 2 ^ w) :
    rotlN w a n % 2 ^ w = fromBits w fun i => bit a ((i + (w - n % w)) % w) := by
  refine mod_eq_fromBits fun i hi => ?_
  have hr := Nat.mod_lt n hw
  have high (j : Nat) (hj : w ≤ j) : a.testBit j = false :=
    Nat.testBit_lt_two_pow (Nat.lt_of_lt_of_le ha (Nat.pow_le_pow_right (by decide) hj))
  rw [rotlN, Nat.testBit_or, Nat.testBit_shiftLeft, Nat.testBit_shiftRight, bit_eq_testBit]
  generalize n % w = r at hr
  by_cases hir : r ≤ i
  · rw [high (w - r + i) (by omega), Bool.or_false, decide_eq_true hir, Bool.true_and]
    congr 1
    rw [show i + (w - r) = i - r + w by omega, Nat.add_mod_right, Nat.mod_eq_of_lt (by omega)]
  · rw [decide_eq_false hir, Bool.false_and, Bool.false_or, Nat.mod_eq_of_lt (by omega), Nat.add_comm]

theorem brev_eq (n a : Nat) : brevN n a = fromBits n fun i => bit a (n - 1 - i) := by
  rw [brevN, fromBits, ← sumOf_range_reflect]
  refine sumOf_congr fun i hi => ?_
  rw [Nat.sub_sub_self (Nat.le_sub_one_of_lt (List.mem_range.mp hi))]

theorem fshl_eq (w a b n : Nat) :
    (((a <<< w + b) <<< n) >>> w) % 2 ^ w = (a * 2 ^ w + b) * 2 ^ n / 2 ^ w % 2 ^ w := by
  rw [Nat.shiftLeft_eq, Nat.shiftLeft_eq, Nat.shiftRight_eq_div_pow]

theorem bitLen_le_iff (a i : Nat) : bitLen a ≤ i ↔ a < 2 ^ i := by
  unfold bitLen
  split
  · simp [*, Nat.two_pow_pos]
  · rw [Nat.succ_le_iff, Nat.log2_lt ‹_›]

/-- As many numbers below `n` are at least `k` as `n` exceeds it. -/
theorem length_filter_ge (n k : Nat) : ((List.range n).filter fun i => decide (k ≤ i)).length = n - k := by
  induction n with
  | zero => simp
  | succ n ih =>
    rw [List.range_succ, List.filter_append, List.length_append, ih]
    by_cases h : k ≤ n
    · simp [h]; omega
    · simp [h]; omega

theorem clz_eq (n a : Nat) : clzN n a = ((List.range n).filter fun i => decide (a < 2 ^ i)).length := by
  rw [clzN, ← length_filter_ge]
  simp only [bitLen_le_iff]

theorem mod_two_pow_eq_zero_iff (a i : Nat) : a % 2 ^ i = 0 ↔ ∀ j, j < i → bit a j = false := by
  constructor
  · intro h j hj
    have := congrArg (Nat.testBit · j) h
    simpa [Nat.testBit_mod_two_pow, hj, bit_eq_testBit] using this
  · intro h
    refine Nat.eq_of_testBit_eq fun j => ?_
    rw [Nat.testBit_mod_two_pow, Nat.zero_testBit]
    by_cases hj : j < i
    · rw [← bit_eq_testBit, h j hj, Bool.and_false]
    · simp [hj]

/-- The zeros below the lowest 1: `i` is among them if no bit up to it is set. -/
theorem lt_ctzN_iff {n i : Nat} (a : Nat) (hi : i < n) : i < ctzN n a ↔ a % 2 ^ (i + 1) = 0 := by
  rw [mod_two_pow_eq_zero_iff, ctzN]
  cases hc : (List.range n).find? (fun i => bit a i) with
  | none =>
    have h := List.find?_eq_none.mp hc
    refine iff_of_true hi fun j hj => Bool.eq_false_iff.mpr (h j (List.mem_range.mpr (by omega)))
  | some c =>
    obtain ⟨hb, -, hlow⟩ := List.find?_range_eq_some.mp hc
    constructor
    · intro hic j hj
      simpa using hlow j (by simp only [Option.getD_some] at hic; omega)
    · intro h
      refine Nat.lt_of_not_le fun hci => ?_
      rw [h c (by simp only [Option.getD_some] at hci; omega)] at hb
      cases hb

theorem length_filter_lt (n k : Nat) (hk : k ≤ n) : ((List.range n).filter fun i => decide (i < k)).length = k := by
  induction n generalizing k with
  | zero => rw [Nat.le_zero.1 hk]; rfl
  | succ n ih =>
    rw [List.range_succ, List.filter_append, List.length_append]
    rcases Nat.lt_or_ge n k with h | h
    · have hall : (List.range n).filter (fun i => decide (i < k)) = List.range n :=
        List.filter_eq_self.2 fun i hi => decide_eq_true (by have := List.mem_range.1 hi; omega)
      rw [hall, List.length_range, List.filter_cons, if_pos (decide_eq_true h), List.filter_nil, List.length_singleton]
      omega
    · rw [ih k h, List.filter_cons, if_neg (by simpa using h), List.filter_nil, List.length_nil, Nat.add_zero]

theorem ctzN_le (n a : Nat) : ctzN n a ≤ n := by
  unfold ctzN
  cases hc : (List.range n).find? (fun i => bit a i) with
  | none => exact Nat.le_refl n
  | some c => exact Nat.le_of_lt (List.mem_range.mp (List.mem_of_find?_eq_some hc))

theorem ctz_eq (n a : Nat) : ctzN n a = ((List.range n).filter fun i => decide (a % 2 ^ (i + 1) = 0)).length := by
  rw [← length_filter_lt n (ctzN n a) (ctzN_le n a)]
  congr 1
  refine List.filter_congr fun i hi => ?_
  simp only [lt_ctzN_iff a (List.mem_range.mp hi)]

/-! ## Fields (R78, R80, R81) -/

/-- A field of `n` bits from bit `p`, sign- or zero-extended. -/
theorem bfx_eq (sg : Bool) {w n : Nat} (hn : n ≤ w) (p a : Nat) :
    (if n = 0 then 0 else if sg then wrapN w (sext n ((a >>> p) % 2 ^ n)) else (a >>> p) % 2 ^ n) =
      fromBits w fun i => if i < n then bit a (p + i) else sg && decide (0 < n) && bit a (p + n - 1) := by
  simp only [bit_eq_testBit]
  by_cases h0 : n = 0
  · subst h0
    exact eq_fromBits (Nat.two_pow_pos w) fun i _ => by simp
  · rw [if_neg h0]
    cases sg with
    | false =>
      rw [if_neg Bool.false_ne_true]
      refine eq_fromBits (Nat.lt_of_lt_of_le (Nat.mod_lt _ (Nat.two_pow_pos n)) (Nat.pow_le_pow_right
          (by decide) hn)) fun i _ => ?_
      rw [Nat.testBit_mod_two_pow, Nat.testBit_shiftRight]
      by_cases hi : i < n <;> simp [hi]
    | true =>
      rw [if_pos rfl, sext_eq_toInt n _ (by omega), wrapN_eq_toNat, ← BitVec.signExtend]
      refine eq_fromBits (BitVec.isLt _) fun i hi => ?_
      rw [BitVec.testBit_toNat, BitVec.getLsbD_signExtend, BitVec.msb_eq_getLsbD_last, BitVec.getLsbD_ofNat, BitVec.getLsbD_ofNat,
        Nat.testBit_mod_two_pow, Nat.testBit_mod_two_pow, Nat.testBit_shiftRight, Nat.testBit_shiftRight]
      by_cases hin : i < n
      · simp [hi, hin]
      · simp only [hi, hin, if_false, decide_true, Bool.true_and, show n - 1 < n by omega, show 0 < n by omega,
          show p + (n - 1) = p + n - 1 by omega]

/-- `n` bits of `a` laid over `d` at bit `p`. -/
theorem bfi_eq {w p n d : Nat} (hn : p + n ≤ w) (hd : d < 2 ^ w) (a : Nat) :
    (d &&& ((2 ^ n - 1) <<< p ^^^ (2 ^ w - 1))) ||| (a % 2 ^ n) <<< p =
      fromBits w fun i => if p ≤ i ∧ i < p + n then bit a (i - p) else bit d i := by
  simp only [bit_eq_testBit]
  have ha : (a % 2 ^ n) <<< p < 2 ^ w := by
    have h := Nat.mul_lt_mul_of_pos_right (Nat.mod_lt a (Nat.two_pow_pos n)) (Nat.two_pow_pos p)
    rw [← Nat.pow_add, Nat.add_comm n p, ← Nat.shiftLeft_eq] at h
    exact Nat.lt_of_lt_of_le h (Nat.pow_le_pow_right (by decide) hn)
  refine eq_fromBits (Nat.or_lt_two_pow (Nat.lt_of_le_of_lt Nat.and_le_left hd) ha) fun i hi => ?_
  rw [Nat.testBit_or, Nat.testBit_and, Nat.testBit_xor, testBit_ones, Nat.testBit_shiftLeft, Nat.testBit_shiftLeft, testBit_ones,
    Nat.testBit_mod_two_pow]
  by_cases h1 : p ≤ i
  · by_cases h2 : i < p + n
    · simp [h1, h2, hi, show i - p < n by omega]
    · simp [h1, h2, hi, show ¬ i - p < n by omega]
  · simp [h1, hi]

/-- Bytes laid side by side, bit by bit. -/
theorem sumOf_bytes (g : Nat → Nat) (m : Nat) (hg : ∀ i, i < m → g i < 2 ^ 8) :
    sumOf (fun i => g i <<< (8 * i)) (List.range m) = fromBits (8 * m) fun j => (g (j / 8)).testBit (j % 8) := by
  induction m with
  | zero => rfl
  | succ m ih =>
    have hm := hg m (Nat.lt_succ_self m)
    rw [sumOf_range_succ, ih fun i hi => hg i (Nat.lt_succ_of_lt hi), Nat.add_comm,
      Nat.shiftLeft_add_eq_or_of_lt (fromBits_lt _ _)]
    refine eq_fromBits (Nat.or_lt_two_pow ?_ ?_) fun i hi => ?_
    · rw [Nat.shiftLeft_eq, Nat.mul_succ, Nat.pow_add, Nat.mul_comm]
      exact Nat.mul_lt_mul_of_pos_left hm (Nat.two_pow_pos _)
    · exact Nat.lt_of_lt_of_le (fromBits_lt _ _) (Nat.pow_le_pow_right (by decide) (by omega))
    · rw [Nat.testBit_or, Nat.testBit_shiftLeft, testBit_fromBits]
      by_cases h : i < 8 * m
      · rw [decide_eq_false (Nat.not_le.2 h), decide_eq_true h, Bool.false_and, Bool.false_or, Bool.true_and]
      · rw [decide_eq_true (Nat.le_of_not_lt h), decide_eq_false h, show i / 8 = m by omega, show i - 8 * m = i % 8 by omega]
        simp

theorem bits_lt (x hi lo : Nat) : bits x hi lo < 2 ^ (hi + 1 - lo) := Nat.mod_lt _ (Nat.two_pow_pos _)

theorem testBit_bits (x hi lo i : Nat) : (bits x hi lo).testBit i = (decide (i < hi + 1 - lo) && bit x (lo + i)) := by
  rw [bits, Nat.testBit_mod_two_pow, Nat.testBit_shiftRight, bit_eq_testBit]

/-- A bit of a byte of a number, read from either end. -/
theorem byte_testBit (y k : Nat) {i : Nat} (hi : i < 8) : (bits y (8 * k + 7) (8 * k)).testBit i = bit y (8 * k + i) := by
  rw [testBit_bits, decide_eq_true (by omega), Bool.true_and]

theorem prmt_eq (a b c : Nat) :
    prmtN a b c = fromBits 32 fun j =>
      let x := bits c (3 * (j / 8) + 2) (3 * (j / 8))
      let k := if bit c (16 + j / 8) then 7 - j % 8 else j % 8
      !bit c (12 + j / 8) && (if x < 4 then bit a (8 * x + k) else bit b (8 * (x - 4) + k)) := by
  have hsel (i : Nat) : (if bits c (3 * i + 2) (3 * i) < 4 then bits a (8 * bits c (3 * i + 2) (3 * i) + 7) (8 * bits c
      (3 * i + 2) (3 * i))
      else bits b (8 * (bits c (3 * i + 2) (3 * i) - 4) + 7) (8 * (bits c (3 * i + 2) (3 * i) - 4))) < 2 ^ 8 := by
    split
    · exact Nat.lt_of_lt_of_eq (bits_lt _ _ _) (by congr 1; omega)
    · exact Nat.lt_of_lt_of_eq (bits_lt _ _ _) (by congr 1; omega)
  rw [prmtN, sumOf_bytes _ 4 fun i _ => ?_]
  · refine fromBits_congr fun j _ => ?_
    have hj := Nat.mod_lt j (show 0 < 8 by decide)
    cases bit c (12 + j / 8) with
    | true => simp
    | false =>
      simp only [Bool.false_eq_true, if_false, Bool.not_false, Bool.true_and]
      cases bit c (16 + j / 8) with
      | true =>
        simp only [if_true, brev_eq, testBit_fromBits, bit_eq_testBit _ (8 - 1 - _), decide_eq_true hj, Bool.true_and]
        split <;> exact byte_testBit _ _ (by omega)
      | false =>
        simp only [Bool.false_eq_true, if_false]
        split <;> exact byte_testBit _ _ hj
  · split
    · exact Nat.two_pow_pos 8
    · split
      · rw [brev_eq]; exact fromBits_lt 8 _
      · exact hsel i

theorem sext_mod (n a : Nat) : sext n (a % 2 ^ n) = sext n a := by simp only [sext, Nat.mod_mod]

theorem byteInt_eq (sg : Bool) (x i : Nat) :
    byteInt sg x i = if sg then sext 8 (bits x (8 * i + 7) (8 * i)) else (bits x (8 * i + 7) (8 * i) : Int) := by
  have h : bits x (8 * i + 7) (8 * i) = x / 256 ^ i % 2 ^ 8 := by
    rw [bits, Nat.shiftRight_eq_div_pow, Nat.pow_mul, show 8 * i + 7 + 1 - 8 * i = 8 by omega]
  rw [h, sext_mod]; rfl

/-! ## What the other forms compute in a lane -/

def fshlRes (o : OpO) (w : Warp) (l : Nat) : Res :=
  let wd := tyWidth o.ty
  let a := w.read wd o.a l
  let b := w.read wd o.b l
  let c := w.read 32 o.c l
  ofVals [a, b, c] ((((a.n <<< wd + b.n) <<< (c.n % wd)) >>> wd) % 2 ^ wd, 0)
theorem execFshl_eq_alu (o : OpO) (s : State) : execFshl o s =
    alu (.fshl o) o.pr o.d (nT o) [(o.a, nT o), (o.b, nT o), (o.c, 1)] (extT o.ty) (fshlRes o) s := rfl

def idot4Res (o : OpO) (w : Warp) (l : Nat) : Res :=
  let a := w.read 32 o.a l
  let b := w.read 32 o.b l
  let c := w.read 32 o.c l
  let byte (sg : Bool) (x i : Nat) : Int := if sg then sext 8 (bits x (8 * i + 7) (8 * i)) else (bits x (8 * i + 7) (8 * i) : Int)
  let term (i : Nat) : Int := byte (bit o.sub 0) a.n i * byte (bit o.sub 1) b.n i
  let x := valT o.ty c.n + (term 0 + term 1 + term 2 + term 3)
  ofVals [a, b, c] (if o.sat then satT o.ty x else wrapT o.ty x, 0)
theorem execIdot4_eq_alu (o : OpO) (s : State) : execIdot4 o s =
    alu (.idot4 o) o.pr o.d 1 [(o.a, 1), (o.b, 1), (o.c, 1)] (extT o.ty) (idot4Res o) s := rfl

def bfxRes (o : OpO) (w : Warp) (l : Nat) : Res :=
  let wd := tyWidth o.ty
  let a := w.read wd o.a l
  let b := w.read 32 o.b l
  let c := w.read 32 o.c l
  let p := min b.n wd
  let n := min c.n (wd - p)
  ofVals [a, b, c] (if n = 0 then 0 else if tySigned o.ty then wrapN wd (sext n ((a.n >>> p) % 2 ^ n)) else
      (a.n >>> p) % 2 ^ n, 0)
theorem execBfx_eq_alu (o : OpO) (s : State) : execBfx o s =
    alu (.bfx o) o.pr o.d (nT o) [(o.a, nT o), (o.b, 1), (o.c, 1)] (extT o.ty) (bfxRes o) s := rfl

def bfiRes (o : OpO) (w : Warp) (l : Nat) : Res :=
  let wd := tyWidth o.ty
  let d := w.read wd o.d l
  let a := w.read wd o.a l
  let b := w.read 32 o.b l
  let c := w.read 32 o.c l
  let p := min b.n wd
  let n := min c.n (wd - p)
  ofVals [d, a, b, c] ((d.n &&& ((2 ^ n - 1) <<< p ^^^ (2 ^ wd - 1))) ||| (a.n % 2 ^ n) <<< p, 0)
theorem execBfi_eq_alu (o : OpO) (s : State) : execBfi o s =
    alu (.bfi o) o.pr o.d (nT o) [(o.d, nT o), (o.a, nT o), (o.b, 1), (o.c, 1)] (extT o.ty) (bfiRes o) s := rfl

def prmtRes (o : OpO) (w : Warp) (l : Nat) : Res :=
  let a := w.read 32 o.a l
  let b := w.read 32 o.b l
  let c := w.read 32 o.c l
  ofVals [a, b, c] (prmtN a.n b.n c.n, 0)
theorem execPrmt_eq_alu (o : OpO) (s : State) : execPrmt o s =
    alu (.prmt o) o.pr o.d 1 [(o.a, 1), (o.b, 1), (o.c, 1)] id (prmtRes o) s := rfl

def immRes (o : OpI) (signed withA : Bool) (f : Nat → Nat → Nat) (w : Warp) (l : Nat) : Res :=
  let b := if o.d.isS then 64 else 32
  let a := w.read b o.a l
  ofVals (if withA then [a] else []) (f a.n (if signed then wrapN b o.imm.toInt else o.imm.toNat) % 2 ^ b, 0)
theorem immOp_eq_alu (i : Instr) (o : OpI) (signed withA : Bool) (f : Nat → Nat → Nat) (s : State) : immOp i o signed withA f s =
    alu i o.pr o.d 1 (if withA then [(o.a, 1)] else []) id (immRes o signed withA f) s := rfl

theorem execMovl_eq_alu (o : OpO) (lit : Word) (s : State) : execMovl o lit s =
    alu (.movl o lit) o.pr o.d (nT o) [] (extT o.ty) (fun _ _ => { n := lit.toNat % 2 ^ tyWidth o.ty }) s := rfl

def icmpRes (o : OpO) (w : Warp) (l : Nat) : Res :=
  let a := w.read (tyWidth o.ty) o.a l
  let b := w.read (tyWidth o.ty) o.b l
  ofVals [a, b] (Bool.n (condI o.sub (valT o.ty a.n) (valT o.ty b.n)), 0)
theorem execIcmp_eq_alu (o : OpO) (s : State) : execIcmp o s =
    alu (.icmp o) o.pr o.d 1 [(o.a, nT o), (o.b, nT o)] id (icmpRes o) s := rfl

theorem condI_eq (c : Nat) (a b : Int) : condI c a b = match c with
    | 0 => decide (a = b) | 1 => decide (a ≠ b) | 2 => decide (a < b) | 3 => decide (a ≤ b) | 4 => decide (a > b)
    | _ => decide (a ≥ b) := by
  unfold condI; rfl

def psetRes (o : OpO) (w : Warp) (l : Nat) : Res :=
  let a := w.read 32 o.a l
  let b := w.read 32 o.b l
  let x := match o.sub with
    | 0 => a.n * b.n | 1 => Nat.max a.n b.n | 2 => (a.n + b.n) % 2 | 3 => a.n * (1 - b.n) | 4 => 1 - a.n
    | 5 => 1 | _ => 0
  ofVals (if o.sub ≤ 3 then [a, b] else if o.sub = 4 then [a] else []) (x, 0)
theorem execPset_eq_alu (o : OpO) (s : State) : execPset o s = alu (.pset o) o.pr o.d 1 [] id (psetRes o) s := rfl

def leaRes (o : OpO) (w : Warp) (l : Nat) : Res :=
  let a := w.read 64 o.a l
  let b := w.read (tyWidth o.ty) o.b l
  ofVals [a, b] (wrapN 64 ((a.n : Int) + valT o.ty b.n * ((2 ^ o.c.num : Nat) : Int)), 0)
theorem execLea_eq_alu (o : OpO) (s : State) : execLea o s =
    alu (.lea o) o.pr o.d 2 [(o.a, 2), (o.b, nT o)] id (leaRes o) s := rfl

/-! ## The rows -/

/-- The bitwise and shift instructions. -/
theorem bitRow_computes {i : Instr} {s : State} {x : Row} (hx : bitRow i = some x) (h : Runs i s)
    (hf : FreeFor i s x.pr x.d x.n) : Computes i s x.pr x.n x.d x.ext (x.res s.w) := by
  unfold bitRow at hx
  split at hx <;> cases hx
  case h_1 =>
    exact bitOp_computes h hf (exec_andB ..) fun _ _ _ _ _ _ _ => by rw [Nat.testBit_and, bit_eq_testBit, bit_eq_testBit]
  case h_2 =>
    exact bitOp_computes h hf (exec_orB ..) fun _ _ _ _ _ _ _ => by rw [Nat.testBit_or, bit_eq_testBit, bit_eq_testBit]
  case h_3 =>
    exact bitOp_computes h hf (exec_xorB ..) fun _ _ _ _ _ _ _ => by rw [Nat.testBit_xor, bit_eq_testBit, bit_eq_testBit]
  case h_4 =>
    refine bitOp_computes h hf (exec_andnB ..) fun _ _ _ _ _ _ hj => ?_
    rw [Nat.testBit_and, Nat.testBit_xor, testBit_ones, decide_eq_true hj, Bool.xor_true, bit_eq_testBit, bit_eq_testBit]
  case h_5 o =>
    refine bitOp1_computes h hf (nT_eq_one_or_two o) (exec_notB ..) fun w l => ?_
    rw [notB_eq _ _ (read_tyWidth_lt ..), row_res_eq_ofVals]; rfl
  case h_6 => exact shiftOp_computes h hf (exec_shl ..) fun a b _ => shl_eq _ a b
  case h_7 => exact shiftOp_computes h hf (exec_shr ..) fun a b ha => shr_eq _ a b ha
  case h_8 => exact shiftOp_computes h hf (exec_sar ..) fun a b _ => sar_eq _ a b (tyWidth_pos _)
  case h_9 => exact shiftOp_computes h hf (exec_rotl ..) fun a b ha => rotl_eq _ a b (tyWidth_pos _) ha
  case h_10 o =>
    refine bitOp1_computes h hf (nT_eq_one_or_two o) (exec_brev ..) fun w l => ?_
    rw [brev_eq, row_res_eq_ofVals]; rfl
  case h_11 o =>
    refine row_computes h hf (nT_eq_one_or_two o) ((exec_fshl ..).trans (execFshl_eq_alu ..)) fun w l => ?_
    rw [fshlRes, fshl_eq, row_res_eq_ofVals]; rfl
  case h_12 =>
    refine bitOp1_computes h hf (.inl rfl) (exec_popc ..) fun w l => ?_
    rw [row_res_eq_ofVals]; rfl
  case h_13 =>
    refine bitOp1_computes h hf (.inl rfl) (exec_clz ..) fun w l => ?_
    rw [clz_eq, row_res_eq_ofVals]; rfl
  case h_14 =>
    refine bitOp1_computes h hf (.inl rfl) (exec_ctz ..) fun w l => ?_
    rw [ctz_eq, row_res_eq_ofVals]; rfl

/-- IDOT4, BFX, BFI and PRMT. -/
theorem fieldRow_computes {i : Instr} {s : State} {x : Row} (hx : fieldRow i = some x) (h : Runs i s)
    (hf : FreeFor i s x.pr x.d x.n) : Computes i s x.pr x.n x.d x.ext (x.res s.w) := by
  unfold fieldRow at hx
  split at hx <;> cases hx
  case h_1 o =>
    refine row_computes h hf (.inl rfl) ((exec_idot4 ..).trans (execIdot4_eq_alu ..)) fun w l => ?_
    rw [row_res_eq_ofVals]
    simp only [idot4Res, ← byteInt_eq, ← Int.add_assoc]
    rfl
  case h_2 o =>
    refine row_computes h hf (nT_eq_one_or_two o) ((exec_bfx ..).trans (execBfx_eq_alu ..)) fun w l => ?_
    rw [bfxRes, bfx_eq _ (Nat.le_trans (Nat.min_le_right _ _) (Nat.sub_le _ _)), row_res_eq_ofVals]
    rfl
  case h_3 o =>
    refine row_computes h hf (nT_eq_one_or_two o) ((exec_bfi ..).trans (execBfi_eq_alu ..)) fun w l => ?_
    rw [bfiRes, bfi_eq (by omega) (read_tyWidth_lt ..), row_res_eq_ofVals]
    rfl
  case h_4 o =>
    refine row_computes h hf (.inl rfl) ((exec_prmt ..).trans (execPrmt_eq_alu ..)) fun w l => ?_
    rw [prmtRes, prmt_eq, row_res_eq_ofVals]
    rfl

/-- The forms with an immediate: `immOp` computes in a lane what their row says. -/
theorem immOp_computes {i : Instr} {s : State} {o : OpI} {signed withA : Bool} {f : Nat → Nat → Nat} {x : Row} (h : Runs i s)
    (hf : FreeFor i s o.pr o.d 1) (he : exec i s = immOp i o signed withA f s) (hr : ∀ w l,
        immRes o signed withA f w l = x.res w l) :
    Computes i s o.pr 1 o.d id (x.res s.w) :=
  row_computes h hf (.inl rfl) (he.trans (immOp_eq_alu ..)) hr

theorem immRow_computes {i : Instr} {s : State} {x : Row} (hx : immRow i = some x) (h : Runs i s)
    (hf : FreeFor i s x.pr x.d x.n) : Computes i s x.pr x.n x.d x.ext (x.res s.w) := by
  unfold immRow at hx
  split at hx <;> cases hx
  case h_1 => exact immOp_computes h hf (exec_iaddI ..) fun w l => by rw [row_res_eq_ofVals]; rfl
  case h_2 => exact immOp_computes h hf (exec_movI ..) fun w l => by rw [row_res_eq_ofVals]; rfl
  case h_3 => exact immOp_computes h hf (exec_andI ..) fun w l => by rw [row_res_eq_ofVals]; rfl
  case h_4 => exact immOp_computes h hf (exec_orI ..) fun w l => by rw [row_res_eq_ofVals]; rfl
  case h_5 => exact immOp_computes h hf (exec_xorI ..) fun w l => by rw [row_res_eq_ofVals]; rfl
  case h_6 => exact immOp_computes h hf (exec_imulI ..) fun w l => by rw [row_res_eq_ofVals]; rfl

/-- A predicate reads 0 or 1. -/
theorem read_p_le (w : Warp) (b : Nat) (k : BitVec 8) (l : Nat) : (w.read b (.p k) l).n = 0 ∨ (w.read b (.p k) l).n = 1 := by
  simp only [Warp.read]
  cases (w.p1 k.toNat l).val
  · exact .inl rfl
  · exact .inr rfl

theorem inCls_of_pset {o : OpO} {s : State} (h : Runs (.pset o) s) :
    inCls (if o.sub ≤ 4 then 4 else 0) o.a = true ∧ inCls (if o.sub ≤ 3 then 4 else 0) o.b = true := by
  have hf : psetOk o = true := fieldsOk_of_runs h
  simp only [psetOk, Bool.and_eq_true] at hf
  obtain ⟨⟨⟨-, ha⟩, hb⟩, -⟩ := hf
  exact ⟨ha, hb⟩

theorem psetA_le {o : OpO} {s : State} (h : Runs (.pset o) s) (hs : o.sub ≤ 4) (w : Warp) (l : Nat) :
    (w.read 32 o.a l).n = 0 ∨ (w.read 32 o.a l).n = 1 := by
  obtain ⟨ha, -⟩ := inCls_of_pset h
  rw [if_pos hs] at ha
  obtain ⟨k, hk⟩ := exists_p_of_inCls ha
  rw [hk]; exact read_p_le w 32 k l

theorem psetB_le {o : OpO} {s : State} (h : Runs (.pset o) s) (hs : o.sub ≤ 3) (w : Warp) (l : Nat) :
    (w.read 32 o.b l).n = 0 ∨ (w.read 32 o.b l).n = 1 := by
  obtain ⟨-, hb⟩ := inCls_of_pset h
  rw [if_pos hs] at hb
  obtain ⟨k, hk⟩ := exists_p_of_inCls hb
  rw [hk]; exact read_p_le w 32 k l

/-- The eight combinations of PSET as arithmetic on predicates that read 0 or 1. -/
theorem psetVal_eq (m a b : Nat) : (m ≤ 4 → a = 0 ∨ a = 1) → (m ≤ 3 → b = 0 ∨ b = 1) →
    (match m with
      | 0 => a * b | 1 => Nat.max a b | 2 => (a + b) % 2 | 3 => a * (1 - b) | 4 => 1 - a | 5 => 1 | _ => 0) =
    (match m with
      | 0 => Bool.n (a == 1 && b == 1) | 1 => Bool.n (a == 1 || b == 1) | 2 => Bool.n (a != b)
      | 3 => Bool.n (a == 1 && b == 0) | 4 => Bool.n (a == 0) | 5 => 1 | _ => 0) := by
  intro hA hB
  rcases m with _ | _ | _ | _ | _ | _ | m
  case succ.succ.succ.succ.zero => obtain rfl | rfl := hA (by omega) <;> rfl
  case succ.succ.succ.succ.succ.zero => rfl
  case succ.succ.succ.succ.succ.succ => rfl
  all_goals obtain rfl | rfl := hA (by omega) <;> obtain rfl | rfl := hB (by omega) <;> rfl

/-- PSET (R84) on predicates that read 0 or 1. -/
theorem pset_computes {o : OpO} {s : State} {x : Row} (hx : moveRow (.pset o) = some x) (h : Runs (.pset o) s)
    (hf : FreeFor (.pset o) s x.pr x.d x.n) : Computes (.pset o) s x.pr x.n x.d x.ext (x.res s.w) := by
  cases hx
  refine row_computes h hf (.inl rfl) ((exec_pset ..).trans (execPset_eq_alu ..)) fun w l => ?_
  have hv := psetVal_eq o.sub _ _ (psetA_le h · w l) (psetB_le h · w l)
  rw [row_res_eq_ofVals]
  simp only [psetRes]
  rcases hs : o.sub with _ | _ | _ | _ | _ | m <;> rw [hs] at hv
  case succ.succ.succ.succ.succ => rcases m with _ | m <;> rfl
  all_goals exact congrArg (fun n => ofVals _ (n, 0)) hv

/-- MOVL, MOV, PSET, ICMP and LEA. -/
theorem moveRow_computes {i : Instr} {s : State} {x : Row} (hx : moveRow i = some x) (h : Runs i s)
    (hf : FreeFor i s x.pr x.d x.n) : Computes i s x.pr x.n x.d x.ext (x.res s.w) := by
  cases i
  case pset o => exact pset_computes hx h hf
  case movl o lit =>
    cases hx
    exact row_computes h hf (nT_eq_one_or_two o) ((exec_movl ..).trans (execMovl_eq_alu ..)) fun w l => rfl
  case mov o =>
    cases hx
    exact bitOp1_computes h hf (nT_eq_one_or_two o) (exec_mov ..) fun w l => by rw [row_res_eq_ofVals]; rfl
  case icmp o =>
    cases hx
    refine row_computes h hf (.inl rfl) ((exec_icmp ..).trans (execIcmp_eq_alu ..)) fun w l => ?_
    rw [row_res_eq_ofVals, icmpRes, condI_eq]
    rfl
  case lea o =>
    cases hx
    refine row_computes h hf (.inr rfl) ((exec_lea ..).trans (execLea_eq_alu ..)) fun w l => ?_
    rw [row_res_eq_ofVals, leaRes, Int.natCast_pow]
    rfl
  all_goals cases hx

/-- Settles O12: a case for each row of the four tables, by the form of its meaning. -/
theorem integerRows : Obligations.IntegerRows :=
  ⟨fun _ _ _ hx h hf => bitRow_computes hx h hf, fun _ _ _ hx h hf => fieldRow_computes hx h hf,
    fun _ _ _ hx h hf => immRow_computes hx h hf, fun _ _ _ hx h hf => moveRow_computes hx h hf⟩

end Sys2Proof.Proofs.Integers
end

section
/-! What a step runs (R11, R35, R293): the instruction at the pc is fetched, decoded and handed on, and the fetch changes
nothing that
the decoder reads. -/

namespace Sys2Proof.Proofs.Steps

open Sys2Proof Sys2Proof.Machine Sys2Proof.Proofs.Arms Sys2Proof.Proofs.OpcodeMap

/-! ## What a read of a code word may change -/

/-- Nothing but the memory side differs: what DDR, the links and L2 hold, and what has been asked of other devices. -/
def MemSide (s t : State) : Prop :=
  t = { s with
    mem := t.mem, memMark := t.memMark, memKey := t.memKey, l2 := t.l2, links := t.links, outbox := t.outbox, nextId := t.nextId
    peerReqs := t.peerReqs, peerFail := t.peerFail, homeWaits := t.homeWaits, draws := t.draws }

theorem MemSide.refl (s : State) : MemSide s s := rfl

theorem MemSide.trans {s t u : State} (h : MemSide s t) (g : MemSide t u) : MemSide s u := by
  unfold MemSide at g
  rw [h] at g
  exact g

theorem MemSide.foldl {β : Type} {f : State → β → State} (hf : ∀ t x, MemSide t (f t x)) (xs : List β) (s : State) :
    MemSide s (xs.foldl f s) := by
  induction xs generalizing s with
  | nil => exact .refl s
  | cons x xs ih => exact (hf s x).trans (ih _)

theorem MemSide.w {s t : State} (h : MemSide s t) : t.w = s.w := by rw [h]; rfl

theorem MemSide.env {s t : State} (h : MemSide s t) : t.env = s.env := by rw [h]; rfl

theorem putLinkByte_memSide (s : State) (a : Nat) (b : Byte) : MemSide s (s.putLinkByte a b) := by
  unfold State.putLinkByte
  repeat' split
  all_goals rfl

theorem writeBackL2_memSide (s : State) (k : Nat) : MemSide s (s.writeBackL2 k) := by
  simp only [State.writeBackL2]
  split
  · rfl
  · split
    · refine .trans (t := State.mk ..) ?_ (putLinkByte_memSide ..)
      exact .trans (.foldl (fun t q => by split <;> rfl) _ s) rfl
    · rfl
    · rfl

theorem dropL2_memSide (s : State) (k : Nat) : MemSide s (s.dropL2 k) := by
  simp only [State.dropL2]
  split
  · exact (writeBackL2_memSide s k).trans rfl
  · split
    · rfl
    · split <;> rfl
    · rfl
  · rfl

theorem doneReady_memSide (s : State) (r : Ready) : MemSide s (s.doneReady r) := by
  unfold State.doneReady
  repeat' split
  · exact dropL2_memSide ..
  · rfl
  · rfl

theorem homeReady_memSide (s : State) (need : Need) (line : Nat) (r : Ready) : MemSide s (s.homeReady need line r).1 := by
  unfold State.homeReady
  split
  · rfl
  · split
    · rfl
    · simp only [State.recallOwner]
      split <;> rfl

theorem prepare_memSide (s : State) (need : Need) (ia : Nat) : MemSide s (s.prepare need ia).1 := by
  simp only [State.prepare]
  split
  · rfl
  · rfl
  · exact homeReady_memSide ..
  · exact homeReady_memSide ..
  · split
    · rfl
    · split
      · rfl
      · simp only [State.askPeer]
        split <;> rfl

/-- What an answer of the fetch leaves. -/
def fetchedState : Fetched → State
  | .word _ s | .wait s | .trap _ s => s

theorem fetchWord_memSide (s : State) (ctx : Nat) (va : Word) : MemSide s (fetchedState (s.fetchWord ctx va)) := by
  unfold State.fetchWord
  split
  · rfl
  · next ia _ =>
    have hp := prepare_memSide s (.by .fetch ctx) ia
    split
    · next e => rw [e] at hp; exact hp
    · next e => rw [e] at hp; exact hp.trans rfl
    · next e =>
      rw [e] at hp
      simp only []
      split
      · exact hp.trans (doneReady_memSide ..)
      · exact hp.trans (doneReady_memSide ..)

theorem fetchWord_word {s t : State} {ctx : Nat} {va x : Word} (h : s.fetchWord ctx va = .word x t) : MemSide s t := by
  have hm := fetchWord_memSide s ctx va
  rwa [h] at hm

/-! ## How many words an instruction has -/

/-- What a parser selects, if anything, is an instruction of one word. -/
def OneWord (x : Option Instr) : Prop := ∀ i, x = some i → i.words = 1

@[simp] theorem oneWord_none : OneWord none := fun i h => absurd h.symm (Option.some_ne_none i)
@[simp] theorem oneWord_some (i : Instr) : OneWord (some i) ↔ i.words = 1 := ⟨fun h => h i rfl,
    fun h _ e => Option.some.inj e ▸ h⟩
theorem oneWord_map {α : Type} (f : α → Instr) (h : ∀ a, (f a).words = 1) (x : Option α) : OneWord (x.map f) := by
  cases x <;> simp [h]

@[simp] theorem parse02_oneWord (w : Word) (f : Nat) : OneWord (parse02 w f) := by
  unfold parse02; split <;> simp [Instr.words]
@[simp] theorem parse03_oneWord (w : Word) (f : Nat) : OneWord (parse03 w f) := by
  unfold parse03; split <;> simp [Instr.words]
@[simp] theorem parse04_oneWord (w : Word) (f : Nat) : OneWord (parse04 w f) := by
  unfold parse04; split <;> simp [Instr.words]
@[simp] theorem parse32_oneWord (w : Word) (f : Nat) : OneWord (parse32 w f) := by
  unfold parse32; split <;> simp [Instr.words]
@[simp] theorem parse34_oneWord (w : Word) (f : Nat) : OneWord (parse34 w f) := by
  unfold parse34; split <;> simp [Instr.words]
@[simp] theorem parse36_oneWord (w : Word) (f : Nat) : OneWord (parse36 w f) := by
  unfold parse36; split <;> simp [Instr.words]
@[simp] theorem parse67_oneWord (w : Word) (f : Nat) : OneWord (parse67 w f) := by
  unfold parse67; split <;> simp [Instr.words]
@[simp] theorem parse77_oneWord (w : Word) (f : Nat) : OneWord (parse77 w f) := by
  unfold parse77; split <;> simp [Instr.words]
@[simp] theorem parse80_oneWord (w : Word) (f : Nat) : OneWord (parse80 w f) := by
  unfold parse80; split <;> simp [Instr.words]
@[simp] theorem parse81_oneWord (w : Word) (f : Nat) : OneWord (parse81 w f) := by
  unfold parse81; split <;> simp [Instr.words]
@[simp] theorem parse82_oneWord (w : Word) (f : Nat) : OneWord (parse82 w f) := by
  unfold parse82; split <;> simp [Instr.words]
@[simp] theorem parse83_oneWord (w : Word) (f : Nat) : OneWord (parse83 w f) := by
  unfold parse83; split <;> simp [Instr.words]
@[simp] theorem parse84_oneWord (w : Word) (f : Nat) : OneWord (parse84 w f) := by
  unfold parse84; split <;> simp [Instr.words]
@[simp] theorem parse89_oneWord (w : Word) (f : Nat) : OneWord (parse89 w f) := by
  unfold parse89; split <;> simp [Instr.words]
@[simp] theorem parse8C_oneWord (w : Word) (f : Nat) : OneWord (parse8C w f) := by
  unfold parse8C; split <;> simp [Instr.words]
@[simp] theorem parse90_oneWord (w : Word) (f : Nat) : OneWord (parse90 w f) := by
  unfold parse90; split <;> simp [Instr.words]
@[simp] theorem parse91_oneWord (w : Word) (f : Nat) : OneWord (parse91 w f) := by
  unfold parse91; split <;> simp [Instr.words]
@[simp] theorem parse93_oneWord (w : Word) (f : Nat) : OneWord (parse93 w f) := by
  unfold parse93; split <;> simp [Instr.words]
@[simp] theorem parse94_oneWord (w : Word) (f : Nat) : OneWord (parse94 w f) := by
  unfold parse94; split <;> simp [Instr.words]
@[simp] theorem parse9C_oneWord (w : Word) (f : Nat) : OneWord (parse9C w f) := by
  unfold parse9C; split <;> simp [Instr.words]
@[simp] theorem parseFlt_oneWord (dbl : Bool) (w : Word) (f : Nat) : OneWord (parseFlt dbl w f) := by
  unfold parseFlt; split <;> simp [Instr.words]
@[simp] theorem parseFltDiv_oneWord (dbl : Bool) (w : Word) (f : Nat) : OneWord (parseFltDiv dbl w f) := by
  unfold parseFltDiv; split <;> simp [Instr.words]

/-- Each function of an opcode other than MOVL's is an instruction of one word. -/
theorem parseOp_oneWord {op f : Nat} {w lit : Word} (h : op ≠ 0x0A) : OneWord (parseOp op f w lit) := by
  unfold parseOp
  split
  case h_10 => exact absurd rfl h
  any_goals exact oneWord_map _ (fun _ => rfl) _
  all_goals (repeat' split) <;> simp [Instr.words]

/-! ## The instruction at the pc -/

/-- The checks hand on the instruction that they are given. -/
theorem checkInstr_eq {env : DecEnv} {isL fNonzero : Bool} {i j : Instr} (h : checkInstr env isL fNonzero j = .ok i) : j = i := by
  unfold checkInstr at h
  split at h; · cases h
  split at h; · cases h
  split at h; · cases h
  split at h; · cases h
  split at h; · cases h
  split at h
  · split at h
    · exact Decoded.ok.inj h
    · cases h
  · exact Decoded.ok.inj h

theorem parse_of_decodeWord {env : DecEnv} {x lit : Word} {i : Instr} (h : decodeWord env x lit = .ok i) :
    parse x lit = some i := by
  simp only [decodeWord] at h
  split at h; · cases h
  split at h; · cases h
  split at h
  · cases h
  · next j hj => rw [hj, checkInstr_eq h]

/-- A word of another opcode than MOVL's decodes to an instruction of one word. -/
theorem words_of_decodeWord {env : DecEnv} {x lit : Word} {i : Instr} (hx : x.extractLsb' 56 8 ≠ 0x0A)
    (h : decodeWord env x lit = .ok i) : i.words = 1 :=
  parseOp_oneWord (fun e => hx (BitVec.eq_of_toNat_eq e)) i (parse_of_decodeWord h)

section
variable {env : DecEnv} {x lit : Word}

/-- MOVL's checks do not read its literal. -/
theorem checkInstr_movl {isL fNonzero : Bool} {o : OpO} (h : checkInstr env isL fNonzero (.movl o lit) = .ok
    (.movl o lit)) (l : Word) :
    checkInstr env isL fNonzero (.movl o l) = .ok (.movl o l) := by
  unfold checkInstr at h ⊢
  split at h; · cases h
  split at h; · cases h
  split at h; · cases h
  split at h; · cases h
  split at h; · cases h
  next h1 h2 h3 h4 h5 =>
    exact (if_neg h1).trans ((if_neg h2).trans ((if_neg h3).trans ((if_neg h4).trans (if_neg h5))))

theorem decodeWord_movl (hx : x.extractLsb' 56 8 = 0x0A) :
    decodeWord env x lit = checkInstr env true (x.extractLsb' 14 6 != 0) (.movl (opO x) lit) := by
  simp only [decodeWord, parse, hx]
  rfl

end

/-- The word at the pc, and where it is MOVL's the word after it, fetched and decoded, is the instruction that is handed on. -/
theorem runWord_eq {s t : State} {x lit : Word} {i : Instr} (h : AtWord s x lit t) (hd : decodeWord t.env x lit = .ok i)
    (go : Issuer) : s.runWord go = go t i := by
  obtain ⟨u, hu, hl⟩ := h.words
  simp only [State.runWord, hu]
  by_cases hx : x.extractLsb' 56 8 = 0x0A
  · rw [if_pos hx] at hl
    have henv := (fetchWord_word hl).env
    obtain rfl : Instr.movl (opO x) lit = i := checkInstr_eq (decodeWord_movl hx ▸ hd)
    have h0 : decodeWord u.env x 0 = .ok (.movl (opO x) 0) := by
      rw [decodeWord_movl hx] at hd ⊢
      exact checkInstr_movl (henv ▸ hd) 0
    simp only [State.runDecoded, h0, hl, hd]
    rfl
  · rw [if_neg hx] at hl
    obtain ⟨rfl, rfl⟩ := hl
    simp only [State.runDecoded, hd, words_of_decodeWord hx hd]
    rfl

/-- A warp that nothing holds reaches its instruction. -/
theorem tryIssue_eq {s t : State} {x lit : Word} {i : Instr} (h : AtWord s x lit t) (hd : decodeWord t.env x lit = .ok i)
    (go : Issuer) : s.tryIssue go = go t i := by
  have hw := h.wait
  simp only [State.tryIssue, h.run, h.core, h.reread, hw, State.runHead, h.ue, h.deferred, h.pre, h.inside, runWord_eq h hd]
  rfl

/-- Settles O4: in each case the step is its act, and a warp at an instruction reaches it. -/
theorem stepRunsDecoded : Obligations.StepRunsDecoded := by
  refine ⟨fun s t x lit i ha h hd => ⟨fun ht => ?_, fun ht => ?_⟩, fun s t k rest x lit i ha h hd ht => ?_,
    fun s rest e ha he => ?_, fun s rest flow seq e ha he => ?_⟩ <;> simp only [step, State.nextStep, ha]
  · rw [tryIssue_eq h hd, issueNow, if_pos ht]
  · rw [tryIssue_eq h hd, issueNow, if_neg (Bool.eq_false_iff.mp ht)]
    rfl
  · simp only [State.act]
    rw [tryIssue_eq h hd, issueNow, if_pos ht]
  · simp only [State.act, State.happens, he, if_true]
  · simp only [State.act, State.happens, he, if_true]
    exact apply_ite (andThen State.settled) _ _ _

/-- Settles O7: each field is written out in the definition of the machine after reset. -/
theorem resetMachine : Obligations.ResetMachine :=
  ⟨rfl, rfl, rfl, rfl, rfl, rfl, rfl, rfl, rfl, rfl, rfl, fun _ => ⟨rfl, rfl⟩, fun _ => rfl⟩

end Sys2Proof.Proofs.Steps
end

section
/-! Reaching an effect (R16, R160, R293): what a sound predicate and sound operands exclude, what an instruction without
a participating
lane does, and the hints. -/

namespace Sys2Proof.Proofs.Issue

open Sys2Proof Sys2Proof.Machine Sys2Proof.Proofs.Arms

/-! ## Masks of lanes -/

theorem mem_lanesOf {m : W32} {l : Nat} : l ∈ lanesOf m ↔ l < 32 ∧ m.getLsbD l = true := by
  simp [lanesOf]

@[simp] theorem lanesOf_zero : lanesOf 0#32 = [] := by simp [lanesOf]

theorem getLsbD_maskOf (ls : List Nat) (l : Nat) : (maskOf ls).getLsbD l = (decide (l < 32) && ls.contains l) := by
  induction ls with
  | nil => simp [maskOf]
  | cons j ls ih =>
    have e : ((1 <<< j : Nat) : W32).getLsbD l = (decide (l < 32) && l == j) := by
      rw [BitVec.natCast_eq_ofNat, BitVec.getLsbD_ofNat, Nat.one_shiftLeft, Nat.testBit_two_pow]
      simp [eq_comm, Bool.beq_eq_decide_eq]
    rw [maskOf, BitVec.getLsbD_or, ih, e, List.contains_cons, ← Bool.and_or_distrib_left, Bool.or_comm]

theorem getLsbD_maskWhere (f : Nat → Bool) (l : Nat) : (maskWhere f).getLsbD l = (decide (l < 32) && f l) := by
  rw [maskWhere, getLsbD_maskOf]
  by_cases h : l < 32 <;> simp [h]

theorem maskWhere_eq_zero {f : Nat → Bool} : maskWhere f = 0 ↔ ∀ l, l < 32 → f l = false := by
  constructor
  · intro h l hl
    have := getLsbD_maskWhere f l
    rw [h] at this
    simpa [hl] using this.symm
  · intro h
    refine BitVec.eq_of_getLsbD_eq fun l hl => ?_
    rw [getLsbD_maskWhere, h l hl]
    simp

@[simp] theorem firstLane_zero {α : Type} (f : Nat → Option α) : firstLane 0#32 f = none := by simp [firstLane]
@[simp] theorem misaligned_zero (adr : Nat → Int) (n : Nat) : misaligned 0#32 adr n = none := firstLane_zero _
@[simp] theorem watchHit_zero (w : Warp) (adr : Nat → Word) (n : Nat) (rd wr : Bool) : w.watchHit 0#32 adr n rd wr = none := by
  unfold Warp.watchHit
  exact if_pos (maskWhere_eq_zero.mpr fun _ _ => by rw [BitVec.getLsbD_zero, Bool.false_and])

/-! ## Poison that is not there (R16, R294) -/

@[simp] theorem anyPoison_zero (w : Warp) (ops : List (Opnd × Nat)) : w.anyPoison ops 0#32 = false := by simp [Warp.anyPoison]

theorem consumes_of_sound {s : State} {ops : List (Opnd × Nat)} {m : W32} (h : s.w.anyPoison ops m = false) (c : BitVec 8) :
    s.consumes c ops m = none := by
  simp [State.consumes, h]

@[simp] theorem consumes_zero (s : State) (c : BitVec 8) (ops : List (Opnd × Nat)) : s.consumes c ops 0#32 = none :=
  consumes_of_sound (anyPoison_zero ..) c

@[simp] theorem readPending_zero (s : State) (src : List (Opnd × Nat)) : s.readPending src 0#32 = s := by
  simp [State.readPending]

/-- A predicate that no active lane has poisoned is not consumed. -/
theorem anyPoison_pred {w : Warp} {pr : Pred} (h : w.psnd pr = 0) : w.anyPoison [(.p (pr.reg.setWidth 8), 1)] w.exm = false := by
  have hl := maskWhere_eq_zero.mp h
  simp only [Warp.anyPoison, List.any_cons, List.any_nil, Bool.or_false, Bool.and_eq_false_iff, List.any_eq_false]
  refine .inr fun l hm => ?_
  obtain ⟨h32, hx⟩ := mem_lanesOf.mp hm
  have := hl l h32
  rw [hx, Bool.true_and] at this
  have e : (pr.reg.setWidth 8).toNat = pr.reg.toNat := by
    rw [BitVec.toNat_setWidth]; exact Nat.mod_eq_of_lt (by omega)
  simp only [e]
  simpa [Warp.predAt] using this

theorem consumes_pred {s : State} {pr : Pred} (h : s.w.psnd pr = 0) (c : BitVec 8) :
    s.consumes c [(.p (pr.reg.setWidth 8), 1)] s.w.exm = none := consumes_of_sound (anyPoison_pred h) c

/-- The predicate and the operands of a warp-wide instruction hold no poison. -/
theorem firstPoison_clean {s : State} {pr : Pred} {ops : List (Opnd × Nat)} (h : Clean s pr ops) (c d : BitVec 8) :
    firstPoison s [s.consumes c [(.p (pr.reg.setWidth 8), 1)] s.w.exm, s.consumes d ops (s.w.holds pr)] = (none, s) := by
  rw [consumes_pred h.1, consumes_of_sound h.2]
  rfl

theorem clean_of_idle {s : State} {pr : Pred} (hq : s.w.psnd pr = 0) (h0 : s.w.holds pr = 0) (ops : List (Opnd × Nat)) :
    Clean s pr ops := ⟨hq, by rw [h0]; exact anyPoison_zero ..⟩

/-! ## Going on -/

section
variable {i : Instr} {s u t : State} {w : Warp} {c : Checks} {eff : State → State}

/-- An instruction that reaches its effect has it from the state that the issue leaves. -/
theorem goes_of_issue (h : Runs i s) (hx : exec i s = issue i s c eff) (hr : c.ready = true) (he : c.early = none)
    (hw : (s.w.skipWp = true ∧ s.w.skipPc = s.w.pc) ∨ c.watch = none) (hl : c.late = none)
    (ht : eff (s.issued i) = t.advance i.words) (hk : Kept u t) (hu : t.w = w) : Goes i s u w :=
  ⟨t, by rw [hx, issue_runs h c eff hr he hw hl, ht], hk, hu⟩

/-- One whose only effect is to go on. -/
theorem goes_of_noEffect (h : Runs i s) (hx : exec i s = issue i s {} eff) (ht : eff (s.issued i) =
    (s.issued i).advance i.words) :
    Goes i s s s.w1 :=
  goes_of_issue h hx rfl rfl (.inr rfl) rfl ht (s.issued_kept i) (s.issued_w i)

end

/-- Settles O22: each of the five is an issue whose effect is to go on. -/
theorem hints : Obligations.Hints := by
  intro i s hi h
  unfold isHint at hi
  split at hi
  · exact goes_of_noEffect h (exec_nop ..) rfl
  · exact goes_of_noEffect h (exec_hintNext ..) rfl
  · exact goes_of_noEffect h (exec_hintFar ..) rfl
  · exact goes_of_noEffect h (exec_hintLikely ..) rfl
  · exact goes_of_noEffect h (exec_hintUnlikely ..) rfl
  · cases hi

end Sys2Proof.Proofs.Issue
end

section
/-! An instruction with no participating lane (R115, R160, R271): each shared form of issue then only goes on. -/

namespace Sys2Proof.Proofs.Idle

open Sys2Proof Sys2Proof.Machine Sys2Proof.Proofs.Arms Sys2Proof.Proofs.Issue

/-- An answer that goes on behind a word of length 1, with nothing changed but the bookkeeping of the issue. -/
def GoesOn (s : State) (x : Answer) : Prop := ∃ t, x = .next (t.advance 1) ∧ Kept s t ∧ t.w = s.w1

/-- What an instruction with no participating lane finds. -/
structure NoLane (i : Instr) (s : State) (pr : Pred) : Prop where
  runs : Runs i s
  sound : s.w.psnd pr = 0
  none_ : s.w.holds pr = 0#32

theorem NoLane.zero {i : Instr} {s : State} {pr : Pred} (h : NoLane i s pr) : s.w.holds pr = 0 := h.none_

theorem goesOn_issue {i : Instr} {s t : State} (h : Runs i s) (c : Checks) (eff : State → State) (hr : c.ready = true)
    (he : c.early = none) (hw : c.watch = none) (hl : c.late = none) (ht : eff (s.issued i) = t.advance 1) (hk : Kept s t)
    (hu : t.w = s.w1) : GoesOn s (issue i s c eff) :=
  ⟨t, by rw [issue_runs h c eff hr he (.inr hw) hl, ht], hk, hu⟩

section
variable {i : Instr} {s : State} {pr : Pred} (h : NoLane i s pr)
include h

/-- The issue of an instruction that the absence of lanes leaves without a check and without an effect. -/
theorem goesOn_same (c : Checks) (eff : State → State) (hr : c.ready = true) (he : c.early = none) (hw : c.watch = none)
    (hl : c.late = none) (ht : eff (s.issued i) = (s.issued i).advance 1) : GoesOn s (issue i s c eff) :=
  goesOn_issue h.runs c eff hr he hw hl ht (s.issued_kept i) (s.issued_w i)

theorem tryless_noLane (x : Answer) : tryless i pr s x = x := by
  simp [tryless, h.sound, h.none_]

theorem firstPoison_noLane (c d : BitVec 8) (ops : List (Opnd × Nat)) :
    firstPoison s [s.consumes c [(.p (pr.reg.setWidth 8), 1)] s.w.exm, s.consumes d ops (s.w.holds pr)] = (none, s) :=
  firstPoison_clean (clean_of_idle h.sound h.none_ ops) c d

theorem goesOn_warpWide (ops : List (Opnd × Nat)) (cause : BitVec 8) (c : Checks) (eff : State → State) :
    GoesOn s (warpWide i pr ops cause s c eff) :=
  ⟨s.issued i, warpWide_idle h.runs pr ops cause c eff (firstPoison_noLane h ..) h.none_, s.issued_kept i, s.issued_w i⟩

theorem goesOn_tryless_warpWide (ops : List (Opnd × Nat)) (cause : BitVec 8) (c : Checks) (eff : State → State) :
    GoesOn s (tryless i pr s (warpWide i pr ops cause s c eff)) := by
  rw [tryless_noLane h]
  exact goesOn_warpWide h ..

theorem goesOn_engIssueThen (ops : List (Opnd × Nat)) (early late : List (Option TrapInfo)) (tiles : Bool) (plan : State → Plan)
    (after : State → Nat → State) : GoesOn s (engIssueThen i pr ops early late tiles plan after s) := by
  simp only [engIssueThen, tryless_noLane h]
  rw [if_pos (.inr (.inr (.inl h.none_)))]
  exact goesOn_warpWide h ..

theorem goesOn_engIssue (ops : List (Opnd × Nat)) (early late : List (Option TrapInfo)) (tiles : Bool) (plan : State → Plan) :
    GoesOn s (engIssue i pr ops early late tiles plan s) := goesOn_engIssueThen h ..

theorem goesOn_branchOp (srcs : List (Opnd × Nat)) (tgt : Warp → Nat → Word) (call : Bool) :
    GoesOn s (branchOp i pr srcs tgt call s) := by
  have ht : (s.w.branch pr (tgt s.w)).take = 0 := by
    simp only [Warp.branch, h.none_]
    exact maskWhere_eq_zero.mpr fun l _ => by simp
  simp only [branchOp, firstPoison_noLane h, ht, if_true]
  exact goesOn_same h {} _ rfl rfl rfl rfl rfl

theorem rmwPoison_noLane (f : RmwForm) : s.rmwPoison pr f = (none, s) := by
  simp only [State.rmwPoison, h.none_, consumes_pred h.sound, consumes_zero, ite_self]
  rfl

omit h in
/-- A read-modify-write writes its destination in no lane. -/
theorem startRmw_noLane (f : RmwForm) (accs : List Acc) :
    ∃ t, (s.issued i).startRmw f 0#32 accs = t.advance 1 ∧ Kept s t ∧ t.w = s.w1 := by
  cases hd : f.d with
  | none => exact ⟨s.issued i, by simp [State.startRmw, hd], s.issued_kept i, s.issued_w i⟩
  | some d =>
    exact ⟨(s.issued i).setW (s.issued i).w, by simp [State.startRmw, hd], (s.issued_kept i).setW _,
      (State.w_setW ..).trans (s.issued_w i)⟩

theorem goesOn_rmwIssue (f : RmwForm) : GoesOn s (rmwIssue i pr f s) := by
  simp only [rmwIssue, tryless_noLane h, rmwPoison_noLane h, h.none_]
  obtain ⟨t, ht, hk, hw⟩ := startRmw_noLane (i := i) (s := s) f (s.rmwAccs f (if f.once then (if (0#32 :
      W32) = 0 then [] else [0]) else lanesOf 0#32))
  refine goesOn_issue h.runs _ _ rfl ?_ ?_ ?_ ht hk hw <;> simp

theorem startAccess_noLane (o : OpM) (ho : o.pr = pr) (wd : Width) (f : Form) (mem : Bool) (accs : List Acc) :
    ∃ t, (s.issued i).startAccess o wd f mem accs 0#32 = t.advance 1 ∧ Kept s t ∧ t.w = s.w1 := by
  have hz : (s.issued i).w.holds o.pr = 0#32 := by rw [s.issued_w i, ho]; exact h.none_
  cases hl : f.isLoad with
  | true =>
    exact ⟨(s.issued i).setW (s.issued i).w, by simp [State.startAccess, hz, hl, Warp.pendDest], (s.issued_kept i).setW _,
      (State.w_setW ..).trans (s.issued_w i)⟩
  | false => exact ⟨s.issued i, by simp [State.startAccess, hz, hl], s.issued_kept i, s.issued_w i⟩

theorem storePoison_noLane (o : OpM) (ho : o.pr = pr) (wd : Width) (n : Nat) : s.storePoison o wd n = (none, s) := by
  subst ho
  simp only [State.storePoison, h.none_, consumes_pred h.sound, consumes_zero]
  rfl

/-- Nor does a load, or a store, find a lane whose predicate is poisoned. -/
theorem readers_noLane (o : OpM) (ho : o.pr = pr) (f : Form) : (if f.isLoad then s.w.psnd o.pr else 0) = 0#32 := by
  rw [ho, h.sound]
  split <;> rfl

omit h in
theorem live_noLane (f : Nat → Bool) : (maskWhere fun l => (0#32 : W32).getLsbD l && f l) = 0#32 :=
  maskWhere_eq_zero.mpr fun _ _ => by rw [BitVec.getLsbD_zero, Bool.false_and]

theorem goesOn_memAccess (o : OpM) (ho : o.pr = pr) (wd : Width) (f : Form) : GoesOn s (memAccess i o wd f s) := by
  have hh : s.w.holds o.pr = 0#32 := ho ▸ h.none_
  have hq := readers_noLane h o ho f
  simp only [memAccess, storePoison_noLane h o ho, ite_self, hh, hq, live_noLane, BitVec.or_self]
  obtain ⟨t, ht, hk, hw⟩ := startAccess_noLane h o ho wd f true _
  refine goesOn_issue h.runs _ _ rfl ?_ ?_ ?_ (by rw [readPending_zero]; exact ht) hk hw <;> simp

theorem goesOn_spadAccess (o : OpM) (ho : o.pr = pr) (wd : Width) (f : Form) (clus : Bool) :
    GoesOn s (spadAccess i o wd f clus s) := by
  have hh : s.w.holds o.pr = 0#32 := ho ▸ h.none_
  have hq := readers_noLane h o ho f
  simp only [spadAccess, storePoison_noLane h o ho, ite_self, hh, hq, live_noLane, BitVec.or_self]
  obtain ⟨t, ht, hk, hw⟩ := startAccess_noLane h o ho wd f false _
  refine goesOn_issue h.runs _ _ rfl ?_ ?_ ?_ (by rw [readPending_zero]; exact ht) hk hw <;> simp

theorem goesOn_prefetch (o : OpM) (ho : o.pr = pr) (l1 : Bool) : GoesOn s (prefetch i o l1 s) := by
  have hz : (s.issued i).w.holds o.pr = 0#32 := by rw [s.issued_w i, ho]; exact h.none_
  refine goesOn_same h {} _ rfl rfl rfl rfl ?_
  simp only [hz, lanesOf_zero, List.filterMap_nil, List.append_nil]

theorem goesOn_cctl (o : OpM) (ho : o.pr = pr) (inv wb : Bool) : GoesOn s (cctl i o inv wb s) := by
  subst ho
  simp only [cctl, tryless_noLane h, h.none_]
  exact goesOn_same h _ _ rfl rfl rfl rfl rfl

end

/-! ## The instructions -/

/-- The type of a read-modify-write stands in bits 5 and 4: 64 bits wide from 2 on, signed where it is odd. -/
theorem memRmw_eq_ints (o : OpO) (op : RmwOp) (d : Option Opnd) : memRmw o op d = rmwForm.ints o op d := by
  have hm : o.m.toNat < 64 := o.m.isLt
  have hw : decide (2 ≤ tyOf o.m) = bit o.m.toNat 5 := by
    rw [Bool.eq_iff_iff]
    simp only [tyOf, bits, bit, Nat.shiftRight_eq_div_pow, decide_eq_true_eq, beq_iff_eq]
    omega
  have hs : tySigned (tyOf o.m) = bit o.m.toNat 4 := by
    rw [Bool.eq_iff_iff]
    simp only [tySigned, tyOf, bits, bit, Nat.shiftRight_eq_div_pow, decide_eq_true_eq, beq_iff_eq]
    omega
  rw [memRmw, rmwForm.ints, hw, hs]

theorem exec_of_rmwForm {i : Instr} {pr : Pred} {f : RmwForm} (h : rmwForm i = some (pr, f)) (s : State) :
    exec i s = rmwIssue i pr f s := by
  unfold rmwForm at h
  split at h <;> cases h
  · exact (exec_atomAdd ..).trans (by rw [execAtomAdd, memRmw_eq_ints])
  · exact (exec_atomMin ..).trans (by rw [execAtomMin, memRmw_eq_ints])
  · exact (exec_atomMax ..).trans (by rw [execAtomMax, memRmw_eq_ints])
  · exact (exec_atomAnd ..).trans (by rw [execAtomAnd, memRmw_eq_ints])
  · exact (exec_atomOr ..).trans (by rw [execAtomOr, memRmw_eq_ints])
  · exact (exec_atomXor ..).trans (by rw [execAtomXor, memRmw_eq_ints])
  · exact (exec_atomExch ..).trans (by rw [execAtomExch, memRmw_eq_ints])
  · exact (exec_atomInc ..).trans (by rw [execAtomInc, memRmw_eq_ints])
  · exact (exec_atomDec ..).trans (by rw [execAtomDec, memRmw_eq_ints])
  · exact exec_atomfAdd ..
  · exact exec_atomfMin ..
  · exact exec_atomfMax ..
  · exact (exec_cas ..).trans (by rw [execCas, memRmw_eq_ints])
  · exact (exec_atomsAdd ..).trans (by rw [execAtomsAdd, spadRmw, memRmw_eq_ints])
  · exact (exec_atomsMin ..).trans (by rw [execAtomsMin, spadRmw, memRmw_eq_ints])
  · exact (exec_atomsMax ..).trans (by rw [execAtomsMax, spadRmw, memRmw_eq_ints])
  · exact (exec_atomsAnd ..).trans (by rw [execAtomsAnd, spadRmw, memRmw_eq_ints])
  · exact (exec_atomsOr ..).trans (by rw [execAtomsOr, spadRmw, memRmw_eq_ints])
  · exact (exec_atomsXor ..).trans (by rw [execAtomsXor, spadRmw, memRmw_eq_ints])
  · exact (exec_atomsExch ..).trans (by rw [execAtomsExch, spadRmw, memRmw_eq_ints])
  · exact (exec_atomsInc ..).trans (by rw [execAtomsInc, spadRmw, memRmw_eq_ints])
  · exact (exec_atomsDec ..).trans (by rw [execAtomsDec, spadRmw, memRmw_eq_ints])
  · exact (exec_redAdd ..).trans (by rw [execRedAdd, memRmw_eq_ints])
  · exact (exec_redMin ..).trans (by rw [execRedMin, memRmw_eq_ints])
  · exact (exec_redMax ..).trans (by rw [execRedMax, memRmw_eq_ints])
  · exact (exec_redAnd ..).trans (by rw [execRedAnd, memRmw_eq_ints])
  · exact (exec_redOr ..).trans (by rw [execRedOr, memRmw_eq_ints])
  · exact (exec_redXor ..).trans (by rw [execRedXor, memRmw_eq_ints])
  · exact exec_signal ..
  · exact exec_xscale ..
  · exact exec_xsum ..

section
variable {s : State} {o : OpO}

theorem goesOn_ret (h : NoLane (.ret o) s o.pr) : GoesOn s (execRet o s) := by
  simp only [execRet, consumes_pred h.sound]
  rw [if_pos h.zero]
  exact goesOn_same h _ _ rfl rfl rfl rfl rfl

theorem goesOn_fence (h : NoLane (.fence o) s o.pr) : GoesOn s (execFence o s) := by
  simp only [execFence, tryless_noLane h, consumes_pred h.sound]
  exact goesOn_same h _ _ rfl rfl rfl rfl (if_pos h.zero)

theorem goesOn_tryOpen (h : NoLane (.tryOpen o) s o.pr) : GoesOn s (execTryOpen o s) := by
  simp only [execTryOpen, consumes_pred h.sound]
  exact goesOn_same h _ _ (by simp [h.none_]) rfl rfl rfl (if_pos h.zero)

theorem goesOn_commit (h : NoLane (.commit o) s o.pr) : GoesOn s (execCommit o s) := by
  simp only [execCommit, consumes_pred h.sound]
  rw [if_pos h.zero]
  exact goesOn_same h _ _ rfl rfl rfl rfl rfl

theorem goesOn_abort (h : NoLane (.abort o) s o.pr) : GoesOn s (execAbort o s) := by
  simp only [execAbort, consumes_pred h.sound]
  refine goesOn_same h _ _ rfl rfl rfl rfl (if_pos (.inl ?_))
  rw [State.issued_w]
  exact h.none_

theorem goesOn_bar (h : NoLane (.bar o) s o.pr) : GoesOn s (execBar o s) := by
  simp only [execBar, tryless_noLane h]
  split
  · exact goesOn_warpWide h ..
  · rw [if_pos h.zero]
    exact goesOn_warpWide h ..

theorem goesOn_bara (h : NoLane (.bara o) s o.pr) : GoesOn s (execBara o s) := by
  simp only [execBara, tryless_noLane h]
  split
  · exact goesOn_warpWide h ..
  · rw [if_pos h.zero]
    exact goesOn_warpWide h ..

theorem goesOn_taskget (h : NoLane (.taskget o) s o.pr) : GoesOn s (execTaskget o s) := by
  simp only [execTaskget, tryless_noLane h]
  repeat' split
  all_goals exact goesOn_warpWide h ..

theorem goesOn_taskdone (h : NoLane (.taskdone o) s o.pr) : GoesOn s (execTaskdone o s) := by
  simp only [execTaskdone, tryless_noLane h]
  rw [if_pos (by simp [h.none_])]
  exact goesOn_warpWide h ..

theorem goesOn_swr {reg : BitVec 6} (h : NoLane (.swr reg o) s o.pr) : GoesOn s (execSwr reg o s) := by
  simp only [execSwr, tryless_noLane h, ite_self]
  exact goesOn_warpWide h ..

theorem goesOn_vend (h : NoLane (.vend o) s o.pr) : GoesOn s (execVend o s) := by
  simp only [execVend]
  rw [if_pos (by simp [h.none_])]
  exact goesOn_warpWide h ..

end

theorem goesOn_of_predicated {i : Instr} {s : State} {pr : Pred} (hp : predicated i = some pr) (h : NoLane i s pr) :
    GoesOn s (exec i s) := by
  unfold predicated at hp
  split at hp <;> cases hp
  · exact exec_bra .. ▸ goesOn_branchOp h _ _ _
  · exact exec_call .. ▸ goesOn_branchOp h _ _ _
  · exact exec_tagany .. ▸ goesOn_tryless_warpWide h _ _ _ _
  · exact exec_tagall .. ▸ goesOn_tryless_warpWide h _ _ _ _
  · exact exec_tagclr .. ▸ goesOn_tryless_warpWide h _ _ _ _
  · exact exec_ld .. ▸ goesOn_memAccess h _ rfl _ _
  · exact exec_st .. ▸ goesOn_memAccess h _ rfl _ _
  · exact exec_lds .. ▸ goesOn_spadAccess h _ rfl _ _ _
  · exact exec_sts .. ▸ goesOn_spadAccess h _ rfl _ _ _
  · exact exec_ldk .. ▸ goesOn_spadAccess h _ rfl _ _ _
  · exact exec_stk .. ▸ goesOn_spadAccess h _ rfl _ _ _
  · exact exec_ldw .. ▸ goesOn_memAccess h _ rfl _ _
  · rw [exec_ldacq, execLdacq, tryless_noLane h]; exact goesOn_memAccess h _ rfl _ _
  · rw [exec_strel, execStrel, tryless_noLane h]; exact goesOn_memAccess h _ rfl _ _
  · exact exec_prefL1 .. ▸ goesOn_prefetch h _ rfl _
  · exact exec_prefL2 .. ▸ goesOn_prefetch h _ rfl _
  · exact exec_cctlInv .. ▸ goesOn_cctl h _ rfl _ _
  · exact exec_cctlWb .. ▸ goesOn_cctl h _ rfl _ _
  · exact exec_cctlWbinv .. ▸ goesOn_cctl h _ rfl _ _
  · exact exec_brx .. ▸ goesOn_branchOp h _ _ _
  · exact exec_callx .. ▸ goesOn_branchOp h _ _ _
  · exact exec_ret .. ▸ goesOn_ret h
  · exact exec_partset .. ▸ goesOn_warpWide h _ _ _ _
  · exact exec_exmset .. ▸ goesOn_warpWide h _ _ _ _
  · exact exec_bar .. ▸ goesOn_bar h
  · exact exec_bara .. ▸ goesOn_bara h
  · exact exec_barw .. ▸ goesOn_tryless_warpWide h _ _ _ _
  · exact exec_poll .. ▸ goesOn_tryless_warpWide h _ _ _ _
  · exact exec_yield .. ▸ goesOn_warpWide h _ _ _ _
  · exact exec_taskget .. ▸ goesOn_taskget h
  · exact exec_taskdone .. ▸ goesOn_taskdone h
  · rw [exec_of_rmwForm rfl]; exact goesOn_rmwIssue h _
  · rw [exec_of_rmwForm rfl]; exact goesOn_rmwIssue h _
  · rw [exec_of_rmwForm rfl]; exact goesOn_rmwIssue h _
  · rw [exec_of_rmwForm rfl]; exact goesOn_rmwIssue h _
  · rw [exec_of_rmwForm rfl]; exact goesOn_rmwIssue h _
  · rw [exec_of_rmwForm rfl]; exact goesOn_rmwIssue h _
  · rw [exec_of_rmwForm rfl]; exact goesOn_rmwIssue h _
  · rw [exec_of_rmwForm rfl]; exact goesOn_rmwIssue h _
  · rw [exec_of_rmwForm rfl]; exact goesOn_rmwIssue h _
  · rw [exec_of_rmwForm rfl]; exact goesOn_rmwIssue h _
  · rw [exec_of_rmwForm rfl]; exact goesOn_rmwIssue h _
  · rw [exec_of_rmwForm rfl]; exact goesOn_rmwIssue h _
  · rw [exec_of_rmwForm rfl]; exact goesOn_rmwIssue h _
  · rw [exec_of_rmwForm rfl]; exact goesOn_rmwIssue h _
  · rw [exec_of_rmwForm rfl]; exact goesOn_rmwIssue h _
  · rw [exec_of_rmwForm rfl]; exact goesOn_rmwIssue h _
  · rw [exec_of_rmwForm rfl]; exact goesOn_rmwIssue h _
  · rw [exec_of_rmwForm rfl]; exact goesOn_rmwIssue h _
  · rw [exec_of_rmwForm rfl]; exact goesOn_rmwIssue h _
  · rw [exec_of_rmwForm rfl]; exact goesOn_rmwIssue h _
  · rw [exec_of_rmwForm rfl]; exact goesOn_rmwIssue h _
  · rw [exec_of_rmwForm rfl]; exact goesOn_rmwIssue h _
  · rw [exec_of_rmwForm rfl]; exact goesOn_rmwIssue h _
  · rw [exec_of_rmwForm rfl]; exact goesOn_rmwIssue h _
  · rw [exec_of_rmwForm rfl]; exact goesOn_rmwIssue h _
  · rw [exec_of_rmwForm rfl]; exact goesOn_rmwIssue h _
  · rw [exec_of_rmwForm rfl]; exact goesOn_rmwIssue h _
  · rw [exec_of_rmwForm rfl]; exact goesOn_rmwIssue h _
  · exact exec_fence .. ▸ goesOn_fence h
  · exact exec_tryOpen .. ▸ goesOn_tryOpen h
  · exact exec_commit .. ▸ goesOn_commit h
  · exact exec_abort .. ▸ goesOn_abort h
  · rw [exec_tcopyLd, execTcopyLd, tcopy]; exact goesOn_engIssue h ..
  · rw [exec_tcopySt, execTcopySt, tcopy]; exact goesOn_engIssue h ..
  · exact exec_scopy .. ▸ goesOn_engIssue h _ _ _ _ _
  · exact exec_mcast .. ▸ goesOn_engIssue h _ _ _ _ _
  · exact exec_chain .. ▸ goesOn_engIssue h _ _ _ _ _
  · exact exec_qinit .. ▸ goesOn_engIssue h _ _ _ _ _
  · exact exec_qpush .. ▸ goesOn_engIssue h _ _ _ _ _
  · exact exec_qpop .. ▸ goesOn_engIssue h _ _ _ _ _
  · exact exec_tagff .. ▸ goesOn_tryless_warpWide h _ _ _ _
  · exact exec_accz .. ▸ goesOn_engIssue h _ _ _ _ _
  · rw [exec_accmvV, execAccmvV, accmv]; exact goesOn_engIssue h ..
  · rw [exec_accmvA, execAccmvA, accmv]; exact goesOn_engIssue h ..
  · exact exec_accst .. ▸ goesOn_engIssue h _ _ _ _ _
  · exact exec_tmac .. ▸ goesOn_engIssue h _ _ _ _ _
  · exact exec_txpose .. ▸ goesOn_engIssue h _ _ _ _ _
  · rw [exec_mma, execMma, mmIssue]; exact goesOn_engIssue h ..
  · rw [exec_mmloop, execMmloop, mmIssue]; exact goesOn_engIssue h ..
  · exact exec_trap .. ▸ goesOn_warpWide h _ _ _ _
  · exact exec_srd .. ▸ goesOn_warpWide h _ _ _ _
  · exact exec_swr .. ▸ goesOn_swr h
  · exact exec_vbegin .. ▸ goesOn_warpWide h _ _ _ _
  · exact exec_vend .. ▸ goesOn_vend h
  · exact exec_bkpt .. ▸ goesOn_warpWide h _ _ _ _
  · exact exec_wpset .. ▸ goesOn_warpWide h _ _ _ _
  · exact exec_halta .. ▸ goesOn_warpWide h _ _ _ _
  · exact exec_dumpw .. ▸ goesOn_warpWide h _ _ _ _
  · exact exec_tlbinv .. ▸ goesOn_warpWide h _ _ _ _
  · rw [exec_interest, execInterest]; exact goesOn_engIssueThen h ..
  · rw [exec_announce, execAnnounce]; exact goesOn_engIssueThen h ..
  · rw [exec_leasereq, execLeasereq]; exact goesOn_engIssueThen h ..
  · rw [exec_leaseret, execLeaseret]; exact goesOn_engIssueThen h ..
  · rw [exec_of_rmwForm rfl]; exact goesOn_rmwIssue h _
  · exact exec_sigwait .. ▸ goesOn_tryless_warpWide h _ _ _ _
  · rw [exec_of_rmwForm rfl]; exact goesOn_rmwIssue h _
  · rw [exec_of_rmwForm rfl]; exact goesOn_rmwIssue h _
  · exact exec_xfin .. ▸ goesOn_tryless_warpWide h _ _ _ _
  · rw [exec_evpost, execEvpost]; exact goesOn_engIssueThen h ..
  · exact exec_digest .. ▸ goesOn_warpWide h _ _ _ _

/-- Settles O23: by the form of the instruction's issue. -/
theorem noLaneNoEffect : Obligations.NoLaneNoEffect := by
  intro i s pr hp hr hq h0
  obtain ⟨t, hx, hk, hw⟩ := goesOn_of_predicated hp ⟨hr, hq, h0⟩
  refine ⟨t, hx, hk, ?_, ?_, ?_, ?_, ?_⟩
  · unfold SameWarp; rw [hw]; rfl
  all_goals rw [hw]; rfl

end Sys2Proof.Proofs.Idle
end

section
/-! Operations that an instruction puts among the outstanding ones (R115 to R126, R203 to R216, R410 to R414): what their
issue leaves,
and the elements that it makes pending. -/

namespace Sys2Proof.Proofs.Accesses

open Sys2Proof Sys2Proof.Machine Sys2Proof.Proofs.Arms Sys2Proof.Proofs.Issue Sys2Proof.Proofs.Idle

/-! ## Pending elements -/

/-- `u` is `t` with `n` registers from `k` on poisoned in lane `l`. -/
def PoisonsLane (t u : Warp) (k n l : Nat) : Prop :=
  u = { t with v := u.v } ∧ ∀ row j, j < 32 → u.v1 row j = if k ≤ row ∧ row < k + n ∧ j = l then { psn := true } else t.v1 row j

/-- `u` is `t` with `n` s registers from `k` on poisoned. -/
def PoisonsS (t u : Warp) (k n : Nat) : Prop :=
  u = { t with s := u.s } ∧ ∀ j, u.s1 j = if k ≤ j ∧ j < k + n then { psn := true } else t.s1 j

theorem poisonsLane_setV1 (t : Warp) (k l : Nat) (x : W32) (hl : l < 32) : PoisonsLane t (t.setV1 k l x true) k 1 l :=
  ⟨rfl, fun row j hj => by
    rw [Warp.v1_setV1 _ _ _ _ _ _ _ hl hj]
    exact ite_of_iff (by omega)⟩

theorem PoisonsLane.then_ {t u v : Warp} {k m n l : Nat} (h : PoisonsLane t u k m l) (g : PoisonsLane u v (k + m) n l) :
    PoisonsLane t v k (m + n) l := by
  refine ⟨?_, fun row j hj => ?_⟩
  · rw [g.1, h.1]
  · rw [g.2 row j hj, h.2 row j hj, ite_join]
    exact ite_of_iff (by omega)

theorem poisonsS_setS1 (t : Warp) (k : Nat) (x : Word) : PoisonsS t (t.setS1 k x true) k 1 :=
  ⟨rfl, fun j => by
    rw [Warp.s1_setS1]
    exact ite_of_iff (by omega)⟩

theorem PoisonsS.then_ {t u v : Warp} {k m n : Nat} (h : PoisonsS t u k m) (g : PoisonsS u v (k + m) n) :
    PoisonsS t v k (m + n) := by
  refine ⟨?_, fun j => ?_⟩
  · rw [g.1, h.1]
  · rw [g.2 j, h.2 j, ite_join]
    exact ite_of_iff (by omega)

theorem poisonsLane_writeV (t : Warp) (b k l : Nat) (n : Nat) (hl : l < 32) :
    PoisonsLane t (t.writeV b k l { n := n, psn := true }) k (if b = 64 then 2 else 1) l := by
  unfold Warp.writeV
  split
  · exact (poisonsLane_setV1 _ _ _ _ hl).then_ (poisonsLane_setV1 _ _ _ _ hl)
  · exact poisonsLane_setV1 _ _ _ _ hl

theorem poisonsLane_write (t : Warp) (b : Nat) (k : BitVec 8) (l : Nat) (hl : l < 32) :
    PoisonsLane t (t.write b (.v k) l poisonVal) k.toNat (if b = 64 then 2 else 1) l := poisonsLane_writeV t b k.toNat l 0 hl

theorem poisonsS_write (t : Warp) (b : Nat) (k : BitVec 8) (l : Nat) : PoisonsS t (t.write b (.s k) l poisonVal) k.toNat 1 :=
  poisonsS_setS1 ..

/-- Poison written lane by lane. -/
theorem foldl_poisonsLane {g : Warp → Nat → Warp} {k n : Nat} (hg : ∀ t l, l < 32 → PoisonsLane t (g t l) k n l) (L : List Nat)
    (hL : ∀ l ∈ L, l < 32) (w : Warp) : L.foldl g w = { w with v := (L.foldl g w).v } ∧
      ∀ row j, j < 32 → (L.foldl g w).v1 row j = if k ≤ row ∧ row < k + n ∧ j ∈ L then { psn := true } else w.v1 row j := by
  induction L generalizing w with
  | nil => exact ⟨rfl, fun row j _ => by simp⟩
  | cons a L ih =>
    obtain ⟨h1, h2⟩ := hg w a (hL a List.mem_cons_self)
    obtain ⟨i1, i2⟩ := ih (fun l hl => hL l (List.mem_cons_of_mem _ hl)) (g w a)
    refine ⟨by rw [List.foldl_cons, i1, h1], fun row j hj => ?_⟩
    rw [List.foldl_cons, i2 row j hj, h2 row j hj, ite_join]
    refine ite_of_iff ?_
    rw [List.mem_cons]
    grind

theorem pends_v {g : Warp → Nat → Warp} {k : BitVec 8} {n : Nat} (hg : ∀ t l, l < 32 → PoisonsLane t (g t l) k.toNat n l)
    (w : Warp) (m : W32) : Pends w ((lanesOf m).foldl g w) (.v k) n m := by
  obtain ⟨h1, h2⟩ := foldl_poisonsLane hg (lanesOf m) (fun l hl => (mem_lanesOf.mp hl).1) w
  refine ⟨by rw [h1], fun k' hk => ?_, nofun⟩
  cases hk
  refine ⟨by rw [h1], fun row l hl => ?_⟩
  rw [h2 row l hl]
  exact ite_of_iff (by rw [mem_lanesOf]; grind)

theorem pends_s {w u : Warp} {k : BitVec 8} {n : Nat} {m : W32} (hm : m ≠ 0) (h : PoisonsS w u k.toNat n) : Pends w u
    (.s k) n m := by
  refine ⟨by rw [h.1], nofun, fun k' hk => ?_⟩
  cases hk
  refine ⟨by rw [h.1], fun j => ?_⟩
  rw [h.2 j]
  exact ite_of_iff (by grind)

/-- No register is pending where no lane writes. -/
theorem pends_none (w : Warp) (d : Opnd) (n : Nat) : Pends w w d n 0 :=
  ⟨rfl, fun _ _ => ⟨rfl, fun _ _ _ => by simp⟩, fun _ _ => ⟨rfl, fun _ => by simp⟩⟩

/-! ## An operation put among the outstanding ones -/

/-- What is outstanding after an issue, where the warp still names its launch, its context and its seed. -/
theorem Kept.pushOp {s t : State} (h : Kept s t) (hl : t.w.launch = s.w.launch) (hc : t.w.ctx = s.w.ctx)
    (hs : t.w.seed = s.w.seed) (o : Op) : Kept (s.issues o o.accs o.lanes) (t.pushOp o) := by
  refine ⟨h.others, h.cores, ?_⟩
  obtain ⟨w, c, n, e⟩ : ∃ w c n, t = { s with warps := w, cores := c, smp := { s.smp with cnt := n } } := ⟨_, _, _, h.rest⟩
  subst e
  simp only [State.pushOp, hl, hc, hs]
  rfl

/-! ## Loads and stores -/

/-- The qualifiers of an operation as the shared issue takes them. -/
def opForm (isLoad : Bool) (o : Op) : Form :=
  { isLoad := isLoad, scope := o.scope, acq := o.acq, rel := o.rel, hold := o.hold, prom := o.prom, fresh := o.fresh, nc := o.nc, wb := o.wb }

theorem exec_of_loadForm {i : Instr} {x : MemForm} (h : loadForm i = some x) (s : State) (ht : x.tryless = true →
    s.w.tryOpen = false) :
    exec i s = memAccess i x.o x.wd (opForm true x.op) s := by
  unfold loadForm at h
  split at h <;> cases h
  · exact exec_ld ..
  · exact exec_ldw ..
  · exact (exec_ldacq ..).trans (tryless_closed (ht rfl))

theorem exec_of_storeForm {i : Instr} {x : MemForm} (h : storeForm i = some x) (s : State) (ht : x.tryless = true →
    s.w.tryOpen = false) :
    exec i s = memAccess i x.o x.wd (opForm false x.op) s := by
  unfold storeForm at h
  split at h <;> cases h
  · exact exec_st ..
  · exact (exec_strel ..).trans (tryless_closed (ht rfl))

theorem exec_of_padLoadForm {i : Instr} {x : MemForm} {clus : Bool} (h : padLoadForm i = some (x, clus)) (s : State) :
    exec i s = spadAccess i x.o x.wd (opForm true x.op) clus s := by
  unfold padLoadForm at h
  split at h <;> cases h
  · exact exec_lds ..
  · exact exec_ldk ..

/-! ## The destination of a load -/

/-- An instruction that runs has passed the checks of the registers that it names (R6, R7). -/
theorem inRange_of_runs {i : Instr} {s : State} (h : Runs i s) : ∀ u ∈ uses i, u.inRange s.env = true := by
  obtain ⟨hc, -, -⟩ := h
  unfold checkInstr at hc
  split at hc; · cases hc
  split at hc; · cases hc
  split at hc; · cases hc
  split at hc; · cases hc
  next hu => simpa using hu

theorem writeLive_eq_writeV (w : Warp) (b k l : Nat) (x : Val) (hk : k < 256) (hb : b = 64 → k + 2 ≤ 256) :
    w.writeLive 256 b k l x = w.writeV b k l x := by
  refine if_pos ?_
  by_cases h : b = 64
  · exact .inl (hb h)
  · exact .inr ⟨h, hk⟩

/-- A load that has not completed poisons all its elements. -/
theorem poisonsLane_loaded (t : Warp) (wd : Width) (k : BitVec 8) (hk : k.toNat % wd.regs = 0) (l : Nat) (hl : l < 32) :
    PoisonsLane t (t.loaded wd (.v k) 256 l 0 true) k.toNat wd.regs l := by
  have h256 : k.toNat < 256 := k.isLt
  cases wd
  case b128 =>
    have h4 : k.toNat % 4 = 0 := hk
    simp only [Warp.loaded]
    rw [writeLive_eq_writeV _ _ _ _ _ h256 (by omega), writeLive_eq_writeV _ _ _ _ _ (by omega) (by omega)]
    exact (poisonsLane_writeV t 64 k.toNat l _ hl).then_ (poisonsLane_writeV _ 64 (k.toNat + 2) l _ hl)
  case u64 =>
    have h2 : k.toNat % 2 = 0 := hk
    simp only [Warp.loaded]
    rw [writeLive_eq_writeV _ _ _ _ _ h256 (by omega)]
    exact poisonsLane_writeV t 64 k.toNat l _ hl
  all_goals
    simp only [Warp.loaded]
    rw [writeLive_eq_writeV _ _ _ _ _ h256 (by omega)]
    exact poisonsLane_writeV t 32 k.toNat l _ hl

theorem poisonsS_loaded (t : Warp) (wd : Width) (k : BitVec 8) (m l : Nat) :
    PoisonsS t (t.loaded wd (.s k) m l 0 true) k.toNat ((wd.regs + 1) / 2) := by
  cases wd
  case b128 => exact (poisonsS_setS1 t k.toNat _).then_ (poisonsS_setS1 _ (k.toNat + 1) _)
  all_goals exact poisonsS_setS1 t k.toNat _

theorem pendDest_pends (w : Warp) (wd : Width) (d : Opnd) (m : W32) (hd : ∀ k, d = .v k → k.toNat % wd.regs = 0) :
    Pends w (w.pendDest wd d m) d (if d.isS then (wd.regs + 1) / 2 else wd.regs) m := by
  unfold Warp.pendDest
  split
  · next h => subst h; exact pends_none ..
  · next h =>
    cases d with
    | v k => exact pends_v (fun t l hl => poisonsLane_loaded t wd k (hd k rfl) l hl) w m
    | s k => exact pends_s h (poisonsS_loaded w wd k 256 0)
    | p k => exact ⟨by rw [foldl_unmoved fun _ => rfl]; rfl, nofun, nofun⟩
    | l k => exact ⟨by rw [foldl_unmoved fun _ => rfl]; rfl, nofun, nofun⟩

/-- Which elements are pending depends on the registers only. -/
theorem Pends.congr {w w' u : Warp} {d : Opnd} {n : Nat} {m : W32} (h : Pends w u d n m) (hv : w.v = w'.v) (hs : w.s = w'.s) :
    Pends w' { w' with v := u.v, s := u.s } d n m := by
  refine ⟨rfl, fun k hk => ?_, fun k hk => ?_⟩
  · obtain ⟨h1, h2⟩ := h.2.1 k hk
    refine ⟨h1.trans hs, fun row l hl => (h2 row l hl).trans ?_⟩
    simp only [Warp.v1, hv]
  · obtain ⟨h1, h2⟩ := h.2.2 k hk
    refine ⟨h1.trans hv, fun j => (h2 j).trans ?_⟩
    simp only [Warp.s1, hs]

/-! ## The checks of a load or a store -/

/-- No watchpoint of the warp meets an access, or the check is left out. -/
theorem watch_of_unwatched {w : Warp} (h : w.unwatched) (m : W32) (adr : Nat → Word) (n : Nat) (rd wr : Bool) :
    (w.skipWp = true ∧ w.skipPc = w.pc) ∨ w.watchHit m adr n rd wr = none := by
  refine h.imp_right fun hk => ?_
  unfold Warp.watchHit
  refine if_pos (maskWhere_eq_zero.mpr fun l _ => ?_)
  have he : ((List.range 4).any fun k => (look {} w.wp k).hits (adr l).toNat n rd wr) = false := by
    refine List.any_eq_false.mpr fun k hk4 => ?_
    have h7 : bit (look {} w.wp k).ctl.toNat 7 = false := by
      rw [Integers.bit_eq_testBit]
      exact hk k (List.mem_range.mp hk4)
    simp only [Watch.hits, h7, Bool.false_and, Bool.false_eq_true, not_false_eq_true]
  rw [he, Bool.and_false]

theorem firstLane_none {α : Type} {m : W32} {f : Nat → Option α} (h : ∀ l, l < 32 → m.getLsbD l = true → f l = none) :
    firstLane m f = none :=
  List.findSome?_eq_none_iff.mpr fun l hl => h l (mem_lanesOf.mp hl).1 (mem_lanesOf.mp hl).2

theorem misaligned_none {m : W32} {adr : Nat → Int} {n : Nat} (h : ∀ l, l < 32 → m.getLsbD l = true → adr l % (n : Int) = 0) :
    misaligned m adr n = none :=
  firstLane_none fun l hl hm => if_neg (not_not_intro (h l hl hm))

/-- The lanes of an access whose address is sound. -/
theorem live_iff {m : W32} {p : Nat → Bool} {l : Nat} :
    (maskWhere fun l => m.getLsbD l && !p l).getLsbD l = true ↔ l < 32 ∧ m.getLsbD l = true ∧ p l = false := by
  rw [getLsbD_maskWhere]; simp

theorem goesTo_eq (s : State) (need : Need) (a : Val) :
    (if a.psn then .miss true else s.memLoc need (BitVec.ofNat 64 a.n)) = s.goesTo need a := rfl

theorem memAccs_eq_loadAccs (x : MemForm) (s : State) (f : Form) (hf : f.isLoad = true) (h0 : s.w.holds x.o.pr ≠ 0) :
    (if x.o.d.isS && decide ((if f.isLoad then s.w.psnd x.o.pr else 0) ≠ 0) then
      (s.memAccs x.o x.wd f (if x.o.d.isS then (if s.w.holds x.o.pr = 0 then [] else [0]) else lanesOf (s.w.holds x.o.pr))).map
        fun a => { a with loc := .miss true }
     else s.memAccs x.o x.wd f (if x.o.d.isS then (if s.w.holds x.o.pr = 0 then [] else [0]) else lanesOf (s.w.holds x.o.pr))) =
    x.loadAccs s := by
  simp only [hf, if_true, h0, if_false, MemForm.loadAccs, MemForm.lanes, State.memAccs, goesTo_eq, List.map_map]
  split
  · next h => 
    have h' : x.o.d.isS = true ∧ s.w.psnd x.o.pr ≠ 0 := by simpa using h
    simp only [if_pos h']
    rfl
  · next h =>
    have h' : ¬ (x.o.d.isS = true ∧ s.w.psnd x.o.pr ≠ 0) := by simpa using h
    simp only [if_neg h']

/-! ## Loads -/

/-- A load as it starts: the operation of its form, and its destination pending. -/
theorem startAccess_load {s t : State} {x : MemForm} {f : Form} {accs : List Acc} {q : W32} {op : Op} {mem : Bool} {g : Origin}
    {a : Word} {b : Bool} (hf : f.isLoad = true) (hk : Kept s t) (hw : t.w = s.w.as s.clk g a b) (h0 : s.w.holds x.o.pr ≠ 0)
    (hq : s.w.holds x.o.pr ||| q = s.w.writers x.o.pr) (hd : ∀ k, x.o.d = .v k → k.toNat % x.wd.regs = 0)
    (hop : op = { noOp with kind := .load x.wd x.o.d, scope := f.scope, acq := f.acq, rel := f.rel, hold := f.hold
                            prom := f.prom, fresh := f.fresh, nc := f.nc, wb := f.wb }) :
    ∃ u, t.startAccess x.o x.wd f mem accs q = u.advance 1 ∧ Kept (s.issues op accs (x.group s.w)) u ∧ SameWarp s u ∧
      u.w.p = s.w.p ∧ u.w.flg = s.w.flg ∧ Pends s.w { s.w with v := u.w.v, s := u.w.s } x.o.d x.regs (s.w.writers x.o.pr) := by
  have hh : t.w.holds x.o.pr = s.w.holds x.o.pr := by rw [hw]; rfl
  have hp := pendDest_pends t.w x.wd x.o.d (s.w.writers x.o.pr) hd
  have hfr : t.w.pendDest x.wd x.o.d (s.w.writers x.o.pr) = { s.w.as s.clk g a b with
      v := (t.w.pendDest x.wd x.o.d (s.w.writers x.o.pr)).v, s := (t.w.pendDest x.wd x.o.d (s.w.writers x.o.pr)).s } := by
    conv => lhs; rw [hp.1, hw]
    rw [hw]
  generalize hW : t.w.pendDest x.wd x.o.d (s.w.writers x.o.pr) = w' at hp hfr
  let op' : Op := { noOp with
    kind := .load x.wd x.o.d, accs := accs, scope := f.scope, acq := f.acq, rel := f.rel, hold := f.hold
    prom := f.prom, fresh := f.fresh, nc := f.nc, wb := f.wb, lanes := if x.o.d.isS then s.w.holds x.o.pr else 0 }
  have hw' : (t.setW w').w = w' := t.w_setW w'
  refine ⟨(t.setW w').pushOp op', ?_, ?_, ?_, ?_, ?_, ?_⟩
  · simp only [State.startAccess, hf, hh, if_true, if_neg h0, hq, hW]
    rfl
  · have := Kept.pushOp (hk.setW w') (by rw [hw', hfr]; rfl) (by rw [hw', hfr]; rfl) (by rw [hw', hfr]; rfl) op'
    rw [hop]
    exact this
  all_goals have hu : ((t.setW w').pushOp op').w = w' := hw'
  · unfold SameWarp
    rw [hu, hfr]
    rfl
  · rw [hu, hfr]; rfl
  · rw [hu, hfr]; rfl
  · rw [hu]
    exact Pends.congr (w := t.w) hp (by rw [hw]; rfl) (by rw [hw]; rfl)

/-- What reading the address leaves of the warp and of all else. -/
theorem issued_readPending (i : Instr) (s : State) (src : List (Opnd × Nat)) (m : W32) :
    Kept s ((s.issued i).readPending src m) ∧
      ∃ g a b, ((s.issued i).readPending src m).w = s.w.as s.clk g a b := by
  have hw := State.readPending_w (s.issued i) src m
  rw [State.issued_w] at hw
  exact ⟨State.readPending_kept (s.issued_kept i) _ _, _, _, _, hw⟩

theorem loadForm_op {i : Instr} {x : MemForm} (h : loadForm i = some x) :
    x.op = { noOp with kind := .load x.wd x.o.d, scope := x.op.scope, acq := x.op.acq, rel := x.op.rel, hold := x.op.hold
                       prom := x.op.prom, fresh := x.op.fresh, nc := x.op.nc, wb := x.op.wb } := by
  unfold loadForm at h
  split at h <;> cases h <;> rfl

theorem mem_useR {d : Opnd} {k : BitVec 8} {n : Nat} (hk : d = .v k) : .v k.toNat n ∈ useR n d := by
  subst hk
  exact List.mem_singleton_self _

theorem dst_aligned {i : Instr} {s : State} (h : Runs i s) {k n : Nat} (hu : .v k n ∈ uses i) : k % n = 0 := by
  have := inRange_of_runs h _ hu
  simp only [Use.inRange, Bool.and_eq_true, decide_eq_true_eq] at this
  exact this.1

/-- A v destination of a load is aligned to its element; LDW has none. -/
theorem loadForm_aligned {i : Instr} {s : State} {x : MemForm} (hx : loadForm i = some x) (h : Runs i s) {k : BitVec 8}
    (hk : x.o.d = .v k) : k.toNat % x.wd.regs = 0 := by
  unfold loadForm at hx
  split at hx <;> cases hx
  · exact dst_aligned h (List.mem_append_left _ (mem_useR hk))
  · next wd o =>
    have hf : (inCls 2 o.d && o.aS && baseOk o && qual true true false false 0 o) = true := Integers.fieldsOk_of_runs h
    rw [show o.d = .v k from hk] at hf
    simp [inCls, Opnd.cls, bit] at hf
  · exact dst_aligned h (List.mem_append_left _ (mem_useR hk))

theorem load_starts {i : Instr} {s : State} {x : MemForm} (hx : loadForm i = some x) (h : Runs i s)
    (ht : x.tryless = true → s.w.tryOpen = false) (h0 : s.w.holds x.o.pr ≠ 0) (hf : x.loadFree i s (x.loadAccs s))
    (ha : x.aligned s) (hw : s.w.unwatched) :
    ∃ t, exec i s = .next (t.advance 1) ∧ Kept (s.issues x.op (x.loadAccs s) (x.group s.w)) t ∧ SameWarp s t ∧ t.w.p = s.w.p ∧
      t.w.flg = s.w.flg ∧ Pends s.w { s.w with v := t.w.v, s := t.w.s } x.o.d x.regs (s.w.writers x.o.pr) := by
  obtain ⟨hfree, hroom⟩ := hf
  have hl : (opForm true x.op).isLoad = true := rfl
  rw [exec_of_loadForm hx s ht]
  simp only [memAccess, hl, if_true]
  have hacc := memAccs_eq_loadAccs x s (opForm true x.op) rfl h0
  simp only [hl, if_true] at hacc
  rw [hacc]
  obtain ⟨hk, g, a, b, hw'⟩ := issued_readPending i s [(baseOf x.o, 2)] (s.w.holds x.o.pr)
  obtain ⟨u, hu, hrest⟩ := startAccess_load (f := opForm true x.op) (accs := x.loadAccs s) (q := s.w.psnd x.o.pr)
      (mem := true) rfl hk
    hw' h0 rfl (fun k hk => loadForm_aligned hx h hk) (loadForm_op hx)
  refine ⟨u, (issue_runs h _ _ ?_ ?_ ?_ rfl).trans (congrArg Host.Outcome.next hu), hrest⟩
  · have hfree' : s.operandsFree i [x.o.d] x.wd.regs (s.w.holds x.o.pr ||| s.w.psnd x.o.pr) = true := hfree
    simp only [hfree', hroom, Bool.or_true, Bool.and_true]
  · refine misaligned_none fun l hl hm => ?_
    obtain ⟨-, hm, hp⟩ := live_iff.mp hm
    exact_mod_cast ha l ⟨hl, hm⟩ hp
  · exact watch_of_unwatched hw ..

theorem padLoadForm_op {i : Instr} {x : MemForm} {clus : Bool} (h : padLoadForm i = some (x, clus)) :
    x.op = { noOp with kind := .load x.wd x.o.d, scope := x.op.scope, acq := x.op.acq, rel := x.op.rel, hold := x.op.hold
                       prom := x.op.prom, fresh := x.op.fresh, nc := x.op.nc, wb := x.op.wb } := by
  unfold padLoadForm at h
  split at h <;> cases h <;> rfl

theorem padLoadForm_aligned {i : Instr} {s : State} {x : MemForm} {clus : Bool} (hx : padLoadForm i = some (x, clus))
    (h : Runs i s)
    {k : BitVec 8} (hk : x.o.d = .v k) : k.toNat % x.wd.regs = 0 := by
  unfold padLoadForm at hx
  split at hx <;> cases hx
  · exact dst_aligned h (List.mem_append_left _ (mem_useR hk))
  · exact dst_aligned h (List.mem_append_left _ (mem_useR hk))

theorem padLoad_starts {i : Instr} {s : State} {x : MemForm} {clus : Bool} (hx : padLoadForm i = some (x, clus)) (h : Runs i s)
    (h0 : s.w.holds x.o.pr ≠ 0) (hs : x.o.d.isS = false) (hf : x.loadFree i s (x.padLoadAccs clus s)) (ha : x.padAligned s)
    (hp : x.padThere clus s) :
    ∃ t, exec i s = .next (t.advance 1) ∧ Kept (s.issues x.op (x.padLoadAccs clus s)) t ∧ SameWarp s t ∧ t.w.p = s.w.p ∧
      t.w.flg = s.w.flg ∧ Pends s.w { s.w with v := t.w.v, s := t.w.s } x.o.d x.regs (s.w.writers x.o.pr) := by
  obtain ⟨hfree, hroom⟩ := hf
  have hl : (opForm true x.op).isLoad = true := rfl
  have hacc : s.spadAccs x.o x.wd (opForm true x.op) clus (lanesOf (s.w.holds x.o.pr)) = x.padLoadAccs clus s := rfl
  rw [exec_of_padLoadForm hx s]
  simp only [spadAccess, hl, if_true, hacc]
  obtain ⟨hk, g, a, b, hw'⟩ := issued_readPending i s [(baseOf x.o, 1)] (s.w.holds x.o.pr)
  obtain ⟨u, hu, hkept, hrest⟩ := startAccess_load (f := opForm true x.op) (accs := x.padLoadAccs clus s) (q := s.w.psnd x.o.pr)
    (mem := false) rfl hk hw' h0 rfl (fun k hk => padLoadForm_aligned hx h hk) (padLoadForm_op hx)
  have hg : x.group s.w = 0 := by rw [MemForm.group, hs]; rfl
  rw [hg] at hkept
  refine ⟨u, (issue_runs h _ _ ?_ ?_ (.inr rfl) ?_).trans (congrArg Host.Outcome.next hu), hkept, hrest⟩
  · have hfree' : s.operandsFree i [x.o.d] x.wd.regs (s.w.holds x.o.pr ||| s.w.psnd x.o.pr) = true := hfree
    simp only [hfree', hroom, Bool.or_true, Bool.and_true]
  · refine misaligned_none fun l hl hm => ?_
    obtain ⟨-, hm, hp⟩ := live_iff.mp hm
    exact ha l ⟨hl, hm⟩ hp
  · refine firstLane_none fun l hl hm => ?_
    obtain ⟨-, hm, hq⟩ := live_iff.mp hm
    obtain ⟨p, hp⟩ := hp l ⟨hl, hm⟩ hq
    rw [hp]

/-- Settles O24: the loads of memory and those of scratchpads start in the same way, from different addresses. -/
theorem loadsStart : Obligations.LoadsStart :=
  ⟨fun _ _ _ hx h ht h0 hf ha hw => load_starts hx h ht h0 hf ha hw,
    fun _ _ _ _ hx h h0 hs hf ha hp => padLoad_starts hx h h0 hs hf ha hp⟩

/-! ## A store whose base register is pending but not poisoned

O25 has no premise that a pending element reads as poison. Where one does not, the store records the read (R204, R295),
so that its warp
differs by its origin record. -/

theorem advance_inside {s : State} {n : Nat} (h : ({ s.w with pc := s.w.pc + 8 * BitVec.ofNat 64 n } : Warp).atEntry = false) :
    s.advance n = s.setW { s.w with pc := s.w.pc + 8 * BitVec.ofNat 64 n } := by
  simp only [State.advance, State.fall, State.w_setW, h, Bool.false_and, Bool.false_eq_true, if_false]

/-- A load of s5 that is outstanding. -/
def loadOfS5 : Op := { noOp with id := 1, kind := .load .u32 (.s 5), accs := [{ lane := 0, va := 0, loc := .mem 0, n := 4 }] }

/-- A warp of one lane of whose registers none is poisoned. -/
def soundWarp : Warp := { status := .run, ctx := 1, exm := 1, bnd := 256, rows := 8192 }

/-- The context with one range that allows every access. -/
def openCtx : Ctx := { v := true, rbase := [], rlim := [(0, 0x200000)], roff := [], rctl := [(0, 0xF0)] }

def soundPending : State := { State.reset with warps := [(0, soundWarp)], ctxs := [(1, openCtx)], ops := [loadOfS5] }

/-- ST.u32 of v4 at the address in s5. -/
def storeAtS5 : OpM :=
  { pr := ⟨false, 7⟩, d := .v 4, aS := true, a := 5, off := 0, scope := 0, fresh := false, nc := false, wb := false, promote := false }

theorem storeAtS5_runs : Runs (.st .u32 storeAtS5) soundPending := by unfold Runs; decide

theorem storeAtS5_records :
    (match exec (.st .u32 storeAtS5) soundPending with | .next t => t.w.origin | _ => .none) = .pendingRead := by decide

theorem soundPending_takes {l : Nat} (h : soundPending.w.takes storeAtS5.pr l) : l = 0 := by
  obtain ⟨hl, hm⟩ := h
  refine Decidable.byContradiction fun hne => ?_
  have hnone : ∀ k, k < 32 → k ≠ 0 → (soundPending.w.holds storeAtS5.pr).getLsbD k = false := by decide
  exact Bool.false_ne_true ((hnone l hl hne).symm.trans hm)

/-- Refutes O25: ST at s5, which an outstanding load will write and which is not poisoned, records a pending read. -/
theorem not_storesStart : ¬ Obligations.StoresStart := by
  rintro ⟨h, -⟩
  obtain ⟨t, ht, -, hw⟩ := h (.st .u32 storeAtS5) soundPending _ rfl storeAtS5_runs nofun (by decide)
    ⟨by decide, by decide, ⟨by decide, by decide⟩, by decide, by decide⟩
    (fun l hl _ => by rw [soundPending_takes hl]; decide) (fun l hl => ⟨0, by rw [soundPending_takes hl]; decide⟩)
    (.inr fun k hk => by revert k; decide)
  have hr := storeAtS5_records
  rw [ht] at hr
  have ha : (t.advance 1).w.origin = .none := by
    rw [advance_inside (by rw [hw]; decide), State.w_setW, hw]
    decide
  exact absurd (ha.symm.trans hr) (by decide)

end Sys2Proof.Proofs.Accesses
end

section
/-! Traps before any effect (R16, R103, R117, R119), and the branches and calls (R106). -/

namespace Sys2Proof.Proofs.Jumps

open Sys2Proof Sys2Proof.Machine Sys2Proof.Proofs.Arms Sys2Proof.Proofs.Issue Sys2Proof.Proofs.Accesses

/-! ## The lowest lane -/

theorem range_split {l n : Nat} (h : l < n) : ∃ xs, List.range n = List.range l ++ l :: xs := by
  obtain ⟨k, rfl⟩ : ∃ k, n = l + (k + 1) := ⟨n - l - 1, by omega⟩
  refine ⟨(List.range k).map (l + 1 + ·), ?_⟩
  rw [List.range_add, List.range_succ_eq_map, List.map_cons, List.map_map]
  congr 2
  exact List.map_congr_left fun j _ => by simp only [Function.comp]; omega

/-- The first lane of a mask for which a condition yields something is the lowest. -/
theorem firstLane_eq_some {α : Type} {m : W32} {f : Nat → Option α} {l : Nat} {x : α} (hl : l < 32) (hm : m.getLsbD l = true)
    (hx : f l = some x) (h : ∀ j, j < l → m.getLsbD j = true → f j = none) : firstLane m f = some x := by
  obtain ⟨xs, hr⟩ := range_split hl
  have e : lanesOf m = (List.range l).filter (m.getLsbD ·) ++ l :: xs.filter (m.getLsbD ·) := by
    rw [lanesOf, hr, List.filter_append, List.filter_cons, if_pos hm]
  rw [firstLane, e, List.findSome?_append, List.findSome?_cons, hx]
  rw [List.findSome?_eq_none_iff.mpr fun j hj => by
    obtain ⟨hj, hmj⟩ := List.mem_filter.mp hj
    exact h j (List.mem_range.mp hj) hmj]
  rfl

theorem lanesOf_ne_nil {m : W32} (h : m ≠ 0) : lanesOf m ≠ [] := by
  intro e
  refine h (BitVec.eq_of_getLsbD_eq fun l hl => (Bool.eq_false_iff.mpr fun hc => ?_).trans BitVec.getLsbD_zero.symm)
  have : l ∈ lanesOf m := mem_lanesOf.mpr ⟨hl, hc⟩
  rw [e] at this
  cases this

theorem lowestLane_takes {m : W32} (h : m ≠ 0) : lowestLane m < 32 ∧ m.getLsbD (lowestLane m) = true := by
  rw [← mem_lanesOf, lowestLane]
  cases hl : lanesOf m with
  | nil => exact absurd hl (lanesOf_ne_nil h)
  | cons a as => exact List.mem_cons_self

/-! ## Loads and stores that trap -/

theorem load_misaligned {i : Instr} {s : State} {x : MemForm} {l : Nat} (hx : loadForm i = some x)
    (hc : checkInstr s.env (i.words == 2) false i = .ok i) (ht : x.tryless = true → s.w.tryOpen = false)
    (hf : x.loadFree i s (x.loadAccs s)) (hl : s.w.takes x.o.pr l) (hp : (s.w.va x.o l).psn = false)
    (hm : (s.w.va x.o l).n % x.wd.bytes ≠ 0)
    (hj : ∀ j, j < l → s.w.takes x.o.pr j → (s.w.va x.o j).psn = false → (s.w.va x.o j).n % x.wd.bytes = 0) :
    exec i s = .next (s.trapNow { cls := clsAddr, cause := 2, addr := BitVec.ofNat 64 (s.w.va x.o l).n } s.w.pc) := by
  obtain ⟨hfree, hroom⟩ := hf
  obtain ⟨h32, hb⟩ := hl
  have h0 : s.w.holds x.o.pr ≠ 0 := by
    intro e
    rw [e] at hb
    exact absurd hb (by simp)
  have hl : (opForm true x.op).isLoad = true := rfl
  have hacc := memAccs_eq_loadAccs x s (opForm true x.op) rfl h0
  rw [exec_of_loadForm hx s ht]
  simp only [memAccess, hl, if_true] at hacc ⊢
  rw [hacc]
  refine issue_early hc _ _ _ ?_ ?_
  · have hfree' : s.operandsFree i [x.o.d] x.wd.regs (s.w.holds x.o.pr ||| s.w.psnd x.o.pr) = true := hfree
    simp only [hfree', hroom, Bool.or_true, Bool.and_true]
  · refine firstLane_eq_some h32 (live_iff.mpr ⟨h32, hb, hp⟩) ?_ fun j hlt hlive => ?_
    · have hm' : ((s.w.va x.o l).n : Int) % (x.wd.bytes : Int) ≠ 0 := by exact_mod_cast hm
      rw [if_pos hm', BitVec.ofInt_natCast]
      rfl
    · obtain ⟨hj32, hjm, hjp⟩ := live_iff.mp hlive
      have hm' : ((s.w.va x.o j).n : Int) % (x.wd.bytes : Int) = 0 := by exact_mod_cast hj j hlt ⟨hj32, hjm⟩ hjp
      exact if_neg (not_not_intro hm')

/-- Reading its operands leaves the warp's place and what its words decode against. -/
theorem readPending_env (s : State) (src : List (Opnd × Nat)) (m : W32) :
    (s.readPending src m).env = s.env ∧ (s.readPending src m).w.pc = s.w.pc := by
  have hw := s.readPending_w src m
  have hk := State.readPending_kept (Kept.refl s) src m
  refine ⟨?_, by rw [hw]⟩
  simp only [State.env]
  rw [hw, hk.rest]
  rfl

theorem store_poisonedAddress {i : Instr} {s : State} {x : MemForm} (hx : storeForm i = some x)
    (hc : checkInstr s.env (i.words == 2) false i = .ok i) (ht : x.tryless = true → s.w.tryOpen = false)
    (hq : s.w.psnd x.o.pr = 0) (hr : s.roomFor false (x.storeAccs s) = true)
    (hp : s.w.anyPoison [(baseOf x.o, 2)] (s.w.holds x.o.pr) = true) :
    exec i s = .next ((s.readPending [(baseOf x.o, 2)] (s.w.holds x.o.pr)).trapNow
      ((s.readPending [(baseOf x.o, 2)] (s.w.holds x.o.pr)).w.psnTrap 1) s.w.pc) := by
  have hl : (opForm false x.op).isLoad = false := rfl
  have hacc : s.memAccs x.o x.wd (opForm false x.op) (lanesOf (s.w.holds x.o.pr)) = x.storeAccs s := rfl
  have hsp : s.storePoison x.o x.wd 2 = (some ((s.readPending [(baseOf x.o, 2)] (s.w.holds x.o.pr)).w.psnTrap 1),
      s.readPending [(baseOf x.o, 2)] (s.w.holds x.o.pr)) := by
    simp only [State.storePoison, consumes_pred hq]
    simp only [State.consumes, hp, if_true]
    rfl
  obtain ⟨henv, hpc⟩ := readPending_env s [(baseOf x.o, 2)] (s.w.holds x.o.pr)
  rw [exec_of_storeForm hx s ht]
  simp only [memAccess, hl, Bool.false_eq_true, if_false, hsp, hacc, hr, Bool.or_true]
  rw [← hpc]
  exact issue_early (henv ▸ hc) _ _ _ rfl rfl

/-! ## Branches and calls -/

theorem exec_of_jumpOf {i : Instr} {x : Jump} (h : jumpOf i = some x) (s : State) :
    exec i s = branchOp i x.pr x.srcs x.tgt x.call s := by
  unfold jumpOf at h
  split at h <;> cases h
  · exact exec_bra ..
  · exact exec_call ..
  · exact exec_brx ..
  · exact exec_callx ..

theorem takers_ne_zero {x : Jump} {w : Warp} (h : w.holds x.pr ≠ 0) : (w.branch x.pr (x.tgt w)).take ≠ 0 := by
  obtain ⟨hl, hm⟩ := lowestLane_takes h
  intro e
  have := maskWhere_eq_zero.mp e _ hl
  simp [hm] at this

/-- A branch whose operands are sound and that some lane takes comes to its target. -/
theorem branchOp_taken {i : Instr} {s : State} {x : Jump} (hc : Clean s x.pr x.srcs) (h : s.w.holds x.pr ≠ 0) :
    branchOp i x.pr x.srcs x.tgt x.call s =
      (let b := s.w.branch x.pr (x.tgt s.w)
       match s.target b.t (if b.div && !b.none then some b.rc else none) x.call with
       | .wait s1 => issue i s { ready := false, sent := some s1 } id
       | .trap t s1 => issue i s1 { early := some t } id
       | .ok hw s1 => issue i s1 { early := s.w.branchStack b x.call } fun u => u.branchTo b x.call hw) := by
  simp only [branchOp, firstPoison_clean hc]
  exact if_neg (takers_ne_zero h)

theorem jump_toNoHeader {i : Instr} {s r : State} {x : Jump} {hw : Word} (hx : jumpOf i = some x)
    (hc : checkInstr r.env (i.words == 2) false i = .ok i) (hr : r.w = s.w) (hp : Clean s x.pr x.srcs) (h : s.w.holds x.pr ≠ 0)
    (hf : s.fetchWord s.w.ctx (x.to_ s.w) = .word hw r) (hh : headerOk hw = false) :
    exec i s = .next (r.trapNow { cls := clsAlign, cause := 1, addr := x.to_ s.w } s.w.pc) := by
  have ht (rc : Option Word) : s.target (x.to_ s.w) rc x.call = .trap (alignTrap 1 (x.to_ s.w)) r := by
    simp only [State.target, hf, hh, Bool.not_false, Bool.true_or, if_true]
  rw [exec_of_jumpOf hx, branchOp_taken hp h]
  show (match s.target (x.to_ s.w) _ x.call with | .wait s1 => _ | .trap t s1 => _ | .ok hw s1 => _) = _
  rw [ht, ← hr]
  exact issue_early hc _ _ _ rfl rfl

/-- Settles O26: each of the three is an issue whose check traps. -/
theorem trapsBeforeEffect : Obligations.TrapsBeforeEffect :=
  ⟨fun _ _ _ _ hx hc ht hf hl hp hm hj => load_misaligned hx hc ht hf hl hp hm hj,
    fun _ _ _ hx hc ht hq hr hp => store_poisonedAddress hx hc ht hq hr hp,
    fun _ _ _ _ _ hx hc hr hq hp h hf hh => jump_toNoHeader hx hc hr ⟨hq, hp⟩ h hf hh⟩

/-- What O20 asks of a branch's target, of the header where the others rejoin, and of the stacks. -/
structure Passes (s r u : State) (x : Jump) (hw : Word) : Prop where
  fetched : s.fetchWord s.w.ctx (x.to_ s.w) = .word hw r
  header : headerOk hw = true
  place : (x.to_ s.w).toNat % 8 = 0
  handler : hdrHandler hw = false
  call : x.call = true → hdrCall hw = true ∧ s.w.cstk.length < 32
  split : x.takers s.w ≠ s.w.exm → s.w.rstk.length < 32 ∧ hdrUniform s.w.hw = false ∧
    (hdrReconv s.w.hw ≠ 0 → r.headerAt s.w.ctx s.w.rejoin = .ok (true, u))
  whole : x.takers s.w = s.w.exm ∨ hdrReconv s.w.hw = 0 → u = r

theorem Passes.target {s r u : State} {x : Jump} {hw : Word} (h : Passes s r u x hw) :
    s.target (x.to_ s.w) (if decide (x.takers s.w ≠ s.w.exm) && !decide
        (hdrReconv s.w.hw = 0) then some s.w.rejoin else none) x.call =
      .ok hw u := by
  have hcall : (x.call && !hdrCall hw) = false := by
    cases hc : x.call
    · rfl
    · rw [(h.call hc).1]; rfl
  simp only [State.target, h.fetched, h.header, h.place, hcall, h.handler]
  by_cases hd : x.takers s.w ≠ s.w.exm ∧ hdrReconv s.w.hw ≠ 0
  · obtain ⟨hd, hr⟩ := hd
    obtain ⟨-, -, hj⟩ := h.split hd
    simp only [ne_eq, hd, hr, decide_false, decide_true, not_false_eq_true, Bool.not_false, Bool.and_true, if_true, hj hr]
    rfl
  · have hu : u = r := h.whole (by grind)
    have hb : (decide (x.takers s.w ≠ s.w.exm) && !decide (hdrReconv s.w.hw = 0)) = false := by
      simpa using hd
    simp only [hb, hu]
    rfl

theorem Passes.stack {s r u : State} {x : Jump} {hw : Word} (h : Passes s r u x hw) :
    s.w.branchStack (s.w.branch x.pr (x.tgt s.w)) x.call = none := by
  have hd : (s.w.branch x.pr (x.tgt s.w)).div = decide (x.takers s.w ≠ s.w.exm) := rfl
  have h1 : (decide (x.takers s.w ≠ s.w.exm) && decide (32 ≤ s.w.rstk.length)) = false := by
    by_cases e : x.takers s.w = s.w.exm
    · simp [e]
    · simp [(h.split e).1]
  have h2 : (x.call && decide (32 ≤ s.w.cstk.length)) = false := by
    cases hc : x.call
    · rfl
    · simp [(h.call hc).2]
  have h3 : (decide (x.takers s.w ≠ s.w.exm) && hdrUniform s.w.hw) = false := by
    by_cases e : x.takers s.w = s.w.exm
    · simp [e]
    · simp [(h.split e).2.1]
  simp only [Warp.branchStack, hd, h1, h2, h3, Bool.false_eq_true, if_false]

theorem jump_enters {i : Instr} {s r u : State} {x : Jump} {hw : Word} (hx : jumpOf i = some x) (h : Runs i u) (hu : u.w = s.w)
    (hclk : u.clk = s.clk) (hc : Clean s x.pr x.srcs) (h0 : s.w.holds x.pr ≠ 0) (hp : Passes s r u x hw) :
    ∃ t, exec i s = .next (t.enterAt (x.to_ s.w) hw) ∧ Kept u t ∧
      t.w = { s.w1 with
        cstk := if x.call then (s.w.pc + 8) :: s.w.cstk else s.w.cstk
        exm := x.takers s.w
        rstk := if x.takers s.w = s.w.exm then s.w.rstk
          else { rc := s.w.rejoin, none := decide (hdrReconv s.w.hw = 0), ppc := s.w.pc
                 phoff := (s.w.pc - s.w.hdr).toNat / 8, pend := s.w.exm &&& ~~~x.takers s.w, split := s.w.exm
                 depth := s.w.cstk.length, hw := s.w.hw } :: s.w.rstk } := by
  rw [exec_of_jumpOf hx, branchOp_taken hc h0]
  have hw1 : (u.issued i).w = s.w1 := by rw [State.issued_w, hu, hclk]; rfl
  refine ⟨_, ?_, (u.issued_kept i).setW _, State.w_setW ..⟩
  show (match s.target (x.to_ s.w) (if decide (x.takers s.w ≠ s.w.exm) && !decide (hdrReconv s.w.hw = 0) then some s.w.rejoin
    else none) x.call with | .wait _ => _ | .trap _ _ => _ | .ok _ _ => _) = _
  rw [hp.target]
  refine (issue_runs h _ _ rfl hp.stack (.inr rfl) rfl).trans (congrArg Host.Outcome.next ?_)
  simp only [State.branchTo, hw1]
  congr 2
  by_cases e : x.takers s.w = s.w.exm
  · have hd : (s.w.branch x.pr (x.tgt s.w)).div = false := decide_eq_false (not_not_intro e)
    rw [hd, if_pos e, e]
    rfl
  · have hd : (s.w.branch x.pr (x.tgt s.w)).div = true := decide_eq_true e
    rw [hd, if_neg e]
    rfl

/-- Settles O20: what the branch asks of its target and of the stacks holds, so that it pushes what waits and enters. -/
theorem branches : Obligations.Branches :=
  fun _ _ _ _ _ _ hx h hu hclk hq hp h0 hf hh ha hn hc hs hw =>
    jump_enters hx h hu hclk ⟨hq, hp⟩ h0 ⟨hf, hh, ha, hn, hc, hs, hw⟩

end Sys2Proof.Proofs.Jumps
end

section
/-! Returns and exits (R108, R109). -/

namespace Sys2Proof.Proofs.Exits

open Sys2Proof Sys2Proof.Machine Sys2Proof.Proofs.Arms Sys2Proof.Proofs.Issue

/-- A header read at an aligned address that is no handler's is a target that a return may enter. -/
theorem target_of_return {s r : State} {a hw : Word} (hf : s.fetchWord s.w.ctx a = .word hw r) (hh : headerOk hw = true)
    (ha : a.toNat % 8 = 0) (hn : hdrHandler hw = false) : s.target a none false = .ok hw r := by
  simp only [State.target, hf, hh, ha, hn]
  rfl

theorem ret_returns {s r : State} {o : OpO} {a hw : Word} {rest : List Word} (h : Runs (.ret o) r) (hr : r.w = s.w)
    (hclk : r.clk = s.clk) (hq : s.w.psnd o.pr = 0) (hx : s.w.exm ≠ 0) (hall : s.w.holds o.pr = s.w.exm) (hc :
        s.w.cstk = a :: rest)
    (ht : s.w.tryOpen = false) (he : ∀ e es, s.w.rstk = e :: es → e.depth ≠ s.w.cstk.length)
    (htgt : s.target a none false = .ok hw r) :
    ∃ t, exec (.ret o) s = .next (t.enterAt a hw) ∧ Kept r t ∧ t.w = { s.w1 with cstk := rest } := by
  have hw1 : (r.issued (.ret o)).w = s.w1 := by rw [State.issued_w, hr, hclk]; rfl
  refine ⟨(r.issued (.ret o)).setW { (r.issued (.ret o)).w with cstk := rest }, ?_, (r.issued_kept _).setW _, ?_⟩
  · rw [exec_ret]
    simp only [execRet, consumes_pred hq]
    rw [if_neg (hall ▸ hx)]
    simp only [hc, htgt]
    refine (issue_runs h _ _ rfl ?_ (.inr rfl) rfl).trans (congrArg Host.Outcome.next ?_)
    · cases hs : s.w.rstk with
      | nil => simp [hall]
      | cons e es =>
        have hd := he e es hs
        rw [hc, List.length_cons] at hd
        simp [hall, hd]
    · rw [if_neg]
      rw [hw1]
      show ¬ ((s.w.tryOpen && _) = true)
      rw [ht]
      exact Bool.false_ne_true
  · rw [State.w_setW, hw1]

section
variable {s : State} {o : OpO} (h : Runs (.exit o) s) (ht : s.w.tryOpen = false) (hq : s.w.psnd o.pr = 0) (h0 :
    s.w.holds o.pr ≠ 0)
include h ht hq h0

/-- EXIT retires its participating lanes. -/
theorem exec_exit_retires : exec (.exit o) s = .next ((s.issued (.exit o)).exitLanes (s.w.holds o.pr)) := by
  rw [exec_exit, execExit, tryless_closed ht]
  simp only [consumes_pred hq]
  rw [if_neg fun hc => h0 hc.1, issue_runs h _ _ rfl rfl (.inr rfl) rfl, State.issued_w]
  rfl

theorem exit_some (hx : s.w.exm &&& ~~~s.w.holds o.pr ≠ 0) : Goes (.exit o) s s { s.w1 with
    exm := s.w.exm &&& ~~~s.w.holds o.pr, alive := s.w.alive &&& ~~~s.w.holds o.pr
    rstk := s.w.rstk.map fun e => { e with pend := e.pend &&& ~~~s.w.holds o.pr, split := e.split &&& ~~~s.w.holds o.pr } } := by
  refine ⟨_, ?_, (s.issued_kept (.exit o)).setW _, State.w_setW ..⟩
  rw [exec_exit_retires h ht hq h0]
  simp only [State.exitLanes, State.issued_w]
  exact congrArg Host.Outcome.next (if_pos hx)

theorem exit_all {e : REntry} {es : List REntry} (hx : s.w.exm = s.w.holds o.pr) (hs : s.w.rstk = e :: es)
    (hp : e.pend &&& ~~~s.w.exm ≠ 0) :
    ∃ t, exec (.exit o) s = .next t.fall ∧ Kept s t ∧
      t.w = { s.w1 with
        exm := e.pend &&& ~~~s.w.exm, alive := s.w.alive &&& ~~~s.w.exm
        rstk := { e with pend := 0, split := e.split &&& ~~~s.w.exm } ::
          es.map fun e => { e with pend := e.pend &&& ~~~s.w.exm, split := e.split &&& ~~~s.w.exm }
        cstk := s.w.cstk.drop (s.w.cstk.length - e.depth), hdr := e.ppc - 8 * BitVec.ofNat 64 e.phoff, hw := e.hw
        reread := decide (e.hw = 0), pc := e.ppc } := by
  refine ⟨_, ?_, (s.issued_kept (.exit o)).setW _, State.w_setW ..⟩
  rw [exec_exit_retires h ht hq h0, ← hx]
  simp only [State.exitLanes, State.issued_w]
  have hz : (s.w.noted s.clk).exm &&& ~~~s.w.exm = 0 := BitVec.and_not_self _
  rw [if_neg (not_not_intro hz)]
  have hr : (s.w.noted s.clk).rstk = e :: es := hs
  simp only [hr, List.map_cons, Warp.popExit, if_pos hp]
  rfl

end

/-- Settles O21: RET pops, EXIT of some lanes goes on, EXIT of all lanes resumes the top entry's. -/
theorem returnsAndExits : Obligations.ReturnsAndExits :=
  ⟨fun _ _ _ _ _ _ h hr hclk hq hx hall hc ht he hf hh ha hn =>
      ret_returns h hr hclk hq hx hall hc ht he (target_of_return hf hh ha hn),
    fun _ _ h ht hq h0 hx => exit_some h ht hq h0 hx,
    fun _ _ _ _ h ht hq h0 hx hs hp => exit_all h ht hq h0 hx hs hp⟩

end Sys2Proof.Proofs.Exits
end

section
/-! Entering the handler, and the return from it (R158, R299 to R301). -/

namespace Sys2Proof.Proofs.Handler

open Sys2Proof Sys2Proof.Machine Sys2Proof.Proofs.Arms Sys2Proof.Proofs.Issue

/-! ## Dead registers (R12) -/

theorem look_filter {α : Type} (d : α) (p : Nat → Bool) (m : FMap α) (k : Nat) :
    look d (m.filter fun e => p e.1) k = if p k then look d m k else d := by
  induction m with
  | nil => simp [look]
  | cons e m ih =>
    obtain ⟨j, v⟩ := e
    by_cases hj : j = k
    · subst hj
      by_cases hp : p j <;> simp [hp, look, ih]
    · by_cases hp : p j <;> simp [hp, look, ih, hj]

/-- The registers from the live field to BND read zero in the active lanes. -/
theorem clearDead_v1 (w : Warp) (live row l : Nat) (hl : l < 32) :
    (w.clearDead live).v1 row l = if w.exm.getLsbD l = true ∧ live ≤ row ∧ row < w.bnd then {} else w.v1 row l := by
  have hr : (32 * row + l) / 32 = row := by omega
  have hm : (32 * row + l) % 32 = l := by omega
  have := look_filter ({} : VEl) (fun k => !(decide (live ≤ k / 32) && decide (k / 32 < w.bnd) && w.exm.getLsbD
      (k % 32))) w.v (32 * row + l)
  simp only [hr, hm] at this
  refine this.trans ?_
  by_cases h : w.exm.getLsbD l = true ∧ live ≤ row ∧ row < w.bnd
  · rw [if_pos h, if_neg (by simp [h.1, h.2.1, h.2.2])]
  · rw [if_neg h, if_pos ?_]
    · rfl
    · simp only [Bool.not_eq_true', Bool.and_eq_false_iff, decide_eq_false_iff_not]
      refine Decidable.byContradiction fun hc => ?_
      simp only [not_or, Decidable.not_not, Bool.not_eq_false] at hc
      exact h ⟨hc.2, hc.1⟩

/-- With nothing outstanding there is nothing to deaden. -/
theorem deaden_idle {s : State} (ho : s.ops = []) (hc : s.cmds = []) (live : Nat) : s.deaden live = s := by
  simp only [State.deaden, ho, hc, List.map_nil]
  rw [← ho, ← hc]

/-! ## Taking a trap -/

/-- The state that counts a trap (R327). -/
def counted (s : State) : State := (s.count 0x14).countCtx s.w.ctx 0x107

theorem counted_eq (s : State) : counted s = { s with smp := (counted s).smp } := by
  unfold counted State.countCtx
  split <;> rfl

theorem counted_w (s : State) : (counted s).w = s.w := by rw [counted_eq]; rfl

/-- A warp without a version of its task has none to discard. -/
theorem discardTask_none {s : State} (h : s.w.tskVers = false) : s.discardTask = s := by
  simp [State.discardTask, h]

/-- The warp that has entered the handler at header `h`, whose word is `hw`. -/
def handling (w : Warp) (t : TrapInfo) (epc h hw : Word) (clk : Nat) : Warp :=
  { w with epc := epc, taddr := t.addr, tcause := t.tcause true, tst := w.saveState, part := 32
           lastIssue := clk, ready0 := clk, urgent := false }.begin_ h hw

theorem enterHandler_eq {s r : State} {t : TrapInfo} {epc hw : Word}
    (hf : s.fetchWord s.w.ctx ((s.ctx s.w.ctx).tvec &&& ~~~7) = .word hw r) (hh : headerOk hw = true) (hn :
        hdrHandler hw = true) :
    s.enterHandler t epc =
      (r.setW (handling s.w t epc ((s.ctx s.w.ctx).tvec &&& ~~~7) hw s.clk)).deaden (hdrLive hw) := by
  simp only [State.enterHandler, hf, hh, hn]
  rfl

/-- A trap that its class and its context let into the handler, of a warp with no try open and no version. -/
theorem takeTrap_handles {s r : State} {t : TrapInfo} {epc hw : Word} (ht : s.w.tryOpen = false) (hi : s.w.inh = false)
    (hv : s.w.tskVers = false) (hc : clsHandler (t.uncorr s.w).cls = true) (hon : (s.ctx s.w.ctx).tvec.getLsbD 0 = true)
    (hf : (counted s).fetchWord s.w.ctx ((s.ctx s.w.ctx).tvec &&& ~~~7) = .word hw r) (hh : headerOk hw = true)
    (hn : hdrHandler hw = true) :
    s.takeTrap t epc =
      (r.setW (handling s.w (t.uncorr s.w) epc ((s.ctx s.w.ctx).tvec &&& ~~~7) hw s.clk)).deaden (hdrLive hw) := by
  have hw : (counted s).w = s.w := counted_w s
  have hx : (counted s).ctx s.w.ctx = s.ctx s.w.ctx := by rw [counted_eq]; rfl
  have hk : (counted s).clk = s.clk := by rw [counted_eq]
  have hb : bit (s.ctx s.w.ctx).tvec.toNat 0 = true := by rw [Integers.bit_eq_testBit]; exact hon
  have he := enterHandler_eq (s := counted s) (t := t.uncorr s.w) (epc := epc) (by rw [hw, hx]; exact hf) hh hn
  rw [hw, hx, hk] at he
  rw [State.takeTrap, if_neg (by rw [ht]; exact Bool.false_ne_true), State.deliverTrap, ← counted]
  simp only [hw, hi, discardTask_none (hw ▸ hv), hx, hc, hb, he]
  rfl

theorem takeTrap_enters {s r : State} {t : TrapInfo} {epc hw : Word} (ht : s.w.tryOpen = false) (hi : s.w.inh = false)
    (hv : s.w.tskVers = false) (hc : clsHandler (t.uncorr s.w).cls = true) (hon : (s.ctx s.w.ctx).tvec.getLsbD 0 = true)
    (hf : (counted s).fetchWord s.w.ctx ((s.ctx s.w.ctx).tvec &&& ~~~7) = .word hw r) (hh : headerOk hw = true)
    (hn : hdrHandler hw = true) (ho : r.ops = []) (hcm : r.cmds = []) :
    s.takeTrap t epc = r.setW (handling s.w (t.uncorr s.w) epc ((s.ctx s.w.ctx).tvec &&& ~~~7) hw s.clk) := by
  rw [takeTrap_handles ht hi hv hc hon hf hh hn]
  exact deaden_idle (s := r.setW _) ho hcm _

/-! ## A trap inside the handler (R301, R302) -/

theorem haltWarp_w (s : State) : ∃ x, s.haltWarp.w = { s.w with status := .halted, wait := x, haltReq := false } :=
  ⟨_, (State.putLaunch_w ..).trans (State.w_setW ..)⟩

theorem haltWarp_launch (s : State) : (s.haltWarp.launch s.w.launch).halted = true := by
  simp only [State.haltWarp, State.launch_putLaunch_same]

theorem abandon_w (s : State) (v : Warp) : (s.abandon v).w = s.w := rfl

theorem halt_setW (s : State) (v : Warp) :
    (∃ x, (s.setW v).halt.w = { v with status := .halted, wait := x, haltReq := false }) ∧
    ((s.setW v).halt.launch v.launch).halted = true := by
  have hw : ((s.setW v).abandon (s.setW v).w).w = v := (abandon_w ..).trans (State.w_setW ..)
  rw [State.halt]
  generalize (s.setW v).abandon (s.setW v).w = u at hw
  subst hw
  exact ⟨haltWarp_w u, haltWarp_launch u⟩

theorem takeTrap_inHandler {s : State} {t : TrapInfo} {epc : Word} (ht : s.w.tryOpen = false) (hi : s.w.inh = true)
    (hv : s.w.tskVers = false) : s.takeTrap t epc = (counted s).doubleTrap (t.uncorr s.w) epc := by
  have hw : (counted s).w = s.w := counted_w s
  rw [State.takeTrap, if_neg (by rw [ht]; exact Bool.false_ne_true), State.deliverTrap, ← counted]
  simp only [hw, hi, discardTask_none (hw ▸ hv)]
  rfl

/-- Settles O9. -/
theorem trapsEnter : Obligations.TrapsEnter := by
  unfold Obligations.TrapsEnter
  refine ⟨fun s r t epc hw ht hi hv hc hon hf hh hn hcur ho hcm => ?_, fun s t epc ht hi hv => ?_⟩
  · have hu := takeTrap_enters ht hi hv hc hon hf hh hn ho hcm (epc := epc)
    refine ⟨(handling s.w (t.uncorr s.w) epc ((s.ctx s.w.ctx).tvec &&& ~~~7) hw s.clk).v, _, hu, (Kept.refl r).setW _,
        ?_, fun row l hl => ?_⟩
    · rw [State.w_setW]
      rfl
    · rw [State.w_setW]
      exact clearDead_v1 _ _ row l hl
  · rw [takeTrap_inHandler ht hi hv, State.doubleTrap, counted_w]
    obtain ⟨⟨x, hx⟩, hl⟩ := halt_setW (counted s) _
    rw [hx]
    exact ⟨rfl, rfl, rfl, rfl, rfl, hl⟩

/-! ## RTT (R300) -/

theorem held_eq (e : SEl) : ({ val := if e.psn then 0 else e.val, psn := e.psn } : SEl) = e.held := by
  obtain ⟨x, psn⟩ := e
  cases psn <;> rfl

theorem setS1_s1 (w : Warp) (k j : Nat) (x : Word) (psn : Bool) :
    (w.setS1 k x psn).s1 j = if j = k then { val := if psn then 0 else x, psn := psn } else w.s1 j := by
  simp [Warp.setS1, Warp.s1, look_put, eq_comm]

theorem resumeAt_inside {s r : State} {hdr a hw : Word} (hf : s.fetchWord s.w.ctx hdr = .word hw r) (hh : headerOk hw = true)
    (hb : inBlock hdr (hdrLen hw) a = true) : s.resumeAt hdr a = .inside hw r := by
  simp only [State.resumeAt, hf, hh, hb]
  rfl

/-- The warp that the return leaves. -/
def returned (w : Warp) (hdr hw pc : Word) : Warp := { w.restoreState with hdr := hdr, hw := hw, pc := pc, atHead := false }

theorem returned_eq (w : Warp) (hdr hw pc : Word) : returned w hdr hw pc =
    { w with
      exm := w.tst.exm, part := w.tst.part, flg := w.tst.flg, p := w.tst.p, tst := {}
      rstk := w.rstk.drop (w.rstk.length - w.tst.rdepth), cstk := w.cstk.drop (w.cstk.length - w.tst.cdepth)
      reread := w.rstk.any fun e => decide (e.hw = 0)
      tcause := w.tcause &&& ~~~0x40000000, hdr := hdr, hw := hw, pc := pc, atHead := false, s := (returned w hdr hw pc).s } := by
  simp only [returned, Warp.restoreState, Warp.setS1]

theorem returned_s1 (w : Warp) (hdr hw pc : Word) (j : Nat) :
    (returned w hdr hw pc).s1 j = if j = 62 then w.tst.s62.held else if j = 63 then w.tst.s63.held else w.s1 j := by
  show ((w.setS1 62 w.tst.s62.val w.tst.s62.psn).setS1 63 w.tst.s63.val w.tst.s63.psn).s1 j = _
  rw [setS1_s1, setS1_s1]
  by_cases h3 : j = 63
  · subst h3
    rw [held_eq]
    rfl
  · rw [if_neg h3, if_neg h3, held_eq]

theorem execRtt_inside {s r : State} {o : OpO} {hw : Word} (hr : Runs (.rtt o) r) (ht : s.w.tryOpen = false)
    (hf : s.fetchWord s.w.ctx s.w.tst.hdr = .word hw r) (hh : headerOk hw = true)
    (hb : inBlock s.w.tst.hdr (hdrLen hw) s.w.epc = true) :
    exec (.rtt o) s = .next ((r.issued (.rtt o)).setW (returned (r.issued (.rtt o)).w s.w.tst.hdr hw s.w.epc)) := by
  have h0 : exec (.rtt o) s = execRtt o s := rfl
  rw [h0, execRtt, if_neg (by rw [ht]; simp)]
  simp only [resumeAt_inside hf hh hb]
  exact issue_runs hr {} (fun t => t.setW (returned t.w s.w.tst.hdr hw s.w.epc)) rfl rfl (Or.inr rfl) rfl

/-- Settles O10. -/
theorem returnFromHandler : Obligations.ReturnFromHandler := by
  unfold Obligations.ReturnFromHandler
  intro s r o hw hr hrw hclk ht hf hh hb
  have hw1 : (r.issued (.rtt o)).w = s.w1 := by
    rw [State.issued_w, State.w1, hrw, hclk]
  refine ⟨_, execRtt_inside hr ht hf hh hb, (r.issued_kept (.rtt o)).setW _, ?_, fun j => ?_⟩
  · rw [State.w_setW, hw1]
    exact returned_eq s.w1 ..
  · rw [State.w_setW, hw1]
    exact returned_s1 s.w1 ..

end Sys2Proof.Proofs.Handler
end

section
/-! Read-modify-writes, the exact sums' reads, cache control, fences and prefetches (R126, R207 to R216, R410 to R414). -/

namespace Sys2Proof.Proofs.Rmw

open Sys2Proof Sys2Proof.Machine Sys2Proof.Proofs.Arms Sys2Proof.Proofs.Issue Sys2Proof.Proofs.Idle Sys2Proof.Proofs.Accesses

/-! ## Operands -/

theorem Clean.sub {s : State} {pr : Pred} {ops some : List (Opnd × Nat)} (h : Clean s pr ops) (hs : ∀ x ∈ some, x ∈ ops) :
    Clean s pr some := by
  obtain ⟨hp, ha⟩ := h
  refine ⟨hp, ?_⟩
  simp only [Warp.anyPoison, Bool.and_eq_false_iff, List.any_eq_false] at ha ⊢
  exact ha.imp_right fun h x hx => h x (hs x hx)

theorem rmwPoison_clean {s : State} {pr : Pred} {f : RmwForm}
    (h : Clean s pr ([(f.addr, if f.spad then 1 else 2), (f.b, if f.wide then 2 else 1)] ++
      if f.cas then [(f.d.getD (.l 0), if f.wide then 2 else 1)] else [])) : s.rmwPoison pr f = (none, s) := by
  have ha := consumes_of_sound (Clean.sub (some := [(f.addr, if f.spad then 1 else 2)]) h (by simp)).2 5
  have hb := consumes_of_sound (Clean.sub (some := [(f.b, if f.wide then 2 else 1)]) h (by simp)).2 f.bCause
  have hc : (if f.cas then s.consumes 5 [(f.d.getD (.l 0), if f.wide then 2 else 1)] (s.w.holds pr) else none) = none := by
    cases hf : f.cas with
    | false => rfl
    | true => exact consumes_of_sound (Clean.sub (some := [(f.d.getD (.l 0), if f.wide then 2 else 1)]) h (by simp [hf])).2 5
  simp only [State.rmwPoison, consumes_pred h.1, ha, hb, hc]
  rfl

theorem taskStall_none {s : State} (h : s.w.tskVer = 0 ∨ (look {} s.vers s.w.tskVer).irrev = true) : s.taskStall = none := by
  refine if_neg fun hc => ?_
  obtain ⟨h0, hi⟩ := hc
  exact h.elim h0 fun h1 => hi h1

/-- The destination of a read-modify-write is a v register. -/
theorem rmwForm_dst {i : Instr} {s : State} {pr : Pred} {f : RmwForm} (hf : rmwForm i = some (pr, f)) (h : Runs i s) {d : Opnd}
    (hd : f.d = some d) : ∃ k, d = .v k := by
  have key (o : OpO) (a b c : Nat) (x : cls4 1 a b c o = true) : ∃ k, o.d = .v k := by
    simp only [cls4, inCls, Bool.and_eq_true] at x
    obtain ⟨⟨⟨hx, -⟩, -⟩, -⟩ := x
    generalize o.d = d at hx
    cases d with
    | v k => exact ⟨k, rfl⟩
    | _ => simp [Opnd.cls, bit] at hx
  have hk := Integers.fieldsOk_of_runs h
  unfold rmwForm at hf
  split at hf <;> cases hf <;> cases hd <;>
    (simp only [fieldsOk, Bool.and_eq_true, and_assoc] at hk; exact key _ _ _ _ hk.1)

/-! ## The start of a read-modify-write -/

theorem memLoc_eq_goesTo (s : State) (need : Need) (a : Nat) : s.memLoc need (BitVec.ofNat 64 a) = s.goesTo need { n := a } := rfl

/-- A scratchpad offset that is not negative. -/
theorem spadLoc_nat (s : State) (a : Nat) :
    s.spadLoc false a = match s.spadAt s.w s.cid a with | none => .error 3 | some p => .ok p := by
  simp only [State.spadLoc, if_neg (show ¬ ((a : Int) < 0) by omega), Bool.false_eq_true, if_false,
    Int.toNat_natCast] <;> rfl

theorem rmwAccs_eq (s : State) (f : RmwForm) {pr : Pred} (h0 : s.w.holds pr ≠ 0) :
    s.rmwAccs f (if f.once then (if s.w.holds pr = 0 then [] else [0]) else lanesOf (s.w.holds pr)) = f.accs pr s := by
  rw [if_neg h0]
  refine List.map_congr_left fun l _ => ?_
  simp only [State.goesToPad, spadLoc_nat, memLoc_eq_goesTo, Bool.false_eq_true, if_false]
  cases s.spadAt s.w s.cid (f.adr s.w l) <;> rfl

theorem startRmw_starts {s t : State} {f : RmwForm} {h : W32} {accs : List Acc} (hk : Kept s t) (hw : t.w = s.w1) (h0 : h ≠ 0)
    (hd : ∀ d, f.d = some d → ∃ k, d = .v k) :
    ∃ u, t.startRmw f h accs = u.advance 1 ∧
      Kept (s.issues { noOp with kind := .rmw f.op f.wide f.signed f.d, scope := f.ctl % 8, acq := bit f.ctl 3
                                 rel := bit f.ctl 4, prom := bit f.ctl 5 } accs (if f.once then h else 0)) u ∧
      match f.d with
      | none => u.w = s.w1
      | some d => Pends s.w1 u.w d (if d.isS then 1 else if f.wide then 2 else 1) h := by
  let op : Op := { noOp with
    kind := .rmw f.op f.wide f.signed f.d, accs := accs, scope := f.ctl % 8, lanes := if f.once then h else 0
    acq := bit f.ctl 3, rel := bit f.ctl 4, prom := bit f.ctl 5 }
  cases hfd : f.d with
  | none =>
    refine ⟨t.pushOp { op with kind := .rmw f.op f.wide f.signed none }, ?_, ?_, hw⟩
    · simp only [State.startRmw, hfd, if_neg h0]
      rfl
    · exact Kept.pushOp hk (by rw [hw]; rfl) (by rw [hw]; rfl) (by rw [hw]; rfl) { op with kind := .rmw f.op f.wide f.signed none }
  | some d =>
    obtain ⟨k, rfl⟩ := hd d hfd
    have hn : (if f.bits = 64 then 2 else 1) = if f.wide then 2 else 1 := by
      unfold RmwForm.bits
      cases f.wide <;> rfl
    have hp : Pends s.w1 ((lanesOf h).foldl (fun t l => t.write f.bits (.v k) l poisonVal) s.w1) (.v k)
        (if f.wide then 2 else 1) h :=
      pends_v (fun t l hl => hn ▸ poisonsLane_write t f.bits k l hl) s.w1 h
    generalize hW : (lanesOf h).foldl (fun t l => t.write f.bits (.v k) l poisonVal) s.w1 = w' at hp
    have hw' : (t.setW w').w = w' := t.w_setW w'
    have hu : ((t.setW w').pushOp { op with kind := .rmw f.op f.wide f.signed (some (.v k)) }).w = w' := hw'
    refine ⟨(t.setW w').pushOp { op with kind := .rmw f.op f.wide f.signed (some (.v k)) }, ?_, ?_, ?_⟩
    · simp only [State.startRmw, hfd, if_neg h0, hw, hW]
      rfl
    · exact Kept.pushOp (hk.setW w') (by rw [hw', hp.1]; rfl) (by rw [hw', hp.1]; rfl) (by rw [hw', hp.1]; rfl)
        { op with kind := .rmw f.op f.wide f.signed (some (.v k)) }
    · rw [hu]
      exact hp

/-- Settles O28. -/
theorem readModifyWrites : Obligations.ReadModifyWrites := by
  unfold Obligations.ReadModifyWrites
  intro i s pr f hf h
  obtain ⟨u, hu, hrest⟩ := startRmw_starts (accs := f.accs pr s) (s.issued_kept i) (s.issued_w i) h.some_
    (fun d hd => rmwForm_dst hf h.runs hd)
  refine ⟨u, ?_, hrest⟩
  rw [exec_of_rmwForm hf, rmwIssue, tryless_closed h.try_, rmwPoison_clean h.clean]
  dsimp only
  rw [rmwAccs_eq s f h.some_, if_neg h.some_, taskStall_none h.task]
  refine (issue_runs h.runs _ (fun t => t.startRmw f (s.w.holds pr) (f.accs pr s)) ?_ ?_ ?_ ?_).trans
      (congrArg Host.Outcome.next hu)
  · simp only [h.regs, h.room, Option.isNone_none, Bool.and_true, Bool.or_true]
  · exact misaligned_none fun l hl hm => by exact_mod_cast h.aligned l ⟨hl, hm⟩
  · cases f.watch with
    | false => exact .inr rfl
    | true => exact watch_of_unwatched h.unwatched ..
  · refine firstLane_none fun l hl hm => ?_
    have ht := h.there l ⟨hl, hm⟩
    cases hs : f.spad with
    | true =>
      rw [hs, if_pos rfl] at ht
      obtain ⟨p, hp⟩ := ht
      rw [spadLoc_nat] at hp
      cases hx : s.spadAt s.w s.cid (f.adr s.w l) with
      | none => rw [hx] at hp; cases hp
      | some q => rfl
    | false =>
      rw [hs] at ht
      obtain ⟨ia, hia⟩ := ht
      simp only [memLoc_eq_goesTo, State.goesTo, hia, Bool.false_eq_true, if_false]

/-! ## XFIN (R414) -/

theorem xfin_dst {o : OpO} {s : State} (h : Runs (.xfin o) s) : (∃ k, o.d = .v k) ∨ ∃ k, o.d = .s k := by
  have hk := Integers.fieldsOk_of_runs h
  simp only [fieldsOk, cls4, Bool.and_eq_true, and_assoc] at hk
  have hx : inCls 3 o.d = true := hk.1
  generalize o.d = d at hx
  cases d with
  | v k => exact .inl ⟨k, rfl⟩
  | s k => exact .inr ⟨k, rfl⟩
  | _ => simp [inCls, Opnd.cls, bit] at hx

/-- The registers that XFIN poisons until its sum arrives. -/
def sumPending (o : OpO) (w : Warp) (h : W32) : Warp :=
  (if o.d.isS then [0] else lanesOf h).foldl (fun u l => u.write (if bits o.m.toNat 2 0 = 0 then 64 else 32) o.d l poisonVal) w

theorem sumPending_pends {o : OpO} (hd : (∃ k, o.d = .v k) ∨ ∃ k, o.d = .s k) (w : Warp) {h : W32} (h0 : h ≠ 0) :
    Pends w (sumPending o w h) o.d (sumRegs o) h := by
  unfold sumPending sumRegs
  rcases hd with ⟨k, hk⟩ | ⟨k, hk⟩ <;> rw [hk]
  · refine pends_v (fun t l hl => ?_) w h
    have := poisonsLane_write t (if bits o.m.toNat 2 0 = 0 then 64 else 32) k l hl
    by_cases hb : bits o.m.toNat 2 0 = 0
    · simpa [hb, Opnd.isS] using this
    · simpa [hb, Opnd.isS] using this
  · exact pends_s h0 (poisonsS_write w (if bits o.m.toNat 2 0 = 0 then 64 else 32) k 0)

/-- The read of the accumulators, as an outstanding operation. -/
def sumOp (o : OpO) (s : State) : Op :=
  { noOp with kind := .xfin (bits o.m.toNat 2 0) (bits o.m.toNat 5 3) o.d, accs := sumAccs o s, scope := o.c.num % 8
              acq := bit o.c.num 3, fresh := true, lanes := if o.d.isS then s.w.holds o.pr else 0 }

theorem memLoc_congr {s t : State} (hc : t.ctxs = s.ctxs) (hw : t.w.ctx = s.w.ctx) (need : Need) (a : Word) :
    t.memLoc need a = s.memLoc need a := by
  simp only [State.memLoc, State.ctx, hc, hw]

theorem issued_memLoc (i : Instr) (s : State) (need : Need) (a : Word) : (s.issued i).memLoc need a = s.memLoc need a :=
  memLoc_congr (by rw [(s.issued_kept i).rest]) (by rw [State.issued_w]; rfl) need a

theorem execXfin_runs {s : State} {o : OpO} (h : Runs (.xfin o) s) (ht : s.w.tryOpen = false) (hc : Clean s o.pr [(o.a, 2)])
    (h0 : s.w.holds o.pr ≠ 0) (hf : s.operandsFree (.xfin o) [o.d] (sumRegs o) (s.w.holds o.pr) = true)
    (hr : s.roomFor true (sumAccs o s) = true) (ha : ∀ l, s.w.takes o.pr l → (s.w.read 64 o.a l).n % 32 = 0) :
    exec (.xfin o) s = .next (State.advance (((s.issued (.xfin o)).setW
      (sumPending o (s.issued (.xfin o)).w (s.w.holds o.pr))).pushOp (sumOp o s)) 1) := by
  have he : exec (.xfin o) s = execXfin o s := rfl
  rw [he, execXfin]
  dsimp only
  rw [tryless_closed ht]
  refine (warpWide_runs h o.pr _ 5 _ _ (firstPoison_clean hc 3 5) h0 ?_ ?_ (.inr rfl) rfl).trans ?_
  · have hf' := hf
    unfold sumRegs at hf'
    rw [Bool.and_eq_true]
    exact ⟨hf', hr⟩
  · exact misaligned_none fun l hl hm => by exact_mod_cast ha l ⟨hl, hm⟩
  · simp only [issued_memLoc]
    rfl

/-- Settles O29. -/
theorem sumReads : Obligations.SumReads := by
  unfold Obligations.SumReads
  intro s o h ht hc h0 hf hr ha
  have hi : (s.issued (.xfin o)).w = s.w1 := s.issued_w (.xfin o)
  have hp := sumPending_pends (xfin_dst h) s.w1 h0
  have hx := execXfin_runs h ht hc h0 hf hr ha
  rw [hi] at hx
  have hw := (s.issued (.xfin o)).w_setW (sumPending o s.w1 (s.w.holds o.pr))
  refine ⟨_, hx, ?_, ?_⟩
  · exact hw.symm ▸ hp
  · generalize sumPending o s.w1 (s.w.holds o.pr) = w' at hp hw
    have e := hp.1
    exact Kept.pushOp ((s.issued_kept _).setW w') (by rw [hw, e]; rfl) (by rw [hw, e]; rfl) (by rw [hw, e]; rfl) (sumOp o s)

/-! ## Cache control, fences and prefetches (R126, R212, R216) -/

/-- Where a CCTL's lane goes: to the line of its address. -/
theorem wholeLine_goesTo (s : State) (need : Need) (a : Val) :
    (if a.psn then .miss true else (s.memLoc need (BitVec.ofNat 64 a.n)).wholeLine) = (s.goesTo need a).wholeLine := by
  cases h : a.psn <;> simp only [State.goesTo, h, if_true, Bool.false_eq_true, if_false] <;> rfl

theorem exec_of_cctlForm {i : Instr} {x : OpM × OpKind} (h : cctlForm i = some x) (s : State) :
    ∃ inv wb, exec i s = cctl i x.1 inv wb s ∧ x.2 = .cctl inv wb (decide (x.1.scope = 4)) := by
  unfold cctlForm at h
  split at h <;> cases h
  · exact ⟨true, false, rfl, rfl⟩
  · exact ⟨false, true, rfl, rfl⟩
  · exact ⟨true, true, rfl, rfl⟩

theorem lineAccs_eq (o : OpM) (s : State) :
    ((lanesOf (s.w.holds o.pr)).map fun l =>
      { lane := l, va := BitVec.ofNat 64 (s.w.va o l).n, n := 128
        loc := if (s.w.va o l).psn then .miss true else (s.memLoc {} (BitVec.ofNat 64 (s.w.va o l).n)).wholeLine : Acc }) =
      lineAccs o s := by
  refine List.map_congr_left fun l _ => ?_
  rw [wholeLine_goesTo]
  cases s.goesTo {} (s.w.va o l) <;> rfl

theorem cctl_starts {i : Instr} {s : State} {x : OpM × OpKind} (hx : cctlForm i = some x) (h : Runs i s) (ht :
    s.w.tryOpen = false)
    (h0 : s.w.holds x.1.pr ≠ 0) (hr : s.roomFor false (lineAccs x.1 s) = true) :
    ∃ t, exec i s = .next (t.advance 1) ∧ Kept (s.issues { noOp with kind := x.2 } (lineAccs x.1 s)) t ∧ SameWarp s t ∧
      t.w.v = s.w.v ∧ t.w.s = s.w.s ∧ t.w.p = s.w.p ∧ t.w.flg = s.w.flg := by
  obtain ⟨inv, wb, he, hk⟩ := exec_of_cctlForm hx s
  obtain ⟨hkept, g, a, b, hw⟩ := issued_readPending i s [(baseOf x.1, 2)] (s.w.holds x.1.pr)
  let op : Op := { noOp with kind := .cctl inv wb (decide (x.1.scope = 4)), accs := lineAccs x.1 s }
  have hu : (((s.issued i).readPending [(baseOf x.1, 2)] (s.w.holds x.1.pr)).pushOp op).w = s.w.as s.clk g a b := hw
  refine ⟨((s.issued i).readPending [(baseOf x.1, 2)] (s.w.holds x.1.pr)).pushOp op, ?_, ?_, ?_, ?_⟩
  · rw [he, cctl]
    dsimp only
    rw [tryless_closed ht, lineAccs_eq]
    refine (issue_runs h _ _ ?_ rfl (.inr rfl) rfl).trans ?_
    · rw [hr, Bool.or_true]
    · rw [if_neg h0]
  · rw [hk]
    exact Kept.pushOp hkept (by rw [hw]; rfl) (by rw [hw]; rfl) (by rw [hw]; rfl) op
  · unfold SameWarp
    rw [hu]
    rfl
  · rw [hu]
    exact ⟨rfl, rfl, rfl, rfl⟩

theorem fence_starts {s : State} {o : OpO} (h : Runs (.fence o) s) (ht : s.w.tryOpen = false) (hq : s.w.psnd o.pr = 0)
    (h0 : s.w.holds o.pr ≠ 0) :
    ∃ t, exec (.fence o) s = .next ((t.fences t.cur).advance 1) ∧ t.w = s.w1 ∧
      Kept (s.issues { noOp with scope := o.m.toNat % 8, acq := decide (bits o.m.toNat 4 3 ≠ 2)
                                 rel := decide (bits o.m.toNat 4 3 ≠ 1) } []) t := by
  have hw : (s.issued (.fence o)).w = s.w1 := s.issued_w _
  let op : Op := { noOp with scope := o.m.toNat % 8, acq := decide (bits o.m.toNat 4 3 ≠ 2), rel := decide (bits o.m.toNat 4 3 ≠ 1) }
  refine ⟨(s.issued (.fence o)).pushOp op, ?_, hw, Kept.pushOp (s.issued_kept _)
      (by rw [hw]; rfl) (by rw [hw]; rfl) (by rw [hw]; rfl) op⟩
  have he : exec (.fence o) s = execFence o s := rfl
  rw [he, execFence]
  dsimp only
  rw [tryless_closed ht, consumes_pred hq]
  refine (issue_runs h {} _ rfl rfl (.inr rfl) rfl).trans ?_
  rw [if_neg h0]
  rfl

/-- The lines on their way are not among what an issue keeps apart. -/
theorem Kept.putPrefs {s t : State} (h : Kept s t) (ps : List Pref) : Kept { s with prefs := ps } { t with prefs := ps } := by
  refine ⟨h.others, h.cores, ?_⟩
  obtain ⟨w, c, n, e⟩ : ∃ w c n, t = { s with warps := w, cores := c, smp := { s.smp with cnt := n } } := ⟨_, _, _, h.rest⟩
  subst e
  rfl

theorem exec_of_prefForm {i : Instr} {o : OpM} {l1 : Bool} (h : prefForm i = some (o, l1)) (s : State) :
    exec i s = prefetch i o l1 s := by
  unfold prefForm at h
  split at h <;> cases h <;> rfl

/-- The line of a lane that a prefetch puts on its way. -/
def prefLine (s : State) (o : OpM) (l1 : Bool) (l : Nat) : Option Pref :=
  if (s.w.va o l).psn then none
  else match s.memLoc .load (BitVec.ofNat 64 (s.w.va o l).n) with
    | .mem ia => some { core := s.cid, ctx := s.w.ctx, va := BitVec.ofNat 64 (s.w.va o l).n, ia := ia, l1 := l1 }
    | _ => none

theorem prefetch_eq (i : Instr) (o : OpM) (l1 : Bool) (s : State) :
    prefetch i o l1 s = issue i s {} fun t =>
      State.advance { t with prefs := t.prefs ++ (lanesOf (t.w.holds o.pr)).filterMap (prefLine t o l1) } 1 := rfl

theorem prefLine_eq (s : State) (o : OpM) (l1 : Bool) : (lanesOf (s.w.holds o.pr)).filterMap
    (prefLine s o l1) = prefsOf o l1 s := by
  refine congrArg (fun f => (lanesOf (s.w.holds o.pr)).filterMap f) (funext fun l => ?_)
  unfold prefLine State.goesTo State.memLoc
  cases (s.w.va o l).psn <;> cases (s.ctx s.w.ctx).translate .load (BitVec.ofNat 64 (s.w.va o l).n) <;> rfl

theorem prefLine_issued (i : Instr) (s : State) (o : OpM) (l1 : Bool) : prefLine (s.issued i) o l1 = prefLine s o l1 := by
  have hc : (s.issued i).cid = s.cid := by rw [State.cid, (s.issued_kept i).rest]; rfl
  have hw : (s.issued i).w = s.w1 := s.issued_w i
  funext l
  simp only [prefLine, issued_memLoc, hc, hw]
  rfl

theorem prefetch_goes {i : Instr} {s : State} {o : OpM} {l1 : Bool} (hf : prefForm i = some (o, l1)) (h : Runs i s) :
    Goes i s { s with prefs := s.prefs ++ prefsOf o l1 s } s.w1 := by
  have hk := s.issued_kept i
  have hw : (s.issued i).w = s.w1 := s.issued_w i
  have hp : (s.issued i).prefs = s.prefs := by rw [hk.rest]
  have hh : (s.issued i).w.holds o.pr = s.w.holds o.pr := by rw [hw]; rfl
  refine ⟨{ s.issued i with prefs := s.prefs ++ prefsOf o l1 s }, ?_, Kept.putPrefs hk _, hw⟩
  have hi : i.words = 1 := by
    unfold prefForm at hf
    split at hf <;> cases hf <;> rfl
  rw [exec_of_prefForm hf, prefetch_eq, hi]
  refine (issue_runs h {} _ rfl rfl (.inr rfl) rfl).trans ?_
  dsimp only
  rw [prefLine_issued, hh, prefLine_eq, hp]

theorem servePrefs_one {s : State} {x : Pref} {p : Spot} (hs : s.prefs = [x]) (hl : x.l1 = false)
    (hp : ({ s with prefs := [] } : State).prepare (.by .load x.ctx) x.ia = ({ s with prefs := [] }, .spot p)) :
    s.servePrefs = { s with prefs := [] }.fillL2 p p.l2 := by
  simp only [State.servePrefs, hs, List.foldl_cons, List.foldl_nil, State.tryPref, hp, hl, Bool.false_and,
      Bool.false_eq_true, if_false]
  rfl

/-- Settles O27. -/
theorem cacheAndFence : Obligations.CacheAndFence :=
  ⟨fun _ _ _ hx h ht h0 hr => cctl_starts hx h ht h0 hr, fun _ _ h ht hq h0 => fence_starts h ht hq h0,
    fun _ _ _ _ hf h => prefetch_goes hf h, fun _ _ _ hs hl hp => servePrefs_one hs hl hp⟩

end Sys2Proof.Proofs.Rmw
end

section
/-! Instructions that act once for their warp (R160, R271): how they reach their effect or wait, what their results and
statuses change,
and the smallest of them: PARTSET and EXMSET (R167, R168), WAIT and the tag instructions (R205, R280 to R282). -/

namespace Sys2Proof.Proofs.Wide

open Sys2Proof Sys2Proof.Machine Sys2Proof.Proofs.Arms Sys2Proof.Proofs.Issue Sys2Proof.Proofs.Rmw

/-! ## Reaching the effect, or waiting -/

section
variable {i : Instr} {s : State} {pr : Pred} {ops : List (Opnd × Nat)} {cause : BitVec 8} {c : Checks} {eff : State → State}

theorem warpWide_acts (h : Acts i s pr ops) (hr : c.ready = true) (he : c.early = none)
    (hw : (s.w.skipWp = true ∧ s.w.skipPc = s.w.pc) ∨ c.watch = none) (hl : c.late = none) :
    warpWide i pr ops cause s c eff = .next (eff (s.issued i)) :=
  warpWide_runs h.1 pr ops cause c eff (firstPoison_clean h.2.1 3 cause) h.2.2 hr he hw hl

/-- An instruction that is not ready sends what it asks for and stays where it is. -/
theorem issue_waits (h : Runs i s) (hr : c.ready = false) : issue i s c eff = .next (c.sent.getD s) := by
  obtain ⟨h1, h2, -⟩ := h
  have hh : (s.w.haltReq && !s.w.inh && c.early.isNone) = false := by rw [h2]; rfl
  simp only [issue, h1, hh, hr, Bool.false_eq_true, if_false, Bool.not_false, if_true]

theorem warpWide_waits (h : Acts i s pr ops) (hr : c.ready = false) : warpWide i pr ops cause s c eff = .next
    (c.sent.getD s) := by
  simp only [warpWide, firstPoison_clean h.2.1 3 cause, if_neg h.2.2]
  exact issue_waits h.1 hr

/-- The warp-wide instructions whose effect, from the state that the issue leaves, is `t` behind itself. -/
theorem goes_of_acts {u t : State} {w : Warp} (h : Acts i s pr ops) (hx : exec i s = warpWide i pr ops cause s c eff)
    (hr : c.ready = true) (he : c.early = none) (hw : (s.w.skipWp = true ∧ s.w.skipPc = s.w.pc) ∨ c.watch = none)
    (hl : c.late = none) (ht : eff (s.issued i) = t.advance i.words) (hk : Kept u t) (hu : t.w = w) : Goes i s u w :=
  ⟨t, by rw [hx, warpWide_acts h hr he hw hl, ht], hk, hu⟩

/-- One that only changes its warp. -/
theorem goes_of_setW {f : Warp → Warp} (h : Acts i s pr ops) (hx : exec i s = warpWide i pr ops cause s c eff)
    (hr : c.ready = true) (he : c.early = none) (hl : c.late = none) (hw : c.watch = none)
    (ht : eff (s.issued i) = ((s.issued i).setW (f (s.issued i).w)).advance i.words) : Goes i s s (f s.w1) :=
  goes_of_acts h hx hr he (.inr hw) hl ht ((s.issued_kept i).setW _) ((State.w_setW ..).trans (congrArg f (s.issued_w i)))

end

/-! ## Results and statuses -/

theorem setP1_frame (w : Warp) (k l : Nat) (x b : Bool) : w.setP1 k l x b = { w with p := (w.setP1 k l x b).p } := by
  unfold Warp.setP1
  split <;> rfl

theorem foldl_setP1 (k : Nat) (x : Bool) (L : List Nat) (hL : ∀ l ∈ L, l < 32) (w : Warp) :
    L.foldl (fun t l => t.setP1 k l x false) w = { w with p := (L.foldl (fun t l => t.setP1 k l x false) w).p } ∧
    ∀ j l, l < 32 → (L.foldl (fun t l => t.setP1 k l x false) w).p1 j l =
      if j = k ∧ j ≠ 7 ∧ l ∈ L then { val := x } else w.p1 j l := by
  induction L generalizing w with
  | nil => exact ⟨rfl, fun j l _ => by simp⟩
  | cons a L ih =>
    obtain ⟨i1, i2⟩ := ih (fun l hl => hL l (List.mem_cons_of_mem _ hl)) (w.setP1 k a x false)
    refine ⟨by rw [List.foldl_cons, i1, setP1_frame], fun j l hl => ?_⟩
    rw [List.foldl_cons, i2 j l hl, Warp.p1_setP1 _ _ _ _ _ _ _ (hL a List.mem_cons_self) hl, if_neg Bool.false_ne_true,
      ite_join]
    refine ite_of_iff ?_
    rw [List.mem_cons]
    grind

theorem setStatus_is (w : Warp) (m : W32) (k : BitVec 8) (x : Bool) : StatusIs w (w.setStatus m (.p k) x) k m x := by
  have hn : decide ((Bool.n x) % 2 = 1) = x := by cases x <;> rfl
  have he : w.setStatus m (.p k) x = (lanesOf m).foldl (fun t l => t.setP1 k.toNat l x false) w := by
    simp only [Warp.setStatus, Warp.write, hn]
  obtain ⟨h1, h2⟩ := foldl_setP1 k.toNat x (lanesOf m) (fun l hl => (mem_lanesOf.mp hl).1) w
  rw [← he] at h1 h2
  refine ⟨h1, fun j l hl => (h2 j l hl).trans (ite_of_iff ?_)⟩
  rw [mem_lanesOf]
  grind

theorem foldl_setV1 (k : Nat) (x : W32) (L : List Nat) (hL : ∀ l ∈ L, l < 32) (w : Warp) :
    L.foldl (fun t l => t.setV1 k l x false) w = { w with v := (L.foldl (fun t l => t.setV1 k l x false) w).v } ∧
    ∀ row l, l < 32 → (L.foldl (fun t l => t.setV1 k l x false) w).v1 row l =
      if row = k ∧ l ∈ L then { val := x } else w.v1 row l := by
  induction L generalizing w with
  | nil => exact ⟨rfl, fun row l _ => by simp⟩
  | cons a L ih =>
    obtain ⟨i1, i2⟩ := ih (fun l hl => hL l (List.mem_cons_of_mem _ hl)) (w.setV1 k a x false)
    refine ⟨by rw [List.foldl_cons, i1]; rfl, fun row l hl => ?_⟩
    rw [List.foldl_cons, i2 row l hl, Warp.v1_setV1 _ _ _ _ _ _ _ (hL a List.mem_cons_self) hl, if_neg Bool.false_ne_true,
      ite_join]
    refine ite_of_iff ?_
    rw [List.mem_cons]
    grind

theorem wideResult_is (w : Warp) (h : W32) (d : Opnd) (n : Nat) : WideIs w (w.wideResult h d n) d h n := by
  refine ⟨fun k hk => ?_, fun k hk => ?_⟩ <;> subst hk
  · exact ⟨rfl, fun j => (Warp.s1_setS1 ..).trans rfl⟩
  · obtain ⟨h1, h2⟩ := foldl_setV1 k.toNat (BitVec.ofNat 32 n) (lanesOf h) (fun l hl => (mem_lanesOf.mp hl).1) w
    refine ⟨h1, fun row l hl => (h2 row l hl).trans (ite_of_iff ?_)⟩
    rw [mem_lanesOf]
    grind

/-! ## PARTSET and EXMSET (R167, R168) -/

/-- Settles O19. -/
theorem setsLanes : Obligations.SetsLanes := by
  refine ⟨fun s o h hp => ?_, fun s o h => ?_⟩
  · exact goes_of_setW (f := fun w => { w with part := BitVec.ofNat 8 (s.w.read 64 o.a 0).n }) h (exec_partset ..) rfl
      (by simp [hp, State.badField]) rfl rfl rfl
  · exact goes_of_setW (f := fun w => { w with exm := BitVec.ofNat 32 (w.read 64 o.a 0).n &&& w.elig }) h
        (exec_exmset ..) rfl rfl rfl
      rfl rfl

/-! ## WAIT, TAGANY and TAGALL (R44, R205, R280) -/

theorem wait_met {s : State} {o : OpI} (h : Runs (.wait o) s) (hm : waitMet s o.imm = true) : Goes (.wait o) s s s.w1 :=
  goes_of_issue h (exec_wait ..) hm rfl (.inr rfl) rfl rfl (s.issued_kept _) (s.issued_w _)

theorem wait_unmet {s : State} {o : OpI} (h : Runs (.wait o) s) (hm : waitMet s o.imm = false) : exec (.wait o) s = .next s :=
  (exec_wait ..).trans (issue_waits h hm)

/-- A tag wait whose tags no named tile has set leaves the caches. -/
theorem tagged_none {s t : State} (h : Kept s t) (hc : t.cid = s.cid) {m : Word} (hn : (s.core s.cid).tagName &&& m = 0) :
    t.tagged m = t := by
  have ht : (t.core t.cid).tagName = (s.core s.cid).tagName := by rw [hc, h.cores]
  refine if_neg (not_not_intro ?_)
  rw [ht, BitVec.and_assoc, hn]
  exact BitVec.and_zero

theorem issued_cid (i : Instr) (s : State) : (s.issued i).cid = s.cid := by rw [State.cid, (s.issued_kept i).rest]; rfl

theorem tagWait_met {i : Instr} {s : State} {o : OpI} {met : Core → Word → Bool} (h : Acts i s o.pr (tagSrc o)) (hi : i.words = 1)
    (ht : s.w.tryOpen = false) (hx : exec i s = tagWait i o met s) (hn : (s.core s.cid).tagName &&& Machine.tagMask s.w o = 0)
    (hm : met (s.core s.cid) (Machine.tagMask s.w o) = true) : Goes i s s s.w1 := by
  rw [tagWait, tryless_closed ht] at hx
  refine goes_of_acts h hx hm rfl (.inr rfl) rfl ?_ (s.issued_kept i) (s.issued_w i)
  have hw : Machine.tagMask (s.issued i).w o = Machine.tagMask s.w o := by rw [s.issued_w i]; rfl
  rw [hw, tagged_none (s.issued_kept i) (issued_cid i s) hn, hi]

theorem tagWait_unmet {i : Instr} {s : State} {o : OpI} {met : Core → Word → Bool} (h : Acts i s o.pr (tagSrc o))
    (ht : s.w.tryOpen = false) (hx : exec i s = tagWait i o met s)
    (hm : met (s.core s.cid) (Machine.tagMask s.w o) = false) : exec i s = .next s := by
  rw [hx, tagWait, tryless_closed ht]
  exact warpWide_waits h hm

theorem anyMet_iff (c : Core) (m : Word) : anyMet c m = true ↔ c.tagDone &&& m ≠ 0 ∨ m = 0 := by simp [anyMet]

theorem allMet_iff (c : Core) (m : Word) : allMet c m = true ↔ c.tagDone &&& m = m := by simp [allMet]

/-- Settles O30. -/
theorem waits : Obligations.Waits := by
  refine ⟨fun s o h => ⟨wait_met h, wait_unmet h⟩, fun i s o all hi hr ht hc h0 hn => ?_⟩
  have ha : Acts i s o.pr (tagSrc o) := ⟨hr, hc, h0⟩
  unfold tagWaitOf at hi
  split at hi <;> cases hi
  · refine ⟨fun hm => tagWait_met ha rfl ht (exec_tagany ..) hn ((anyMet_iff ..).mpr hm),
      fun hm => tagWait_unmet ha ht (exec_tagany ..) ?_⟩
    rw [← Bool.not_eq_true, anyMet_iff]
    exact hm
  · refine ⟨fun hm => tagWait_met ha rfl ht (exec_tagall ..) hn ((allMet_iff ..).mpr hm),
      fun hm => tagWait_unmet ha ht (exec_tagall ..) ?_⟩
    rw [← Bool.not_eq_true, allMet_iff]
    exact hm

/-! ## TAGFF and TAGCLR (R281, R282) -/

/-- Clearing tags is the same before and after the bookkeeping of an issue. -/
theorem Kept.clearTags {s t : State} (h : Kept s t) (hc : t.cid = s.cid) (m : Word) : Kept (s.tagsCleared m)
    (t.clearTags t.cid m) := by
  have hclk : t.clk = s.clk := by rw [h.rest]
  have hk : t.tagsKept t.cid m = s.tagsKept s.cid m := by
    simp only [State.tagsKept, hclk]
    rw [hc, h.cores s.cid]
  refine ⟨h.others, fun c => ?_, ?_⟩
  · simp only [State.clearTags, State.tagsCleared, hk, State.core_putCore]
    rw [hc]
    split
    · rw [h.cores s.cid]
    · exact h.cores c
  · obtain ⟨w, c, n, e⟩ : ∃ w c n, t = { s with warps := w, cores := c, smp := { s.smp with cnt := n } } := ⟨_, _, _, h.rest⟩
    subst e
    rfl

theorem tagFound_is {s : State} {o : OpO} {n : Nat} (h : tagFoundIs s o n) :
    tagFound (s.core s.cid) (BitVec.ofNat 64 (s.w.read 64 o.a 0).n) (bit o.m.toNat 0) = n := by
  obtain ⟨h1, h2⟩ := h
  have key (t : Nat) : ((BitVec.ofNat 64 (s.w.read 64 o.a 0).n).getLsbD t && (s.core s.cid).tagDone.getLsbD t &&
      (!bit o.m.toNat 0 || (s.core s.cid).tagErr.getLsbD t)) = true ↔
      ((BitVec.ofNat 64 (s.w.read 64 o.a 0).n).getLsbD t = true ∧ (s.core s.cid).tagDone.getLsbD t = true ∧
        (o.m.getLsbD 0 = true → (s.core s.cid).tagErr.getLsbD t = true)) := by
    rw [Integers.bit_eq_testBit]
    show (_ && _ && (!o.m.getLsbD 0 || _)) = true ↔ _
    cases o.m.getLsbD 0 <;> simp [and_assoc]
  unfold tagFound
  rcases h1 with rfl | ⟨hn, hh⟩
  · rw [List.find?_eq_none.mpr fun t ht hc => h2 t (List.mem_range.mp ht) ((key t).mp hc)]
    rfl
  · rw [List.find?_range_eq_some.mpr ⟨(key n).mpr hh, List.mem_range.mpr hn, fun t ht => ?_⟩]
    · rfl
    · rw [Bool.not_eq_true', ← Bool.not_eq_true, key]
      exact h2 t ht

theorem tagff_goes {s : State} {o : OpO} {n : Nat} (h : Acts (.tagff o) s o.pr [(o.a, 2)]) (ht : s.w.tryOpen = false)
    (hf : s.operandsFree (.tagff o) [o.d] 1 (s.w.holds o.pr) = true) (hn : tagFoundIs s o n) :
    Goes (.tagff o) s (if o.m.getLsbD 1 = true ∧ n < 64 then s.tagsCleared (1 <<< n) else s)
      (s.w1.wideResult (s.w.holds o.pr) o.d n) := by
  have hk := s.issued_kept (.tagff o)
  have hw : (s.issued (.tagff o)).w = s.w1 := s.issued_w _
  have hcid := issued_cid (.tagff o) s
  have hfnd : tagFound ((s.issued (.tagff o)).core (s.issued (.tagff o)).cid)
      (BitVec.ofNat 64 ((s.issued (.tagff o)).w.read 64 o.a 0).n) (bit o.m.toNat 0) = n := by
    rw [← tagFound_is hn, hw, hcid]
    simp only [tagFound]
    rw [hk.cores]
    rfl
  have hx : exec (.tagff o) s = _ := (exec_tagff ..).trans ((execTagff.eq_1 ..).trans (tryless_closed ht))
  by_cases hc : o.m.getLsbD 1 = true ∧ n < 64
  · rw [if_pos hc]
    refine goes_of_acts h hx hf rfl (.inr rfl) rfl
      (t := ((s.issued (.tagff o)).clearTags (s.issued (.tagff o)).cid (1 <<< n)).setW (s.w1.wideResult
          (s.w.holds o.pr) o.d n)) ?_
      ((Kept.clearTags hk hcid _).setW _) (State.w_setW ..)
    have hb : (bit o.m.toNat 1 && decide (n < 64)) = true := by
      rw [Integers.bit_eq_testBit, Bool.and_eq_true, decide_eq_true_eq]
      exact hc
    dsimp only
    rw [hfnd, if_pos hb, ← hw]
    rfl
  · rw [if_neg hc]
    refine goes_of_acts h hx hf rfl (.inr rfl) rfl
      (t := (s.issued (.tagff o)).setW (s.w1.wideResult (s.w.holds o.pr) o.d n)) ?_ (hk.setW _) (State.w_setW ..)
    have hb : ¬ (bit o.m.toNat 1 && decide (n < 64)) = true := by
      rw [Integers.bit_eq_testBit, Bool.and_eq_true, decide_eq_true_eq]
      exact hc
    dsimp only
    rw [hfnd, if_neg hb, ← hw]
    rfl

theorem tagclr_goes {s : State} {o : OpI} (h : Acts (.tagclr o) s o.pr (tagSrc o)) (ht : s.w.tryOpen = false) :
    Goes (.tagclr o) s (s.tagsCleared (Machine.tagMask s.w o)) s.w1 := by
  have hx : exec (.tagclr o) s = _ := (exec_tagclr ..).trans ((execTagclr.eq_1 ..).trans (tryless_closed ht))
  have hw : Machine.tagMask (s.issued (.tagclr o)).w o = Machine.tagMask s.w o := by rw [s.issued_w]; rfl
  have hi : (Instr.tagclr o).words = 1 := rfl
  refine goes_of_acts h hx rfl rfl (.inr rfl) rfl
    (t := (s.issued (.tagclr o)).clearTags (s.issued (.tagclr o)).cid (Machine.tagMask s.w o)) ?_
    (Kept.clearTags (s.issued_kept _) (issued_cid ..) _) (s.issued_w _)
  rw [hw, hi]

/-- Settles O31. -/
theorem tagOperations : Obligations.TagOperations :=
  ⟨fun _ _ _ h ht hf hn => ⟨_, wideResult_is .., tagff_goes h ht hf hn⟩, fun _ _ h ht => tagclr_goes h ht⟩

end Sys2Proof.Proofs.Wide
end

section
/-! Tries and versions (R217 to R225, R305): opening, committing and aborting one that holds nothing. -/

namespace Sys2Proof.Proofs.Tries

open Sys2Proof Sys2Proof.Machine Sys2Proof.Proofs.Arms Sys2Proof.Proofs.Issue Sys2Proof.Proofs.Wide

/-! ## What an issue keeps apart, under changes of other fields -/

theorem Kept.putVers {s t : State} (h : Kept s t) (x : FMap Version) : Kept { s with vers := x } { t with vers := x } := by
  refine ⟨h.others, h.cores, ?_⟩
  obtain ⟨w, c, n, e⟩ : ∃ w c n, t = { s with warps := w, cores := c, smp := { s.smp with cnt := n } } := ⟨_, _, _, h.rest⟩
  subst e
  rfl

theorem Kept.putDraws {s t : State} (h : Kept s t) (n : Nat) : Kept { s with draws := n } { t with draws := n } := by
  refine ⟨h.others, h.cores, ?_⟩
  obtain ⟨w, c, n, e⟩ : ∃ w c n, t = { s with warps := w, cores := c, smp := { s.smp with cnt := n } } := ⟨_, _, _, h.rest⟩
  subst e
  rfl

theorem Kept.countCtx {s t : State} (h : Kept s t) (c n : Nat) : Kept s (t.countCtx c n) := by
  rw [State.countCtx_eq]
  refine ⟨h.others, h.cores, ?_⟩
  generalize (t.countCtx c n).smp.cnt = x
  obtain ⟨w, c, n, e⟩ : ∃ w c n, t = { s with warps := w, cores := c, smp := { s.smp with cnt := n } } := ⟨_, _, _, h.rest⟩
  subst e
  rfl

/-! ## A checkpoint laid back over what stands now -/

/-- Entries of an old map laid, where `p` selects them, over a map that has none there. -/
theorem look_overlay {α : Type} (d : α) {ins : FMap α → Nat → α → FMap α}
    (hi : ∀ m k v j, look d (ins m k v) j = if j = k then v else look d m j) (p : Nat → Bool) (old now : FMap α) (j : Nat) :
    look d ((old.filter fun e => p e.1).foldr (fun e m => ins m e.1 e.2) (now.filter fun e => !p e.1)) j =
      if p j then look d old j else look d now j := by
  induction old with
  | nil =>
    refine (Handler.look_filter d (fun k => !p k) now j).trans ?_
    cases p j <;> rfl
  | cons e old ih =>
    obtain ⟨k, v⟩ := e
    cases hp : p k with
    | true =>
      simp only [List.filter_cons, hp, if_true, List.foldr_cons, hi, ih, look]
      by_cases hj : j = k
      · subst hj; simp [hp]
      · simp [hj, Ne.symm hj]
    | false =>
      simp only [List.filter_cons, hp, Bool.false_eq_true, if_false, ih, look]
      by_cases hj : j = k
      · subst hj; simp [hp]
      · simp [Ne.symm hj]

/-! ## A warp with nothing outstanding, and a version that holds nothing -/

theorem l1Lines_none {s : State} {cid : Nat} (h : s.l1Lines cid (fun _ => true) = []) (f : L1Line → Bool) :
    s.l1Lines cid f = [] := by
  simp only [State.l1Lines, List.map_eq_nil_iff, List.filter_eq_nil_iff] at h ⊢
  intro e he hc
  refine h e he ?_
  simp only [Bool.and_eq_true] at hc
  rw [hc.1]
  rfl

theorem l1_any_none {s : State} {cid : Nat} (h : s.l1Lines cid (fun _ => true) = []) (f : L1Line → Bool) :
    (s.l1.any fun e => decide (e.1 / 2 ^ 49 = cid) && f e.2) = false := by
  have := l1Lines_none h f
  simp only [State.l1Lines, List.map_eq_nil_iff, List.filter_eq_nil_iff] at this
  exact List.any_eq_false.mpr this

theorem releaseL1_idle {s : State} {scope : Nat} (h : s.idleIn scope) (k n : Nat) : s.releaseL1 k s.cid n = s := by
  obtain ⟨-, -, hl, -⟩ := h
  unfold State.releaseL1 State.flushL1 State.flushWb
  rw [l1Lines_none hl, l1Lines_none hl]
  split <;> rfl

theorem quiet_idle {s : State} {scope : Nat} (h : s.idleIn scope) : s.quiet s.cur = true := by
  rw [State.quiet, h.1]
  rfl

theorem released_idle {s : State} {scope : Nat} (h : s.idleIn scope) (id : Nat) : s.released s.cur s.cid scope id = true := by
  obtain ⟨ho, hc, hl, hw⟩ := h
  have h1 : s.drainedBefore s.cur id = true := by
    simp only [State.warpOps, State.warpCmds, List.filter_eq_nil_iff, decide_eq_true_eq] at ho hc
    simp only [State.drainedBefore, Bool.and_eq_true, Bool.not_eq_true', List.any_eq_false, decide_eq_true_eq, not_and]
    exact ⟨fun o h e => absurd e (ho o h), fun c h e => absurd e (hc c h)⟩
  have h2 : s.l1Left s.cur s.cid scope = false := by
    unfold State.l1Left
    split
    · exact l1_any_none hl (fun l => decide (l.dirty ≠ 0))
    · exact l1_any_none hl (fun l => decide (l.wbOf s.cur ≠ 0))
  have h3 : (decide (scope < 5) || !(s.homeWaits.any fun h => h.excl && decide (h.src = s.did))) = true := by
    rcases hw with hw | hw
    · simp [hw]
    · rw [hw]; simp
  rw [State.released, h1, h2, h3]
  rfl

section
variable {s : State} {v : Nat}

theorem heldLines_nothing (h : s.holdsNothing v) : s.heldLines v = [] := by
  rw [State.heldLines, h.1]
  rfl

theorem canPublish_nothing (h : s.holdsNothing v) (cid scope : Nat) : s.canPublish v cid scope = (s, true) := by
  simp only [State.canPublish, heldLines_nothing h, h.2.1, List.foldl_nil, List.any_nil, Bool.not_false, Bool.and_true]

theorem publishMem_nothing (h : s.holdsNothing v) (cid : Nat) (keep : Held → Bool) : s.publishMem v cid keep = s := by
  simp only [State.publishMem, heldLines_nothing h, List.foldl_nil]

theorem publishSpad_nothing (h : s.holdsNothing v) (keep : Held → Bool) : s.publishSpad v keep = s := by
  rw [State.publishSpad, h.2.1]
  rfl

theorem publishTry_nothing (h : s.holdsNothing v) (keep : Held → Bool) : s.publishTry v keep = s := by
  simp only [State.publishTry, publishSpad_nothing h, publishMem_nothing h, h.1, List.filterMap_nil, List.any_nil]
  split
  · rw [List.filter_eq_nil_iff.mpr (by simp)]
    rfl
  · rfl

theorem dropVersion_nothing (h : s.holdsNothing v) : s.dropVersion v = { s with vers := put {} s.vers v {} } := by
  have ho : (s.ops.map fun o => if o.ver = v ∧ v ≠ 0 then { o with ver := deadTag } else o) = s.ops :=
    (List.map_congr_left fun o hm => if_neg fun hc => h.2.2.2.2 o hm hc.1).trans (List.map_id _)
  rw [State.dropVersion, ho]

theorem closure_nothing (x : Version) (h : x.wr = []) (n : Nat) (m : W32) : x.closure n m = m := by
  induction n generalizing m with
  | zero => rfl
  | succ n ih => rw [Version.closure, h]; exact ih m

/-- What a version holds is the same after the bookkeeping of an issue. -/
theorem holdsNothing_kept {t : State} (h : s.holdsNothing v) (hk : Kept s t) : t.holdsNothing v := by
  obtain ⟨w, c, n, e⟩ : ∃ w c n, t = { s with warps := w, cores := c, smp := { s.smp with cnt := n } } := ⟨_, _, _, hk.rest⟩
  subst e
  exact h

end

/-! ## TRY (R217, R218) -/

section
variable {s : State} {o : OpO} {k : BitVec 8}

/-- The effect of a TRY whose lanes take part. -/
theorem tryOpen_next (h : Acts (.tryOpen o) s o.pr []) (ht : s.w.tryOpen = false) (hz : s.tiles s.cur = 0) {u : State}
    (hu : (if s.w.rows < s.w.bnd + s.w.ahi + o.b.num + 1 then (s.issued (.tryOpen o)).tryOverflow o.d
      else match (s.issued (.tryOpen o)).freeTag with
        | none => (s.issued (.tryOpen o)).tryOverflow o.d
        | some tag => (s.issued (.tryOpen o)).openTry o.d o.a.num o.b.num tag) = u) : exec (.tryOpen o) s = .next u := by
  obtain ⟨hr, hc, h0⟩ := h
  have hw : (s.issued (.tryOpen o)).w = s.w1 := s.issued_w _
  have ht1 : s.w1.tryOpen = false := ht
  rw [exec_tryOpen, execTryOpen, consumes_pred hc.1]
  refine (issue_runs hr _ _ (by simp [hz]) rfl (.inr rfl) rfl).trans ?_
  rw [← hu]
  simp only [if_neg h0, hw, ht1, Bool.false_eq_true, if_false]
  rfl

theorem issued_freeTag (i : Instr) (s : State) : (s.issued i).freeTag = s.freeTag := by
  rw [State.freeTag, (s.issued_kept i).rest]; rfl

/-- The warp that a TRY leaves, before it goes on. -/
def opened (w : Warp) (d : Opnd) (k n draw tag : Nat) : Warp :=
  { w.setStatus w.exm d true with
    tryOpen := true, amask := 0, v := w.takeRows n draw
    ck := { ver := tag, k := k, n := n, v := w.declared k n, p := w.p, exm := w.exm, part := w.part, flg := w.flg
            rdepth := w.rstk.length, cdepth := w.cstk.length, dreg := d.num, next := w.pc + 8, hdr := w.hdr, hw := w.hw } }

theorem tryOpen_opens {tag : Nat} (h : Acts (.tryOpen o) s o.pr []) (ht : s.w.tryOpen = false) (hz : s.tiles s.cur = 0)
    (hroom : s.w.bnd + s.w.ahi + o.b.num + 1 ≤ s.w.rows) (hf : s.freeTag = some tag) :
    Goes (.tryOpen o) s { s with draws := s.draws + 1, vers := put {} s.vers tag { taken := true, warp := s.cur } }
      (opened s.w1 o.d o.a.num o.b.num s.draws tag) := by
  have hk := s.issued_kept (.tryOpen o)
  have hw : (s.issued (.tryOpen o)).w = s.w1 := s.issued_w _
  have hd : (s.issued (.tryOpen o)).draws = s.draws := by rw [hk.rest]
  have hv : (s.issued (.tryOpen o)).vers = s.vers := by rw [hk.rest]
  have hcur : (s.issued (.tryOpen o)).cur = s.cur := by rw [hk.rest]
  refine ⟨State.setW { s.issued (.tryOpen o) with
      draws := s.draws + 1, vers := put {} s.vers tag { taken := true, warp := s.cur } }
      (opened s.w1 o.d o.a.num o.b.num s.draws tag), tryOpen_next h ht hz ?_, ?_, State.w_setW ..⟩
  · rw [if_neg (by omega), issued_freeTag, hf]
    simp only [State.openTry, hw, hd, hv, hcur]
    rfl
  · exact (Kept.putVers (Kept.putDraws hk (s.draws + 1)) (put {} s.vers tag { taken := true, warp := s.cur })).setW _

theorem tryOpen_overflows (h : Acts (.tryOpen o) s o.pr []) (ht : s.w.tryOpen = false) (hz : s.tiles s.cur = 0)
    (hroom : s.w.rows < s.w.bnd + s.w.ahi + o.b.num + 1) :
    Goes (.tryOpen o) s s { s.w1.setStatus s.w.exm o.d false with tryOpen := false, tryDone := true, tryCode := 2, amask := s.w.exm } := by
  have hw : (s.issued (.tryOpen o)).w = s.w1 := s.issued_w _
  refine ⟨(s.issued (.tryOpen o)).setW
    { s.w1.setStatus s.w.exm o.d false with tryOpen := false, tryDone := true, tryCode := 2, amask := s.w.exm },
    tryOpen_next h ht hz ?_, (s.issued_kept _).setW _, State.w_setW ..⟩
  rw [if_pos hroom]
  simp only [State.tryOverflow, hw]
  rfl

/-! ## COMMIT (R222) -/

theorem commit_closed (h : Acts (.commit o) s o.pr []) (ht : s.w.tryOpen = false) :
    Goes (.commit o) s s (s.w1.setStatus s.w.exm o.d false) := by
  obtain ⟨hr, hc, h0⟩ := h
  have hw : (s.issued (.commit o)).w = s.w1 := s.issued_w _
  refine ⟨(s.issued (.commit o)).setW (s.w1.setStatus s.w.exm o.d false), ?_, (s.issued_kept _).setW _, State.w_setW ..⟩
  rw [exec_commit, execCommit, consumes_pred hc.1]
  dsimp only
  rw [if_neg h0, if_pos (by rw [ht]; rfl)]
  refine (issue_runs hr {} _ rfl rfl (.inr rfl) rfl).trans ?_
  rw [hw]
  rfl

/-- The warp that a COMMIT of a try without held bytes leaves, before it goes on. -/
def committed (w : Warp) (d : Opnd) : Warp :=
  { ((w.restoreTry w.amask).setStatus (w.ck.exm &&& w.amask) d false).setStatus (w.ck.exm &&& ~~~w.amask) d true with
    tryOpen := false, tryDone := true, tryCode := 0, amask := w.amask, ck := {} }

theorem commitTry_nothing {t : State} {w : Warp} (hw : t.w = w) (hn : t.holdsNothing (t.tryTag t.cur)) (hc :
    w.ck.exm &&& ~~~w.amask ≠ 0)
    (d : Opnd) :
    t.commitTry d = (State.setW { t.countCtx w.ctx 0x10E with vers := put {} t.vers (t.tryTag t.cur) {} }
        (committed w d)).advance 1 := by
  subst hw
  have hd : (t.countCtx t.w.ctx 0x10E).dropVersion (t.tryTag t.cur) =
      { t.countCtx t.w.ctx 0x10E with vers := put {} t.vers (t.tryTag t.cur) {} } := by
    have hv : (t.countCtx t.w.ctx 0x10E).vers = t.vers := by rw [State.countCtx_eq]
    rw [dropVersion_nothing (holdsNothing_kept hn (Kept.countCtx (Kept.refl t) ..)), hv]
  have hwv : State.w { t.countCtx t.w.ctx 0x10E with vers := put {} t.vers (t.tryTag t.cur) {} } = t.w := State.countCtx_w ..
  simp only [State.commitTry, closure_nothing _ hn.2.2.1, if_neg hc, publishTry_nothing hn, hd, hwv]
  rfl

theorem commit_open (h : Acts (.commit o) s o.pr []) (ht : s.w.tryOpen = true) (hi : s.idleIn (o.m.toNat % 8))
    (hn : s.holdsNothing (s.tryTag s.cur)) (hc : s.w.ck.exm &&& ~~~s.w.amask ≠ 0) :
    Goes (.commit o) s { s with vers := put {} s.vers (s.tryTag s.cur) {} } (committed s.w1 o.d) := by
  obtain ⟨hr, hcl, h0⟩ := h
  have hk := s.issued_kept (.commit o)
  have hw : (s.issued (.commit o)).w = s.w1 := s.issued_w _
  have hcur : (s.issued (.commit o)).cur = s.cur := by rw [hk.rest]
  have hv : (s.issued (.commit o)).vers = s.vers := by rw [hk.rest]
  have htag : (s.issued (.commit o)).tryTag (s.issued (.commit o)).cur = s.tryTag s.cur := by
    rw [State.tryTag, hv, hcur]
    rfl
  have hcm := commitTry_nothing hw (by rw [htag]; exact holdsNothing_kept hn hk) hc o.d
  rw [htag, hv] at hcm
  refine ⟨State.setW { (s.issued (.commit o)).countCtx s.w1.ctx 0x10E with vers := put {} s.vers (s.tryTag s.cur) {} }
    (committed s.w1 o.d), ?_, (Kept.putVers (Kept.countCtx hk s.w1.ctx 0x10E) _).setW _, State.w_setW ..⟩
  rw [exec_commit, execCommit, consumes_pred hcl.1]
  dsimp only
  rw [if_neg h0, if_neg (by rw [ht]; simp), releaseL1_idle hi, quiet_idle hi, if_pos rfl, canPublish_nothing hn]
  exact (issue_runs hr _ (fun t => t.commitTry o.d) (by rw [released_idle hi]; rfl) rfl (.inr rfl) rfl).trans
    (congrArg Host.Outcome.next hcm)

theorem restoreTry_v1 (w : Warp) (m : W32) (row l : Nat) (hl : l < 32) : (w.restoreTry m).v1 row l =
    if m.getLsbD l = true ∧ w.ck.k ≤ row ∧ row < w.ck.k + w.ck.n then look {} w.ck.v (32 * row + l) else w.v1 row l := by
  have hr : (32 * row + l) / 32 = row := by omega
  have hm : (32 * row + l) % 32 = l := by omega
  refine (look_overlay {} (look_mapIns ({} : VEl))
    (fun i => decide (w.ck.k ≤ i / 32) && decide (i / 32 < w.ck.k + w.ck.n) && m.getLsbD (i % 32)) w.ck.v w.v
        (32 * row + l)).trans ?_
  rw [hr, hm]
  exact ite_of_iff (by simp only [Bool.and_eq_true, decide_eq_true_eq]; grind)

theorem restoreTry_p1 (w : Warp) (m : W32) (j l : Nat) (hj : j ≠ 7) (hl : l < 32) : (w.restoreTry m).p1 j l =
    if m.getLsbD l = true then look {} w.ck.p (32 * j + l) else w.p1 j l := by
  have hm : (32 * j + l) % 32 = l := by omega
  have := look_overlay {} (look_mapIns ({} : PEl)) (fun i => m.getLsbD (i % 32)) w.ck.p w.p (32 * j + l)
  rw [hm] at this
  rw [Warp.p1, Warp.p1, if_neg hj, if_neg hj]
  exact this

theorem committed_p1 (w : Warp) (k : BitVec 8) (j l : Nat) (hj : j < 7) (hl : l < 32) : (committed w (.p k)).p1 j l =
    if j = k.toNat ∧ w.ck.exm.getLsbD l = true then { val := !w.amask.getLsbD l }
    else if w.amask.getLsbD l = true then look {} w.ck.p (32 * j + l) else w.p1 j l := by
  obtain ⟨-, h1⟩ := setStatus_is (w.restoreTry w.amask) (w.ck.exm &&& w.amask) k false
  obtain ⟨-, h2⟩ := setStatus_is ((w.restoreTry w.amask).setStatus (w.ck.exm &&& w.amask) (.p k) false)
      (w.ck.exm &&& ~~~w.amask) k true
  refine (h2 j l hl).trans ?_
  rw [h1 j l hl, restoreTry_p1 w w.amask j l (by omega) hl]
  simp only [BitVec.getLsbD_and, BitVec.getLsbD_not, hl, decide_true, Bool.true_and, Bool.and_eq_true, Bool.not_eq_true']
  by_cases hk : j = k.toNat <;> cases w.ck.exm.getLsbD l <;> cases w.amask.getLsbD l <;> simp [hk] <;> omega

theorem committed_frame (w : Warp) (k : BitVec 8) : committed w (.p k) =
    { w with v := (committed w (.p k)).v, p := (committed w (.p k)).p, tryOpen := false, tryDone := true, tryCode := 0, ck := {} } := by
  obtain ⟨h1, -⟩ := setStatus_is (w.restoreTry w.amask) (w.ck.exm &&& w.amask) k false
  obtain ⟨h2, -⟩ := setStatus_is ((w.restoreTry w.amask).setStatus (w.ck.exm &&& w.amask) (.p k) false)
      (w.ck.exm &&& ~~~w.amask) k true
  unfold committed
  rw [h2, h1]
  rfl

theorem committed_v1 (w : Warp) (k : BitVec 8) (row l : Nat) (hl : l < 32) : (committed w (.p k)).v1 row l =
    if w.amask.getLsbD l = true ∧ w.ck.k ≤ row ∧ row < w.ck.k + w.ck.n then look {} w.ck.v (32 * row + l) else w.v1 row l := by
  obtain ⟨h1, -⟩ := setStatus_is (w.restoreTry w.amask) (w.ck.exm &&& w.amask) k false
  obtain ⟨h2, -⟩ := setStatus_is ((w.restoreTry w.amask).setStatus (w.ck.exm &&& w.amask) (.p k) false)
      (w.ck.exm &&& ~~~w.amask) k true
  have hv : (committed w (.p k)).v = (w.restoreTry w.amask).v := by
    unfold committed
    rw [h2, h1]
  rw [← restoreTry_v1 w w.amask row l hl, Warp.v1, Warp.v1, hv]

/-! ## ABORT (R221, R223) -/

theorem abort_closed (h : Acts (.abort o) s o.pr []) (ht : s.w.tryOpen = false) : Goes (.abort o) s s s.w1 := by
  obtain ⟨hr, hc, h0⟩ := h
  have hw : (s.issued (.abort o)).w = s.w1 := s.issued_w _
  have hx : exec (.abort o) s = _ := (exec_abort ..).trans (by rw [execAbort, consumes_pred hc.1])
  refine goes_of_noEffect hr hx (if_pos (.inr ?_))
  rw [hw, show s.w1.tryOpen = false from ht]
  exact Bool.false_ne_true

/-- The warp that an abort leaves (R221). -/
def aborted (w : Warp) (code : BitVec 8) : Warp :=
  Warp.setStatus { w with
    v := ((w.ck.v.filter fun e => decide (w.ck.k ≤ e.1 / 32) && decide (e.1 / 32 < w.ck.k + w.ck.n)).foldr
      (fun e m => put {} m e.1 e.2)
      (w.v.filter fun e => !(decide (w.ck.k ≤ e.1 / 32) && decide (e.1 / 32 < w.ck.k + w.ck.n))))
    p := w.ck.p, exm := w.ck.exm, part := w.ck.part, flg := w.ck.flg
    rstk := w.rstk.drop (w.rstk.length - w.ck.rdepth), cstk := w.cstk.drop (w.cstk.length - w.ck.cdepth)
    tryOpen := false, tryDone := true, tryCode := code, amask := w.ck.exm
    wait := .none, hdr := w.ck.hdr, hw := w.ck.hw, pc := w.ck.next, atHead := true } w.ck.exm (.p
        (BitVec.ofNat 8 w.ck.dreg)) false

theorem abortTry_quiet {t : State} (hq : t.quiet t.cur = true) (code : BitVec 8) :
    t.abortTry code none = ((t.countCtx t.w.ctx 0x10F).dropVersion (t.tryTag t.cur)).setW (aborted t.w code) := by
  simp only [State.abortTry, hq, if_true, State.finishAbort, beq_true, beq_false]
  rfl

theorem abort_open (h : Acts (.abort o) s o.pr []) (ht : s.w.tryOpen = true) (hq : s.quiet s.cur = true) :
    ∃ t, exec (.abort o) s = .next (State.setW t (aborted { s.w1 with tryUser := BitVec.ofNat 8 o.a.num } 3)) ∧
      t.mem = s.mem ∧ t.spad = s.spad ∧ t.l1 = s.l1 ∧ t.l2 = s.l2 := by
  obtain ⟨hr, hc, h0⟩ := h
  have hk := s.issued_kept (.abort o)
  have hw : (s.issued (.abort o)).w = s.w1 := s.issued_w _
  let w := { s.w1 with tryUser := BitVec.ofNat 8 o.a.num }
  have hq' : ((s.issued (.abort o)).setW w).quiet ((s.issued (.abort o)).setW w).cur = true := by
    rw [State.quiet, State.warpOps, State.setW_ops, State.setW_cur, hk.rest]
    exact hq
  have hab := abortTry_quiet hq' 3
  rw [State.w_setW] at hab
  refine ⟨(((s.issued (.abort o)).setW w).countCtx w.ctx 0x10F).dropVersion
    (((s.issued (.abort o)).setW w).tryTag ((s.issued (.abort o)).setW w).cur), ?_, ?_⟩
  · rw [exec_abort, execAbort, consumes_pred hc.1]
    refine (issue_runs hr {} _ rfl rfl (.inr rfl) rfl).trans ?_
    rw [hw, if_neg ?_]
    · exact congrArg Host.Outcome.next hab
    · rintro (h | h)
      · exact h0 h
      · exact h ht
  · rw [State.countCtx_eq, State.dropVersion, hk.rest]
    exact ⟨rfl, rfl, rfl, rfl⟩

theorem aborted_v1 (w : Warp) (code : BitVec 8) (row l : Nat) (hl : l < 32) : (aborted w code).v1 row l =
    if w.ck.k ≤ row ∧ row < w.ck.k + w.ck.n then look {} w.ck.v (32 * row + l) else w.v1 row l := by
  have hr : (32 * row + l) / 32 = row := by omega
  have hv : (aborted w code).v = _ := congrArg Warp.v (setStatus_is _ w.ck.exm (BitVec.ofNat 8 w.ck.dreg) false).1
  have ho := look_overlay ({} : VEl) (look_put ({} : VEl))
    (fun i => decide (w.ck.k ≤ i / 32) && decide (i / 32 < w.ck.k + w.ck.n)) w.ck.v w.v (32 * row + l)
  rw [hr] at ho
  rw [Warp.v1, hv]
  refine ho.trans (ite_of_iff ?_)
  simp only [Bool.and_eq_true, decide_eq_true_eq]

theorem aborted_p1 (w : Warp) (code : BitVec 8) (j l : Nat) (hj : j < 7) (hl : l < 32) : (aborted w code).p1 j l =
    if j = w.ck.dreg % 256 ∧ w.ck.exm.getLsbD l = true then { val := false } else look {} w.ck.p (32 * j + l) := by
  refine ((setStatus_is _ w.ck.exm (BitVec.ofNat 8 w.ck.dreg) false).2 j l hl).trans ?_
  have hp (u : Warp) : u.p1 j l = look {} u.p (32 * j + l) := if_neg (by omega)
  rw [BitVec.toNat_ofNat, hp]
  exact ite_of_iff ⟨fun ⟨h1, _, h3⟩ => ⟨h1, h3⟩, fun ⟨h1, h3⟩ => ⟨h1, by omega, h3⟩⟩

theorem aborted_frame (w : Warp) (code : BitVec 8) : aborted w code =
    { w with
      v := (aborted w code).v, p := (aborted w code).p, exm := w.ck.exm, part := w.ck.part, flg := w.ck.flg
      rstk := w.rstk.drop (w.rstk.length - w.ck.rdepth), cstk := w.cstk.drop (w.cstk.length - w.ck.cdepth)
      tryOpen := false, tryDone := true, tryCode := code, amask := w.ck.exm
      wait := .none, hdr := w.ck.hdr, hw := w.ck.hw, pc := w.ck.next, atHead := true } := by
  have h := (setStatus_is { w with
      v := ((w.ck.v.filter fun e => decide (w.ck.k ≤ e.1 / 32) && decide (e.1 / 32 < w.ck.k + w.ck.n)).foldr
        (fun e m => put {} m e.1 e.2)
        (w.v.filter fun e => !(decide (w.ck.k ≤ e.1 / 32) && decide (e.1 / 32 < w.ck.k + w.ck.n))))
      p := w.ck.p, exm := w.ck.exm, part := w.ck.part, flg := w.ck.flg
      rstk := w.rstk.drop (w.rstk.length - w.ck.rdepth), cstk := w.cstk.drop (w.cstk.length - w.ck.cdepth)
      tryOpen := false, tryDone := true, tryCode := code, amask := w.ck.exm
      wait := .none, hdr := w.ck.hdr, hw := w.ck.hw, pc := w.ck.next, atHead := true } w.ck.exm
          (BitVec.ofNat 8 w.ck.dreg) false).1
  rw [← aborted] at h
  rw [h]

end

/-- Settles O32. -/
theorem tries : Obligations.Tries := by
  refine ⟨fun s o k tag h hd ht hz hroom hf => ?_, fun s o k h hd ht hz hroom => ?_, fun s o k h hd ht => ?_,
    fun s o k h hd ht hi hn hc => ?_, fun s o h ht => abort_closed h ht, fun s o h ht hq => ?_⟩
  · have := tryOpen_opens h ht hz hroom hf
    rw [hd] at this
    exact ⟨_, setStatus_is .., this⟩
  · exact ⟨_, setStatus_is .., hd ▸ tryOpen_overflows h ht hz hroom⟩
  · exact ⟨_, setStatus_is .., hd ▸ commit_closed h ht⟩
  · have hg := commit_open h ht hi hn hc
    rw [hd] at hg
    exact ⟨_, hg, committed_frame s.w1 k, fun row l hl => committed_v1 s.w1 k row l hl,
        fun j l hj hl => committed_p1 s.w1 k j l hj hl⟩
  · obtain ⟨t, hx, hmem, hspad, hl1, hl2⟩ := abort_open h ht hq
    refine ⟨_, hx, ?_, fun row l hl => ?_, fun j l hj hl => ?_, hmem, hspad, hl1, hl2⟩
    · rw [State.w_setW]
      exact aborted_frame ..
    · rw [State.w_setW]
      exact aborted_v1 _ _ row l hl
    · rw [State.w_setW]
      exact aborted_p1 _ _ j l hj hl

end Sys2Proof.Proofs.Tries
end

section
/-! Barriers (R170 to R173), POLL and YIELD (R174, R175). -/

namespace Sys2Proof.Proofs.Bars

open Sys2Proof Sys2Proof.Machine Sys2Proof.Proofs.Arms Sys2Proof.Proofs.Issue Sys2Proof.Proofs.Wide

/-! ## Arriving and waiting -/

section
variable {s : State} {o : OpO}

theorem barTrap_none {count : Bool} (h : s.barNamed o count) : s.barTrap o count = none := by
  obtain ⟨h1, h2⟩ := h
  refine if_neg ?_
  simp only [Bool.or_eq_true, decide_eq_true_eq, Bool.and_eq_true, not_or, not_and]
  exact ⟨by omega, fun hc => by have := h2 hc; omega⟩

theorem abandonTrap_none {k : BitVec 8} (hd : o.d = .p k) (hk : k ≠ 7) : abandonTrap o = none := by
  rw [abandonTrap, hd]
  exact if_neg fun h => hk (by injection h)

/-- What a waiting warp waits for. -/
def waitsAt (s : State) (o : OpO) : Warp :=
  { s.w1 with wait := .barrier (s.barRef o).lvl (s.barRef o).id (s.barRef o).bar.gen o.d (s.w.holds o.pr) }

theorem bar_arrives (h : Acts (.bar o) s o.pr [(o.a, 2), (o.b, 2)]) (ht : s.w.tryOpen = false) (hn : s.barNamed o true)
    (hg : (s.barRef o).bar.gone s.clk = false) (hr : s.barRelease (s.barRef o).lvl = (s, true)) :
    exec (.bar o) s = .next (((s.issued (.bar o)).setW (waitsAt s o)).arrive (s.barRef o) (s.w.read 64 o.b 0).n) := by
  have hw : (s.issued (.bar o)).w = s.w1 := s.issued_w _
  rw [exec_bar, execBar, tryless_closed ht, if_neg (by rw [hg]; exact Bool.false_ne_true), if_neg h.2.2, hr]
  refine (warpWide_acts h rfl (barTrap_none hn) (.inr rfl) rfl).trans ?_
  rw [hw]
  rfl

theorem bara_arrives (h : Acts (.bara o) s o.pr [(o.a, 2), (o.b, 2)]) (ht : s.w.tryOpen = false) (hn : s.barNamed o true)
    (hg : (s.barRef o).bar.gone s.clk = false) (hr : s.barRelease (s.barRef o).lvl = (s, true)) :
    exec (.bara o) s = .next (((s.issued (.bara o)).arrive (s.barRef o) (s.w.read 64 o.b 0).n).advance 1) := by
  have hw : (s.issued (.bara o)).w = s.w1 := s.issued_w _
  rw [exec_bara, execBara, tryless_closed ht, if_neg (by rw [hg]; exact Bool.false_ne_true), if_neg h.2.2, hr]
  refine (warpWide_acts h rfl (barTrap_none hn) (.inr rfl) rfl).trans ?_
  rw [hw]
  rfl

theorem barw_waits (h : Acts (.barw o) s o.pr [(o.a, 2)]) (ht : s.w.tryOpen = false) (hn : s.barNamed o false)
    (hg : (s.barRef o).bar.gone s.clk = false) : exec (.barw o) s = .next ((s.issued (.barw o)).setW (waitsAt s o)) := by
  have hw : (s.issued (.barw o)).w = s.w1 := s.issued_w _
  have hf : ¬ (s.barRef o).bar.gone s.clk = true := by rw [hg]; exact Bool.false_ne_true
  rw [exec_barw, execBarw, tryless_closed ht]
  refine (warpWide_acts h rfl (barTrap_none hn) (.inr rfl) (if_neg hf)).trans ?_
  rw [if_neg hf, hw]
  rfl

/-! ## At an abandoned barrier -/

theorem bar_gone {k : BitVec 8} (h : Acts (.bar o) s o.pr [(o.a, 2), (o.b, 2)]) (ht : s.w.tryOpen = false) (hn :
    s.barNamed o true)
    (hg : (s.barRef o).bar.gone s.clk = true) (hd : o.d = .p k) (hk : k ≠ 7) :
    Goes (.bar o) s s (s.w1.setStatus (s.w.holds o.pr) o.d false) :=
  goes_of_setW (f := fun w => w.setStatus (s.w.holds o.pr) o.d false) h
    ((exec_bar ..).trans (by rw [execBar, tryless_closed ht, if_pos hg])) rfl (barTrap_none hn) (abandonTrap_none hd hk) rfl rfl

theorem bara_gone (h : Acts (.bara o) s o.pr [(o.a, 2), (o.b, 2)]) (ht : s.w.tryOpen = false) (hn : s.barNamed o true)
    (hg : (s.barRef o).bar.gone s.clk = true) : Goes (.bara o) s s s.w1 :=
  goes_of_acts (eff := fun t => t.advance 1) (t := s.issued (.bara o)) h
    ((exec_bara ..).trans (by rw [execBara, tryless_closed ht, if_pos hg])) rfl (barTrap_none hn) (.inr rfl) rfl rfl
    (s.issued_kept _) (s.issued_w _)

theorem barw_gone {k : BitVec 8} (h : Acts (.barw o) s o.pr [(o.a, 2)]) (ht : s.w.tryOpen = false) (hn : s.barNamed o false)
    (hg : (s.barRef o).bar.gone s.clk = true) (hd : o.d = .p k) (hk : k ≠ 7) :
    Goes (.barw o) s s (s.w1.setStatus (s.w.holds o.pr) o.d false) :=
  goes_of_setW (f := fun w => w.setStatus (s.w.holds o.pr) o.d false) h
    ((exec_barw ..).trans (tryless_closed ht)) rfl (barTrap_none hn)
    ((if_pos hg).trans (abandonTrap_none hd hk)) rfl (if_pos hg)

end

/-! ## Arrivals, and the end of a clock -/

theorem arrive_first {s : State} {r : BarRef} {count : Nat} (h : r.bar.arr = 0) :
    s.arrive r count = s.withBar r { r.bar with arr := 1, n := count } := by
  simp only [State.arrive, h, if_true]
  rfl

theorem arrive_next {s : State} {r : BarRef} {count : Nat} (h : r.bar.arr ≠ 0) :
    s.arrive r count = s.withBar r { r.bar with arr := r.bar.arr + 1 } := by
  simp only [State.arrive, if_neg h]
  rfl

theorem barParts_barKey {l lvl unit id : Nat} (h1 : lvl < 8) (h2 : unit < 2 ^ 40) (h3 : id < 16) :
    barParts (barKey l lvl unit id) = (l, lvl, unit, id) := by
  simp only [barParts, barKey, Prod.mk.injEq]
  omega

theorem look_single {α : Type} (d : α) (k : Nat) (v : α) : look d [(k, v)] k = v := by simp [look]

/-- A generation that has what it needs. -/
def State.opens (s : State) (launch lvl unit id : Nat) (b : Barrier) : State :=
  { s with bars := put {} s.bars (barKey launch lvl unit id) { b with gen := b.gen + 1, arr := 0 } }

section
variable {s : State} {l lvl unit id : Nat} {b : Barrier} (hb : s.bars = [(barKey l lvl unit id, b)])
include hb

theorem checkBar_short (h : b.arr = 0 ∨ b.arr < s.needs l lvl unit b.n) : s.checkBar l lvl unit id = s := by
  have hl : look {} s.bars (barKey l lvl unit id) = b := by rw [hb, look_single]
  simp only [State.checkBar, hl]
  refine if_neg ?_
  rw [Bool.and_eq_true, decide_eq_true_eq, decide_eq_true_eq]
  rintro ⟨h1, h2⟩
  exact h.elim h1 fun h => Nat.not_lt.mpr h2 h

theorem checkBar_full (h0 : b.arr ≠ 0) (h : s.needs l lvl unit b.n ≤ b.arr) :
    s.checkBar l lvl unit id = State.opens s l lvl unit id b := by
  have hl : look {} s.bars (barKey l lvl unit id) = b := by rw [hb, look_single]
  simp only [State.checkBar, hl]
  refine if_pos ?_
  rw [Bool.and_eq_true, decide_eq_true_eq, decide_eq_true_eq]
  exact ⟨h0, h⟩

end

theorem clockBars_full {s : State} {lvl unit id k g : Nat} {b : Barrier} {w : Warp} {d : Opnd} {m : W32} (h1 : lvl < 8)
    (h2 : unit < 2 ^ 40) (h3 : id < 16) (hk : k < 2 ^ 20) (hb : s.bars = [(barKey w.launch lvl unit id, b)]) (hs :
        s.warps = [(k, w)])
    (hu : s.unitOf w lvl = unit) (h0 : b.arr ≠ 0) (h : s.needs w.launch lvl unit b.n ≤ b.arr) (hw :
        w.wait = .barrier lvl id g d m) :
    s.clockBars = (s.checkBar w.launch lvl unit id).releaseWaiter k { b with gen := b.gen + 1, arr := 0 } := by
  have hc := checkBar_full hb h0 h
  have hs1 : (State.opens s w.launch lvl unit id b).warps = [(k, w)] := hs
  have hu1 : (State.opens s w.launch lvl unit id b).unitOf w lvl = unit := hu
  have hl : look {} (State.opens s w.launch lvl unit id b).bars (barKey w.launch lvl unit id) =
      { b with gen := b.gen + 1, arr := 0 } := by
    rw [State.opens, look_put_same]
  simp only [State.clockBars, hb, List.foldl_cons, List.foldl_nil, barParts_barKey h1 h2 h3, hc, hs1, hw, if_pos hk, hu1, hl]

/-- What is left of a release when the waiter's state is known. -/
theorem releaseWaiter_run {s : State} {k lvl id g : Nat} {b : Barrier} {d : Opnd} {m : W32} (hr : (s.warp k).status = .run)
    (hd : (s.warp k).reread = false) (hw : (s.warp k).wait = .barrier lvl id g d m) :
    s.releaseWaiter k b = s.asWarp k fun t =>
      if g < b.gen then ((t.setW ({ s.warp k with wait := .none, ready0 := s.clk }.setStatus m d true)).acquireL1
          (s.warp k).launch
        (cidOf k) (s.warp k).ctx (s.barScope (s.warp k).launch lvl)).advance 1
      else if b.abandoned then
        if d = .p 7 then
          match t.handlerWaits { cls := clsBarrier, cause := 1 } with
          | some t1 => t1
          | none =>
            (t.setW { s.warp k with wait := .none, ready0 := s.clk }).takeTrap { cls := clsBarrier, cause := 1 } (s.warp k).pc
        else (t.setW ({ s.warp k with wait := .none, ready0 := s.clk }.setStatus m d false)).advance 1
      else t := by
  have hc : (State.w { s with cur := k }) = s.warp k := rfl
  have hcond : (s.warp k).status = .run ∧ ¬ (s.warp k).reread = true := ⟨hr, by rw [hd]; exact Bool.false_ne_true⟩
  simp only [State.releaseWaiter, State.asWarp, hc, if_pos hcond, hw]
  rfl

/-- Settles O33. -/
theorem barriers : Obligations.Barriers := by
  refine ⟨fun s o h ht hn hg hr => ⟨_, bar_arrives h ht hn hg hr, (s.issued_kept _).setW _, State.w_setW ..⟩,
    fun s o h ht hn hg hr => ⟨_, bara_arrives h ht hn hg hr, s.issued_kept _, s.issued_w _⟩,
    fun s o h ht hn hg => ⟨_, barw_waits h ht hn hg, (s.issued_kept _).setW _, State.w_setW ..⟩,
    fun s o k h ht hn hg hd hk => ⟨_, setStatus_is .., hd ▸ bar_gone h ht hn hg hd hk⟩,
    fun s o h ht hn hg => bara_gone h ht hn hg,
    fun s o k h ht hn hg hd hk => ⟨_, setStatus_is .., hd ▸ barw_gone h ht hn hg hd hk⟩,
    fun s r count => ⟨arrive_first, arrive_next⟩,
    fun s lvl unit id k b w h1 h2 h3 hk hb hs hu => ⟨checkBar_short hb, fun h0 h => ⟨checkBar_full hb h0 h,
      fun g d m hw => clockBars_full h1 h2 h3 hk hb hs hu h0 h hw⟩⟩,
    fun s k lvl id g b p m hr hd hw => ⟨fun hg => ⟨_, setStatus_is .., ?_⟩, fun hg ha => ?_, fun hg ha hp => ⟨_,
        setStatus_is .., ?_⟩⟩⟩
  · simp only [releaseWaiter_run hr hd hw, if_pos hg]
  · simp only [releaseWaiter_run hr hd hw, if_neg (Nat.not_lt.mpr hg), ha, Bool.false_eq_true, if_false]
    rfl
  · have hp7 : ¬ (Opnd.p p = .p 7) := fun h => hp (by injection h)
    simp only [releaseWaiter_run hr hd hw, if_neg (Nat.not_lt.mpr hg), ha, if_true, if_neg hp7]

/-! ## POLL and YIELD (R174, R175) -/

theorem Kept.putNextId {s t : State} (h : Kept s t) (n : Nat) : Kept { s with nextId := n } { t with nextId := n } := by
  refine ⟨h.others, h.cores, ?_⟩
  obtain ⟨w, c, n, e⟩ : ∃ w c n, t = { s with warps := w, cores := c, smp := { s.smp with cnt := n } } := ⟨_, _, _, h.rest⟩
  subst e
  rfl

section
variable {s : State} {o : OpO} {ia : Nat}

/-- What a polling warp waits for. -/
def polls (s : State) (o : OpO) : Warp :=
  { s.w1 with
    wait := .poll (BitVec.ofNat 64 (s.w.read 64 o.a 0).n) (decide (o.c.num = 8))
      (BitVec.ofNat 64 (s.w.read (8 * o.c.num) o.b 0).n) o.sub (bits o.m.toNat 5 3) o.d (s.w.holds o.pr) s.nextId }

theorem poll_waits (h : Acts (.poll o) s o.pr [(o.a, 2), (o.b, if o.c.num = 8 then 2 else 1)]) (ht : s.w.tryOpen = false)
    (ha : (s.w.read 64 o.a 0).n % o.c.num = 0) (hu : s.w.unwatched) (hn : (s.w.read 64 o.a 0).n < 2 ^ 64)
    (hm : (s.ctx s.w.ctx).translate .load (BitVec.ofNat 64 (s.w.read 64 o.a 0).n) = .ok ia) :
    exec (.poll o) s = .next (State.setW { s.issued (.poll o) with nextId := s.nextId + 1 } (polls s o)) := by
  have hw : (s.issued (.poll o)).w = s.w1 := s.issued_w _
  have hid : (s.issued (.poll o)).nextId = s.nextId := by rw [(s.issued_kept (.poll o)).rest]
  have hl : s.memLoc .load (BitVec.ofNat 64 (s.w.read 64 o.a 0).n) = .mem ia := by simp only [State.memLoc, hm]
  rw [exec_poll, execPoll, tryless_closed ht]
  refine (warpWide_acts h rfl ?_ (Accesses.watch_of_unwatched hu ..) (by rw [hl])).trans ?_
  · refine Accesses.misaligned_none fun l _ _ => ?_
    rw [BitVec.toNat_ofNat, Nat.mod_eq_of_lt hn]
    exact_mod_cast ha
  · rw [hw, hid]
    rfl

theorem yield_goes (h : Acts (.yield o) s o.pr []) :
    exec (.yield o) s = .next (((s.issued (.yield o)).setW { (s.issued (.yield o)).w with
      wait := if (s.issued (.yield o)).yieldSet = [] then .none else .yield (s.issued (.yield o)).yieldSet (s.clk + 64) }).advance 1) := by
  have hc : (s.issued (.yield o)).clk = s.clk := by rw [(s.issued_kept (.yield o)).rest]
  rw [exec_yield, execYield]
  refine (warpWide_acts h rfl rfl (.inr rfl) rfl).trans ?_
  rw [hc]

end

/-- Settles O34. -/
theorem pollsAndYields : Obligations.PollsAndYields :=
  ⟨fun s _ _ h ht ha hu hn hm => ⟨_, poll_waits h ht ha hu hn hm, (Kept.putNextId (s.issued_kept _) _).setW _, State.w_setW ..⟩,
    fun s _ h => ⟨_, yield_goes h, s.issued_kept _, s.issued_w _⟩⟩

end Sys2Proof.Proofs.Bars
end

section
/-! The tasks of a job card and their versions (R150, R154, R176, R177, R305, R340). -/

namespace Sys2Proof.Proofs.Tasks

open Sys2Proof Sys2Proof.Machine Sys2Proof.Proofs.Arms Sys2Proof.Proofs.Issue Sys2Proof.Proofs.Wide Sys2Proof.Proofs.Tries

/-! ## Launches under the bookkeeping of an issue -/

theorem Kept.putLaunch {s t : State} (h : Kept s t) (id : Nat) (l : Launch) : Kept (s.putLaunch id l) (t.putLaunch id l) := by
  refine ⟨h.others, h.cores, ?_⟩
  obtain ⟨w, c, n, e⟩ : ∃ w c n, t = { s with warps := w, cores := c, smp := { s.smp with cnt := n } } := ⟨_, _, _, h.rest⟩
  subst e
  rfl

theorem Kept.putNextAge {s t : State} (h : Kept s t) (n : Nat) : Kept { s with nextAge := n } { t with nextAge := n } := by
  refine ⟨h.others, h.cores, ?_⟩
  obtain ⟨w, c, n, e⟩ : ∃ w c n, t = { s with warps := w, cores := c, smp := { s.smp with cnt := n } } := ⟨_, _, _, h.rest⟩
  subst e
  rfl

section
variable (i : Instr) (s : State)

theorem issued_launch (n : Nat) : (s.issued i).launch n = s.launch n := by rw [State.launch, (s.issued_kept i).rest]; rfl
theorem issued_block (n : Nat) : (s.issued i).block n = s.block n := by rw [State.block, (s.issued_kept i).rest]; rfl
theorem issued_nextAge : (s.issued i).nextAge = s.nextAge := by rw [(s.issued_kept i).rest]
theorem issued_vers : (s.issued i).vers = s.vers := by rw [(s.issued_kept i).rest]
theorem issued_cur : (s.issued i).cur = s.cur := by rw [(s.issued_kept i).rest]

end

section
variable {s u t : State} {w : Warp} {o : OpO} {k : BitVec 8}

/-! ## TASKGET (R154, R176) -/

/-- D and C written in a warp. -/
def answered (w : Warp) (o : OpO) (h : W32) (a : Nat) (ok : Bool) : Warp := (w.write 64 o.d 0 { n := a }).setStatus h o.c ok

/-- The two results of a TASKGET with an s destination. -/
theorem answered_is (hc : o.c = .p k) (hd : o.d.isS = true) (w : Warp) (h : W32) (a : Nat) (ok : Bool) :
    ∃ u, WideIs w u o.d h a ∧ StatusIs u (answered w o h a ok) k h ok := by
  cases hx : o.d with
  | s j =>
    refine ⟨w.write 64 (.s j) 0 { n := a }, wideResult_is w h (.s j) a, ?_⟩
    rw [answered, hc, hx]
    exact setStatus_is ..
  | v j => rw [hx] at hd; cases hd
  | p j => rw [hx] at hd; cases hd
  | l j => rw [hx] at hd; cases hd

/-- A TASKGET that answers from the state `t`, in which the warp is `w`. -/
theorem goes_of_taskResult {c : Checks} {eff : State → State} {a : Word} {ok : Bool} (h : Acts (.taskget o) s o.pr [])
    (hx : exec (.taskget o) s = warpWide (.taskget o) o.pr [] 0x0B s c eff) (hr : c.ready = true) (he : c.early = none)
    (hw : c.watch = none) (hl : c.late = none) (ht : eff (s.issued (.taskget o)) = t.taskResult o (s.w.holds o.pr) a ok)
    (hk : Kept u t) (htw : t.w = w) : Goes (.taskget o) s u (answered w o (s.w.holds o.pr) a.toNat ok) :=
  goes_of_acts h hx hr he (.inr hw) hl (t := t.setW (answered w o (s.w.holds o.pr) a.toNat ok))
    (by rw [ht, State.taskResult, htw]; rfl) (hk.setW _) (State.w_setW ..)

theorem exec_taskget_closed (ht : s.w.tryOpen = false) : exec (.taskget o) s =
    if s.w.tskValid then
      warpWide (.taskget o) o.pr [] 0x0B s { ready := s.operandsFree (.taskget o) [o.d] 1 (s.w.holds o.pr) } fun t =>
        t.taskResult o (s.w.holds o.pr) ((s.launch s.w.launch).recordOf s.w.tskIdx.toNat) true
    else if (s.launch s.w.launch).job.isNone then
      warpWide (.taskget o) o.pr [] 0x0B s { ready := s.operandsFree (.taskget o) [o.d] 1 (s.w.holds o.pr) } fun t =>
        t.taskResult o (s.w.holds o.pr) 0 false
    else match look [] (s.launch s.w.launch).chunks (s.block s.w.blk).idx with
      | i :: rest =>
        warpWide (.taskget o) o.pr [] 0x0B s
          { ready := s.operandsFree (.taskget o) [o.d] 1 (s.w.holds o.pr) && (!(s.launch s.w.launch).vers || s.freeTag.isSome) } fun t =>
          (t.drawTask i rest).taskResult o (s.w.holds o.pr) ((s.launch s.w.launch).recordOf i) true
      | [] =>
        warpWide (.taskget o) o.pr [] 0x0B s
          { ready := s.operandsFree (.taskget o) [o.d] 1 (s.w.holds o.pr) && (decide ((s.launch s.w.launch).rem = 0) &&
              (s.launch s.w.launch).redeal.isEmpty && (s.launch s.w.launch).undone.isEmpty)
            sent := some (if s.operandsFree (.taskget o) [o.d] 1 (s.w.holds o.pr) then s.askFor s.w.launch (s.block s.w.blk).idx
              else s) } fun t =>
          (t.putLaunch s.w.launch { t.launch s.w.launch with
            asks := (s.launch s.w.launch).asks.filter fun x => decide (x.2 ≠ (s.block s.w.blk).idx) }).taskResult o
                (s.w.holds o.pr) 0 false :=
  (exec_taskget ..).trans (tryless_closed ht)

section
variable (h : Acts (.taskget o) s o.pr []) (ht : s.w.tryOpen = false)
  (hf : s.operandsFree (.taskget o) [o.d] 1 (s.w.holds o.pr) = true)
include h ht hf

theorem taskget_again (hv : s.w.tskValid = true) : Goes (.taskget o) s s
    (answered s.w1 o (s.w.holds o.pr) ((s.launch s.w.launch).recordOf s.w.tskIdx.toNat).toNat true) :=
  goes_of_taskResult h ((exec_taskget_closed ht).trans (if_pos hv)) hf rfl rfl rfl rfl (s.issued_kept _) (s.issued_w _)

theorem taskget_noJob (hv : s.w.tskValid = false) (hj : (s.launch s.w.launch).job = none) :
    Goes (.taskget o) s s (answered s.w1 o (s.w.holds o.pr) 0 false) :=
  goes_of_taskResult (a := 0) h ((exec_taskget_closed ht).trans ((if_neg (by simp [hv])).trans (if_pos (by rw [hj]; rfl))))
    hf rfl rfl rfl rfl (s.issued_kept _) (s.issued_w _)

/-- The warp that holds task `i`. -/
def drew (w : Warp) (i age : Nat) : Warp :=
  { w with tskValid := true, tskVers := false, tskIdx := BitVec.ofNat 32 i, tskVer := 0, tskAge := age }

theorem taskget_draws {i : Nat} {rest : List Nat} (hv : s.w.tskValid = false) (hj : (s.launch s.w.launch).job ≠ none)
    (hn : (s.launch s.w.launch).vers = false) (hc : look [] (s.launch s.w.launch).chunks (s.block s.w.blk).idx = i :: rest) :
    Goes (.taskget o) s ({ s with nextAge := s.nextAge + 1 }.putLaunch s.w.launch { s.launch s.w.launch with
        chunks := put [] (s.launch s.w.launch).chunks (s.block s.w.blk).idx rest })
      (answered (drew s.w1 i s.nextAge) o (s.w.holds o.pr) ((s.launch s.w.launch).recordOf i).toNat true) := by
  have hw : (s.issued (.taskget o)).w = s.w1 := s.issued_w _
  have hl := issued_launch (.taskget o) s s.w.launch
  have hjob : ¬ (s.launch s.w.launch).job.isNone = true := by rw [Option.isNone_iff_eq_none]; exact hj
  have hx := (exec_taskget_closed (o := o) ht).trans ((if_neg (by simp [hv])).trans (if_neg hjob))
  rw [hc] at hx
  refine goes_of_taskResult h hx (by simp [hf, hn]) rfl rfl rfl
    (t := (({ s.issued (.taskget o) with nextAge := s.nextAge + 1 } : State).putLaunch s.w.launch { s.launch s.w.launch with
        chunks := put [] (s.launch s.w.launch).chunks (s.block s.w.blk).idx rest }).setW (drew s.w1 i s.nextAge)) ?_
    ((Kept.putLaunch (Kept.putNextAge (s.issued_kept _) _) _ _).setW _) (State.w_setW ..)
  have hb := issued_block (.taskget o) s s.w.blk
  have ha := issued_nextAge (.taskget o) s
  have hd : (s.issued (.taskget o)).drawTask i rest = (({ s.issued (.taskget o) with nextAge := s.nextAge + 1 } : State).putLaunch
      s.w.launch { s.launch s.w.launch with
        chunks := put [] (s.launch s.w.launch).chunks (s.block s.w.blk).idx rest }).setW (drew s.w1 i s.nextAge) := by
    have hwl : s.w1.launch = s.w.launch := rfl
    have hwb : s.w1.blk = s.w.blk := rfl
    simp only [State.drawTask, hw, hwl, hwb, hl, hn, hb, Bool.false_eq_true, if_false]
    rw [← ha]
    rfl
  rw [hd]

theorem taskget_over (hv : s.w.tskValid = false) (hj : (s.launch s.w.launch).job ≠ none)
    (hc : look [] (s.launch s.w.launch).chunks (s.block s.w.blk).idx = []) (hr : (s.launch s.w.launch).rem = 0)
    (hd : (s.launch s.w.launch).redeal = []) (hu : (s.launch s.w.launch).undone = []) :
    Goes (.taskget o) s (s.putLaunch s.w.launch { s.launch s.w.launch with
        asks := (s.launch s.w.launch).asks.filter fun x => decide (x.2 ≠ (s.block s.w.blk).idx) })
      (answered s.w1 o (s.w.holds o.pr) 0 false) := by
  have hl := issued_launch (.taskget o) s s.w.launch
  have hjob : ¬ (s.launch s.w.launch).job.isNone = true := by rw [Option.isNone_iff_eq_none]; exact hj
  have hx := (exec_taskget_closed (o := o) ht).trans ((if_neg (by simp [hv])).trans (if_neg hjob))
  rw [hc] at hx
  refine goes_of_taskResult (a := 0) h hx (by simp [hf, hr, hd, hu]) rfl rfl rfl (by rw [hl])
    (Kept.putLaunch (s.issued_kept _) _ _) ((State.putLaunch_w ..).trans (s.issued_w _))

end

/-! ## TASKDONE (R154, R177) -/

theorem taskdone_none (h : Acts (.taskdone o) s o.pr []) (ht : s.w.tryOpen = false) (hv : s.w.tskValid = false) :
    Goes (.taskdone o) s s s.w1 := by
  have hx : exec (.taskdone o) s = _ := (exec_taskdone ..).trans ((tryless_closed ht).trans (if_pos (by simp [hv])))
  exact goes_of_acts h hx rfl rfl (.inr rfl) rfl (t := s.issued (.taskdone o)) rfl (s.issued_kept _) (s.issued_w _)

/-- The warp whose task has ended. -/
def ended (w : Warp) : Warp := { w with tskValid := false, tskVers := false, tskIdx := 0, tskVer := 0, tskAge := 0 }

theorem taskdone_ends (h : Acts (.taskdone o) s o.pr []) (ht : s.w.tryOpen = false) (hv : s.w.tskValid = true)
    (hn : s.w.tskVers = false) :
    Goes (.taskdone o) s (s.putLaunch s.w.launch { s.launch s.w.launch with
        undone := (s.launch s.w.launch).undone.filter fun j => decide (j ≠ s.w.tskIdx.toNat)
        tries := put 0 (s.launch s.w.launch).tries s.w.tskIdx.toNat 0 }) (ended s.w1) := by
  have hw : (s.issued (.taskdone o)).w = s.w1 := s.issued_w _
  have hl := issued_launch (.taskdone o) s s.w.launch
  have hx : exec (.taskdone o) s = _ := (exec_taskdone ..).trans ((tryless_closed ht).trans
    ((if_neg (by simp [hv]; exact h.2.2)).trans (if_pos (by rw [hn]; rfl))))
  refine goes_of_acts h hx rfl rfl (.inr rfl) rfl
    (t := ((s.issued (.taskdone o)).putLaunch s.w.launch { s.launch s.w.launch with
        undone := (s.launch s.w.launch).undone.filter fun j => decide (j ≠ s.w.tskIdx.toNat)
        tries := put 0 (s.launch s.w.launch).tries s.w.tskIdx.toNat 0 }).setW (ended s.w1)) ?_
    ((Kept.putLaunch (s.issued_kept _) _ _).setW _) (State.w_setW ..)
  have hwl : s.w1.launch = s.w.launch := rfl
  have hwi : s.w1.tskIdx = s.w.tskIdx := rfl
  simp only [State.endTask, hw, hwl, hwi, hl]
  rfl

/-! ## VBEGIN and VEND (R340) -/

theorem vbegin_opens {tag : Nat} (h : Acts (.vbegin o) s o.pr []) (ht : s.w.tryOpen = false) (hv : s.w.tskValid = true)
    (hn : s.w.tskVers = false) (hf : s.freeTag = some tag) :
    Goes (.vbegin o) s { s with vers := put {} s.vers tag { taken := true, warp := s.cur, task := true, age := s.w.tskAge } }
      ({ s.w1 with tskVers := true, tskVer := tag }.setStatus (s.w.holds o.pr) o.d true) := by
  have hw : (s.issued (.vbegin o)).w = s.w1 := s.issued_w _
  have hm : (s.w.tskValid && !s.w.tskVers && !s.w.tryOpen) = true := by rw [ht, hv, hn]; rfl
  refine goes_of_acts h (exec_vbegin ..) (by simp [hf]) rfl (.inr rfl) rfl
    (t := (State.setW { s.issued (.vbegin o) with
        vers := put {} s.vers tag { taken := true, warp := s.cur, task := true, age := s.w.tskAge } }
      { s.w1 with tskVers := true, tskVer := tag }).setW
        ({ s.w1 with tskVers := true, tskVer := tag }.setStatus (s.w.holds o.pr) o.d true)) ?_
    (((Kept.putVers (s.issued_kept _) _).setW _).setW _) (State.w_setW ..)
  simp only [hm, if_true, issued_freeTag, hf, State.statusNext, State.w_setW, hw, issued_vers, issued_cur]
  rfl

/-- A status that nothing else goes with. -/
theorem goes_of_statusNext {i : Instr} {c : Checks} {eff : State → State} {ok : Bool} (h : Acts i s o.pr [])
    (hx : exec i s = warpWide i o.pr [] 0x0B s c eff) (hr : c.ready = true) (he : c.early = none) (hl : c.late = none)
    (hw : c.watch = none) (ht : eff (s.issued i) = (s.issued i).statusNext (s.w.holds o.pr) o.d ok) (hi : i.words = 1) :
    Goes i s s (s.w1.setStatus (s.w.holds o.pr) o.d ok) :=
  goes_of_setW (f := fun w => w.setStatus (s.w.holds o.pr) o.d ok) h hx hr he hl hw (by rw [ht, hi]; rfl)

theorem vbegin_refuses (h : Acts (.vbegin o) s o.pr []) (hv : s.w.tryOpen = true ∨ s.w.tskValid = false ∨ s.w.tskVers = true) :
    Goes (.vbegin o) s s (s.w1.setStatus (s.w.holds o.pr) o.d false) := by
  have hm : (s.w.tskValid && !s.w.tskVers && !s.w.tryOpen) = false := by
    rcases hv with hv | hv | hv <;> rw [hv] <;> simp
  refine goes_of_statusNext h (exec_vbegin ..) (by rw [hm]; rfl) rfl rfl rfl ?_ rfl
  rw [hm]
  rfl

theorem vend_refuses (h : Acts (.vend o) s o.pr []) (hv : s.w.tryOpen = true ∨ s.w.tskVers = false) :
    Goes (.vend o) s s (s.w1.setStatus (s.w.holds o.pr) o.d false) := by
  have hm : (!s.w.tskVers || s.w.tryOpen || decide (s.w.holds o.pr = 0)) = true := by
    rcases hv with hv | hv <;> rw [hv] <;> simp
  exact goes_of_statusNext h ((exec_vend ..).trans (if_pos hm)) rfl rfl rfl rfl rfl rfl

theorem vend_closes (h : Acts (.vend o) s o.pr []) (ht : s.w.tryOpen = false) (hv : s.w.tskVers = true) (hi : s.idleIn 4)
    (hn : s.holdsNothing s.w.tskVer) :
    Goes (.vend o) s { s with vers := put {} s.vers s.w.tskVer {} }
      ({ s.w1 with tskVers := false, tskVer := 0 }.setStatus (s.w.holds o.pr) o.d true) := by
  have hk := s.issued_kept (.vend o)
  have hw : (s.issued (.vend o)).w = s.w1 := s.issued_w _
  have hm : ¬ (!s.w.tskVers || s.w.tryOpen || decide (s.w.holds o.pr = 0)) = true := by
    rw [ht, hv]; simpa using h.2.2
  have hn' := holdsNothing_kept hn hk
  have hkc := Kept.countCtx hk s.w1.ctx 0x10E
  have hd : (((s.issued (.vend o)).countCtx s.w1.ctx 0x10E).dropVersion s.w.tskVer) =
      { (s.issued (.vend o)).countCtx s.w1.ctx 0x10E with vers := put {} s.vers s.w.tskVer {} } := by
    rw [dropVersion_nothing (holdsNothing_kept hn hkc)]
    rw [hkc.rest]
  have hwv : State.w { (s.issued (.vend o)).countCtx s.w1.ctx 0x10E with vers := put {} s.vers s.w.tskVer {} } = s.w1 :=
    (State.countCtx_w ..).trans hw
  refine ⟨(State.setW { (s.issued (.vend o)).countCtx s.w1.ctx 0x10E with vers := put {} s.vers s.w.tskVer {} }
      { s.w1 with tskVers := false, tskVer := 0 }).setW
        ({ s.w1 with tskVers := false, tskVer := 0 }.setStatus (s.w.holds o.pr) o.d true), ?_,
    ((Kept.putVers hkc _).setW _).setW _, State.w_setW ..⟩
  rw [exec_vend, execVend]
  dsimp only
  rw [if_neg hm, releaseL1_idle hi, quiet_idle hi, if_pos rfl, canPublish_nothing hn]
  refine (warpWide_acts h (by rw [released_idle hi]; rfl) rfl (.inr rfl) rfl).trans ?_
  rw [publishMem_nothing hn', hw, hd, hwv, State.statusNext, State.w_setW]
  rfl

end

/-- Settles O35. -/
theorem tasks : Obligations.Tasks := by
  refine ⟨fun s o k h ht hc hd hf => ⟨fun hv => ?_, fun hv hj => ?_, fun i rest hv hj hn hk => ?_, fun hv hj hk hr hre hu => ?_⟩,
    fun s o h ht hv => taskdone_none h ht hv, fun s o h ht hv hn => taskdone_ends h ht hv hn,
    fun s o k tag h hd ht hv hn hf => ⟨_, setStatus_is .., hd ▸ vbegin_opens h ht hv hn hf⟩,
    fun s o k h hd hv => ⟨_, setStatus_is .., hd ▸ vbegin_refuses h hv⟩,
    fun s o k h hd hv => ⟨_, setStatus_is .., hd ▸ vend_refuses h hv⟩,
    fun s o k h hd ht hv hi hn => ⟨_, setStatus_is .., hd ▸ vend_closes h ht hv hi hn⟩⟩
  · obtain ⟨u, h1, h2⟩ := answered_is hc hd s.w1 (s.w.holds o.pr) ((s.launch s.w.launch).recordOf s.w.tskIdx.toNat).toNat true
    exact ⟨u, _, h1, h2, taskget_again h ht hf hv⟩
  · obtain ⟨u, h1, h2⟩ := answered_is hc hd s.w1 (s.w.holds o.pr) 0 false
    exact ⟨u, _, h1, h2, taskget_noJob h ht hf hv hj⟩
  · obtain ⟨u, h1, h2⟩ := answered_is hc hd (drew s.w1 i s.nextAge) (s.w.holds o.pr) ((s.launch s.w.launch).recordOf i).toNat true
    exact ⟨u, _, h1, h2, taskget_draws h ht hf hv hj hn hk⟩
  · obtain ⟨u, h1, h2⟩ := answered_is hc hd s.w1 (s.w.holds o.pr) 0 false
    exact ⟨u, _, h1, h2, taskget_over h ht hf hv hj hk hr hre hu⟩

end Sys2Proof.Proofs.Tasks
end

section
/-! SRD and SWR (R334 to R337): what a read answers and what a write leaves. -/

namespace Sys2Proof.Proofs.Special

open Sys2Proof Sys2Proof.Machine Sys2Proof.Proofs.Arms Sys2Proof.Proofs.Issue Sys2Proof.Proofs.Wide

/-! ## Reading -/

/-- The registers as the specification lists them. -/
theorem sreg_of_special {s : State} {f n : Nat} (h : special s f = some n) : s.sreg f = n := by
  unfold special at h
  split at h
  · next hf =>
    obtain ⟨h24, h31⟩ := hf
    cases h
    obtain rfl | rfl | rfl | rfl | rfl | rfl | rfl | rfl : f = 24 ∨ f = 25 ∨ f = 26 ∨ f = 27 ∨ f = 28 ∨ f = 29 ∨ f = 30 ∨ f = 31 := by
      omega
    all_goals rfl
  · split at h <;> cases h <;> simp only [State.sreg, State.ocnt, Warp.tryst, Warp.tskid, pkgOf, widOf] <;> omega

/-- The bookkeeping of an issue changes no register that SRD reads. -/
theorem sreg_kept {s t : State} (h : Kept s t) (hw : t.w = s.w1) (f : Nat) : t.sreg f = s.sreg f := by
  have hd : (t.core s.cid).tagDone = (s.core s.cid).tagDone := by rw [h.cores]
  have he : (t.core s.cid).tagErr = (s.core s.cid).tagErr := by rw [h.cores]
  obtain ⟨w, c, n, e⟩ : ∃ w c n, t = { s with warps := w, cores := c, smp := { s.smp with cnt := n } } := ⟨_, _, _, h.rest⟩
  subst e
  have hcid : State.cid { s with warps := w, cores := c, smp := { s.smp with cnt := n } } = s.cid := rfl
  simp only [State.sreg, hw, hcid, hd, he]
  rfl

/-! ## Writing -/

theorem Kept.putCtx {s t : State} (h : Kept s t) (k : Nat) (x : Ctx) : Kept (s.putCtx k x) (t.putCtx k x) := by
  refine ⟨h.others, h.cores, ?_⟩
  obtain ⟨w, c, n, e⟩ : ∃ w c n, t = { s with warps := w, cores := c, smp := { s.smp with cnt := n } } := ⟨_, _, _, h.rest⟩
  subst e
  rfl

/-- A write as the specification lists it, in the state that the issue leaves. -/
theorem writeSreg_rewrites {s t u : State} {w : Warp} {f : Nat} {x : Word} (h : rewrites s f x = some (u, w)) (hk : Kept s t)
    (hw : t.w = s.w1) : Kept u (t.writeSreg f x) ∧ (t.writeSreg f x).w = w := by
  have hx : t.ctx s.w.ctx = s.ctx s.w.ctx := by rw [State.ctx, hk.rest]; rfl
  have hset (v : Warp) : Kept s (t.setW v) ∧ (t.setW v).w = v := ⟨hk.setW v, State.w_setW ..⟩
  have hctx (y : Ctx) : Kept (s.putCtx s.w.ctx y) (t.putCtx s.w.ctx y) ∧ (t.putCtx s.w.ctx y).w = s.w1 :=
    ⟨Kept.putCtx hk _ y, hw⟩
  unfold rewrites at h
  split at h <;> cases h <;> simp only [State.writeSreg, hw]
  iterate 10 exact hset _
  all_goals rw [← hx]; exact hctx _

/-- Settles O36. -/
theorem specialRegisters : Obligations.SpecialRegisters := by
  refine ⟨fun s reg o n h hn hf => ⟨_, wideResult_is .., ?_⟩, fun s reg o u w h h1 h2 hr => ?_⟩
  · refine goes_of_setW (f := fun w => w.wideResult (s.w.holds o.pr) o.d n) h (exec_srd ..) hf rfl rfl rfl ?_
    rw [sreg_kept (s.issued_kept _) (s.issued_w _), sreg_of_special hn]
    rfl
  · have hx : rewrites s reg.toNat (BitVec.ofNat 64 (s.w.val64 o.a)) = some (u, w) := hr
    obtain ⟨hk, hw⟩ := writeSreg_rewrites hx (s.issued_kept (.swr reg o)) (s.issued_w _)
    have he : exec (.swr reg o) s = execSwr reg o s := exec_swr ..
    by_cases hb : reg = 2
    · obtain ⟨ht, hz, hlo, hhi⟩ := h2 hb
      subst hb
      refine goes_of_acts h (he.trans (tryless_closed ht)) (decide_eq_true hz) rfl (.inr rfl) (if_neg ?_) rfl hk hw
      rw [Bool.or_eq_true, decide_eq_true_eq, decide_eq_true_eq]
      have hv : s.w.val64 o.a = (s.w.read 64 o.a 0).n := rfl
      have hm : Nat.min 256 s.w.rows = min 256 s.w.rows := rfl
      omega
    · have hb' : reg.toNat ≠ 2 := fun hc => hb (BitVec.eq_of_toNat_eq hc)
      by_cases hp : reg = 1
      · subst hp
        exact goes_of_acts h he rfl (if_neg (by simpa using (show partOk (s.w.val64 o.a) = true from h1 rfl))) (.inr rfl) rfl rfl hk hw
      · have hp' : reg.toNat ≠ 1 := fun hc => hp (BitVec.eq_of_toNat_eq hc)
        refine goes_of_acts (cause := 8) (c := {}) (eff := fun t => (t.writeSreg reg.toNat (BitVec.ofNat 64
            (s.w.val64 o.a))).advance 1) h
          (he.trans ?_) rfl rfl (.inr rfl) rfl rfl hk hw
        simp only [execSwr, if_neg hb', if_neg hp']

end Sys2Proof.Proofs.Special
end

section
/-! TRAP, BKPT, WPSET, HALTA and DUMPW (R299, R322, R338, R341 to R345). -/

namespace Sys2Proof.Proofs.Debug

open Sys2Proof Sys2Proof.Machine Sys2Proof.Proofs.Arms Sys2Proof.Proofs.Issue Sys2Proof.Proofs.Wide Sys2Proof.Proofs.Tasks

section
variable {s : State} {o : OpO}

/-! ## TRAP (R299, R338) -/

theorem trap_takes (h : Acts (.trap o) s o.pr [])
    (hn : s.handlerWaits { cls := 0x0A, cause := BitVec.ofNat 8 o.a.num } = none) :
    exec (.trap o) s = .next ((s.issued (.trap o)).takeTrap { cls := 0x0A, cause := BitVec.ofNat 8 o.a.num } (s.w.pc + 8)) := by
  have hw : (s.issued (.trap o)).w = s.w1 := s.issued_w _
  have hn' : s.handlerWaits { cls := clsSoft, cause := BitVec.ofNat 8 o.a.num } = none := hn
  rw [exec_trap, execTrap]
  refine (warpWide_acts h ?_ rfl (.inr rfl) rfl).trans ?_
  · rw [hn']
    rfl
  · rw [hw]
    rfl

/-! ## BKPT (R322, R324, R341) -/

theorem skip_eq : (s.w.skipBk && decide (s.w.skipPc = s.w.pc)) = true ↔ s.w.skipBk = true ∧ s.w.skipPc = s.w.pc := by simp

theorem bkpt_skips (h : Acts (.bkpt o) s o.pr []) (hb : s.w.skipBk = true) (hp : s.w.skipPc = s.w.pc) : Goes (.bkpt o) s s s.w1 :=
  goes_of_acts h (exec_bkpt ..) (t := s.issued (.bkpt o)) rfl rfl (.inr rfl) rfl (if_pos (skip_eq.mpr ⟨hb, hp⟩)) (s.issued_kept _)
    (s.issued_w _)

theorem bkpt_inHandler (h : Acts (.bkpt o) s o.pr []) (hb : s.w.skipBk = true → s.w.skipPc ≠ s.w.pc) (hi : s.w.inh = true) :
    exec (.bkpt o) s = .next ((s.issued (.bkpt o)).takeTrap { cls := 0x09, cause := 2 } s.w.pc) := by
  have hw : (s.issued (.bkpt o)).w = s.w1 := s.issued_w _
  have hskip : ¬ (s.w.skipBk && decide (s.w.skipPc = s.w.pc)) = true := fun hc => hb (skip_eq.mp hc).1 (skip_eq.mp hc).2
  rw [exec_bkpt, execBkpt]
  refine (warpWide_acts h rfl rfl (.inr rfl) rfl).trans ?_
  rw [if_neg hskip, hw, if_pos (show s.w1.inh = true from hi)]
  rfl

theorem bkpt_stops (h : Acts (.bkpt o) s o.pr []) (hb : s.w.skipBk = true → s.w.skipPc ≠ s.w.pc) (hi : s.w.inh = false)
    (ht : s.w.tryOpen = false) : exec (.bkpt o) s = .next ((s.issued (.bkpt o)).stopAt 2 noHit) := by
  have hw : (s.issued (.bkpt o)).w = s.w1 := s.issued_w _
  have hskip : ¬ (s.w.skipBk && decide (s.w.skipPc = s.w.pc)) = true := fun hc => hb (skip_eq.mp hc).1 (skip_eq.mp hc).2
  rw [exec_bkpt, execBkpt]
  refine (warpWide_acts h rfl rfl (.inr rfl) rfl).trans ?_
  rw [if_neg hskip, hw, if_neg (by rw [show s.w1.inh = false from hi]; exact Bool.false_ne_true), State.debugStop, hw,
    if_neg (by rw [show s.w1.tryOpen = false from ht]; exact Bool.false_ne_true)]

/-! ## The debug ring (R324) -/

section
variable (t : State) (cause : BitVec 8) (n : Nat) (pc : Word) (exm hit : W32) (addr : Word)

theorem dbgRecord_cases : ∃ x, t.dbgRecord cause n pc exm hit addr =
      t.putCore t.cid { t.core t.cid with dbgRing := (x :: (t.core t.cid).dbgRing).take Config.dbgRingSize } ∨
    (t.ctx t.w.ctx).conf = true ∧ ∃ y, t.dbgRecord cause n pc exm hit addr =
      (t.putCore t.cid { t.core t.cid with dbgRing := (x :: (t.core t.cid).dbgRing).take Config.dbgRingSize }).putCtx t.w.ctx y := by
  simp only [State.dbgRecord]
  by_cases hc : (t.ctx t.w.ctx).conf = true
  · rw [if_neg (by rw [hc]; exact Bool.false_ne_true)]
    exact ⟨_, .inr ⟨hc, _, rfl⟩⟩
  · rw [if_pos (by simpa using hc)]
    exact ⟨_, .inl rfl⟩

/-- A record changes the ring of the core and, in a confidential context, the context's dump area. -/
theorem dbgRecord_frame : ∃ x y, t.dbgRecord cause n pc exm hit addr = { t with
      cores := put {} t.cores t.cid { t.core t.cid with dbgRing := (x :: (t.core t.cid).dbgRing).take Config.dbgRingSize }, ctxs := y } ∧
    ((t.ctx t.w.ctx).conf = false → y = t.ctxs) := by
  obtain ⟨x, h | ⟨hc, y, h⟩⟩ := dbgRecord_cases t cause n pc exm hit addr
  · exact ⟨x, t.ctxs, h, fun _ => rfl⟩
  · exact ⟨x, put {} t.ctxs t.w.ctx y, h, fun hf => by rw [hc] at hf; cases hf⟩

end

theorem stopAt_frame (t : State) (cause : BitVec 8) (x : WatchHit) :
    (t.stopAt cause x).w = { t.w with status := .stopped, urgent := false, haltReq := false, epc := t.w.pc
                                      tcause := tcauseOf false t.w.inh clsDebug cause 0, taddr := x.addr } ∧
    ((t.stopAt cause x).core t.cid).dbgRing.length = min 16 ((t.core t.cid).dbgRing.length + 1) ∧
    (t.stopAt cause x).mem = t.mem ∧ (t.stopAt cause x).ops = t.ops ∧ (t.stopAt cause x).cmds = t.cmds ∧
    ((t.ctx t.w.ctx).conf = false → (t.stopAt cause x).ctxs = t.ctxs) := by
  obtain ⟨y, c, h, hc⟩ := dbgRecord_frame t cause x.wps t.w.pc t.w.exm x.hit x.addr
  simp only [State.stopAt, h]
  refine ⟨State.w_setW .., ?_, rfl, rfl, rfl, hc⟩
  show (look {} (put {} t.cores t.cid _) t.cid).dbgRing.length = _
  rw [look_put_same, List.length_take, List.length_cons]
  rfl

theorem bkpt_stopped (h : Acts (.bkpt o) s o.pr []) (hb : s.w.skipBk = true → s.w.skipPc ≠ s.w.pc) (hi : s.w.inh = false)
    (ht : s.w.tryOpen = false) :
    ∃ t, exec (.bkpt o) s = .next t ∧
      t.w = { s.w1 with
        status := .stopped, haltReq := false, epc := s.w.pc, tcause := tcauseOf false false 0x09 2 0, taddr := 0 } ∧
      (t.core s.cid).dbgRing.length = min 16 ((s.core s.cid).dbgRing.length + 1) ∧ t.mem = s.mem ∧ t.ops = s.ops ∧
      t.cmds = s.cmds ∧ ((s.ctx s.w.ctx).conf = false → t.ctxs = s.ctxs) := by
  have hk := s.issued_kept (.bkpt o)
  have hw : (s.issued (.bkpt o)).w = s.w1 := s.issued_w _
  have hcid := issued_cid (.bkpt o) s
  obtain ⟨h1, h2, h3, h4, h5, h6⟩ := stopAt_frame (s.issued (.bkpt o)) 2 noHit
  have hx : (s.issued (.bkpt o)).ctx s.w.ctx = s.ctx s.w.ctx := by rw [State.ctx, hk.rest]; rfl
  have hr : ((s.issued (.bkpt o)).core s.cid).dbgRing = (s.core s.cid).dbgRing := by rw [hk.cores]
  refine ⟨_, bkpt_stops h hb hi ht, ?_, ?_, ?_, ?_, ?_, fun hc => ?_⟩
  · rw [h1, hw, show s.w1.inh = false from hi]
    rfl
  · rw [hcid, hr] at h2
    exact h2
  · rw [h3, hk.rest]
  · rw [h4, hk.rest]
  · rw [h5, hk.rest]
  · rw [h6 (by rw [hw, show s.w1.ctx = s.w.ctx from rfl, hx]; exact hc), hk.rest]

/-! ## WPSET (R342) -/

theorem wpset_sets (h : Acts (.wpset o) s o.pr [(o.a, 2), (o.b, 2)]) (h1 : (s.w.read 64 o.b 0).n ≤ 255)
    (h2 : (s.w.read 64 o.b 0).n % 32 ≤ 20) :
    Goes (.wpset o) s s (s.w1.watching o.d.num
      { addr := BitVec.ofNat 64 (s.w.read 64 o.a 0).n, ctl := BitVec.ofNat 8 (s.w.read 64 o.b 0).n }) := by
  refine goes_of_setW (f := fun w => w.watching o.d.num
      { addr := BitVec.ofNat 64 (s.w.read 64 o.a 0).n, ctl := BitVec.ofNat 8 (s.w.read 64 o.b 0).n }) h (exec_wpset ..) rfl
    (if_neg ?_) rfl rfl rfl
  have hv : s.w.val64 o.b = (s.w.read 64 o.b 0).n := rfl
  rw [Bool.or_eq_true, decide_eq_true_eq, decide_eq_true_eq]
  omega

end

/-- Settles O37. -/
theorem debugTraps : Obligations.DebugTraps :=
  ⟨fun s _ h hn => ⟨_, trap_takes h hn, s.issued_kept _, s.issued_w _⟩, fun _ _ h hb hi ht => bkpt_stopped h hb hi ht,
    fun _ _ h hb hp => bkpt_skips h hb hp, fun s _ h hb hi => ⟨_, bkpt_inHandler h hb hi, s.issued_kept _, s.issued_w _⟩,
    fun _ _ h h1 h2 => wpset_sets h h1 h2⟩

end Sys2Proof.Proofs.Debug
end

section
/-! HALTA and DUMPW (R343 to R345): the warps that they name, and how their waits end. -/

namespace Sys2Proof.Proofs.Dumps

open Sys2Proof Sys2Proof.Machine Sys2Proof.Proofs.Arms Sys2Proof.Proofs.Issue Sys2Proof.Proofs.Wide Sys2Proof.Proofs.Tasks

/-! ## The other warps -/

/-- A write leaves every other entry of a map where it is. -/
theorem filter_put {α : Type} [DecidableEq α] (d : α) (m : FMap α) (k : Nat) (v : α) :
    (put d m k v).filter (fun e => decide (e.1 ≠ k)) = m.filter fun e => decide (e.1 ≠ k) := by
  have hdel (m : FMap α) : (mapDel m k).filter (fun e => decide (e.1 ≠ k)) = m.filter fun e => decide (e.1 ≠ k) := by
    induction m with
    | nil => rfl
    | cons x m ih =>
      obtain ⟨j, y⟩ := x
      by_cases hj : k = j
      · subst hj; simpa [mapDel] using ih
      · simpa [mapDel, hj, Ne.symm hj] using ih
  have hins (m : FMap α) : (mapIns m k v).filter (fun e => decide (e.1 ≠ k)) = m.filter fun e => decide (e.1 ≠ k) := by
    induction m with
    | nil => simp [mapIns]
    | cons x m ih =>
      obtain ⟨j, y⟩ := x
      simp only [mapIns]
      split
      · simp
      · split
        · next h => subst h; simp
        · next h => simpa [Ne.symm h] using ih
  unfold put
  split
  · exact hdel m
  · exact hins m

theorem issued_warps (i : Instr) (s : State) : (s.issued i).warps = put {} s.warps s.cur s.w1 := by
  unfold State.issued
  rw [State.countIssue_eq, State.tagIssue_eq, State.takeSlot_eq]
  rfl

/-- Two states in which the warp at hand stands in the same place and the other warps are the same. -/
structure SameOthers (s t : State) : Prop where
  others : (t.warps.filter fun e => decide (e.1 ≠ s.cur)) = s.warps.filter fun e => decide (e.1 ≠ s.cur)
  cur : t.cur = s.cur
  launches : t.launches = s.launches
  blocks : t.blocks = s.blocks
  launch : t.w.launch = s.w.launch
  blk : t.w.blk = s.w.blk
  lin : t.w.lin = s.w.lin

theorem issued_others (i : Instr) (s : State) : SameOthers s (s.issued i) where
  others := by rw [issued_warps, filter_put]
  cur := issued_cur i s
  launches := by rw [(s.issued_kept i).rest]
  blocks := by rw [(s.issued_kept i).rest]
  launch := by rw [State.issued_w]; rfl
  blk := by rw [State.issued_w]; rfl
  lin := by rw [State.issued_w]; rfl

theorem SameOthers.setW {s t : State} (h : SameOthers s t) (w : Warp) (h1 : w.launch = s.w.launch) (h2 : w.blk = s.w.blk)
    (h3 : w.lin = s.w.lin) : SameOthers s (t.setW w) where
  others := by
    have := filter_put {} t.warps t.cur w
    rw [h.cur] at this
    show (put {} t.warps t.cur w).filter _ = _
    rw [h.cur, this, h.others]
  cur := h.cur
  launches := h.launches
  blocks := h.blocks
  launch := by rw [State.w_setW]; exact h1
  blk := by rw [State.w_setW]; exact h2
  lin := by rw [State.w_setW]; exact h3

theorem mem_insertBy {α : Type} (f : α → Nat) (x y : α) (l : List α) : y ∈ insertBy f x l ↔ y = x ∨ y ∈ l := by
  induction l with
  | nil => simp [insertBy]
  | cons z l ih =>
    simp only [insertBy]
    split
    · simp
    · simp only [List.mem_cons, ih]
      grind

theorem mem_sortBy {α : Type} (f : α → Nat) (y : α) (l : List α) : y ∈ sortBy f l ↔ y ∈ l := by
  induction l with
  | nil => simp [sortBy]
  | cons z l ih => rw [sortBy, mem_insertBy, ih, List.mem_cons]

theorem SameOthers.unitOf {s t : State} (h : SameOthers s t) (w : Warp) (n : Nat) : t.unitOf w n = s.unitOf w n := by
  simp only [State.unitOf, State.launch, State.block, h.launches, h.blocks]

theorem SameOthers.mem_warps {s t : State} (h : SameOthers s t) {e : Nat × Warp} (he : e.1 ≠ s.cur) :
    e ∈ t.warps ↔ e ∈ s.warps := by
  have := congrArg (e ∈ ·) h.others
  simpa [he] using this

/-- The mates of the warp at hand in its block are the same. -/
theorem SameOthers.mem_blockMates {s t : State} (h : SameOthers s t) (e : Nat × Warp) :
    e ∈ t.blockMates s.cur ↔ e ∈ s.blockMates s.cur := by
  have hw : t.warp s.cur = t.w := by rw [State.w, h.cur]
  have hl : (t.warp s.cur).launch = (s.warp s.cur).launch := hw ▸ h.launch
  have hb : (t.warp s.cur).blk = (s.warp s.cur).blk := hw ▸ h.blk
  simp only [State.blockMates, State.blockWarps, List.mem_filter, mem_sortBy, decide_eq_true_eq, hl, hb]
  constructor <;> rintro ⟨⟨h1, h2⟩, h3⟩
  · exact ⟨⟨(h.mem_warps h3).mp h1, h2⟩, h3⟩
  · exact ⟨⟨(h.mem_warps h3).mpr h1, h2⟩, h3⟩

theorem SameOthers.blockMates_nil {s t : State} (h : SameOthers s t) (hs : s.blockMates s.cur = []) :
    t.blockMates s.cur = [] := by
  refine List.eq_nil_iff_forall_not_mem.mpr fun e he => ?_
  rw [h.mem_blockMates, hs] at he
  cases he

theorem SameOthers.haltaTargets {s t : State} (h : SameOthers s t) (lvl : Nat) : t.haltaTargets lvl = s.haltaTargets lvl := by
  have key (L : FMap Warp) (P : Nat × Warp → Bool) (k : Nat) : ((L.filter P).map (·.1)).filter (fun j => decide (j ≠ k)) =
      ((L.filter fun e => decide (e.1 ≠ k)).filter P).map (·.1) := by
    rw [List.filter_map, List.filter_filter, List.filter_filter]
    refine congrArg _ (List.filter_congr fun e _ => ?_)
    exact Bool.and_comm ..
  have hu : t.unitOf t.w lvl = s.unitOf s.w lvl := by
    simp only [State.unitOf, State.launch, State.block, h.launches, h.blocks, h.launch, h.blk, h.lin]
  simp only [State.haltaTargets, State.unitWarps, key, h.cur, h.others, h.launch, hu, h.unitOf]

/-! ## HALTA (R343) -/

section
variable {s : State} {o : OpO} {k : BitVec 8}

theorem halta_none (h : Acts (.halta o) s o.pr []) (ht : s.haltaTargets (bits o.m.toNat 5 3) = []) :
    Goes (.halta o) s s (s.w1.setStatus (s.w.holds o.pr) o.d true) := by
  have hn : (s.issued (.halta o)).haltaTargets (bits o.m.toNat 5 3) = [] := by rw [(issued_others ..).haltaTargets, ht]
  exact goes_of_statusNext h (exec_halta ..) rfl rfl rfl rfl (if_pos hn) rfl

/-- A target that runs and waits for nothing is asked to halt. -/
theorem haltTarget_run {t : State} {j : Nat} (hr : (t.warp j).status = .run) (hw : (t.warp j).wait = .none) :
    t.haltTarget j = t.putWarp j { t.warp j with haltReq := true } := by
  have hs : ¬ (t.warp j).status ≠ .run := not_not_intro hr
  simp only [State.haltTarget, if_neg hs, hw, Bool.false_and, Bool.false_eq_true, if_false]

theorem haltTargets_run (ts : List Nat) (t : State) (ht : ∀ j ∈ ts, (t.warp j).status = .run ∧ (t.warp j).wait = .none)
    (j : Nat) :
    (ts.foldl (fun (u : State) k => u.haltTarget k) t).warp j =
      (if j ∈ ts then { t.warp j with haltReq := true } else t.warp j) ∧
    (ts.foldl (fun (u : State) k => u.haltTarget k) t).cur = t.cur := by
  induction ts generalizing t with
  | nil => exact ⟨by simp, rfl⟩
  | cons a ts ih =>
    obtain ⟨hr, hw⟩ := ht a List.mem_cons_self
    have hp (j : Nat) : (t.putWarp a { t.warp a with haltReq := true }).warp j =
        if j = a then { t.warp a with haltReq := true } else t.warp j := look_put ..
    obtain ⟨i1, i2⟩ := ih (t.putWarp a { t.warp a with haltReq := true }) fun j hj => by
      rw [hp]
      split
      · exact ⟨hr, hw⟩
      · exact ht j (List.mem_cons_of_mem _ hj)
    rw [List.foldl_cons, haltTarget_run hr hw]
    refine ⟨?_, i2⟩
    rw [i1, hp]
    by_cases hja : j = a
    · subst hja
      simp
    · simp [hja]

theorem haltaTargets_ne {s : State} {lvl j : Nat} (h : j ∈ s.haltaTargets lvl) : j ≠ s.cur := by
  unfold State.haltaTargets at h
  split at h
  · cases h
  · exact of_decide_eq_true (List.mem_filter.mp h).2

theorem halta_asks {ts : List Nat} (h : Acts (.halta o) s o.pr []) (ht : s.haltaTargets (bits o.m.toNat 5 3) = ts)
    (hn : ts ≠ []) (hr : ∀ k ∈ ts, (s.warp k).status = .run ∧ (s.warp k).wait = .none) :
    ∃ t, exec (.halta o) s = .next t ∧
      t.w = { s.w1 with wait := .halta (ts.map fun k => ((s.warp k).blk, (s.warp k).lin)) o.d (s.w.holds o.pr) } ∧
      (∀ k ∈ ts, t.warp k = { s.warp k with haltReq := true }) ∧
      ∀ k, k ≠ s.cur → k ∉ ts → t.warp k = s.warp k := by
  have hk := s.issued_kept (.halta o)
  have hts : (s.issued (.halta o)).haltaTargets (bits o.m.toNat 5 3) = ts := by rw [(issued_others ..).haltaTargets, ht]
  have hne (j : Nat) (hj : j ∈ ts) : j ≠ s.cur := haltaTargets_ne (ht ▸ hj)
  have hcur := issued_cur (.halta o) s
  have hmap : (ts.map fun k => (((s.issued (.halta o)).warp k).blk, ((s.issued (.halta o)).warp k).lin)) =
      ts.map fun k => ((s.warp k).blk, (s.warp k).lin) := List.map_congr_left fun j hj => by rw [hk.others j (hne j hj)]
  have hf := haltTargets_run ts (s.issued (.halta o)) fun j hj => by rw [hk.others j (hne j hj)]; exact hr j hj
  have hc := (hf 0).2
  have hw : (ts.foldl (fun (u : State) k => u.haltTarget k) (s.issued (.halta o))).w = s.w1 := by
    rw [State.w, hc, hcur, (hf s.cur).1, if_neg fun hm => hne _ hm rfl]
    rw [← hcur]
    exact s.issued_w _
  refine ⟨_, (exec_halta ..).trans (warpWide_acts h rfl rfl (.inr rfl) rfl), ?_⟩
  simp only [hts, if_neg hn, hmap, hw]
  generalize hu : ts.foldl (fun (u : State) k => u.haltTarget k) (s.issued (.halta o)) = u at hc hf
  have hset (j : Nat) (v : Warp) (hj : j ≠ s.cur) : (u.setW v).warp j = u.warp j :=
    look_put_other _ _ _ _ (by rw [hc, hcur]; exact hj)
  refine ⟨State.w_setW .., fun j hj => ?_, fun j hj hjt => ?_⟩
  · rw [hset j _ (hne j hj), (hf j).1, if_pos hj, hk.others j (hne j hj)]
  · rw [hset j _ hj, (hf j).1, if_neg hjt, hk.others j hj]

theorem endHalta_over {ts : List (Nat × Nat)} {d : Opnd} {m : W32} (hw : s.w.wait = .halta ts d m)
    (hs : ∀ e ∈ ts, ∀ x, s.warpIn e.1 e.2 = some x → x.status ≠ .run) :
    s.endHalta = ((s.setW { s.w with wait := .none, ready0 := s.clk }).setW
      ({ s.w with wait := .none, ready0 := s.clk }.setStatus m d true)).advance 1 := by
  have hr : (ts.filterMap fun e => s.warpIn e.1 e.2).filter (fun x => decide (x.status = .run)) = [] := by
    refine List.filter_eq_nil_iff.mpr fun x hx => ?_
    obtain ⟨e, he, hex⟩ := List.mem_filterMap.mp hx
    rw [decide_eq_true_eq]
    exact hs e he x hex
  simp only [State.endHalta, hw, hr, List.all_nil, if_true, List.isEmpty_nil, State.statusNext, State.w_setW]

/-! ## DUMPW (R344, R345) -/

/-- The warp that waits for its dump. -/
def dumping (s : State) (o : OpO) : Warp :=
  { s.w1 with
    wait := .dumpw (BitVec.ofNat 64 (s.w.read 64 o.a 0).n) (BitVec.ofNat 64 (s.w.read 64 o.b 0).n) o.d (s.w.holds o.pr) }

theorem dumping_others (s : State) (o : OpO) : SameOthers s ((s.issued (.dumpw o)).setW (dumping s o)) :=
  (issued_others ..).setW _ rfl rfl rfl

theorem dumpw_waits (h : Acts (.dumpw o) s o.pr [(o.a, 2), (o.b, 2)]) (ha : (s.w.read 64 o.a 0).n % 128 = 0)
    (hm : ∀ e ∈ s.blockMates s.cur, e.2.inDumpw = false) :
    exec (.dumpw o) s = .next (((s.issued (.dumpw o)).setW (dumping s o)).runDumpw s.cur) := by
  have hw : (s.issued (.dumpw o)).w = s.w1 := s.issued_w _
  have hcur := issued_cur (.dumpw o) s
  have hn : (((s.issued (.dumpw o)).setW (dumping s o)).blockMates s.cur).filter
      (fun e => e.2.inDumpw && decide (s.cur < e.1)) = [] := by
    refine List.filter_eq_nil_iff.mpr fun e he => ?_
    rw [hm e ((dumping_others s o).mem_blockMates e |>.mp he)]
    exact Bool.false_ne_true
  rw [exec_dumpw, execDumpw]
  refine (warpWide_acts h rfl (if_pos ha) (.inr rfl) rfl).trans ?_
  rw [hw, hcur]
  refine congrArg Host.Outcome.next ?_
  show State.runDumpw (List.foldl _ ((s.issued (.dumpw o)).setW (dumping s o))
    ((((s.issued (.dumpw o)).setW (dumping s o)).blockMates s.cur).filter fun e => e.2.inDumpw && decide (s.cur < e.1))) s.cur = _
  rw [hn]
  rfl

/-- What a DUMPW of a warp alone in its block comes to, with nothing outstanding. -/
theorem runDumpw_alone {a b : Word} {d : Opnd} {m : W32} (hw : s.w.wait = .dumpw a b d m) (hm : s.blockMates s.cur = [])
    (hq : s.quiet s.cur = true) (hc : ∀ c ∈ s.cmds, c.launch = s.w.launch → c.blk = s.w.blk → c.tiles = true) :
    s.runDumpw s.cur =
      if b.toNat < 256 then s.endDumpw s.cur false
      else match s.dumpwReady s.cur (s.holdTag s.cur) a (256 + ((fitSections (b.toNat - 256) (s.dumpSections (cidOf s.cur) s.w.blk
          ((s.blockWarps s.w.launch s.w.blk).map (·.1))
          ((s.launch s.w.launch).warpSections ((s.blockWarps s.w.launch s.w.blk).map (·.2))))).1.flatten).length) with
        | (s1, false) => s1
        | (s1, true) =>
          let r := s1.writeDump { warp := s.cur, ver := s.holdTag s.cur, lane := lowestLane m } s.cur s.w.blk a b.toNat
            ((s.blockWarps s.w.launch s.w.blk).map (·.1)) ((s.launch s.w.launch).warpSections
                ((s.blockWarps s.w.launch s.w.blk).map (·.2)))
          r.1.endDumpw s.cur r.2 := by
  have hcm : (s.cmds.any fun c => decide (c.launch = s.w.launch) && decide (c.blk = s.w.blk) && !c.tiles) = false := by
    refine List.any_eq_false.mpr fun c hcm => ?_
    simp only [Bool.and_eq_true, decide_eq_true_eq, Bool.not_eq_true', not_and]
    rintro ⟨h1, h2⟩
    rw [hc c hcm h1 h2]
    exact Bool.false_ne_true.symm
  have hwl : s.warp s.cur = s.w := rfl
  simp only [State.runDumpw, hwl, hw, hm, hq, hcm, List.any_nil, Bool.not_true, Bool.or_false, Bool.false_eq_true,
      if_false] <;> rfl

theorem fitSections_length (n : Nat) (xs : List (List Byte)) : ((fitSections n xs).1.flatten).length ≤ n := by
  induction xs generalizing n with
  | nil => simp [fitSections]
  | cons x xs ih =>
    simp only [fitSections]
    split
    · have := ih (n - x.length)
      simp only [List.flatten_cons, List.length_append]
      omega
    · simp

theorem endDumpw_waiting {a b : Word} {d : Opnd} {m : W32} (hw : s.w.wait = .dumpw a b d m) (ok : Bool) :
    s.endDumpw s.cur ok = { ((s.setW { s.w with wait := .none, ready0 := s.clk }).setW
      ({ s.w with wait := .none, ready0 := s.clk }.setStatus m d ok)).advance 1 with cur := s.cur } := by
  have hw' : (s.warp s.cur).wait = .dumpw a b d m := hw
  simp only [State.endDumpw, hw', State.asWarp, State.statusNext, State.w_setW]

theorem dumpw_tooSmall (h : Acts (.dumpw o) s o.pr [(o.a, 2), (o.b, 2)]) (ha : (s.w.read 64 o.a 0).n % 128 = 0)
    (hb : (s.w.read 64 o.b 0).n < 256) (hm : s.blockMates s.cur = []) (hq : s.quiet s.cur = true)
    (hc : ∀ c ∈ s.cmds, c.launch = s.w.launch → c.blk = s.w.blk → c.tiles = true) :
    ∃ t : State, exec (.dumpw o) s = .next { t.advance 1 with cur := s.cur } ∧ Kept s t ∧
      t.w = { s.w1 with wait := .none, ready0 := s.clk }.setStatus (s.w.holds o.pr) o.d false := by
  have hk := s.issued_kept (.dumpw o)
  have hcur := issued_cur (.dumpw o) s
  have hclk : (s.issued (.dumpw o)).clk = s.clk := by rw [hk.rest]
  let t := (s.issued (.dumpw o)).setW (dumping s o)
  have htw : t.w = dumping s o := State.w_setW ..
  have htc : t.cur = s.cur := hcur
  have hx := dumpw_waits h ha fun e he => absurd (hm ▸ he) List.not_mem_nil
  have hq' : t.quiet t.cur = true := by
    rw [State.quiet, State.warpOps, htc]
    show ((s.issued (.dumpw o)).ops.filter _).all _ = true
    rw [hk.rest]
    exact hq
  have hc' : ∀ c ∈ t.cmds, c.launch = t.w.launch → c.blk = t.w.blk → c.tiles = true := by
    have : t.cmds = s.cmds := by
      show (s.issued (.dumpw o)).cmds = _
      rw [hk.rest]
    rw [this, htw]
    exact hc
  have hwait : t.w.wait = .dumpw (BitVec.ofNat 64 (s.w.read 64 o.a 0).n) (BitVec.ofNat 64 (s.w.read 64 o.b 0).n) o.d
      (s.w.holds o.pr) := by
    rw [htw]
    rfl
  have hr := runDumpw_alone (s := t) hwait (htc ▸ (dumping_others s o).blockMates_nil hm) hq' hc'
  rw [if_pos (by rw [BitVec.toNat_ofNat]; omega), endDumpw_waiting hwait] at hr
  rw [htc] at hr
  refine ⟨_, hx.trans (congrArg Host.Outcome.next hr), ((hk.setW _).setW _).setW _, (State.w_setW ..).trans ?_⟩
  have htclk : t.clk = s.clk := hclk
  rw [htw, htclk]
  rfl

theorem runDumpw_writes {a b : Word} {d : Opnd} {m : W32} (hw : s.w.wait = .dumpw a b d m) (hm : s.blockMates s.cur = [])
    (hq : s.quiet s.cur = true) (hc : ∀ c ∈ s.cmds, c.launch = s.w.launch → c.blk = s.w.blk → c.tiles = true)
    (hb : 256 ≤ b.toNat) (ht : s.holdTag s.cur = 0) (hr : ∀ n, n ≤ b.toNat → s.areaReady s.cid s.w.ctx a n = (s, true)) :
    ∃ r : State × Bool, r = s.writeDump { warp := s.cur, ver := 0, lane := lowestLane m } s.cur s.w.blk a b.toNat
        ((s.blockWarps s.w.launch s.w.blk).map (·.1)) ((s.launch s.w.launch).warpSections
            ((s.blockWarps s.w.launch s.w.blk).map (·.2))) ∧
      s.runDumpw s.cur = r.1.endDumpw s.cur r.2 := by
  refine ⟨_, rfl, ?_⟩
  rw [runDumpw_alone hw hm hq hc, if_neg (Nat.not_lt.mpr hb), ht]
  have hd (n : Nat) (hn : n ≤ b.toNat) : s.dumpwReady s.cur 0 a n = (s, true) := by
    simp only [State.dumpwReady, if_true]
    exact hr n hn
  rw [hd _ (by
    have := fitSections_length (b.toNat - 256) (s.dumpSections (cidOf s.cur) s.w.blk ((s.blockWarps s.w.launch s.w.blk).map (·.1))
      ((s.launch s.w.launch).warpSections ((s.blockWarps s.w.launch s.w.blk).map (·.2))))
    omega)]

end

/-- Settles O38. -/
theorem haltsAndDumps : Obligations.HaltsAndDumps := by
  refine ⟨fun s o k h hd ht => ⟨_, setStatus_is .., hd ▸ halta_none h ht⟩, fun s o ts h ht hn hr => halta_asks h ht hn hr,
    fun s ts k m hw hs => ⟨_, setStatus_is .., endHalta_over hw hs⟩,
    fun s o h ha hm => ⟨_, dumpw_waits h ha hm, (s.issued_kept _).setW _, State.w_setW ..⟩,
    fun s o k h hd ha hb hm hq hc => ?_, fun s a b d m hw hm hq hc => ⟨fun hb => ?_,
        fun hb ht hr => runDumpw_writes hw hm hq hc hb ht hr⟩⟩
  · obtain ⟨t, hx, hk, hw⟩ := dumpw_tooSmall h ha hb hm hq hc
    rw [hd] at hw
    exact ⟨_, t, setStatus_is .., hx, hk, hw⟩
  · rw [runDumpw_alone hw hm hq hc, if_pos hb]

end Sys2Proof.Proofs.Dumps
end

section
/-! TLBINV, SIGWAIT and DIGEST (R347, R411, R418). -/

namespace Sys2Proof.Proofs.SysWaits

open Sys2Proof Sys2Proof.Machine Sys2Proof.Proofs.Arms Sys2Proof.Proofs.Issue Sys2Proof.Proofs.Wide Sys2Proof.Proofs.Accesses

section
variable {s : State} {o : OpO}

/-- The discarding that a TLBINV starts. -/
def discards (s : State) (o : OpO) : Op :=
  { noOp with
    kind := if (s.w.read 64 o.b 0).n = 0 then .tlbinv 0 (2 ^ 35) 0
      else .tlbinv (bits (s.w.read 64 o.a 0).n 55 21) (s.w.read 64 o.b 0).n 0
    accs := [{ lane := 0, va := 0, loc := .miss false, n := 1 }] }

theorem tlbinv_starts (h : Acts (.tlbinv o) s o.pr ((o.a, 2) :: sSrc o.b)) (hn : (s.w.read 64 o.b 0).n ≤ 2 ^ 20)
    (hr : s.roomFor false [] = true) :
    Goes (.tlbinv o) s (s.issues (discards s o) (discards s o).accs (discards s o).lanes) s.w1 := by
  have hw : (s.issued (.tlbinv o)).w = s.w1 := s.issued_w _
  refine goes_of_acts h (exec_tlbinv ..) hr (if_neg ?_) (.inr rfl) rfl (t := (s.issued (.tlbinv o)).pushOp (discards s o)) rfl
    (Kept.pushOp (s.issued_kept _) (by rw [hw]; rfl) (by rw [hw]; rfl) (by rw [hw]; rfl) _) hw
  rw [decide_eq_true_eq]
  exact Nat.not_lt.mpr hn

/-- What a SIGWAIT waits for. -/
def awaits (s : State) (o : OpO) : Warp :=
  { s.w1 with
    wait := .sigwait (BitVec.ofNat 64 (s.w.read 64 o.a 0).n) (BitVec.ofNat 64 (s.w.read 64 o.b 0).n) (o.c.num % 8)
      (bit o.c.num 3) o.d (s.w.holds o.pr) s.nextId }

theorem sigwait_waits {ia : Nat} (h : Acts (.sigwait o) s o.pr [(o.a, 2), (o.b, 2)]) (ht : s.w.tryOpen = false)
    (ha : (BitVec.ofNat 64 (s.w.read 64 o.a 0).n).toNat % 8 = 0)
    (hm : (s.ctx s.w.ctx).translate .load (BitVec.ofNat 64 (s.w.read 64 o.a 0).n) = .ok ia) :
    exec (.sigwait o) s = .next (State.setW { s.issued (.sigwait o) with nextId := s.nextId + 1 } (awaits s o)) := by
  have hw : (s.issued (.sigwait o)).w = s.w1 := s.issued_w _
  have hid : (s.issued (.sigwait o)).nextId = s.nextId := by rw [(s.issued_kept (.sigwait o)).rest]
  have hv : s.w.val64 o.a = (s.w.read 64 o.a 0).n := rfl
  have hl : s.memLoc .load (BitVec.ofNat 64 (s.w.val64 o.a)) = .mem ia := by simp only [State.memLoc, hv, hm]
  rw [exec_sigwait, execSigwait, tryless_closed ht]
  refine (warpWide_acts h rfl (if_pos ha) (.inr rfl) (by rw [hl])).trans ?_
  rw [hw, hid]
  rfl

/-- The warp that has the Lyre's point in its registers. -/
def digested (s : State) (o : OpO) : Warp := (s.w1.setS1 o.d.num s.lyre.seq false).setS1 (o.d.num + 1) s.lyre.dig false

theorem digested_s1 (s : State) (o : OpO) (j : Nat) : (digested s o).s1 j =
    if j = o.d.num then { val := s.lyre.seq } else if j = o.d.num + 1 then { val := s.lyre.dig } else s.w.s1 j := by
  rw [digested, Warp.s1_setS1, Warp.s1_setS1]
  by_cases h1 : j = o.d.num
  · rw [if_neg (by omega), if_pos h1, if_pos h1]
    rfl
  · rw [if_neg h1, if_neg h1]
    rfl

theorem digest_answers {k : BitVec 8} (h : Acts (.digest o) s o.pr (if bit o.m.toNat 0 then [(o.a, 2)] else [])) (hc : o.c = .p k)
    (hf : s.operandsFree (.digest o) [o.d] 2 (s.w.holds o.pr) = true)
    (hs : bit o.m.toNat 0 = true → (s.w.read 64 o.a 0).n ≤ s.lyre.seq.toNat) :
    Goes (.digest o) s s ((digested s o).setStatus (s.w.holds o.pr) (.p k) (decide (s.lyre.mode = .running))) := by
  have hw : (s.issued (.digest o)).w = s.w1 := s.issued_w _
  have hl : (s.issued (.digest o)).lyre = s.lyre := by rw [(s.issued_kept (.digest o)).rest]
  refine goes_of_acts h (exec_digest ..) ?_ rfl (.inr rfl) rfl
    (t := (s.issued (.digest o)).setW ((digested s o).setStatus (s.w.holds o.pr) (.p k) (decide (s.lyre.mode = .running)))) ?_
    ((s.issued_kept _).setW _) (State.w_setW ..)
  · have hb : (!bit o.m.toNat 0 || decide (s.w.val64 o.a ≤ s.lyre.seq.toNat)) = true := by
      cases hb : bit o.m.toNat 0 with
      | false => rfl
      | true => exact decide_eq_true (hs hb)
    rw [hf, hb]
    rfl
  · rw [hw, hl, hc]
    rfl

end

/-- Settles O39. -/
theorem systemWaits : Obligations.SystemWaits :=
  ⟨fun _ _ h hn hr => tlbinv_starts h hn hr,
    fun s _ _ h ht ha hm => ⟨_, sigwait_waits h ht ha hm, (Bars.Kept.putNextId (s.issued_kept _) _).setW _, State.w_setW ..⟩,
    fun s o _ h hc hf hs => ⟨digested s o, _, rfl, digested_s1 s o, setStatus_is .., digest_answers h hc hf hs⟩⟩

end Sys2Proof.Proofs.SysWaits
end

section
/-! The engine and matrix instructions: what they check, and the commands that they put in flight (O40, O41). -/
namespace Sys2Proof.Proofs.Orders
open Sys2Proof Sys2Proof.Machine Sys2Proof.Proofs.Arms Sys2Proof.Proofs.Issue

/-! ## The shared issue -/

section
variable {i : Instr} {pr : Pred} {ops : List (Opnd × Nat)} {early late : List (Option TrapInfo)} {tiles : Bool}
  {plan : State → Plan} {after : State → Nat → State} {s u : State} {c : Cmd}

theorem firstTrap_none : ∀ {xs : List (Option TrapInfo)}, (∀ x ∈ xs, x = none) → firstTrap xs = none
  | [], _ => rfl
  | x :: xs, h => by
    have hx := h x List.mem_cons_self
    subst hx
    exact firstTrap_none (xs := xs) fun y hy => h y (List.mem_cons_of_mem _ hy)

/-- An engine instruction whose operands pass their checks does what its plan leads to. -/
theorem engIssueThen_go (ht : s.w.tryOpen = false) (hc : Clean s pr ops) (hh : s.w.holds pr ≠ 0)
    (he : firstTrap early = none) (hl : firstTrap late = none) (hr : s.roomCmd tiles = true) (hp : plan s = .go u c)
    (hu : Runs i u) (hw : u.w = s.w) :
    engIssueThen i pr ops early late tiles plan after s =
      .next ((after ((u.issued i).pushCmd c) (u.issued i).nextId).advance 1) := by
  have hc' : Clean u pr ops := by unfold Clean; rw [hw]; exact hc
  have hg : ¬(s.w.psnd pr ≠ 0 ∨ s.w.anyPoison ops (s.w.holds pr) = true ∨ s.w.holds pr = 0 ∨
      (firstTrap early).isSome = true ∨ (firstTrap late).isSome = true) := by
    rintro (h | h | h | h | h)
    · exact h hc.1
    · exact absurd (hc.2.symm.trans h) (by decide)
    · exact hh h
    · rw [he] at h; cases h
    · rw [hl] at h; cases h
  rw [engIssueThen, tryless_closed ht]
  simp only [if_neg hg, hr, Bool.not_true, Bool.false_eq_true, if_false, hp]
  exact Wide.warpWide_acts ⟨hu, hc', by rw [hw]; exact hh⟩ rfl rfl (.inr rfl) rfl

/-- One with nothing behind its command's issue. -/
theorem engIssue_go (ht : s.w.tryOpen = false) (hc : Clean s pr ops) (hh : s.w.holds pr ≠ 0)
    (he : ∀ x ∈ early, x = none) (hl : ∀ x ∈ late, x = none) (hr : s.roomCmd tiles = true) (hp : plan s = .go u c)
    (hu : Runs i u) (hw : u.w = s.w) :
    ∃ t, engIssue i pr ops early late tiles plan s = .next ((t.pushCmd c).advance 1) ∧ Kept u t ∧ t.w = u.w1 :=
  ⟨u.issued i, engIssueThen_go ht hc hh (firstTrap_none he) (firstTrap_none hl) hr hp hu hw, u.issued_kept i, u.issued_w i⟩
end

/-! ## The checks of operands -/

theorem engField_false : engField false = none := rfl

theorem engRange_of_le {a b : Nat} (h : a ≤ b) : engRange (decide (b < a)) = none := by
  simp [engRange, Nat.not_lt.2 h]

theorem misalign_zero {a m : Nat} (h : a % m = 0) : misalign a m = none := if_pos h

theorem badTag_false {w : Warp} {x : Opnd} (h : w.val64 x ≤ 63) : w.badTag x = false := by
  simp [Warp.badTag, h]

theorem badAcc_false {w : Warp} {x : Opnd} (h : w.val64 x < 8192) : w.badAcc x = false := by
  simp [Warp.badAcc, h]

theorem accRange_none {s : State} {k n : Nat} (h : s.w.hasRows k n) : s.accRange k n = none := engRange_of_le h

/-- Several offsets pass where each does. -/
theorem formsTrap_none {s : State} {w : Warp} {cid : Nat} {xs : List (Nat × Nat)} :
    s.formsTrap w cid xs = none ↔ ∀ x ∈ xs, s.formLocal w cid x.1 x.2 = false ∧
      (decide (2 ^ 25 ≤ x.1) || (bit x.1 24 && (s.launch w.launch).clusLevel.isNone)) = false := by
  constructor
  · intro h x hx
    unfold State.formsTrap at h
    split at h
    · cases h
    next h1 =>
      split at h
      · cases h
      next h2 => exact ⟨Bool.eq_false_iff.2 (List.find?_eq_none.1 h1 x hx), Bool.eq_false_iff.2 (List.find?_eq_none.1 h2 x hx)⟩
  · intro h
    have h1 : xs.find? (fun x => s.formLocal w cid x.1 x.2) = none :=
      List.find?_eq_none.2 fun x hx => Bool.eq_false_iff.1 (h x hx).1
    have h2 : xs.find? (fun x => decide (2 ^ 25 ≤ x.1) || (bit x.1 24 && (s.launch w.launch).clusLevel.isNone)) = none :=
      List.find?_eq_none.2 fun x hx => Bool.eq_false_iff.1 (h x hx).2
    simp only [State.formsTrap, h1, h2]

theorem formsTrap_of_each {s : State} {w : Warp} {cid : Nat} {xs : List (Nat × Nat)}
    (h : ∀ x ∈ xs, s.formTrap w cid x.1 x.2 = none) : s.formsTrap w cid xs = none :=
  formsTrap_none.2 fun x hx => formsTrap_none.1 (h x hx) _ (List.mem_singleton_self _)

theorem formLocal_of_padOk {s : State} {d n : Nat} (h : s.padOk d n) : s.formLocal s.w s.cid d n = false :=
  (formsTrap_none.1 h _ (List.mem_singleton_self _)).1

/-- Operands of a loop of steps pass where the first step and the last pass. -/
theorem mmTrap_none {s : State} {nk a b na nb xa xb : Nat} {da db : Int} (ha : s.padOk a na) (hb : s.padOk b nb)
    (hxa : lastOff a da nk = some xa) (hpa : s.padOk xa na) (hxb : lastOff b db nk = some xb) (hpb : s.padOk xb nb) :
    s.mmTrap s.w s.cid nk [(a, da, na), (b, db, nb)] = none := by
  have h1 : s.formsTrap s.w s.cid [(a, na), (b, nb), (xa, na), (xb, nb)] = none :=
    formsTrap_of_each (by simpa using ⟨ha, hb, hpa, hpb⟩)
  simpa [State.mmTrap, formLocal_of_padOk ha, formLocal_of_padOk hb, hxa, hxb] using h1

/-! ## Commands whose destinations lie in the scratchpad -/

/-- The memory lines among destinations. -/
theorem spadLocs_noMem {s : State} {w : Warp} {cid d x n : Nat} {e : Nat × Loc} (he : e ∈ s.spadLocs w cid d x n) (ia : Nat) :
    e.2 ≠ .mem ia := by
  obtain ⟨k, -, rfl⟩ := List.mem_map.1 he
  dsimp only
  split <;> simp

theorem ownLines_noMem {s : State} {dst : List (Nat × Loc)} (h : ∀ e ∈ dst, ∀ ia, e.2 ≠ .mem ia) :
    s.ownLines dst = (s, true) := by
  unfold State.ownLines
  rw [List.filterMap_eq_nil_iff.2]
  · rfl
  · intro e he
    cases hl : e.2 with
    | mem ia => exact absurd hl (h e he ia)
    | spad _ _ => rfl
    | miss _ => rfl

/-- A command without a memory destination is put in flight once no acquire of its warp is outstanding. -/
theorem planOwn_noMem {s : State} {c : Cmd} (h : ∀ e ∈ c.dst, ∀ ia, e.2 ≠ .mem ia)
    (ha : (s.warpOps s.cur).any (·.acq) = false) : s.planOwn c = .go s c := by
  unfold State.planOwn
  rw [List.any_eq_false.2]
  · simp only [Bool.false_eq_true, if_false, ha, ownLines_noMem h]
  · intro e he
    cases hl : e.2 with
    | mem ia => exact absurd hl (h e he ia)
    | spad _ _ => simp
    | miss _ => simp

/-! ## The instructions -/

/-- An instruction issues the order `x` as the engine and matrix instructions do. -/
def Issues (i : Instr) (s : State) (x : Order) : Prop :=
  ∃ early late plan, exec i s = engIssue i x.pr x.ops early late x.cmd.tiles plan s ∧
    (x.ok → (s.warpOps s.cur).any (·.acq) = false →
      (∀ t ∈ early, t = none) ∧ (∀ t ∈ late, t = none) ∧ plan s = .go s x.cmd)

variable {s : State}

theorem issues_qinit (o : OpO) {x : Order} (hx : Machine.orderOf s (.qinit o) = some x) : Issues (.qinit o) s x := by
  obtain rfl := Option.some.inj hx.symm
  refine ⟨_, _, _, exec_qinit o s, fun ⟨hq, ha, hp, p, hf, hs⟩ _ => ⟨?_, ?_, rfl⟩⟩
  · simp [hq, engField_false, misalign_zero ha]
  · simp only [hf, Option.isNone_eq_false_iff.2 hs, Bool.and_false, Bool.false_eq_true, if_false]
    exact List.forall_mem_cons.2 ⟨rfl, List.forall_mem_singleton.2 hp⟩

theorem issues_qpush (o : OpO) {x : Order} (hx : Machine.orderOf s (.qpush o) = some x) : Issues (.qpush o) s x := by
  obtain rfl := Option.some.inj hx.symm
  refine ⟨_, _, _, exec_qpush o s, fun ⟨ht, ha, hb, hp, hq⟩ _ => ⟨?_, ?_, rfl⟩⟩
  · simp [badTag_false ht, engField_false, misalign_zero ha, misalign_zero hb]
  · simpa using ⟨hp, hq⟩

theorem issues_qpop (o : OpO) {x : Order} (hx : Machine.orderOf s (.qpop o) = some x) : Issues (.qpop o) s x := by
  obtain rfl := Option.some.inj hx.symm
  refine ⟨_, _, _, exec_qpop o s, fun ⟨ht, ha, hb, hp, hq⟩ _ => ⟨?_, ?_, rfl⟩⟩
  · simp [badTag_false ht, engField_false, misalign_zero ha, misalign_zero hb]
  · simpa using ⟨hp, hq⟩

theorem issues_accz (o : OpO) {x : Order} (hx : Machine.orderOf s (.accz o) = some x) : Issues (.accz o) s x := by
  obtain rfl := Option.some.inj hx.symm
  refine ⟨_, _, _, exec_accz o s, fun ⟨hk, h1, h2, hr⟩ _ => ⟨?_, ?_, rfl⟩⟩
  · simp [badAcc_false hk, Nat.pos_iff_ne_zero.1 h1, Nat.not_lt.2 h2, engField_false]
  · simpa using accRange_none hr

/-- ACCMV, in either direction. -/
theorem issues_accmv {i : Instr} (o : OpO) (acc vec : Opnd) (hx : exec i s = accmv i o acc vec s) :
    Issues i s (Machine.orderOf.move s o acc vec) := by
  refine ⟨_, _, _, hx, fun ⟨hk, hr, hv, hp⟩ _ => ⟨?_, ?_, if_neg ?_⟩⟩
  · simp [badAcc_false hk, engField_false]
  · simpa using ⟨accRange_none hr, engRange_of_le hv⟩
  · rintro ⟨hm, hn⟩
    obtain ⟨j, hj, hne⟩ := List.any_eq_true.1 hn
    exact of_decide_eq_true hne (hp hm j (List.mem_range.1 hj))

theorem issues_accst (o : OpO) {x : Order} (hx : Machine.orderOf s (.accst o) = some x) : Issues (.accst o) s x := by
  obtain rfl := Option.some.inj hx.symm
  refine ⟨_, _, _, exec_accst o s, fun ⟨ht, hk, ha, hp, hr⟩ hq =>
    ⟨?_, ?_, planOwn_noMem (fun e he => spadLocs_noMem he) hq⟩⟩
  · simp [badTag_false ht, badAcc_false hk, engField_false, misalign_zero ha]
  · simpa using ⟨hp, accRange_none hr⟩

/-- MMA and MMLOOP. -/
theorem issues_steps {i : Instr} (o : OpO) (opc ty nk : Nat) (da db : Int)
    (hx : exec i s = mmIssue i o opc ty (s.w.val32 o.a) (s.w.val32 o.b) nk da db s) :
    Issues i s (Machine.orderOf.steps s o opc ty nk da db) := by
  refine ⟨_, _, _, hx, ?_⟩
  rintro ⟨hk, ha, hb, hda, hdb, hpa, hpb, ⟨xa, hxa, hqa⟩, ⟨xb, hxb, hqb⟩, hr, hn, hu⟩ -
  refine ⟨?_, ?_, (if_neg hn).trans (if_neg (by simp [hu]))⟩
  · simp [badAcc_false hk, engField_false, misalign_zero ha, misalign_zero hb, hda, hdb]
  · simpa using ⟨mmTrap_none hpa hpb hxa hqa hxb hqb, accRange_none hr⟩

theorem issues_txpose (o : OpO) {x : Order} (hx : Machine.orderOf s (.txpose o) = some x) : Issues (.txpose o) s x := by
  obtain rfl := Option.some.inj hx.symm
  refine ⟨_, _, _, exec_txpose o s, ?_⟩
  rintro ⟨⟨hr1, hr2, hr3⟩, ⟨hc1, hc2, hc3⟩, hlt, ha, hb, hpa, hpb, hov, hu⟩ hq
  have hlt' : ¬ 4294967296 ≤ s.w.val64 o.c := Nat.not_le.2 hlt
  refine ⟨?_, ?_, (if_neg (by simp [hu])).trans (planOwn_noMem (fun e he => spadLocs_noMem he) hq)⟩
  · simp [hr1, hc1, Nat.not_lt.2 hr2, Nat.not_lt.2 hr3, Nat.not_lt.2 hc2, Nat.not_lt.2 hc3, hlt', engField_false,
      misalign_zero ha, misalign_zero hb]
  · have hfs := formsTrap_of_each (s := s) (w := s.w) (cid := s.cid)
      (xs := [(s.w.val32 o.a, 128 * bits (s.w.val64 o.c) 31 16), (s.w.val32 o.b, 128 * bits (s.w.val64 o.c) 15 0)])
      (by simpa using ⟨hpa, hpb⟩)
    have hno : (((List.range (bits (s.w.val64 o.c) 31 16)).map fun k => s.formAt s.w s.cid (s.w.val32 o.a) (128 * k)).any fun p =>
        p.isSome && ((List.range (bits (s.w.val64 o.c) 15 0)).map fun k =>
          s.formAt s.w s.cid (s.w.val32 o.b) (128 * k)).contains p) = false := by
      refine List.any_eq_false.2 fun p hp => ?_
      obtain ⟨i, hi, rfl⟩ := List.mem_map.1 hp
      rw [Bool.and_eq_true, List.contains_iff_mem]
      rintro ⟨hs, hm⟩
      obtain ⟨j, hj, he⟩ := List.mem_map.1 hm
      obtain ⟨q, hq⟩ := Option.isSome_iff_exists.1 hs
      exact hov i j (List.mem_range.1 hi) (List.mem_range.1 hj) q hq (he.trans hq)
    simp only [hno, Bool.and_false, Bool.false_eq_true, if_false]
    simpa using hfs

/-- Every instruction with an order issues it. -/
theorem issues_order {i : Instr} {x : Order} (hx : Machine.orderOf s i = some x) : Issues i s x := by
  unfold Machine.orderOf at hx
  split at hx
  case h_1 o => exact issues_qinit o hx
  case h_2 o => exact issues_qpush o hx
  case h_3 o => exact issues_qpop o hx
  case h_4 o => exact issues_accz o hx
  case h_5 o => obtain rfl := Option.some.inj hx; exact issues_accmv o _ _ (exec_accmvV o s)
  case h_6 o => obtain rfl := Option.some.inj hx; exact issues_accmv o _ _ (exec_accmvA o s)
  case h_7 o => exact issues_accst o hx
  case h_8 shape ty o => obtain rfl := Option.some.inj hx; exact issues_steps o _ _ _ _ _ (exec_mma shape ty o s)
  case h_9 shape ty o => obtain rfl := Option.some.inj hx; exact issues_steps o _ _ _ _ _ (exec_mmloop shape ty o s)
  case h_10 o => exact issues_txpose o hx
  case h_11 => cases hx

/-- Settles O40: each instruction passes its checks, and its plan is its command, from the state at hand. -/
theorem ordersCommands : Obligations.OrdersCommands := by
  intro i s x hx hi ht hc hh hok hr hq
  obtain ⟨early, late, plan, he, hgo⟩ := issues_order hx
  obtain ⟨h1, h2, h3⟩ := hgo hok hq
  rw [he]
  exact engIssue_go ht hc hh h1 h2 hr h3 hi rfl

/-! ## Instructions that read records -/

/-- An instruction issues the order `x` with its records as the engine and matrix instructions do. -/
def IssuesRecord (i : Instr) (s : State) (x : RecordOrder) : Prop :=
  ∃ early late plan, exec i s = engIssue i x.pr x.ops early late x.tiles plan s ∧ plan s = x.plan ∧
    (x.ok → (∀ t ∈ early, t = none) ∧ (∀ t ∈ late, t = none))

theorem issues_tcopy {i : Instr} (o : OpO) (store : Bool) (hx : exec i s = tcopy i o store s) :
    IssuesRecord i s (recordOrderOf.tile s o store) := by
  refine ⟨_, _, _, hx, rfl, fun ⟨ht, ⟨ha, hr⟩, hlt, hc⟩ => ⟨?_, ?_⟩⟩
  · simp [badTag_false ht, engField_false, misalign_zero ha]
  · have hno : ¬(2 ^ 25 ≤ s.w.val32 o.a ∨ bit (s.w.val32 o.a) 24 = true ∧ (s.launch s.w.launch).clusLevel.isNone = true) := by
      rintro (h | ⟨h, hn⟩)
      · exact Nat.not_le.2 hlt h
      · exact hc h (Option.isNone_iff_eq_none.1 hn)
    rw [if_neg hno]
    simpa using hr

theorem issues_mcast (o : OpO) {x : RecordOrder} (hx : recordOrderOf s (.mcast o) = some x) : IssuesRecord (.mcast o) s x := by
  obtain rfl := Option.some.inj hx.symm
  refine ⟨_, _, _, exec_mcast o s, rfl, fun ⟨ht, hm, ⟨ha, hr⟩, hlt, hb, hz, hc, hreg⟩ => ⟨?_, ?_⟩⟩
  · simp [badTag_false ht, Nat.not_lt.2 hm, engField_false, misalign_zero ha]
  · have hbad : (decide (2 ^ 25 ≤ s.w.val32 o.a) || !bit (s.w.val32 o.a) 24 || decide (bits (s.w.val32 o.a) 23 22 ≠ 0) ||
        (s.launch s.w.launch).clusLevel.isNone) = false := by
      rw [decide_eq_false (Nat.not_le.2 hlt), hb, hz, Option.isNone_eq_false_iff.2 (Option.isSome_iff_ne_none.2 hc)]
      rfl
    have hlost : ((mcastTargets (s.w.val32 o.a) (s.w.val64 o.c)).any fun d =>
        (s.region (s.cid / 4 * 4 + bits d 23 22) s.w.launch ((s.launch s.w.launch).clusLevel.getD 0)
          (s.unitOf s.w ((s.launch s.w.launch).clusLevel.getD 0))).isNone) = false :=
      List.any_eq_false.2 fun d hd => by simpa using hreg d hd
    simp only [hbad, hlost, Bool.false_eq_true, if_false]
    simpa using hr

theorem issues_scopy (o : OpO) {x : RecordOrder} (hx : recordOrderOf s (.scopy o) = some x) : IssuesRecord (.scopy o) s x := by
  obtain rfl := Option.some.inj hx.symm
  refine ⟨_, _, _, exec_scopy o s, ?_, fun ⟨ht, ⟨ha, hra⟩, hb, hrb⟩ => ⟨?_, ?_⟩⟩
  · have hc (a b : StreamRec) : (a.count ≠ b.count ∨ (!(decide (a.fmt = b.fmt) || cvtPair b.fmt a.fmt)) = true) ↔
        (a.count ≠ b.count ∨ ¬(a.fmt = b.fmt ∨ cvtPair b.fmt a.fmt = true)) := by simp
    simp only [hc]
  · simp [badTag_false ht, engField_false, misalign_zero ha, misalign_zero hb]
  · simpa using ⟨hra, hrb⟩

theorem issues_chain (o : OpO) {x : RecordOrder} (hx : recordOrderOf s (.chain o) = some x) : IssuesRecord (.chain o) s x := by
  obtain rfl := Option.some.inj hx.symm
  refine ⟨_, _, _, exec_chain o s, rfl, fun ⟨ht, ha, hr⟩ => ⟨?_, by simpa using hr⟩⟩
  simp [badTag_false ht, engField_false, misalign_zero ha]

theorem issues_tmac (o : OpO) {x : RecordOrder} (hx : recordOrderOf s (.tmac o) = some x) : IssuesRecord (.tmac o) s x := by
  obtain rfl := Option.some.inj hx.symm
  refine ⟨_, _, _, exec_tmac o s, rfl, fun ⟨hk, ha, hr⟩ => ⟨?_, by simpa using hr⟩⟩
  simp [badAcc_false hk, engField_false, misalign_zero ha]

theorem issues_recordOrder {i : Instr} {x : RecordOrder} (hx : recordOrderOf s i = some x) : IssuesRecord i s x := by
  unfold recordOrderOf at hx
  split at hx
  case h_1 o => obtain rfl := Option.some.inj hx; exact issues_tcopy o false (exec_tcopyLd o s)
  case h_2 o => obtain rfl := Option.some.inj hx; exact issues_tcopy o true (exec_tcopySt o s)
  case h_3 o => exact issues_mcast o hx
  case h_4 o => exact issues_scopy o hx
  case h_5 o => exact issues_chain o hx
  case h_6 o => exact issues_tmac o hx
  case h_7 => cases hx

/-- A tile copy whose record cannot be used puts a command that copies nothing in flight. -/
theorem planCopy_bad {u : State} {opc tag off r : Nat} {store : Bool} {ts : Option (List Nat)} (h : s.readRec r 128 = .bad u) :
    s.planCopy opc tag off r store ts = .go u (failedCmd opc (some tag) r 1) := by
  simp only [State.planCopy, State.withRec, h]

theorem planCopy_noShape {u : State} {opc tag off r : Nat} {store : Bool} {ts : Option (List Nat)} {bs : List Byte}
    (h : s.readRec r 128 = .ok u bs) (hb : shapeOf bs = none) :
    s.planCopy opc tag off r store ts = .go u (failedCmd opc (some tag) r 2) := by
  simp only [State.planCopy, State.withRec, h, hb]

/-- Settles O41: each instruction passes its checks, and its plan is the order's; a record that fails leads to a failed
command. -/
theorem ordersByRecord : Obligations.OrdersByRecord := by
  refine ⟨fun i s u x c hx ht hc hh hok hr hp hu hw => ?_, fun s u tag off r store => ⟨planCopy_bad, fun bs => planCopy_noShape⟩⟩
  obtain ⟨early, late, plan, he, hpl, hgo⟩ := issues_recordOrder hx
  obtain ⟨h1, h2⟩ := hgo hok
  rw [he]
  exact engIssue_go ht hc hh h1 h2 hr (hpl.trans hp) hu hw

end Sys2Proof.Proofs.Orders
end

section
/-! What putting a command in flight leaves (R241, R313): the command under the next number, and nothing else of the
machine but the
caches that its sources are read through (O42, O43). -/
namespace Sys2Proof.Proofs.Puts
open Sys2Proof Sys2Proof.Machine Sys2Proof.Proofs.Arms Sys2Proof.Proofs.Issue Sys2Proof.Proofs.Steps Sys2Proof.Proofs.Orders

/-! ## What a read of a source may change -/

theorem fitL2_memSide (n : Nat) (s : State) (k : Nat) : MemSide s (State.fitL2 n s k) := by
  induction n generalizing s with
  | zero => exact .refl s
  | succ n ih =>
    rw [State.fitL2]
    split
    · exact .refl s
    · split
      · exact dropL2_memSide s k
      · exact (MemSide.trans (t := { s with draws := s.draws + 1 }) rfl (dropL2_memSide ..)).trans (ih _)

theorem putL2_memSide (s : State) (k : Nat) (l : L2Line) : MemSide s (s.putL2 k l) :=
  MemSide.trans (t := { s with l2 := put {} s.l2 k { l with lock := s.locks k l } }) rfl (fitL2_memSide ..)

theorem fillReady_memSide (s : State) (r : Ready) : MemSide s (s.fillReady r) := by
  unfold State.fillReady
  split
  · simp only [State.fillL2]
    split
    · exact .refl s
    · split
      · exact putL2_memSide ..
      · exact .refl s
  · exact .refl s

/-- Nothing but the memory side and the L1s differs. -/
def CacheSide (s t : State) : Prop :=
  t = { s with
    mem := t.mem, memMark := t.memMark, memKey := t.memKey, l1 := t.l1, l2 := t.l2, links := t.links, outbox := t.outbox
    nextId := t.nextId, peerReqs := t.peerReqs, peerFail := t.peerFail, homeWaits := t.homeWaits, draws := t.draws }

theorem cacheSide_of_memSide {s t : State} (h : MemSide s t) : CacheSide s t := by
  unfold CacheSide; rw [h]

theorem CacheSide.refl (s : State) : CacheSide s s := rfl

theorem CacheSide.trans {s t u : State} (h : CacheSide s t) (g : CacheSide t u) : CacheSide s u := by
  unfold CacheSide at g
  rw [h] at g
  exact g

theorem CacheSide.foldl {β : Type} {f : State → β → State} (hf : ∀ t x, CacheSide t (f t x)) (xs : List β) (s : State) :
    CacheSide s (xs.foldl f s) := by
  induction xs generalizing s with
  | nil => exact .refl s
  | cons x xs ih => exact (hf s x).trans (ih _)

theorem CacheSide.cmds {s t : State} (h : CacheSide s t) : t.cmds = s.cmds := by rw [h]
theorem CacheSide.leng {s t : State} (h : CacheSide s t) : t.leng = s.leng := by rw [h]
theorem CacheSide.w {s t : State} (h : CacheSide s t) : t.w = s.w := by rw [h]; rfl

/-- What a read of a sector leaves. -/
def gotState : Got → State
  | .ok s _ | .fail s _ | .wait s => s

/-- A read at the home slice leaves the caches and the memory side. -/
theorem readSector_fresh_cacheSide (s : State) (o : Op) (ia : Nat) : CacheSide s (gotState (s.readSector o ia true)) := by
  have hp := cacheSide_of_memSide (prepare_memSide s { Need.by .load o.ctx with id := o.id } ia)
  unfold State.readSector
  dsimp only
  split
  · rename_i h; simp at h
  · split
    · rename_i h; rw [h] at hp; exact hp
    · rename_i h; rw [h] at hp; exact hp
    · rename_i s1 r0 _ _ h
      rw [h] at hp
      refine hp.trans ?_
      simp only [Bool.not_true, Bool.false_and, Bool.false_eq_true, if_false, if_true]
      refine (cacheSide_of_memSide (fillReady_memSide s1 (if o.nc = true then r0.noAlloc else r0))).trans ?_
      exact CacheSide.trans (t := (s1.fillReady _).dropClean o.core (ia / 128)) rfl (cacheSide_of_memSide (doneReady_memSide ..))

theorem fillOne_cacheSide (s : State) (c : Cmd) (e : Src) : CacheSide s (s.fillOne c e).1 := by
  unfold State.fillOne
  dsimp only
  split
  · exact .refl s
  · split
    · exact .refl s
    · split <;> exact .refl s
    · rename_i ia _
      split
      · exact .refl s
      · have hr := readSector_fresh_cacheSide s (c.asOp e.loc) ia
        unfold State.engSector
        cases h : s.readSector (c.asOp e.loc) ia true with
        | ok s1 x => rw [h] at hr; exact hr
        | fail s1 f => rw [h] at hr; exact CacheSide.trans hr rfl
        | wait s1 => rw [h] at hr; exact hr

/-! ## The command in flight -/

theorem cmd_putCmd_same {s : State} {c d : Cmd} {id : Nat} (h : s.cmd id = some d) (hc : c.id = id) :
    (s.putCmd c).cmd id = some c := by
  subst hc
  have hp : ((fun x : Cmd => decide (x.id = c.id)) ∘ fun e => if e.id = c.id then c else e) = fun x => decide (x.id = c.id) := by
    funext e
    by_cases he : e.id = c.id <;> simp [he]
  have hd : d.id = c.id := of_decide_eq_true (List.find?_some (p := fun x : Cmd => decide (x.id = c.id)) h)
  unfold State.cmd at h
  simp only [State.cmd, State.putCmd, List.find?_map, hp, h, Option.map_some, if_pos hd]

theorem cmd_id {s : State} {d : Cmd} {id : Nat} (h : s.cmd id = some d) : d.id = id :=
  of_decide_eq_true (List.find?_some (p := fun x : Cmd => decide (x.id = id)) h)

theorem foldl_cacheSide {α β : Type} {f : State × α → β → State × α} (hf : ∀ p x, CacheSide p.1 (f p x).1) (xs : List β)
    (p : State × α) : CacheSide p.1 (xs.foldl f p).1 := by
  induction xs generalizing p with
  | nil => exact .refl _
  | cons x xs ih => exact (hf p x).trans (ih _)

/-- Filling a command changes its sources and the caches. -/
theorem fillCmd_is {s : State} {d : Cmd} {id : Nat} (h : s.cmd id = some d) :
    ∃ t es, CacheSide s t ∧ s.fillCmd id = t.putCmd { d with src := es } := by
  simp only [State.fillCmd, h]
  exact ⟨_, _, foldl_cacheSide (α := List Src) (f := fun (t, es) e => let (t1, e1) := t.fillOne d e; (t1, es ++ [e1]))
    (fun p e => fillOne_cacheSide p.1 d e) d.src (s, []), rfl⟩

/-- The tag of a command noted in its block's TUSE. -/
def tagNoted (s : State) (c : Cmd) : State :=
  match c.tag with
  | some g => s.putBlock s.w.blk { s.block s.w.blk with tuse := (s.block s.w.blk).tuse ||| (1 <<< g) }
  | none => s

/-- The command as it is entered. -/
def entered (s : State) (c : Cmd) : Cmd :=
  { c with id := s.nextId, warp := s.cur, launch := s.w.launch, blk := s.w.blk, core := s.cid
           wid := widOf s.cur, ctx := s.w.ctx, vcnt := s.w.vcnt.toNat, seed := s.w.seed, tver := s.w.tskVer }

/-- The machine with a command entered under its number, before its sources are read. -/
def inFlight (s : State) (c : Cmd) : State :=
  { (tagNoted s c).setW { s.w with ahi := s.w.ahiAfter c } with
    nextId := s.nextId + 1, cmds := (tagNoted s c).cmds ++ [entered s c] }

/-- Noting a tag changes the block alone. -/
theorem tagNoted_is (s : State) (c : Cmd) : tagNoted s c = { s with blocks := (tagNoted s c).blocks } := by
  unfold tagNoted
  cases c.tag <;> rfl

theorem inFlight_cmds (s : State) (c : Cmd) : (inFlight s c).cmds = s.cmds ++ [entered s c] := by
  rw [inFlight, tagNoted_is]

theorem inFlight_cmd {s : State} (c : Cmd) (h : ∀ d ∈ s.cmds, d.id < s.nextId) :
    (inFlight s c).cmd s.nextId = some (entered s c) := by
  have hn : s.cmds.find? (fun d => decide (d.id = s.nextId)) = none :=
    List.find?_eq_none.2 fun d hd => by simpa using Nat.ne_of_lt (h d hd)
  rw [State.cmd, inFlight_cmds, List.find?_append, hn]
  simp [entered]

/-- The core's own copies of the lines that a command owns dropped. -/
theorem pushCmd_eq (s : State) (c : Cmd) : ∃ t, CacheSide (inFlight s c) t ∧ (c.dst = [] → t = inFlight s c) ∧
    s.pushCmd c = if c.tiles then t else t.fillCmd s.nextId := by
  refine ⟨_, CacheSide.foldl (f := fun t e => match e.2 with | .mem ia => t.dropClean s.cid (ia / 128) | _ => t)
    (fun t e => ?_) c.dst _, fun h => by rw [h]; rfl, ?_⟩
  · cases e.2 <;> exact rfl
  · rfl

/-- The command that stands under the number of one put in flight is as it was but for the sources read. -/
theorem pushCmd_cmd {s : State} {c d : Cmd} (h : (inFlight s c).cmd s.nextId = some d) :
    ∃ es, (s.pushCmd c).cmd s.nextId = some { d with src := es } := by
  obtain ⟨t, ht, -, he⟩ := pushCmd_eq s c
  have hd : t.cmd s.nextId = some d := by rw [State.cmd, ht.cmds]; exact h
  rw [he]
  split
  · exact ⟨d.src, hd⟩
  · obtain ⟨u, es, hu, hf⟩ := fillCmd_is hd
    refine ⟨es, ?_⟩
    rw [hf]
    exact cmd_putCmd_same (d := d) (by rw [State.cmd, hu.cmds]; exact hd) (cmd_id (d := d) h)

/-- Settles O42. -/
theorem putsInFlight : Obligations.PutsInFlight := by
  intro s c h
  obtain ⟨es, he⟩ := pushCmd_cmd (inFlight_cmd c h)
  refine ⟨⟨_, he, rfl, rfl, rfl, rfl, rfl, rfl, rfl, rfl, rfl, rfl, rfl, rfl, rfl, rfl⟩, fun ht hd => ?_⟩
  obtain ⟨t, -, hn, hp⟩ := pushCmd_eq s c
  rw [ht, if_pos rfl, hn hd] at hp
  rw [hp]
  refine ⟨rfl, ?_, ?_, ?_, fun g hg => ?_⟩
  · rw [inFlight_cmds, List.length_append]; rfl
  · rw [inFlight, tagNoted_is]; rfl
  · rw [inFlight, tagNoted_is]; rfl
  · simp only [inFlight, tagNoted, hg]
    exact congrArg Block.tuse (look_put_same ..)

/-! ## What it leaves -/

theorem fillCmd_cacheSide (s : State) (id : Nat) : CacheSide { s with cmds := (s.fillCmd id).cmds } (s.fillCmd id) := by
  cases h : s.cmd id with
  | none => simp only [State.fillCmd, h]; exact .refl s
  | some d =>
    obtain ⟨t, es, ht, he⟩ := fillCmd_is h
    rw [he]
    unfold CacheSide State.putCmd
    rw [ht]

/-- Beside the caches, a command put in flight changes the commands, the block's TUSE, the next number and AHI. -/
theorem pushCmd_is (s : State) (c : Cmd) :
    CacheSide { inFlight s c with cmds := (s.pushCmd c).cmds } (s.pushCmd c) := by
  obtain ⟨t, ht, -, he⟩ := pushCmd_eq s c
  rw [he]
  split
  · unfold CacheSide; rw [ht]
  · have hf := fillCmd_cacheSide t s.nextId
    unfold CacheSide at hf ⊢
    rw [hf, ht]

theorem pushCmd_leng (s : State) (c : Cmd) : (s.pushCmd c).leng = s.leng := by
  rw [(pushCmd_is s c).leng, inFlight, tagNoted_is]; rfl

theorem pushCmd_w (s : State) (c : Cmd) : (s.pushCmd c).w = { s.w with ahi := s.w.ahiAfter c } := by
  rw [(pushCmd_is s c).w, inFlight, tagNoted_is]; exact State.w_setW ..

/-! ## A request whose number another command has

O43 has no premise that a command's number is new. LEASEREQ looks its command up by its number after putting it in
flight; where a lease
request of that number stands before it, that one is sent. -/

/-- A lease request that has the next number. -/
def stray : Cmd := { id := 1, opc := 0xD2, kind := .leasereq 0 0 0 0 0 0 }

/-- A privileged context that reads its memory, whose page 0 translates, and the stray request. -/
def strayState : State :=
  { State.reset with
    warps := [(0, Accesses.soundWarp)], ctxs := [(1, { Accesses.openCtx with priv := true })], cmds := [stray]
    mgmt := { ready := [.link 0] }, links := [(0, { tlb := [(0, some 0x8000008000000000)] })] }

/-- LEASEREQ 0, s0. -/
def leaseAtS0 : OpO := { pr := ⟨false, 7⟩, d := .l 0, a := .s 0, b := .v 0, c := .v 0, m := 0 }

/-- What the statement asks of the state that the read of the record leaves, and the stray request in it. -/
def strayRead (u : State) (bs : List Byte) : Bool := decide (
  (checkInstr u.env ((Instr.leasereq leaseAtS0).words == 2) false (.leasereq leaseAtS0) = .ok (.leasereq leaseAtS0) ∧
    (u.w.haltReq && !u.w.inh) = false ∧ u.upset = 0) ∧ u.w = strayState.w ∧ u.leaseFields bs = none ∧ u.taskStall = none ∧
    (u.warpOps u.cur).any (·.acq) = false ∧ u.cmds = [stray] ∧ u.nextId = 1 ∧ u.leng.nextTag = 0)

theorem strayState_reads : (match strayState.readRec 0 64 with | .ok u bs => strayRead u bs | _ => false) = true := by
  decide +kernel

theorem strayState_sends :
    (match exec (.leasereq leaseAtS0) strayState with | .next t => t.leng.nextTag | _ => 0) = 1 := by decide +kernel

/-- The warp does not come to the end of its block behind the instruction. -/
theorem strayState_inside :
    (strayState.w.atHead || decide (strayState.w.pc + 8 * BitVec.ofNat 64 1 = strayState.w.blockEnd)) = false := by decide +kernel

/-- Refutes O43: in `strayState` LEASEREQ with a bad record sends the stray request. -/
theorem not_ordersBeyond : ¬ Obligations.OrdersBeyond := by
  rintro ⟨-, -, -, h, -⟩
  have hread := strayState_reads
  split at hread
  case h_2 => cases hread
  rename_i u bs hu
  obtain ⟨hrun, hw, hf, hst, hacq, hcmds, hid, hleng⟩ := of_decide_eq_true hread
  obtain ⟨t, ht, hk, htw⟩ := h strayState u leaseAtS0 bs hrun hw (by unfold State.recordOk State.readable; decide)
    ⟨by decide, ⟨by decide, by decide⟩, by decide, by decide, by decide, by decide⟩ hu hf hst hacq
  generalize ({ opc := 0xD2, tag := some (strayState.w.val64 leaseAtS0.d), kind := .done, err := 2,
                rec_ := BitVec.ofNat 64 (strayState.w.val64 leaseAtS0.a) } : Cmd) = c at ht
  have hc : t.cmds = [stray] := by rw [hk.rest]; exact hcmds
  have hn : t.nextId = 1 := by rw [hk.rest]; exact hid
  have hcmd : (inFlight t c).cmd t.nextId = some stray := by rw [State.cmd, inFlight_cmds, hc, hn]; rfl
  obtain ⟨es, hes⟩ := pushCmd_cmd hcmd
  have hdone : (t.pushCmd c).runDone u.nextId = t.pushCmd c := by
    rw [hid, ← hn]
    simp only [State.runDone, hes, stray]
  have htag : (((t.pushCmd c).runDone u.nextId).advance 1).leng.nextTag = 0 := by
    rw [hdone, Accesses.advance_inside (by rw [pushCmd_w, htw, State.w1, hw]; exact strayState_inside)]
    exact (congrArg LeaseEngine.nextTag (pushCmd_leng t c)).trans (by rw [hk.rest]; exact hleng)
  have hs := strayState_sends
  rw [ht] at hs
  exact absurd (htag.symm.trans hs) (by decide)

end Sys2Proof.Proofs.Puts
end

section
/-! The floating instructions (R89 to R101): each computes the row that says what it leaves (O15, O16). -/
namespace Sys2Proof.Proofs.Floats
open Sys2Proof Sys2Proof.Machine Sys2Proof.Proofs.Arms Sys2Proof.Proofs.Integers

/-! ## One rounding of an exact value (R90, R95) -/

/-- What `fltOp` computes in a lane. -/
def fltRes (dbl : Bool) (rm : Nat) (srcs : List Opnd) (f : List Num → Num × BitVec 8) (w : Warp) (l : Nat) : Res :=
  let xs := srcs.map fun x => w.read (bitsD dbl) x l
  let r := f (xs.map fun x => unpack (fmtD dbl) x.n)
  let y := round (fmtD dbl) rm (draw w.seed l) r.1
  ofVals xs (y.1, r.2 ||| y.2)

theorem fltRes_eq_row (dbl : Bool) (o : OpO) (rm : Nat) (srcs : List Opnd) (f : List Num → Num × BitVec 8) (w : Warp) (l : Nat) :
    fltRes dbl rm srcs f w l = (fltRow dbl o rm srcs f).res w l := by
  rw [row_res_eq_ofVals]
  simp only [fltRes, fltRow, List.map_map]
  rfl

theorem regsOfD_cases (dbl : Bool) : regsOfD dbl = 1 ∨ regsOfD dbl = 2 := by cases dbl <;> simp [regsOfD]

theorem fltOp_computes {i : Instr} {s : State} {dbl : Bool} {o : OpO} {rm : Nat} {srcs : List Opnd}
    {f : Nat → List Num → Num × BitVec 8} (h : Runs i s) (hf : FreeFor i s o.pr o.d (if dbl then 2 else 1))
    (he : exec i s = fltOp i dbl o rm srcs f s) :
    Computes i s o.pr (if dbl then 2 else 1) o.d id ((fltRow dbl o rm srcs (f rm)).res s.w) :=
  row_computes (f := fltRes dbl rm srcs (f rm)) h hf (regsOfD_cases dbl) he fun _ _ => fltRes_eq_row ..

/-- Settles O15: each instruction is one use of `fltOp`. -/
theorem floatArithmetic : Obligations.FloatArithmetic := by
  intro i s x hx h hf
  unfold arithRow at hx
  split at hx
  case h_13 => cases hx
  all_goals obtain rfl := Option.some.inj hx
  case h_1 dbl o => exact fltOp_computes (f := fun rm => on2 (addN rm)) h hf (exec_fadd dbl o s)
  case h_2 dbl o => exact fltOp_computes (f := fun rm => on2 fun a b => addN rm a b.neg) h hf (exec_fsub dbl o s)
  case h_3 dbl o => exact fltOp_computes (f := fun _ => on2 mulN) h hf (exec_fmul dbl o s)
  case h_4 dbl o => exact fltOp_computes (f := fun rm => on3 (fmaN rm)) h hf (exec_ffma dbl o s)
  case h_5 dbl o => exact fltOp_computes (f := fun _ => on2 divN) h hf (exec_fdiv dbl o s)
  case h_6 dbl o => exact fltOp_computes (f := fun _ => on1 sqrtN) h hf (exec_fsqrt dbl o s)
  case h_7 o => exact fltOp_computes (f := fun _ => on1 (divN (.fin false 1 0 false))) h hf (exec_frcp o s)
  case h_8 o => exact fltOp_computes (f := fun _ => on1 rsqN) h hf (exec_frsq o s)
  case h_9 o => exact fltOp_computes (f := fun _ => on1 exp2N) h hf (exec_fexp2 o s)
  case h_10 o => exact fltOp_computes (f := fun _ => on1 log2N) h hf (exec_flog2 o s)
  case h_11 o => exact fltOp_computes (f := fun _ => on1 sinpiN) h hf (exec_fsinpi o s)
  case h_12 o => exact fltOp_computes (f := fun _ => on1 cospiN) h hf (exec_fcospi o s)

/-! ## Minimum, maximum, compares, classes, integral rounding, conversions -/

theorem regsOfF_cases (c : Nat) : regsOfF c = 1 ∨ regsOfF c = 2 := by
  unfold regsOfF
  split
  · exact .inr rfl
  · exact .inl rfl

section
variable {i : Instr} {s : State}

/-- FMIN and FMAX. -/
theorem fminmax_computes {dbl : Bool} {o : OpO} {pick : Num → Num → Bool} (h : Runs i s)
    (hf : FreeFor i s o.pr o.d (if dbl then 2 else 1)) (he : exec i s = fminmax i dbl o pick s) :
    Computes i s o.pr (if dbl then 2 else 1) o.d id
      ((formatRow.two dbl o fun a b => minmaxN (fmtD dbl) (decide (o.sub = 1)) pick a b).res s.w) :=
  row_computes h hf (regsOfD_cases dbl) he fun w l => by rw [row_res_eq_ofVals]; rfl

/-- A packed operation: each half is one rounding (R96). -/
theorem halfOp_computes {o : OpO} {srcs : List Opnd} {f : Nat → List Num → Num × BitVec 8} (h : Runs i s)
    (hf : FreeFor i s o.pr o.d 1) (he : exec i s = halfOp i o srcs f s) :
    Computes i s o.pr 1 o.d id ((formatRow.half o srcs (f o.sub)).res s.w) := by
  refine row_computes h hf (.inl rfl) he fun w l => ?_
  rw [row_res_eq_ofVals]
  simp only [formatRow.half, halfVal, List.map_map, Nat.shiftLeft_eq, Nat.shiftRight_eq_div_pow]
  rfl

end

/-- The rows of FMIN to CVTQ. -/
theorem format_computes {i : Instr} {s : State} {x : Row} (hx : formatRow i = some x) (h : Runs i s)
    (hf : FreeFor i s x.pr x.d x.n) : Computes i s x.pr x.n x.d x.ext (x.res s.w) := by
  unfold formatRow at hx
  split at hx
  case h_11 => cases hx
  all_goals obtain rfl := Option.some.inj hx
  case h_1 dbl o => exact fminmax_computes (pick := pickMin) h hf (exec_fmin dbl o s)
  case h_2 dbl o => exact fminmax_computes (pick := pickMax) h hf (exec_fmax dbl o s)
  case h_3 dbl o => exact row_computes h hf (.inl rfl) (exec_fcmp dbl o s) fun w l => by rw [row_res_eq_ofVals]; rfl
  case h_4 dbl o => exact row_computes h hf (.inl rfl) (exec_fclass dbl o s) fun w l => by rw [row_res_eq_ofVals]; rfl
  case h_5 dbl o => exact row_computes h hf (regsOfD_cases dbl) (exec_frnd dbl o s) fun w l => by rw [row_res_eq_ofVals]; rfl
  case h_6 o => exact halfOp_computes (f := fun rm => on2 (addN rm)) h hf (exec_hadd2 o s)
  case h_7 o => exact halfOp_computes (f := fun _ => on2 mulN) h hf (exec_hmul2 o s)
  case h_8 o => exact halfOp_computes (f := fun rm => on3 (fmaN rm)) h hf (exec_hfma2 o s)
  case h_9 dst src o => exact row_computes h hf (regsOfF_cases _) (exec_cvt dst src o s) fun w l => by rw [row_res_eq_ofVals]; rfl
  case h_10 dst src o =>
    exact row_computes h hf (regsOfF_cases _) (exec_cvtq dst src o s) fun w l => by rw [row_res_eq_ofVals]; rfl

/-! ## Block scales and packing (R99, R101) -/

/-- A computing instruction whose sources are those of other lanes than it writes. -/
theorem aluFrom_computes {i : Instr} {s : State} {pr : Pred} {d : Opnd} {n : Nat} {srcs : List (Opnd × Nat)} {rd : W32}
    {ext : Nat → Nat} {f : Warp → Nat → Res} {r : Nat → Res} (hn : n = 1 ∨ n = 2) (h : Runs i s) (hf : FreeFor i s pr d n)
    (he : exec i s = aluFrom i pr d n srcs rd ext f s) (hr : ∀ clk g a u, f (s.w.as clk g a u) = r) :
    Computes i s pr n d ext r := by
  obtain ⟨t, g, a, u, hx, hk, hs, hl⟩ := aluFrom_runs pr d n hn srcs rd ext f h hf
  rw [hr] at hl
  exact ⟨t, he.trans hx, hk, hs, hl⟩

/-- A run of numbers from `a`, in a longer range. -/
theorem filter_range_run {a g n : Nat} (p : Nat → Bool) (h : a + g ≤ n) :
    (List.range n).filter (fun j => decide (a ≤ j ∧ j < a + g) && p j) = ((List.range g).filter fun j => p (a + j)).map
        (a + ·) := by
  obtain ⟨k, rfl⟩ := Nat.exists_eq_add_of_le h
  have h1 : (List.range a).filter (fun j => decide (a ≤ j ∧ j < a + g) && p j) = [] :=
    List.filter_eq_nil_iff.2 fun j hj => by
      have := List.mem_range.1 hj
      simp; omega
  have h3 : ((List.range k).map (a + g + ·)).filter (fun j => decide (a ≤ j ∧ j < a + g) && p j) = [] :=
    List.filter_eq_nil_iff.2 fun j hj => by
      obtain ⟨i, -, rfl⟩ := List.mem_map.1 hj
      rw [decide_eq_false (by omega), Bool.false_and]
      exact Bool.false_ne_true
  rw [List.range_add, List.range_add, List.filter_append, List.filter_append, h1, h3, List.nil_append, List.append_nil,
    List.filter_map]
  refine congrArg (List.map (a + ·)) (List.filter_congr fun j hj => ?_)
  have := List.mem_range.1 hj
  simp [this]

/-- The participating lanes of a group. -/
theorem packGroup_holds {g : Nat} (hg : g ∣ 32) (m : W32) (l : Nat) :
    (packGroup g l).filter (fun j => m.getLsbD j) = ((List.range g).filter fun j => m.getLsbD (l / g * g + j)).map
        (l / g * g + ·) := by
  have hg0 : 0 < g := Nat.pos_of_dvd_of_pos hg (by decide)
  have hj (j : Nat) : decide (j / g = l / g) = decide (l / g * g ≤ j ∧ j < l / g * g + g) :=
    decide_eq_decide.2 (by rw [Nat.div_eq_iff hg0]; omega)
  by_cases hl : l < 32
  · have hle : l / g * g + g ≤ 32 := by
      obtain ⟨k, hk⟩ := hg
      have h1 : l / g < k := Nat.div_lt_of_lt_mul (by omega)
      calc l / g * g + g = (l / g + 1) * g := by rw [Nat.add_mul, Nat.one_mul]
        _ ≤ k * g := Nat.mul_le_mul_right g h1
        _ = 32 := by rw [hk, Nat.mul_comm]
    rw [packGroup, List.filter_filter, ← filter_range_run (fun j => m.getLsbD j) hle]
    simp only [hj, Bool.and_comm]
  · have hno : (List.range g).filter (fun j => m.getLsbD (l / g * g + j)) = [] :=
      List.filter_eq_nil_iff.2 fun j _ => by
        rw [BitVec.getLsbD_of_ge m _ (by
          obtain ⟨k, hk⟩ := hg
          have h1 : k ≤ l / g := (Nat.le_div_iff_mul_le hg0).2 (by rw [Nat.mul_comm, ← hk]; omega)
          have h2 : k * g ≤ l / g * g := Nat.mul_le_mul_right g h1
          rw [Nat.mul_comm, ← hk] at h2
          omega)]
        exact Bool.false_ne_true
    have hno' : (packGroup g l).filter (fun j => m.getLsbD j) = [] := by
      refine List.filter_eq_nil_iff.2 fun j hj' hm => ?_
      obtain ⟨h1, h2⟩ := List.mem_filter.1 hj'
      rw [hj] at h2
      have h3 := (of_decide_eq_true h2).1
      have := List.mem_range.1 h1
      obtain ⟨k, hk⟩ := hg
      have h4 : k ≤ l / g := (Nat.le_div_iff_mul_le hg0).2 (by rw [Nat.mul_comm, ← hk]; omega)
      have h5 : k * g ≤ l / g * g := Nat.mul_le_mul_right g h4
      rw [Nat.mul_comm, ← hk] at h5
      omega
    rw [hno, hno', List.map_nil]

theorem sumOf_map {α β : Type} (f : α → β) (g : β → Nat) (xs : List α) : sumOf g (xs.map f) = sumOf (fun x => g (f x)) xs := by
  induction xs with
  | nil => rfl
  | cons x xs ih => exact congrArg (g (f x) + ·) ih

theorem packN_eq {g : Nat} (hg : g ∣ 32) (w : Warp) (o : OpO) (b l : Nat) : packN w o g b l = packRow.pack o g b w l := by
  have hg0 : 0 < g := Nat.pos_of_dvd_of_pos hg (by decide)
  have hsum : sumOf (fun j => ((w.read 32 o.a (l / g * g + j)).n % 2 ^ b) <<< (b * j))
        ((List.range g).filter fun j => (w.holds o.pr).getLsbD (l / g * g + j)) =
      sumOf (fun j => (w.read 32 o.a (l / g * g + j)).n % 2 ^ b * 2 ^ (b * ((l / g * g + j) % g)))
        ((List.range g).filter fun j => (w.holds o.pr).getLsbD (l / g * g + j)) :=
    sumOf_congr fun j hj => by
      have hj' := List.mem_range.1 (List.mem_filter.1 hj).1
      rw [Nat.shiftLeft_eq, Nat.mul_add_mod', Nat.mod_eq_of_lt hj']
  simp only [packN, packRow.pack, packGroup_holds hg, ofVals, List.any_map, sumOf_map, List.map_map, Function.comp_def, hsum]

theorem unpackN_eq (w : Warp) (o : OpO) (g : Nat) {b : Nat} (hb : 0 < b) (l : Nat) :
    unpackN w o g b l = packRow.unpk o g b w l := by
  have hbits : bits (w.read 32 o.a (l / g * g)).n (b * (l % g) + b - 1) (b * (l % g)) =
      (w.read 32 o.a (l / g * g)).n / 2 ^ (b * (l % g)) % 2 ^ b := by
    rw [bits, Nat.shiftRight_eq_div_pow, show b * (l % g) + b - 1 + 1 - b * (l % g) = b by omega]
  simp only [unpackN, packRow.unpk, ofVals, hbits, List.any_cons, List.any_nil, Bool.or_false]

theorem packN_as (w : Warp) (clk : Nat) (q : Origin) (a : Word) (u : Bool) (o : OpO) (g b l : Nat) :
    packN (w.as clk q a u) o g b l = packN w o g b l := rfl

theorem unpackN_as (w : Warp) (clk : Nat) (q : Origin) (a : Word) (u : Bool) (o : OpO) (g b l : Nat) :
    unpackN (w.as clk q a u) o g b l = unpackN w o g b l := rfl

/-- PACK6 and PACK4. -/
theorem pack_row_computes {i : Instr} {s : State} {o : OpO} {rd : W32} {g b : Nat} (hg : g ∣ 32) (h : Runs i s)
    (hf : FreeFor i s o.pr o.d 1) (he : exec i s = aluFrom i o.pr o.d 1 [(o.a, 1)] rd id (fun w l => packN w o g b l) s) :
    Computes i s o.pr 1 o.d id (packRow.pack o g b s.w) :=
  aluFrom_computes (.inl rfl) h hf he fun _ _ _ _ => funext fun _ => (packN_as ..).trans (packN_eq hg ..)

/-- UNPK6 and UNPK4. -/
theorem unpk_row_computes {i : Instr} {s : State} {o : OpO} {rd : W32} {g b : Nat} (hb : 0 < b) (h : Runs i s)
    (hf : FreeFor i s o.pr o.d 1) (he : exec i s = aluFrom i o.pr o.d 1 [(o.a, 1)] rd id (fun w l => unpackN w o g b l) s) :
    Computes i s o.pr 1 o.d id (packRow.unpk o g b s.w) :=
  aluFrom_computes (.inl rfl) h hf he fun _ _ _ _ => funext fun _ => (unpackN_as ..).trans (unpackN_eq _ _ _ hb _)

/-- What MXSCAN computes: one scale for the warp. -/
def mxscanRes (o : OpO) (w : Warp) : Res :=
  let vals := (lanesOf (w.holds o.pr)).map fun l => w.read 32 o.a l
  ofVals vals (blockScale (if bit o.m.toNat 0 then 8 else 2) (vals.map fun x => unpack 1 x.n), 0)

theorem mxscanRes_as (o : OpO) (w : Warp) (clk : Nat) (g : Origin) (a : Word) (u : Bool) :
    mxscanRes o (w.as clk g a u) = mxscanRes o w := rfl

theorem mxscan_computes {o : OpO} {s : State} (h : Runs (.mxscan o) s) (hf : FreeFor (.mxscan o) s o.pr o.d 1) :
    Computes (.mxscan o) s o.pr 1 o.d id fun _ => mxscanRes o s.w :=
  aluFrom_computes (f := fun w _ => mxscanRes o w) (.inl rfl) h hf
      (exec_mxscan o s) fun _ _ _ _ => funext fun _ => mxscanRes_as ..

/-- The rows of MXSCAN, PACK and UNPK. -/
theorem pack_computes {i : Instr} {s : State} {x : Packed} (hx : packRow i = some x) (h : Runs i s)
    (hf : FreeFor i s x.o.pr x.o.d 1) : Computes i s x.o.pr 1 x.o.d id (x.res s.w) := by
  unfold packRow at hx
  split at hx
  case h_6 => cases hx
  all_goals obtain rfl := Option.some.inj hx
  case h_1 o =>
    have hm := mxscan_computes h hf
    simp only [mxscanRes, ofVals] at hm
    exact hm
  case h_2 o => exact pack_row_computes (by decide) h hf (exec_pack6 o s)
  case h_3 o => exact pack_row_computes (by decide) h hf (exec_pack4 o s)
  case h_4 o => exact unpk_row_computes (by decide) h hf (exec_unpk6 o s)
  case h_5 o => exact unpk_row_computes (by decide) h hf (exec_unpk4 o s)

/-- Settles O16. -/
theorem floatFormats : Obligations.FloatFormats :=
  ⟨fun _ _ _ hx h hf => format_computes hx h hf, fun _ _ _ hx h hf => pack_computes hx h hf⟩

end Sys2Proof.Proofs.Floats
end

section
/-! The cross-lane instructions (R160 to R169): what each lane computes from the lanes of its tile (O17, O18). -/
namespace Sys2Proof.Proofs.Lanes
open Sys2Proof Sys2Proof.Machine Sys2Proof.Proofs.Arms Sys2Proof.Proofs.Integers Sys2Proof.Proofs.Issue Sys2Proof.Proofs.Floats

/-! ## The lanes of a tile (R160) -/

theorem tile_dvd (w : Warp) : w.tile ∣ 32 := by
  unfold Warp.tile
  split
  · rename_i h
    simp only [partOk, Bool.or_eq_true, decide_eq_true_eq] at h
    rcases h with (((h | h) | h) | h) | h <;> rw [h] <;> decide
  · exact Nat.dvd_refl 32

theorem inTile_eq (w : Warp) (pr : Pred) (l : Nat) :
    w.inTile pr l = (packGroup w.tile l).filter fun j => (w.holds pr).getLsbD j := by
  rw [Warp.inTile, packGroup, List.filter_filter]
  exact List.filter_congr fun j _ => Bool.and_comm ..

theorem peers_eq (w : Warp) (pr : Pred) (l : Nat) : w.peers pr l = w.inTile pr l := by
  rw [inTile_eq, packGroup_holds (tile_dvd w), Warp.peers, Warp.tileOf, List.filter_map]
  rfl

/-! ## D and C, both from the warp as it stood -/

section
variable {i : Instr} {s : State} {o : OpO} {dn : Nat} {k c : BitVec 8} {f g : Warp → Nat → Res}

/-- The warp with D and then C written. -/
def bothWritten (w : Warp) (o : OpO) (dn : Nat) (f g : Nat → Res) : Warp :=
  (w.perLane o.pr (32 * dn) o.d f).perLane o.pr 32 o.c g

theorem bothWritten_frame (w : Warp) (o : OpO) (dn : Nat) (f g : Nat → Res) :
    bothWritten w o dn f g = { w with v := (bothWritten w o dn f g).v, s := (bothWritten w o dn f g).s
                                      p := (bothWritten w o dn f g).p, flg := (bothWritten w o dn f g).flg } := by
  rw [bothWritten, Warp.perLane_frame, Warp.perLane_frame w]

/-- A cross-lane instruction with a vector D and a status C leaves both. -/
theorem laneOp_computes {srcs : List (Opnd × Nat)} (hn : dn = 1 ∨ dn = 2) (h : Runs i s) (hf : FreeFor i s o.pr o.d dn)
    (hi : i.words = 1) (hd : o.d = .v k) (hc : o.c = .p c) (he : exec i s = laneOp i o dn srcs f g s)
    (hfa : ∀ clk q a u, f (s.w.as clk q a u) = f s.w) (hga : ∀ clk q a u, g (s.w.as clk q a u) = g s.w) :
    ComputesBoth i s o.pr dn o.d o.c (f s.w) (g s.w) := by
  have hready : (decide (s.w.writers o.pr = 0) || s.operandsFree i [o.d] dn (s.w.writers o.pr)) = true := by
    rw [Bool.or_eq_true, decide_eq_true_eq]; exact hf
  have hk := State.readPending_kept (State.issued_kept s i) (srcs.filter fun e => names i e.1) ((s.issued i).w.holds o.pr)
  obtain ⟨q, a, u, hw⟩ := readPending_issued_w s i (srcs.filter fun e => names i e.1) ((s.issued i).w.holds o.pr)
  have hD : LaneResult (s.w.as s.clk q a u) ((s.w.as s.clk q a u).perLane o.pr (32 * dn) o.d (f s.w)) o.pr dn o.d id (f s.w) := by
    rw [hd, ← result_v (ext := id)]
    exact Warp.result_is _ o.pr dn hn (.v k) id (f s.w)
  refine ⟨_, (s.w.as s.clk q a u).perLane o.pr (32 * dn) o.d (f s.w), ?_,
    hk.setW (bothWritten (s.w.as s.clk q a u) o dn (f s.w) (g s.w)), ?_, hD.of_as, ?_⟩
  · rw [he, laneOp, issue_runs h _ _ hready rfl (.inr rfl) rfl]
    simp only [hw, hfa, hga, hi]
    rfl
  · refine sameWarp_of_frame (w := bothWritten (s.w.as s.clk q a u) o dn (f s.w) (g s.w)) (g := q) (a := a) (u := u) ?_
    rw [State.w_setW]
    exact bothWritten_frame ..
  · rw [State.w_setW, bothWritten, hc, ← result_p (ext := id)]
    exact Warp.result_is _ o.pr 1 (.inl rfl) (.p c) id (g s.w)

end

/-! ## Shuffles (R162) -/

/-- What SHFL writes to D and C. -/
def shflD (o : OpO) (mode : ShflMode) (w : Warp) (l : Nat) : Res :=
  let b := w.read 32 o.b l
  let x := w.read (32 * regs64 o) o.a (shflSource o mode w l).1
  { n := x.n, psn := x.psn || b.psn }
def shflC (o : OpO) (mode : ShflMode) (w : Warp) (l : Nat) : Res :=
  { n := Bool.n (shflSource o mode w l).2, psn := (w.read 32 o.b l).psn }

theorem tileBase (l n : Nat) : l - l % n = l / n * n := by
  have := Nat.div_add_mod' l n
  omega

theorem bits64 (o : OpO) : 32 * regs64 o = if wide64 o then 64 else 32 := by
  unfold regs64
  split <;> rfl

theorem regs64_cases (o : OpO) : regs64 o = 1 ∨ regs64 o = 2 := by
  unfold regs64
  split
  · exact .inr rfl
  · exact .inl rfl

/-- The lane read: the one at the position that the row gives, if it participates. -/
theorem shflSource_eq {o : OpO} {mode : ShflMode} {pos : Nat → Nat → Nat → Option Nat} {w : Warp} {l : Nat}
    (h : ∀ n base q b, mode n base q b = (pos n q b).map (base + ·)) :
    shflSource o mode w l = (((shuffleRow.from_ o pos w l).getD l), (shuffleRow.from_ o pos w l).isSome) := by
  unfold shflSource shuffleRow.from_
  simp only [h, tileBase]
  cases pos w.tile (l % w.tile) (w.read 32 o.b l).n with
  | none => rfl
  | some q =>
    simp only [Option.map_some]
    split <;> rfl

theorem holds_as (w : Warp) (clk : Nat) (q : Origin) (a : Word) (u : Bool) (pr : Pred) :
    (w.as clk q a u).holds pr = w.holds pr := rfl
theorem tile_as (w : Warp) (clk : Nat) (q : Origin) (a : Word) (u : Bool) : (w.as clk q a u).tile = w.tile := rfl

theorem shflSource_as (o : OpO) (mode : ShflMode) (w : Warp) (clk : Nat) (q : Origin) (a : Word) (u : Bool) :
    shflSource o mode (w.as clk q a u) = shflSource o mode w := by
  funext l
  unfold shflSource
  rw [read_as, holds_as, tile_as]

theorem n_eq_ite (b : Bool) : Bool.n b = if b then 1 else 0 := by cases b <;> rfl

theorem shfl_computes {i : Instr} {s : State} {o : OpO} {mode : ShflMode} {pos : Nat → Nat → Nat → Option Nat} {m : Bool}
    (h : Runs i s) (hf : FreeFor i s o.pr o.d (if wide64 o then 2 else 1)) (hi : i.words = 1)
    (hk : fieldsOk i = (cls4 1 1 11 4 o && m)) (he : exec i s = shfl i o mode s)
    (hm : ∀ n base q b, mode n base q b = (pos n q b).map (base + ·)) : (shuffleRow o pos).holds i s := by
  have hcls := fieldsOk_of_runs h
  simp only [hk, cls4, Bool.and_eq_true] at hcls
  obtain ⟨⟨⟨⟨hd, -⟩, -⟩, hc⟩, -⟩ := hcls
  obtain ⟨k, hd⟩ := exists_v_of_inCls hd
  obtain ⟨c, hc⟩ := exists_p_of_inCls hc
  have hD : shflD o mode s.w = (shuffleRow o pos).toD s.w := funext fun l => by
    simp only [shflD, shuffleRow, shflSource_eq hm, bits64]
  have hC : shflC o mode s.w = fun l => { n := if (shuffleRow.from_ o pos s.w l).isSome then 1 else 0, psn := (s.w.read 32 o.b l).psn } :=
    funext fun l => by simp only [shflC, shflSource_eq hm, n_eq_ite]
  have hr := laneOp_computes (f := shflD o mode) (g := shflC o mode) (regs64_cases o) h hf hi hd hc he
    (fun _ _ _ _ => by funext l; simp only [shflD, read_as, shflSource_as])
    (fun _ _ _ _ => by funext l; simp only [shflC, read_as, shflSource_as])
  rw [hD, hC] at hr
  exact hr

/-! ## Votes (R163) -/

theorem inTile_as (w : Warp) (clk : Nat) (q : Origin) (a : Word) (u : Bool) (pr : Pred) (l : Nat) :
    (w.as clk q a u).inTile pr l = w.inTile pr l := rfl

theorem peers_as (w : Warp) (clk : Nat) (q : Origin) (a : Word) (u : Bool) (pr : Pred) (l : Nat) :
    (w.as clk q a u).peers pr l = w.inTile pr l := (peers_eq ..).trans (inTile_as ..)

theorem vote_computes {i : Instr} {s : State} {o : OpO} {f g : List Bool → Bool} (h : Runs i s) (hf : FreeFor i s o.pr o.d 1)
    (he : exec i s = vote i o f s) (hg : ∀ xs, f xs = g xs) : (crossRow.vote o g).holds i s := by
  refine alu_computes (.inl rfl) h hf he fun clk q a u => funext fun l => ?_
  simp only [peers_as, crossRow.vote, hg, n_eq_ite, List.map_map, List.any_map]
  rfl

theorem any_id_eq (xs : List Bool) : xs.any id = xs.contains true := by
  induction xs with
  | nil => rfl
  | cons x xs ih => cases x <;> simp_all

theorem all_id_eq (xs : List Bool) : xs.all id = !xs.contains false := by
  induction xs with
  | nil => rfl
  | cons x xs ih => cases x <;> simp_all

theorem all_not_eq (xs : List Bool) : (xs.all fun x => !x) = !xs.contains true := by
  induction xs with
  | nil => rfl
  | cons x xs ih => cases x <;> simp_all

theorem voteSame_eq (xs : List Bool) : (xs.all id || xs.all (!·)) = !(xs.contains true && xs.contains false) := by
  rw [all_id_eq, all_not_eq, Bool.not_and, Bool.or_comm]

/-! ## Matches and the election (R164, R165) -/

theorem read64 (o : OpO) (w : Warp) (j : Nat) : w.read (32 * regs64 o) o.a j = laneA o (wide64 o) w j := by
  rw [bits64]; rfl

theorem matchGroup_eq (o : OpO) (w : Warp) (l : Nat) : matchGroup o w l = equals o w l := by
  simp only [matchGroup, equals, peers_eq, read64]

theorem matchPoison_eq (o : OpO) (w : Warp) (l : Nat) : matchPoison o w l = tilePsn o (wide64 o) w l := by
  simp only [matchPoison, tilePsn, peers_eq, read64]

theorem equals_as (o : OpO) (w : Warp) (clk : Nat) (q : Origin) (a : Word) (u : Bool) (l : Nat) :
    equals o (w.as clk q a u) l = equals o w l := rfl
theorem tilePsn_as (o : OpO) (wide : Bool) (w : Warp) (clk : Nat) (q : Origin) (a : Word) (u : Bool) (l : Nat) :
    tilePsn o wide (w.as clk q a u) l = tilePsn o wide w l := rfl

/-- The mask of some lanes as the sum of their bits. -/
theorem maskOf_filter (p : Nat → Bool) : (maskOf ((List.range 32).filter p)).toNat = sumOf (2 ^ ·)
    ((List.range 32).filter p) := by
  have hs : ∀ xs : List Nat, sumOf (2 ^ ·) (xs.filter p) = sumOf (fun i => if p i then 2 ^ i else 0) xs := fun xs => by
    induction xs with
    | nil => rfl
    | cons x xs ih =>
      rw [List.filter_cons]
      cases hp : p x with
      | true => simp only [if_true, sumOf, ih, hp]
      | false => simp only [Bool.false_eq_true, if_false, sumOf, ih, hp, Nat.zero_add]
  rw [hs]
  refine eq_fromBits (BitVec.isLt _) fun i hi => ?_
  rw [BitVec.testBit_toNat, getLsbD_maskOf, decide_eq_true hi, Bool.true_and]
  cases hp : p i with
  | true => exact List.contains_iff_mem.2 (List.mem_filter.2 ⟨List.mem_range.2 hi, hp⟩)
  | false =>
    refine Bool.eq_false_iff.2 fun hc => ?_
    have hm := (List.mem_filter.1 (List.contains_iff_mem.1 hc)).2
    rw [hp] at hm
    cases hm

theorem maskOf_equals (o : OpO) (w : Warp) (l : Nat) : (maskOf (equals o w l)).toNat = sumOf (2 ^ ·) (equals o w l) := by
  rw [equals, Warp.inTile, List.filter_filter]
  exact maskOf_filter _

/-- An instruction of a tile's matching lanes: D and C from the group and the poison of the tile. -/
theorem match_computes {i : Instr} {s : State} {o : OpO} {m : Bool} {f g : List Nat → Warp → Nat → Nat} (h : Runs i s)
    (hf : FreeFor i s o.pr o.d (if wide64 o then 2 else 1)) (hi : i.words = 1) (hk : fieldsOk i = (cls4 1 1 0 4 o && m))
    (hfa : ∀ xs clk q a u, f xs (s.w.as clk q a u) = f xs s.w) (hga : ∀ xs clk q a u, g xs (s.w.as clk q a u) = g xs s.w)
    (he : exec i s = laneOp i o (regs64 o) [(o.a, regs64 o)]
      (fun w l => { n := f (matchGroup o w l) w l, psn := matchPoison o w l })
      (fun w l => { n := g (matchGroup o w l) w l, psn := matchPoison o w l }) s) :
    ComputesBoth i s o.pr (if wide64 o then 2 else 1) o.d o.c
      (fun l => { n := f (equals o s.w l) s.w l, psn := tilePsn o (wide64 o) s.w l })
      (fun l => { n := g (equals o s.w l) s.w l, psn := tilePsn o (wide64 o) s.w l }) := by
  have hcls := fieldsOk_of_runs h
  simp only [hk, cls4, Bool.and_eq_true] at hcls
  obtain ⟨⟨⟨⟨hd, -⟩, -⟩, hc⟩, -⟩ := hcls
  obtain ⟨k, hd⟩ := exists_v_of_inCls hd
  obtain ⟨c, hc⟩ := exists_p_of_inCls hc
  have hr := laneOp_computes (regs64_cases o) h hf hi hd hc he
    (fun _ _ _ _ => by funext l; simp only [matchGroup_eq, matchPoison_eq, equals_as, tilePsn_as, hfa])
    (fun _ _ _ _ => by funext l; simp only [matchGroup_eq, matchPoison_eq, equals_as, tilePsn_as, hga])
  simp only [matchGroup_eq, matchPoison_eq] at hr
  exact hr

theorem decide_n (p : Prop) [Decidable p] : Bool.n (decide p) = if p then 1 else 0 := by
  by_cases h : p <;> simp [h, Bool.n]

/-- Settles O17. -/
theorem acrossLanes : Obligations.AcrossLanes := by
  intro i s x hx h hf
  unfold crossRow at hx
  split at hx
  case h_15 => cases hx
  all_goals obtain rfl := Option.some.inj hx
  case h_1 o => exact shfl_computes h hf rfl rfl (exec_shflFrom o s) fun n base q b => rfl
  case h_2 o =>
    refine shfl_computes h hf rfl rfl (exec_shflRot o s) fun n base q b => ?_
    simp only [shflRotLane, Option.map_some, Nat.add_mod_mod]
  case h_3 o =>
    refine shfl_computes h hf rfl rfl (exec_shflShift o s) fun n base q b => ?_
    simp only [shflShiftLane]
    split <;> rfl
  case h_4 o => exact shfl_computes h hf rfl rfl (exec_shflFlip o s) fun n base q b => rfl
  case h_5 o => exact vote_computes h hf (exec_voteOr o s) any_id_eq
  case h_6 o => exact vote_computes h hf (exec_voteAnd o s) all_id_eq
  case h_7 o => exact vote_computes h hf (exec_voteSame o s) voteSame_eq
  case h_8 o =>
    refine alu_computes (.inl rfl) h hf (exec_voteMask o s) fun clk q a u => funext fun l => ?_
    simp only [peers_as, tile_as, holds_as, tileBase]
    rfl
  case h_9 o =>
    have hr := match_computes (f := fun xs _ _ => (maskOf xs).toNat) (g := fun xs w l => Bool.n (decide (xs = w.peers o.pr l)))
      h hf rfl rfl (fun _ _ _ _ _ => rfl) (fun _ _ _ _ _ => by funext l; simp only [peers_eq, inTile_as]) (exec_matchPeers o s)
    simp only [maskOf_equals, peers_eq, decide_n] at hr
    exact hr
  case h_10 o =>
    have hr := match_computes (f := fun xs w l => xs.headD l % w.tile) (g := fun xs _ l => Bool.n (decide (xs.headD l = l)))
      h hf rfl rfl (fun _ _ _ _ _ => by funext l; simp only [tile_as]) (fun _ _ _ _ _ => rfl) (exec_matchLead o s)
    simp only [decide_n] at hr
    exact hr
  case h_11 o =>
    refine alu_computes (.inl rfl) h hf (exec_elect o s) fun clk q a u => funext fun l => ?_
    simp only [peers_as, decide_n]
  case h_12 o => exact alu_computes (.inl rfl) h hf (exec_exmget o s) fun _ _ _ _ => rfl
  case h_13 k o => exact alu_computes (.inl rfl) h hf (exec_lvlid k o s) fun _ _ _ _ => rfl
  case h_14 o => exact alu_computes (.inl rfl) h hf (exec_lvlidLane o s) fun _ _ _ _ => rfl

end Sys2Proof.Proofs.Lanes
end

section
/-! Reductions and scans (R60, R61, R166): the fold over a tile's elements is the exact integer wrapped once (O18). -/
namespace Sys2Proof.Proofs.Reductions
open Sys2Proof Sys2Proof.Machine Sys2Proof.Proofs.Arms Sys2Proof.Proofs.Integers Sys2Proof.Proofs.Lanes

/-! ## Integers of a type and their bits (R67) -/

theorem valT_emod (t n : Nat) : valT t n % ((2 ^ tyWidth t : Nat) : Int) = (n : Int) % ((2 ^ tyWidth t : Nat) : Int) := by
  unfold valT
  split
  · unfold sext
    dsimp only
    split
    · rw [Int.natCast_emod, Int.emod_emod_of_dvd _ (Int.dvd_refl _)]
    · rw [Int.natCast_emod, Int.sub_emod_right, Int.emod_emod_of_dvd _ (Int.dvd_refl _)]
  · rfl

theorem wrapT_congr {t : Nat} {x y : Int} (h : x % ((2 ^ tyWidth t : Nat) : Int) = y % ((2 ^ tyWidth t : Nat) : Int)) :
    wrapT t x = wrapT t y := congrArg Int.toNat h

theorem wrapT_lt (t : Nat) (x : Int) : wrapT t x < 2 ^ tyWidth t := by
  have h0 : (0 : Int) < ((2 ^ tyWidth t : Nat) : Int) := by exact_mod_cast Nat.two_pow_pos _
  have h := Int.emod_lt_of_pos x h0
  have h1 := Int.emod_nonneg x (Int.ne_of_gt h0)
  unfold wrapT wrapN
  omega

/-- An element's bits are those of its value. -/
theorem wrapT_valT {t n : Nat} (h : n < 2 ^ tyWidth t) : wrapT t (valT t n) = n := by
  unfold wrapT wrapN
  rw [valT_emod, Int.emod_eq_of_lt (Int.natCast_nonneg n) (by exact_mod_cast h), Int.toNat_natCast]

theorem wrapT_emod (t : Nat) (x : Int) : ((wrapT t x : Nat) : Int) % ((2 ^ tyWidth t : Nat) : Int) = x %
    ((2 ^ tyWidth t : Nat) : Int) := by
  have h0 : ((2 ^ tyWidth t : Nat) : Int) ≠ 0 := by exact_mod_cast (Nat.ne_of_gt (Nat.two_pow_pos _))
  unfold wrapT wrapN
  rw [Int.toNat_of_nonneg (Int.emod_nonneg x h0), Int.emod_emod_of_dvd _ (Int.dvd_refl _)]

theorem wrapT_valT_wrapT_add (t : Nat) (x y : Int) : wrapT t (valT t (wrapT t x) + y) = wrapT t (x + y) := by
  refine wrapT_congr ?_
  rw [Int.add_emod, valT_emod, wrapT_emod, ← Int.add_emod]

/-! ## Folds -/

theorem foldl_add_acc (t : Nat) (c : Int) (xs : List Nat) :
    xs.foldl (fun a y => a + valT t y) c = c + xs.foldl (fun a y => a + valT t y) 0 := by
  induction xs generalizing c with
  | nil => exact (Int.add_zero c).symm
  | cons x xs ih => rw [List.foldl_cons, List.foldl_cons, ih, ih (0 + valT t x), Int.zero_add, Int.add_assoc]

/-- Wrapping at each addition or once. -/
theorem foldl_wrap_add (t x : Nat) (xs : List Nat) (hx : x < 2 ^ tyWidth t) :
    xs.foldl (fun a b => wrapT t (valT t a + valT t b)) x = wrapT t ((x :: xs).foldl (fun a y => a + valT t y) 0) := by
  induction xs generalizing x with
  | nil => rw [List.foldl_nil, List.foldl_cons, List.foldl_nil, Int.zero_add, wrapT_valT hx]
  | cons y ys ih =>
    rw [List.foldl_cons, ih _ (wrapT_lt ..), List.foldl_cons, List.foldl_cons, List.foldl_cons, Int.zero_add, Int.zero_add,
      foldl_add_acc t (valT t (wrapT t _)), wrapT_valT_wrapT_add, ← foldl_add_acc]

/-- Choosing an element at each step keeps its value the chosen value. -/
theorem foldl_pick {t : Nat} {f : Int → Int → Int} {g : Nat → Nat → Nat} (hg : ∀ a b, valT t (g a b) = f (valT t a) (valT t b))
    (hlt : ∀ a b, a < 2 ^ tyWidth t → b < 2 ^ tyWidth t → g a b < 2 ^ tyWidth t) (xs : List Nat) {x : Nat}
    (hx : x < 2 ^ tyWidth t) (hxs : ∀ y ∈ xs, y < 2 ^ tyWidth t) :
    xs.foldl g x = wrapT t (xs.foldl (fun a y => f a (valT t y)) (valT t x)) := by
  induction xs generalizing x with
  | nil => exact (wrapT_valT hx).symm
  | cons y ys ih =>
    rw [List.foldl_cons, List.foldl_cons, ← hg]
    exact ih (hlt _ _ hx (hxs y List.mem_cons_self)) fun z hz => hxs z (List.mem_cons_of_mem _ hz)

/-- The operation of the model for each reduction. -/
def opOf : Red → RedOp
  | .add => redAdd | .min => redMin | .max => redMax
  | .and => redBits (· &&& ·) | .or => redBits (· ||| ·) | .xor => redBits (· ^^^ ·)

/-- The fold over integers is the reduction's value. -/
theorem fold_eq (r : Red) (t x : Nat) (xs : List Nat) (hx : x < 2 ^ tyWidth t) (hxs : ∀ y ∈ xs, y < 2 ^ tyWidth t) :
    xs.foldl ((opOf r).int t) x = r.of t (x :: xs) := by
  cases r with
  | add => exact foldl_wrap_add t x xs hx
  | min =>
    refine foldl_pick (f := fun a b => Min.min a b) (fun a b => ?_) (fun a b ha hb => ?_) xs hx hxs <;>
      simp only [opOf, redMin] <;> split
    · rw [Int.min_eq_right (by omega)]
    · rw [Int.min_eq_left (by omega)]
    · exact hb
    · exact ha
  | max =>
    refine foldl_pick (f := fun a b => Max.max a b) (fun a b => ?_) (fun a b ha hb => ?_) xs hx hxs <;>
      simp only [opOf, redMax] <;> split
    · rw [Int.max_eq_right (by omega)]
    · rw [Int.max_eq_left (by omega)]
    · exact hb
    · exact ha
  | and => rfl
  | or => rfl
  | xor => rfl

/-! ## The tile's elements -/

/-- The bits of an element of an integer type (R159). -/
theorem redRegs_bits {o : OpO} (h : redType o < 4) : 32 * redRegs o = if 2 ≤ redType o then 64 else 32 := by
  unfold redRegs
  generalize redType o = t at h
  revert t
  decide

theorem redRegs_cases (o : OpO) : redRegs o = 1 ∨ redRegs o = 2 := by
  unfold redRegs
  split
  · exact .inr rfl
  · exact .inl rfl

/-- What the lanes `on` of the tile give: the integer fold, or the tree. -/
theorem combine_eq (r : Red) (o : OpO) (w : Warp) (l : Nat) (on : Nat → Bool) (hf : 4 ≤ redType o → (opOf r).flt = r.flt.flt) :
    combine o (opOf r) w (w.tileOf l) (fun j => (w.holds o.pr).getLsbD j && on j) = r.res o w l on := by
  have hjs : (w.tileOf l).filter (fun j => (w.holds o.pr).getLsbD j && on j) = (w.inTile o.pr l).filter on := by
    rw [← peers_eq, Warp.peers, List.filter_filter]
    exact List.filter_congr fun j _ => Bool.and_comm ..
  unfold Red.res
  by_cases ht : redType o < 4
  · have hr (j : Nat) : w.read (32 * redRegs o) o.a j = laneA o (decide (2 ≤ redType o)) w j := by
      rw [redRegs_bits ht]
      by_cases h2 : 2 ≤ redType o <;> simp [h2, laneA]
    have hlt (j : Nat) : (laneA o (decide (2 ≤ redType o)) w j).n < 2 ^ tyWidth (redType o) := by
      have := read_tyWidth_lt w (redType o) o.a j
      by_cases h2 : 2 ≤ redType o <;> simpa [h2, laneA, tyWidth] using this
    have ht' : bits o.m.toNat 5 3 < 4 := ht
    rw [if_pos ht']
    unfold combine
    simp only [if_pos ht, hjs, hr]
    generalize (w.inTile o.pr l).filter on = js
    cases js with
    | nil => rfl
    | cons j js =>
      simp only [List.map_cons]
      rw [fold_eq r _ _ _ (hlt j) fun y hy => by
        obtain ⟨k, -, rfl⟩ := List.mem_map.1 hy
        exact hlt k]
      rfl
  · have ht' : ¬ bits o.m.toNat 5 3 < 4 := ht
    rw [if_neg ht']
    unfold combine
    simp only [if_neg ht, hf (Nat.not_lt.1 ht)]

/-! ## The instructions -/

theorem res_as (r : Red) (o : OpO) (w : Warp) (clk : Nat) (q : Origin) (a : Word) (u : Bool) (l : Nat) (on : Nat → Bool) :
    r.res o (w.as clk q a u) l on = r.res o w l on := rfl

section
variable {i : Instr} {s : State} {o : OpO} {r : Red}

/-- `.f32` and `.f64` are types of sums and of the least and the greatest alone (R159). -/
theorem flt_of_fields {m : Bool} (h : Runs i s) (hk : fieldsOk i = (cls4 1 1 0 0 o && modLe 5 3 3 o.m && m)) (p : Prop) :
    4 ≤ redType o → p := by
  have hf := fieldsOk_of_runs h
  simp only [hk, Bool.and_eq_true, modLe, decide_eq_true_eq] at hf
  obtain ⟨⟨-, hle⟩, -⟩ := hf
  intro h4
  have h4' : 4 ≤ bits o.m.toNat 5 3 := h4
  omega

theorem redux_computes (h : Runs i s) (hf : FreeFor i s o.pr o.d (redRegs o)) (he : exec i s = redux i o (opOf r) s)
    (hflt : 4 ≤ redType o → (opOf r).flt = r.flt.flt) : (reduceRow.redux r o).holds i s := by
  refine alu_computes (redRegs_cases o) h hf he fun clk q a u => funext fun l => ?_
  have hc := combine_eq r o (s.w.as clk q a u) l (fun _ => true) hflt
  simp only [Bool.and_true] at hc
  exact hc.trans (res_as ..)

theorem scan_computes (h : Runs i s) (hf : FreeFor i s o.pr o.d (redRegs o)) (he : exec i s = scan i o (opOf r) s)
    (hflt : 4 ≤ redType o → (opOf r).flt = r.flt.flt) : (reduceRow.scan r o).holds i s := by
  refine alu_computes (redRegs_cases o) h hf he fun clk q a u => funext fun l => ?_
  exact (combine_eq r o (s.w.as clk q a u) l (fun j => decide (j ≤ l)) hflt).trans (res_as ..)

end

/-- Settles O18. -/
theorem reductions : Obligations.Reductions := by
  intro i s x hx h hf
  unfold reduceRow at hx
  split at hx
  case h_13 => cases hx
  all_goals obtain rfl := Option.some.inj hx
  case h_1 o => exact redux_computes (r := .add) h hf (exec_reduxAdd o s) fun _ => rfl
  case h_2 o => exact redux_computes (r := .min) h hf (exec_reduxMin o s) fun _ => rfl
  case h_3 o => exact redux_computes (r := .max) h hf (exec_reduxMax o s) fun _ => rfl
  case h_4 o => exact redux_computes (r := .and) h hf (exec_reduxAnd o s) (flt_of_fields h rfl _)
  case h_5 o => exact redux_computes (r := .or) h hf (exec_reduxOr o s) (flt_of_fields h rfl _)
  case h_6 o => exact redux_computes (r := .xor) h hf (exec_reduxXor o s) (flt_of_fields h rfl _)
  case h_7 o => exact scan_computes (r := .add) h hf (exec_scanAdd o s) fun _ => rfl
  case h_8 o => exact scan_computes (r := .min) h hf (exec_scanMin o s) fun _ => rfl
  case h_9 o => exact scan_computes (r := .max) h hf (exec_scanMax o s) fun _ => rfl
  case h_10 o => exact scan_computes (r := .and) h hf (exec_scanAnd o s) (flt_of_fields h rfl _)
  case h_11 o => exact scan_computes (r := .or) h hf (exec_scanOr o s) (flt_of_fields h rfl _)
  case h_12 o => exact scan_computes (r := .xor) h hf (exec_scanXor o s) (flt_of_fields h rfl _)

end Sys2Proof.Proofs.Reductions
end

section
/-! The management interface (R190, R193, R326, R330, R431 to R437): what its writes reach and its reads answer (O44). -/
namespace Sys2Proof.Proofs.Management
open Sys2Proof Sys2Proof.Machine Sys2Proof.Proofs.Arms Sys2Proof.Proofs.Integers

/-! ## Words by their bits -/

/-- The low `k` bits of a register. -/
theorem ofNat_mod_two_pow (x : Word) (k : Nat) : BitVec.ofNat 64 (x.toNat % 2 ^ k) = x &&& BitVec.ofNat 64 (2 ^ k - 1) := by
  refine BitVec.eq_of_getLsbD_eq fun i hi => ?_
  rw [BitVec.getLsbD_and, BitVec.getLsbD_ofNat, BitVec.getLsbD_ofNat, Nat.testBit_mod_two_pow, Nat.testBit_two_pow_sub_one,
    BitVec.testBit_toNat]
  simp only [hi, decide_true, Bool.true_and]
  exact Bool.and_comm ..

theorem getLsbD_wordOf (f : Nat → Bool) {i : Nat} (hi : i < 64) : (wordOf f).getLsbD i = f i := by
  have h : ∀ xs : List Nat, (xs.foldr (fun j (w : Word) => if f j then w ||| BitVec.twoPow 64 j else w) 0).getLsbD i =
      (xs.contains i && f i) := fun xs => by
    induction xs with
    | nil => simp
    | cons j xs ih =>
      have hstep (w : Word) : (if f j then w ||| BitVec.twoPow 64 j else w).getLsbD i = (w.getLsbD i || (f j && decide
          (j = i))) := by
        cases f j with
        | true =>
          have hj : (decide (j < 64) && decide (j = i)) = decide (j = i) := by
            rw [← Bool.decide_and]; exact decide_eq_decide.2 (by omega)
          rw [if_pos rfl, BitVec.getLsbD_or, BitVec.getLsbD_twoPow, hj, Bool.true_and]
        | false => simp only [Bool.false_eq_true, if_false, Bool.false_and, Bool.or_false]
      rw [List.foldr_cons, hstep, ih, List.contains_cons]
      by_cases hj : j = i
      · subst hj; cases f j <;> simp
      · have hj' : ¬ i = j := fun e => hj e.symm
        simp [hj, beq_eq_false_iff_ne.2 hj']
  rw [wordOf, h]
  simp [hi]

theorem extract_toNat (x : Word) (n : Nat) : (x.extractLsb' 0 n).toNat = x.toNat % 2 ^ n := by
  rw [BitVec.extractLsb'_toNat, Nat.shiftRight_zero]

theorem bit_getLsbD (x : Word) (i : Nat) : bit x.toNat i = x.getLsbD i := by
  rw [bit_eq_testBit, BitVec.testBit_toNat]

/-- The three fields of the patrol's register. -/
theorem scrubWord_eq (x : Word) :
    BitVec.ofNat 64 (Bool.n (x.getLsbD 63) * 2 ^ 63 + Bool.n
        (x.getLsbD 61) * 2 ^ 61 + x.toNat % 2 ^ 32) = x &&& 0xA0000000FFFFFFFF := by
  have hmask : ∀ i, i < 64 → (0xA0000000FFFFFFFF : Word).getLsbD i = (decide (i < 32) || decide (i = 61) || decide
      (i = 63)) := by decide
  have hlt : x.toNat % 2 ^ 32 < 2 ^ 61 := by omega
  rw [show Bool.n (x.getLsbD 63) * 2 ^ 63 + Bool.n (x.getLsbD 61) * 2 ^ 61 = 2 ^ 61 * (4 * Bool.n
      (x.getLsbD 63) + Bool.n (x.getLsbD 61))
    by omega]
  refine BitVec.eq_of_getLsbD_eq fun i hi => ?_
  rw [BitVec.getLsbD_ofNat, BitVec.getLsbD_and, hmask i hi, Nat.testBit_two_pow_mul_add _ hlt, Nat.testBit_mod_two_pow,
    BitVec.testBit_toNat, decide_eq_true hi, Bool.true_and]
  by_cases h61 : i < 61
  · simp [h61, show ¬ i = 61 by omega, show ¬ i = 63 by omega, Bool.and_comm]
  · obtain rfl | rfl | rfl : i = 61 ∨ i = 62 ∨ i = 63 := by omega
    · cases x.getLsbD 61 <;> cases x.getLsbD 63 <;> rfl
    · cases x.getLsbD 61 <;> cases x.getLsbD 63 <;> cases x.getLsbD 62 <;> rfl
    · cases x.getLsbD 61 <;> cases x.getLsbD 63 <;> rfl

/-! ## Contexts (R435) -/

variable (s : State)

theorem ctxCreate_new {w0 : Word} (hv : bit w0.toNat 63 = true) (hn : (s.ctx s.mgmt.ctxsel).v = false) :
    exec (.ctxCreate w0) s = .next (s.putCtx s.mgmt.ctxsel
      { v := true, priv := w0.getLsbD 62, conf := w0.getLsbD 61, host := (w0.extractLsb' 0 18).toNat }) := by
  rw [exec_ctxCreate, execCtxCreate, if_pos hv, State.createCtx, hn, if_neg Bool.false_ne_true, bit_getLsbD, bit_getLsbD,
    extract_toNat]
  rfl

theorem ctxCreate_present {w0 : Word} (hv : bit w0.toNat 63 = true) (hp : (s.ctx s.mgmt.ctxsel).v = true) :
    exec (.ctxCreate w0) s = .next s := by
  rw [exec_ctxCreate, execCtxCreate, if_pos hv, State.createCtx, if_pos hp]

theorem ctxUsed_iff (id : Nat) : s.ctxUsed id = true ↔
    (∃ e ∈ s.launches, e.2.ctx = id) ∨ ∃ e ∈ s.lyre.t.gang, e.2.ctx = id ∧ e.2.state ≠ .free := by
  simp [State.ctxUsed]

theorem exec_ctxDestroy_eq {w0 : Word} (hv : bit w0.toNat 63 = false) (hp : (s.ctx s.mgmt.ctxsel).v = true) :
    exec (.ctxDestroy w0) s =
      .next (if s.ctxUsed s.mgmt.ctxsel then { s with errCnt := s.errCnt + 1 } else s.putCtx s.mgmt.ctxsel {}) := by
  rw [exec_ctxDestroy, execCtxDestroy, hv, if_neg Bool.false_ne_true, State.destroyCtx, hp]
  rfl

theorem ctxDestroy_unused {w0 : Word} (hv : bit w0.toNat 63 = false) (hp : (s.ctx s.mgmt.ctxsel).v = true)
    (hl : ∀ e ∈ s.launches, e.2.ctx ≠ s.mgmt.ctxsel)
    (hg : ∀ e ∈ s.lyre.t.gang, e.2.ctx = s.mgmt.ctxsel → e.2.state = .free) :
    exec (.ctxDestroy w0) s = .next (s.putCtx s.mgmt.ctxsel {}) := by
  rw [exec_ctxDestroy_eq s hv hp, if_neg]
  rw [ctxUsed_iff]
  rintro (⟨e, he, hc⟩ | ⟨e, he, hc, hf⟩)
  · exact hl e he hc
  · exact hf (hg e he hc)

theorem ctxDestroy_used {w0 : Word} (hv : bit w0.toNat 63 = false) (hp : (s.ctx s.mgmt.ctxsel).v = true)
    (hu : (∃ e ∈ s.launches, e.2.ctx = s.mgmt.ctxsel) ∨ ∃ e ∈ s.lyre.t.gang, e.2.ctx = s.mgmt.ctxsel ∧ e.2.state ≠ .free) :
    exec (.ctxDestroy w0) s = .next { s with errCnt := s.errCnt + 1 } := by
  rw [exec_ctxDestroy_eq s hv hp, if_pos ((ctxUsed_iff s _).2 hu)]

theorem keyInstall_sets {c : Nat} (hr : s.isReady .secp = true) (hv : (s.ctx c).v = true) :
    exec (.keyInstall c) s = .next (s.putCtx c { s.ctx c with keyv := true }) := by
  rw [exec_keyInstall, execKeyInstall, hr, hv]
  rfl

/-! ## Registers -/

theorem write_linkTable {x : Word} {k : Nat} (hk : k < Config.links) : exec (.registerWrite (.linkTable k) x) s =
    .next { s with links := put {} s.links k { s.link k with table := x &&& ~~~0xFFFFFE0000 } } := by
  rw [exec_registerWrite, execRegisterWrite, State.writeReg]
  simp only [if_pos hk]
  rfl

theorem write_scrubCtl {x : Word} {k : Nat} (hk : k < Config.links) (hm : bits x.toNat 62 61 < 2) :
    s.writeReg (.scrubCtl k) x = { s with links := put {} s.links k { s.link k with
      scrubEn := x.getLsbD 63, scrubMode := bits x.toNat 62 61, gap := max 64 (bits x.toNat 31 0) } } := by
  simp only [State.writeReg, if_neg (show ¬(Config.links ≤ k ∨ 2 ≤ bits x.toNat 62 61) by omega), bit_getLsbD]

theorem write_tlog {x : Word} {c : Nat} (hc : c < Config.cores) (hl : 10 ≤ x.toNat) (hh : x.toNat ≤ 24) :
    exec (.registerWrite (.tlog c) x) s = .next (s.putCore c { s.core c with tlog := x.toNat }) := by
  rw [exec_registerWrite, execRegisterWrite, State.writeReg]
  simp only [if_pos (show c < Config.cores ∧ 10 ≤ x.toNat ∧ x.toNat ≤ 24 from ⟨hc, hl, hh⟩)]

theorem write_rbase {x : Word} {r : Nat} (hr : r < 16) (hv : (s.ctx s.mgmt.ctxsel).v = true) :
    exec (.registerWrite (.ctxw (4 * r + 1)) x) s = .next (s.putCtx s.mgmt.ctxsel
      { s.ctx s.mgmt.ctxsel with rbase := put 0 (s.ctx s.mgmt.ctxsel).rbase r (x &&& ~~~0xFFF) }) := by
  rw [exec_registerWrite, execRegisterWrite, State.writeReg]
  simp only [State.writeCtx, if_neg (show ¬ 4 * r + 1 = 0 by omega), if_pos hv, Ctx.writeWord,
    if_pos (show 1 ≤ 4 * r + 1 ∧ 4 * r + 1 ≤ 64 by omega), show (4 * r + 1 - 1) / 4 = r by omega,
    show 33 + (4 * r + 1 - 1) % 4 = 33 by omega, Ctx.write, pageBits]

/-- The patrol's register reads what was written to its three fields. -/
theorem view_scrubCtl {x : Word} {k : Nat} (hk : k < Config.links) (h62 : x.getLsbD 62 = false)
    (hg : 64 ≤ (x.extractLsb' 0 32).toNat) :
    (s.writeReg (.scrubCtl k) x).view (.reg (.scrubCtl k)) = x &&& 0xA0000000FFFFFFFF := by
  have hmode : bits x.toNat 62 61 = Bool.n (x.getLsbD 61) := by
    rw [← bit_getLsbD] at h62 ⊢
    simp only [bit, bits, Nat.shiftRight_eq_div_pow, beq_eq_false_iff_ne] at h62 ⊢
    by_cases h : x.toNat / 2 ^ 61 % 2 = 1
    · rw [h]
      simp only [Bool.n, beq_self_eq_true, if_true]
      omega
    · simp only [Bool.n, beq_eq_false_iff_ne.2 h, Bool.false_eq_true, if_false]
      omega
  have hlow : max 64 (bits x.toNat 31 0) = x.toNat % 2 ^ 32 := by
    rw [extract_toNat] at hg
    exact Nat.max_eq_right hg
  have hn2 (b : Bool) : Bool.n b < 2 := by cases b <;> decide
  rw [write_scrubCtl s hk (by rw [hmode]; exact hn2 _)]
  refine (congrArg (fun l : Link => BitVec.ofNat 64 (Bool.n l.scrubEn * 2 ^ 63 + l.scrubMode % 4 * 2 ^ 61 + l.gap % 2 ^ 32))
    (look_put_same ..)).trans ?_
  dsimp only
  rw [hmode, hlow, Nat.mod_mod, Nat.mod_eq_of_lt (Nat.lt_of_lt_of_le (hn2 _) (by decide : 2 ≤ 4))]
  exact scrubWord_eq x


theorem view_confidential {i : Nat} (hc : (s.ctx s.mgmt.ctxsel).conf = true) (h1 : 1 ≤ i) : s.view (.reg (.ctxw i)) = 0 := by
  simp only [State.view, State.readReg, Ctx.readWord, if_neg (show ¬ i = 0 by omega), if_pos hc]

theorem view_fready {k : Nat} (hk : k < 24) : (s.view .fready).getLsbD (24 + k) = s.isReady (.link k) := by
  simp only [State.view, getLsbD_wordOf _ (show 24 + k < 64 by omega), State.freadyBit, if_neg (show ¬ 48 ≤ 24 + k by omega),
    if_pos (show 24 ≤ 24 + k by omega), Nat.add_sub_cancel_left]

theorem view_cready {c : Nat} (hc : c < 40) : (s.view .cready).getLsbD c = s.isReady (.clus c) := by
  simp only [State.view, getLsbD_wordOf _ (show c < 64 by omega), decide_eq_true (show c < Config.clusters from hc), Bool.true_and]

/-- Settles O44. -/
theorem contextsAndRegisters : Obligations.ContextsAndRegisters := by
  refine ⟨fun s _ => ctxCreate_new s, fun s _ => ctxCreate_present s, fun s _ => ctxDestroy_unused s,
      fun s _ => ctxDestroy_used s,
    fun s _ => keyInstall_sets s, fun s x k hk hm => ⟨write_linkTable s hk, ?_⟩, fun s x => ⟨?_, rfl, ?_⟩,
    fun s _ _ => write_tlog s, fun s _ _ => write_rbase s,
    fun s x => ⟨rfl, rfl, ?_, ?_, ?_, rfl, rfl, rfl, ?_⟩, fun s _ _ => view_scrubCtl s,
        fun s _ hc h1 _ => view_confidential s hc h1,
    fun s _ => view_fready s, fun s _ => view_cready s⟩
  · rw [exec_registerWrite, execRegisterWrite, write_scrubCtl s hk hm]
  · rw [exec_registerWrite, execRegisterWrite, State.writeReg]
    simp only [bit_getLsbD]
  · rw [exec_registerWrite, execRegisterWrite, State.writeReg, extract_toNat]
    rfl
  · exact ofNat_mod_two_pow x 20
  · exact ofNat_mod_two_pow x 32
  · exact ofNat_mod_two_pow x 16
  · exact ofNat_mod_two_pow x 16

end Sys2Proof.Proofs.Management
end

section
/-! What the flows, ports and keys of the fabric leave as it is. -/
namespace Sys2Proof.Proofs.Fabric
open Sys2Proof Sys2Proof.Machine

/-- A state that differs from another in its flows and its port links alone. -/
def FlowSide (s t : State) : Prop := t = { s with flows := t.flows, keys := t.keys }

/-- A state that differs from another in its flows, its port links and the ports of its planes alone. -/
def FabricSide (s t : State) : Prop := t = { s with flows := t.flows, keys := t.keys, prt := t.prt }

namespace FlowSide
variable {s t u : State}

theorem refl (s : State) : FlowSide s s := rfl

theorem trans (h : FlowSide s t) (h' : FlowSide t u) : FlowSide s u := by
  unfold FlowSide at *
  rw [h', h]

theorem foldl {α : Type} {f : State → α → State} (hf : ∀ t a, FlowSide t (f t a)) (l : List α) (s : State) :
    FlowSide s (l.foldl f s) := by
  induction l generalizing s with
  | nil => exact refl s
  | cons a l ih => exact (hf s a).trans (ih _)

theorem fabricSide (h : FlowSide s t) : FabricSide s t := by
  unfold FabricSide
  rw [h]

theorem prt (h : FlowSide s t) : t.prt = s.prt := by rw [h]

end FlowSide

namespace FabricSide
variable {s t u : State}

theorem refl (s : State) : FabricSide s s := rfl

theorem trans (h : FabricSide s t) (h' : FabricSide t u) : FabricSide s u := by
  unfold FabricSide at *
  rw [h', h]

theorem foldl {α : Type} {f : State → α → State} (hf : ∀ t a, FabricSide t (f t a)) (l : List α) (s : State) :
    FabricSide s (l.foldl f s) := by
  induction l generalizing s with
  | nil => exact refl s
  | cons a l ih => exact (hf s a).trans (ih _)

theorem mgmt (h : FabricSide s t) : t.mgmt = s.mgmt := by rw [h]
theorem plive (h : FabricSide s t) : t.plive = s.plive := by rw [h]
theorem mem (h : FabricSide s t) : t.mem = s.mem := by rw [h]
theorem warps (h : FabricSide s t) : t.warps = s.warps := by rw [h]
theorem cmds (h : FabricSide s t) : t.cmds = s.cmds := by rw [h]
theorem ops (h : FabricSide s t) : t.ops = s.ops := by rw [h]
theorem ctxs (h : FabricSide s t) : t.ctxs = s.ctxs := by rw [h]

end FabricSide

variable {s : State}

theorem putFlow_flowSide (s : State) (f : Nat) (x : Flow) : FlowSide s (s.putFlow f x) := rfl

theorem sendGroup_flowSide (s : State) (q f n : Nat) : FlowSide s (s.sendGroup q f n) := by
  unfold State.sendGroup
  split
  · rfl
  · rfl

theorem transmit_flowSide (s : State) (f n : Nat) : FlowSide s (s.transmit f n) := sendGroup_flowSide s _ f n

theorem sendHeld_flowSide (f : Nat) (q held : List (Nat × Nat)) (s : State) : FlowSide s (s.sendHeld f q held) := by
  induction q generalizing s held with
  | nil => exact putFlow_flowSide s f _
  | cons e q ih =>
    unfold State.sendHeld
    dsimp only
    split
    · exact ((transmit_flowSide s f _).trans (putFlow_flowSide _ f _)).trans (ih _ _)
    · exact ih _ _

theorem pump_flowSide (s : State) (f : Nat) : FlowSide s (s.pump f) := sendHeld_flowSide f _ _ s

theorem pumpPlane_flowSide (s : State) (p : Nat) : FlowSide s (s.pumpPlane p) := FlowSide.foldl pump_flowSide _ s

/-- The unacknowledged packets of one flow sent again on a new port. -/
def resendFlow (s : State) (f : Nat) : State :=
  ((s.flow f).unack.foldl (fun (u : State) e => u.transmit f e.1) s).putFlow f
    { s.flow f with unack := (s.flow f).unack.map fun e => (e.1, 1, e.2.2) }

theorem resendPlane_eq (s : State) (p : Nat) : s.resendPlane p =
    (((s.flows.filter fun e => decide (e.1 % 16 = p)).map (·.1)).foldl resendFlow s).pumpPlane p := rfl

theorem resendFlow_flowSide (s : State) (f : Nat) : FlowSide s (resendFlow s f) :=
  (FlowSide.foldl (fun u (e : Nat × Nat × Nat) => transmit_flowSide u f e.1) _ s).trans (putFlow_flowSide _ f _)

theorem resendPlane_flowSide (s : State) (p : Nat) : FlowSide s (s.resendPlane p) := by
  rw [resendPlane_eq]
  exact (FlowSide.foldl resendFlow_flowSide _ s).trans (pumpPlane_flowSide _ p)

/-- The port field of one plane replaced. -/
def planePort (prt : Word) (p q : Nat) : Word := (prt &&& ~~~((15 : Word) <<< (4 * p))) ||| (BitVec.ofNat 64 q <<< (4 * p))

theorem movePlane_eq (s : State) (p q : Nat) : s.movePlane p q = ({ s with prt := planePort s.prt p q }).resendPlane p := rfl

theorem movePlane_fabricSide (s : State) (p q : Nat) : FabricSide s (s.movePlane p q) := by
  rw [movePlane_eq]
  exact (show FabricSide s { s with prt := planePort s.prt p q } from rfl).trans (resendPlane_flowSide _ p).fabricSide

theorem movePlane_prt (s : State) (p q : Nat) : (s.movePlane p q).prt = planePort s.prt p q := by
  rw [movePlane_eq, (resendPlane_flowSide _ p).prt]

/-- One plane looked at: moved where its port is not live. -/
def rescuePlane (s : State) (p : Nat) : State :=
  if s.portLive (s.portOf p) then s else match s.portAfter (s.portOf p) with | some q => s.movePlane p q | none => s

theorem movePlanes_eq (s : State) : s.movePlanes = (List.range 16).foldl rescuePlane s := rfl

theorem rescuePlane_fabricSide (s : State) (p : Nat) : FabricSide s (rescuePlane s p) := by
  unfold rescuePlane
  split
  · rfl
  · split
    · exact movePlane_fabricSide s p _
    · rfl

theorem movePlanes_fabricSide (s : State) : FabricSide s s.movePlanes := FabricSide.foldl rescuePlane_fabricSide _ s

/-! ## The ports of the planes -/

theorem portOf_testBit (s : State) (p i : Nat) : (s.portOf p).testBit i = (decide (i < 4) && s.prt.getLsbD (4 * p + i)) := by
  rw [State.portOf, bits, Nat.testBit_mod_two_pow, Nat.testBit_shiftRight, BitVec.getLsbD]
  congr 1
  exact decide_eq_decide.2 (by omega)

theorem portOf_lt (s : State) (p : Nat) : s.portOf p < 16 := by
  rw [State.portOf, bits, show 4 * p + 3 + 1 - 4 * p = 4 by omega]
  exact Nat.mod_lt _ (by decide)

theorem testBit_lt_sixteen {q i : Nat} (hq : q < 16) (hi : 4 ≤ i) : q.testBit i = false :=
  Nat.testBit_lt_two_pow (Nat.lt_of_lt_of_le hq (Nat.pow_le_pow_right (by decide : 2 > 0) hi))

theorem portOf_congr {s t : State} (h : t.prt = s.prt) (p : Nat) : t.portOf p = s.portOf p := by
  rw [State.portOf, State.portOf, h]

theorem portLive_congr {s t : State} (h : t.plive = s.plive) : t.portLive = s.portLive := by
  funext q
  rw [State.portLive, State.portLive, h]

theorem planePort_getLsbD (prt : Word) (p q i : Nat) (hi : i < 64) : (planePort prt p q).getLsbD i =
    if i < 4 * p then prt.getLsbD i
    else if i < 4 * p + 4 then prt.getLsbD i && !true || q.testBit (i - 4 * p) else prt.getLsbD i || q.testBit (i - 4 * p) := by
  have h15 : ∀ j, ((15 : Word)).getLsbD j = decide (j < 4) := by
    intro j
    rw [BitVec.getLsbD, show (15 : Word).toNat = 2 ^ 4 - 1 from rfl, Nat.testBit_two_pow_sub_one]
  rw [planePort, BitVec.getLsbD_or, BitVec.getLsbD_and, BitVec.getLsbD_not, BitVec.getLsbD_shiftLeft,
      BitVec.getLsbD_shiftLeft, h15,
    BitVec.getLsbD_ofNat]
  by_cases h1 : i < 4 * p
  · simp [h1, hi]
  · by_cases h2 : i < 4 * p + 4
    · simp [h1, h2, hi, show i - 4 * p < 4 by omega, show i - 4 * p < 64 by omega]
    · simp [h1, h2, hi, show ¬ i - 4 * p < 4 by omega, show i - 4 * p < 64 by omega]

/-- A plane that is moved stands on its new port. -/
theorem portOf_movePlane_same (s : State) {p q : Nat} (hp : p < 16) (hq : q < 16) : (s.movePlane p q).portOf p = q := by
  refine Nat.eq_of_testBit_eq fun i => ?_
  rw [portOf_testBit, movePlane_prt]
  by_cases hi : i < 4
  · rw [planePort_getLsbD _ _ _ _ (by omega), if_neg (by omega), if_pos (by omega), show 4 * p + i - 4 * p = i by omega]
    simp [hi]
  · rw [testBit_lt_sixteen hq (by omega)]
    simp [hi]

/-- The other planes stay on their ports. -/
theorem portOf_movePlane_other (s : State) {p q r : Nat} (hr : r < 16) (hq : q < 16) (hn : r ≠ p) :
    (s.movePlane p q).portOf r = s.portOf r := by
  refine Nat.eq_of_testBit_eq fun i => ?_
  rw [portOf_testBit, portOf_testBit, movePlane_prt]
  by_cases hi : i < 4
  · rw [planePort_getLsbD _ _ _ _ (by omega)]
    by_cases h1 : 4 * r + i < 4 * p
    · rw [if_pos h1]
    · rw [if_neg h1, if_neg (by omega), testBit_lt_sixteen hq (by omega), Bool.or_false]
  · simp [hi]

theorem portAfter_lt {q r : Nat} (h : s.portAfter q = some r) : r < 16 := by
  have := List.mem_of_find?_eq_some h
  obtain ⟨i, -, rfl⟩ := List.mem_map.1 this
  exact Nat.mod_lt _ (by decide)

theorem rescuePlane_other (s : State) {p r : Nat} (hr : r < 16) (hn : r ≠ p) : (rescuePlane s p).portOf r = s.portOf r := by
  unfold rescuePlane
  split
  · rfl
  · split
    · next q hq => exact portOf_movePlane_other s hr (portAfter_lt hq) hn
    · rfl

theorem rescuePlanes_other (s : State) {r : Nat} (hr : r < 16) (l : List Nat) (hn : r ∉ l) :
    (l.foldl rescuePlane s).portOf r = s.portOf r := by
  induction l generalizing s with
  | nil => rfl
  | cons p l ih =>
    rw [List.mem_cons, not_or] at hn
    exact (ih _ hn.2).trans (rescuePlane_other s hr hn.1)

/-- The moving of the planes, for one of them: it is looked at once, in the ports that are live. -/
theorem movePlanes_portOf (s : State) {p : Nat} (hp : p < 16) : ∃ t : State, t.portOf p = s.portOf p ∧ t.plive = s.plive ∧
    s.movePlanes.portOf p = (rescuePlane t p).portOf p := by
  have hsplit : List.range 16 = List.range p ++ p :: (List.range (15 - p)).map (p + 1 + ·) := by
    revert p
    decide
  refine ⟨(List.range p).foldl rescuePlane s, rescuePlanes_other s hp _ (by simp), ?_, ?_⟩
  · exact (FabricSide.foldl rescuePlane_fabricSide _ s).plive
  · rw [movePlanes_eq, hsplit, List.foldl_append, List.foldl_cons]
    refine rescuePlanes_other _ hp _ ?_
    simp only [List.mem_map, not_exists, not_and]
    omega

theorem movePlanes_live (s : State) {p : Nat} (hp : p < 16) (h : s.portLive (s.portOf p) = true) :
    s.movePlanes.portOf p = s.portOf p := by
  obtain ⟨t, hport, hlive, he⟩ := movePlanes_portOf s hp
  rw [he, rescuePlane, portLive_congr hlive, hport, if_pos h, hport]

theorem portAfter_congr {s t : State} (h : t.plive = s.plive) (q : Nat) : t.portAfter q = s.portAfter q := by
  rw [State.portAfter, State.portAfter, portLive_congr h]

theorem movePlanes_dead (s : State) {p r : Nat} (hp : p < 16) (h : s.portLive (s.portOf p) = false)
    (ha : s.portAfter (s.portOf p) = some r) : s.movePlanes.portOf p = r := by
  obtain ⟨t, hport, hlive, he⟩ := movePlanes_portOf s hp
  have ha' : t.portAfter (s.portOf p) = some r := (portAfter_congr hlive _).trans ha
  rw [he, rescuePlane, portLive_congr hlive, hport, h, ha']
  exact portOf_movePlane_same t hp (portAfter_lt ha')

end Sys2Proof.Proofs.Fabric
end

section
/-! Starts, resets and the power limit (R433, R436, R437): O45. -/
namespace Sys2Proof.Proofs.Starts
open Sys2Proof Sys2Proof.Machine Sys2Proof.Proofs.Arms Sys2Proof.Proofs.Fabric

variable {s : State}

/-- A start that fails: the module is in reset, the failure is counted and its reason latched. -/
theorem startFails_is (s : State) (r : BitVec 8) :
    (s.startFails r).mgmt.inReset = true ∧ (s.startFails r).mgmt.breason = r ∧ (s.startFails r).mgmt.starts = s.mgmt.starts + 1 ∧
      (s.startFails r).mgmt.ready = [] ∧ (s.startFails r).warps = [] ∧ (s.startFails r).mem = s.mem :=
  ⟨rfl, rfl, rfl, rfl, rfl, rfl⟩

theorem resetRelease_verified (hr : s.mgmt.inReset = true) (hs : s.mgmt.stuck = false) :
    exec (.resetRelease true true) s = .next { s with mgmt := { s.mgmt with
      inReset := false, starting := true, fwOk := true, minMode := decide (3 ≤ s.mgmt.starts) } } := by
  rw [exec_resetRelease, execResetRelease, hr, hs]
  rfl

theorem resetRelease_refused {a b : Bool} (hr : s.mgmt.inReset = true) (hs : s.mgmt.stuck = false) (hf : (a && b) = false) :
    exec (.resetRelease a b) s = .next (({ s with mgmt := { s.mgmt with
      inReset := false, starting := true, fwOk := a && b, minMode := decide (3 ≤ s.mgmt.starts) } }).startFails 5) := by
  rw [exec_resetRelease, execResetRelease, hr, hs, hf]
  rfl

/-! ## The check after two seconds -/

theorem startMeets_one : startMeets s 1 ↔ s.isReady .dist = true := Iff.rfl
theorem startMeets_two : startMeets s 2 ↔ s.isReady .lyre = true := Iff.rfl
theorem startMeets_three : startMeets s 3 ↔ 4 ≤ ((List.range 6).filter fun k => s.isReady (.link k)).length := Iff.rfl
theorem startMeets_four : startMeets s 4 ↔ ((List.range 10).any fun c => !s.isReady (.clus c)) = false := by
  rw [List.any_eq_false]
  simp [startMeets]

/-- The reason of a failed start is the lowest whose condition is not met. -/
theorem startReason_eq {r : Nat} (h1 : 1 ≤ r) (h4 : r ≤ 4) (hn : ¬ startMeets s r) (hlow : ∀ n, 1 ≤ n → n < r → startMeets s n) :
    s.startReason = BitVec.ofNat 8 r := by
  unfold State.startReason
  obtain rfl | rfl | rfl | rfl : r = 1 ∨ r = 2 ∨ r = 3 ∨ r = 4 := by omega
  · rw [startMeets_one, Bool.not_eq_true] at hn
    rw [hn]; rfl
  · have m1 := startMeets_one.1 (hlow 1 (by decide) (by decide))
    rw [startMeets_two, Bool.not_eq_true] at hn
    rw [m1, hn]; rfl
  · have m1 := startMeets_one.1 (hlow 1 (by decide) (by decide))
    have m2 := startMeets_two.1 (hlow 2 (by decide) (by decide))
    rw [startMeets_three, Nat.not_le] at hn
    rw [m1, m2, if_pos hn]; rfl
  · have m1 := startMeets_one.1 (hlow 1 (by decide) (by decide))
    have m2 := startMeets_two.1 (hlow 2 (by decide) (by decide))
    have m3 := startMeets_three.1 (hlow 3 (by decide) (by decide))
    rw [startMeets_four, Bool.not_eq_false] at hn
    rw [m1, m2, if_neg (Nat.not_lt.2 m3), hn]; rfl

theorem startReason_zero (h : ∀ n, startMeets s n) : s.startReason = 0 := by
  unfold State.startReason
  rw [startMeets_one.1 (h 1), startMeets_two.1 (h 2), if_neg (Nat.not_lt.2 (startMeets_three.1 (h 3))), startMeets_four.1 (h 4)]
  rfl

theorem startCheck_fails (hs : s.mgmt.starting = true) (hr : s.startReason ≠ 0) :
    exec .startCheck s = .next (s.startFails s.startReason) := by
  rw [exec_startCheck, execStartCheck, hs]
  simp only [Bool.not_true, Bool.false_eq_true, if_false, if_neg hr]

theorem startCheck_succeeds (hs : s.mgmt.starting = true) (hr : s.startReason = 0) :
    exec .startCheck s = .next (({ s with mgmt := { s.mgmt with starting := false, starts := 0 } }).movePlanes) := by
  rw [exec_startCheck, execStartCheck, hs]
  simp only [Bool.not_true, Bool.false_eq_true, if_false, if_pos hr]

/-! ## Power (R437) -/

theorem powerAverage_down {n : Nat} (h : s.mgmt.plimit < n) (hm : 1200 < s.mgmt.mhz) :
    exec (.powerAverage n) s = .next (({ s with mgmt := { s.mgmt with mhz := Nat.max 1200 (s.mgmt.mhz - 100) } }).count 0x1A) := by
  rw [exec_powerAverage, execPowerAverage]
  simp only [if_pos h, if_pos hm]

theorem powerAverage_up {n : Nat} (h : n ≤ s.mgmt.plimit) (hl : 100 * n ≤ 95 * s.mgmt.plimit) :
    exec (.powerAverage n) s = .next { s with mgmt := { s.mgmt with mhz := Nat.min 2100 (s.mgmt.mhz + 100) } } := by
  rw [exec_powerAverage, execPowerAverage]
  simp only [if_neg (Nat.not_lt.2 h), if_pos hl]

theorem powerAverage_same {n : Nat} (h : n ≤ s.mgmt.plimit) (hl : 95 * s.mgmt.plimit < 100 * n) :
    exec (.powerAverage n) s = .next s := by
  rw [exec_powerAverage, execPowerAverage]
  simp only [if_neg (Nat.not_lt.2 h), if_neg (Nat.not_le.2 hl)]

/-- Settles O45. -/
theorem starts : Obligations.Starts := by
  refine ⟨fun s => resetRelease_verified, fun s a b hr hs hf => ?_, fun s hs hm => ?_, fun s r hs h1 h4 hn hlow => ?_,
      fun s => ?_,
    fun s n => ⟨fun h hm => ⟨_, powerAverage_down h hm, rfl⟩, powerAverage_up, powerAverage_same⟩⟩
  · obtain ⟨h1, h2, h3, h4, h5, h6⟩ := startFails_is { s with mgmt := { s.mgmt with
      inReset := false, starting := true, fwOk := a && b, minMode := decide (3 ≤ s.mgmt.starts) } } 5
    exact ⟨_, resetRelease_refused hr hs hf, h1, h2, h3, h4, h5, h6⟩
  · have hf := movePlanes_fabricSide { s with mgmt := { s.mgmt with starting := false, starts := 0 } }
    exact ⟨_, startCheck_succeeds hs (startReason_zero hm), hf.mgmt, hf.mem, hf.warps⟩
  · have hr := startReason_eq h1 h4 hn hlow
    have h0 : s.startReason ≠ 0 := by
      rw [hr]
      obtain rfl | rfl | rfl | rfl : r = 1 ∨ r = 2 ∨ r = 3 ∨ r = 4 := by omega
      all_goals decide
    obtain ⟨g1, g2, g3, g4, -, g6⟩ := startFails_is s s.startReason
    exact ⟨_, startCheck_fails hs h0, g1, g2.trans hr, g3, g4, g6⟩
  · exact ⟨s.intoReset, exec_thermalReset s, rfl, rfl, rfl, rfl, rfl, rfl, rfl, rfl, rfl, rfl⟩

end Sys2Proof.Proofs.Starts
end

section
/-! Readiness of the functions and of the ports (R194, R358, R431, R434): O46. -/
namespace Sys2Proof.Proofs.Readiness
open Sys2Proof Sys2Proof.Machine Sys2Proof.Proofs.Arms Sys2Proof.Proofs.Fabric

variable {s : State}

/-- A state whose memory, warps, commands, operations and contexts are those of another. -/
structure SameWork (s t : State) : Prop where
  mem : t.mem = s.mem
  warps : t.warps = s.warps
  cmds : t.cmds = s.cmds
  ops : t.ops = s.ops
  ctxs : t.ctxs = s.ctxs

theorem SameWork.refl (s : State) : SameWork s s := ⟨rfl, rfl, rfl, rfl, rfl⟩

theorem SameWork.trans {s t u : State} (h : SameWork s t) (h' : SameWork t u) : SameWork s u :=
  ⟨h'.mem.trans h.mem, h'.warps.trans h.warps, h'.cmds.trans h.cmds, h'.ops.trans h.ops, h'.ctxs.trans h.ctxs⟩

theorem sameWork_of_fabricSide {s t : State} (h : FabricSide s t) : SameWork s t := ⟨h.mem, h.warps, h.cmds, h.ops, h.ctxs⟩

theorem isReady_iff {f : Function} : s.isReady f = true ↔ f ∈ s.mgmt.ready := by
  rw [State.isReady, List.any_eq_true]
  exact ⟨fun ⟨g, hg, he⟩ => of_decide_eq_true he ▸ hg, fun h => ⟨f, h, decide_eq_true rfl⟩⟩

theorem isReady_congr {s t : State} (h : t.mgmt = s.mgmt) (f : Function) : t.isReady f = s.isReady f := by
  rw [State.isReady, State.isReady, h]

theorem mem_withReady (l : List Function) (f : Function) : f ∈ if l.contains f then l else f :: l := by
  split
  · next h => exact List.contains_iff_mem.1 h
  · exact List.mem_cons_self

theorem isReady_ready1 (s : State) (f : Function) : State.isReady { s with mgmt := s.mgmt.ready1 f } f = true :=
  isReady_iff.2 (mem_withReady s.mgmt.ready f)

theorem isReady_without {s : State} {f : Function} (h : s.mgmt.ready.all (fun g => decide (g ≠ f)) = true) :
    s.isReady f = false := by
  rw [State.isReady, List.any_eq_false]
  intro g hg
  have := List.all_eq_true.1 h g hg
  simpa using this

theorem isReady_unready (s : State) (f : Function) : State.isReady { s with mgmt := s.mgmt.unready f } f = false :=
  isReady_without (List.all_eq_true.2 fun _ hg => (List.mem_filter.1 hg).2)

/-! ## Ports -/

theorem getLsbD_bit16 {q i : Nat} (hi : i < 16) : ((1 : BitVec 16) <<< q).getLsbD i = decide (i = q) := by
  rw [BitVec.getLsbD_shiftLeft, show (1 : BitVec 16) = 1#16 from rfl, BitVec.getLsbD_one]
  simp only [hi, decide_true, Bool.true_and, show 0 < 16 by decide]
  by_cases h : i < q
  · simp [h]; omega
  · simp [h]; omega

theorem portLive_or (s : State) {q i : Nat} (hi : i < 16) :
    State.portLive { s with plive := s.plive ||| (1 <<< q) } i = (s.portLive i || decide (i = q)) := by
  rw [State.portLive, State.portLive, BitVec.getLsbD_or]
  congr 1
  exact getLsbD_bit16 hi

/-- The state of a port failure before any plane has moved. -/
def portDead (s : State) (q : Nat) : State :=
  { s with plive := s.plive &&& ~~~((1 : BitVec 16) <<< q)
           mgmt := { s.mgmt with ready := s.mgmt.ready.filter fun f => decide (f ≠ Function.port q) } }

theorem portFail_eq (s : State) (q : Nat) : s.portFail q = (portDead s q).movePlanes := rfl

theorem portLive_portDead (s : State) (q : Nat) {i : Nat} (hi : i < 16) :
    (portDead s q).portLive i = (s.portLive i && decide (i ≠ q)) := by
  rw [State.portLive, State.portLive, portDead, BitVec.getLsbD_and, BitVec.getLsbD_not, getLsbD_bit16 hi]
  simp [hi]

theorem isReady_portDead (s : State) (q : Nat) : (portDead s q).isReady (.port q) = false :=
  isReady_without (List.all_eq_true.2 fun _ hg => (List.mem_filter.1 hg).2)

theorem portFail_sameWork (s : State) (q : Nat) : SameWork s (s.portFail q) := by
  rw [portFail_eq]
  exact SameWork.trans (t := portDead s q) ⟨rfl, rfl, rfl, rfl, rfl⟩ (sameWork_of_fabricSide (movePlanes_fabricSide _))

theorem portFail_mgmt (s : State) (q : Nat) :
    (s.portFail q).mgmt = { s.mgmt with ready := s.mgmt.ready.filter fun f => decide (f ≠ Function.port q) } := by
  rw [portFail_eq, (movePlanes_fabricSide _).mgmt]
  rfl

theorem portFail_live (s : State) (q : Nat) {i : Nat} (hi : i < 16) : (s.portFail q).portLive i =
    (s.portLive i && decide (i ≠ q)) := by
  rw [portFail_eq, portLive_congr (movePlanes_fabricSide _).plive, portLive_portDead s q hi]

/-- The first live port after one, where every port between them is dead. -/
theorem portAfter_eq {q r : Nat} (hq : q < 16) (hr : r < 16) (hn : r ≠ q) (hl : s.portLive r = true)
    (hd : ∀ j, 0 < j → j < (r + 16 - q) % 16 → s.portLive ((q + j) % 16) = false) : s.portAfter q = some r := by
  have hj : 0 < (r + 16 - q) % 16 := by omega
  obtain ⟨j, he⟩ : ∃ j, (r + 16 - q) % 16 = j + 1 := ⟨(r + 16 - q) % 16 - 1, by omega⟩
  have hj15 : j < 15 := by omega
  have hsplit : List.range 15 = List.range j ++ j :: (List.range (14 - j)).map (j + 1 + ·) := by
    clear he
    revert j
    decide
  rw [State.portAfter, List.find?_map, hsplit, List.find?_append, List.find?_cons]
  have hnone : (List.range j).find? (s.portLive ∘ fun i => (q + 1 + i) % 16) = none := by
    rw [List.find?_eq_none]
    intro i hi
    have := hd (i + 1) (by omega) (by rw [List.mem_range] at hi; omega)
    rw [show q + (i + 1) = q + 1 + i by omega] at this
    simp [this]
  have hr' : (q + 1 + j) % 16 = r := by omega
  rw [hnone]
  simp only [Function.comp_apply, hr', hl, Option.none_or, Option.map_some]

/-- A port that becomes ready before the planes on dead ports move: its own plane is on it. -/
def portBack (s : State) (q : Nat) : State :=
  let s1 := { s with plive := s.plive ||| (1 <<< q) }
  if s1.portOf q = q then s1.pumpPlane q else s1.movePlane q q

theorem portUp_eq (s : State) (q : Nat) :
    s.portUp q = if (portBack s q).mgmt.starting then portBack s q else (portBack s q).movePlanes := rfl

theorem portBack_fabricSide (s : State) (q : Nat) : FabricSide { s with plive := s.plive ||| (1 <<< q) } (portBack s q) := by
  unfold portBack
  dsimp only
  split
  · exact (pumpPlane_flowSide _ q).fabricSide
  · exact movePlane_fabricSide _ q q

theorem portBack_portOf (s : State) {q : Nat} (hq : q < 16) : (portBack s q).portOf q = q := by
  unfold portBack
  dsimp only
  split
  · next h => exact (portOf_congr (pumpPlane_flowSide _ q).prt q).trans h
  · exact portOf_movePlane_same _ hq hq

theorem portUp_fabricSide (s : State) (q : Nat) : FabricSide { s with plive := s.plive ||| (1 <<< q) } (s.portUp q) := by
  rw [portUp_eq]
  split
  · exact portBack_fabricSide s q
  · exact (portBack_fabricSide s q).trans (movePlanes_fabricSide _)

theorem portUp_live (s : State) {q : Nat} (hq : q < 16) : (s.portUp q).portLive q = true := by
  rw [portLive_congr (portUp_fabricSide s q).plive, portLive_or s hq]
  simp

theorem portUp_portOf (s : State) {q : Nat} (hq : q < 16) : (s.portUp q).portOf q = q := by
  have hb := portBack_portOf s hq
  rw [portUp_eq]
  split
  · exact hb
  · have hl : (portBack s q).portLive ((portBack s q).portOf q) = true := by
      rw [hb, portLive_congr (portBack_fabricSide s q).plive, portLive_or s hq]
      simp
    exact (movePlanes_live _ hq hl).trans hb

theorem portUp_sameWork (s : State) (q : Nat) : SameWork s (s.portUp q) :=
  SameWork.trans (t := { s with plive := s.plive ||| (1 <<< q) }) ⟨rfl, rfl, rfl, rfl, rfl⟩
    (sameWork_of_fabricSide (portUp_fabricSide s q))

theorem portUp_mgmt (s : State) (q : Nat) : (s.portUp q).mgmt = s.mgmt := (portUp_fabricSide s q).mgmt

/-! ## Functions -/

/-- A state that differs from another in its links alone. -/
theorem logFaults_links {α : Type} {f : State → α → State} (hf : ∀ t a, f t a = { t with links := (f t a).links }) (l :
    List α) (s : State) :
    l.foldl f s = { s with links := (l.foldl f s).links } := by
  induction l generalizing s with
  | nil => rfl
  | cons a l ih =>
    rw [List.foldl_cons, ih, hf]

theorem linkFail_is (s : State) (k : Nat) : SameWork s (s.linkFail k) ∧ (s.linkFail k).mgmt = s.mgmt ∧
    ∀ e ∈ (s.linkFail k).l2, linkOf (pageOf (128 * e.1)) ≠ k := by
  unfold State.linkFail
  dsimp only
  have h1 := logFaults_links (f := fun (t : State) (e : Nat × L1Line) =>
    if decide (linkOf (pageOf (128 * (e.1 % 2 ^ 49))) = k) && decide (e.2.dirty ≠ 0) then
      t.logFault (128 * (e.1 % 2 ^ 49)) e.2.va (e.2.ctxs.headD 0) .linkDown else t)
    (fun t e => by split <;> rfl) s.l1 s
  generalize s.l1.foldl _ s = u at *
  have h2 := logFaults_links (f := fun (t : State) (e : Nat × L2Line) =>
    if decide (linkOf (pageOf (128 * e.1)) = k) && decide (e.2.dirty ≠ 0) then t.logFault (128 * e.1) 0 e.2.ctx .linkDown else t)
    (fun t e => by split <;> rfl) s.l2 u
  generalize s.l2.foldl _ u = v at *
  refine ⟨?_, ?_, fun e he => ?_⟩
  · rw [h2, h1]
    exact ⟨rfl, rfl, rfl, rfl, rfl⟩
  · rw [h2, h1]
  · simpa using (List.mem_filter.1 he).2

/-- One command as a failure of the name router leaves it. -/
def zithStep (t : State) (c : Cmd) : State :=
  match c.kind with
  | .interest _ _ _ => (t.failInterest c 0x0B).1
  | .announce _ _ _ => t.finishCmd c Config.noZithCause 0 0
  | _ => t

theorem zithFail_eq (s : State) :
    s.zithFail = s.cmds.foldl zithStep { s with zith := { s.zith with pit := [], waitTable := [], arriving := [] } } := rfl

theorem zithStep_unnamed {c : Cmd} (h : c.isNamed = false) (t : State) : zithStep t c = t := by
  unfold Cmd.isNamed at h
  unfold zithStep
  generalize c.kind = k at h ⊢
  cases k with
  | interest _ _ _ => exact nomatch (show true = false from h)
  | announce _ _ _ => exact nomatch (show true = false from h)
  | _ => rfl

theorem zithFail_unnamed (h : ∀ c ∈ s.cmds, c.isNamed = false) :
    s.zithFail = { s with zith := { s.zith with pit := [], waitTable := [], arriving := [] } } := by
  have hfold (l : List Cmd) (hl : ∀ c ∈ l, c.isNamed = false) (u : State) : l.foldl zithStep u = u := by
    induction l with
    | nil => rfl
    | cons c l ih =>
      rw [List.foldl_cons, zithStep_unnamed (hl c List.mem_cons_self)]
      exact ih fun d hd => hl d (List.mem_cons_of_mem _ hd)
  rw [zithFail_eq, hfold s.cmds h]

theorem functionUp_is (s : State) (f : Function) : SameWork s (s.functionUp f) ∧ (s.functionUp f).isReady f = true := by
  unfold State.functionUp
  have hr := isReady_ready1 s f
  have hw : SameWork s { s with mgmt := s.mgmt.ready1 f } := ⟨rfl, rfl, rfl, rfl, rfl⟩
  cases f with
  | port q => exact ⟨hw.trans (portUp_sameWork _ q), (isReady_congr (portUp_mgmt _ q) _).trans hr⟩
  | link k => exact ⟨⟨rfl, rfl, rfl, rfl, rfl⟩, hr⟩
  | lyre => exact ⟨⟨rfl, rfl, rfl, rfl, rfl⟩, isReady_iff.2 (mem_withReady (s.mgmt.ready1 .lyre).ready .lyre)⟩
  | _ => exact ⟨hw, hr⟩

theorem functionDown_is (s : State) (f : Function) (hz : f = .zith → ∀ c ∈ s.cmds, c.isNamed = false) :
    SameWork s (s.functionDown f) ∧ (s.functionDown f).isReady f = false ∧ (s.functionDown f).mgmt.off = s.mgmt.off ∧
      ∀ k, f = .link k → ∀ e ∈ (s.functionDown f).l2, linkOf (pageOf (128 * e.1)) ≠ k := by
  unfold State.functionDown
  have hr := isReady_unready s f
  have hw : SameWork s { s with mgmt := s.mgmt.unready f } := ⟨rfl, rfl, rfl, rfl, rfl⟩
  cases f with
  | port q =>
    refine ⟨hw.trans (portFail_sameWork _ q), ?_, ?_, fun k h => nomatch h⟩
    · rw [State.isReady, portFail_mgmt]
      exact isReady_portDead { s with mgmt := s.mgmt.unready (.port q) } q
    · dsimp only
      rw [portFail_mgmt]
      rfl
  | link k =>
    obtain ⟨h1, h2, h3⟩ := linkFail_is { s with mgmt := s.mgmt.unready (.link k) } k
    refine ⟨hw.trans h1, (isReady_congr h2 _).trans hr, ?_, fun j hj => ?_⟩
    · dsimp only
      rw [h2]
      rfl
    · cases hj
      exact h3
  | zith =>
    dsimp only
    rw [zithFail_unnamed (s := { s with mgmt := s.mgmt.unready .zith }) (hz rfl)]
    exact ⟨⟨rfl, rfl, rfl, rfl, rfl⟩, hr, rfl, fun k h => nomatch h⟩
  | _ => exact ⟨hw, hr, rfl, fun k h => nomatch h⟩

/-! ## The basic controls (R434) -/

/-- A function switched off whose earlier work has to be waited for. -/
def switchedOff (s : State) (f : Function) : State :=
  { s with mgmt := { s.mgmt with off := if s.mgmt.off.contains f then s.mgmt.off else f :: s.mgmt.off, closing := [(f, s.nextId)] } }

theorem functionDisable_eq {f : Function} (hp : present f = true) (hr : s.isReady f = true) (hc : s.mgmt.closing = []) :
    exec (.functionDisable f) s = .next (if s.busyWith f s.nextId then switchedOff s f else
        (switchedOff s f).functionDown f) := by
  rw [exec_functionDisable, execFunctionDisable, if_pos hp]
  dsimp only
  rw [hr, hc]
  rfl

/-- Settles O46. -/
theorem readiness : Obligations.Readiness := by
  refine ⟨fun s f hp hr hn => ?_, fun s f hr => ?_, fun s f hr hz => ?_, fun s f hp hr hc hz hb => ?_, fun s f hp hr hc hb => ?_,
    fun s f => ?_, fun s q r p hq hr hp hn hl hd he => ?_, fun s q p hq hp hn hl => ?_, fun s q hq => ?_⟩
  · obtain ⟨hw, hrdy⟩ := functionUp_is s f
    refine ⟨_, ?_, hrdy, hw.mem, hw.warps, hw.cmds, hw.ops, hw.ctxs⟩
    rw [exec_functionReady, execFunctionReady, hp, hr, hn]
    rfl
  · rw [exec_functionReady, execFunctionReady, hr, Bool.and_false]
    rfl
  · obtain ⟨hw, hdown, -, hl2⟩ := functionDown_is s f hz
    exact ⟨_, by rw [exec_functionFail, execFunctionFail, if_pos hr], hdown, hw.mem, hw.warps, hw.cmds, hl2⟩
  · obtain ⟨hw, hdown, hoff, -⟩ := functionDown_is (switchedOff s f) f hz
    refine ⟨_, by rw [functionDisable_eq hp hr hc, hb, if_neg (by decide)], hdown, ?_, hw.warps, hw.mem⟩
    rw [hoff]
    exact mem_withReady s.mgmt.off f
  · exact ⟨_, by rw [functionDisable_eq hp hr hc, if_pos hb], mem_withReady s.mgmt.off f, rfl⟩
  · refine ⟨_, by rw [exec_functionEnable, execFunctionEnable], fun h => ?_, rfl⟩
    exact absurd (of_decide_eq_true (List.mem_filter.1 h).2) (fun hn => hn rfl)
  · have hlr : (portDead s q).portLive r = true := by rw [portLive_portDead s q hr, hl]; simpa using hn
    have hlq : (portDead s q).portLive q = false := by rw [portLive_portDead s q hq]; simp
    have ha : (portDead s q).portAfter q = some r := portAfter_eq hq hr hn hlr fun j h0 h1 => by
      rw [portLive_portDead s q (Nat.mod_lt _ (by decide)), hd j h0 h1, Bool.false_and]
    have he' : (portDead s q).portOf p = q := he
    refine ⟨s.portFail q, by rw [exec_portFailure, execPortFailure, if_pos hq], ?_, ?_, ?_, ?_⟩
    · exact movePlanes_dead (portDead s q) hp (by rw [he']; exact hlq) (by rw [he']; exact ha)
    · rw [portFail_live s q hq]; simp
    · rw [portFail_live s q hr, hl]; simpa using hn
    · rw [State.isReady, portFail_mgmt]
      exact isReady_portDead s q
  · refine ⟨s.portFail q, by rw [exec_portFailure, execPortFailure, if_pos hq], ?_⟩
    refine movePlanes_live (portDead s q) hp ?_
    show (portDead s q).portLive (s.portOf p) = true
    rw [portLive_portDead s q (portOf_lt s p), hl]
    simpa using hn
  · have hw : SameWork s (({ s with mgmt := s.mgmt.ready1 (.port q) }).portUp q) :=
      SameWork.trans (t := { s with mgmt := s.mgmt.ready1 (.port q) }) ⟨rfl, rfl, rfl, rfl, rfl⟩ (portUp_sameWork _ q)
    exact ⟨_, by rw [exec_portReady, execPortReady, if_pos hq]; rfl, portUp_live _ hq, portUp_portOf _ hq,
      (isReady_congr (portUp_mgmt _ q) _).trans (isReady_ready1 s (.port q)), hw.mem, hw.warps⟩

end Sys2Proof.Proofs.Readiness
end

section
/-! The commands of the debugger (R325): O47. -/
namespace Sys2Proof.Proofs.Debugger
open Sys2Proof Sys2Proof.Machine Sys2Proof.Proofs.Arms

variable {s : State} {x : Word}

theorem dbgDone_eq (s : State) (x : Word) (st : BitVec 6) : s.dbgDone x st = s.debugged x st := rfl

/-! ## One warp -/

theorem haltTarget_runs {k : Nat} (hr : (s.warp k).status = .run) (hw : (s.warp k).wait = .none) :
    s.haltTarget k = s.putWarp k { s.warp k with haltReq := true } := by
  unfold State.haltTarget
  simp only [hr, hw, ne_eq, not_true_eq_false, if_false, Bool.false_and, Bool.false_eq_true]

theorem resumeWarp_here (s : State) (k : Nat) : s.resumeWarp k (s.warp k).pc = (s.putWarp k ((s.warp k).resumed s.clk),
    true) := by
  unfold State.resumeWarp
  simp only [if_true]

/-- What a resumed warp skips tells what stopped it. -/
theorem resumed_skips (w : Warp) (clk : Nat) :
    ((w.resumed clk).skipBk = true → bits (w.resumed clk).tcause.toNat 23 8 = 0x0902) ∧
      ((w.resumed clk).skipWp = true → bits (w.resumed clk).tcause.toNat 23 8 = 0x0901) :=
  ⟨fun h => of_decide_eq_true (Bool.and_eq_true_iff.1 h).1, fun h => of_decide_eq_true (Bool.and_eq_true_iff.1 h).1⟩

theorem resumeAt_inside {a hdr hw : Word} {r : State} (hf : s.fetchWord s.w.ctx hdr = .word hw r)
    (hh : headerOk hw = true) (hb : inBlock hdr (hdrLen hw) a = true) : s.resumeAt hdr a = .inside hw r := by
  unfold State.resumeAt
  simp only [hf, hh, hb, Bool.and_self, if_true]

/-- A stopped warp resumed at another address of its block. -/
theorem resumeWarp_inside {k : Nat} {a hw : Word} {r : State} (hn : a ≠ (s.warp k).pc)
    (hf : ({ s with cur := k }).fetchWord (s.warp k).ctx (s.warp k).hdr = .word hw r) (hc : r.cur = k)
    (hh : headerOk hw = true) (hb : inBlock (s.warp k).hdr (hdrLen hw) a = true) :
    s.resumeWarp k a = ({ r with cur := s.cur }.putWarp k { s.warp k with
      status := .run, wait := .none, lastIssue := s.clk, ready0 := s.clk, urgent := false, pc := a, hw := hw, atHead := false }, true) := by
  have hat : ({ s with cur := k }).resumeAt (s.warp k).hdr a = .inside hw r := resumeAt_inside hf hh hb
  have he : ({ s with cur := k }).resumeElse a = (r.setW { s.warp k with
      status := .run, wait := .none, lastIssue := s.clk, ready0 := s.clk, urgent := false, pc := a, hw := hw, atHead := false }, true) := by
    unfold State.resumeElse
    dsimp only
    rw [show ({ s with cur := k } : State).w = s.warp k from rfl, hat]
  unfold State.resumeWarp
  rw [if_neg hn]
  dsimp only
  rw [he, State.setW, hc]
  rfl

/-! ## Every warp of a context -/

/-- One command to one warp of a list: the warp becomes what the function makes of it, and no other warp changes. -/
structure Commands (f : State → Nat → State) (g : Warp → Warp) (t : State) (k : Nat) : Prop where
  frame : f t k = { t with warps := (f t k).warps }
  warp : ∀ j, (f t k).warp j = if j = k then g (t.warp k) else t.warp j

/-- A command given to each warp of a list reaches each of them, twice named or once. -/
theorem foldl_commands {f : State → Nat → State} {g : Warp → Warp} {P : Warp → Prop} {clk : Nat} (hP : ∀ w, P w → P (g w))
    (hg : ∀ w, g (g w) = g w) (hf : ∀ (t : State) (k : Nat), t.clk = clk → P (t.warp k) → Commands f g t k) (l :
        List Nat) (t : State)
    (hc : t.clk = clk) (hl : ∀ k ∈ l, P (t.warp k)) :
    l.foldl f t = { t with warps := (l.foldl f t).warps } ∧
      ∀ j, (l.foldl f t).warp j = if j ∈ l then g (t.warp j) else t.warp j := by
  induction l generalizing t with
  | nil => exact ⟨rfl, fun j => by simp⟩
  | cons k l ih =>
    obtain ⟨hframe, hwarp⟩ := hf t k hc (hl k List.mem_cons_self)
    have hclk : (f t k).clk = clk := by rw [hframe]; exact hc
    obtain ⟨ihframe, ihwarp⟩ := ih (f t k) hclk fun j hj => by
      rw [hwarp]
      split
      · exact hP _ (hl k List.mem_cons_self)
      · exact hl j (List.mem_cons_of_mem _ hj)
    rw [List.foldl_cons]
    refine ⟨by rw [ihframe, hframe], fun j => ?_⟩
    rw [ihwarp, hwarp]
    by_cases hjk : j = k
    · subst hjk
      simp [hg]
    · simp [hjk]

theorem look_mem {α : Type} {d : α} {m : FMap α} {k : Nat} (h : look d m k ≠ d) : (k, look d m k) ∈ m := by
  induction m with
  | nil => exact absurd rfl h
  | cons e m ih =>
    obtain ⟨k', v⟩ := e
    rw [look] at h ⊢
    by_cases hk : k' = k
    · rw [if_pos hk, hk]
      exact List.mem_cons_self
    · rw [if_neg hk] at h ⊢
      exact List.mem_cons_of_mem _ (ih h)

theorem mem_ctxWarps {c k : Nat} (hu : ∀ e ∈ s.warps, s.warp e.1 = e.2) :
    k ∈ s.ctxWarps c ↔ k < 2 ^ 20 ∧ (s.warp k).ctx = c ∧ (s.warp k).status ≠ .absent := by
  unfold State.ctxWarps
  rw [List.mem_map]
  constructor
  · rintro ⟨e, he, rfl⟩
    obtain ⟨hm, hp⟩ := List.mem_filter.1 he
    rw [hu e hm]
    simpa [and_assoc] using hp
  · rintro ⟨h1, h2, h3⟩
    have hne : look {} s.warps k ≠ {} := fun h => h3 (by rw [State.warp, h])
    refine ⟨(k, s.warp k), List.mem_filter.2 ⟨look_mem hne, ?_⟩, rfl⟩
    simpa [and_assoc] using ⟨h1, h2, h3⟩

/-- A warp that runs and waits for nothing. -/
def Runs (w : Warp) : Prop := w.status = .run ∧ w.wait = .none

theorem haltTarget_commands (t : State) (k : Nat) (h : Runs (t.warp k)) :
    Commands State.haltTarget (fun w => { w with haltReq := true }) t k := by
  have he := haltTarget_runs h.1 h.2
  exact ⟨by rw [he]; rfl, fun j => by rw [he, State.warp_putWarp]⟩

/-- One warp of a RESUME to a context. -/
def resumeOne (t : State) (k : Nat) : State := if (t.warp k).status = .stopped then (t.resumeWarp k (t.warp k).pc).1 else t

/-- A stopped warp resumed, any other as it is. -/
def resumedIf (clk : Nat) (w : Warp) : Warp := if w.status = .stopped then w.resumed clk else w

theorem resumedIf_twice (clk : Nat) (w : Warp) : resumedIf clk (resumedIf clk w) = resumedIf clk w := by
  unfold resumedIf
  by_cases h : w.status = .stopped
  · rw [if_pos h, if_neg (fun h => nomatch h)]
  · rw [if_neg h, if_neg h]

theorem resumeOne_commands (t : State) (k : Nat) : Commands resumeOne (resumedIf t.clk) t k := by
  unfold resumeOne resumedIf
  by_cases h : (t.warp k).status = .stopped
  · refine ⟨?_, fun j => ?_⟩
    · rw [if_pos h, resumeWarp_here]; rfl
    · rw [if_pos h, resumeWarp_here, if_pos h, State.warp_putWarp]
  · refine ⟨by rw [if_neg h], fun j => ?_⟩
    rw [if_neg h, if_neg h]
    split
    · next e => rw [e]
    · rfl

/-! ## The commands -/

theorem dbgHaltCtx_eq (h : dbgCmd x = 4) :
    exec (.dbgHaltCtx x) s = .next (((s.ctxWarps (dbgCtx x)).foldl State.haltTarget s).debugged x 0) := by
  rw [exec_dbgHaltCtx, execDbgHaltCtx, if_neg (fun hn => hn h)]
  rfl

theorem dbgResumeCtx_eq (h : dbgCmd x = 5) :
    exec (.dbgResumeCtx x) s = .next (((s.ctxWarps (dbgCtx x)).foldl resumeOne s).debugged x 0) := by
  rw [exec_dbgResumeCtx, execDbgResumeCtx, if_neg (fun hn => hn h)]
  rfl

theorem debugged_warps {t : State} (h : t = { s with warps := t.warps }) (x : Word) (st : BitVec 6) :
    t.debugged x st = ({ s with warps := (t.debugged x st).warps }).debugged x st := by
  rw [h]
  rfl

/-- Settles O47. -/
theorem debugger : Obligations.Debugger := by
  refine ⟨fun s x hc hd hr hw => ?_, fun s x hc hd hst => ?_, fun s r x hw w hc hconf hd hweq hst hpc hf hrc hh hb => ?_,
    fun s x hc hu hrun => ?_, fun s x hc hu => ?_, fun s x hc => ?_, fun s x hc hconf => ?_, fun s x hd => ⟨fun hc => ?_,
        fun hc => ?_⟩,
    fun s x hc hd hst => ?_⟩
  · rw [exec_dbgHalt, execDbgHalt, if_neg (fun hn => hn hc), if_pos hd, haltTarget_runs hr hw, dbgDone_eq]
  · refine ⟨(s.warp (dbgSlot x)).resumed s.clk, ?_, rfl, resumed_skips _ _⟩
    rw [exec_dbgResume, execDbgResume, if_neg (fun hn => hn hc), hd, if_neg
        (by decide), if_neg (fun hn => hn hst), resumeWarp_here,
      dbgDone_eq]
  · subst hweq
    rw [exec_dbgResumePc, execDbgResumePc, if_neg (fun hn => hn hc), State.dbgConf, if_neg (by rw [hconf]; decide), hd,
      if_neg (by decide), if_neg (fun hn => hn hst), resumeWarp_inside hpc hf hrc hh hb]
    rfl
  · obtain ⟨hframe, hwarps⟩ := foldl_commands (f := State.haltTarget) (g := fun w => { w with haltReq := true }) (P := Runs)
      (clk := s.clk) (fun w h => h) (fun w => rfl) (fun t k _ h => haltTarget_commands t k h) (s.ctxWarps (dbgCtx x)) s rfl
      (fun k hk => by
        obtain ⟨hk20, hctx, hab⟩ := (mem_ctxWarps hu).1 hk
        have hm : (k, s.warp k) ∈ s.warps := look_mem fun h => hab (by rw [State.warp, h])
        exact hrun _ hm hctx)
    refine ⟨_, dbgHaltCtx_eq hc, debugged_warps hframe x 0, fun k => (hwarps k).trans ?_⟩
    simp only [mem_ctxWarps hu]
  · obtain ⟨hframe, hwarps⟩ := foldl_commands (f := resumeOne) (g := resumedIf s.clk) (P := fun _ => True) (clk := s.clk)
      (fun w h => h) (resumedIf_twice s.clk) (fun t k ht _ => ht ▸ resumeOne_commands t k) (s.ctxWarps (dbgCtx x)) s rfl
      (fun _ _ => trivial)
    refine ⟨_, dbgResumeCtx_eq hc, debugged_warps hframe x 0, fun k => ?_⟩
    have hk := hwarps k
    simp only [mem_ctxWarps hu] at hk
    change ((s.ctxWarps (dbgCtx x)).foldl resumeOne s).warp k = _ at hk
    show if k < 2 ^ 20 ∧ (s.warp k).ctx = dbgCtx x ∧ (s.warp k).status = .stopped then
          (((s.ctxWarps (dbgCtx x)).foldl resumeOne s).warp k).status = .run ∧
            (((s.ctxWarps (dbgCtx x)).foldl resumeOne s).warp k).pc = (s.warp k).pc ∧
            (((s.ctxWarps (dbgCtx x)).foldl resumeOne s).warp k).wait = (s.warp k).wait
        else ((s.ctxWarps (dbgCtx x)).foldl resumeOne s).warp k = s.warp k
    rw [hk]
    by_cases hst : (s.warp k).status = .stopped
    · by_cases hin : k < 2 ^ 20 ∧ (s.warp k).ctx = dbgCtx x
      · have hin' : k < 2 ^ 20 ∧ (s.warp k).ctx = dbgCtx x ∧ (s.warp k).status ≠ .absent :=
          ⟨hin.1, hin.2, by rw [hst]; decide⟩
        rw [if_pos ⟨hin.1, hin.2, hst⟩, if_pos hin', resumedIf, if_pos hst]
        exact ⟨rfl, rfl, rfl⟩
      · rw [if_neg (fun h => hin ⟨h.1, h.2.1⟩), if_neg (fun h => hin ⟨h.1, h.2.1⟩)]
    · rw [if_neg (fun h => hst h.2.2), resumedIf, if_neg hst, ite_self]
  · rw [exec_dbgRefused, execDbgRefused, if_neg (by omega), dbgDone_eq]
  · refine ⟨?_, ?_⟩
    · rw [exec_dbgResumePc, execDbgResumePc, if_neg (fun hn => hn hc), State.dbgConf, if_pos hconf, dbgDone_eq]
    · rw [exec_dbgRefused, execDbgRefused, State.dbgConf, if_neg (by rw [hc, hconf]; decide), dbgDone_eq]
  · rw [exec_dbgHalt, execDbgHalt, if_neg (fun hn => hn hc), if_neg (by rw [hd]; decide), dbgDone_eq]
  · rw [exec_dbgResume, execDbgResume, if_neg (fun hn => hn hc), hd, if_pos (by decide), dbgDone_eq]
  · rw [exec_dbgResume, execDbgResume, if_neg (fun hn => hn hc), hd, if_neg (by decide), if_pos hst, dbgDone_eq]

end Sys2Proof.Proofs.Debugger
end

section
/-! A flow whose peer is unreachable, beside a lease request to it (R199, R360, R407): O48. -/
namespace Sys2Proof.Proofs.Links
open Sys2Proof Sys2Proof.Machine Sys2Proof.Proofs.Arms

/-- A device that waits for two answers of device 1 on plane 3: an exclusive copy of line 3, which is device 1's, and a
lease request
whose record stands in that line. -/
def sWaits : State := { State.reset with
  mgmt := { ready := [.link 0] }
  links := [(0, { tlb := [(0, some 0xA00008C000000000)] })]
  flows := [(19, { peer := 1, plane := 3, unack := [(0, 1, 4)] })]
  peerReqs := [{ id := 1, dev := 1, line := 3, excl := true }]
  cmds := [{ id := 2, opc := 0xD7, kind := .leasereq 0 1 0 0 0 0, dst := [(24, .mem 384)] }]
  nextId := 3 }

/-- What the premises of the statement's last clause ask of the state and the flow. -/
def premises : Bool := decide (sWaits.homeWaits = []) && decide ((sWaits.flow 19).unack ≠ []) &&
  sWaits.peerReqs.all fun r => decide (r.op = 0)

theorem premises_hold : premises = true := by decide +kernel

/-- The lease request ends refused first: the writing of its answer meets the failure that was kept for the line's own access, and
takes it. -/
theorem failure_taken : look none (sWaits.unreachable 19).peerFail (failKey 3 true) = none := by decide +kernel

/-- Refutes O48: where a peer that cannot be reached is also asked for a lease whose record stands in one of the lines
awaited from
it, the answer of the lease request consumes the failure of the line (State.prepare), which is then not there for its access. -/
theorem not_fabricLinks : ¬ Obligations.FabricLinks := by
  rintro ⟨-, -, -, -, -, -, -, -, -, -, -, -, -, -, h⟩
  have hp := premises_hold
  simp only [premises, Bool.and_eq_true, decide_eq_true_eq, List.all_eq_true] at hp
  obtain ⟨⟨hw, hu⟩, hr⟩ := hp
  obtain ⟨t, ht, -, -, -, hfail⟩ := h sWaits 19 hw hu fun r hm _ _ => hr r hm
  rw [exec_peerUnreachable, execPeerUnreachable, if_neg hu] at ht
  cases ht
  have := (hfail { id := 1, dev := 1, line := 3, excl := true } List.mem_cons_self rfl rfl).1
  rw [failure_taken] at this
  exact nomatch this

end Sys2Proof.Proofs.Links
end

section
/-! Lines that pass between devices (R363 to R365, R373): O49. -/
namespace Sys2Proof.Proofs.Lines
open Sys2Proof Sys2Proof.Machine Sys2Proof.Proofs.Arms

variable {s : State}

/-! ## What the tries and the caches leave -/

/-- A fold keeps what each of its steps keeps. -/
theorem foldl_keeps {α : Type} {R : State → Prop} {f : State → α → State} (hf : ∀ t a, R t → R (f t a)) (l : List α)
    {s : State} (h : R s) :
    R (l.foldl f s) := by
  induction l generalizing s with
  | nil => exact h
  | cons a l ih => exact ih (hf s a h)

/-- A write that tries meet changes warps alone. -/
theorem conflictFor_warps (s : State) (who : Nat → Bool) (q : Nat) :
    s.conflictFor who q = { s with warps := (s.conflictFor who q).warps } := by
  refine foldl_keeps (R := fun t => t = { s with warps := t.warps }) (fun t e h => ?_) s.vers rfl
  dsimp only
  split
  · split
    · rw [h]
    · exact h
  · exact h

theorem conflict_warps (s : State) (me q : Nat) : s.conflict me q = { s with warps := (s.conflict me q).warps } :=
  conflictFor_warps s _ q

theorem conflict_outbox (s : State) (me q : Nat) : (s.conflict me q).outbox = s.outbox := by rw [conflict_warps]

theorem conflict_l2Line (s : State) (me q k : Nat) : (s.conflict me q).l2Line k = s.l2Line k := by
  rw [conflict_warps]
  rfl

theorem putLinkByte_homeWaits (s : State) (a : Nat) (b : Byte) : (s.putLinkByte a b).homeWaits = s.homeWaits := by
  unfold State.putLinkByte
  repeat' split
  all_goals rfl

theorem foldl_homeWaits {α : Type} {f : State → α → State} (hf : ∀ t a, (f t a).homeWaits = t.homeWaits) (l : List α)
    (s : State) :
    (l.foldl f s).homeWaits = s.homeWaits :=
  foldl_keeps (R := fun t => t.homeWaits = s.homeWaits) (fun t a h => (hf t a).trans h) l rfl

theorem writeBackL2_homeWaits (s : State) (k : Nat) : (s.writeBackL2 k).homeWaits = s.homeWaits := by
  simp only [State.writeBackL2]
  split
  · rfl
  · split
    · refine (putLinkByte_homeWaits _ _ _).trans ?_
      exact foldl_homeWaits (fun t q => by split <;> rfl) _ s
    · rfl
    · rfl

theorem dropL2_homeWaits (s : State) (k : Nat) : (s.dropL2 k).homeWaits = s.homeWaits := by
  simp only [State.dropL2]
  split
  · exact writeBackL2_homeWaits s k
  · split
    · rfl
    · split <;> rfl
    · rfl
  · rfl

theorem fitL2_homeWaits (n : Nat) (s : State) (k : Nat) : (State.fitL2 n s k).homeWaits = s.homeWaits := by
  induction n generalizing s with
  | zero => rfl
  | succ n ih =>
    rw [State.fitL2]
    split
    · rfl
    · split
      · exact dropL2_homeWaits s k
      · exact (ih _).trans (dropL2_homeWaits _ _)

theorem putL2_homeWaits (s : State) (k : Nat) (l : L2Line) : (s.putL2 k l).homeWaits = s.homeWaits := fitL2_homeWaits ..

theorem fillL2_homeWaits (s : State) (p : Spot) (b : Bool) : (s.fillL2 p b).homeWaits = s.homeWaits := by
  simp only [State.fillL2]
  split
  · rfl
  · split
    · exact putL2_homeWaits ..
    · rfl

theorem putHomeSector_homeWaits (s : State) (p : Spot) (q : Nat) (x : Sector) :
    (s.putHomeSector p q x).homeWaits = s.homeWaits := by
  simp only [State.putHomeSector]
  split
  · exact putL2_homeWaits ..
  · exact putLinkByte_homeWaits ..

theorem fillL2_dir (s : State) (p : Spot) (b : Bool) : (s.fillL2 p b).dir = s.dir := by
  have h := Puts.fillReady_memSide s (.spot { p with l2 := b })
  simp only [State.fillL2]
  split
  · rfl
  · split
    · rw [Puts.putL2_memSide]
    · rfl

theorem notifyWrite_homeWaits (s : State) (lo hi : Nat) : (s.notifyWrite lo hi).homeWaits = s.homeWaits := by
  simp only [State.notifyWrite]
  split
  · rfl
  · refine foldl_keeps (R := fun t => t.homeWaits = s.homeWaits) ?_ _ rfl
    exact fun t w h => h

/-- A write to a line of this device that no other holds waits for no device. -/
theorem writeReady_homeWaits (s : State) (p : Spot) (ia me : Nat) (ws : List (Nat × Byte)) (h : s.dirEntry (p.ia / 128) = {}) :
    (s.writeReady (.spot p) ia me ws).homeWaits = s.homeWaits := by
  have hsole : ((s.fillReady (.spot p)).soleReady (.spot p)).homeWaits = s.homeWaits := by
    have hd : (s.fillReady (.spot p)).dirEntry (p.ia / 128) = {} := by
      rw [State.dirEntry, State.fillReady, fillL2_dir]
      exact h
    simp only [State.soleReady, State.invalidateSharers, hd, if_true]
    exact fillL2_homeWaits s p p.l2
  unfold State.writeReady State.writeFor
  refine (notifyWrite_homeWaits _ _ _).trans ?_
  rw [conflictFor_warps]
  exact (foldl_homeWaits (fun t q => putHomeSector_homeWaits t p q _) _ _).trans hsole

/-! ## Requests at the home -/

/-- What a peer's request for a line, or its atomic packet, waits for at first. -/
def reading (src req ia : Nat) (excl : Bool) (pkt : Option AtomicPkt) : HomeWait :=
  { src := src, req := req, line := ia / 128, excl := excl, acks := [], ia := ia, atomic := pkt }

theorem readShared_eq (src ia req : Nat) : exec (.readShared src ia req) s = .next (s.askHome (reading src req ia false none)) :=
  exec_readShared src ia req s

theorem readExclusive_eq (src ia req : Nat) : exec (.readExclusive src ia req) s = .next (s.askHome
    (reading src req ia true none)) :=
  exec_readExclusive src ia req s

theorem atomicPkt_eq (src req : Nat) (op : RmwOp) (wide signed : Bool) (a : RmwLane) :
    exec (.atomicPkt src { req := req, op := op, wide := wide, signed := signed, lanes := [a] }) s =
      .next (s.askHome (reading src req a.addr false (some { req := req, op := op, wide := wide, signed := signed, lanes := [a] }))) :=
  exec_atomicPkt src _ s

/-- What a request tried leaves: the state, and the request kept where it still waits. -/
def tried : State × Option HomeWait → State
  | (t, none) => t
  | (t, some h) => { t with homeWaits := t.homeWaits ++ [h] }

/-- A request that nothing waits before and whose region is not revoked, at a line of this device. -/
theorem askHome_here {h : HomeWait} {p : Spot} (hw : s.homeWaits = []) (hb : h.back = false) (hr :
    s.revokedFor h.src h.ia = false)
    (ha : s.at h.need h.ia = .loc p) : s.askHome h = tried (s.atHome h (.spot p) (p.ia / 128)) := by
  have ht : s.tryHome h = s.atHome h (.spot p) (p.ia / 128) := by
    rw [State.tryHome, hb, if_neg (by decide), hr, if_neg (by decide), ha]
  have hany : s.homeWaits.any (fun e => decide (e.src ≠ s.did) && decide (e.ia / 128 = h.ia / 128) &&
      (e.back == h.back)) = false := by
    rw [hw]
    rfl
  have he : s.askHome h = tried (s.tryHome h) := by
    unfold State.askHome
    rw [hany]
    rfl
  rw [he, ht]

/-- A request at a line with no owner and no holder to be told. -/
theorem atHome_alone {h : HomeWait} {p : Spot} (h1 : s.cmdOwns (h.ia / 128) = false) (h2 : s.cmdOwns (p.ia / 128) = false)
    (he : s.dirEntry (p.ia / 128) = {}) :
    s.atHome h (.spot p) (p.ia / 128) = s.grantHome h (.spot p) (p.ia / 128) := by
  simp only [State.atHome, h1, h2, he, Bool.or_self, Bool.false_eq_true, if_false, reduceCtorEq, false_and,
      List.filter_nil, ite_self,
    if_true]

/-- A request at a line that another device owns recalls it. -/
theorem atHome_owned {h : HomeWait} {p : Spot} {d : Nat} (h1 : s.cmdOwns (h.ia / 128) = false) (h2 : s.cmdOwns
    (p.ia / 128) = false)
    (he : (s.dirEntry (p.ia / 128)).owner = some d) (hd : d ≠ h.src) (hf : look none s.peerFail (failKey
        (p.ia / 128) false) = none) :
    s.atHome h (.spot p) (p.ia / 128) = s.callHolders { h with keep := !h.excl && h.atomic.isNone } (p.ia / 128) [d]
      fun x => .recall x (128 * (p.ia / 128)) (!h.excl && h.atomic.isNone) := by
  simp only [State.atHome, h1, h2, he, hf, Bool.or_self, Bool.false_eq_true, if_false, Option.some.injEq, hd, false_and]

/-- An exclusive request at a line with sharers tells them. -/
theorem atHome_shared {h : HomeWait} {p : Spot} (h1 : s.cmdOwns (h.ia / 128) = false) (h2 : s.cmdOwns (p.ia / 128) = false)
    (ho : (s.dirEntry (p.ia / 128)).owner = none) (hn : h.src ∉ (s.dirEntry (p.ia / 128)).sharers)
    (hs : (s.dirEntry (p.ia / 128)).sharers ≠ []) (hx : h.excl = true) (hat : h.atomic = none) :
    s.atHome h (.spot p) (p.ia / 128) = ({ s with dir := put {} s.dir (p.ia / 128) {} }).callHolders h (p.ia / 128)
      (s.dirEntry (p.ia / 128)).sharers fun x => .invalidate x (128 * (p.ia / 128)) := by
  have hall : (s.dirEntry (p.ia / 128)).sharers.filter (fun d => decide (d ≠ h.src)) = (s.dirEntry (p.ia / 128)).sharers :=
    List.filter_eq_self.2 fun d hd => decide_eq_true fun e => hn (e ▸ hd)
  have hnone : (s.dirEntry (p.ia / 128)).sharers.filter (fun d => !(s.dirEntry (p.ia / 128)).sharers.contains d) = [] := by
    rw [List.filter_eq_nil_iff]
    intro d hd
    rw [List.contains_iff_mem.2 hd]
    decide
  simp only [State.atHome, h1, h2, ho, hx, hat, hall, hnone, hs, Bool.or_self, Bool.false_eq_true, if_false,
      Option.isSome_none, if_true,
    reduceCtorEq, false_and]

theorem grantHome_read {h : HomeWait} {p : Spot} (he : s.dirEntry (p.ia / 128) = {}) (hx : h.excl = false) (hat :
    h.atomic = none) :
    s.grantHome h (.spot p) (p.ia / 128) = ({ s with
      dir := put {} s.dir (p.ia / 128) { sharers := [h.src] }
      outbox := .response h.src (h.ia / 128) (s.lineOf p h.req) :: s.outbox }, none) := by
  simp only [State.grantHome, he, hx, hat]
  rfl

theorem grantHome_excl {h : HomeWait} {p : Spot} (hw : s.homeWaits = []) (hx : h.excl = true) (hat : h.atomic = none) :
    ∃ ws, s.grantHome h (.spot p) (p.ia / 128) = ({ s with
      dir := put {} s.dir (p.ia / 128) { owner := some h.src }
      outbox := .response h.src (h.ia / 128) (s.lineOf p h.req) :: s.outbox
      warps := ws }, none) := by
  have hi : s.invalidating (p.ia / 128) = false := by rw [State.invalidating, hw]; rfl
  simp only [State.grantHome, hx, hat, if_true, hi, Bool.false_eq_true, if_false]
  rw [conflict_warps]
  exact ⟨_, rfl⟩

/-- Every line of this device that an L1 holds dirty recalled: none is. -/
theorem recallL1s_clean {line : Nat} (h : ∀ e ∈ s.l1, e.1 % 2 ^ 49 = line → e.2.dirty = 0) : s.recallL1s line = s := by
  have : s.l1.filter (fun e => decide (e.1 % 2 ^ 49 = line) && decide (e.2.dirty ≠ 0)) = [] := by
    rw [List.filter_eq_nil_iff]
    intro e he hp
    simp only [Bool.and_eq_true, decide_eq_true_eq] at hp
    exact hp.2 (h e he hp.1)
  rw [State.recallL1s, this]
  rfl

/-- The bytes that a one-lane addition leaves. -/
def sumBytes (a : RmwLane) (wide : Bool) (old : Nat) : List (Nat × Byte) :=
  (List.range (if wide then 8 else 4)).map fun i => (a.addr % 128 + i, nth 0 (toBytes (if wide then 8 else 4)
    ((old + a.opnd.toNat) % 2 ^ (if wide then 64 else 32))) i)

/-- One lane's result added to what an atomic packet answers. -/
def answered (a : RmwLane) : State × Except Origin Nat → State × List (Nat × Word) × List (Nat × Origin)
  | (t, .ok old) => (t, [(a.lane, BitVec.ofNat 64 old)], [])
  | (t, .error m) => (t, [], [(a.lane, m)])

theorem rmwPacket_one (s : State) (r : Ready) (req : Nat) (op : RmwOp) (wide signed : Bool) (a : RmwLane) :
    s.rmwPacket r { req := req, op := op, wide := wide, signed := signed, lanes := [a] } =
      answered a (s.rmwReady noWarp r a.addr op wide signed a.opnd.toNat a.newv.toNat) := by
  unfold State.rmwPacket
  simp only [sortBy, insertBy, List.foldl_cons, List.foldl_nil, List.nil_append]
  generalize s.rmwReady noWarp r a.addr op wide signed a.opnd.toNat a.newv.toNat = x
  obtain ⟨t, m | old⟩ := x
  · rfl
  · rfl

theorem rmwPacket_add {p : Spot} {a : RmwLane} {wide : Bool} {req old : Nat}
    (hm : (s.homeSector p (a.addr % 128 / 16)).mark = .none)
    (ho : old = ofBytes (((s.homeSector p (a.addr % 128 / 16)).data.drop (a.addr % 16)).take (if wide then 8 else 4))) :
    s.rmwPacket (.spot p) { req := req, op := .add, wide := wide, signed := false, lanes := [a] } =
      (s.writeReady (.spot p) a.addr noWarp (sumBytes a wide old), [(a.lane, BitVec.ofNat 64 old)], []) := by
  have hn : rmwBytes .add wide = if wide then 8 else 4 := rfl
  have h32 : ¬ (if wide then 8 else 4) = 32 := by cases wide <;> decide
  have hr : s.rmwReady noWarp (.spot p) a.addr .add wide false a.opnd.toNat a.newv.toNat =
      (s.writeReady (.spot p) a.addr noWarp (sumBytes a wide old), .ok old) := by
    unfold State.rmwReady
    dsimp only
    rw [hn, if_neg h32, if_neg h32, show s.readySector (.spot p) (a.addr % 128 / 16) = s.homeSector p
        (a.addr % 128 / 16) from rfl,
      if_neg (fun h => h hm), if_neg (fun h => h hm), ← ho]
    rfl
  rw [rmwPacket_one, hr]
  rfl

theorem grantHome_add {h : HomeWait} {p : Spot} {a : RmwLane} {wide : Bool} {req old : Nat}
    (hl1 : ∀ e ∈ s.l1, e.1 % 2 ^ 49 = p.ia / 128 → e.2.dirty = 0) (hm : (s.homeSector p (a.addr % 128 / 16)).mark = .none)
    (ho : old = ofBytes (((s.homeSector p (a.addr % 128 / 16)).data.drop (a.addr % 16)).take (if wide then 8 else 4)))
    (hat : h.atomic = some { req := req, op := .add, wide := wide, signed := false, lanes := [a] }) :
    s.grantHome h (.spot p) (p.ia / 128) = ((s.writeReady (.spot p) a.addr noWarp (sumBytes a wide old)).respond h.src
        (h.ia / 128) req
      (.olds [(a.lane, BitVec.ofNat 64 old)] []), none) := by
  have hclean : s.l1.any (fun x => decide (x.1 % 2 ^ 49 = p.ia / 128) && decide (x.2.dirty ≠ 0)) = false := by
    rw [List.any_eq_false]
    intro e he hp
    simp only [Bool.and_eq_true, decide_eq_true_eq] at hp
    exact hp.2 (hl1 e he hp.1)
  simp only [State.grantHome, hat, recallL1s_clean hl1, hclean, Bool.false_eq_true, if_false, rmwPacket_add hm ho]

/-! ## Write-backs (R184, R373) -/

theorem serveHome_none (h : s.homeWaits = []) : s.serveHome = s := by
  rw [State.serveHome, h]
  rfl

theorem writeBack_home {src ia : Nat} {mask : BitVec 128} {data : List Byte} {p : Spot} (hw : s.homeWaits = [])
    (hr : s.revokedFor src ia = false) (ha : s.at {} ia = .loc p) (hd : s.dirEntry (p.ia / 128) = { owner := some src })
        (hm : mask ≠ 0) :
    s.takeBack src ia mask [] data = ({ s with dir := put {} s.dir (p.ia / 128) {} }).writeReady (.spot p) ia noWarp
      (((List.range 128).filter fun i => mask.getLsbD i).map fun i => (i, nth 0 data i)) := by
  have hws : ((List.range 128).filter fun i => mask.getLsbD i).map (fun i => (i, nth 0 data i)) ≠ [] := by
    intro h
    rw [List.map_eq_nil_iff, List.filter_eq_nil_iff] at h
    refine hm (BitVec.eq_of_getLsbD_eq fun i hi => ?_)
    have := h i (List.mem_range.2 hi)
    rw [Bool.not_eq_true] at this
    rw [this]
    exact (BitVec.getLsbD_zero).symm
  have hmerge (t : State) : t.mergeBack (.spot p) ia mask [] data = t.writeReady (.spot p) ia noWarp
      (((List.range 128).filter fun i => mask.getLsbD i).map fun i => (i, nth 0 data i)) := by
    have hbad : (List.range 8).filter (fun q => decide (nth Origin.none [] q ≠ .none) &&
        decide (bits mask.toNat (16 * q + 15) (16 * q) ≠ 0)) = [] := by
      rw [List.filter_eq_nil_iff]
      intro q _
      simp [nth]
    unfold State.mergeBack
    rw [hbad]
    simp only [List.contains_nil, Bool.not_false, Bool.and_true, List.foldl_nil, if_neg hws]
  have hat : s.placeBack ia = .loc p := by rw [State.placeBack, ha]
  have hkeep : ∀ t : State, t.keepSharer (p.ia / 128) src false = t := fun t => rfl
  have hans : ∀ t : State, t.homeWaits = [] → t.answered src (p.ia / 128) = t := by
    intro t ht
    unfold State.answered
    rw [ht, List.map_nil, ← ht]
  rw [State.takeBack, hr, if_neg (by decide)]
  simp only [hat, hd, hw, hmerge, List.any_nil, hkeep, if_true, List.filter_nil, ne_eq, not_true_eq_false, decide_false,
      Bool.false_and,
    Bool.false_eq_true, if_false]
  refine hans _ ((writeReady_homeWaits _ p ia noWarp _ ?_).trans rfl)
  exact look_put_same {} s.dir (p.ia / 128) {}

/-! ## Directory actions -/

/-- A copy dropped, as an invalidation does. -/
def dropCopy (t : State) (k : Nat) : State := ({ t with l2 := put {} t.l2 k {} }).conflict noWarp (memSec (128 * k))

theorem dropCopy_l2Line (t : State) (k j : Nat) : (dropCopy t k).l2Line j = if j = k then {} else t.l2Line j := by
  rw [dropCopy, conflict_l2Line, State.l2Line, look_put]
  rfl

theorem dropCopies_is (l : List Nat) (t : State) : (l.foldl dropCopy t).outbox = t.outbox ∧ (l.foldl dropCopy t).mem = t.mem ∧
    ∀ k, (l.foldl dropCopy t).l2Line k = if k ∈ l then {} else t.l2Line k := by
  induction l generalizing t with
  | nil => exact ⟨rfl, rfl, fun k => by simp⟩
  | cons j l ih =>
    obtain ⟨h1, h2, h3⟩ := ih (dropCopy t j)
    rw [List.foldl_cons]
    refine ⟨h1.trans ?_, h2.trans ?_, fun k => ?_⟩
    · rw [dropCopy, conflict_warps]
    · rw [dropCopy, conflict_warps]
    · rw [h3, dropCopy_l2Line]
      by_cases hkj : k = j <;> simp [hkj]

theorem recalled_none {dev ia : Nat} {keep : Bool} (h : ∀ k ∈ s.heldAs dev ia, (s.l2Line k).st ≠ .owned) :
    s.recalled dev ia keep = s.ackLine dev (ia / 128) := by
  have : (s.heldAs dev ia).filter (fun k => decide ((s.l2Line k).st = .owned)) = [] := by
    rw [List.filter_eq_nil_iff]
    intro k hk
    simpa using h k hk
  rw [State.recalled, this]

/-- A mask gathered bit by bit. -/
theorem getLsbD_gather {w : Nat} (c : Nat → Bool) (n : Nat) {j : Nat} (hj : j < w) :
    ((List.range n).foldl (fun (m : BitVec w) i => if c i then m ||| BitVec.ofNat w (1 <<< i) else m) 0).getLsbD j =
        (decide (j < n) && c j) := by
  induction n with
  | zero => simp
  | succ n ih =>
    rw [List.range_succ, List.foldl_append, List.foldl_cons, List.foldl_nil]
    have hb : (BitVec.ofNat w (1 <<< n)).getLsbD j = decide (n = j) := by
      rw [BitVec.getLsbD_ofNat, Nat.one_shiftLeft, Nat.testBit_two_pow]
      simp [hj]
    by_cases hc : c n
    · rw [if_pos hc, BitVec.getLsbD_or, ih, hb]
      by_cases hn : n = j
      · subst hn; simp [hc]
      · simp [hn, show j < n + 1 ↔ j < n by omega]
    · rw [if_neg hc, ih]
      by_cases hn : n = j
      · subst hn; simp [hc]
      · simp [show j < n + 1 ↔ j < n by omega]

theorem maskBytes_getLsbD (d : BitVec 8) {i : Nat} (hi : i < 128) : (State.dropL2.maskBytes d).getLsbD i = d.getLsbD
    (i / 16) := by
  refine (getLsbD_gather (fun i => bit d.toNat (i / 16)) 128 hi).trans ?_
  rw [decide_eq_true hi, Bool.true_and, Integers.bit_eq_testBit, BitVec.getLsbD]

theorem handBack_owned {k dev pia : Nat} {l2 l1 : Bool} (hst : (s.l2Line k).st = .owned) (ha : s.at {}
    (128 * k) = .peer dev pia l2 l1) :
    s.handBack k false = ({ s with
      l2 := put {} s.l2 k {}
      outbox := .writeBack dev pia (State.dropL2.maskBytes (s.l2Line k).dirty) ((List.range 8).map fun q => look .none (s.l2Line k).mark q)
        ((List.range 128).map fun i => look 0 (s.l2Line k).data i) :: s.outbox }).conflict noWarp (memSec (128 * k)) := by
  unfold State.handBack
  simp only [State.dropL2, hst, ha, Bool.false_eq_true, if_false]

theorem recalled_owned {dev ia k : Nat} (hw : s.homeWaits = []) (hh : s.heldAs dev ia = [k]) (hst : (s.l2Line k).st = .owned)
    (hc : s.cmdOwns k = false) : s.recalled dev ia false = s.handBack k false := by
  have hf : [k].filter (fun k => decide ((s.l2Line k).st = .owned)) = [k] := by
    rw [List.filter_cons, if_pos (decide_eq_true hst), List.filter_nil]
  have hk : 128 * k / 128 = k := by omega
  unfold State.recalled
  simp only [hh, hf, List.foldl_cons, List.foldl_nil, State.askHome, hw, List.any_nil, Bool.false_eq_true, if_false,
      State.tryHome,
    if_true, hk, hc]

/-! ## Lines that come in -/

theorem length_filter_put_le {α : Type} [DecidableEq α] (d : α) (m : FMap α) (k : Nat) (v : α) (p : Nat × α → Bool) :
    ((put d m k v).filter p).length ≤ (m.filter p).length + 1 := by
  have hdel (m : FMap α) : ((mapDel m k).filter p).length ≤ (m.filter p).length := by
    induction m with
    | nil => exact Nat.le_refl _
    | cons x m ih =>
      obtain ⟨j, y⟩ := x
      rw [mapDel]
      split
      · rw [List.filter_cons]
        split
        · exact Nat.le_succ_of_le ih
        · exact ih
      · rw [List.filter_cons, List.filter_cons]
        split
        · exact Nat.succ_le_succ ih
        · exact ih
  have hins (m : FMap α) : ((mapIns m k v).filter p).length ≤ (m.filter p).length + 1 := by
    induction m with
    | nil =>
      rw [mapIns, List.filter_cons]
      split <;> simp
    | cons x m ih =>
      obtain ⟨j, y⟩ := x
      rw [mapIns]
      split
      · rw [List.filter_cons]
        split
        · exact Nat.le_refl _
        · exact Nat.le_succ _
      · split
        · rw [List.filter_cons, List.filter_cons]
          split
          · split <;> (simp only [List.length_cons]; omega)
          · split <;> (try simp only [List.length_cons]) <;> omega
        · rw [List.filter_cons, List.filter_cons]
          split
          · exact Nat.succ_le_succ ih
          · exact ih
  unfold put
  split
  · exact Nat.le_succ_of_le (hdel m)
  · exact hins m

/-- A line put where its set holds nothing: nothing has to leave. -/
theorem putL2_room {k : Nat} {l : L2Line} (hi : s.inSet (s.setOf k) = []) (hv : s.versionWays (s.setOf k) = 0) :
    s.putL2 k l = { s with l2 := put {} s.l2 k { l with lock := s.locks k l } } := by
  have hfit : State.setFits { s with l2 := put {} s.l2 k { l with lock := s.locks k l } } (s.setOf k) = true := by
    have hlen := length_filter_put_le {} s.l2 k { l with lock := s.locks k l } fun e => decide (s.setOf e.1 = s.setOf k)
    have h0 : s.l2.filter (fun e => decide (s.setOf e.1 = s.setOf k)) = [] := hi
    rw [h0] at hlen
    have hle : (State.inSet { s with l2 := put {} s.l2 k { l with lock := s.locks k l } } (s.setOf k)).length +
        State.versionWays { s with l2 := put {} s.l2 k { l with lock := s.locks k l } } (s.setOf k) ≤ Config.l2Ways := by
      refine Nat.le_trans (Nat.add_le_add hlen (Nat.le_of_eq hv)) (by decide)
    rw [State.setFits, decide_eq_true hle, Bool.true_or]
  unfold State.putL2
  rw [show 2 * Config.l2Tags = 2 * Config.l2Tags - 1 + 1 by decide, State.fitL2]
  exact if_pos hfit

theorem look_putRun {α : Type} [DecidableEq α] (d : α) (vs : List α) (m : FMap α) (k j : Nat) :
    look d (putRun d m k vs) j = if k ≤ j ∧ j < k + vs.length then nth d vs (j - k) else look d m j := by
  induction vs generalizing m k with
  | nil => rw [putRun, if_neg (by rw [List.length_nil]; omega)]
  | cons v vs ih =>
    rw [putRun, ih, look_put, List.length_cons]
    by_cases hj : j = k
    · subst hj
      rw [if_neg (by omega), if_pos rfl, if_pos (by omega), Nat.sub_self, nth]
    · by_cases hk : k + 1 ≤ j ∧ j < k + 1 + vs.length
      · rw [if_pos hk, if_pos (by omega), show j - k = (j - (k + 1)) + 1 by omega, nth]
      · rw [if_neg hk, if_neg hj, if_neg (by omega)]

theorem nth_eq_getD {α : Type} (d : α) (l : List α) (i : Nat) : nth d l i = l.getD i d := by
  induction l generalizing i with
  | nil => rfl
  | cons x l ih =>
    cases i with
    | zero => rfl
    | succ i => exact ih i

theorem nth_drop {α : Type} (d : α) (l : List α) (n i : Nat) : nth d (l.drop n) i = nth d l (n + i) := by
  induction n generalizing l with
  | zero => rw [List.drop_zero, Nat.zero_add]
  | succ n ih =>
    cases l with
    | nil => rfl
    | cons x l => rw [List.drop_succ_cons, ih, show n + 1 + i = n + i + 1 by omega, nth]

theorem nth_take {α : Type} (d : α) (l : List α) {n i : Nat} (h : i < n) : nth d (l.take n) i = nth d l i := by
  induction n generalizing l i with
  | zero => omega
  | succ n ih =>
    cases l with
    | nil => rfl
    | cons x l =>
      cases i with
      | zero => rfl
      | succ i => rw [List.take_succ_cons, nth, nth, ih l (by omega)]

/-- The first sectors of a peer's line installed. -/
def installed (data : List Byte) (marks : List Origin) (l : L2Line) (n : Nat) : L2Line :=
  (List.range n).foldl (fun (l : L2Line) q => l.putSector q { data := (data.drop (16 * q)).take 16, mark := nth .none marks q } false) l

theorem installed_succ (data : List Byte) (marks : List Origin) (l : L2Line) (n : Nat) : installed data marks l (n + 1) =
    (installed data marks l n).putSector n { data := (data.drop (16 * n)).take 16, mark := nth .none marks n } false := by
  rw [installed, List.range_succ, List.foldl_append]
  rfl

theorem installed_data {data : List Byte} (hd : data.length = 128) (marks : List Origin) (l : L2Line) {n i : Nat} (hn : n ≤ 8)
    (hi : i < 16 * n) (hm : nth .none marks (i / 16) = .none) : look 0 (installed data marks l n).data i = nth 0 data i := by
  induction n with
  | zero => omega
  | succ n ih =>
    have hlen : (if nth Origin.none marks n = .none then (data.drop (16 * n)).take 16 else List.replicate 16 0).length = 16 := by
      split
      · rw [List.length_take, List.length_drop, hd]; omega
      · exact List.length_replicate
    rw [installed_succ, L2Line.putSector]
    dsimp only
    rw [look_putRun, hlen]
    by_cases h : 16 * n ≤ i
    · rw [if_pos ⟨h, by omega⟩, show n = i / 16 by omega, if_pos hm, nth_take _ _ (by omega), nth_drop]
      congr 1
      omega
    · rw [if_neg (by omega)]
      exact ih (by omega) (by omega)

theorem installed_have (data : List Byte) (marks : List Origin) (l : L2Line) (n : Nat) :
    (installed data marks l n).have_ = (List.range n).foldl (fun (m : BitVec 8) q => m ||| (1 <<< q)) l.have_ := by
  induction n with
  | zero => rfl
  | succ n ih =>
    rw [installed_succ, List.range_succ, List.foldl_append, ← ih]
    rfl

theorem installLine_is (req : Nat) (excl install : Bool) (data : List Byte) (marks : List Origin) :
    (installLine req excl install data marks).have_ = 0xFF ∧ (installLine req excl install data marks).dirty = 0 ∧
      (installLine req excl install data marks).st = (if excl then .owned else if install then .shared else .once) ∧
      ∀ i, i < 128 → nth .none marks (i / 16) = .none → data.length = 128 →
        look 0 (installLine req excl install data marks).data i = nth 0 data i :=
  ⟨(installed_have data marks _ 8).trans (show (List.range 8).foldl (fun (m : BitVec 8) q => m |||
      (1 <<< q)) 0 = 0xFF by decide), rfl, rfl,
    fun _ hi hm hd => installed_data hd marks _ (Nat.le_refl 8) hi hm⟩

theorem response_one {r : PeerReq} (hp : s.peerReqs = [r]) :
    s.peerReqs.find? (fun q => decide (q.id = r.id) && decide (q.dev = r.dev)) = some r ∧ s.dropReq r.id =
        { s with peerReqs := [] } := by
  refine ⟨?_, ?_⟩
  · rw [hp, List.find?_cons, decide_eq_true rfl, decide_eq_true rfl]
    rfl
  · rw [State.dropReq, hp, List.filter_cons, if_neg (by simp), List.filter_nil]

/-- Settles O49. -/
theorem peerLines : Obligations.PeerLines := by
  refine ⟨fun s src ia req p hw hr ha h1 h2 he => ?_, fun s src ia req d p hw hr ha h1 h2 ho hd hf => ?_,
    fun s src ia req p hw hr ha h1 h2 he => ?_, fun s src ia req p hw hr ha h1 h2 ho hn hs => ?_,
    fun s src req a wide p old hw hr ha h1 h2 he hl1 hm ho => ?_, fun s src ia mask data p hw hr ha hd hm => ?_,
    fun s src ia mask marks data hw hr => ?_, fun s dev ia => ?_, fun s dev ia keep h => ?_,
    fun s dev ia pia k l2 l1 hw hh hst ha hc => ?_, fun s r data marks install hp hop hi hv => ?_, fun s r c hp hop => ?_⟩
  · rw [readShared_eq, askHome_here (h := reading src req ia false none) hw rfl hr ha, atHome_alone h1 h2 he,
      grantHome_read he rfl rfl]
    rfl
  · rw [readShared_eq, askHome_here (h := reading src req ia false none) hw rfl hr ha, atHome_owned h1 h2 ho hd hf]
    simp only [State.callHolders, hw]
    rfl
  · obtain ⟨ws, hg⟩ := grantHome_excl (p := p) (h := reading src req ia true none) hw rfl rfl
    refine ⟨{ s with
      dir := put {} s.dir (p.ia / 128) { owner := some src }
      outbox := .response src (ia / 128) (s.lineOf p req) :: s.outbox, warps := ws }, ?_, rfl⟩
    rw [readExclusive_eq, askHome_here (h := reading src req ia true none) hw rfl hr ha, atHome_alone h1 h2 he, hg]
    rfl
  · rw [readExclusive_eq, askHome_here (h := reading src req ia true none) hw rfl hr ha,
      atHome_shared h1 h2 ho hn hs rfl rfl]
    simp only [State.callHolders, hw]
    rfl
  · rw [atomicPkt_eq, askHome_here (h := reading src req a.addr false (some
        { req := req, op := .add, wide := wide, signed := false, lanes := [a] }))
      hw rfl hr ha, atHome_alone h1 h2 he, grantHome_add hl1 hm ho rfl]
    rfl
  · have hd' : State.dirEntry { s with dir := put {} s.dir (p.ia / 128) {} } (p.ia / 128) = {} := look_put_same {} s.dir
        (p.ia / 128) {}
    rw [exec_writeBack, execWriteBack, writeBack_home hw hr ha hd hm, serveHome_none]
    exact (writeReady_homeWaits _ p ia noWarp _ hd').trans hw
  · rw [exec_writeBack, execWriteBack, State.takeBack, if_pos hr]
    exact congrArg _ (serveHome_none hw)
  · obtain ⟨ho, hmem, hl⟩ := dropCopies_is (s.heldAs dev ia) s
    refine ⟨_, exec_invalidatePkt dev ia s, ?_, hmem, hl⟩
    exact congrArg (Packet.response dev (ia / 128) { req := ia / 128, ans := .ack } :: ·) ho
  · rw [exec_recallPkt, execRecallPkt, recalled_none h]
    rfl
  · have he : exec (.recallPkt dev ia false) s = .next (s.handBack k false) := by
      rw [exec_recallPkt, execRecallPkt, recalled_owned hw hh hst hc]
    rw [handBack_owned hst ha] at he
    refine ⟨_, _, _, _, he, conflict_outbox _ _ _, ?_, ?_, fun i hi => ⟨?_, ?_⟩⟩
    · rw [conflict_l2Line]
      exact look_put_same {} s.l2 k {}
    · rw [conflict_warps]
    · exact maskBytes_getLsbD _ hi
    · rw [nth_eq_getD, List.getD_eq_getElem?_getD, List.getElem?_map, List.getElem?_range hi]
      rfl
  · obtain ⟨hfind, hdrop⟩ := response_one hp
    obtain ⟨g1, g2, g3, g4⟩ := installLine_is r.id r.excl (install && s.keepsLine r) data marks
    have he : exec (.responsePkt r.dev { req := r.id, ans := .line data marks install }) s =
        .next (({ s with peerReqs := [] }).putL2 r.line (installLine r.id r.excl (install && s.keepsLine r) data marks)) := by
      rw [exec_responsePkt, execResponsePkt, State.response]
      simp only [hfind, hdrop, hop, ne_eq, not_true_eq_false, if_false]
    have hl2 (l : L2Line) : State.l2Line { s with peerReqs := [], l2 := put {} s.l2 r.line l } r.line = l :=
      look_put_same ({} : L2Line) s.l2 r.line l
    rw [putL2_room (s := { s with peerReqs := [] }) hi hv] at he
    refine ⟨_, he, rfl, ?_⟩
    rw [hl2]
    exact ⟨g1, g2, g3, g4⟩
  · obtain ⟨hfind, hdrop⟩ := response_one hp
    rw [exec_responsePkt, execResponsePkt, State.response]
    simp only [hfind, hdrop, hop, ne_eq, not_true_eq_false, if_false]

end Sys2Proof.Proofs.Lines
end

section
/-! The Harp (R381, R417): O50. -/
namespace Sys2Proof.Proofs.Harp
open Sys2Proof Sys2Proof.Machine Sys2Proof.Proofs.Arms

variable {s : State}

theorem postAnswered_is (s : State) (ev : Rec8) (n at_ : Nat) :
    s.postAnswered ev n at_ = { s with cmds := (s.postAnswered ev n at_).cmds } := by
  unfold State.postAnswered
  split
  · rfl
  · rfl

/-- An event as the Harp sends it. -/
def numbered (s : State) (e : Rec8) (at_ : Nat) : Rec8 :=
  { e with w0 := BitVec.ofNat 64 (s.harp.seq + 1), w2 := BitVec.ofNat 64 (max at_ s.harp.atime) }

theorem harpPost_is (s : State) (e : Rec8) (at_ : Nat) : ∃ hs, s.harpPost e at_ = { s with
    harp := { seq := s.harp.seq + 1, atime := max at_ s.harp.atime, held := hs, lastDelivery := max at_ s.harp.atime }
    outbox := .event (numbered s e at_) :: s.outbox } := ⟨_, rfl⟩

theorem bits_harpWord {ty : Nat} (h : ty < 256) : bits (harpWord ty).toNat 63 56 = ty := by
  simp only [bits, harpWord, BitVec.toNat_ofNat]
  omega

theorem bits_lossWord {d : Nat} (h : d < 2 ^ 18) : bits (BitVec.ofNat 64 (d % 2 ^ 18 * 2 ^ 46)).toNat 63 46 = d := by
  simp only [bits, BitVec.toNat_ofNat]
  omega

/-- The post of an endpoint, numbered and sent. -/
theorem postPkt_is (s : State) (e : Rec8) (at_ : Nat) : ∃ hs cs, exec (.postPkt e at_) s = .next { s with
    harp := { seq := s.harp.seq + 1, atime := max at_ s.harp.atime, held := hs, lastDelivery := max at_ s.harp.atime }
    outbox := .event (numbered s { e with w1 := e.w1 &&& ~~~0x2000000000 } at_) :: s.outbox, cmds := cs } := by
  rw [exec_postPkt, execPostPkt]
  dsimp only
  obtain ⟨hs, hp⟩ := harpPost_is s { e with w1 := e.w1 &&& ~~~field 37 37 } at_
  rw [hp]
  split
  · rw [postAnswered_is]
    exact ⟨hs, _, rfl⟩
  · exact ⟨hs, s.cmds, rfl⟩

/-- Settles O50. -/
theorem numbersEvents : Obligations.NumbersEvents := by
  refine ⟨fun s e at_ => ?_, fun s h => ?_, fun s h => ?_, fun s d hd => ?_⟩
  · obtain ⟨hs, cs, he⟩ := postPkt_is s e at_
    exact ⟨_, he, rfl, rfl, rfl, rfl, rfl⟩
  · obtain ⟨hs, hp⟩ := harpPost_is s { w1 := harpWord 0x0E } s.atime
    have he : exec .harpTick s = .next (s.harpPost { w1 := harpWord 0x0E } s.atime) := by rw [exec_harpTick, execHarpTick, if_pos h]
    exact ⟨_, _, he.trans (congrArg _ hp), rfl, rfl, bits_harpWord (by decide), rfl, rfl⟩
  · rw [exec_harpTick, execHarpTick, if_neg (Nat.not_le.2 h)]
  · obtain ⟨hs, hp⟩ := harpPost_is s { w1 := harpWord 6, w3 := BitVec.ofNat 64 (d % 2 ^ 18 * 2 ^ 46) } s.atime
    exact ⟨_, _, (exec_harpLoss d s).trans (congrArg Host.Outcome.next hp), rfl, rfl, bits_harpWord
        (by decide), bits_lossWord hd, rfl, rfl⟩

end Sys2Proof.Proofs.Harp
end

section
/-! The packets of the Lyre (R383, R390 to R392): O51. -/
namespace Sys2Proof.Proofs.LyrePkt
open Sys2Proof Sys2Proof.Machine Sys2Proof.Proofs.Arms

variable {s : State}

/-! ## Fencing and the ring -/

theorem fence_running (h : s.lyre.mode = .running) (r : Nat) : s.fence r = { s with lyre := { s.lyre with
    mode := .rejoining, reason := r, fences := min (s.lyre.fences + 1) 0xFFFF, t := {}, points := [], replay := false
    source := none, tried := [], rejects := 0, top := max s.lyre.top s.lyre.seq.toNat
    locs := s.lyre.t.dev.map fun e => (e.1, e.2.loc) } } := by
  rw [State.fence, if_neg (fun hn => hn.1 h)]

/-- A device fenced by a majority against it (R391). -/
def fenced (s : State) : State := { s with lyre := { s.lyre with
  mode := .rejoining, reason := 1, fences := min (s.lyre.fences + 1) 0xFFFF, t := {}, points := [], replay := false
  source := none, tried := [], rejects := 0, top := max s.lyre.top s.lyre.seq.toNat
  locs := s.lyre.t.dev.map fun e => (e.1, e.2.loc) } }

theorem sourceless_running (h : s.lyre.mode = .running) : s.sourceless = false := by
  rw [State.sourceless, h]
  rfl

theorem eventPkt_ready (hr : s.isReady .lyre = true) (e : Rec8) : exec (.eventPkt e) s = .next (s.takeEvent e) := by
  rw [exec_eventPkt, execEventPkt, if_pos hr]

theorem takeEvent_copy {e : Rec8} (h : evSeq e ≤ s.lyre.seq.toNat ∨ s.stands (evSeq e) = true) : s.takeEvent e = s := by
  rw [State.takeEvent, if_pos h]

theorem takeEvent_stored {e : Rec8} (hm : s.lyre.mode = .running) (hs : s.lyre.seq.toNat < evSeq e) (hn : s.stands
    (evSeq e) = false)
    (hr : evSeq e ≤ s.lyre.seq.toNat + Config.ringSlots) :
    s.takeEvent e = { s with lyre := { s.lyre with ring := put {} s.lyre.ring (evSeq e % Config.ringSlots) e } } := by
  have h1 : ¬ (evSeq e ≤ s.lyre.seq.toNat ∨ s.stands (evSeq e) = true) := by
    rw [hn]; simp; omega
  have h2 := sourceless_running (s := { s with lyre := { s.lyre with ring := put {} s.lyre.ring (evSeq e % Config.ringSlots) e } }) hm
  rw [State.takeEvent, if_neg h1, if_neg (Nat.not_lt.2 hr)]
  dsimp only
  rw [h2]
  rfl

theorem takeEvent_ahead {e : Rec8} (hs : s.lyre.seq.toNat + Config.ringSlots < evSeq e) (hn : s.stands (evSeq e) = false) :
    s.takeEvent e = s.fence 2 := by
  have h1 : ¬ (evSeq e ≤ s.lyre.seq.toNat ∨ s.stands (evSeq e) = true) := by
    rw [hn]; simp; omega
  rw [State.takeEvent, if_neg h1, if_pos hs]

theorem resendPkt_held {src a b : Nat} (h : s.harp.seq < a + s.harp.held.length) :
    exec (.resendPkt src (a, b)) s = .next { s with outbox :=
      ((s.harp.held.filter fun e => decide (a ≤ evSeq e ∧ evSeq e ≤ b)).map (Packet.eventTo src)) ++ s.outbox } := by
  rw [exec_resendPkt, execResendPkt]
  dsimp only
  rw [if_neg (fun hn => absurd hn.1 (by omega))]
  simp only [Bool.decide_and]

theorem missingEvent_asks {n : Nat} (hr : s.isReady .lyre = true) (hm : s.lyre.mode = .running) (hn : s.nextStanding = some n)
    (hs : s.lyre.seq.toNat + 1 < n) :
    exec .missingEventTimeout s = .next { s with outbox := .resend (s.lyre.seq.toNat + 1) (n - 1) :: s.outbox } := by
  have ha : s.applying = true := by rw [State.applying, hr, hm]; rfl
  rw [exec_missingEventTimeout, execMissingEventTimeout]
  simp only [sourceless_running hm, Bool.false_and, Bool.false_eq_true, if_false, hn, ha, hs, and_self, if_true]

/-! ## Reports -/

/-- A state with one report, and one point not judged yet. -/
theorem judge_one {v : Word} {p : Snapshot} (hp : s.lyre.points = [(p, false)])
    (hv : majority (LyreTables.members p.tables) (s.votes p) = some v) :
    s.judge = if v = p.dig then { s with lyre := { s.lyre with points := [(p, true)] } } else s.fence 1 := by
  rw [State.judge, hp]
  simp only [List.foldl_cons, List.foldl_nil, Bool.false_eq_true, if_false, hv]
  split
  · rw [hp]
    simp
  · rfl

theorem reportPkt_takes {src q : Nat} {d : Word} (hr : s.isReady .lyre = true) (hq : q % 16 = 0) (hrep : s.lyre.reports = []) :
    exec (.reportPkt src q d) s = .next (
      let s1 := ({ s with lyre := { s.lyre with reports := [(src, q, d)] } }).judge
      if s1.sourceless then s1.askSource else s1) := by
  have hf : [(src, q, d)].filter (fun r => decide (maxOf (fun r : Nat × Nat × Word => r.2.1) [(src, q,
      d)] < r.2.1 + 256)) = [(src, q, d)] := by
    rw [List.filter_eq_self]
    intro r hr
    rw [List.mem_singleton] at hr
    subst hr
    simp [maxOf]
  rw [exec_reportPkt, execReportPkt, if_pos ⟨hr, hq⟩, State.takeReport, hrep]
  dsimp only
  rw [List.filter_nil, List.nil_append, hf]

/-- A device that looks for a source keeps its reports and stays without tables. -/
theorem askSource_fenced (hr : s.lyre.tried = []) : s.askSource.lyre.reports = s.lyre.reports ∧
    (s.lyre.mode = .rejoining → s.askSource.lyre.mode = .rejoining) ∧ s.askSource.lyre.reason = s.lyre.reason ∧
    s.askSource.lyre.t = s.lyre.t := by
  unfold State.askSource
  split
  · exact ⟨rfl, fun _ => rfl, rfl, rfl⟩
  · rw [if_pos hr]
    exact ⟨rfl, fun h => h, rfl, rfl⟩

/-! ## Snapshots -/

theorem snapreq_answers {src s0 : Nat} {p : Snapshot} (hr : s.isReady .lyre = true) (hm : s.lyre.mode = .running) (hp :
    s.pointFor s0 = some p)
    (hs : ∀ i, i < s.lyre.seq.toNat - p.s0 → s.stands (p.s0 + 1 + i) = true) :
    exec (.snapreq src s0) s = .next { s with outbox :=
      ((List.range (s.lyre.seq.toNat - p.s0)).map fun i => Packet.eventTo src (s.ringAt (p.s0 + 1 + i))).reverse ++
        ((snapPackets src p).reverse ++ s.outbox) } := by
  have hall : (List.range (s.lyre.seq.toNat - p.s0)).all (fun i => s.stands (p.s0 + 1 + i)) = true :=
    List.all_eq_true.2 fun i hi => hs i (List.mem_range.1 hi)
  rw [exec_snapreq, execSnapreq, if_pos ⟨hr, hm⟩, hp]
  dsimp only
  rw [if_pos hall, List.map_map, List.append_assoc]
  rfl

theorem snapPackets_get (src i : Nat) (p : Snapshot) : (snapPackets src p)[i]? =
    if i < 3104 then some (.snap src p (128 * i) (decide (i = 3103))) else none := by
  rw [snapPackets, show snapCount = 3104 from rfl, List.getElem?_map]
  split
  · next h =>
    rw [List.getElem?_range h, Option.map_some]
    congr 2
    exact decide_eq_decide.2 (by omega)
  · next h =>
    rw [List.getElem?_eq_none (by rw [List.length_range]; omega)]
    rfl

/-- A packet of a snapshot reaches the device that asked its sender. -/
theorem snapPkt_part {src i : Nat} {p : Snapshot} (hi : i < 3104) :
    exec (.snapPkt src ⟨p, 128 * i, decide (i = 3103)⟩) s = .next (s.snapPart src p) := by
  have h1 : 128 * i / 128 = i := by omega
  have h2 : decide (i = 3103) = decide (128 * i / 128 + 1 = snapCount) := by
    rw [h1, show snapCount = 3104 from rfl]
    exact decide_eq_decide.2 (by omega)
  rw [exec_snapPkt, execSnapPkt]
  dsimp only
  rw [if_pos ⟨by omega, by rw [h1]; exact hi, h2⟩]

theorem snapPart_last {src : Nat} {p : Snapshot} (hm : s.lyre.mode = .rejoining) (hsrc : s.lyre.source = some src) (hg :
    s.lyre.snapGot = 3103) :
    s.snapPart src p = s.takeSnap src p := by
  rw [State.snapPart, if_neg (by rw [hm, hsrc]; simp), hg, if_neg (by decide)]

theorem takeSnap_confirmed {src : Nat} {p : Snapshot} (hm : s.lyre.mode = .rejoining) (hsrc : s.lyre.source = some src)
    (hv : majority (LyreTables.members p.tables) ((s.lyre.reports.filter fun r => decide (r.2.1 = p.s0) && decide
        (r.1 ≠ s.did)).map
      fun r => r.2.2) = some p.dig)
    (hl : LyreTables.live p.tables = s.zith.live) (hs0 : p.s0 < 2 ^ 64) (hbehind : ∃ r ∈ s.lyre.reports, p.s0 < r.2.1) :
    s.takeSnap src p = { s with lyre := { s.lyre with
      t := p.tables, seq := BitVec.ofNat 64 p.s0, dig := p.dig, replay := true, source := none, points := [(p, true)], snapGot := 0 } } := by
  rw [State.takeSnap, if_neg (by rw [hm, hsrc]; simp), if_pos hv]
  dsimp only
  have hlive (l : Lyre) (ht : l.t = p.tables) : State.newLive { s with lyre := l } = { s with lyre := l } := by
    rw [State.newLive]
    dsimp only
    rw [ht, if_pos hl]
  rw [hlive _ rfl, State.tryResume]
  dsimp only
  rw [if_neg]
  rintro ⟨-, -, hc⟩
  obtain ⟨r, hr, hlt⟩ := hbehind
  rw [State.caughtUp, Bool.and_eq_true, List.all_eq_true] at hc
  have := of_decide_eq_true (hc.2 r hr)
  rw [BitVec.toNat_ofNat, Nat.mod_eq_of_lt hs0] at this
  omega

theorem takeSnap_again {src : Nat} {p : Snapshot} (hm : s.lyre.mode = .rejoining) (hsrc : s.lyre.source = some src)
    (hr : s.lyre.reports = []) (hj : s.lyre.rejects < 2) :
    s.takeSnap src p = { s with
      lyre := { s.lyre with rejects := s.lyre.rejects + 1, snapGot := 0 }, outbox := .snapreq src 0 :: s.outbox } := by
  rw [State.takeSnap, if_neg (by rw [hm, hsrc]; simp), hr]
  dsimp only
  rw [if_neg (fun h => nomatch h), if_pos (by omega)]

/-! ## Readiness -/

/-- The JOIN of a device. -/
theorem join_is {d a b c n : Nat} (hd : d < 2 ^ 18) (ha : a < 256) (hb : b < 2 ^ 13) (hc : c < 2 ^ 16) (hn : n < 2) :
    bits (BitVec.ofNat 64 (7 * 2 ^ 56 + d * 2 ^ 38)).toNat 63 56 = 7 ∧ bits (BitVec.ofNat 64
        (7 * 2 ^ 56 + d * 2 ^ 38)).toNat 55 38 = d ∧
      bits (BitVec.ofNat 64 (d * 2 ^ 46 + a * 2 ^ 38 + b * 2 ^ 25 + c * 2 ^ 9 + n * 2 ^ 8)).toNat 63 46 = d := by
  simp only [bits, BitVec.toNat_ofNat]
  omega

theorem lyreUp_posts (hd : s.did < 2 ^ 18) : ∃ e : Rec8, s.lyreUp.outbox = .post e :: s.outbox ∧ s.posts e 7 ∧
    bits e.w3.toNat 63 46 = s.did := by
  obtain ⟨h1, h2, h3⟩ := join_is (a := 4 * s.readyClusters % 256) (b := s.readyGib % 2 ^ 13) (c := bits s.mgmt.lyrcfg.toNat 15 0)
    (n := Bool.n (bit s.mgmt.lyrcfg.toNat 16)) hd (Nat.mod_lt _ (by decide)) (Nat.mod_lt _ (by decide)) (Nat.mod_lt _ (by decide))
    (by cases bit s.mgmt.lyrcfg.toNat 16 <;> decide)
  exact ⟨_, rfl, ⟨h1, h2⟩, h3⟩

/-- Settles O51. -/
theorem lyrePackets : Obligations.LyrePackets := by
  refine ⟨fun s e hr hm => ⟨fun h => ?_, fun hs hn hl => ?_, fun hs hn => ?_⟩, fun s src a b h => resendPkt_held h,
    fun s n hr hm hn hs => missingEvent_asks hr hm hn hs, fun s src q d v p u hr hq hm hp hrep hu hv => ?_,
    fun s src s0 p hr hm hp hs => snapreq_answers hr hm hp hs, fun src i p => snapPackets_get src i p,
    fun s src i p hm hsrc hi hg => ?_, fun s src i p hm hsrc hi hg hv hl hs0 hb => ?_, fun s src i p hm hsrc hrep hi hg hj => ?_,
    fun s hd => ?_⟩
  · rw [eventPkt_ready hr, takeEvent_copy h]
  · rw [eventPkt_ready hr, takeEvent_stored hm hs hn hl]
  · have he : exec (.eventPkt e) s = .next (s.fence 2) := by rw [eventPkt_ready hr, takeEvent_ahead hs hn]
    rw [fence_running hm] at he
    exact ⟨_, he, rfl, rfl, rfl, rfl, rfl, rfl⟩
  · have he := reportPkt_takes (s := s) (src := src) (d := d) hr hq hrep
    have hpu : u.lyre.points = [(p, false)] := by rw [hu]; exact hp
    have hmu : u.lyre.mode = .running := by rw [hu]; exact hm
    have hru : u.lyre.reports = [(src, q, d)] := by rw [hu]
    rw [← hu, judge_one hpu hv] at he
    dsimp only at he
    by_cases hd : v = p.dig
    · rw [if_pos hd, sourceless_running (s := { u with lyre := { u.lyre with points := [(p, true)] } }) hmu] at he
      exact ⟨_, he, hru, fun _ => ⟨hmu, rfl⟩, fun hn => absurd hd hn⟩
    · rw [if_neg hd, fence_running hmu] at he
      obtain ⟨g1, g2, g3, g4⟩ := askSource_fenced (s := fenced u) rfl
      exact ⟨(fenced u).askSource, he, g1.trans hru, fun h => absurd h hd, fun _ => ⟨g2 rfl, g3, g4⟩⟩
  · rw [snapPkt_part hi, State.snapPart, if_neg (by rw [hm, hsrc]; simp), if_pos (by rw [show snapCount = 3104 from rfl]; omega)]
  · rw [snapPkt_part hi, snapPart_last hm hsrc hg, takeSnap_confirmed hm hsrc hv hl hs0 hb]
  · rw [snapPkt_part hi, snapPart_last hm hsrc hg, takeSnap_again hm hsrc hrep hj]
  · obtain ⟨e, h1, h2, h3⟩ := lyreUp_posts hd
    exact ⟨_, e, exec_lyreReady s, rfl, rfl, Readiness.isReady_iff.2 (Readiness.mem_withReady _ _), h1, h2, h3, rfl, rfl⟩

end Sys2Proof.Proofs.LyrePkt
end

section
/-! Events applied by the Lyre (R382, R383, R385, R389): O52. -/
namespace Sys2Proof.Proofs.Applies
open Sys2Proof Sys2Proof.Machine Sys2Proof.Proofs.Arms

variable {s : State}

/-- The steps that apply an event apply the one of their sort after the last one applied. -/
theorem exec_applies {i : Instr} {ty : Nat → Prop} (h : appliesType i = some ty) (s : State) :
    ∃ f : Nat → Bool, exec i s = .next (s.applyIf f) ∧ ∀ n, f n = true ↔ ty n := by
  cases i <;> simp only [appliesType, Option.some.injEq, reduceCtorEq] at h <;> subst h
  case applyReservedEvent => exact ⟨_, exec_applyReservedEvent s, fun n => by simp⟩
  all_goals exact ⟨_, rfl, fun n => decide_eq_true_iff⟩

theorem applyIf_stays {f : Nat → Bool} (h : s.stands (s.lyre.seq.toNat + 1) = false ∨
    f (evType (s.ringAt (s.lyre.seq.toNat + 1))) = false ∨ s.isReady .lyre = false) : s.applyIf f = s := by
  rw [State.applyIf]
  rw [if_neg]
  simp only [Bool.and_eq_true]
  rintro ⟨⟨ha, hst⟩, hf⟩
  rcases h with h | h | h
  · rw [h] at hst; exact nomatch hst
  · rw [h] at hf; exact nomatch hf
  · rw [State.applying, h] at ha; exact nomatch ha

theorem applyIf_applies {f : Nat → Bool} (hr : s.isReady .lyre = true) (hm : s.lyre.mode = .running)
    (hs : evSeq (s.ringAt (s.lyre.seq.toNat + 1)) = s.lyre.seq.toNat + 1) (hf : f (evType (s.ringAt
        (s.lyre.seq.toNat + 1))) = true) :
    s.applyIf f = s.applyEvent (s.ringAt (s.lyre.seq.toNat + 1)) := by
  have ha : s.applying = true := by rw [State.applying, hr, hm]; rfl
  have hst : s.stands (s.lyre.seq.toNat + 1) = true := by rw [State.stands, hs]; simp
  rw [State.applyIf]
  rw [ha, hst, hf]
  rfl

/-! ## What follows an applied event -/

/-- One command as a pass over the EVPOSTs leaves it. -/
def evpostStep (t : State) (id : Nat) : State :=
  match t.cmd id with
  | some c => (match c.kind with | .evpost _ _ _ _ => t.runEvpost id | _ => t)
  | none => t

theorem runEvposts_eq (s : State) : s.runEvposts = (s.cmds.map (·.id)).foldl evpostStep s := rfl

theorem evpostStep_none (h : s.noPosts) (id : Nat) : evpostStep s id = s := by
  unfold evpostStep
  cases hc : s.cmd id with
  | none => rfl
  | some c =>
    have hk := h c (List.mem_of_find?_eq_some hc)
    dsimp only
    generalize c.kind = k at hk ⊢
    cases k with
    | evpost _ _ _ _ => exact hk.elim
    | _ => rfl

theorem runEvposts_none (h : s.noPosts) : s.runEvposts = s := by
  rw [runEvposts_eq]
  generalize s.cmds.map (·.id) = l
  induction l with
  | nil => rfl
  | cons id l ih => rw [List.foldl_cons, evpostStep_none h, ih]

theorem newLive_same (h : LyreTables.live s.lyre.t = s.zith.live) : s.newLive = s := by
  rw [State.newLive]
  dsimp only
  rw [if_pos h]

theorem comparePoint_between (h : s.lyre.seq.toNat % 16 ≠ 0) : s.comparePoint = s := by
  rw [State.comparePoint]
  dsimp only
  rw [if_pos h]

theorem tryResume_running (h : s.lyre.mode = .running) : s.tryResume = s := by
  rw [State.tryResume]
  dsimp only
  rw [if_neg]
  rintro ⟨hm, -⟩
  rw [h] at hm
  exact nomatch hm

/-- The tables, LYRSEQ and LYRDIG after an event. -/
def folded (s : State) (e : Rec8) : State := { s.count 0x19 with lyre := { s.lyre with
  t := (s.lyre.t.apply e (s.grantKept e)).t, seq := BitVec.ofNat 64 (evSeq e), top := max s.lyre.top (evSeq e)
  dig := foldDigest s.lyre.dig e (movedWord s.didOf (s.lyre.t.apply e (s.grantKept e)).fx) } }

/-- An event that asks nothing here, between two points of comparison, leaves the tables and the digest. -/
theorem applyEvent_folded {e : Rec8} (hm : s.lyre.mode = .running) (h16 : evSeq e % 16 ≠ 0) (hp : s.noPosts)
    (hl : LyreTables.live (s.lyre.t.apply e (s.grantKept e)).t = s.zith.live)
    (hfx : (s.lyre.t.apply e (s.grantKept e)).fx = [] ∨ evSeq e ≤ s.lyre.top) : s.applyEvent e = folded s e := by
  have henact (s1 : State) : (if decide (s.lyre.top < evSeq e) then
      (s.lyre.t.apply e (s.grantKept e)).fx.foldl (fun (t : State) x => t.enact (evTime e) x) s1 else s1) = s1 := by
    rcases hfx with h | h
    · rw [h]
      exact ite_self _
    · rw [decide_eq_false (Nat.not_lt.2 h)]
      rfl
  have hseq : (folded s e).lyre.seq.toNat % 16 ≠ 0 := by
    show (BitVec.ofNat 64 e.w0.toNat).toNat % 16 ≠ 0
    rw [BitVec.ofNat_toNat]
    exact h16
  have hs2 : s.applyEvent e = ((((folded s e).newLive).comparePoint).runEvposts).tryResume := by
    rw [State.applyEvent]
    dsimp only
    rw [henact]
    rfl
  rw [hs2, newLive_same (s := folded s e) hl, comparePoint_between hseq, runEvposts_none (s := folded s e) hp,
    tryResume_running (s := folded s e) hm]

/-! ## The tables -/

theorem act_eq (a : Applying) (e : Rec8) (fb : Bool) :
    (evType e = 3 → a.act e fb = a.block e) ∧ (evType e = 4 → a.act e fb = a.unblock e) ∧ (evType e = 5 →
        a.act e fb = a.fault e) ∧
    (evType e = 9 → a.act e fb = a.grant e fb) ∧ (evType e = 0x0A → a.act e fb = a.reclaim e) ∧
    (evType e = 0x0B → a.act e fb = a.return_ e) := by
  refine ⟨?_, ?_, ?_, ?_, ?_, ?_⟩ <;>
  · intro h
    simp only [Applying.act, h]

theorem cleanEvent_reserved {e : Rec8} (h : evType e = 0 ∨ 0x10 ≤ evType e) : cleanEvent e = false := by
  have hb : bodyBits (evType e) = none := by
    unfold bodyBits
    split
    case h_16 => rfl
    all_goals omega
  rw [cleanEvent, hb]

theorem grant_unkept (a : Applying) (e : Rec8) : (a.grant e false).t = a.t := by
  rw [Applying.grant]
  rw [if_pos (Or.inr (Or.inr (Or.inr (Or.inr (by decide)))))]
  rfl

theorem named_eq {t : LyreTables} {e : Rec8} {lid : Nat} {r : LeaseRow} (hl : bits e.w3.toNat 9 0 = lid) (hr : t.leaseAt lid = r)
    (hg : r.gseq = e.w4.toNat) (hs : r.state = .granted) : t.named e = some (lid, r) := by
  rw [LyreTables.named]
  rw [hl, hr, if_pos ⟨by rw [hs]; decide, hg⟩]

/-- Settles O52. -/
theorem appliesEvents : Obligations.AppliesEvents := by
  refine ⟨fun i s ty e hi hr hm he hs hty h16 hp hl hfx => ?_, fun i s ty hi h => ?_, fun t e fb h => ?_, fun a e h => ?_,
    fun e h => cleanEvent_reserved h, fun a e fb row g hg => ⟨fun h hst => ?_, fun h hst => ?_, fun h => ?_⟩,
    fun a e fb lid r hlt hl hr hg hs => ⟨fun h ho => ?_, fun h ho => ?_⟩⟩
  · obtain ⟨f, hx, hf⟩ := exec_applies hi s
    subst he
    have ht := (hf _).2 hty
    refine ⟨folded s (s.ringAt (s.lyre.seq.toNat + 1)), ?_, rfl, rfl⟩
    rw [hx, applyIf_applies hr hm hs ht, applyEvent_folded hm h16 hp hl hfx]
  · obtain ⟨f, hx, hf⟩ := exec_applies hi s
    rw [hx, applyIf_stays]
    rcases h with h | h | h
    · exact Or.inl h
    · exact Or.inr (Or.inl (Bool.eq_false_iff.2 fun hn => h ((hf _).1 hn)))
    · exact Or.inr (Or.inr h)
  · rw [LyreTables.apply, h]
    rfl
  · rw [(act_eq a e false).2.2.2.1 h, grant_unkept]
  · rw [(act_eq a e fb).1 h, Applying.block, hg]
    exact if_pos hst
  · rw [(act_eq a e fb).2.1 h, Applying.unblock, hg]
    exact if_pos hst
  · rw [(act_eq a e fb).2.2.1 h, Applying.fault, hg]
  · rw [(act_eq a e fb).2.2.2.2.1 h, Applying.reclaim, named_eq hl hr hg hs]
    dsimp only
    rw [if_pos ⟨ho, Or.inl hs⟩, if_pos hs]
    rfl
  · rw [(act_eq a e fb).2.2.2.2.2 h, Applying.return_, named_eq hl hr hg hs]
    exact if_pos ⟨ho, hs⟩

end Sys2Proof.Proofs.Applies
end

section
/-! What the completion of a command leaves (R242, R273). -/
namespace Sys2Proof.Proofs.Finish
open Sys2Proof Sys2Proof.Machine

variable {s : State}

/-- A state that differs from another in its commands, launches, cores, warps and counters alone. -/
def DoneSide (s t : State) : Prop :=
  t = { s with cmds := t.cmds, launches := t.launches, cores := t.cores, warps := t.warps, smp := t.smp }

theorem DoneSide.trans {s t u : State} (h : DoneSide s t) (g : DoneSide t u) : DoneSide s u := by
  unfold DoneSide at *
  rw [g, h]

theorem countCtx_doneSide (s : State) (x n : Nat) : DoneSide s (s.countCtx x n) := by
  unfold State.countCtx
  split
  · rfl
  · rfl

/-- The failure of a command noted with its launch and in its core's log. -/
def failNoted (s : State) (c : Cmd) (err first nfail : Nat) : State :=
  if err = 0 then s else (s.putLaunch c.launch { s.launch c.launch with failed := (s.launch c.launch).failed + 1 }).logCmd c err first nfail

/-- The tag of a command set. -/
def tagDone (s : State) (c : Cmd) (err : Nat) : State :=
  match c.tag with | some g => s.setTag c.core g (decide (err ≠ 0)) | none => s

/-- The counters of a completion raised and its command taken out. -/
def left (s : State) (c : Cmd) : State :=
  { (s.count 0x10).countCtx c.ctx 0x105 with cmds := s.cmds.filter fun e => decide (e.id ≠ c.id) }

theorem finishCmd_eq (s : State) (c : Cmd) (err first nfail : Nat) :
    s.finishCmd c err first nfail = (tagDone (failNoted (left s c) c err first nfail) c err).sweepCore c.core := rfl

theorem left_doneSide (s : State) (c : Cmd) : DoneSide s (left s c) := by
  have h := countCtx_doneSide (s.count 0x10) c.ctx 0x105
  unfold left
  rw [h]
  rfl

theorem failNoted_doneSide (s : State) (c : Cmd) (err first nfail : Nat) : DoneSide s (failNoted s c err first nfail) := by
  unfold failNoted
  split
  · rfl
  · rfl

theorem failNoted_cmds (s : State) (c : Cmd) (err first nfail : Nat) : (failNoted s c err first nfail).cmds = s.cmds := by
  unfold failNoted
  split
  · rfl
  · rfl

theorem tagDone_doneSide (s : State) (c : Cmd) (err : Nat) : DoneSide s (tagDone s c err) := by
  unfold tagDone
  split
  · rfl
  · rfl

theorem tagDone_cmds (s : State) (c : Cmd) (err : Nat) : (tagDone s c err).cmds = s.cmds := by
  unfold tagDone
  split
  · rfl
  · rfl

theorem finishCmd_doneSide (s : State) (c : Cmd) (err first nfail : Nat) : DoneSide s (s.finishCmd c err first nfail) := by
  rw [finishCmd_eq]
  refine (((left_doneSide s c).trans (failNoted_doneSide _ c err first nfail)).trans (tagDone_doneSide _ c err)).trans ?_
  rfl

theorem finishCmd_cmds (s : State) (c : Cmd) (err first nfail : Nat) :
    (s.finishCmd c err first nfail).cmds = s.cmds.filter fun e => decide (e.id ≠ c.id) := by
  rw [finishCmd_eq]
  show (tagDone (failNoted (left s c) c err first nfail) c err).cmds = _
  rw [tagDone_cmds, failNoted_cmds]
  rfl

theorem finishCmd_only {c : Cmd} (h : s.cmds = [c]) (err first nfail : Nat) : (s.finishCmd c err first nfail).cmds = [] := by
  rw [finishCmd_cmds, h, List.filter_cons, if_neg (by simp), List.filter_nil]

theorem setTag_tagSet (s : State) (cid err : Nat) {g : Nat} (hg : g < 64) : (s.setTag cid g (decide
    (err ≠ 0))).tagSet cid g err := by
  have hbit : ((1 <<< g : Nat) : Word).getLsbD g = true := by
    show (BitVec.ofNat 64 (1 <<< g)).getLsbD g = true
    rw [BitVec.getLsbD_ofNat, Nat.one_shiftLeft, Nat.testBit_two_pow]
    simp [hg]
  unfold State.tagSet State.setTag
  dsimp only
  rw [State.core_putCore_same]
  refine ⟨by rw [BitVec.getLsbD_or, hbit, Bool.or_true], ?_⟩
  dsimp only
  split
  · next h => rw [BitVec.getLsbD_or, hbit, Bool.or_true, h]
  · next h =>
    rw [BitVec.getLsbD_and, BitVec.getLsbD_not, hbit]
    simp [Bool.eq_false_iff.2 h]

theorem sweepCore_tagSet {cid g err : Nat} (h : s.tagSet cid g err) : (s.sweepCore cid).tagSet cid g err := by
  have hc : (s.sweepCore cid).core cid = { s.core cid with regions := (s.core cid).regions.filter (s.regionUsed cid) } :=
    State.core_putCore_same s cid _
  unfold State.tagSet
  rw [hc]
  exact h

theorem finishCmd_tagSet (s : State) {c : Cmd} {g : Nat} (ht : c.tag = some g) (hg : g < 64) (err first nfail : Nat) :
    (s.finishCmd c err first nfail).tagSet c.core g err := by
  rw [finishCmd_eq, tagDone, ht]
  exact sweepCore_tagSet (setTag_tagSet _ _ _ hg)

/-- The answer of a command that writes to nothing: it completes. -/
theorem runAnswer_nowhere {c : Cmd} {err : Nat} {ws : List (Nat × Word)} (hc : s.cmd c.id = some c) (hk : c.kind = .answer err ws)
    (hd : c.dst = []) : s.runAnswer c.id = s.finishCmd c err 0 0 := by
  unfold State.runAnswer
  simp only [hc, hk, State.dstFree, State.canWrite, hd, List.foldl_nil]

end Sys2Proof.Proofs.Finish
end

section
/-! Leases granted, refused, filled and copied back (R367 to R371, R408): O53. -/
namespace Sys2Proof.Proofs.Leases
open Sys2Proof Sys2Proof.Machine Sys2Proof.Proofs.Arms Sys2Proof.Proofs.Finish

variable {s : State}

/-! ## The lowest free run (R408) -/

theorem pairwise_insertBy (x : Nat) {l : List Nat} (h : l.Pairwise (· ≤ ·)) : (insertBy id x l).Pairwise (· ≤ ·) := by
  induction l with
  | nil => simp [insertBy]
  | cons y l ih =>
    rw [List.pairwise_cons] at h
    simp only [insertBy, id]
    split
    · next hxy => exact List.pairwise_cons.2 ⟨fun z hz => by
        rcases List.mem_cons.1 hz with rfl | hz
        · exact hxy
        · exact Nat.le_trans hxy (h.1 z hz), List.pairwise_cons.2 h⟩
    · next hxy =>
      refine List.pairwise_cons.2 ⟨fun z hz => ?_, ih h.2⟩
      rcases (Dumps.mem_insertBy id x z l).1 hz with rfl | hz
      · omega
      · exact h.1 z hz

theorem pairwise_sortBy (l : List Nat) : (sortBy id l).Pairwise (· ≤ ·) := by
  induction l with
  | nil => exact List.Pairwise.nil
  | cons x l ih => exact pairwise_insertBy x ih

/-- What a sorted search finds is the least. -/
theorem find_least {l : List Nat} (hl : l.Pairwise (· ≤ ·)) {p : Nat → Bool} {b : Nat} (hb : l.find? p = some b)
    {c : Nat} (hc : c ∈ l)
    (hp : p c = true) : b ≤ c := by
  induction l with
  | nil => exact absurd hc (by simp)
  | cons x l ih =>
    rw [List.pairwise_cons] at hl
    rw [List.find?_cons] at hb
    split at hb
    · cases hb
      rcases List.mem_cons.1 hc with rfl | hc
      · exact Nat.le_refl _
      · exact hl.1 c hc
    · next hx =>
      rcases List.mem_cons.1 hc with rfl | hc
      · rw [hp] at hx; exact nomatch hx
      · exact ih hl.2 hb hc

/-- Whether a run is free in the lending window. -/
def runFree (s : State) (n b : Nat) : Bool :=
  decide (bits s.leng.win.toNat 63 29 ≤ b) && decide (b + n ≤ bits s.leng.win.toNat 63 29 + bits s.leng.win.toNat 19 0) &&
    s.lentRuns.all fun r => decide (b + n ≤ r.1) || decide (r.1 + r.2 ≤ b)

/-- Where a lowest free run may begin: the window's first page, or a page behind what is lent. -/
def runStarts (s : State) : List Nat := sortBy id (bits s.leng.win.toNat 63 29 :: s.lentRuns.map fun r => r.1 + r.2)

theorem lendRun_eq (s : State) (n : Nat) : s.lendRun n = (runStarts s).find? (runFree s n) := rfl

theorem runFree_iff {n b : Nat} : runFree s n b = true ↔ s.lendable b n := by
  simp [runFree, State.lendable, and_assoc]

theorem exists_least {P : Nat → Prop} {c : Nat} (hc : P c) : ∃ b, b ≤ c ∧ P b ∧ ∀ d, d < b → ¬ P d := by
  induction c using Nat.strongRecOn with
  | ind c ih =>
    by_cases h : ∃ d, d < c ∧ P d
    · obtain ⟨d, hd, hp⟩ := h
      obtain ⟨b, hb, hr⟩ := ih d hd hp
      exact ⟨b, Nat.le_trans hb (Nat.le_of_lt hd), hr⟩
    · exact ⟨c, Nat.le_refl c, hc, fun d hd hp => h ⟨d, hd, hp⟩⟩

/-- A free run none of whose pages can come earlier begins where a run may begin. -/
theorem least_start {n c : Nat} (hc : s.lendable c n) : ∃ b ∈ runStarts s, b ≤ c ∧ s.lendable b n := by
  obtain ⟨b, hbc, hl, hleast⟩ := exists_least (P := fun b => s.lendable b n) hc
  refine ⟨b, ?_, hbc, hl⟩
  obtain ⟨h1, h2, h3⟩ := hl
  rw [runStarts, Dumps.mem_sortBy, List.mem_cons, List.mem_map]
  by_cases hf : b = bits s.leng.win.toNat 63 29
  · exact Or.inl hf
  · have hlow : ¬ s.lendable (b - 1) n := hleast _ (by omega)
    have : ∃ r ∈ s.lentRuns, ¬ (b - 1 + n ≤ r.1 ∨ r.1 + r.2 ≤ b - 1) := by
      refine Classical.byContradiction fun hno => hlow ⟨by omega, by omega, fun r hr => ?_⟩
      exact Classical.byContradiction fun hr' => hno ⟨r, hr, hr'⟩
    obtain ⟨r, hr, hno⟩ := this
    exact Or.inr ⟨r, hr, by have := h3 r hr; omega⟩

theorem lendRun_some {n b : Nat} (h : s.lendRun n = some b) : s.lendable b n ∧ ∀ c, s.lendable c n → b ≤ c := by
  rw [lendRun_eq] at h
  refine ⟨runFree_iff.1 (List.find?_some h), fun c hc => ?_⟩
  obtain ⟨d, hd, hdc, hl⟩ := least_start hc
  exact Nat.le_trans (find_least (pairwise_sortBy _) h hd (runFree_iff.2 hl)) hdc

theorem lendRun_none {n : Nat} (h : s.lendRun n = none) (c : Nat) : ¬ s.lendable c n := by
  intro hc
  obtain ⟨d, hd, -, hl⟩ := least_start hc
  rw [lendRun_eq, List.find?_eq_none] at h
  exact h d hd (runFree_iff.2 hl)

/-! ## Requests -/

theorem leaseRequest_refused {src tag bound n term : Nat} {f b : Word} (h :
    s.isReady .lease = false ∨ n = 0 ∨ s.lendRun n = none) :
    s.leaseRequest src tag bound n term f b = s.refuseLease src tag := by
  unfold State.leaseRequest
  by_cases hc : s.isReady .lease = true ∧ n ≠ 0
  · rcases h with h | h | h
    · rw [h] at hc; exact nomatch hc.1
    · exact absurd h hc.2
    · rw [if_pos hc, h]
  · rw [if_neg hc]

theorem post_posting (h : s.posting = true) (ev : Rec8) : s.post ev = { s with outbox := .post ev :: s.outbox } := by
  rw [State.post, if_pos h]

theorem event_posts (s : State) {ty : Nat} (ht : ty < 256) (hd : s.did < 2 ^ 18) (w3 w4 : Nat) (w5 w6 w7 : Word) :
    s.posts (s.event ty w3 w4 w5 w6 w7) ty := by
  unfold State.posts evType evOrigin State.event
  simp only [bits, BitVec.toNat_ofNat]
  omega

theorem grantWord_fields {src bound n : Nat} (hs : src < 2 ^ 18) (hb : bound < 64) (hn : n < 2 ^ 20) :
    bits (BitVec.ofNat 64 (src * 2 ^ 46 + bound % 64 * 2 ^ 40 + n % 2 ^ 20 * 2 ^ 20)).toNat 63 46 = src ∧
    bits (BitVec.ofNat 64 (src * 2 ^ 46 + bound % 64 * 2 ^ 40 + n % 2 ^ 20 * 2 ^ 20)).toNat 45 40 = bound ∧
    bits (BitVec.ofNat 64 (src * 2 ^ 46 + bound % 64 * 2 ^ 40 + n % 2 ^ 20 * 2 ^ 20)).toNat 39 20 = n := by
  simp only [bits, BitVec.toNat_ofNat]
  omega

/-- The GRANT of a run. -/
def grantOf (s : State) (src r bound n term : Nat) (f b : Word) : Rec8 :=
  s.event 9 (src * 2 ^ 46 + bound % 64 * 2 ^ 40 + n % 2 ^ 20 * 2 ^ 20) (r * 2 ^ 29) (BitVec.ofNat 64 (s.atime + term)) f
    (BitVec.ofNat 64 (bits b.toNat 55 21))

theorem leaseRequest_granted {src tag bound n term r : Nat} {f b : Word} (hr : s.isReady .lease = true) (hn : 0 < n)
    (hl : s.lendRun n = some r) (hp : s.posting = true) :
    s.leaseRequest src tag bound n term f b = { s with
      outbox := .post (grantOf s src r bound n term f b) :: s.outbox, leng := { s.leng with grants := s.leng.grants ++ [(src, r, n)] } } := by
  unfold State.leaseRequest
  rw [if_pos ⟨hr, by omega⟩, hl]
  exact post_posting (s := { s with leng := { s.leng with grants := s.leng.grants ++ [(src, r, n)] } }) hp _

/-- A command refused, about to answer. -/
def refused (c : Cmd) : Cmd := { c with kind := .answer 9 [(c.rec_.toNat + 0x30, 0), (c.rec_.toNat + 0x38, 0)] }

/-- Whether a command is the lease request of a tag. -/
def asks (tag : Nat) (c : Cmd) : Bool := match c.kind with | .leasereq t _ _ _ _ _ => decide (t = tag) | _ => false

theorem execLeasenak_eq (tag : Nat) (s : State) : exec (.leasenak tag) s =
    .next (match s.cmds.find? (asks tag) with | some c => s.answerLease c 0 0 false | none => s) := rfl

theorem leasenak_eq {c : Cmd} {tag l b n f x : Nat} (ho : s.only c) (hk : c.kind = .leasereq tag l b n f x) :
    exec (.leasenak tag) s = .next ({ s with cmds := [refused c] }.runAnswer c.id) := by
  have ha : asks tag c = true := by
    unfold asks
    rw [hk]
    exact decide_eq_true rfl
  have hf : s.cmds.find? (asks tag) = some c := by
    rw [show s.cmds = [c] from ho, List.find?_cons, ha]
  have hput (d : Cmd) (hd : d.id = c.id) : s.putCmd d = { s with cmds := [d] } := by
    rw [State.putCmd, show s.cmds = [c] from ho, List.map_cons, List.map_nil, if_pos hd.symm]
  have hans : s.answerLease c 0 0 false = (s.putCmd (refused c)).runAnswer c.id := rfl
  rw [execLeasenak_eq, hf]
  dsimp only
  rw [hans, hput (refused c) rfl]

/-! ## Chunks -/

theorem fillChunk_inside {lid : Nat} {m : LeaseMove} {u : State} {ls : List (List Byte × List Origin)} (hm : s.move lid = m)
    (h1 : m.row.state ≠ .free) (h2 : m.closing = false) (h3 : m.page < m.row.npages) (h4 : s.isReady .lease = true) (h5 :
        0 < m.chunk)
    (h6 : m.chunk < 511) (hc : s.chunkUnder ((m.row.bbase + m.page) * 2 ^ 21 + 4096 * m.chunk) m.fb = (u, some ls)) :
    s.fillChunk lid = ((u.sendChunk m.row.lender ((m.row.lbase + m.page) * 2 ^ 21 + 4096 * m.chunk) ls).purge
      ((m.row.bbase + m.page) * 2 ^ 21 + 4096 * m.chunk) 4096).putMove lid { m with chunk := m.chunk + 1 } := by
  have hgo : ¬ (m.row.state = .free ∨ m.closing = true ∨ m.row.npages ≤ m.page ∨ ¬ s.isReady .lease = true) := by
    rw [h2, h4]
    simp [h1]
    omega
  unfold State.fillChunk
  simp only [hm, if_neg hgo, if_neg (show ¬ m.chunk = 0 by omega), if_neg (show ¬ m.chunk = 511 by omega), hc, Bool.not_true,
    Bool.false_eq_true, if_false]

theorem fillChunk_idle {lid : Nat} (h : (s.move lid).closing = true ∨ s.isReady .lease = false) : s.fillChunk lid = s := by
  unfold State.fillChunk
  dsimp only
  rw [if_pos]
  rcases h with h | h
  · exact Or.inr (Or.inl h)
  · exact Or.inr (Or.inr (Or.inr (by rw [h]; decide)))

theorem backChunk_goes {m : LeaseMove} (h1 : m.row.state ≠ .free) (h2 : m.closing = true) (h3 : m.posted = false)
    (h4 : s.isReady .lease = true) :
    ¬ (m.row.state = .free ∨ ¬ m.closing = true ∨ m.posted = true ∨ ¬ s.isReady .lease = true) := by
  rw [h2, h3, h4]
  simp [h1]

theorem find_first {p : Nat → Bool} {n c : Nat} (hc : c < n) (hp : p c = true) (hl : ∀ k, k < c → p k = false) :
    (List.range n).find? p = some c := by
  obtain ⟨xs, hsplit⟩ := Jumps.range_split hc
  have hnone : (List.range c).find? p = none := List.find?_eq_none.2 fun k hk => by
    rw [hl k (List.mem_range.1 hk)]
    decide
  rw [hsplit, List.find?_append, hnone, Option.none_or, List.find?_cons, hp]

/-- The first chunk of a page that has not been copied back. -/
def nextChunk (m : LeaseMove) : Option Nat := (List.range 512).find? fun c => !m.copied.contains c

theorem nextChunk_eq {m : LeaseMove} {c : Nat} (h7 : c < 512) (h8 : c ∉ m.copied) (h9 : ∀ k, k < c → k ∈ m.copied) :
    nextChunk m = some c :=
  find_first h7 (by simpa using h8) fun k hk => by simpa using h9 k hk

theorem backChunk_done {lid : Nat} {m : LeaseMove} (d : List Nat) (hm : s.move lid = m)
    (hgo : ¬ (m.row.state = .free ∨ ¬ m.closing = true ∨ m.posted = true ∨ ¬ s.isReady .lease = true)) (h : m.backPages ≤ m.cur) :
    s.backChunk lid d = (s.post (s.event 0x0C lid m.row.gseq 0 0 0)).putMove lid { m with posted := true } := by
  unfold State.backChunk
  extract_lets m' page
  have hm' : m' = m := hm
  clear_value page m'
  subst hm'
  rw [if_neg hgo, if_pos h]

/-- A chunk copied back once its lines are here. The reading of a chunk stands as a variable while the step is unfolded, so
that nothing evaluates it. -/
theorem backChunk_copies {lid c : Nat} {m : LeaseMove} {u : State} {ls : List (List Byte × List Origin)} (d : List Nat)
    (hm : s.move lid = m)
    (hgo : ¬ (m.row.state = .free ∨ ¬ m.closing = true ∨ m.posted = true ∨ ¬ s.isReady .lease = true)) (h5 : m.cur < m.backPages)
    (h6 : m.begun = true) (hn : nextChunk m = some c)
    (hc : s.chunkUnder ((m.row.bbase + m.cur) * 2 ^ 21 + 4096 * c) (m.lent m.cur m.cfb) = (u, some ls)) :
    s.backChunk lid d = (({ u with l2 := u.l2.filter fun e =>
      !(lineIn ((m.row.bbase + m.cur) * 2 ^ 21 + 4096 * c) 4096 e.1) }).storeChunk
        ((m.row.bbase + m.cur) * 2 ^ 21 + 4096 * c) m.cfb ls).putMove lid { m with copied := m.copied ++ [c] } := by
  unfold nextChunk at hn
  obtain ⟨read, hread⟩ : ∃ f, f = s.chunkUnder := ⟨_, rfl⟩
  unfold State.backChunk
  extract_lets m' page part clean
  have hm' : m' = m := hm
  have hp : page = m.row.bbase + m.cur := congrArg (fun x : LeaseMove => x.row.bbase + x.cur) hm'
  clear_value clean part page m'
  subst hm' hp
  rw [← hread] at hc ⊢
  rw [if_neg hgo, if_neg (Nat.not_le.2 h5), h6, if_neg (by decide), hn]
  dsimp only
  rw [hc]

theorem leaseDeadline_due {lid : Nat} (h1 : (s.leaseRow lid).state = .reclaiming) (h2 : (s.leaseRow lid).lender = s.did)
    (h3 : (s.leaseRow lid).deadline ≤ s.atime) :
    exec (.leaseDeadline lid) s = .next (s.post (s.event 0x0D lid (s.leaseRow lid).gseq 0 0 0)) := by
  rw [exec_leaseDeadline, execLeaseDeadline, if_pos ⟨h1, h2, h3⟩]

theorem leaseDeadline_early {lid : Nat} (h : s.atime < (s.leaseRow lid).deadline) : exec (.leaseDeadline lid) s = .next s := by
  rw [exec_leaseDeadline, execLeaseDeadline, if_neg (fun hn => absurd hn.2.2 (by omega))]

theorem grantOf_w3 (s : State) (src r bound n term : Nat) (f b : Word) : (grantOf s src r bound n term f b).w3 =
    BitVec.ofNat 64 (src * 2 ^ 46 + bound % 64 * 2 ^ 40 + n % 2 ^ 20 * 2 ^ 20) := rfl

theorem leasereq_grants {src tag bound n term r : Nat} {f b : Word} (hr : s.isReady .lease = true) (hn : 0 < n)
    (hl : s.lendRun n = some r) (hp : s.posting = true) (hd : s.did < 2 ^ 18) :
    ∃ (t : State) (e : Rec8), exec (.leasereqPacket src tag bound n term f b) s = .next t ∧
      t = { s with outbox := .post e :: s.outbox, leng := { s.leng with grants := s.leng.grants ++ [(src, r, n)] } } ∧
      s.posts e 9 ∧ (src < 2 ^ 18 → bound < 64 → n < 2 ^ 20 → bits e.w3.toNat 63 46 = src ∧ bits e.w3.toNat 45 40 = bound ∧
        bits e.w3.toNat 39 20 = n) ∧ e.w5 = BitVec.ofNat 64 (s.atime + term) ∧ e.w6 = f := by
  refine ⟨_, grantOf s src r bound n term f b, (exec_leasereqPacket ..).trans (congrArg Host.Outcome.next
      (leaseRequest_granted hr hn hl hp)),
    rfl, event_posts s (by decide) hd _ _ _ _ _, ?_, rfl, rfl⟩
  rw [grantOf_w3]
  exact grantWord_fields

theorem leasenak_ends {c : Cmd} {tag l b n f x : Nat} (ho : s.only c) (hk : c.kind = .leasereq tag l b n f x) (hds : c.dst = []) :
    ∃ t, exec (.leasenak tag) s = .next t ∧ t.cmds = [] ∧ ∀ g, c.tag = some g → g < 64 → t.tagSet c.core g 9 := by
  have hcmd : State.cmd { s with cmds := [refused c] } c.id = some (refused c) := by
    rw [State.cmd, List.find?_cons, decide_eq_true (show (refused c).id = c.id from rfl)]
  have hrun : ({ s with cmds := [refused c] } : State).runAnswer c.id = ({ s with cmds := [refused c] } :
      State).finishCmd (refused c) 9 0 0 :=
    runAnswer_nowhere (c := refused c) hcmd rfl hds
  exact ⟨_, (leasenak_eq ho hk).trans (congrArg Host.Outcome.next hrun), finishCmd_only rfl _ _ _, fun g ht hg =>
    finishCmd_tagSet _ (c := refused c) ht hg 9 0 0⟩

theorem leaseDeadline_posts {lid : Nat} (h1 : (s.leaseRow lid).state = .reclaiming) (h2 : (s.leaseRow lid).lender = s.did)
    (h3 : (s.leaseRow lid).deadline ≤ s.atime) (hp : s.posting = true) (hd : s.did < 2 ^ 18) :
    ∃ e, exec (.leaseDeadline lid) s = .next { s with outbox := .post e :: s.outbox } ∧ s.posts e 0x0D ∧
      e.w3 = BitVec.ofNat 64 lid ∧ e.w4 = BitVec.ofNat 64 (s.leaseRow lid).gseq :=
  ⟨_, (leaseDeadline_due h1 h2 h3).trans (congrArg Host.Outcome.next (post_posting hp _)), event_posts s
      (by decide) hd _ _ _ _ _, rfl, rfl⟩

theorem copyback_posts {lid : Nat} {m : LeaseMove} (d : List Nat) (hm : s.move lid = m)
    (hgo : ¬ (m.row.state = .free ∨ ¬ m.closing = true ∨ m.posted = true ∨ ¬ s.isReady .lease = true)) (h5 : m.backPages ≤ m.cur)
    (hp : s.posting = true) (hd : s.did < 2 ^ 18) :
    ∃ e, exec (.leaseCopybackChunk lid d) s = .next (({ s with outbox := .post e :: s.outbox }).putMove lid
      { m with posted := true }) ∧ s.posts e 0x0C := by
  refine ⟨s.event 0x0C lid m.row.gseq 0 0 0, ?_, event_posts s (by decide) hd _ _ _ _ _⟩
  rw [exec_leaseCopybackChunk, execLeaseCopybackChunk, backChunk_done d hm hgo h5, post_posting hp]

/-- Settles O53. -/
theorem leaseSteps : Obligations.LeaseSteps := by
  refine ⟨fun s n b _ => ⟨lendRun_some, lendRun_none⟩, fun s src tag bound n term f b h => ?_,
    fun s src tag bound n term r f b hr hn hl hp hd => ?_, fun s c tag l b n f x ho hk hds => ?_, fun s lid h1 h2 h3 hp hd => ?_,
    fun s lid h => ?_, fun s u lid m ls hm h1 h2 h3 h4 h5 h6 hc => ?_, fun s lid h => ?_,
        fun s lid m d hm h1 h2 h3 h4 h5 hp hd => ?_,
    fun s u lid c m d ls hm h1 h2 h3 h4 h5 h6 h7 h8 h9 hc => ?_⟩
  · rw [exec_leasereqPacket, execLeasereqPacket, leaseRequest_refused h]
    rfl
  · exact leasereq_grants hr hn hl hp hd
  · exact ⟨leasenak_eq ho hk, leasenak_ends ho hk hds⟩
  · exact leaseDeadline_posts h1 h2 h3 hp hd
  · exact leaseDeadline_early h
  · rw [exec_leaseFillChunk, execLeaseFillChunk, fillChunk_inside hm h1 h2 h3 h4 h5 h6 hc]
  · rw [exec_leaseFillChunk, execLeaseFillChunk, fillChunk_idle h]
  · exact copyback_posts d hm (backChunk_goes h1 h2 h3 h4) h5 hp hd
  · exact (exec_leaseCopybackChunk lid d s).trans (congrArg Host.Outcome.next
      (backChunk_copies d hm (backChunk_goes h1 h2 h3 h4) h5 h6 (nextChunk_eq h7 h8 h9) hc))

end Sys2Proof.Proofs.Leases
end

section
/-! Interests and named tiles (R375 to R379, R411): O54. -/
namespace Sys2Proof.Proofs.Names
open Sys2Proof Sys2Proof.Machine Sys2Proof.Proofs.Arms Sys2Proof.Proofs.Finish

variable {s : State}

/-! ## Pending interests -/

theorem pitOf_empty (h : s.zith.pit = []) (n : TileName) : s.pitOf n = none := by
  rw [State.pitOf, h]
  rfl

/-- The first entry of an empty table. -/
theorem putPit_first (h : s.zith.pit = []) {e : PitEntry} (he : (e.waiters.isEmpty && e.remote.isEmpty) = false) :
    s.putPit e = { s with zith := { s.zith with pit := [e] } } := by
  unfold State.putPit
  simp only [h, List.any_nil, Bool.false_eq_true, if_false, List.nil_append, List.filter_cons, List.filter_nil, he,
      Bool.not_false, if_true]

theorem pitRoom_empty (h : s.zith.pit = []) (mine : Bool) : s.pitRoom mine = true := by
  unfold State.pitRoom
  simp only [h, List.filter_nil, List.length_nil]
  cases mine <;> rfl

theorem interestPacket_kept {src size dl : Nat} {n : TileName} (ht : s.tileOf n = none) (hp : s.zith.pit = []) :
    s.interestPacket src n size dl = { s with zith := { s.zith with pit := [{ name := n, remote := [(src, dl, size)] }] } } := by
  unfold State.interestPacket
  simp only [ht, pitOf_empty hp, pitRoom_empty hp, if_true]
  exact putPit_first hp rfl

/-! ## Tiles that arrive -/

theorem evictTiles_none (p : TileName → Bool) (l : List Tile) : evictTiles p l 0 = (l, 0) := by
  cases l with
  | nil => rfl
  | cons t l => rw [evictTiles, if_pos rfl]

/-- A tile that the store has room for. -/
theorem storeTile_room {t : Tile} (hn : ∀ x ∈ s.zith.store, x.name ≠ t.name) (hr : sumOf
    (·.size) s.zith.store + t.size ≤ Config.tileLines) :
    s.storeTile t = ({ s with zith := { s.zith with store := s.zith.store ++ [t] } }, true) := by
  have hf : s.zith.store.filter (fun x => decide (x.name ≠ t.name)) = s.zith.store :=
    List.filter_eq_self.2 fun x hx => decide_eq_true (hn x hx)
  unfold State.storeTile
  simp only [hf, Nat.sub_eq_zero_of_le hr, evictTiles_none, if_true]

/-- A tile at a device that is not its home and where nothing waits for it. -/
theorem tileHere_stored {t : Tile} {src : Nat} (hp : s.zith.pit = []) (hn : ∀ x ∈ s.zith.store, x.name ≠ t.name)
    (hr : sumOf (·.size) s.zith.store + t.size ≤ Config.tileLines) (hh : t.home = false) :
    s.tileHere t src = { s with zith := { s.zith with store := s.zith.store ++ [t] } } := by
  have he : s.expireName t.name = s := by
    rw [State.expireName, pitOf_empty hp]
  have hl : State.serveLocal { s with zith := { s.zith with store := s.zith.store ++ [t] } } t =
      { s with zith := { s.zith with store := s.zith.store ++ [t] } } := by
    rw [State.serveLocal, pitOf_empty (s := { s with zith := { s.zith with store := s.zith.store ++ [t] } }) hp]
  unfold State.tileHere
  simp only [he, storeTile_room hn hr, hl, hh, if_true, Bool.not_false]

theorem tilePkt_ready {src size idx : Nat} {n : TileName} {ms : List Origin} {d : List Byte} (hr : s.zithReady = true)
    (hi : idx < size) :
    exec (.tilePkt src n size idx ms d) s = .next (s.tileLine src n size idx ms d) := by
  rw [exec_tilePkt, execTilePkt, hr, decide_eq_true hi]
  rfl

theorem length_put_nil_le {α : Type} [DecidableEq α] (d : α) (k : Nat) (v : α) : (put d [] k v).length ≤ 1 := by
  unfold put
  split
  · exact Nat.zero_le _
  · exact Nat.le_refl _

theorem tileLine_gathered {src size idx : Nat} {n : TileName} {ms : List Origin} {d : List Byte} (ha :
    s.zith.arriving = []) (hs : 1 < size) :
    s.tileLine src n size idx ms d = { s with zith := { s.zith with
      arriving := [{ name := n, src := src, size := size, lines := put ([], []) [] idx (d, ms) }] } } := by
  have hl : ¬ (put (([], []) : List Byte × List Origin) [] idx (d, ms)).length = size := by
    have := length_put_nil_le (([], []) : List Byte × List Origin) idx (d, ms)
    omega
  unfold State.tileLine
  simp only [ha, List.find?_nil, Option.getD_none, List.filter_nil, if_neg hl, List.nil_append]

theorem tileLine_whole {src : Nat} {n : TileName} {ms : List Origin} {d : List Byte} (ha : s.zith.arriving = []) (hd : d ≠ []) :
    s.tileLine src n 1 0 ms d = s.tileArrived { name := n, size := 1, home := false, lines := [d], marks := [ms] } src := by
  have hp : put (([], []) : List Byte × List Origin) [] 0 (d, ms) = [(0, (d, ms))] := by
    rw [put, if_neg (fun h => hd (congrArg Prod.fst h))]
    rfl
  have hs : ({ s with zith := { s.zith with arriving := [] } } : State) = s := by rw [← ha]
  unfold State.tileLine
  simp only [ha, List.find?_nil, Option.getD_none, List.filter_nil, hp, List.length_cons, List.length_nil, List.map_cons,
      List.map_nil,
    Nat.zero_add, if_true, hs]

theorem tileArrived_elsewhere {t : Tile} {src : Nat} (h : s.homeOf t.name ≠ s.did) : s.tileArrived t src = s.tileHere t src := by
  unfold State.tileArrived
  simp only [if_neg h]

/-! ## Interests held and expired -/

theorem cmd_only {c : Cmd} (h : s.only c) : s.cmd c.id = some c := by
  rw [State.cmd, show s.cmds = [c] from h, List.find?_cons, decide_eq_true rfl]

theorem interestRetry_home {c : Cmd} {n : TileName} {size dl : Nat} (ho : s.only c) (hk : c.kind = .interest n size dl)
    (hr : s.zithReady = true) (hw : s.zith.waitTable = [c.id]) (hd : s.atime < dl) (hp : s.zith.pit = []) (ht : s.tileOf n = none)
    (hh : s.homeOf n = s.did) :
    s.retryInterest c.id = { s with zith := { s.zith with waitTable := [], pit := [{ name := n, waiters := [(c.id, dl)] }] } } := by
  have hb : s.heldBefore c.id n = false := by
    rw [State.heldBefore, hw, List.any_cons, decide_eq_false (Nat.lt_irrefl _), Bool.false_and, List.any_nil]
    rfl
  have hf : [c.id].filter (fun j => decide (j ≠ c.id)) = [] := by
    rw [List.filter_cons, if_neg (by simp), List.filter_nil]
  have hcont : [c.id].contains c.id = true := by simp
  have htake : State.takeInterest { s with zith := { s.zith with waitTable := [] } } c.id false =
      { s with zith := { s.zith with waitTable := [], pit := [{ name := n, waiters := [(c.id, dl)] }] } } := by
    have h1 : State.cmd { s with zith := { s.zith with waitTable := [] } } c.id = some c := cmd_only ho
    have h2 : State.zithReady { s with zith := { s.zith with waitTable := [] } } = true := hr
    have h3 : State.tileOf { s with zith := { s.zith with waitTable := [] } } n = none := ht
    have h4 : State.pitOf { s with zith := { s.zith with waitTable := [] } } n = none := pitOf_empty hp n
    have h5 : State.homeOf { s with zith := { s.zith with waitTable := [] } } n = s.did := hh
    have h6 : State.pitRoom { s with zith := { s.zith with waitTable := [] } } true = true := pitRoom_empty hp true
    unfold State.takeInterest
    simp only [h1, hk, h2, h3, h4, h5, h6, Bool.not_true, Bool.false_eq_true, if_false, if_true, ne_eq,
        not_true_eq_false, false_and]
    exact putPit_first (s := { s with zith := { s.zith with waitTable := [] } }) hp rfl
  unfold State.retryInterest
  simp only [cmd_only ho, hk, hw, hcont, hb, decide_eq_false (Nat.not_le.2 hd), Bool.not_true, Bool.or_self,
      Bool.false_eq_true, if_false, hf]
  exact htake

/-- An interest without lines to write fails at once. -/
theorem failInterest_nowhere {c : Cmd} (hd : c.dst = []) : s.failInterest c 0x0B = ((s.count 0x18).finishCmd c 0x0B 0 0,
    true) := by
  unfold State.failInterest
  simp only [State.dstFree, State.writeDst, hd, List.foldl_nil, List.zipIdx_nil, if_true]

/-- The state with an empty table of waiting interests. -/
def untabled (s : State) : State := { s with zith := { s.zith with waitTable := [] } }

theorem untabled_only {c : Cmd} (h : s.only c) : (untabled s).cmds = [c] := h

/-- The state in which an expired interest has failed. -/
def expired (s : State) (c : Cmd) : State := (s.count 0x18).finishCmd c 0x0B 0 0

theorem expired_is {c : Cmd} (h : s.cmds = [c]) : (expired s c).cmds = [] ∧ (expired s c).zith.waitTable = s.zith.waitTable ∧
    (expired s c).mem = s.mem ∧ ∀ g, c.tag = some g → g < 64 → (expired s c).tagSet c.core g 0x0B := by
  have hside : DoneSide (s.count 0x18) (expired s c) := finishCmd_doneSide _ c 0x0B 0 0
  have hcmds : (s.count 0x18).cmds = [c] := h
  refine ⟨finishCmd_only hcmds _ _ _, ?_, ?_, fun g ht hg => finishCmd_tagSet _ ht hg _ _ _⟩
  · rw [hside]
    rfl
  · rw [hside]
    rfl

theorem expireWaiter_held {c : Cmd} {n : TileName} {size dl : Nat} (ho : s.only c) (hk : c.kind = .interest n size dl)
    (he : c.err = 0)
    (hsrc : c.src = []) (hdst : c.dst = []) (hw : s.zith.waitTable = [c.id]) (hd : dl ≤ s.atime) (ht : s.tileOf n = none) :
    s.expireWaiter c.id = expired (untabled s) c := by
  have hf : [c.id].filter (fun j => decide (j ≠ c.id)) = [] := by
    rw [List.filter_cons, if_neg (by simp), List.filter_nil]
  have hcont : [c.id].contains c.id = true := by simp
  have hno : ¬ (s.atime < dl ∨ (none : Option Tile).isSome = true ∨ c.err ≠ 0 ∨ c.src ≠ []) := by
    rw [he, hsrc]
    simp
    omega
  unfold State.expireWaiter
  simp only [cmd_only ho, hk, ht, if_neg hno, hw, hcont, if_true, hf, failInterest_nowhere hdst]
  rfl

theorem expireWaiter_early {c : Cmd} {n : TileName} {size dl : Nat} (ho : s.only c) (hk : c.kind = .interest n size dl)
    (hd : s.atime < dl) :
    s.expireWaiter c.id = s := by
  unfold State.expireWaiter
  simp only [cmd_only ho, hk]
  rw [if_pos (Or.inl hd)]

/-! ## Word notifications (R411) -/

theorem notifyPkt_reads {ia k dev x id sc : Nat} {va thr : Word} {acq : Bool} {d : Opnd} {m : W32} {l2 l1 : Bool}
    (hw : (s.warp k).wait = .sigwait va thr sc acq d m id) (hx : (s.ctx (s.warp k).ctx).translate .load va = .ok x)
    (ha : s.at .load x = .peer dev ia l2 l1) : exec (.notifyPkt ia k) s = .next (s.resolveSig k) := by
  rw [exec_notifyPkt, execNotifyPkt]
  simp only [hw, hx, ha, if_true]

theorem resolveSig_met {k id sc v : Nat} {va thr : Word} {p : BitVec 8} {m : W32} {u : State} (hr : (s.warp k).status = .run)
    (hw : (s.warp k).wait = .sigwait va thr sc false (.p p) m id) (hf : s.freshRead k id 8 m va = .val u v) (hv : thr.toNat ≤ v) :
    s.resolveSig k = u.asWarp k fun t => (t.setW (({ u.warp k with wait := .none, ready0 := u.clk } : Warp).setStatus m
        (.p p) true)).advance 1 := by
  unfold State.resolveSig
  simp only [hr, hw, if_true, hf, if_neg (Nat.not_lt.2 hv), Bool.false_eq_true, if_false]
  rfl

/-- Settles O54. -/
theorem namedTiles : Obligations.NamedTiles := by
  refine ⟨fun s src size dl n t hr ht => ?_, fun s src size dl n hr ht hp => ?_, fun s src size idx n ms d hr ha hi hs => ?_,
    fun s src n ms d hr ha hd hh hp hn hroom => ?_, fun s c n size dl ho hk hr hw hd hp ht hh => ?_,
    fun s c n size dl ho hk he hsrc hdst hw hd ht => ?_, fun s c n size dl ho hk hd => ?_,
    fun s ia k dev x id va thr sc acq d m l2 l1 hw hx ha => ?_,
        fun s u ia k dev x id v va thr sc p m l2 l1 hr hw hx ha hf hv => ?_,
    fun s ia k hw => ?_⟩
  · rw [exec_interestPacket, execInterestPacket, if_pos hr, State.interestPacket, ht]
  · rw [exec_interestPacket, execInterestPacket, if_pos hr, interestPacket_kept ht hp]
  · rw [tilePkt_ready hr hi, tileLine_gathered ha hs]
  · rw [tilePkt_ready hr (by decide), tileLine_whole ha hd, tileArrived_elsewhere hh, tileHere_stored hp hn hroom rfl]
  · rw [exec_interestRetry, execInterestRetry, interestRetry_home ho hk hr hw hd hp ht hh]
  · obtain ⟨hcmds, hwt, hmem, htag⟩ := expired_is (untabled_only ho)
    exact ⟨_, (exec_waiterExpiry c.id s).trans
      (congrArg Host.Outcome.next (expireWaiter_held ho hk he hsrc hdst hw hd ht)), hcmds, hwt, hmem, htag⟩
  · rw [exec_waiterExpiry, execWaiterExpiry, expireWaiter_early ho hk hd]
  · rw [notifyPkt_reads hw hx ha, exec_sigwaitReadResult, execSigwaitReadResult]
  · exact ⟨_, Wide.setStatus_is _ m p true, by rw [notifyPkt_reads hw hx ha, resolveSig_met hr hw hf hv]⟩
  · rw [exec_notifyPkt, execNotifyPkt, hw]

end Sys2Proof.Proofs.Names
end

section
/-! How outstanding accesses complete (R124, R183, R199, R209, R210, R293, R306): O55. -/
namespace Sys2Proof.Proofs.Accesses
open Sys2Proof Sys2Proof.Machine Sys2Proof.Proofs.Arms Sys2Proof.Proofs.Handler

variable {s t : State} {o : Op} {a : Acc}

/-! ## An operation outstanding alone -/

/-- The operation whose one access has been performed. -/
def performed (o : Op) (a : Acc) : Op := { o with accs := [{ a with done := true }] }

theorem op_alone (h : s.ops = [o]) : s.op o.id = some o := by
  simp [State.op, h]

theorem ordered_alone (h : s.ops = [o]) : s.ordered o a = true := by
  simp [State.ordered, h]

theorem doneAccs_alone (ht : t.ops = [o]) (ha : o.accs = [a]) :
    t.doneAccs o.id [a.lane] = { t with ops := [performed o a] } := by
  simp [State.doneAccs, ht, ha, performed]

theorem completeOp_performed (h : s.alone o a) (ht : t.ops = [performed o a]) : t.completeOp o.id = { t with ops := [] } := by
  have hop : t.op o.id = some (performed o a) := by
    simp [State.op, ht, performed]
  simp [State.completeOp, hop, ht, performed, h.flags, h.acq, h.fails, sortBy]

theorem fences_none (h : s.ops = []) (k : Nat) : s.fences k = s := by
  simp [State.fences, h]

theorem performOne_alone (h : s.alone o a) (hf : o.isFence = false) (m : W32) :
    s.performOne o.id m = (s.performLanes o m).completeOp o.id := by
  simp [State.performOne, op_alone h.ops, State.relReady, h.rel, hf, h.prom]

/-- The step that completes an operation whose one access is performed at once. -/
theorem completeIf_alone (h : s.alone o a) (hf : o.isFence = false) {p : Op → Bool} (hp : p o = true)
    (ht : t.ops = [o]) (hd : s.performLanes o 0xFFFFFFFF = t.doneAccs o.id [a.lane]) :
    s.completeIf o.id p = { t with ops := [] } := by
  have hone : s.performOne o.id 0xFFFFFFFF = { t with ops := [] } := by
    rw [performOne_alone h hf, hd, doneAccs_alone ht h.accs]
    exact completeOp_performed h rfl
  rw [State.completeIf, op_alone h.ops]
  simp only [hp, hf, Bool.not_false, Bool.and_self, if_true, State.performOp, op_alone h.ops, hone]
  exact fences_none rfl _

theorem allLanes {l : Nat} (h : l < 32) : (0xFFFFFFFF : W32).getLsbD l = true := by
  have hall : (0xFFFFFFFF : W32) = BitVec.allOnes 32 := rfl
  rw [hall, BitVec.getLsbD_allOnes]
  exact decide_eq_true h

theorem todo_alone (h : s.alone o a) : o.accs.filter (fun x => !x.done) = [a] := by
  simp [h.accs, h.todo]

theorem named_alone (h : s.alone o a) : [a].filter (fun x => (0xFFFFFFFF : W32).getLsbD x.lane) = [a] := by
  rw [List.filter_cons, if_pos (allLanes h.lane), List.filter_nil]

theorem loadGroups_alone (h : s.alone o a) : loadGroups [a] 0xFFFFFFFF = [[a]] := by
  simp only [loadGroups, named_alone h]
  simp [dedup]

theorem storeGroups_alone (h : s.alone o a) : storeGroups [a] 0xFFFFFFFF = [[a]] := by
  simp only [storeGroups, named_alone h]
  simp [dedup]

theorem performLanes_load (h : s.alone o a) {wd : Width} {d : Opnd} (hk : o.kind = .load wd d)
    (hl : s.loadLanes o wd d [a] = (t, [])) : s.performLanes o 0xFFFFFFFF = t := by
  simp only [State.performLanes, hk, todo_alone h, loadGroups_alone h, List.foldl_cons, List.foldl_nil, List.all_cons,
      List.all_nil,
    ordered_alone h.ops, Bool.and_self, if_true, hl, List.append_nil]

theorem performLanes_store (h : s.alone o a) (hk : o.kind = .store) : s.performLanes o 0xFFFFFFFF = s.storeLine o [a] := by
  simp only [State.performLanes, hk, todo_alone h, storeGroups_alone h, List.foldl_cons, List.foldl_nil, List.all_cons,
      List.all_nil,
    ordered_alone h.ops, Bool.and_self, if_true]

theorem performLanes_rmw (h : s.alone o a) {op : RmwOp} {wide sg : Bool} {d : Option Opnd} (hk : o.kind = .rmw op wide sg d)
    (hl : s.rmwLane o op wide sg d a = (t, [])) : s.performLanes o 0xFFFFFFFF = t := by
  have hno : (o.accs.any fun b => !b.done && decide (b.lane < a.lane) && b.loc.meets b.n a.loc a.n) = false := by
    simp [h.accs]
  simp only [State.performLanes, hk, todo_alone h, named_alone h, List.foldl_cons, List.foldl_nil, ordered_alone h.ops, if_true,
    op_alone h.ops, Option.getD_some, hno, Bool.false_eq_true, if_false, hl, List.append_nil]

/-! ## Loads -/

theorem noteRead_none (sec l : Nat) : s.noteRead 0 sec l = s := rfl

theorem seenBy_none (hv : s.vers = []) (mem : Bool) (q : Nat) (x : Sector) : s.seenBy 0 0 mem q x = x := by
  have hv0 : look ({} : Version) s.vers 0 = {} := by rw [hv]; rfl
  unfold State.seenBy
  simp only [hv0]
  cases mem <;> rfl

theorem spadHeld_none (hc : s.cmds = []) (k i cid off : Nat) : s.spadHeld k i cid off = false := by
  rw [State.spadHeld, hc]
  rfl

theorem lineHeld_none (hc : s.cmds = []) (line : Nat) : s.lineHeld o line = false := by
  rw [State.lineHeld, hc]
  rfl

theorem loadLanes_spad (h : s.alone o a) {wd : Width} {d : Opnd} {cid off : Nat} (hl : a.loc = .spad cid off)
    (hm : (s.spadSector cid off).mark = .none) : s.loadLanes o wd d [a] =
      ((s.putWarp o.warp ((s.warp o.warp).loaded wd d a.live a.lane (ofBytes (((s.spadSector cid off).data.drop
          (off % 16)).take a.n))
        false)).doneAccs o.id [a.lane], []) := by
  unfold State.loadLanes
  simp only [hl, spadHeld_none h.cmds, h.open_, Bool.false_eq_true, if_false, List.foldl_cons, List.foldl_nil, noteRead_none,
    seenBy_none h.vers, hm, if_true, List.map_cons, List.map_nil]

theorem loadSector_hit (hc : s.cmds = []) {ia : Nat} (hb : bit (s.l1Line o.core (ia / 128)).valid.toNat (ia % 128 / 16) = true) :
    s.loadSector o ia false = .ok (s.putL1 o.core (ia / 128) ((s.l1Line o.core (ia / 128)).usedBy o.ctx))
      ((s.l1Line o.core (ia / 128)).sector (ia % 128 / 16)) := by
  unfold State.loadSector State.readSector
  simp only [lineHeld_none hc, Bool.false_and, Bool.false_eq_true, if_false, Bool.not_false, Bool.true_and, hb, if_true]

theorem loadLanes_hit (h : s.alone o a) {wd : Width} {d : Opnd} {ia : Nat} (hl : a.loc = .mem ia) (hf : o.fresh = false)
    (hv : (s.warp o.warp).tskVer = 0) (hb : bit (s.l1Line o.core (ia / 128)).valid.toNat (ia % 128 / 16) = true)
    (hm : ((s.l1Line o.core (ia / 128)).sector (ia % 128 / 16)).mark = .none) : s.loadLanes o wd d [a] =
      (((s.putL1 o.core (ia / 128) ((s.l1Line o.core (ia / 128)).usedBy o.ctx)).putWarp o.warp
          ((s.warp o.warp).loaded wd d a.live a.lane
        (ofBytes ((((s.l1Line o.core (ia / 128)).sector (ia % 128 / 16)).data.drop
            (ia % 16)).take a.n)) false)).doneAccs o.id [a.lane], []) := by
  have hvers : (s.putL1 o.core (ia / 128) ((s.l1Line o.core (ia / 128)).usedBy o.ctx)).vers = [] := h.vers
  unfold State.loadLanes
  simp only [hl, h.open_, Bool.false_eq_true, if_false, hf, hv, ne_eq, not_true_eq_false, decide_false, Bool.or_self,
    loadSector_hit h.cmds hb, List.foldl_cons, List.foldl_nil, noteRead_none, seenBy_none hvers, hm, if_true,
        List.map_cons, List.map_nil]
  rfl

/-! ## Stores and atomics in a scratchpad -/

theorem wordHeld_none (hc : s.cmds = []) (k cid off n : Nat) : s.wordHeld k cid off n = false := by
  rw [State.wordHeld, hc]
  rfl

theorem conflict_none (hv : s.vers = []) (k q : Nat) : s.conflict k q = s := by
  rw [State.conflict, State.conflictFor, hv]
  rfl

theorem length_setNth {α : Type} (l : List α) (i : Nat) (v : α) : (setNth l i v).length = l.length := by
  induction l generalizing i with
  | nil => rfl
  | cons x l ih =>
    cases i with
    | zero => rfl
    | succ i => rw [setNth, List.length_cons, ih, List.length_cons]

theorem nth_setNth {α : Type} (d : α) (l : List α) {i : Nat} (h : i < l.length) (v : α) (j : Nat) :
    nth d (setNth l i v) j = if j = i then v else nth d l j := by
  induction l generalizing i j with
  | nil => exact absurd h (Nat.not_lt_zero i)
  | cons x l ih =>
    cases i with
    | zero => cases j <;> rfl
    | succ i =>
      cases j with
      | zero => rfl
      | succ j =>
        have hi : i < l.length := Nat.lt_of_succ_lt_succ h
        simp only [setNth, nth, ih hi, Nat.add_right_cancel_iff]

/-- `n` bytes set from offset `x` on. -/
def setRun (x n : Nat) (f : Nat → Byte) (l : List Byte) : List Byte := (List.range n).foldl (fun l i => setNth l (x + i) (f i)) l

theorem setRun_succ (x n : Nat) (f : Nat → Byte) (l : List Byte) : setRun x (n + 1) f l = setNth (setRun x n f l)
    (x + n) (f n) := by
  rw [setRun, List.range_succ, List.foldl_append]
  rfl

theorem length_setRun (x n : Nat) (f : Nat → Byte) (l : List Byte) : (setRun x n f l).length = l.length := by
  induction n with
  | zero => rfl
  | succ n ih => rw [setRun_succ, length_setNth, ih]

theorem nth_setRun {x n : Nat} (f : Nat → Byte) {l : List Byte} (h : x + n ≤ l.length) (j : Nat) :
    nth 0 (setRun x n f l) j = if x ≤ j ∧ j < x + n then f (j - x) else nth 0 l j := by
  induction n with
  | zero => rw [if_neg (by omega)]; rfl
  | succ n ih =>
    rw [setRun_succ, nth_setNth _ _ (by rw [length_setRun]; omega), ih (by omega)]
    by_cases hj : j = x + n
    · rw [if_pos hj, if_pos (by omega), hj, Nat.add_sub_cancel_left]
    · rw [if_neg hj]
      exact ite_of_iff (by omega)

/-- The bytes that an access writes from offset `x` on. -/
def runAt (x n : Nat) (f : Nat → Byte) : List (Nat × Byte) := (List.range n).map fun i => (x + i, f i)

theorem mergeSector_run {x : Sector} (hm : x.mark = .none) (o n : Nat) (f : Nat → Byte) :
    mergeSector x (runAt o n f) = { data := setRun o n f x.data, mark := .none } := by
  unfold mergeSector
  rw [if_neg (by rw [hm]; simp), runAt, List.foldl_map]
  rfl

/-- The bytes of an access lie in one sector. -/
theorem touched_one {n x : Nat} (f : Nat → Byte) (hn : 0 < n) (hx : x < 128) (hs : x % 16 + n ≤ 16) :
    touched (runAt x n f) = [x / 16] := by
  have hany (q : Nat) : ((runAt x n f).any fun w => w.1 / 16 == q) = decide (x / 16 = q) := by
    rw [Bool.eq_iff_iff, List.any_eq_true, decide_eq_true_iff]
    constructor
    · rintro ⟨w, hw, hq⟩
      obtain ⟨i, hi, rfl⟩ := List.mem_map.1 hw
      have hi := List.mem_range.1 hi
      have hq := eq_of_beq hq
      dsimp only at hq
      omega
    · intro hq
      exact ⟨(x + 0, f 0), List.mem_map.2 ⟨0, List.mem_range.2 hn, rfl⟩, beq_iff_eq.2 hq⟩
  have hone : ∀ k < 8, (List.range 8).filter (fun q => decide (k = q)) = [k] := by decide
  unfold touched
  simp only [hany]
  exact hone (x / 16) (by omega)

theorem wsSector_one {n x : Nat} (f : Nat → Byte) (hs : x % 16 + n ≤ 16) : wsSector (runAt x n f) (x / 16) = runAt
    (x % 16) n f := by
  have hall : (runAt x n f).filter (fun w => w.1 / 16 == x / 16) = runAt x n f := by
    refine List.filter_eq_self.2 fun w hw => ?_
    obtain ⟨i, hi, rfl⟩ := List.mem_map.1 hw
    have hi := List.mem_range.1 hi
    exact beq_iff_eq.2 (by dsimp only; omega)
  rw [wsSector, hall, runAt, List.map_map, runAt]
  refine List.map_congr_left fun i hi => Prod.ext ?_ rfl
  have hi := List.mem_range.1 hi
  show (x + i) % 16 = x % 16 + i
  omega

theorem nth_lookRun {α : Type} (d : α) (m : FMap α) (k : Nat) {n i : Nat} (h : i < n) : nth d
    (lookRun d m k n) i = look d m (k + i) := by
  rw [Lines.nth_eq_getD, lookRun, List.getD_eq_getElem?_getD, List.getElem?_map, List.getElem?_range h]
  rfl

/-- Bytes merged into an unmarked sector of a scratchpad. -/
theorem padHolds_merge {cid off : Nat} {bs : List Byte} (hm : (s.spadSector cid off).mark = .none) (hs :
    off % 16 + bs.length ≤ 16)
    (ho : off + bs.length < 2 ^ 40) (ht : t.spad = (s.putSpadSector cid off (mergeSector (s.spadSector cid off)
      (runAt (off % 16) bs.length (nth 0 bs)))).spad) : padHolds s t cid off bs := by
  have hlen : (s.spadSector cid off).data.length = 16 := by
    simp [State.spadSector, lookRun]
  intro c f hf
  rw [ht, mergeSector_run hm, State.putSpadSector]
  dsimp only
  rw [if_pos rfl, Lines.look_putRun, length_setRun, hlen]
  by_cases hin : 16 * (spadKey cid off / 16) ≤ spadKey c f ∧ spadKey c f < 16 * (spadKey cid off / 16) + 16
  · rw [if_pos hin, nth_setRun _ (by omega)]
    have hc : c = cid := by unfold spadKey at hin; omega
    subst hc
    have hoff : spadKey c f - 16 * (spadKey c off / 16) + off / 16 * 16 = f := by unfold spadKey at hin ⊢; omega
    have hkey : 16 * (spadKey c off / 16) + (spadKey c f - 16 * (spadKey c off / 16)) = spadKey c f := by omega
    refine ite_congr (propext ?_) (fun _ => ?_) fun _ => ?_
    · omega
    · congr 1
      omega
    · rw [State.spadSector, nth_lookRun _ _ _ (by omega), hkey]
  · rw [if_neg hin, if_neg]
    unfold spadKey at hin
    omega

theorem storeSpad_alone (h : s.alone o a) {cid off : Nat} (hl : a.loc = .spad cid off) (hn : 0 < a.n) (hs : off % 16 + a.n ≤ 16) :
    s.storeSpad o [a] cid off = (s.putSpadSector cid off (mergeSector (s.spadSector cid off) (runAt (off % 16) a.n
        (nth 0 a.data)))).doneAccs
      o.id [a.lane] := by
  have hw : lineBytes [a] = runAt (off % 128) a.n (nth 0 a.data) := by
    simp only [lineBytes, List.flatMap_cons, List.flatMap_nil, List.append_nil, hl, runAt]
  have hm : off % 128 % 16 = off % 16 := by omega
  have hq : spadKey cid (off / 128 * 128 + 16 * (off % 128 / 16)) / 16 = spadKey cid off / 16 := by unfold spadKey; omega
  have hv : (s.putSpadSector cid off (mergeSector (s.spadSector cid off) (runAt (off % 16) a.n
      (nth 0 a.data)))).vers = [] := h.vers
  unfold State.storeSpad
  simp only [spadHeld_none h.cmds, List.any_cons, List.any_nil, hl, wordHeld_none h.cmds, Bool.or_self,
      Bool.false_eq_true, if_false, h.ver,
    show ¬ (0 = deadTag) by decide, ne_eq, not_true_eq_false, hw, touched_one (nth 0 a.data) hn (Nat.mod_lt off (by decide)) (hm ▸ hs),
    wsSector_one (nth 0 a.data) (hm ▸ hs), List.foldl_cons, List.foldl_nil, State.putSpadSector, State.spadSector, hq,
        hm, List.map_cons,
    List.map_nil]
  exact congrArg (fun t : State => t.doneAccs o.id [a.lane]) (conflict_none hv _ _)

theorem storeComplete_spad (h : s.alone o a) (hk : o.kind = .store) {cid off : Nat} (hl : a.loc = .spad cid off) (hn : 0 < a.n)
    (hs : off % 16 + a.n ≤ 16) : exec (.storeComplete o.id) s = .next { s.putSpadSector cid off
      (mergeSector (s.spadSector cid off) (runAt (off % 16) a.n (nth 0 a.data))) with ops := [] } := by
  have hf : o.isFence = false := by rw [Op.isFence, hk]
  have hp : (!o.readsOnly && !o.isRmw) = true := by rw [Op.readsOnly, Op.isRmw, hk]; rfl
  have hd := (performLanes_store h hk).trans ((by rw [State.storeLine, hl] : s.storeLine o [a] = s.storeSpad o [a] cid off).trans
    (storeSpad_alone h hl hn hs))
  exact (exec_storeComplete ..).trans (congrArg Host.Outcome.next (completeIf_alone h hf hp h.ops hd))

theorem warp_countCtx (x n k : Nat) : (s.countCtx x n).warp k = s.warp k := by
  unfold State.countCtx
  split <;> rfl

theorem countCtx_doneAccs (x n i : Nat) (ls : List Nat) : (s.doneAccs i ls).countCtx x n = (s.countCtx x n).doneAccs i ls := by
  by_cases hc : (decide (s.smp.ctx = x) && !(s.ctx x).conf) = true
  · rw [State.countCtx, State.countCtx, if_pos hc]
    exact if_pos hc
  · rw [State.countCtx, State.countCtx, if_neg hc]
    exact if_neg hc

/-- What the registers of a read-modify-write's warp hold once it has its old value. -/
def gaveOld (w : Warp) (a : Acc) (b : Nat) (d : Opnd) (old : Nat) : Warp :=
  match d with
  | .v k => w.writeLive a.live b k.toNat a.lane { n := old }
  | x => w.write b x a.lane { n := old }

theorem giveOld_eq (wide : Bool) (d : Opnd) (old : Nat) : s.giveOld o wide (some d) a old false =
    (s.putWarp o.warp (gaveOld (s.warp o.warp) a (if wide then 64 else 32) d old)).doneAccs o.id [a.lane] := by
  cases d <;> rfl

theorem rmwLane_spadAdd (h : s.alone o a) {wide sg : Bool} {d : Opnd} {cid off n old : Nat} (hl : a.loc = .spad cid off)
    (hn : n = if wide then 8 else 4) (hm : (s.spadSector cid off).mark = .none)
    (ho : old = ofBytes (((s.spadSector cid off).data.drop (off % 16)).take n)) :
    s.rmwLane o .add wide sg (some d) a = ((((s.putSpadSector cid off (mergeSector (s.spadSector cid off)
      (runAt (off % 16) n (nth 0 (toBytes n ((old + a.opnd.toNat) % 2 ^ (8 * n))))))).putWarp o.warp
        (gaveOld (s.warp o.warp) a (8 * n) d old)).countCtx o.ctx 0x10C).doneAccs o.id [a.lane], []) := by
  have hb : rmwBytes .add wide = n := hn.symm
  have h8 : (if wide then 64 else 32) = 8 * n := by rw [hn]; cases wide <;> rfl
  have hnew (b : Nat) : rmwNew .add wide sg old b a.newv.toNat = (old + b) % 2 ^ (8 * n) := by rw [← h8]; rfl
  have hv (x : Sector) : (s.putSpadSector cid off x).vers = [] := h.vers
  unfold State.rmwLane
  simp only [hl, spadHeld_none h.cmds, Bool.false_eq_true, if_false, State.rmwSpad, hb, hm, ne_eq, not_true_eq_false, ← ho, hnew,
    conflict_none (hv _), State.rmwDone, giveOld_eq, h8, countCtx_doneAccs]
  rfl

theorem atomicComplete_add (h : s.alone o a) {wide sg : Bool} {d : Opnd} {cid off n old : Nat} (hk :
    o.kind = .rmw .add wide sg (some d))
    (hl : a.loc = .spad cid off) (hn : n = if wide then 8 else 4) (hm : (s.spadSector cid off).mark = .none)
    (ho : old = ofBytes (((s.spadSector cid off).data.drop (off % 16)).take n)) :
    exec (.atomicComplete o.id) s = .next { ((s.putSpadSector cid off (mergeSector (s.spadSector cid off)
      (runAt (off % 16) n (nth 0 (toBytes n ((old + a.opnd.toNat) % 2 ^ (8 * n))))))).putWarp o.warp
        (gaveOld (s.warp o.warp) a (8 * n) d old)).countCtx o.ctx 0x10C with ops := [] } := by
  have hf : o.isFence = false := by rw [Op.isFence, hk]
  have hp : o.isRmw = true := by rw [Op.isRmw, hk]
  have hd := performLanes_rmw h hk (rmwLane_spadAdd h hl hn hm ho)
  refine (exec_atomicComplete ..).trans (congrArg Host.Outcome.next (completeIf_alone h hf hp ?_ hd))
  rw [Finish.countCtx_doneSide _ o.ctx 0x10C]
  exact h.ops

/-! ## Evictions, versions and deferred traps -/

theorem writeBackL1_clean {cid line : Nat} (h : (s.l1Line cid line).dirty = 0) : s.writeBackL1 cid line = s := by
  have hd : (s.l1Line cid line).dirty &&& BitVec.allOnes 128 = 0 := by rw [h]; rfl
  rw [State.writeBackL1, State.flushLine, State.flushBytes]
  simp only [hd, if_true, ite_self]

theorem evictL1_dirty {cid line : Nat} {p : Spot} (hd : (s.l1Line cid line).dirty ≠ 0) (ho : s.cmdOwns line = false)
    (hp : s.prepare (.by .store ((s.l1Line cid line).ctxs.headD 0)) (128 * line) = (s, .spot p)) :
    s.evictL1 cid line = ((s.writeFor (fun k => decide (k / 64 ≠ cid)) (.spot p) (128 * line)
        (s.l1Line cid line).dirtyBytes).putL1 cid line
      ((s.l1Line cid line).clean (s.l1Line cid line).dirty)).putL1 cid line {} := by
  have hall : (s.l1Line cid line).dirty &&& BitVec.allOnes 128 = (s.l1Line cid line).dirty := BitVec.and_allOnes
  have hclean (t : State) : ((t.putL1 cid line ((s.l1Line cid line).clean
      (s.l1Line cid line).dirty)).l1Line cid line).dirty = 0 := by
    rw [State.putL1, State.l1Line, look_put_same]
    split
    · rfl
    · exact BitVec.and_not_self _
  rw [State.evictL1, State.writeBackL1, ho, if_neg Bool.false_ne_true, State.flushLine, State.flushBytes]
  simp only [hall, if_neg hd, hp, hclean, if_true]
  rfl

theorem makeIrrevocable_held {v : Nat} {x : Version} (hx : look {} s.vers v = x) (ht : x.task = true) (hs : x.stalled = true)
    (hi : x.irrev = false) (hw : x.warp < 2 ^ 20) (ho : s.isOldest v = true) (hm : x.mem = []) (hp : x.spad = []) :
    s.makeIrrevocable v = { s with vers := (put {} s.vers v
      { x with irrev := true, stalled := false, mem := [], rd := [], wr := [], ways := [], vas := [], whole := [] }) } := by
  have hlines : s.heldLines v = [] := by
    rw [State.heldLines, hx, hm]
    rfl
  have hcan (cid : Nat) : s.canPublish v cid 4 = (s, true) := by
    unfold State.canPublish
    simp only [hlines, List.foldl_nil, hx, hp, List.any_nil, Bool.not_false, Bool.and_self]
  have hpub (cid : Nat) : s.publishMem v cid (fun _ => true) = s := by
    unfold State.publishMem
    simp only [hlines, List.foldl_nil]
  unfold State.makeIrrevocable
  simp only [hx, ht, hs, hi, Bool.not_false, Bool.and_self, decide_eq_true hw, ho, if_true, hcan, hpub]

theorem deferredTrap_none {k : Nat} (h : (s.warp k).deferred = []) :
    (if decide ((s.warp k).status = .run) && decide ((s.warp k).wait = .none) && !(s.warp k).ueHalt
      then s.asWarp k (·.takeDeferred) else s) = s := by
  have ht : State.takeDeferred { s with cur := k } = { s with cur := k } := by
    rw [State.takeDeferred, show State.w { s with cur := k } = s.warp k from rfl, h]
  rw [State.asWarp, ht]
  exact ite_self s

/-- The oldest deferred trap of a warp that enters the handler with it. -/
theorem deferredTrap_enters {q r : State} {k : Nat} {x : TrapInfo} {rest : List TrapInfo} {hw : Word} {w : Warp} (hwk :
    s.warp k = w)
    (hrun : w.status = .run) (hwait : w.wait = .none) (hue : w.ueHalt = false) (hdef : w.deferred = x :: rest)
    (htry : w.tryOpen = false) (hinh : w.inh = false) (hver : w.tskVers = false) (hcls : clsHandler (x.uncorr w).cls = true)
    (hon : (s.ctx w.ctx).tvec.getLsbD 0 = true) (hq : q = ({ s with cur := k }).putWarp k { w with deferred := rest })
    (hw1 : ({ s with cur := k }).handlerWaits x = none) (hw2 : q.handlerWaits x = none)
    (hf : ((q.count 0x14).countCtx w.ctx 0x107).fetchWord w.ctx ((s.ctx w.ctx).tvec &&& ~~~7) = .word hw r)
    (hh : headerOk hw = true) (hn : hdrHandler hw = true) :
    exec (.deferredTrap k) s = .next { (r.setW (handling { w with deferred := rest } (x.uncorr w) w.pc ((s.ctx w.ctx).tvec &&& ~~~7) hw
      s.clk)).deaden (hdrLive hw) with cur := s.cur } := by
  have hqw : q.w = { w with deferred := rest } := by
    rw [hq]
    exact State.warp_putWarp_same ..
  have hqs : q = { s with cur := k, warps := q.warps } := by
    rw [hq]
    rfl
  have hctx : q.ctx = s.ctx := by rw [hqs]; rfl
  have hclk : q.clk = s.clk := by rw [hqs]
  have htake := takeTrap_handles (s := q) (r := r) (hw := hw) (t := x) (epc := w.pc)
      (by rw [hqw]; exact htry) (by rw [hqw]; exact hinh)
    (by rw [hqw]; exact hver) (by rw [hqw]; exact hcls) (by rw [hqw, hctx]; exact hon)
    (by rw [Handler.counted, hqw, hctx]; exact hf) hh hn
  have hstep : State.takeDeferred { s with cur := k } = q.takeTrap x w.pc := by
    rw [State.takeDeferred, show State.w { s with cur := k } = w from hwk, hdef]
    dsimp only
    rw [hw1, State.setW, ← hq, State.trapNow, hw2]
  rw [exec_deferredTrap, execDeferredTrap]
  simp only [hwk, hrun, hwait, hue, decide_true, Bool.not_false, Bool.and_self, if_true, State.asWarp, hstep, htake, hqw,
      hctx, hclk]
  rfl

/-- Settles O55. -/
theorem completesAccesses : Obligations.CompletesAccesses := by
  refine ⟨fun s o a wd d cid off h hk hl hm => ?_, fun s o a wd d ia h hk hl hf hv hb hm => ?_,
    fun s o a cid off h hk hl hn hpos hs hlen hm => ?_, fun s o a wide sg d cid off n old h hk hl hb hn hal hm ho => ?_,
    fun s cid line h => ?_, fun s cid line p l hl hd ho hp => ?_, fun s v x hx ht hs hi hw ho hm hp => ?_, fun s v h => ?_,
    fun s q r k t rest hw w hwk hrun hwait hue hdef htry hinh hver hcls hon hq hw1 hw2 hf hcur hh hn => ?_, fun s k h => ?_⟩
  · have hd := performLanes_load h hk (loadLanes_spad (wd := wd) (d := d) h hl hm)
    refine (exec_loadComplete ..).trans (congrArg Host.Outcome.next (completeIf_alone h ?_ ?_ ?_ hd))
    · rw [Op.isFence, hk]
    · rw [Op.readsOnly, hk]
    · exact h.ops
  · have hd := performLanes_load h hk (loadLanes_hit (wd := wd) (d := d) h hl hf hv hb hm)
    refine (exec_loadComplete ..).trans (congrArg Host.Outcome.next (completeIf_alone h ?_ ?_ ?_ hd))
    · rw [Op.isFence, hk]
    · rw [Op.readsOnly, hk]
    · exact h.ops
  · refine ⟨_, storeComplete_spad h hk hl hpos hs, ?_, rfl⟩
    rw [← hlen] at hn hs ⊢
    exact padHolds_merge hm hs hn rfl
  · have hlen : (toBytes n ((old + a.opnd.toNat) % 2 ^ (8 * n))).length = n := toBytes_length ..
    have hin : off % 16 + n ≤ 16 := by
      have hn : n = 8 ∨ n = 4 := by cases wide <;> simp [hn]
      rcases hn with rfl | rfl <;> omega
    have hside := Finish.countCtx_doneSide ((s.putSpadSector cid off (mergeSector (s.spadSector cid off)
      (runAt (off % 16) n (nth 0 (toBytes n ((old + a.opnd.toNat) % 2 ^ (8 * n))))))).putWarp o.warp
        (gaveOld (s.warp o.warp) a (8 * n) d old)) o.ctx 0x10C
    refine ⟨_, atomicComplete_add h hk hl hn hm ho, rfl, ?_, ?_, fun k hk => ?_⟩
    · refine padHolds_merge hm (by rw [hlen]; exact hin) (by rw [hlen]; exact hb) ?_
      rw [hlen, hside]
      rfl
    · refine (warp_countCtx ..).trans ((State.warp_putWarp_same ..).trans ?_)
      cases d <;> rfl
    · exact (warp_countCtx ..).trans ((State.warp_putWarp ..).trans (if_neg hk))
  · rw [exec_l1Eviction, execL1Eviction, State.evictL1]
    simp only [writeBackL1_clean h, h, if_true]
  · subst hl
    exact (exec_l1Eviction ..).trans (congrArg Host.Outcome.next (evictL1_dirty hd ho hp))
  · exact (exec_versionIrrevocable ..).trans (congrArg Host.Outcome.next (makeIrrevocable_held hx ht hs hi hw ho hm hp))
  · rw [exec_versionIrrevocable, execVersionIrrevocable, State.makeIrrevocable]
    simp only [h, Bool.and_false, Bool.false_and, Bool.false_eq_true, if_false]
  · have he := deferredTrap_enters hwk hrun hwait hue hdef htry hinh hver hcls hon hq hw1 hw2 hf hh hn
    have hu (m : Nat) : State.warp { (r.setW (handling { w with deferred := rest } (t.uncorr w) w.pc ((s.ctx w.ctx).tvec &&& ~~~7) hw
        s.clk)).deaden (hdrLive hw) with cur := s.cur } m = if m = k then handling { w with deferred := rest } (t.uncorr w) w.pc
          ((s.ctx w.ctx).tvec &&& ~~~7) hw s.clk else r.warp m := by
      rw [← hcur]
      exact State.warp_putWarp ..
    refine ⟨_, he, ?_, ?_, ?_, ?_, ?_, fun j hj => (hu j).trans (if_neg hj), rfl⟩
    · exact congrArg Warp.deferred ((hu k).trans (if_pos rfl))
    · exact congrArg Warp.epc ((hu k).trans (if_pos rfl))
    · exact congrArg Warp.tcause ((hu k).trans (if_pos rfl))
    · exact congrArg Warp.taddr ((hu k).trans (if_pos rfl))
    · exact congrArg Warp.pc ((hu k).trans (if_pos rfl))
  · exact (exec_deferredTrap ..).trans (congrArg Host.Outcome.next (deferredTrap_none h))

end Sys2Proof.Proofs.Accesses
end

section
/-! How engine and matrix commands complete (R242, R257, R263, R273, R278, R279): O56. -/
namespace Sys2Proof.Proofs.Commands
open Sys2Proof Sys2Proof.Machine Sys2Proof.Proofs.Arms Sys2Proof.Proofs.Finish Sys2Proof.Proofs.Names

variable {s t : State} {c : Cmd}

/-! ## What a completion leaves of launches and warps -/

theorem countCtx_launches (x n : Nat) : (s.countCtx x n).launches = s.launches := by
  unfold State.countCtx
  split <;> rfl

theorem left_launches : (left s c).launches = s.launches := countCtx_launches (s := s.count 0x10) c.ctx 0x105

theorem tagDone_launches (err : Nat) : (tagDone s c err).launches = s.launches := by
  unfold tagDone
  split <;> rfl

theorem finishCmd_launches (err first nfail : Nat) :
    (s.finishCmd c err first nfail).launches = (failNoted (left s c) c err first nfail).launches := by
  rw [finishCmd_eq]
  exact tagDone_launches err

theorem finishCmd_quiet (first nfail : Nat) : (s.finishCmd c 0 first nfail).launches = s.launches := by
  rw [finishCmd_launches, failNoted, if_pos rfl, left_launches]

theorem launch_congr (h : s.launches = t.launches) (k : Nat) : s.launch k = t.launch k := by
  rw [State.launch, State.launch, h]

theorem finishCmd_failed {err : Nat} (h : err ≠ 0) (first nfail : Nat) :
    ((s.finishCmd c err first nfail).launch c.launch).failed = (s.launch c.launch).failed + 1 := by
  have hl : (left s c).launch c.launch = s.launch c.launch := launch_congr left_launches c.launch
  have hf : (failNoted (left s c) c err first nfail).launch c.launch =
      { s.launch c.launch with failed := (s.launch c.launch).failed + 1 } := by
    rw [failNoted, if_neg h, ← hl]
    exact State.launch_putLaunch_same ..
  have hx : (s.finishCmd c err first nfail).launch c.launch = (failNoted (left s c) c err first nfail).launch c.launch :=
    launch_congr (finishCmd_launches err first nfail) c.launch
  rw [hx, hf]

/-- A map of which each entry keeps its key. -/
theorem look_map {α β : Type} (d : β) (f : Nat → α → β) (m : FMap α) (k : Nat) {a : α} (ha : f k a = d) :
    look d (m.map fun e => (e.1, f e.1 e.2)) k = f k (look a m k) := by
  induction m with
  | nil => exact ha.symm
  | cons e m ih =>
    obtain ⟨j, v⟩ := e
    rw [List.map_cons, look, look]
    split
    · next h => rw [h]
    · exact ih

/-- A warp whose pool rows are released once it has retired and has no matrix command. -/
def freed (s : State) (k : Nat) (w : Warp) : Warp := if 2 ^ 20 ≤ k ∧ s.tiles k = 0 then { w with rows := 0 } else w

theorem freed_slot {k : Nat} (hk : k < 2 ^ 20) (w : Warp) : freed s k w = w := if_neg fun h => Nat.not_le.2 hk h.1

/-- The warps of a core's slots keep all that they hold when what nothing needs any more is released. -/
theorem sweepCore_warp (cid : Nat) {k : Nat} (hk : k < 2 ^ 20) : (s.sweepCore cid).warp k = s.warp k := by
  have hmap : (s.sweepCore cid).warps = (s.warps.filter fun e => !(decide (2 ^ 20 ≤ e.1) && decide
      ((s.warpCmds e.1) = []))).map fun e =>
      (e.1, freed s e.1 e.2) := by
    refine List.map_congr_left fun e _ => ?_
    unfold freed
    split <;> rfl
  rw [State.warp, hmap, look_map {} (freed s) _ k (freed_slot hk {}), freed_slot hk,
    Handler.look_filter {} (fun j => !(decide (2 ^ 20 ≤ j) && decide (s.warpCmds j = []))) s.warps k,
    decide_eq_false (Nat.not_le.2 hk), Bool.false_and, Bool.not_false, if_pos rfl]
  rfl

theorem finishCmd_warp (err first nfail : Nat) {k : Nat} (hk : k < 2 ^ 20) :
    (s.finishCmd c err first nfail).warp k = s.warp k := by
  have hl : (left s c).warps = s.warps := by
    show ((s.count 0x10).countCtx c.ctx 0x105).warps = _
    unfold State.countCtx
    split <;> rfl
  have hf : (failNoted (left s c) c err first nfail).warps = (left s c).warps := by
    unfold failNoted
    split <;> rfl
  have ht (u : State) : (tagDone u c err).warps = u.warps := by
    unfold tagDone
    split <;> rfl
  rw [finishCmd_eq, sweepCore_warp _ hk, State.warp, ht, hf, hl]
  rfl

/-! ## Queue commands -/

theorem putCmd_only (h : s.only c) (d : Cmd) (hd : d.id = c.id) : s.putCmd d = { s with cmds := [d] } := by
  rw [State.putCmd, show s.cmds = [c] from h, List.map_cons, List.map_nil, if_pos hd.symm]

/-- One more source of a command read. -/
def filled (c : Cmd) (p : State × List Src) (e : Src) : State × List Src :=
  match p with
  | (t, es) => let (t1, e1) := t.fillOne c e; (t1, es ++ [e1])

theorem fillCmd_foldl {id : Nat} (h : s.cmd id = some c) :
    s.fillCmd id = (c.src.foldl (filled c) (s, [])).1.putCmd { c with src := (c.src.foldl (filled c) (s, [])).2 } := by
  rw [State.fillCmd, h]
  rfl

theorem filled_read {es : List Src} (h : ∀ e ∈ es, e.got.isSome = true) (acc : List Src) :
    es.foldl (filled c) (s, acc) = (s, acc ++ es) := by
  induction es generalizing acc with
  | nil => rw [List.append_nil]; rfl
  | cons e es ih =>
    have he : filled c (s, acc) e = (s, acc ++ [e]) := by
      simp only [filled, State.fillOne, h e List.mem_cons_self, Bool.true_or, if_true]
    rw [List.foldl_cons, he, ih fun x hx => h x (List.mem_cons_of_mem _ hx), List.append_assoc]
    rfl

theorem fillCmd_read (h : s.only c) (hu : c.unread = false) : s.fillCmd c.id = s := by
  have hgot : ∀ e ∈ c.src, e.got.isSome = true := fun e he => by
    have hn := List.any_eq_false.1 hu e he
    cases hg : e.got with
    | none => rw [hg] at hn; exact absurd rfl hn
    | some x => rfl
  rw [fillCmd_foldl (cmd_only h), filled_read hgot]
  show s.putCmd c = s
  rw [putCmd_only h c rfl, ← show s.cmds = [c] from h]

theorem queueNext_only (h : s.only c) (ho : s.ops = []) (ha : c.arrived ≠ 0) (hb : c.arrived ≤ s.clk) : s.queueNext c = true := by
  have hlt : Cmd.before c c = false := by rw [Cmd.before, if_pos rfl, decide_eq_false (Nat.lt_irrefl _)]
  unfold State.queueNext
  cases s.queueAt c with
  | none => rfl
  | some p =>
    obtain ⟨k, cid, off⟩ := p
    simp [show s.cmds = [c] from h, ho, ha, hb, hlt]

theorem slotFree_only (h : s.only c) (cid slot n : Nat) : s.slotFree c cid slot n = true := by
  simp [State.slotFree, show s.cmds = [c] from h]

theorem releaseL1_none (h : s.l1 = []) (k core scope : Nat) : s.releaseL1 k core scope = s := by
  unfold State.releaseL1 State.flushL1 State.flushWb State.l1Lines
  rw [h]
  exact ite_self s

theorem l1Left_none (h : s.l1 = []) (k core scope : Nat) : s.l1Left k core scope = false := by
  unfold State.l1Left State.l1Dirty State.wbLeft
  rw [h]
  exact ite_self false

theorem pushReleased_none (ho : s.ops = []) (hl : s.l1 = []) : s.pushReleased c = (s, true) := by
  unfold State.pushReleased
  simp only [releaseL1_none hl, l1Left_none hl, ho, List.all_nil, Bool.not_false, Bool.and_self]

theorem arriveQueue_first (ha : c.arrived = 0) (p : Nat × Nat) : s.arriveQueue c p = s.putCmd
    { c with arrived := s.clk + 1, word := some p } :=
  if_pos ha

theorem performInit_eq {d : Nat} {v : Word} {k cid off : Nat} (hk : c.kind = .qinit d v) (hq : s.queueAt c = some (k, cid, off)) :
    s.performInit c = if c.arrived = 0 ∨ !s.queueNext c then s.arriveQueue c (cid, off)
      else (s.putQword (cid, off) (QWord.ofBits v.toNat)).finishCmd c 0 0 0 := by
  rw [State.performInit, hk, hq]

theorem performPush_eq (h : s.only c) (hu : c.unread = false) {d e lsz k cid off : Nat} (hk : c.kind = .qpush d e lsz)
    (hq : s.queueAt c = some (k, cid, off)) : s.performPush c.id =
      if c.arrived = 0 ∨ c.unread ∨ !s.queueNext c then s.arriveQueue c (cid, off)
      else match s.pushReleased c with
        | (s2, false) => s2
        | (s2, true) => match s2.queueAnswer lsz true (cid, off) with
          | .held => s2.putCmd { c with held := true }
          | .fail => s2.finishCmd c 5 0 0
          | .slot q slot =>
            if !s2.slotFree c cid slot (2 ^ lsz) then s2
            else ((s2.putRun16 cid slot ((srcRun c.src e (2 ^ lsz)).map (·.1)) fun i => (nth (0, .none) (srcRun c.src e
                (2 ^ lsz)) i).2).putQword
              (cid, off) { q with tail := (q.tail + 1) % q.depth, full := decide ((q.tail + 1) % q.depth = q.head) }).finishCmd c 0 0 0 := by
  unfold State.performPush
  simp only [fillCmd_read h hu, cmd_only h, hk, hq] <;> rfl

theorem performPush_turn (h : s.only c) (ho : s.ops = []) (hl : s.l1 = []) {d e lsz k cid off : Nat} (hk :
    c.kind = .qpush d e lsz)
    (hu : c.unread = false) (ha : c.arrived ≠ 0) (hb : c.arrived ≤ s.clk) (hq : s.queueAt c = some (k, cid, off)) :
        s.performPush c.id =
      match s.queueAnswer lsz true (cid, off) with
      | .held => s.putCmd { c with held := true }
      | .fail => s.finishCmd c 5 0 0
      | .slot q slot => ((s.putRun16 cid slot ((srcRun c.src e (2 ^ lsz)).map (·.1)) fun i =>
          (nth (0, .none) (srcRun c.src e (2 ^ lsz)) i).2).putQword (cid, off) { q with
            tail := (q.tail + 1) % q.depth, full := decide ((q.tail + 1) % q.depth = q.head) }).finishCmd c 0 0 0 := by
  have hturn : ¬ (c.arrived = 0 ∨ c.unread = true ∨ (!s.queueNext c) = true) := by
    rw [hu, queueNext_only h ho ha hb]
    simp [ha]
  rw [performPush_eq h hu hk hq, if_neg hturn, pushReleased_none ho hl]
  simp only [slotFree_only h, Bool.not_true, Bool.false_eq_true, if_false]

theorem performPop_eq (h : s.only c) {d e lsz k cid off : Nat} (hk : c.kind = .qpop d e lsz) (hq : s.queueAt c = some (k,
    cid, off)) :
    s.performPop c.id = if c.arrived = 0 ∨ !s.queueNext c then s.arriveQueue c (cid, off)
      else match s.queueAnswer lsz false (cid, off) with
        | .held => s.putCmd { c with held := true }
        | .fail => s.finishCmd c 5 0 0
        | .slot q slot => ((s.putQword (cid, off) { q with head := (q.head + 1) % q.depth, full := false }).putCmd
            { c with src := s.slotSrcs cid slot (2 ^ lsz) }).finishPop { c with src := s.slotSrcs cid slot (2 ^ lsz) } := by
  unfold State.performPop
  simp only [cmd_only h, hk, hq, slotFree_only h, Bool.not_true, Bool.false_eq_true, if_false] <;> rfl

theorem performPop_turn (h : s.only c) (ho : s.ops = []) {d e lsz k cid off : Nat} (hk : c.kind = .qpop d e lsz)
    (ha : c.arrived ≠ 0) (hb : c.arrived ≤ s.clk) (hq : s.queueAt c = some (k, cid, off)) : s.performPop c.id =
      match s.queueAnswer lsz false (cid, off) with
      | .held => s.putCmd { c with held := true }
      | .fail => s.finishCmd c 5 0 0
      | .slot q slot => ((s.putQword (cid, off) { q with head := (q.head + 1) % q.depth, full := false }).putCmd
          { c with src := s.slotSrcs cid slot (2 ^ lsz) }).finishPop { c with src := s.slotSrcs cid slot (2 ^ lsz) } := by
  rw [performPop_eq h hk hq, if_neg]
  rw [queueNext_only h ho ha hb]
  simp [ha]

theorem completeCmd_init (h : s.only c) {d : Nat} {v : Word} (hk : c.kind = .qinit d v) :
    s.completeCmd c.id = s.performInit c := by
  simp only [State.completeCmd, cmd_only h, hk]

/-! ## Matrix steps -/

theorem unitCmds_only (h : s.only c) (hs : c.stepped = true) (hd : s.dumpStops c = false) : s.unitCmds c.core = [c] := by
  have hf : s.firstTile c = true := by
    simp [State.firstTile, show s.cmds = [c] from h]
  rw [State.unitCmds, show s.cmds = [c] from h, List.filter_cons, List.filter_nil, decide_eq_true rfl, hs, hf, hd]
  rfl

theorem unitCmds_none (h : s.cmds = []) (cid : Nat) : s.unitCmds cid = [] := by
  rw [State.unitCmds, h]
  rfl

theorem endTile_is (d : Cmd) : ∃ u : State, u.cmds = s.cmds ∧ u.warps = s.warps ∧ s.endTile d = u.finishCmd d 0 0 0 := by
  refine ⟨_, ?_, ?_, rfl⟩
  · split <;> split <;> rfl
  · split <;> split <;> rfl

theorem counted_is (x : Nat) : ∃ u : State, u.cmds = s.cmds ∧ u.warps = s.warps ∧ (s.count 7).countCtx x 0x106 = u := by
  refine ⟨_, ?_, ?_, rfl⟩
  · unfold State.countCtx
    split <;> rfl
  · unfold State.countCtx
    split <;> rfl

/-- A matrix step that goes on, or the last one. -/
theorem stepped_is (h : s.only c) (hw : c.warp < 2 ^ 20) (m : MatRec) (recs : List Byte) :
    (s.stepped c m recs).warp c.warp = s.warp c.warp ∧ (s.stepped c m recs).cmds = if c.sleft ≤ 1 then [] else
      [{ c with kind := .mat m recs, sdone := c.sdone + 1, sleft := c.sleft - 1, rerun := 0 }] := by
  obtain ⟨u, huc, huw, hu⟩ := counted_is (s := s) c.ctx
  have hcmds : u.cmds = [c] := huc.trans h
  have hwarp : u.warp c.warp = s.warp c.warp := by rw [State.warp, huw]; rfl
  unfold State.stepped
  simp only [hu]
  by_cases hl : c.sleft ≤ 1
  · rw [if_pos hl, if_pos (by omega)]
    obtain ⟨v, hvc, hvw, hv⟩ := endTile_is (s := u) { c with kind := .mat m recs, sdone := c.sdone + 1, sleft := c.sleft - 1, rerun := 0 }
    rw [hv, finishCmd_warp 0 0 0 hw, finishCmd_cmds, hvc, hcmds]
    refine ⟨?_, ?_⟩
    · rw [← hwarp, State.warp, State.warp, hvw]
    · rw [List.filter_cons, if_neg (by simp), List.filter_nil]
  · rw [if_neg hl, if_neg (by omega), putCmd_only (s := u) (c := c) hcmds
      { c with kind := .mat m recs, sdone := c.sdone + 1, sleft := c.sleft - 1, rerun := 0 } rfl]
    exact ⟨hwarp, rfl⟩

/-- The warp that a matrix step of operands that are free leaves. -/
def multiplied (s : State) (c : Cmd) (m : MatRec) : Warp :=
  (c.form m).run (s.warp c.warp) ((s.warp c.warp).bnd + m.acc) c.vcnt c.seed
    (s.readNow (s.stepSrcs (s.warp c.warp) c.core c.vcnt (c.form m) m.aoff m.boff)) (8 * formAddr m.aoff)
        (8 * formAddr m.boff) false

theorem mmStep_free {m : MatRec} (hr : c.rerun = 0)
    (hf : s.stepFree c (decide (0xB4 ≤ c.opc)) (s.stepSrcs (s.warp c.warp) c.core c.vcnt (c.form m) m.aoff m.boff) = true) :
    s.mmStep c m = some ((s.putWarp c.warp (multiplied s c m)).stepped c { m with
      aoff := stepOff m.aoff m.da, boff := stepOff m.boff m.db } []) := by
  have hlt : c.rerun < 2 := by omega
  have hge : decide (2 ≤ c.rerun) = false := decide_eq_false (by omega)
  unfold State.mmStep State.stepError
  simp only [hf, Bool.not_true, Bool.false_eq_true, if_false, if_pos hlt, hge]
  rfl

theorem matrixStep_is (h : s.only c) {m : MatRec} {recs : List Byte} (hk : c.kind = .mat m recs) (hc : 0xB0 ≤ c.opc)
    (hd : s.dumpStops c = false) {u : State} (hs : s.mmStep c m = some u) : exec (.matrixStep c.core) s = .next u := by
  have hst : c.stepped = true := by
    rw [Cmd.stepped, hk]
    simp [hc]
  rw [exec_matrixStep, execMatrixStep, unitCmds_only h hst hd]
  unfold State.nextUnitStep State.unitStep
  simp only [hk, if_neg (show ¬ c.opc = 0xAE by omega), if_neg (show ¬ c.opc = 0xAF by omega), hs,
    decide_eq_false (show ¬ c.opc = 0xAF by omega), if_true]

theorem txposeGroup_is (h : s.only c) {m : MatRec} {recs : List Byte} (hk : c.kind = .mat m recs) (hc : c.opc = 0xAF)
    (hd : s.dumpStops c = false) {u : State} (hs : s.txposeStep c m = some u) : exec (.txposeGroup c.core) s = .next u := by
  have hst : c.stepped = true := by
    rw [Cmd.stepped, hk]
    simp [hc]
  rw [exec_txposeGroup, execTxposeGroup, unitCmds_only h hst hd]
  unfold State.nextUnitStep State.unitStep
  simp only [hk, if_neg (show ¬ c.opc = 0xAE by omega), if_pos hc, hs, decide_eq_true hc, if_true]

/-- Settles O56. -/
theorem completesCommands : Obligations.CompletesCommands := by
  refine ⟨fun s c ho hk => ?_, fun s c k cid off ho ha hq hu => ⟨?_, ?_, ?_⟩, fun s c d cid off v ho hp hk ha hb hq => ?_,
    fun s c d e lsz cid off b q ho hp hl hk hu ha hb hq hans => ?_, fun s c d e lsz cid off ho hp hl hk hu ha hb hq => ?_,
    fun s c d e lsz cid off b q ho hp hk hsrc ha hb hq hans => ?_, fun s c d e lsz cid off ho hp hk hsrc ha hb hq => ?_,
    fun s c m recs ho hk hop hw hr hd hf => ?_, fun s t c m recs ho hk hop hd hs => txposeGroup_is ho hk hop hd hs,
        fun s cid h => ?_⟩
  · refine ⟨_, ?_, finishCmd_only ho c.err c.first c.nfail, ?_, fun g ht hg => finishCmd_tagSet s ht hg _ _ _,
        fun he => ?_, fun he =>
      finishCmd_failed he _ _⟩
    · rw [exec_engineCommandComplete, execEngineCommandComplete, State.completeCmd]
      simp only [cmd_only ho, hk, State.runDone]
    · rw [finishCmd_doneSide s c c.err c.first c.nfail]
    · rw [he]
      exact finishCmd_quiet _ _
  · rintro ⟨d, v, hk⟩
    rw [exec_engineCommandComplete, execEngineCommandComplete, completeCmd_init ho hk, performInit_eq hk hq, if_pos (.inl ha),
      arriveQueue_first ha]
  · rintro ⟨d, e, n, hk⟩
    rw [exec_queuePushPerform, execQueuePushPerform, performPush_eq ho hu hk hq, if_pos (.inl ha), arriveQueue_first ha]
  · rintro ⟨d, e, n, hk⟩
    rw [exec_queuePopPerform, execQueuePopPerform, performPop_eq ho hk hq, if_pos (.inl ha), arriveQueue_first ha]
  · rw [exec_engineCommandComplete, execEngineCommandComplete, completeCmd_init ho hk, performInit_eq hk hq, if_neg]
    rw [queueNext_only ho hp ha hb]
    simp [ha]
  · rw [exec_queuePushPerform, execQueuePushPerform, performPush_turn ho hp hl hk hu ha hb hq, hans]
  · rw [exec_queuePushPerform, execQueuePushPerform, performPush_turn ho hp hl hk hu ha hb hq]
    exact ⟨fun hans => by rw [hans], fun hans => by rw [hans]⟩
  · rw [exec_queuePopPerform, execQueuePopPerform, performPop_turn ho hp hk ha hb hq, hans]
  · rw [exec_queuePopPerform, execQueuePopPerform, performPop_turn ho hp hk ha hb hq]
    exact ⟨fun hans => by rw [hans], fun hans => by rw [hans]⟩
  · obtain ⟨hwarp, hcmds⟩ := stepped_is (s := s.putWarp c.warp (multiplied s c m)) ho hw
      { m with aoff := stepOff m.aoff m.da, boff := stepOff m.boff m.db } []
    exact ⟨_, matrixStep_is ho hk hop hd (mmStep_free hr hf), hwarp.trans (State.warp_putWarp_same ..), hcmds⟩
  · rw [exec_matrixStep, execMatrixStep, exec_txposeGroup, execTxposeGroup, unitCmds_none h]
    exact ⟨rfl, rfl⟩

end Sys2Proof.Proofs.Commands
end

section
/-! Launches: accepted, placed, dealt and complete (R133 to R135, R145, R147, R149, R151, R153): O57. -/
namespace Sys2Proof.Proofs.Launching
open Sys2Proof Sys2Proof.Machine Sys2Proof.Proofs.Arms

variable {s t : State}

/-! ## Launch commands (R147, R355) -/

theorem bits_high {x : Nat} (h : x < 2 ^ 16) :
    bits (BitVec.ofNat 64 (x * 2 ^ 48)).toNat 63 48 = x ∧ bits (BitVec.ofNat 64 (x * 2 ^ 48)).toNat 47 0 = 0 := by
  have hx : (BitVec.ofNat 64 (x * 2 ^ 48)).toNat = x * 2 ^ 48 := by
    rw [BitVec.toNat_ofNat]
    exact Nat.mod_eq_of_lt (by omega)
  rw [hx]
  unfold bits
  simp only [Nat.shiftRight_eq_div_pow]
  omega

theorem launchCommand_accepted {p : Rec8} {x port : Nat} (hv : (s.ctx x).v = true) (hw : p.w3 = BitVec.ofNat 64 (x * 2 ^ 48))
    (hx : x < 2 ^ 16) (hh : bits p.w0.toNat 55 38 = (s.ctx x).host) (h0 : bits p.w0.toNat 19 0 = 0) (h4 : p.w4 = 0) (h5 :
        p.w5 = 0)
    (h6 : p.w6 = 0) (h7 : p.w7 = 0) (h2 : p.w2.toNat % 8 = 0) :
    exec (.launchCommand ⟨p, port⟩) s = .next (s.acceptLaunch p.w1 p.w2 x port none 0) := by
  obtain ⟨hc, hz⟩ := bits_high hx
  rw [← hw] at hc hz
  rw [exec_launchCommand, execLaunchCommand, State.launchCommand]
  simp [hc, hz, hv, hh, h0, h4, h5, h6, h7, h2]

/-- A launch whose record does not lie at a multiple of 128 is rejected with STATUS 1. -/
theorem acceptLaunch_misaligned {recVA : Word} (h : recVA.toNat % 128 ≠ 0) (doneVA : Word) (ctx port : Nat) :
    ∃ l : Launch, l.verdict = some 1 ∧
      s.acceptLaunch recVA doneVA ctx port none 0 = { s with nextId := s.nextId + 1, launches := put {} (put {} s.launches s.nextId
        { recVA := recVA, doneVA := doneVA, ctx := ctx, order := s.nextId, came := (s.clk, port), unread := true }) s.nextId l } := by
  unfold State.acceptLaunch State.readLaunch
  simp only [State.launch_putLaunch_same, Bool.not_true, Bool.false_eq_true, if_false, if_pos h]
  exact ⟨_, rfl, rfl⟩

/-! ## Order and placement (R151) -/

theorem keyBefore_self (k : List Nat) : keyBefore k k = none := by
  induction k with
  | nil => rfl
  | cons a k ih => rw [keyBefore, if_pos rfl, ih]

theorem launchBefore_earlier {a b : Nat × Launch} (hk : a.2.key = b.2.key)
    (h : a.2.came.1 < b.2.came.1 ∨ (a.2.came.1 = b.2.came.1 ∧ a.2.came.2 < b.2.came.2)) : launchBefore a b = true := by
  unfold launchBefore
  rw [hk, keyBefore_self]
  rcases h with h | ⟨h1, h2⟩
  · simp [h]
  · simp [h1, h2]

theorem readLaunches_read (h : ∀ e ∈ s.launches, e.2.unread = false) : s.readLaunches = s := by
  have hf : (s.launches.filter fun e => e.2.unread) = [] :=
    List.filter_eq_nil_iff.2 fun e he => by rw [h e he]; exact Bool.false_ne_true
  rw [State.readLaunches, hf]
  rfl

/-! ## Reports (R149) -/

/-- What a state keeps while the cores of a die report. -/
def Reporting (s t : State) : Prop := t = { s with shadow := t.shadow, sent := [] }

theorem reportCore_free (h : Reporting s t) (hp : s.pins = []) (cid : Nat) :
    Reporting s (t.reportCore cid) ∧ (t.reportCore cid).shadowOf cid = s.freeNow cid ∧
      ∀ c, c ≠ cid → (t.reportCore cid).shadowOf c = t.shadowOf c := by
  have hfree : t.freeNow cid = s.freeNow cid := by rw [h]; rfl
  have hsent : t.sent = [] := by rw [h]
  have hdue : t.pinDue cid = 0 := by
    have hpins : t.pins = [] := by rw [h]; exact hp
    rw [State.pinDue, hpins]
    rfl
  have hrep : t.reportCore cid = { t with shadow := put [] t.shadow cid (s.freeNow cid).toList } := by
    unfold State.reportCore
    simp only [hfree, hsent, hdue]
    show ({ t with shadow := put [] t.shadow cid (s.freeNow cid).toList, sent := [] } : State) = _
    rw [← hsent]
  rw [hrep]
  refine ⟨?_, ?_, fun c hc => ?_⟩
  · unfold Reporting at h ⊢
    dsimp only
    rw [h]
  · rw [State.shadowOf, look_put_same]
    rfl
  · rw [State.shadowOf, look_put_other _ _ _ _ hc]
    rfl

/-- The shadow after some cores have reported. -/
theorem reports_free (hp : s.pins = []) (cids : List Nat) (h : Reporting s t) {c : Nat} (hc :
    c ∈ cids ∨ t.shadowOf c = s.freeNow c) :
    Reporting s (cids.foldl (fun u k => u.reportCore k) t) ∧
      (cids.foldl (fun u k => u.reportCore k) t).shadowOf c = s.freeNow c := by
  induction cids generalizing t with
  | nil => exact ⟨h, hc.resolve_left List.not_mem_nil⟩
  | cons k cids ih =>
    obtain ⟨hr, hk, hothers⟩ := reportCore_free h hp k
    refine ih hr ?_
    by_cases hck : c = k
    · exact .inr (hck ▸ hk)
    · rw [hothers c hck]
      exact hc.imp_left fun hm => (List.mem_cons.1 hm).resolve_left hck

/-- The state in which every core of a die has reported. -/
def dieReported (s : State) (die : Nat) : State :=
  ((List.range Config.coresPerDie).map (die * Config.coresPerDie + ·)).foldl (fun u k => u.reportCore k) s

/-- A launch at the end of a report interval. -/
def intervalOver (l : Launch) : Launch :=
  { l with skips := l.skipped.foldl (fun m u => put 0 m u (look 0 l.skips u + 1)) [], skipped := [] }

theorem dieReport_eq (die : Nat) : s.dieReport die = if die ≠ 0 then dieReported s die else
    { dieReported s die with launches := (dieReported s die).launches.map fun e => (e.1, intervalOver e.2) } := by
  unfold State.dieReport dieReported intervalOver
  rfl

theorem dieReported_free {die : Nat} (hs : s.sent = []) (hp : s.pins = []) {c : Nat} (hc : c / Config.coresPerDie = die) :
    (dieReported s die).shadowOf c = s.freeNow c := by
  have hpos : 0 < Config.coresPerDie := by decide
  have hmem : c ∈ (List.range Config.coresPerDie).map (die * Config.coresPerDie + ·) := by
    refine List.mem_map.2 ⟨c % Config.coresPerDie, List.mem_range.2 (Nat.mod_lt c hpos), ?_⟩
    rw [← hc]
    exact Nat.div_add_mod' c Config.coresPerDie
  have hkeep : Reporting s s := by
    unfold Reporting
    rw [← hs]
  unfold dieReported
  generalize (List.range Config.coresPerDie).map (die * Config.coresPerDie + ·) = cids at hmem ⊢
  exact (reports_free hp cids hkeep (Or.inl hmem)).2

theorem dieReport_free {die : Nat} (hs : s.sent = []) (hp : s.pins = []) {c : Nat} (hc : c / Config.coresPerDie = die) :
    (s.dieReport die).shadowOf c = s.freeNow c := by
  have hshadow (u : State) : (if die ≠ 0 then u else { u with launches := u.launches.map fun e => (e.1, intervalOver e.2) }).shadowOf c =
      u.shadowOf c := by
    split <;> rfl
  rw [dieReport_eq, hshadow (dieReported s die)]
  exact dieReported_free hs hp hc

/-! ## Chunks (R153) -/

theorem ceilDiv_pos {n k : Nat} (hn : 0 < n) (hk : 0 < k) : 0 < ceilDiv n k := by
  unfold ceilDiv
  exact Nat.div_pos (by omega) hk

theorem dealChunk_early {id a b : Nat} {rest : List (Nat × Nat)} (ha : (s.launch id).asks = (a, b) :: rest) (h : s.clk ≤ a) :
    s.dealChunk id = s := by
  unfold State.dealChunk
  simp only [ha]
  cases (s.launch id).job with
  | none => rfl
  | some j => exact if_pos (.inl h)

/-- The launch with the next `n` of its tasks dealt to the block that asked first. -/
def dealt (l : Launch) (b n clk : Nat) (rest : List (Nat × Nat)) : Launch :=
  { l with next := l.next + n, rem := l.rem - n, chunkNo := l.chunkNo + 1, asks := rest, dealtAt := clk + 1
           chunks := put [] l.chunks b (look [] l.chunks b ++ (List.range n).map (l.next + ·))
           undone := l.undone ++ ((List.range n).map (l.next + ·)).filter fun i => !l.undone.contains i }

theorem dealChunk_next {id b n a : Nat} {l : Launch} {rest : List (Nat × Nat)} {j : JobCard} (hl : s.launch id = l)
    (ha : l.asks = (a, b) :: rest) (hlt : a < s.clk) (hd : l.dealtAt ≤ s.clk) (hj : l.job = some j) (hr : l.redeal = [])
    (hp : l.prime = 0) (hdet : l.det = false) (hrem : 0 < l.rem)
    (hn : n = min l.rem (max j.minch (ceilDiv l.rem (2 * max 1 (s.coresOf id).length)))) :
    s.dealChunk id = s.putLaunch id (dealt l b n s.clk rest) := by
  have hturn : ¬ (s.clk ≤ a ∨ s.clk < l.dealtAt) := by omega
  have hcom : ((List.range n).map (l.next + ·)).filter (fun i => !s.committed l i) = (List.range n).map (l.next + ·) :=
    List.filter_eq_self.2 fun i _ => by simp [State.committed, hp]
  have hpos : 0 < n := by
    have hc : 0 < ceilDiv l.rem (2 * max 1 (s.coresOf id).length) := ceilDiv_pos hrem (by omega)
    omega
  have hne : (List.range n).map (l.next + ·) ≠ [] := fun h => by
    have := List.map_eq_nil_iff.1 h
    rw [List.range_eq_nil] at this
    omega
  have hmin : Nat.min l.rem (Nat.max j.minch (ceilDiv l.rem (2 * Nat.max 1 (s.coresOf id).length))) = n := hn.symm
  unfold State.dealChunk
  simp only [hl, ha, hj, if_neg hturn, hr, if_neg (Nat.ne_of_gt hrem), hdet, Bool.false_eq_true, if_false, hmin, hcom,
      if_neg hne, if_true,
    dealt, Launch.deal]

/-! ## A warp at launch (R134, R142) -/

theorem lanesBelow_getLsbD (n : Nat) {j : Nat} (hj : j < 32) : (lanesBelow n).getLsbD j = decide (j < n) := by
  unfold lanesBelow
  split
  · rw [Accesses.allLanes hj, decide_eq_true (by omega)]
  · rw [BitVec.getLsbD_ofNat, Nat.testBit_two_pow_sub_one, decide_eq_true hj, Bool.true_and]

/-- Settles O57. -/
theorem launches : Obligations.Launches := by
  refine ⟨fun s p port hv => ?_, fun s p x port hv hw hx hh h0 h4 h5 h6 h7 h2 => ⟨?_, fun hm => ?_⟩,
      fun a b hk h => launchBefore_earlier hk h,
    fun s id u l rest lay hr hu hp hs hl => ?_, fun s hr hu => ?_, fun s id u => ⟨fun h hb => ?_, fun h => ?_⟩,
    fun s die hd hs hp => ⟨_, exec_resourceReport die s, fun c hc => ?_⟩, fun s cid id l hl hu hrep hv hall ho hb => ?_,
        fun s cid id h => ?_,
    fun s id b a rest ha h => ?_, fun s id b n a l rest j hl ha hlt hd hj hr hp hdet hrem hn => ?_,
        fun l id blk idx lin clk w hw => ?_⟩
  · rw [exec_launchCommand, execLaunchCommand, State.launchCommand]
    simp [hv]
  · exact launchCommand_accepted hv hw hx hh h0 h4 h5 h6 h7 h2
  · obtain ⟨l, hl, he⟩ := acceptLaunch_misaligned (s := s) hm p.w2 x port
    refine ⟨_, (launchCommand_accepted hv hw hx hh h0 h4 h5 h6 h7 h2).trans (congrArg _ he), rfl, ?_, rfl, rfl⟩
    rw [State.launch, look_put_same]
    exact hl
  · rw [exec_placementAttempt, execPlacementAttempt, readLaunches_read hu]
    simp only [hr, if_true, hp, State.placeFirst, hs, hl]
  · rw [exec_placementAttempt, execPlacementAttempt, readLaunches_read hu]
    simp only [hr, Bool.false_eq_true, if_false]
  · rw [exec_unitBlocking, execUnitBlocking]
    simp only [h, true_and, List.contains_iff_mem, hb, not_false_eq_true, if_true]
  · rw [exec_unitBlocking, execUnitBlocking]
    simp only [Nat.not_le.2 h, false_and, if_false]
  · rw [if_pos hd]
    exact dieReport_free hs hp hc
  · have hused : [cid].contains cid = true := by simp
    have hrun : ({ l with reported := [cid], used := [cid], verdict := none } : Launch).allRetired = true := hall
    rw [exec_coreLaunchReport, execCoreLaunchReport, State.coreReport]
    simp only [hl, hu, hused, ho, hb, hv, hrep, Bool.not_false, Option.isNone_none, Bool.and_self, if_true, List.contains_nil,
      Bool.false_eq_true, if_false, List.nil_append, List.all_cons, List.all_nil, hrun]
  · rw [exec_coreLaunchReport, execCoreLaunchReport, State.coreReport]
    rcases h with h | h
    · simp only [h, Bool.not_true, Bool.and_false, Bool.false_and, Bool.false_eq_true, if_false]
    · simp only [h, Bool.not_true, Bool.and_false, Bool.false_and, Bool.false_eq_true, if_false]
  · rw [exec_dealChunk, execDealChunk, dealChunk_early ha h]
  · rw [exec_dealChunk, execDealChunk, dealChunk_next hl ha hlt hd hj hr hp hdet hrem hn]
    rfl
  · subst hw
    have hs (j : Nat) : (l.newWarp id blk idx lin clk).s1 j = if j = 1 then { val := l.recVA } else if j = 0 then
        { val := l.args } else {} := by
      rw [Warp.s1, Launch.newWarp]
      dsimp only
      rw [look_put, look_put]
      rfl
    refine ⟨rfl, rfl, hs 0, hs 1, fun j hj => ?_, rfl, rfl, rfl, rfl, rfl, rfl, rfl, fun j hj => lanesBelow_getLsbD l.lanes hj⟩
    rw [hs j, if_neg (by omega), if_neg (by omega)]

end Sys2Proof.Proofs.Launching
end

section
/-! How back-offs, YIELDs, polls and signal waits end (R156, R157, R174, R175, R411): O58. -/
namespace Sys2Proof.Proofs.WaitsOver
open Sys2Proof Sys2Proof.Machine Sys2Proof.Proofs.Arms

variable {s u : State}

theorem yieldOver_iff (y : List (Nat × Nat)) (n : Nat) : s.yieldOver y n = true ↔
    n ≤ s.clk ∨ ∀ e ∈ y, (s.warp e.1).status ≠ .run ∨ (s.warp e.1).issues ≠ e.2 := by
  simp [State.yieldOver, List.all_eq_true]

theorem resolvePoll_read {k v id : Nat} {va cmp : Word} {wide : Bool} {c sc : Nat} {d : Opnd} {m : W32} (hr :
    (s.warp k).status = .run)
    (hw : (s.warp k).wait = .poll va wide cmp c sc d m id) (hf : s.freshRead k id (if wide then 8 else 4) m va = .val u v) :
    s.resolvePoll k = u.asWarp k fun t =>
      if pollCond c v cmp.toNat then ((t.setW { ({ u.warp k with wait := .none, ready0 := u.clk } : Warp).setStatus m d true with
        prio := (u.warp k).basePrio, pollK := 0 }).acquireL1 (u.warp k).launch t.cid (u.warp k).ctx sc).advance 1
      else (t.setW { ({ u.warp k with wait := .none, ready0 := u.clk } : Warp).setStatus m d false with
        prio := (u.warp k).prio - 1, pollK := (u.warp k).pollK + 1
        wait := .backoff (u.clk + backoffOf ((u.warp k).pollK + 1)) }).advance 1 := by
  unfold State.resolvePoll
  simp only [hr, hw, if_true, hf]
  rfl

theorem resolveSig_early {k id sc v : Nat} {va thr : Word} {acq : Bool} {d : Opnd} {m : W32} (hr : (s.warp k).status = .run)
    (hw : (s.warp k).wait = .sigwait va thr sc acq d m id) (hf : s.freshRead k id 8 m va = .val u v) (hv : v < thr.toNat) :
    s.resolveSig k = u.watchWord k va := by
  unfold State.resolveSig
  simp only [hr, hw, if_true, hf, if_pos hv]

theorem endBackoff_eq {k n : Nat} (h : (s.warp k).wait = .backoff n) :
    s.endBackoff k = if n ≤ s.clk then s.freeWarp k else s := by
  rw [State.endBackoff, h]

theorem endYield_eq {k n : Nat} {y : List (Nat × Nat)} (h : (s.warp k).wait = .yield y n) :
    s.endYield k = if s.yieldOver y n then s.freeWarp k else s := by
  rw [State.endYield, h]

theorem watchWord_is {k ia : Nat} {va : Word} (h : (u.ctx (u.warp k).ctx).translate .load va = .ok ia) :
    u.watchWord k va = { u with watches := (u.watchWord k va).watches } ∧ (ia, u.did, k) ∈ (u.watchWord k va).watches := by
  have he : u.watchWord k va = if u.watches.contains (ia, u.did, k) then u
      else { u with watches := u.watches ++ [(ia, u.did, k)] } := by
    rw [State.watchWord, h]
  rw [he]
  split
  · next hc => exact ⟨rfl, List.contains_iff_mem.1 hc⟩
  · exact ⟨rfl, List.mem_append_right _ (List.mem_singleton_self _)⟩

/-- Settles O58. -/
theorem waitsEnd : Obligations.WaitsEnd := by
  refine ⟨fun s k hr h => ?_, fun s k h => ?_, fun s k n hw => ⟨fun h => ?_, fun h => ?_⟩, fun s k n y hw =>
      ⟨fun h => ?_, fun h hy => ?_⟩,
    fun s u k v id va cmp wide c sc p m hr hw hf => ⟨fun hc => ⟨_, Wide.setStatus_is _ m p true, ?_⟩, fun hc =>
      ⟨_, Wide.setStatus_is _ m p false, ?_⟩⟩, fun k _ => rfl,
    fun s u k v ia id va thr acq sc p m hr hw hf => ⟨fun hv hx => ?_, fun hv hacq => ?_⟩⟩
  · rw [exec_warpUrgent, execWarpUrgent]
    exact congrArg _ (if_pos ⟨hr, h⟩)
  · rw [exec_warpUrgent, execWarpUrgent]
    refine congrArg _ (if_neg fun hx => ?_)
    have hmax : max (s.warp k).ready0 ((s.warp k).lastIssue + 1) + 32 ≤ s.clk := hx.2
    omega
  · rw [exec_pollBackoffEnd, execPollBackoffEnd, endBackoff_eq hw, if_pos h]
    rfl
  · rw [exec_pollBackoffEnd, execPollBackoffEnd, endBackoff_eq hw, if_neg (Nat.not_le.2 h)]
  · rw [exec_yieldTimeout, execYieldTimeout, endYield_eq hw, if_pos ((yieldOver_iff y n).2 h)]
    rfl
  · obtain ⟨e, he, hr, hi⟩ := hy
    rw [exec_yieldTimeout, execYieldTimeout, endYield_eq hw, if_neg]
    intro hover
    rcases (yieldOver_iff y n).1 hover with h1 | h1
    · omega
    · exact (h1 e he).elim (fun h2 => h2 hr) fun h2 => h2 hi
  · rw [exec_pollAttemptResolved, execPollAttemptResolved, resolvePoll_read hr hw hf]
    simp only [hc, if_true]
  · rw [exec_pollAttemptResolved, execPollAttemptResolved, resolvePoll_read hr hw hf]
    simp only [hc, Bool.false_eq_true, if_false]
  · rw [exec_sigwaitReadResult, execSigwaitReadResult, resolveSig_early hr hw hf hv]
    exact ⟨_, rfl, watchWord_is hx⟩
  · subst hacq
    exact ⟨_, Wide.setStatus_is _ m p true, by
      rw [exec_sigwaitReadResult, execSigwaitReadResult, Names.resolveSig_met hr hw hf hv]⟩

end Sys2Proof.Proofs.WaitsOver
end

section
/-! How blocks drain, are flushed and are saved (R308, R309, R312, R313): O59. -/
namespace Sys2Proof.Proofs.Preempt
open Sys2Proof Sys2Proof.Machine Sys2Proof.Proofs.Arms

variable {s u : State}

/-! ## Drains -/

/-- A pre-emption counted for a context (R327). -/
def preemptCounted (s : State) (x : Nat) : State := (s.count 0x15).countCtx x 0x108

theorem preemptCounted_is (x : Nat) : preemptCounted s x = { s with smp := { s.smp with cnt := (preemptCounted s x).smp.cnt } } := by
  unfold preemptCounted State.countCtx
  split <;> rfl

theorem beginPreempt_drain {blk dl : Nat} {b : Block} (hb : s.block blk = b) : s.beginPreempt blk .drain dl =
    { s with blocks := put {} s.blocks blk { b with pre := .drain (if dl = 0 then 0 else s.clk + dl) }
             smp := { s.smp with cnt := (s.beginPreempt blk .drain dl).smp.cnt } } := by
  have h : s.beginPreempt blk .drain dl = (preemptCounted s (s.launch b.launch).ctx).putBlock blk
      { b with pre := .drain (if dl = 0 then 0 else (preemptCounted s (s.launch b.launch).ctx).clk + dl) } := by
    rw [State.beginPreempt, hb]
    rfl
  rw [h, preemptCounted_is]
  rfl

/-- The one block of the device as its unit's only block. -/
theorem preemptRequest_one {id blk dl : Nat} {b : Block} (hb : s.blocks = [(blk, b)]) (hl : b.launch = id) (hv : b.live = true)
    (hs : b.saved = false) (hp : b.pre = .none) :
    exec (.preemptRequest (.launch id) dl) s = .next (s.beginPreempt blk (s.unitMode id [(blk, b)] dl false) dl) := by
  have hmates : s.unitMates id (b.idx / (s.launch id).unitBlocks) = [(blk, b)] := by
    simp [State.unitMates, hb, hl, hv]
  rw [exec_preemptRequest, execPreemptRequest, State.preemptBlocks]
  simp [hb, hl, hv, hs, hp, dedup, hmates]

theorem unitMode_drain {id blk dl : Nat} {b : Block} (hl : b.launch = id) (h1 : (s.launch id).expcyc ≠ 0)
    (h2 : s.ranFor b < (s.launch id).expcyc) (h3 : (s.launch id).expcyc - s.ranFor b ≤ 2 * s.saveClocks b)
    (h4 : dl = 0 ∨ (s.launch id).expcyc - s.ranFor b ≤ dl) : s.unitMode id [(blk, b)] dl false = .drain := by
  have hm : s.modeOf b dl = .drain := by
    rw [State.modeOf, hl]
    exact if_pos ⟨h1, h2, h3, h4⟩
  unfold State.unitMode
  simp [hm, strongest]

theorem unitMode_forced (id blk dl : Nat) (b : Block) (hi : (s.launch id).idem = false) : s.unitMode id [(blk, b)] dl true =
    if s.poolHolds (s.launch id).ctx [blk] then .save else .drain := by
  unfold State.unitMode
  by_cases hp : s.poolHolds (s.launch id).ctx [blk] = true <;> simp [hi, hp]

theorem drainDeadline_over {blk n : Nat} {b : Block} (hb : s.block blk = b) (hp : b.pre = .drain n) (hn : n ≠ 0) (hc : n ≤ s.clk)
    (hv : b.live = true) : exec (.drainDeadline blk) s = .next (s.beginPreempt blk (s.unitMode b.launch [(blk,
        b)] 0 true) 0) := by
  rw [exec_drainDeadline, execDrainDeadline]
  simp only [hb, hp, hn, hc, hv, ne_eq, not_false_eq_true, and_self, if_true]

/-! ## Flushes -/

theorem returnUnit_blocks (id n : Nat) : (s.returnUnit id n).blocks = s.blocks := by
  unfold State.returnUnit
  dsimp only
  split <;> rfl

theorem finishFlush_over {blk : Nat} {b : Block} (hb : s.block blk = b) (hp : b.pre = .flush) (ho : s.ops = []) (hc : s.cmds = [])
    (hw : s.blockWarps b.launch blk = []) : (s.finishFlush blk).blocks = put {} s.blocks blk {} := by
  unfold State.finishFlush
  rw [hb]
  extract_lets b1 st busy n s1 s2
  have hst : st = s := by
    show ({ s with cmds := s.cmds.filter _ } : State) = s
    rw [hc, List.filter_nil, ← hc]
  have hbusy : busy = false := by
    show ((st.ops.any _ || st.cmds.any _) || decide (st.blockWarps b.launch blk ≠ [])) = false
    rw [hst, ho, hc, hw]
    rfl
  have hs2 : s2.blocks = put {} st.blocks blk {} := by
    show (if _ then _ else _ : State).blocks = _
    split <;> rfl
  have hb1 : b1.pre = .flush := hp
  rw [hbusy, hb1, if_neg (by simp), returnUnit_blocks]
  exact hs2.trans (by rw [hst])

/-! ## Saves -/

/-- The warps of a block that have all stopped. -/
structure Stopped (s : State) (blk : Nat) (b : Block) : Prop where
  block : s.block blk = b
  once : s.slotsOnce
  ops : s.ops = []
  cmds : s.cmds = []
  some : s.blockWarps b.launch blk ≠ []
  stopped : ∀ e ∈ s.blockWarps b.launch blk, e.2.status = .stopped

theorem Stopped.warp {blk : Nat} {b : Block} (h : Stopped s blk b) {k : Nat} (hk : k ∈ (s.blockWarps b.launch blk).map (·.1)) :
    (s.warp k).status = .stopped := by
  obtain ⟨e, he, rfl⟩ := List.mem_map.1 hk
  have hin : e ∈ s.warps := (List.mem_filter.1 ((Dumps.mem_sortBy ..).1 he)).1
  rw [h.once e hin]
  exact h.stopped e he

theorem foldl_stays {α β : Type} {f : β → α → β} {b : β} (xs : List α) (h : ∀ x ∈ xs, f b x = b) : xs.foldl f b = b := by
  induction xs with
  | nil => rfl
  | cons x xs ih =>
    rw [List.foldl_cons, h x List.mem_cons_self]
    exact ih fun y hy => h y (List.mem_cons_of_mem _ hy)

theorem runSave_stopped {blk : Nat} {b : Block} (h : Stopped s blk b) {a : Word × Nat}
    (ha : (s.ctx (s.launch b.launch).ctx).areaFor (s.areaSize blk) = some a)
    (hr : (s.flushL1 b.cid).areaReady b.cid (s.launch b.launch).ctx a.1 (s.areaSize blk) = (u, true)) (hd :
        u.l1Dirty b.cid = false) :
    s.runSave blk = u.writeSave blk ((s.blockWarps b.launch blk).map (·.1)) a := by
  have hmine : (s.blockWarps b.launch blk).filter (fun e => decide (e.2.status ≠ .halted)) = s.blockWarps b.launch blk :=
    List.filter_eq_self.2 fun e he => by rw [h.stopped e he]; rfl
  have hstop : ((s.blockWarps b.launch blk).map (·.1)).foldl (fun (t : State) k => t.stopForSave k) s = s :=
    foldl_stays _ fun k hk => by
      rw [State.stopForSave, h.warp hk]
      exact if_pos (by decide)
  have hqueues (ks : List Nat) : s.drainQueues ks = s := by
    rw [State.drainQueues, h.cmds]
    rfl
  have hquiet (k : Nat) : s.quiet k = true := by
    rw [State.quiet, State.warpOps, h.ops]
    rfl
  have hall : ((s.blockWarps b.launch blk).map (·.1)).all s.stoppedForSave = true := List.all_eq_true.2 fun k hk => by
    simp [State.stoppedForSave, h.warp hk, hquiet]
  have hne : (s.blockWarps b.launch blk).map (·.1) ≠ [] := fun he => h.some (List.map_eq_nil_iff.1 he)
  unfold State.runSave
  simp only [h.block, hmine, hstop, hqueues, hall, h.cmds, List.all_nil, hne, not_true_eq_false, or_self, if_false, ha, hr, hd,
    Bool.false_eq_true]

theorem writeSave_block (blk : Nat) (ks : List Nat) (a : Word × Nat) : ((u.writeSave blk ks a).block blk).saved = true ∧
    ((u.writeSave blk ks a).block blk).area = some a ∧ ((u.writeSave blk ks a).block blk).warps = ks.map u.warp := by
  unfold State.writeSave
  extract_lets b l ws cs lines image
  split
  extract_lets z vs core b1 c s3 s2
  have hblk : State.block ((s2.sweepCore b.cid).returnUnit b.launch (b.idx / l.unitBlocks)) blk = b1 := by
    rw [State.block, returnUnit_blocks]
    exact look_put_same ..
  rw [hblk]
  exact ⟨rfl, rfl, rfl⟩

/-- Settles O59. -/
theorem preempts : Obligations.Preempts := by
  refine ⟨fun s id blk dl b hb hl hv hs hp h1 h2 h3 h4 => ?_, fun s id dl h => ?_, fun s blk n hp hn => ?_,
    fun s blk n b hb hp hn hc hv hi => ⟨fun hpool => ?_, fun hpool => ?_⟩, fun s blk hp => ?_, fun s blk b hb hp ho hc hw => ?_,
    fun s u blk b a hb hp hone ho hc hne hst ha hr hd => ?_⟩
  · have hblk : s.block blk = b := by rw [State.block, hb, look, if_pos rfl]
    refine ⟨_, preemptRequest_one hb hl hv hs hp, ?_⟩
    rw [unitMode_drain hl h1 h2 h3 h4]
    exact beginPreempt_drain hblk
  · have hnone : s.blocks.filter (fun e => e.2.live && !e.2.saved && decide (e.2.pre = .none) && decide (e.2.launch = id)) = [] :=
      List.filter_eq_nil_iff.2 fun e he => by simp [h e he]
    rw [exec_preemptRequest, execPreemptRequest, State.preemptBlocks]
    simp only [hnone]
    rfl
  · rw [exec_drainDeadline, execDrainDeadline]
    simp only [hp]
    exact congrArg _ (if_neg fun hx => by omega)
  · refine ⟨_, drainDeadline_over hb hp hn hc hv, ?_⟩
    rw [unitMode_forced _ _ _ _ hi, hpool]
    exact beginPreempt_drain hb
  · rw [drainDeadline_over hb hp hn hc hv, unitMode_forced _ _ _ _ hi, hpool]
    rfl
  · rw [exec_blockSave, execBlockSave, State.blockSave, hp]
  · refine ⟨_, (exec_blockSave blk s).trans ?_, finishFlush_over hb hp ho hc hw⟩
    rw [execBlockSave, State.blockSave, hb, hp]
  · have he : exec (.blockSave blk) s = .next (u.writeSave blk ((s.blockWarps b.launch blk).map (·.1)) a) := by
      rw [exec_blockSave, execBlockSave, State.blockSave, hb, hp]
      exact congrArg _ (runSave_stopped ⟨hb, hone, ho, hc, hne, hst⟩ ha hr hd)
    obtain ⟨hs, harea, hw⟩ := writeSave_block (u := u) blk ((s.blockWarps b.launch blk).map (·.1)) a
    exact ⟨he, _, he, hs, harea, hw.trans (List.map_map ..)⟩

end Sys2Proof.Proofs.Preempt
end

section
/-! Pages moved whole, the patrol, the sampler and the tracer (R188, R201, R202, R316, R317, R320, R326 to R330): O60. -/
namespace Sys2Proof.Proofs.Pages
open Sys2Proof Sys2Proof.Machine Sys2Proof.Proofs.Arms

variable {s t : State}

/-! ## A run of one map laid over another -/

theorem look_foldIns_other {α : Type} (d : α) (f : Nat → Nat) {es : List (Nat × α)} {j : Nat} (h : ∀ e ∈ es, f e.1 ≠ j)
    (m : FMap α) :
    look d (es.foldl (fun m e => mapIns m (f e.1) e.2) m) j = look d m j := by
  induction es generalizing m with
  | nil => rfl
  | cons e es ih =>
    rw [List.foldl_cons, ih fun x hx => h x (List.mem_cons_of_mem _ hx), look_mapIns, if_neg (h e List.mem_cons_self).symm]

/-- The entries of a canonical map laid where nothing was listed. -/
theorem look_foldIns {α : Type} [DecidableEq α] (d : α) {es : FMap α} (hw : mapWf d es = true) (lo dest i : Nat) (hlo :
    ∀ e ∈ es, lo ≤ e.1)
    {m : FMap α} (hm : look d m (dest + i) = d) :
    look d (es.foldl (fun m e => mapIns m (e.1 - lo + dest) e.2) m) (dest + i) = look d es (lo + i) := by
  induction es generalizing m with
  | nil => exact hm
  | cons e es ih =>
    obtain ⟨a, v⟩ := e
    obtain ⟨_, habove, hes⟩ := (mapWf_cons d a v es).1 hw
    have ha : lo ≤ a := hlo (a, v) List.mem_cons_self
    have hlo' : ∀ e ∈ es, lo ≤ e.1 := fun e he => hlo e (List.mem_cons_of_mem _ he)
    rw [List.foldl_cons, look]
    by_cases hk : a = lo + i
    · rw [if_pos hk, look_foldIns_other d (fun x => x - lo + dest) (fun e he => ?_), look_mapIns, if_pos (by omega)]
      have h1 := habove e he
      have h2 := hlo' e he
      omega
    · rw [if_neg hk]
      refine ih hes hlo' ?_
      rw [look_mapIns, if_neg (by omega), hm]

theorem look_moveRun {α : Type} [DecidableEq α] (d : α) {src : FMap α} (hw : mapWf d src = true) (dst : FMap α)
    (lo dest : Nat) {n i : Nat}
    (hi : i < n) : look d (moveRun src lo n dst dest) (dest + i) = look d src (lo + i) := by
  have hcut : look d (mapCut dst dest (dest + n)) (dest + i) = d := by
    rw [mapCut, Handler.look_filter d (fun k => !(decide (dest ≤ k) && decide (k < dest + n))) dst,
      decide_eq_true (Nat.le_add_right dest i), decide_eq_true (by omega)]
    rfl
  have hlo : ∀ e ∈ src.filter (fun e => decide (lo ≤ e.1) && decide (e.1 < lo + n)), lo ≤ e.1 := fun e he => by
    have h := (List.mem_filter.1 he).2
    simp only [Bool.and_eq_true, decide_eq_true_eq] at h
    exact h.1
  unfold moveRun
  rw [look_foldIns d (mapWf_filter d _ hw) lo dest i hlo hcut, Handler.look_filter d (fun k => decide (lo ≤ k) && decide
      (k < lo + n)) src,
    decide_eq_true (Nat.le_add_right lo i), decide_eq_true (by omega)]
  rfl

/-! ## Nothing cached -/

theorem callBack_none (h : s.dir = []) (ia n : Nat) : s.callBack ia n = (s, true) := by
  rw [State.callBack, h]
  rfl

theorem purge_none (h1 : s.l1 = []) (h2 : s.l2 = []) (ia n : Nat) : s.purge ia n = s := by
  unfold State.purge
  simp only [h1, List.filter_nil, List.foldl_nil, h2]

theorem dirtyIn_none (h : s.l1 = []) (ia n : Nat) : s.dirtyIn ia n = false := by
  rw [State.dirtyIn, h]
  rfl

theorem purgePage_none (h : s.uncached) (page : Nat) : s.purgePage page = (s, true) := by
  obtain ⟨h1, h2, _⟩ := h
  rw [State.purgePage, purge_none h1 h2, dirtyIn_none h1]
  rfl

/-! ## Pins (R188) -/

theorem topBits {x : Word} {n : Nat} (h : bits x.toNat 63 62 = n) : bit x.toNat 63 = decide (2 ≤ n) ∧
    bit x.toNat 62 = decide (n % 2 = 1) := by
  have hx := x.isLt
  unfold bits at h
  unfold bit
  rw [Nat.shiftRight_eq_div_pow] at h
  simp only [Nat.shiftRight_eq_div_pow]
  constructor
  · refine Bool.eq_iff_iff.2 ?_
    simp only [beq_iff_eq, decide_eq_true_eq]
    omega
  · refine Bool.eq_iff_iff.2 ?_
    simp only [beq_iff_eq, decide_eq_true_eq]
    omega

theorem unpin_empty {i : Nat} (h : s.pin i = {}) : s.unpin i = s.putPin i {} := by
  rw [State.unpin, h]
  rfl

theorem pin_putPin (i j : Nat) (p : Pin) : (s.putPin i p).pin j = if j = i then p else s.pin j := look_put ({} : Pin) s.pins i p j

theorem pin_putPin_twice (i j : Nat) (p q : Pin) : ((s.putPin i p).putPin i q).pin j = if j = i then q else s.pin j := by
  rw [pin_putPin, pin_putPin]
  split <;> rfl

/-- A pin entry for a slice of a device that caches nothing. -/
theorem pinWrite_slice {i : Nat} {x : Word} (hi : i < 64) (hp : s.pin i = {}) (hx : bits x.toNat 63 62 = 3) (ht :
    bits x.toNat 61 54 < 128)
    (hu : s.uncached) : s.pinWrite i x =
      ((s.putPin i {}).putPin i { v := false, kind := true, tgt := bits x.toNat 61 54, pend := true, page := bits x.toNat 34 0 }).putPin i
        { v := true, kind := true, tgt := bits x.toNat 61 54, page := bits x.toNat 34 0 } := by
  obtain ⟨h63, h62⟩ : bit x.toNat 63 = true ∧ bit x.toNat 62 = true := topBits hx
  have hcached (a b : Pin) : State.uncached ((s.putPin i a).putPin i b) := hu
  unfold State.pinWrite
  simp only [if_neg (Nat.not_le.2 hi), h63, h62, Bool.not_true,
    Bool.false_eq_true, if_false, if_true, if_neg (Nat.not_le.2 ht), unpin_empty hp, State.sliceActivate, pin_putPin,
        purgePage_none (hcached _ _)]

theorem pinWrite_spad {i : Nat} {x : Word} (hi : i < 64) (hp : s.pin i = {}) (hx : bits x.toNat 63 62 = 2)
    (ht : bits x.toNat 61 54 < Config.cores) : s.pinWrite i x =
      if s.pinnedCore (bits x.toNat 61 54) = true ∨ ¬ s.isReady (.clus (bits x.toNat 61 54 / 4)) = true then s
      else { (s.putPin i {}).putPin i { v := false, kind := false, tgt := bits x.toNat 61 54, pend := true, page := bits x.toNat 34 0 } with
        shadow := put [] s.shadow (bits x.toNat 61 54) (CFree.toList { s.shadowOf (bits x.toNat 61 54) with
          lines := (s.shadowOf (bits x.toNat 61 54)).lines - 16384 }) } := by
  obtain ⟨h63, h62⟩ : bit x.toNat 63 = true ∧ bit x.toNat 62 = false := topBits hx
  unfold State.pinWrite
  simp only [if_neg (Nat.not_le.2 hi), h63, h62, Bool.not_true,
    Bool.false_eq_true, if_false, unpin_empty hp, Nat.not_le.2 ht, false_or]
  rfl

/-- A pending pin of a page of this device, made valid. -/
theorem pinActivate_spad {i a : Nat} {p : Pin} (hp : s.pin i = p) (hpend : p.pend = true) (hk : p.kind = false) (hu : s.uncached)
    (hr : ∀ r ∈ (s.core p.tgt).regions, r.base + r.lines ≤ 16384) (hf : s.frameOf p.page = some a) :
    s.pinActivate i = ((s.copyBytes (.ddr a) (2 ^ 21) (.spad p.tgt (2 ^ 21))).claimLines p.tgt 16384 16384).putPin i
      { p with v := true, pend := false } := by
  have hregions : ((s.core p.tgt).regions.any fun r => decide (16384 < r.base + r.lines)) = false :=
    List.any_eq_false.2 fun r hm => by simpa using hr r hm
  unfold State.pinActivate
  simp only [hp, hpend, hk, Bool.and_false, Bool.false_eq_true, if_false, Bool.not_true, hregions, Bool.or_self,
      callBack_none hu.2.2,
    purgePage_none hu, hf]

theorem copyIn_look {a cid off : Nat} (hm : Memory.wf s.mem = true) {n i : Nat} (hi : i < n) :
    look 0 (s.copyBytes (.ddr a) n (.spad cid off)).spad (spadKey cid off + i) = look unlisted s.mem (a + i) :=
  look_moveRun (0 : Byte) hm s.spad a (spadKey cid off) hi

theorem copyOut_look {a cid off : Nat} (hp : mapWf 0 s.spad = true) {n i : Nat} (hi : i < n) :
    look unlisted (s.copyBytes (.spad cid off) n (.ddr a)).mem (a + i) = look 0 s.spad (spadKey cid off + i) :=
  look_moveRun (0 : Byte) hp s.mem (spadKey cid off) a hi

theorem unpin_valid {i a : Nat} {p : Pin} (hp : s.pin i = p) (hv : p.v = true) (hk : p.kind = false) (hf :
    s.frameOf p.page = some a) :
    s.unpin i = (s.copyBytes (.spad p.tgt (2 ^ 21)) (2 ^ 21) (.ddr a)).putPin i { p with v := false, pend := false } := by
  unfold State.unpin
  simp only [hp, hv, hk, Bool.false_eq_true, not_false_eq_true, and_self, if_true, hf]

/-! ## Words that a link writes -/

theorem linkByte_uncached (h : s.l2 = []) (a : Nat) : s.linkByte a = look unlisted s.mem a := by
  rw [State.linkByte, State.l2Holding, h]
  rfl

theorem putLinkByte_uncached (h : s.l2 = []) {a : Nat} (hm : look .none s.memMark (a / 16) = .none) (b : Byte) :
    s.putLinkByte a b = { s with mem := put unlisted s.mem a b } := by
  rw [State.putLinkByte, State.l2Holding, h]
  exact if_pos hm

/-- What a state keeps while a link writes memory and nothing is cached. -/
def MemOnly (s t : State) : Prop := t = { s with mem := t.mem }

theorem putLinkByte_memOnly (h : s.l2 = []) (a : Nat) (b : Byte) : MemOnly s (s.putLinkByte a b) := by
  have he : s.putLinkByte a b = if look .none s.memMark (a / 16) = .none then
      { s with mem := put unlisted s.mem a b } else s := by
    rw [State.putLinkByte, State.l2Holding, h]
    rfl
  rw [he]
  split <;> exact rfl

theorem MemOnly.trans {u : State} (h : MemOnly s t) (g : MemOnly t u) : MemOnly s u := by
  unfold MemOnly at *
  rw [g, h]

theorem foldl_memOnly {α : Type} {f : State → α → State} (hf : ∀ u x, u.l2 = [] → MemOnly u (f u x)) (h : s.l2 = [])
    (xs : List α) :
    MemOnly s (xs.foldl f s) := by
  induction xs generalizing s with
  | nil => exact rfl
  | cons x xs ih =>
    have h1 := hf s x h
    have h2 : (f s x).l2 = [] := by rw [h1]; exact h
    exact h1.trans (ih h2)

theorem putLinkWord_memOnly (h : s.l2 = []) (a : Nat) (w : Word) : MemOnly s (s.putLinkWord a w) :=
  foldl_memOnly (fun _ _ hu => putLinkByte_memOnly hu _ _) h _

/-- The first bytes of a word that a link writes. -/
def wordStart (s : State) (a : Nat) (w : Word) (n : Nat) : State :=
  (List.range n).foldl (fun t i => t.putLinkByte (a + i) (BitVec.ofNat 8 (w.toNat >>> (8 * i)))) s

theorem wordStart_look (h : s.l2 = []) {a : Nat} (ha : a % 8 = 0) (hm : look .none s.memMark (a / 16) = .none) (w :
    Word) {n : Nat} (hn : n ≤ 8) :
    MemOnly s (wordStart s a w n) ∧ ∀ i, i < n → look unlisted (wordStart s a w n).mem (a + i) = BitVec.ofNat 8
        (w.toNat >>> (8 * i)) := by
  induction n with
  | zero => exact ⟨rfl, fun i hi => absurd hi (Nat.not_lt_zero i)⟩
  | succ n ih =>
    obtain ⟨hk, hl⟩ := ih (by omega)
    have hstep : wordStart s a w (n + 1) = (wordStart s a w n).putLinkByte (a + n) (BitVec.ofNat 8 (w.toNat >>> (8 * n))) := by
      rw [wordStart, List.range_succ, List.foldl_append]
      rfl
    have hl2 : (wordStart s a w n).l2 = [] := by rw [hk]; exact h
    have hmark : look .none (wordStart s a w n).memMark ((a + n) / 16) = .none := by
      rw [hk, show (a + n) / 16 = a / 16 by omega]
      exact hm
    refine ⟨hstep ▸ hk.trans (putLinkByte_memOnly hl2 _ _), fun i hi => ?_⟩
    rw [hstep, putLinkByte_uncached hl2 hmark]
    dsimp only
    rw [look_put]
    by_cases hin : i = n
    · rw [hin, if_pos rfl]
    · rw [if_neg (by omega)]
      exact hl i (by omega)

/-- A word that a link has written reads back. -/
theorem linkWord_putLinkWord (h : s.l2 = []) {a : Nat} (ha : a % 8 = 0) (hm : look .none s.memMark (a / 16) = .none) (w : Word) :
    (s.putLinkWord a w).linkWord a = w := by
  obtain ⟨hk, hl⟩ := wordStart_look h ha hm w (Nat.le_refl 8)
  have hl2 : (s.putLinkWord a w).l2 = [] := by
    rw [putLinkWord_memOnly h a w]
    exact h
  have hb : (List.range 8).map (fun i => (s.putLinkWord a w).linkByte (a + i)) = toBytes 8 w.toNat :=
    List.map_congr_left fun i hi => by
      rw [linkByte_uncached hl2]
      exact hl i (List.mem_range.1 hi)
  rw [State.linkWord, hb]
  exact word_ofBytes_toBytes w

/-- A word that a link writes elsewhere leaves a word as it is. -/
theorem linkWord_putLinkWord_other (h : s.l2 = []) {a b : Nat} (hab : a + 8 ≤ b) (w : Word) :
    (s.putLinkWord b w).linkWord a = s.linkWord a := by
  have hl2 : (s.putLinkWord b w).l2 = [] := by
    rw [putLinkWord_memOnly h b w]
    exact h
  have hkeep (j : Nat) (hj : j < b) (is : List Nat) (u : State) : look unlisted
      (is.foldl (fun t i => t.putLinkByte (b + i) (BitVec.ofNat 8 (w.toNat >>> (8 * i)))) u).mem j = look unlisted u.mem j := by
    induction is generalizing u with
    | nil => rfl
    | cons i is ih =>
      rw [List.foldl_cons, ih]
      exact (State.look_putLinkByte u (b + i) _ j).resolve_right fun hx => by omega
  rw [State.linkWord, State.linkWord]
  congr 2
  refine List.map_congr_left fun i hi => ?_
  rw [linkByte_uncached hl2, linkByte_uncached h]
  exact hkeep (a + i) (by have := List.mem_range.1 hi; omega) (List.range 8) s

/-! ## Migrations (R201, R202) -/

theorem bits_getLsbD (x : Word) (hi lo i : Nat) : (bits x.toNat hi lo).testBit i = (decide
    (i < hi + 1 - lo) && x.getLsbD (lo + i)) := by
  rw [bits, Nat.testBit_mod_two_pow, Nat.testBit_shiftRight, BitVec.testBit_toNat]

theorem migField (w : Word) : bits ((w &&& ~~~migMask) ||| (BitVec.ofNat 64 1 <<< 34)).toNat 35 34 = 1 := by
  refine Nat.eq_of_testBit_eq fun i => ?_
  rw [bits_getLsbD]
  rw [BitVec.getLsbD_or, BitVec.getLsbD_and, BitVec.getLsbD_not]
  by_cases hi : i < 2
  · have hmask : migMask.getLsbD (34 + i) = true := by
      have hall : ∀ j < 2, migMask.getLsbD (34 + j) = true := by decide
      exact hall i hi
    have hone : (BitVec.ofNat 64 1 <<< 34).getLsbD (34 + i) = (1 : Nat).testBit i := by
      have hall : ∀ j < 2, (BitVec.ofNat 64 1 <<< 34).getLsbD (34 + j) = (1 : Nat).testBit j := by decide
      exact hall i hi
    rw [hmask, hone]
    simp [hi]
  · rw [decide_eq_false (show ¬ i < 35 + 1 - 34 by omega), Bool.false_and]
    exact (Nat.testBit_lt_two_pow (Nat.lt_of_lt_of_le (by decide : 1 < 2 ^ 2) (Nat.pow_le_pow_right (by decide) (by omega)))).symm

theorem slot_putSlot (k n : Nat) (m : MigSlot) : (s.putSlot k n m).slot k n = m := by
  rw [State.slot, State.link, State.putSlot]
  dsimp only
  rw [look_put_same]
  exact look_put_same ..

/-- A link whose translations of some pages have been dropped. -/
def dropped (page n : Nat) (l : Link) : Link :=
  { l with
    tlb := mapCut l.tlb page (page + n)
    victims := l.victims.filterMap fun v =>
      match v.2.filter fun x => !(decide (page ≤ x.1) && decide (x.1 < page + n)) with
      | [] => none
      | xs => some (v.1, xs) }

theorem link_tlbInv (page n k : Nat) : (s.tlbInv page n).link k = dropped page n (s.link k) :=
  Commands.look_map ({} : Link) (fun _ => dropped page n) s.links k (a := ({} : Link)) rfl

theorem slot_tlbInv (page n k i : Nat) : (s.tlbInv page n).slot k i = s.slot k i := by
  rw [State.slot, link_tlbInv]
  rfl

/-- The state of a migration that has begun. -/
def migBegun (s : State) (k n p q : Nat) : State :=
  (((s.putSlot k n { busy := true, src := p, dst := q, pte := s.pte p }).setMig p 1).clearCopied p).tlbInv p 1

theorem migStart_begins {k n p q : Nat} (hk : k < Config.links) (hn : n < 4) (hb : (s.slot k n).busy = false) (hbad :
    s.migBad k p q = false)
    (hu : s.uncached) : s.migStart k n p q = migBegun s k n p q := by
  have hno : ¬ (n ≥ 4 ∨ k ≥ Config.links ∨ (s.slot k n).busy = true) := by
    rw [hb]
    simp only [Bool.false_eq_true, or_false]
    omega
  unfold State.migStart
  simp only [if_neg hno, hbad, Bool.false_eq_true, if_false, callBack_none hu.2.2, purgePage_none hu]
  rfl

theorem migStart_refused {k n p q : Nat} (hk : k < Config.links) (hn : n < 4) (hb : (s.slot k n).busy = false) (hbad :
    s.migBad k p q = true) :
    s.migStart k n p q = s.putSlot k n { s.slot k n with busy := false, err := true, src := p, dst := q } := by
  have hno : ¬ (n ≥ 4 ∨ k ≥ Config.links ∨ (s.slot k n).busy = true) := by
    rw [hb]
    simp only [Bool.false_eq_true, or_false]
    omega
  unfold State.migStart
  simp only [if_neg hno, hbad, if_true]

theorem setMig_memOnly (h : s.l2 = []) (p m : Nat) : MemOnly s (s.setMig p m) := by
  unfold State.setMig
  exact putLinkWord_memOnly h _ _

theorem clearCopied_memOnly (h : s.l2 = []) (p : Nat) : MemOnly s (s.clearCopied p) :=
  foldl_memOnly (fun u x hu => putLinkWord_memOnly (s := u) hu (s.sideAddr p + 64 + 8 * x) 0) h _

theorem pteAddr_aligned (p : Nat) : s.pteAddr p % 8 = 0 := by
  rw [State.pteAddr, tableBase, ddrKey]
  omega

/-- The side table lies behind the table of entries. -/
theorem sideAddr_behind {p : Nat} (h : pteIdx p < (s.link (linkOf p)).count) : s.pteAddr p + 8 ≤ s.sideAddr p := by
  rw [State.pteAddr, State.sideAddr]
  omega

theorem clearCopied_linkWord (h : s.l2 = []) {p : Nat} (hc : pteIdx p < (s.link (linkOf p)).count) :
    (s.clearCopied p).linkWord (s.pteAddr p) = s.linkWord (s.pteAddr p) := by
  have hbehind := sideAddr_behind hc
  have hall (is : List Nat) (u : State) (hu : u.l2 = []) :
      (is.foldl (fun (t : State) i => t.putLinkWord (s.sideAddr p + 64 + 8 * i) 0) u).linkWord
          (s.pteAddr p) = u.linkWord (s.pteAddr p) := by
    induction is generalizing u with
    | nil => rfl
    | cons i is ih =>
      have hu1 : (u.putLinkWord (s.sideAddr p + 64 + 8 * i) 0).l2 = [] := by
        rw [putLinkWord_memOnly hu]
        exact hu
      rw [List.foldl_cons, ih _ hu1, linkWord_putLinkWord_other hu (by omega)]
  exact hall (List.range 8) s h

theorem putSlot_link (k n j : Nat) (m : MigSlot) : ((s.putSlot k n m).link j).table = (s.link j).table := by
  rw [State.putSlot, State.link]
  dsimp only
  rw [look_put]
  split
  · next h => rw [h]
  · rfl

theorem linkOf_migBad {k p q : Nat} (h : s.migBad k p q = false) : linkOf p = k := by
  refine Decidable.byContradiction fun hne => ?_
  simp [State.migBad, hne] at h

theorem pteAddr_congr {p : Nat} (h : (s.link (linkOf p)).table = (t.link (linkOf p)).table) : s.pteAddr p = t.pteAddr p := by
  rw [State.pteAddr, State.pteAddr, tableBase, tableBase, h]

theorem pteTable_tlbInv (p n i : Nat) : (s.tlbInv p n).pteTable i = s.pteTable i := by
  have hlink : (s.tlbInv p n).link (linkOf i) = dropped p n (s.link (linkOf i)) := link_tlbInv ..
  have haddr : (s.tlbInv p n).pteAddr i = s.pteAddr i := pteAddr_congr (by rw [hlink]; rfl)
  rw [State.pteTable, State.pteTable, haddr, hlink]
  rfl

/-- The entry of a page that a link marks as being migrated. -/
theorem setMig_linkWord (h : s.l2 = []) {p : Nat} (hm : look .none s.memMark (s.pteAddr p / 16) = .none) :
    (s.setMig p 1).linkWord (s.pteAddr p) = ((s.pteTable p &&& ~~~migMask) ||| (BitVec.ofNat 64 1 <<< 34)) := by
  unfold State.setMig
  exact linkWord_putLinkWord h (pteAddr_aligned p) hm _

/-- A migration that has begun holds its slot, and its page's entry says so. -/
theorem migBegun_is {k n p q : Nat} (hlink : linkOf p = k) (hu : s.uncached) (hc : pteIdx p < (s.link k).count)
    (hm : look .none s.memMark (s.pteAddr p / 16) = .none) :
    (migBegun s k n p q).slot k n = { busy := true, src := p, dst := q, pte := s.pte p } ∧
      bits ((migBegun s k n p q).pteTable p).toNat 35 34 = 1 := by
  subst hlink
  unfold migBegun
  generalize he : s.putSlot (linkOf p) n { busy := true, src := p, dst := q, pte := s.pte p } = u
  have hslot : u.slot (linkOf p) n = { busy := true, src := p, dst := q, pte := s.pte p } := by rw [← he]; exact slot_putSlot ..
  have htable : (u.link (linkOf p)).table = (s.link (linkOf p)).table := by rw [← he]; exact putSlot_link ..
  have hl2 : u.l2 = [] := by rw [← he]; exact hu.2.1
  have hmark : u.memMark = s.memMark := by rw [← he]; rfl
  have haddr : u.pteAddr p = s.pteAddr p := pteAddr_congr htable
  have hcount : pteIdx p < (u.link (linkOf p)).count := by rw [Link.count, htable]; exact hc
  have hmig := setMig_memOnly hl2 p 1
  have hmig2 : (u.setMig p 1).l2 = [] := by rw [hmig]; exact hl2
  have hclear := clearCopied_memOnly hmig2 p
  have hlinks : ((u.setMig p 1).clearCopied p).links = u.links := by rw [hclear, hmig]
  have hlink : ((u.setMig p 1).clearCopied p).link (linkOf p) = u.link (linkOf p) := by rw [State.link, hlinks]; rfl
  refine ⟨?_, ?_⟩
  · rw [slot_tlbInv, State.slot, hlink]
    exact hslot
  · have hlink1 : (u.setMig p 1).link (linkOf p) = u.link (linkOf p) := by rw [hmig]; rfl
    have haddr1 : (u.setMig p 1).pteAddr p = u.pteAddr p := pteAddr_congr (by rw [hlink1])
    have haddr2 : ((u.setMig p 1).clearCopied p).pteAddr p = u.pteAddr p := pteAddr_congr (by rw [hlink])
    have hword := clearCopied_linkWord hmig2 (p := p) (by rw [hlink1]; exact hcount)
    rw [haddr1, setMig_linkWord hl2 (by rw [hmark, haddr]; exact hm)] at hword
    rw [pteTable_tlbInv, State.pteTable, hlink, if_pos hcount, haddr2, hword]
    exact migField _

/-- A chunk copied and marked. -/
def chunkCopied (s : State) (k n : Nat) (m : MigSlot) (b : Store) : State :=
  let u := s.copyBytes (.ddr (ddrKey k (bits m.pte.toNat 33 0) (4096 * m.next))) 4096 b
  (u.putLinkByte (u.sideAddr m.src + 64 + m.next / 8) (u.linkByte (u.sideAddr m.src + 64 + m.next / 8) ||| (1 <<<
      (m.next % 8)))).putSlot k n
    { m with next := m.next + 1 }

/-- A chunk of a migration, where nothing is cached. -/
theorem migChunk_uncached {k n : Nat} {m : MigSlot} (hs : s.slot k n = m) (hb : m.busy = true) (hf : m.fwd = false) (hl :
    s.linkReady k = true)
    (hu : s.uncached) (hn : m.next ≠ 511) : s.migChunk k n =
      match s.at {} (m.dst * 2 ^ 21 + 4096 * m.next) with
      | .loc p => chunkCopied s k n m (.ddr p.addr)
      | .pin cid off _ => chunkCopied s k n m (.spad cid off)
      | .fail e => s.logFault (m.dst * 2 ^ 21 + 4096 * m.next) 0 0 e
      | _ => s := by
  have hgo : ¬ (!m.busy || m.fwd || !s.linkReady k) = true := by
    rw [hb, hf, hl]
    exact Bool.false_ne_true
  unfold State.migChunk
  rw [hs]
  simp only [if_neg hgo, callBack_none hu.2.2, purge_none hu.1 hu.2.1, dirtyIn_none hu.1, Bool.not_true,
      Bool.false_eq_true, if_false,
    if_neg hn] <;> rfl

theorem migChunk_failed {k n : Nat} {m : MigSlot} {e : MemCause} (hs : s.slot k n = m) (hb : m.busy = true) (hf : m.fwd = false)
    (hl : s.linkReady k = true) (hu : s.uncached) (he : s.at {} (m.dst * 2 ^ 21 + 4096 * m.next) = .fail e) :
    s.migChunk k n = s.logFault (m.dst * 2 ^ 21 + 4096 * m.next) 0 0 e := by
  have hgo : ¬ (!m.busy || m.fwd || !s.linkReady k) = true := by
    rw [hb, hf, hl]
    exact Bool.false_ne_true
  unfold State.migChunk
  rw [hs]
  simp only [if_neg hgo, callBack_none hu.2.2, purge_none hu.1 hu.2.1, dirtyIn_none hu.1, Bool.not_true,
      Bool.false_eq_true, if_false, he]

theorem migRelease_uncached {k n : Nat} {m : MigSlot} (hs : s.slot k n = m) (hb : m.busy = true) (hf : m.fwd = true)
    (hu : s.uncached) :
    (s.migRelease k n).slot k n = { m with busy := false, fwd := false, next := 0 } := by
  unfold State.migRelease
  simp only [hs, hb, hf, Bool.not_true, Bool.or_self, Bool.false_eq_true, if_false, purgePage_none hu]
  rw [slot_tlbInv]
  exact slot_putSlot ..

/-! ## The patrol (R316, R317) -/

/-- A sector found uncorrectable. -/
theorem scrubSector_uncorrectable (k line q : Nat) : ∃ u : State, u.warps = s.warps ∧
    u.memMark = (if look .none s.memMark (ddrKey k 0 (128 * line) / 16 + q) = .none
      then put .none s.memMark (ddrKey k 0 (128 * line) / 16 + q) .uncorrectable else s.memMark) ∧
    s.scrubSector k line q .uncorrectable = u := by
  refine ⟨_, ?_, ?_, rfl⟩
  · unfold State.scrubSector
    extract_lets j
    clear_value j
    show State.warps (if _ then _ else _) = _
    by_cases h : look .none s.memMark j = .none
    · rw [if_pos h]
      rfl
    · rw [if_neg h]
  · unfold State.scrubSector
    extract_lets j
    have hj : ddrKey k 0 (128 * line) / 16 + q = j := rfl
    rw [hj]
    clear_value j
    show State.memMark (if _ then _ else _) = _
    by_cases h : look .none s.memMark j = .none
    · rw [if_pos h, if_pos h]
      rfl
    · rw [if_neg h, if_neg h]

theorem scrubSector_warps (k line q : Nat) (r : EccResult) : (s.scrubSector k line q r).warps = s.warps := by
  cases r with
  | ok => rfl
  | correctable sup => cases sup <;> rfl
  | uncorrectable =>
    obtain ⟨u, hw, _, hu⟩ := scrubSector_uncorrectable (s := s) k line q
    rw [hu, hw]

/-- The marks after a sector has been visited: one found uncorrectable is marked. -/
theorem scrubSector_mark (k line q : Nat) (r : EccResult) :
    (r = .uncorrectable → look .none (s.scrubSector k line q r).memMark (ddrKey k 0 (128 * line) / 16 + q) ≠ .none) ∧
      ∀ j, j ≠ ddrKey k 0 (128 * line) / 16 + q → look .none (s.scrubSector k line q r).memMark j = look .none s.memMark j := by
  cases r with
  | ok => exact ⟨EccResult.noConfusion, fun _ _ => rfl⟩
  | correctable sup =>
    refine ⟨EccResult.noConfusion, fun _ _ => ?_⟩
    cases sup <;> rfl
  | uncorrectable =>
    obtain ⟨u, _, hm, hu⟩ := scrubSector_uncorrectable (s := s) k line q
    rw [hu, hm]
    generalize ddrKey k 0 (128 * line) / 16 + q = i
    by_cases h : look .none s.memMark i = .none
    · rw [if_pos h]
      refine ⟨fun _ => ?_, fun j hj => look_put_other _ _ _ _ hj⟩
      rw [look_put_same]
      exact Origin.noConfusion
    · rw [if_neg h]
      exact ⟨fun _ => h, fun _ _ => rfl⟩

theorem mem_of_nth {α : Type} {d x : α} {l : List α} {i : Nat} (h : nth d l i = x) (hx : d ≠ x) : x ∈ l := by
  induction l generalizing i with
  | nil => exact absurd h hx
  | cons y l ih =>
    cases i with
    | zero => exact List.mem_cons.2 (.inl h.symm)
    | succ i => exact List.mem_cons_of_mem _ (ih h)

/-- A line visited up to some sector. -/
def scrubbed (s : State) (k line : Nat) (ecc : List EccResult) (n : Nat) : State :=
  (List.range n).foldl (fun u q => u.scrubSector k line q (nth .ok ecc q)) s

theorem scrubbed_succ (k line : Nat) (ecc : List EccResult) (n : Nat) :
    scrubbed s k line ecc (n + 1) = (scrubbed s k line ecc n).scrubSector k line n (nth .ok ecc n) := by
  rw [scrubbed, List.range_succ, List.foldl_append]
  rfl

theorem scrubbed_is (k line : Nat) (ecc : List EccResult) (n : Nat) : (scrubbed s k line ecc n).warps = s.warps ∧
    ∀ q, q < n → nth .ok ecc q = .uncorrectable →
      look .none (scrubbed s k line ecc n).memMark (ddrKey k 0 (128 * line) / 16 + q) ≠ .none := by
  induction n with
  | zero => exact ⟨rfl, fun q hq => absurd hq (Nat.not_lt_zero q)⟩
  | succ n ih =>
    obtain ⟨hw, hm⟩ := ih
    rw [scrubbed_succ]
    refine ⟨(scrubSector_warps ..).trans hw, fun q hq he => ?_⟩
    obtain ⟨hmark, hothers⟩ := scrubSector_mark (s := scrubbed s k line ecc n) k line n (nth .ok ecc n)
    by_cases hqn : q = n
    · subst hqn
      exact hmark he
    · rw [hothers _ (by omega)]
      exact hm q (by omega) he

theorem logScrub_warps (k kind q line : Nat) : (s.logScrub k kind q line).warps = s.warps := rfl

theorem putDdrSector_warps (key q : Nat) (x : Sector) : (s.putDdrSector key q x).warps = s.warps := rfl

theorem tagCheck_warps (k line : Nat) (tag : TagResult) : (s.tagCheck k line tag).warps = s.warps := by
  have hall (is : List Nat) (u : State) (f : State → Nat → State) (hf : ∀ u q, (f u q).warps = u.warps) :
      (is.foldl f u).warps = u.warps := by
    induction is generalizing u with
    | nil => rfl
    | cons q is ih => rw [List.foldl_cons, ih, hf]
  unfold State.tagCheck
  extract_lets loaded
  generalize (if loaded then tag else .notChecked) = r
  cases r with
  | pass => rfl
  | notChecked =>
    show State.warps (if line % 16384 = 0 then _ else _) = _
    by_cases h : line % 16384 = 0
    · rw [if_pos h]
      rfl
    · rw [if_neg h]
  | mismatch =>
    dsimp only
    generalize ddrKey k 0 (128 * line) / 16 = j
    exact (logScrub_warps ..).trans (hall (List.range 8) s _ fun _ _ => putDdrSector_warps ..)

theorem scrubLine_is {k : Nat} {ecc : List EccResult} {tag : TagResult} (he : (s.link k).scrubEn = true) (hr :
    s.linkReady k = true)
    (hf : 0 < (s.link k).frames) : ∃ u : State, u.warps = s.warps ∧
      (EccResult.uncorrectable ∈ ecc → u = scrubbed s k ((s.link k).pos % ((s.link k).frames * 16384)) ecc 8) ∧
      s.scrubLine k ecc tag = { u with links := put {} u.links k { u.link k with
        pos := ((s.link k).pos % ((s.link k).frames * 16384) + 1) % ((s.link k).frames * 16384) } } := by
  have hgo : ¬ (!(s.link k).scrubEn || !s.linkReady k || decide ((s.link k).frames * 16384 = 0)) = true := by
    rw [he, hr, decide_eq_false (by omega)]
    exact Bool.false_ne_true
  unfold State.scrubLine
  rw [if_neg hgo]
  extract_lets line s1 s2
  have h1 : s1 = scrubbed s k line ecc 8 := rfl
  refine ⟨s2, ?_, fun hm => ?_, rfl⟩
  · show State.warps (if _ then _ else _) = _
    split
    · rw [tagCheck_warps, h1, (scrubbed_is k line ecc 8).1]
    · rw [h1, (scrubbed_is k line ecc 8).1]
  · show (if _ then _ else _ : State) = _
    rw [if_neg, h1]
    rw [List.contains_iff_mem.2 hm]
    simp

/-! ## Rows of the ring (R328) -/

theorem recallL1s_none (h : s.l1 = []) (line : Nat) : s.recallL1s line = s :=
  Lines.recallL1s_clean fun e he => by rw [h] at he; exact absurd he List.not_mem_nil

/-- A row offered to a ring that has room for it, at a place that is ready. -/
theorem offerRow_fits {u : State} {ia kind : Nat} {p : Spot} {data row : List Word} (hf : s.rowFits)
    (hx : (s.ctx Config.mgmtCtx).translate .store s.rowVa = .ok ia) (hl : s.l1 = [])
    (hp : s.prepare (.by .store Config.mgmtCtx) ia = (s, .spot p))
    (hrow : row = BitVec.ofNat 64 s.atime :: BitVec.ofNat 64 (kind * 2 ^ 60 + s.smp.dropped) :: data)
    (hu : u = s.writeReady (.spot p) ia noWarp ((row.flatMap fun x => toBytes 8 x.toNat).zipIdx.map fun e =>
        (ia % 128 + e.2, e.1))) :
    s.offerRow kind data = ({ u with smp := { u.smp with wi := (s.smp.wi + 1) % 2 ^ 32, dropped := 0 } }, true) := by
  obtain ⟨hlen, hroom⟩ := hf
  have hstore : s.ringStore Config.mgmtCtx s.rowVa (row.flatMap fun x => toBytes 8 x.toNat) = (some u, s) := by
    rw [State.ringStore, hx]
    simp only [recallL1s_none hl, hp, hu]
  subst hrow
  unfold State.offerRow
  simp only [if_neg (Nat.ne_of_gt hlen), if_pos hroom]
  rw [State.rowVa] at hstore
  rw [hstore]

/-- The row of a tagged instruction that has reached write-back. -/
def traceData (c wid exm pc cls : Nat) (r : Rec8) : List Word :=
  [BitVec.ofNat 64 (c * 2 ^ 48 + wid * 2 ^ 32 + exm), BitVec.ofNat 64 pc, r.w4,
    BitVec.ofNat 64 (bits r.w5.toNat 63 48 * 2 ^ 48 + traceLevel cls (bits r.w5.toNat 47 45) * 2 ^ 45), 0, 0]

theorem traceRow_eq {c k wid exm pc id cls : Nat} {rest : List Nat} {r : Rec8}
    (h : look [] (s.core c).tagged k = wid :: exm :: pc :: id :: cls :: rest) : exec (.traceRow c k r) s =
      .next (if s.ops.any fun o => decide (o.id = id) then s
        else match s.offerRow 1 (traceData c wid exm pc cls r) with
          | (s1, true) => s1.putCore c { s1.core c with tagged := put [] (s1.core c).tagged k rest }
          | (s1, false) => s1) := by
  rw [exec_traceRow, execTraceRow, h]
  rfl

theorem notOutstanding {id : Nat} (h : ∀ o ∈ s.ops, o.id ≠ id) : ¬ (s.ops.any fun o => decide (o.id = id)) = true := by
  rw [List.any_eq_true]
  rintro ⟨o, hm, hid⟩
  exact h o hm (of_decide_eq_true hid)

/-- Settles O60. -/
theorem pagesAndPatrol : Obligations.PagesAndPatrol := by
  refine ⟨fun s i x hi hp hx ht hu => ?_, fun s i x hi hp hx ht => ⟨fun h => ?_, fun h1 h2 => ?_⟩,
    fun s i a p hp hpend hk hu hm hsp hr hf => ?_, fun s i a p hp hv hk hm hsp hf => ?_, fun s i h => ?_,
    fun s k n a b hk hn hb => ⟨fun hbad => ?_, fun hbad hu hc hm => ?_⟩, fun s u k n m b hs hb hf hl hu hn hd hcopy => ?_,
    fun s k n m e hs hb hf hl hu he => ?_, fun s k n hb => ?_, fun s k n m hs hb hf hu => ?_, fun s k ecc tag he hr hf => ?_,
    fun s k ecc tag he => ?_, fun s => ⟨fun he => ?_, fun he hl hfull => ?_⟩, fun s u ia p row he hf hx hl hp hrow hu => ?_,
    fun s c k n hc hk h0 => ⟨fun h1 h2 => ?_, fun h => ?_⟩, fun s c k n h => ?_,
    fun s c k wid exm pc id cls rest r hq => ⟨fun ho => ?_, fun ho => ⟨fun hl => ?_, fun u ia p row hf hx hl hp hrow hu => ?_⟩⟩⟩
  · refine ⟨_, (exec_pinWrite ..).trans (congrArg Host.Outcome.next (pinWrite_slice hi hp hx ht hu)), rfl, fun j => ?_⟩
    rw [pin_putPin, pin_putPin_twice]
    split <;> rfl
  · rw [exec_pinWrite, execPinWrite, pinWrite_spad hi hp hx ht, if_pos (h.imp_right fun h => by rw [h]; exact Bool.false_ne_true)]
  · have hno : ¬ (s.pinnedCore (bits x.toNat 61 54) = true ∨ ¬ s.isReady (.clus (bits x.toNat 61 54 / 4)) = true) := by
      rw [h1, h2]
      simp
    have he := pinWrite_spad hi hp hx ht
    rw [if_neg hno] at he
    refine ⟨_, (exec_pinWrite ..).trans (congrArg Host.Outcome.next he), rfl, ?_, fun j => pin_putPin_twice ..⟩
    rw [State.shadowOf]
    dsimp only
    rw [look_put_same]
    rfl
  · refine ⟨_, (exec_pinActivate ..).trans (congrArg Host.Outcome.next (pinActivate_spad hp hpend hk hu hr hf)), ?_, rfl,
        fun off ho => ?_⟩
    · rw [pin_putPin, if_pos rfl]
    · have hkey : spadKey p.tgt (2 ^ 21 + off) = spadKey p.tgt (2 ^ 21) + off := by unfold spadKey; omega
      rw [hkey]
      exact copyIn_look hm ho
  · have he : exec (.pinRelease i) s = .next (s.unpin i) := by
      rw [exec_pinRelease, execPinRelease, hp, hv, if_pos rfl]
    rw [unpin_valid hp hv hk hf] at he
    refine ⟨_, he, ?_, rfl, fun off ho => ?_⟩
    · rw [pin_putPin, if_pos rfl]
    · have hkey : spadKey p.tgt (2 ^ 21 + off) = spadKey p.tgt (2 ^ 21) + off := by unfold spadKey; omega
      rw [hkey]
      exact copyOut_look hsp ho
  · rw [exec_pinRelease, execPinRelease, h, if_neg Bool.false_ne_true]
  · rw [exec_migrationStart, execMigrationStart, migStart_refused hk hn hb hbad]
  · refine ⟨_, (exec_migrationStart ..).trans (congrArg Host.Outcome.next (migStart_begins hk hn hb hbad hu)), ?_⟩
    exact migBegun_is (linkOf_migBad hbad) hu hc hm
  · have he := migChunk_uncached hs hb hf hl hu (Nat.ne_of_lt hn)
    rw [exec_migrationChunkCopy, execMigrationChunkCopy, he]
    subst hcopy
    rcases hd with ⟨p, hp, rfl⟩ | ⟨c, o, h, hp, rfl⟩
    · rw [hp]
      rfl
    · rw [hp]
      rfl
  · rw [exec_migrationChunkCopy, execMigrationChunkCopy, migChunk_failed hs hb hf hl hu he]
  · rw [exec_migrationChunkCopy, execMigrationChunkCopy, exec_migrationRelease, execMigrationRelease, State.migChunk,
        State.migRelease]
    simp only [hb, Bool.not_false, Bool.true_or, if_true, and_self]
  · exact ⟨_, exec_migrationRelease .., migRelease_uncached hs hb hf hu⟩
  · obtain ⟨u, hw, hmark, hl⟩ := scrubLine_is (ecc := ecc) (tag := tag) he hr hf
    refine ⟨_, (exec_scrubLine ..).trans (congrArg Host.Outcome.next hl), ?_, hw, fun q hq hunc => ?_⟩
    · rw [State.link]
      dsimp only
      rw [look_put_same]
    · rw [hmark (mem_of_nth hunc EccResult.noConfusion)]
      exact (scrubbed_is ..).2 q hq hunc
  · rw [exec_scrubLine, execScrubLine, State.scrubLine]
    simp only [he, Bool.not_false, Bool.true_or, if_true]
  · rw [exec_sampleRow, execSampleRow, he, if_neg Bool.false_ne_true]
  · have hno : ¬ (s.smp.wi + 2 ^ 32 - s.smp.ri) % 2 ^ 32 < s.smp.len := Nat.not_lt.2 hfull
    rw [exec_sampleRow, execSampleRow, he, if_pos rfl, State.offerRow, if_neg (Nat.ne_of_gt hl), if_neg hno]
  · rw [exec_sampleRow, execSampleRow, he, if_pos rfl, offerRow_fits hf hx hl hp (by rw [hrow, Nat.zero_mul, Nat.zero_add]) hu]
  · rw [exec_traceTag, execTraceTag]
    exact congrArg _ (if_pos ⟨hc, hk, h1, h2, h0⟩)
  · rw [exec_traceTag, execTraceTag]
    exact congrArg _ (if_neg fun hx => Nat.not_lt.2 h hx.2.2.2.1)
  · rw [exec_traceTag, execTraceTag]
    exact congrArg _ (if_neg fun hx => h hx.2.2.2.2)
  · obtain ⟨o, hm, hid⟩ := ho
    rw [traceRow_eq hq, if_pos (List.any_eq_true.2 ⟨o, hm, decide_eq_true hid⟩)]
  · rw [traceRow_eq hq, if_neg (notOutstanding ho), State.offerRow, if_pos hl]
  · subst hrow
    rw [traceRow_eq hq, if_neg (notOutstanding ho), offerRow_fits hf hx hl hp (by rw [Nat.one_mul]; rfl) hu]
    rfl

end Sys2Proof.Proofs.Pages
end

section
/-! Memory and the scratchpads in canonical form, and what that says of the answers that carry a state: O5 and O6. -/
namespace Sys2Proof.Machine

/-- Memory and the scratchpads of a state in their canonical form. -/
def State.Formed (s : State) : Prop := Memory.wf s.mem = true ∧ mapWf 0 s.spad = true

theorem formed_congr {s t : State} (hm : t.mem = s.mem) (hs : t.spad = s.spad) (h : s.Formed) : t.Formed := by
  unfold State.Formed at *; rw [hm, hs]; exact h

theorem State.Formed.upd {s t : State} (h : s.Formed) (hm : t.mem = s.mem) (hs : t.spad = s.spad) : t.Formed := by
  unfold State.Formed at *; rw [hm, hs]; exact h

theorem ite_formed {c : Prop} {_ : Decidable c} {s t : State} (hs : s.Formed) (ht : t.Formed) :
    (if c then s else t).Formed := by split <;> assumption

theorem State.Formed.of_fst {α : Type} {p : State × α} {t : State} {a : α} (h : p.1.Formed) (e : p = (t, a)) : t.Formed := by
  subst e; exact h

theorem foldl_formed {β : Type} {f : State → β → State} (hf : ∀ t x, t.Formed → (f t x).Formed) {xs : List β} {s : State}
    (h : s.Formed) : (xs.foldl f s).Formed := by
  induction xs generalizing s with
  | nil => exact h
  | cons x xs ih => exact ih (hf s x h)

theorem foldl_fst_formed {α β : Type} {f : State × α → β → State × α} (hf : ∀ p x, p.1.Formed → (f p x).1.Formed)
    {xs : List β} {p : State × α} (h : p.1.Formed) : (xs.foldl f p).1.Formed := by
  induction xs generalizing p with
  | nil => exact h
  | cons x xs ih => exact ih (hf p x h)

/-- The state that a fetch leaves, if any, is formed. -/
def Fetched.Formed : Fetched → Prop
  | .word _ t => t.Formed
  | .trap _ t => t.Formed
  | .wait t => t.Formed

theorem Fetched.Formed.word {x : Fetched} {w : Word} {t : State} (h : x.Formed) (e : x = .word w t) : t.Formed := by
  subst e; exact h

theorem Fetched.Formed.trap {x : Fetched} {i : TrapInfo} {t : State} (h : x.Formed) (e : x = .trap i t) : t.Formed := by
  subst e; exact h

theorem Fetched.Formed.wait {x : Fetched} {t : State} (h : x.Formed) (e : x = .wait t) : t.Formed := by
  subst e; exact h

/-- The state that a sector asked for leaves, if any, is formed. -/
def Got.Formed : Got → Prop
  | .ok t _ => t.Formed
  | .fail t _ => t.Formed
  | .wait t => t.Formed

theorem Got.Formed.ok {x : Got} {y : Sector} {t : State} (h : x.Formed) (e : x = .ok t y) : t.Formed := by subst e; exact h

theorem Got.Formed.fail {x : Got} {c : MemCause} {t : State} (h : x.Formed) (e : x = .fail t c) : t.Formed := by subst e; exact h

theorem Got.Formed.wait {x : Got} {t : State} (h : x.Formed) (e : x = .wait t) : t.Formed := by subst e; exact h

/-- The state that a fresh read leaves, if any, is formed. -/
def FreshRead.Formed : FreshRead → Prop
  | .val t _ => t.Formed
  | .psn t _ => t.Formed
  | .wait t => t.Formed

theorem FreshRead.Formed.val {x : FreshRead} {n : Nat} {t : State} (h : x.Formed) (e : x = .val t n) : t.Formed := by
  subst e; exact h

theorem FreshRead.Formed.psn {x : FreshRead} {o : Origin} {t : State} (h : x.Formed) (e : x = .psn t o) : t.Formed := by
  subst e; exact h

theorem FreshRead.Formed.wait {x : FreshRead} {t : State} (h : x.Formed) (e : x = .wait t) : t.Formed := by subst e; exact h

/-- The state that a record read leaves, if any, is formed. -/
def RecRead.Formed : RecRead → Prop
  | .ok t _ => t.Formed
  | .bad t => t.Formed
  | .wait t => t.Formed

theorem RecRead.Formed.ok {x : RecRead} {bs : List Byte} {t : State} (h : x.Formed) (e : x = .ok t bs) : t.Formed := by
  subst e; exact h

theorem RecRead.Formed.bad {x : RecRead} {t : State} (h : x.Formed) (e : x = .bad t) : t.Formed := by subst e; exact h

theorem RecRead.Formed.wait {x : RecRead} {t : State} (h : x.Formed) (e : x = .wait t) : t.Formed := by subst e; exact h

/-- The state that a command planned leaves, if any, is formed. -/
def Plan.Formed : Plan → Prop
  | .wait t => t.Formed
  | .nothing t => t.Formed
  | .trap _ => True
  | .go t _ => t.Formed

theorem Plan.Formed.wait {x : Plan} {t : State} (h : x.Formed) (e : x = .wait t) : t.Formed := by subst e; exact h

theorem Plan.Formed.nothing {x : Plan} {t : State} (h : x.Formed) (e : x = .nothing t) : t.Formed := by subst e; exact h

theorem Plan.Formed.go {x : Plan} {c : Cmd} {t : State} (h : x.Formed) (e : x = .go t c) : t.Formed := by subst e; exact h

/-- The state that a branch target checked leaves, if any, is formed. -/
def Target.Formed : Target → Prop
  | .ok _ t => t.Formed
  | .trap _ t => t.Formed
  | .wait t => t.Formed

theorem Target.Formed.ok {x : Target} {w : Word} {t : State} (h : x.Formed) (e : x = .ok w t) : t.Formed := by subst e; exact h

theorem Target.Formed.trap {x : Target} {i : TrapInfo} {t : State} (h : x.Formed) (e : x = .trap i t) : t.Formed := by
  subst e; exact h

theorem Target.Formed.wait {x : Target} {t : State} (h : x.Formed) (e : x = .wait t) : t.Formed := by subst e; exact h

/-- The state that a resumption leaves, if any, is formed. -/
def Resume.Formed : Resume → Prop
  | .inside _ t => t.Formed
  | .header t => t.Formed
  | .trap _ t => t.Formed
  | .wait t => t.Formed

theorem Resume.Formed.inside {x : Resume} {w : Word} {t : State} (h : x.Formed) (e : x = .inside w t) : t.Formed := by
  subst e; exact h

theorem Resume.Formed.header {x : Resume} {t : State} (h : x.Formed) (e : x = .header t) : t.Formed := by subst e; exact h

theorem Resume.Formed.trap {x : Resume} {i : TrapInfo} {t : State} (h : x.Formed) (e : x = .trap i t) : t.Formed := by
  subst e; exact h

theorem Resume.Formed.wait {x : Resume} {t : State} (h : x.Formed) (e : x = .wait t) : t.Formed := by subst e; exact h

/-- The state that a read by the device leaves, if any, is formed. -/
def DevRead.Formed : DevRead → Prop
  | .ok t _ => t.Formed
  | .bad t => t.Formed
  | .wait t => t.Formed

theorem DevRead.Formed.ok {x : DevRead} {bs : List Byte} {t : State} (h : x.Formed) (e : x = .ok t bs) : t.Formed := by
  subst e; exact h

theorem DevRead.Formed.bad {x : DevRead} {t : State} (h : x.Formed) (e : x = .bad t) : t.Formed := by subst e; exact h

theorem DevRead.Formed.wait {x : DevRead} {t : State} (h : x.Formed) (e : x = .wait t) : t.Formed := by subst e; exact h

/-- Of a state that may not be there. -/
def mayFormed : Option State → Prop
  | some t => t.Formed
  | none => True

theorem mayFormed.some {x : Option State} {t : State} (h : mayFormed x) (e : x = some t) : t.Formed := by subst e; exact h

/-- Of a trap with the state in which it is taken, if there is one. -/
def trapFormed : Option (TrapInfo × State) → Prop
  | some (_, t) => t.Formed
  | none => True

theorem trapFormed.some {x : Option (TrapInfo × State)} {i : TrapInfo} {t : State} (h : trapFormed x) (e : x = some (i, t)) :
    t.Formed := by subst e; exact h

/-- Of an answer with a state, or a state alone. -/
def leftFormed {α : Type} : Except State (State × α) → Prop
  | .ok (t, _) => t.Formed
  | .error t => t.Formed

theorem leftFormed.ok {α : Type} {x : Except State (State × α)} {a : α} {t : State} (h : leftFormed x) (e : x = .ok (t, a)) :
    t.Formed := by subst e; exact h

theorem leftFormed.error {α : Type} {x : Except State (State × α)} {t : State} (h : leftFormed x) (e : x = .error t) :
    t.Formed := by subst e; exact h

/-- The same with the state second. -/
def rightFormed {α : Type} : Except State (α × State) → Prop
  | .ok (_, t) => t.Formed
  | .error t => t.Formed

theorem rightFormed.ok {α : Type} {x : Except State (α × State)} {a : α} {t : State} (h : rightFormed x) (e : x = .ok (a, t)) :
    t.Formed := by subst e; exact h

theorem rightFormed.error {α : Type} {x : Except State (α × State)} {t : State} (h : rightFormed x) (e : x = .error t) :
    t.Formed := by subst e; exact h

end Sys2Proof.Machine
end

section
/-! The canonical form of memory is kept by the memory levels, the traps and the fetch. -/
namespace Sys2Proof.Machine

variable {s : State}

theorem State.Formed.putDdrSector {key q : Nat} {x : Sector} (h : s.Formed) : (s.putDdrSector key q x).Formed :=
  ⟨State.putDdrSector_memWf h.1 key q x, h.2⟩

theorem State.Formed.putLinkByte {a : Nat} {b : Byte} (h : s.Formed) : (s.putLinkByte a b).Formed := by
  refine ⟨State.putLinkByte_memWf h.1 a b, ?_⟩
  simp only [State.putLinkByte]
  split <;> split <;> exact h.2

theorem State.Formed.putSpadSector {cid off : Nat} {x : Sector} (h : s.Formed) : (s.putSpadSector cid off x).Formed :=
  ⟨h.1, mapWf_putRun 0 h.2 _ _⟩

theorem State.Formed.putLinkWord {a : Nat} {w : Word} (h : s.Formed) : (s.putLinkWord a w).Formed := by
  simp only [State.putLinkWord]
  exact foldl_formed (fun _ _ ht => ht.putLinkByte) h

theorem State.Formed.logFault {ia : Nat} {va : Word} {ctx : Nat} {c : MemCause} (h : s.Formed) :
    (s.logFault ia va ctx c).Formed :=
  h

theorem State.Formed.markChunk {ia : Nat} (h : s.Formed) : (s.markChunk ia).Formed :=
  h.putLinkByte

theorem State.Formed.writeBackL2 {k : Nat} (h : s.Formed) : (s.writeBackL2 k).Formed := by
  simp only [State.writeBackL2]
  split
  · exact h
  · split
    · exact State.Formed.markChunk ((foldl_formed (fun _ _ ht => ite_formed ht.putDdrSector ht) h).upd rfl rfl)
    · exact h
    · exact h

theorem State.Formed.dropL2 {k : Nat} (h : s.Formed) : (s.dropL2 k).Formed := by
  simp only [State.dropL2]
  split
  · exact h.writeBackL2.upd rfl rfl
  · split
    · exact h
    · exact formed_congr rfl rfl (ite_formed h h)
    · exact h
  · exact h

theorem State.Formed.fitL2 {n : Nat} {k : Nat} (h : s.Formed) : (State.fitL2 n s k).Formed := by
  induction n generalizing s k with
  | zero => exact h
  | succ n ih =>
    unfold State.fitL2
    split
    · exact h
    · split
      · exact State.Formed.dropL2 h
      · exact ih (State.Formed.dropL2 (h.upd rfl rfl))

theorem State.Formed.putL2 {k : Nat} {l : L2Line} (h : s.Formed) : (s.putL2 k l).Formed := by
  simp only [State.putL2]
  exact State.Formed.fitL2 (h.upd rfl rfl)

theorem State.Formed.fillL2 {p : Spot} {alloc : Bool} (h : s.Formed) : (s.fillL2 p alloc).Formed := by
  simp only [State.fillL2]
  exact ite_formed h (ite_formed h.putL2 h)

theorem State.Formed.putHomeSector {p : Spot} {q : Nat} {x : Sector} (h : s.Formed) : (s.putHomeSector p q x).Formed := by
  simp only [State.putHomeSector]
  exact ite_formed h.putL2 h.putDdrSector.markChunk

theorem State.Formed.conflictFor {who : Nat → Bool} {q0 : Nat} (h : s.Formed) : (s.conflictFor who q0).Formed := by
  simp only [State.conflictFor]
  refine foldl_formed (fun _ _ ht => ?_) ?_
  · exact ite_formed (ite_formed (ht.upd rfl rfl) ht) ht
  · exact h

theorem State.Formed.conflict {me q0 : Nat} (h : s.Formed) : (s.conflict me q0).Formed :=
  h.conflictFor

theorem State.Formed.askPeer {dev pia line : Nat} {excl : Bool} (h : s.Formed) : (s.askPeer dev pia line excl).Formed := by
  simp only [State.askPeer]
  exact ite_formed h (h.upd rfl rfl)

theorem State.Formed.recallOwner {line d : Nat} {keep : Bool} (h : s.Formed) : (s.recallOwner line d keep).Formed := by
  simp only [State.recallOwner]
  exact ite_formed h (h.upd rfl rfl)

theorem State.Formed.invalidateSharers {line : Nat} (h : s.Formed) : (s.invalidateSharers line).Formed := by
  simp only [State.invalidateSharers]
  exact ite_formed h (h.upd rfl rfl)

theorem State.Formed.homeReady {need : Need} {line : Nat} {r : Ready} (h : s.Formed) :
    (s.homeReady need line r).1.Formed := by
  simp only [State.homeReady]
  split
  · exact h
  · split
    · exact h
    · exact h.recallOwner

theorem State.Formed.prepare {need : Need} {ia : Nat} (h : s.Formed) : (s.prepare need ia).1.Formed := by
  simp only [State.prepare]
  split
  · exact h
  · exact h
  · exact h.homeReady
  · exact h.homeReady
  · split
    · exact h
    · split
      · exact h
      · exact h.askPeer

theorem State.Formed.fillReady {r : Ready} (h : s.Formed) : (s.fillReady r).Formed := by
  simp only [State.fillReady]
  split
  · exact h.fillL2
  · exact h

theorem State.Formed.putReadySector {r : Ready} {q : Nat} {x : Sector} (h : s.Formed) : (s.putReadySector r q x).Formed := by
  simp only [State.putReadySector]
  split
  · exact h.putHomeSector
  · exact h.putSpadSector
  · exact h.putL2
  · exact h

theorem State.Formed.doneReady {r : Ready} (h : s.Formed) : (s.doneReady r).Formed := by
  simp only [State.doneReady]
  split
  · exact ite_formed h.dropL2 h
  · exact h

theorem State.Formed.soleReady {r : Ready} (h : s.Formed) : (s.soleReady r).Formed := by
  simp only [State.soleReady]
  split
  · exact h.invalidateSharers
  · exact h.invalidateSharers
  · exact h

theorem State.Formed.notifyWrite {lo hi : Nat} (h : s.Formed) : (s.notifyWrite lo hi).Formed := by
  simp only [State.notifyWrite]
  split
  · exact h
  · refine foldl_formed (fun _ _ ht => ?_) ?_
    · exact ht
    · exact h

theorem State.Formed.writeFor {who : Nat → Bool} {r : Ready} {ia : Nat} {ws : List (Nat × Byte)} (h : s.Formed) :
    (s.writeFor who r ia ws).Formed := by
  simp only [State.writeFor]
  exact (foldl_formed (fun _ _ ht => ht.putReadySector) h.fillReady.soleReady).conflictFor.notifyWrite.doneReady

theorem State.Formed.writeReady {r : Ready} {ia me : Nat} {ws : List (Nat × Byte)} (h : s.Formed) :
    (s.writeReady r ia me ws).Formed :=
  h.writeFor

theorem State.Formed.putL1 {cid line : Nat} {l : L1Line} (h : s.Formed) : (s.putL1 cid line l).Formed :=
  h

theorem State.Formed.flushBytes {cid line : Nat} {m : BitVec 128} (h : s.Formed) : (s.flushBytes cid line m).Formed := by
  simp only [State.flushBytes]
  split
  · exact h
  · split
    · exact h.prepare.of_fst ‹_›
    · exact (h.prepare.of_fst ‹_›).logFault.putL1
    · exact (h.prepare.of_fst ‹_›).writeFor.putL1

theorem State.Formed.flushLine {cid line : Nat} (h : s.Formed) : (s.flushLine cid line).Formed :=
  h.flushBytes

theorem State.Formed.writeBackL1 {cid line : Nat} (h : s.Formed) : (s.writeBackL1 cid line).Formed := by
  simp only [State.writeBackL1]
  exact ite_formed h h.flushLine

theorem State.Formed.flushL1 {cid : Nat} (h : s.Formed) : (s.flushL1 cid).Formed := by
  simp only [State.flushL1]
  exact foldl_formed (fun _ _ ht => ht.writeBackL1) h

theorem State.Formed.flushWb {cid k : Nat} (h : s.Formed) : (s.flushWb cid k).Formed := by
  simp only [State.flushWb]
  exact foldl_formed (fun _ _ ht => ite_formed ht ht.flushBytes) h

theorem State.Formed.dropClean {cid line : Nat} (h : s.Formed) : (s.dropClean cid line).Formed :=
  h.putL1

theorem State.Formed.invalidateClean {cid ctx : Nat} (h : s.Formed) : (s.invalidateClean cid ctx).Formed := by
  simp only [State.invalidateClean]
  exact foldl_formed (fun _ _ ht => ht.dropClean) h

theorem State.Formed.dropAllClean {cid : Nat} (h : s.Formed) : (s.dropAllClean cid).Formed := by
  simp only [State.dropAllClean]
  exact foldl_formed (fun _ _ ht => ht.dropClean) h

theorem State.Formed.evictL1 {cid line : Nat} (h : s.Formed) : (s.evictL1 cid line).Formed := by
  simp only [State.evictL1]
  exact ite_formed h.writeBackL1.putL1 h.writeBackL1

theorem State.Formed.l1Room {cid line : Nat} (h : s.Formed) : (s.l1Room cid line).1.Formed := by
  simp only [State.l1Room]
  split
  · exact h
  · exact State.Formed.evictL1 (h.upd rfl rfl)

theorem State.Formed.recallL1s {line : Nat} (h : s.Formed) : (s.recallL1s line).Formed := by
  simp only [State.recallL1s]
  exact foldl_formed (fun _ _ ht => ht.writeBackL1) h

theorem State.Formed.flushAllL1 (h : s.Formed) : s.flushAllL1.1.Formed := by
  simp only [State.flushAllL1]
  exact foldl_formed (fun _ _ ht => ht.writeBackL1) h

theorem State.Formed.putWarp {k : Nat} {w : Warp} (h : s.Formed) : (s.putWarp k w).Formed :=
  h

theorem State.Formed.setW {w : Warp} (h : s.Formed) : (s.setW w).Formed :=
  h.putWarp

theorem State.Formed.putLaunch {n : Nat} {l : Launch} (h : s.Formed) : (s.putLaunch n l).Formed :=
  h

theorem State.Formed.putBlock {n : Nat} {b : Block} (h : s.Formed) : (s.putBlock n b).Formed :=
  h

theorem State.Formed.putCore {c : Nat} {x : Core} (h : s.Formed) : (s.putCore c x).Formed :=
  h

theorem State.Formed.putCtx {c : Nat} {x : Ctx} (h : s.Formed) : (s.putCtx c x).Formed :=
  h

theorem State.Formed.deaden {live : Nat} (h : s.Formed) : (s.deaden live).Formed :=
  h

theorem State.Formed.count {n : Nat} (h : s.Formed) : (s.count n).Formed :=
  h

theorem State.Formed.countCtx {ctx n : Nat} (h : s.Formed) : (s.countCtx ctx n).Formed := by
  simp only [State.countCtx]
  exact ite_formed h.count h

theorem State.Formed.dropVersion {v : Nat} (h : s.Formed) : (s.dropVersion v).Formed :=
  h

theorem State.Formed.publishMem {v cid : Nat} {keep : Held → Bool} (h : s.Formed) : (s.publishMem v cid keep).Formed := by
  simp only [State.publishMem]
  refine foldl_formed (fun _ line ht => ?_) ?_
  · split
    · exact ht
    · split
      · exact ht.writeBackL1.prepare.of_fst ‹_›
      · exact (ht.writeBackL1.prepare.of_fst ‹_›).logFault.putWarp
      · exact (ht.writeBackL1.prepare.of_fst ‹_›).fillReady.writeReady.dropClean
  · exact h

theorem State.Formed.canPublish {v cid scope : Nat} (h : s.Formed) : (s.canPublish v cid scope).1.Formed := by
  simp only [State.canPublish]
  refine foldl_fst_formed (fun _ line ht => ?_) ?_
  · split
    · exact ht.writeBackL1.prepare.of_fst ‹_›
    · exact ht.writeBackL1.prepare.of_fst ‹_›
    · exact ite_formed (ht.writeBackL1.prepare.of_fst ‹_›).soleReady (ht.writeBackL1.prepare.of_fst ‹_›)
  · exact h

theorem State.Formed.publishSpad {v : Nat} {keep : Held → Bool} (h : s.Formed) : (s.publishSpad v keep).Formed := by
  simp only [State.publishSpad]
  exact foldl_formed (fun _ _ ht => ite_formed ht ht.putSpadSector.conflict) h

theorem State.Formed.acquireL1 {launch core ctx scope : Nat} (h : s.Formed) :
    (s.acquireL1 launch core ctx scope).Formed := by
  simp only [State.acquireL1]
  exact ite_formed h.invalidateClean h

theorem State.Formed.releaseL1 {k core scope : Nat} (h : s.Formed) : (s.releaseL1 k core scope).Formed := by
  simp only [State.releaseL1]
  exact ite_formed h.flushL1 h.flushWb

theorem State.Formed.setTag {cid t : Nat} {err : Bool} (h : s.Formed) : (s.setTag cid t err).Formed :=
  h.putCore

theorem State.Formed.haltWarp (h : s.Formed) : s.haltWarp.Formed := by
  simp only [State.haltWarp]
  refine State.Formed.putLaunch ?_
  refine State.Formed.setW ?_
  refine formed_congr rfl rfl ?_
  refine foldl_formed (fun _ c ht => ?_) ?_
  · split
    · exact ht.setTag
    · exact ht
  · exact h

theorem State.Formed.abandon {w : Warp} (h : s.Formed) : (s.abandon w).Formed :=
  h

theorem State.Formed.dbgRecord {cause : BitVec 8} {wphit : Nat} {pc : Word} {exm hit : W32} {addr : Word} (h : s.Formed) :
    (s.dbgRecord cause wphit pc exm hit addr).Formed := by
  simp only [State.dbgRecord]
  exact ite_formed h.putCore h.putCore.putCtx

theorem State.Formed.stopAt {cause : BitVec 8} {h : WatchHit} (hs : s.Formed) : (s.stopAt cause h).Formed :=
  hs.dbgRecord.setW

theorem State.Formed.halt (h : s.Formed) : s.halt.Formed :=
  h.abandon.haltWarp

theorem State.Formed.doubleTrap {t : TrapInfo} {epc : Word} (h : s.Formed) : (s.doubleTrap t epc).Formed :=
  h.setW.halt

theorem State.Formed.fetchWord {ctx : Nat} {va : Word} (h : s.Formed) : (s.fetchWord ctx va).Formed := by
  simp only [State.fetchWord]
  split
  · exact h
  · split
    · exact h.prepare.of_fst ‹_›
    · exact (h.prepare.of_fst ‹_›).logFault
    · split <;> exact (h.prepare.of_fst ‹_›).doneReady

theorem State.Formed.handlerWaits {t : TrapInfo} (h : s.Formed) : mayFormed (s.handlerWaits t) := by
  simp only [State.handlerWaits]
  split
  · split
    · exact h.fetchWord.wait ‹_›
    · exact trivial
  · exact trivial

theorem State.Formed.enterHandler {t : TrapInfo} {epc : Word} (h : s.Formed) : (s.enterHandler t epc).Formed := by
  simp only [State.enterHandler]
  split
  · exact ite_formed (h.fetchWord.word ‹_›).setW.deaden (h.fetchWord.word ‹_›).setW.halt
  · exact (h.fetchWord.trap ‹_›).setW.halt
  · exact (h.fetchWord.wait ‹_›).setW.halt

theorem State.Formed.discardTask (h : s.Formed) : s.discardTask.Formed := by
  simp only [State.discardTask]
  exact ite_formed h h.countCtx.dropVersion.putLaunch.setW

theorem State.Formed.deliverTrap {s0 : State} {t : TrapInfo} {epc : Word} (h : s0.Formed) :
    (s0.deliverTrap t epc).Formed := by
  simp only [State.deliverTrap]
  split
  · exact h.count.countCtx.discardTask.doubleTrap
  · exact ite_formed h.count.countCtx.discardTask.enterHandler h.count.countCtx.discardTask.setW.halt

theorem State.Formed.finishAbort {code : BitVec 8} {stop : Option TrapInfo} {h : WatchHit} (hs : s.Formed) :
    (s.finishAbort code stop h).Formed := by
  simp only [State.finishAbort]
  split
  · exact hs.countCtx.dropVersion.setW
  · exact ite_formed hs.countCtx.dropVersion.setW.stopAt hs.countCtx.dropVersion.setW.deliverTrap

theorem State.Formed.abortTry {code : BitVec 8} {stop : Option TrapInfo} {h : WatchHit} (hs : s.Formed) :
    (s.abortTry code stop h).Formed := by
  simp only [State.abortTry]
  exact ite_formed hs.finishAbort hs.setW

theorem State.Formed.takeTrap {t0 : TrapInfo} {epc : Word} (h : s.Formed) : (s.takeTrap t0 epc).Formed := by
  simp only [State.takeTrap]
  exact ite_formed h.setW.abortTry h.deliverTrap

theorem State.Formed.trapNow {t : TrapInfo} {epc : Word} (h : s.Formed) : (s.trapNow t epc).Formed := by
  simp only [State.trapNow]
  split
  · exact h.handlerWaits.some ‹_›
  · exact h.takeTrap

theorem State.Formed.debugStop {cause : BitVec 8} {h : WatchHit} (hs : s.Formed) : (s.debugStop cause h).Formed := by
  simp only [State.debugStop]
  exact ite_formed hs.setW.abortTry hs.stopAt

theorem State.Formed.enterAt {h hw : Word} (hs : s.Formed) : (s.enterAt h hw).Formed := by
  simp only [State.enterAt]
  exact ite_formed hs.abortTry (ite_formed hs.setW.deaden hs.setW)

theorem State.Formed.enterFall (h : s.Formed) : s.enterFall.Formed := by
  simp only [State.enterFall]
  split
  · exact h.fetchWord.wait ‹_›
  · exact (h.fetchWord.trap ‹_›).trapNow
  · split
    · exact (h.fetchWord.word ‹_›).trapNow
    · split
      · exact (h.fetchWord.word ‹_›).trapNow
      · exact ite_formed (h.fetchWord.word ‹_›).debugStop (h.fetchWord.word ‹_›).enterAt

theorem State.Formed.fall (h : s.Formed) : s.fall.Formed := by
  simp only [State.fall]
  exact ite_formed h.enterFall h

theorem State.Formed.advance {n : Nat} (h : s.Formed) : (s.advance n).Formed :=
  h.setW.fall

theorem State.Formed.asWarp {k : Nat} {f : State → State} (hf : ∀ t, t.Formed → (f t).Formed) (h : s.Formed) :
    (s.asWarp k f).Formed :=
  formed_congr rfl rfl (hf _ (h.upd rfl rfl))

theorem State.Formed.releaseWaiter {k : Nat} {b : Barrier} (h : s.Formed) : (s.releaseWaiter k b).Formed := by
  simp only [State.releaseWaiter]
  refine State.Formed.asWarp (fun t ht => ?_) h
  split
  · split
    · exact ht.setW.acquireL1.advance
    · split
      · split
        · split
          · exact ht.handlerWaits.some ‹_›
          · exact ht.setW.takeTrap
        · exact ht.setW.advance
      · exact ht
  · exact ht

theorem State.Formed.checkBar {launch lvl unit id : Nat} (h : s.Formed) : (s.checkBar launch lvl unit id).Formed := by
  simp only [State.checkBar]
  exact ite_formed (h.upd rfl rfl) h

theorem State.Formed.clockBars (h : s.Formed) : s.clockBars.Formed := by
  simp only [State.clockBars]
  refine foldl_formed (fun _ e ht => ?_) ?_
  · split
    · exact ite_formed ht.releaseWaiter ht
    · exact ht
  · exact foldl_formed (fun _ _ ht => ht.checkBar) h

theorem State.Formed.sweepCore {cid : Nat} (h : s.Formed) : (s.sweepCore cid).Formed :=
  h

theorem State.Formed.vacate {k : Nat} (h : s.Formed) : (s.vacate k).Formed := by
  simp only [State.vacate]
  exact (ite_formed h.countCtx.dropVersion h).upd rfl rfl

theorem State.Formed.retire {k : Nat} (h : s.Formed) : (s.retire k).Formed := by
  simp only [State.retire]
  exact (ite_formed h.vacate h.vacate.putBlock.putLaunch).sweepCore

theorem State.Formed.readPending {src : List (Opnd × Nat)} {mask : W32} (h : s.Formed) :
    (s.readPending src mask).Formed := by
  simp only [State.readPending]
  exact ite_formed h.setW.countCtx h

theorem State.Formed.tagIssue {i : Instr} (h : s.Formed) : (s.tagIssue i).Formed := by
  simp only [State.tagIssue]
  split
  · exact h
  · exact h.putCore
  · exact h.putCore

theorem State.Formed.countIssue {i : Instr} (h : s.Formed) : (s.countIssue i).Formed := by
  simp only [State.countIssue]
  exact ite_formed h.count.count.countCtx h.count.count.countCtx.count

theorem State.Formed.takeSlot {op : Nat} (h : s.Formed) : (s.takeSlot op).Formed := by
  simp only [State.takeSlot]
  split
  · exact h.putCore
  · exact h

theorem State.Formed.issued {i : Instr} (h : s.Formed) : (s.issued i).Formed :=
  h.takeSlot.tagIssue.countIssue.setW

end Sys2Proof.Machine
end

section
/-! The canonical form of memory is kept by the issue and by the accesses. -/
namespace Sys2Proof.Machine

variable {s : State}

theorem State.Formed.settle {n : Nat} (h : s.Formed) : (State.settle n s).Formed := by
  induction n generalizing s with
  | zero => exact h
  | succ n ih =>
    unfold State.settle
    split
    · exact ih h.retire
    · exact h

theorem State.Formed.consumes {cause : BitVec 8} {srcs : List (Opnd × Nat)} {mask : W32} (h : s.Formed) :
    trapFormed (s.consumes cause srcs mask) := by
  simp only [State.consumes]
  split
  · exact h.readPending
  · exact trivial

theorem State.Formed.taskStall (h : s.Formed) : mayFormed s.taskStall := by
  simp only [State.taskStall]
  split
  · exact h
  · exact trivial

theorem State.Formed.takeWay {v line : Nat} (h : s.Formed) : (s.takeWay v line).Formed := by
  simp only [State.takeWay]
  exact ite_formed h (State.Formed.fitL2 (h.upd rfl rfl))

theorem State.Formed.noteRead {v sec lane : Nat} (h : s.Formed) : (s.noteRead v sec lane).Formed := by
  simp only [State.noteRead]
  exact ite_formed h ((ite_formed h.takeWay h).upd rfl rfl)

theorem State.Formed.hold {v : Nat} {mem : Bool} {sec at_ lane : Nat} {va : Word} {bs : List Byte} (h : s.Formed) :
    (s.hold v mem sec at_ lane va bs).Formed :=
  h

theorem State.Formed.noteWhole {v : Nat} {secs : List Nat} (h : s.Formed) : (s.noteWhole v secs).Formed := by
  simp only [State.noteWhole]
  exact ite_formed h (h.upd rfl rfl)

theorem State.Formed.readSector {o : Op} {ia : Nat} {fresh : Bool} (h : s.Formed) : (s.readSector o ia fresh).Formed := by
  simp only [State.readSector]
  split
  · exact h.putL1
  · split
    · exact h.prepare.of_fst ‹_›
    · exact h.prepare.of_fst ‹_›
    · split
      · refine State.Formed.of_fst ?_ ‹_›
        split
        · split
          · exact (h.prepare.of_fst ‹_›).l1Room
          · exact h.prepare.of_fst ‹_›
        · split
          · exact (h.prepare.of_fst ‹_›).l1Room
          · exact h.prepare.of_fst ‹_›
      · refine State.Formed.doneReady ?_
        split
        · refine State.Formed.dropClean ?_
          refine State.Formed.fillReady ?_
          refine State.Formed.of_fst ?_ ‹_›
          split
          · split
            · exact (h.prepare.of_fst ‹_›).l1Room
            · exact h.prepare.of_fst ‹_›
          · split
            · exact (h.prepare.of_fst ‹_›).l1Room
            · exact h.prepare.of_fst ‹_›
        · split
          · split
            · refine State.Formed.putL1 ?_
              refine State.Formed.fillReady ?_
              refine State.Formed.of_fst ?_ ‹_›
              split <;> exact (h.prepare.of_fst ‹_›).l1Room
            · refine State.Formed.fillReady ?_
              refine State.Formed.of_fst ?_ ‹_›
              split <;> exact h.prepare.of_fst ‹_›
          · split
            · refine State.Formed.putL1 ?_
              refine State.Formed.fillReady ?_
              refine State.Formed.of_fst ?_ ‹_›
              split
              · split
                · exact (h.prepare.of_fst ‹_›).l1Room
                · exact h.prepare.of_fst ‹_›
              · exact (h.prepare.of_fst ‹_›).l1Room
            · refine State.Formed.fillReady ?_
              refine State.Formed.of_fst ?_ ‹_›
              split
              · split
                · exact (h.prepare.of_fst ‹_›).l1Room
                · exact h.prepare.of_fst ‹_›
              · exact h.prepare.of_fst ‹_›

theorem State.Formed.loadSector {o : Op} {ia : Nat} {fresh : Bool} (h : s.Formed) : (s.loadSector o ia fresh).Formed := by
  simp only [State.loadSector]
  split
  · exact h
  · exact h.readSector

theorem State.Formed.deliverTo {o : Op} {ds : List Delivery} (h : s.Formed) : (s.deliverTo o ds).Formed :=
  h.putWarp.countCtx

theorem State.Formed.doneAccs {id : Nat} {lanes : List Nat} (h : s.Formed) : (s.doneAccs id lanes).Formed :=
  h

theorem State.Formed.addFail {id lane : Nat} {t : TrapInfo} (h : s.Formed) : (s.addFail id lane t).Formed :=
  h

theorem State.Formed.loadLanes {o : Op} {wd : Width} {d : Opnd} {as : List Acc} (h : s.Formed) :
    (s.loadLanes o wd d as).1.Formed := by
  simp only [State.loadLanes]
  split
  · exact h
  · split
    · exact h.putWarp.doneAccs
    · split
      · exact h
      · split <;> split <;> exact (foldl_formed (fun _ _ ht => ht.noteRead) h).putWarp.doneAccs
    · split
      · exact h.loadSector.wait ‹_›
      · exact (h.loadSector.fail ‹_›).logFault.putWarp.doneAccs
      · split <;> split <;> exact (foldl_formed (fun _ _ ht => ht.noteRead) (h.loadSector.ok ‹_›)).putWarp.doneAccs

theorem State.Formed.updateL1 {cid line : Nat} {ws : List (Nat × Byte)} (h : s.Formed) :
    (s.updateL1 cid line ws).Formed := by
  simp only [State.updateL1]
  exact ite_formed h h.putL1

theorem State.Formed.dirtyL1 {o : Op} {wb : Bool} {line : Nat} {va : Word} {ws : List (Nat × Byte)} (h : s.Formed) :
    (s.dirtyL1 o wb line va ws).Formed :=
  h.putL1.conflictFor

theorem State.Formed.holdLine {o : Op} {as : List Acc} (h : s.Formed) : (s.holdLine o as).Formed := by
  simp only [State.holdLine]
  split
  · exact h
  · split
    · exact h
    · refine State.Formed.doneAccs ?_
      refine State.Formed.conflict ?_
      refine foldl_formed (fun _ a ht => ?_) ?_
      · split
        · exact ht.hold
        · exact ht
      · exact h.noteWhole
    · split
      · exact ite_formed (h.upd rfl rfl) (State.Formed.asWarp (fun _ ht => ht.abortTry) h.doneAccs)
      · refine State.Formed.doneAccs ?_
        refine State.Formed.conflict ?_
        refine foldl_formed (fun _ a ht => ?_) ?_
        · split
          · exact ht.hold
          · exact ht
        · exact h.takeWay.noteWhole

theorem State.Formed.logOnce {o : Op} {ia : Nat} {va : Word} {c : MemCause} (h : s.Formed) :
    (s.logOnce o ia va c).Formed := by
  simp only [State.logOnce]
  exact ite_formed h h.logFault

theorem State.Formed.failStore {o : Op} {as : List Acc} {c : MemCause} (h : s.Formed) : (s.failStore o as c).Formed := by
  simp only [State.failStore]
  exact foldl_formed (fun _ _ ht => ht.logOnce.addFail.doneAccs) h

theorem State.Formed.storeMem {o : Op} {as : List Acc} {ia : Nat} (h : s.Formed) : (s.storeMem o as ia).Formed := by
  simp only [State.storeMem]
  split
  · exact h.doneAccs
  · split
    · exact h
    · split
      · split
        · exact h
        · exact h.failStore
        · exact h.holdLine
      · split
        · exact h
        · exact h.failStore
        · split
          · split
            · split
              · exact h.l1Room.of_fst ‹_›
              · exact (h.l1Room.of_fst ‹_›).dirtyL1.doneAccs
            · split
              · exact h.prepare.of_fst ‹_›
              · exact (h.prepare.of_fst ‹_›).failStore
              · exact (h.prepare.of_fst ‹_›).writeReady.updateL1.doneAccs
          · split
            · split
              · exact h.l1Room.of_fst ‹_›
              · exact (h.l1Room.of_fst ‹_›).dirtyL1.doneAccs
            · split
              · exact h.prepare.of_fst ‹_›
              · exact (h.prepare.of_fst ‹_›).failStore
              · exact (h.prepare.of_fst ‹_›).writeReady.updateL1.doneAccs
          · split
            · split
              · exact h.l1Room.of_fst ‹_›
              · exact (h.l1Room.of_fst ‹_›).dirtyL1.doneAccs
            · split
              · exact h.prepare.of_fst ‹_›
              · exact (h.prepare.of_fst ‹_›).failStore
              · exact (h.prepare.of_fst ‹_›).writeReady.updateL1.doneAccs

theorem State.Formed.storeSpad {o : Op} {as : List Acc} {cid off : Nat} (h : s.Formed) :
    (s.storeSpad o as cid off).Formed := by
  simp only [State.storeSpad]
  split
  · exact h
  · split
    · exact h.doneAccs
    · exact ite_formed h.holdLine (foldl_formed (fun _ _ ht => ht.putSpadSector) h).conflict.doneAccs

theorem State.Formed.storeLine {o : Op} {as : List Acc} (h : s.Formed) : (s.storeLine o as).Formed := by
  simp only [State.storeLine]
  split
  · exact h
  · split
    · exact h.doneAccs
    · exact h.storeSpad
    · exact h.storeMem

theorem State.Formed.rmwReady {me : Nat} {r : Ready} {ia : Nat} {op : RmwOp} {wide signed : Bool} {b newv : Nat} (h : s.Formed) :
    (s.rmwReady me r ia op wide signed b newv).1.Formed := by
  simp only [State.rmwReady]
  split
  · exact h
  · split
    · split
      · exact h
      · exact h.writeReady
    · exact h.writeReady

theorem State.Formed.rmwSpad {me cid off : Nat} {op : RmwOp} {wide signed : Bool} {b newv : Nat} (h : s.Formed) :
    (s.rmwSpad me cid off op wide signed b newv).1.Formed := by
  simp only [State.rmwSpad]
  split
  · exact h
  · exact h.putSpadSector.conflict

theorem State.Formed.giveOld {o : Op} {wide : Bool} {d : Option Opnd} {a : Acc} {old : Nat} {psn : Bool} (h : s.Formed) :
    (s.giveOld o wide d a old psn).Formed := by
  simp only [State.giveOld]
  refine State.Formed.doneAccs ?_
  split
  · exact h.putWarp
  · exact h.putWarp
  · exact h

theorem State.Formed.rmwDone {o : Op} {wide : Bool} {d : Option Opnd} {a : Acc} {res : Except Origin Nat} (h : s.Formed) :
    (s.rmwDone o wide d a res).1.Formed := by
  simp only [State.rmwDone]
  split
  · exact h.giveOld.countCtx
  · exact h.giveOld.addFail

theorem State.Formed.rmwFail {o : Op} {wide : Bool} {d : Option Opnd} {a : Acc} {ia : Nat} {c : MemCause} (h : s.Formed) :
    (s.rmwFail o wide d a ia c).1.Formed :=
  h.logOnce.giveOld.addFail

theorem State.Formed.sendAtomic {o : Op} {op : RmwOp} {wide signed : Bool} {line dev pia : Nat} (h : s.Formed) :
    (s.sendAtomic o op wide signed line dev pia).Formed := by
  simp only [State.sendAtomic]
  exact ite_formed h (h.upd rfl rfl)

theorem State.Formed.rmwLane {o : Op} {op : RmwOp} {wide signed : Bool} {d : Option Opnd} {a : Acc} (h : s.Formed) :
    (s.rmwLane o op wide signed d a).1.Formed := by
  simp only [State.rmwLane]
  split
  · exact h.giveOld
  · split
    · exact h
    · exact h.rmwSpad.rmwDone
  · split
    · exact h
    · split
      · exact h
      · exact h.rmwFail
      · split
        · split
          · exact h.flushAllL1
          · split
            · exact h.flushAllL1.dropClean.sendAtomic
            · split
              · exact h.flushAllL1.dropClean.prepare.of_fst ‹_›
              · exact (h.flushAllL1.dropClean.prepare.of_fst ‹_›).rmwFail
              · exact (h.flushAllL1.dropClean.prepare.of_fst ‹_›).rmwReady.rmwDone
        · split
          · exact h.recallL1s
          · split
            · exact h.recallL1s.dropClean.sendAtomic
            · split
              · exact h.recallL1s.dropClean.prepare.of_fst ‹_›
              · exact (h.recallL1s.dropClean.prepare.of_fst ‹_›).rmwFail
              · exact (h.recallL1s.dropClean.prepare.of_fst ‹_›).rmwReady.rmwDone

theorem State.Formed.xfinLanes {o : Op} {fmt rm : Nat} {d : Opnd} {as : List Acc} (h : s.Formed) :
    (s.xfinLanes o fmt rm d as).1.Formed := by
  simp only [State.xfinLanes]
  split
  · exact h
  · split
    · split
      · exact h
      · split
        · exact h.loadSector.wait ‹_›
        · have hu := h.loadSector.fail ‹_›
          exact hu.upd rfl rfl
        · split
          · exact (h.loadSector.ok ‹_›).loadSector.wait ‹_›
          · have hu := (h.loadSector.ok ‹_›).loadSector.fail ‹_›
            exact hu.upd rfl rfl
          · split
            · have hu := (h.loadSector.ok ‹_›).loadSector.ok ‹_›
              exact hu.upd rfl rfl
            · split
              · have hu := (h.loadSector.ok ‹_›).loadSector.ok ‹_›
                exact hu.upd rfl rfl
              · have hu := (h.loadSector.ok ‹_›).loadSector.ok ‹_›
                exact hu.upd rfl rfl
    · exact h
    · exact h

theorem State.Formed.cctlLane {o : Op} {inv wb dev : Bool} {a : Acc} (h : s.Formed) :
    (s.cctlLane o inv wb dev a).Formed := by
  unfold State.cctlLane
  split
  · extract_lets line plain s1 s2 s3
    have h1 : s1.Formed := ite_formed h.writeBackL1 h
    have h2 : s2.Formed := ite_formed h1.putL1 h1
    have h3 : s3.Formed := ite_formed h2 (ite_formed h2.dropL2 h2.writeBackL2)
    split
    · exact h
    · exact ite_formed h.doneAccs (ite_formed h (ite_formed h1 h3.doneAccs))
  · exact h.doneAccs

theorem State.Formed.tlbInv {page n : Nat} (h : s.Formed) : (s.tlbInv page n).Formed :=
  h

theorem State.Formed.tlbLane {o : Op} {page n since : Nat} {lanes : List Nat} (h : s.Formed) :
    (s.tlbLane o page n since lanes).Formed := by
  simp only [State.tlbLane]
  exact ite_formed (ite_formed (h.upd rfl rfl) h) (State.Formed.doneAccs (ite_formed (h.upd rfl rfl) h))

theorem State.Formed.relReady {o : Op} (h : s.Formed) : (s.relReady o).1.Formed := by
  simp only [State.relReady]
  split
  · exact h.releaseL1
  · exact h

theorem State.Formed.performLanes {o : Op} {lanes : W32} (h : s.Formed) : (s.performLanes o lanes).Formed := by
  simp only [State.performLanes]
  split
  · split
    · refine foldl_fst_formed (fun _ as ht => ?_) ?_
      · split
        · exact ht.loadLanes
        · exact ht
      · exact h
    · refine State.Formed.deliverTo ?_
      refine foldl_fst_formed (fun _ as ht => ?_) ?_
      · split
        · exact ht.loadLanes
        · exact ht
      · exact h
  · split
    · refine foldl_fst_formed (fun _ a ht => ?_) ?_
      · split
        · split
          · exact ht
          · exact ht.rmwLane
        · exact ht
      · exact h
    · refine State.Formed.deliverTo ?_
      refine foldl_fst_formed (fun _ a ht => ?_) ?_
      · split
        · split
          · exact ht
          · exact ht.rmwLane
        · exact ht
      · exact h
  · split
    · refine foldl_fst_formed (fun _ as ht => ?_) ?_
      · split
        · exact ht.xfinLanes
        · exact ht
      · exact h
    · refine State.Formed.deliverTo ?_
      refine foldl_fst_formed (fun _ as ht => ?_) ?_
      · split
        · exact ht.xfinLanes
        · exact ht
      · exact h
  · split
    · refine foldl_fst_formed (fun _ a ht => ?_) ?_
      · split
        · exact ht.cctlLane
        · exact ht
      · exact h
    · refine State.Formed.deliverTo ?_
      refine foldl_fst_formed (fun _ a ht => ?_) ?_
      · split
        · exact ht.cctlLane
        · exact ht
      · exact h
  · exact h.tlbLane
  · exact h
  · exact foldl_formed (fun _ _ ht => ite_formed ht.storeLine ht) h

theorem State.Formed.completeOp {id : Nat} (h : s.Formed) : (s.completeOp id).Formed := by
  simp only [State.completeOp]
  split
  · exact h
  · split
    · exact h
    · split
      · split
        · exact State.Formed.acquireL1 (ite_formed (h.upd rfl rfl) (State.Formed.putWarp (h.upd rfl rfl)))
        · exact ite_formed (h.upd rfl rfl) (State.Formed.putWarp (h.upd rfl rfl))
      · split
        · refine State.Formed.putWarp ?_
          split
          · exact State.Formed.acquireL1 (ite_formed (h.upd rfl rfl) (State.Formed.putWarp (h.upd rfl rfl)))
          · exact ite_formed (h.upd rfl rfl) (State.Formed.putWarp (h.upd rfl rfl))
        · refine State.Formed.putLaunch ?_
          split
          · exact State.Formed.acquireL1 (ite_formed (h.upd rfl rfl) (State.Formed.putWarp (h.upd rfl rfl)))
          · exact ite_formed (h.upd rfl rfl) (State.Formed.putWarp (h.upd rfl rfl))

theorem State.Formed.performOne {id : Nat} {lanes : W32} (h : s.Formed) : (s.performOne id lanes).Formed := by
  simp only [State.performOne]
  split
  · exact h
  · split
    · split
      · exact ite_formed h.relReady.flushAllL1.performLanes.completeOp h.relReady.flushAllL1
      · exact ite_formed h.relReady.performLanes.completeOp h.relReady
    · exact h.relReady

theorem State.Formed.fences {k : Nat} (h : s.Formed) : (s.fences k).Formed := by
  simp only [State.fences]
  exact foldl_formed (fun _ _ ht => ht.performOne) h

theorem State.Formed.performOp {id : Nat} {lanes : W32} (h : s.Formed) : (s.performOp id lanes).Formed := by
  simp only [State.performOp]
  split
  · exact h
  · exact h.performOne.fences

theorem State.Formed.pushOp {o : Op} (h : s.Formed) : (s.pushOp o).Formed :=
  h

end Sys2Proof.Machine
end

section
/-! The canonical form of memory is kept by the start of accesses, prefetches, barriers, tasks and commands. -/
namespace Sys2Proof.Machine

variable {s : State}

theorem State.Formed.startAccess {o : OpM} {wd : Width} {f : Form} {mem : Bool} {accs : List Acc} {q : W32} (h : s.Formed) :
    (s.startAccess o wd f mem accs q).Formed := by
  simp only [State.startAccess]
  exact (ite_formed (ite_formed h.setW h) (ite_formed h.setW h).pushOp).advance

theorem State.Formed.tryPref {p : Pref} (h : s.Formed) : (s.tryPref p).1.Formed := by
  simp only [State.tryPref]
  split
  · exact h.prepare.of_fst ‹_›
  · exact (h.prepare.of_fst ‹_›).logFault
  · split
    · refine State.Formed.of_fst ?_ ‹_›
      split
      · exact (h.prepare.of_fst ‹_›).l1Room
      · exact h.prepare.of_fst ‹_›
    · refine State.Formed.doneReady ?_
      split
      · refine foldl_formed (fun _ _ ht => ?_) ?_
        · exact ite_formed ht ht.putL1
        · refine State.Formed.fillReady ?_
          refine State.Formed.of_fst ?_ ‹_›
          split <;> exact (h.prepare.of_fst ‹_›).l1Room
      · refine State.Formed.fillReady ?_
        refine State.Formed.of_fst ?_ ‹_›
        split
        · exact (h.prepare.of_fst ‹_›).l1Room
        · exact h.prepare.of_fst ‹_›

theorem State.Formed.servePrefs (h : s.Formed) : s.servePrefs.Formed := by
  simp only [State.servePrefs]
  refine foldl_formed (fun _ p ht => ?_) ?_
  · split
    · have hu := ht.tryPref.of_fst ‹_›
      exact hu.upd rfl rfl
    · exact ht.tryPref.of_fst ‹_›
  · exact h

theorem State.Formed.startRmw {f : RmwForm} {h : W32} {accs : List Acc} (hs : s.Formed) : (s.startRmw f h accs).Formed := by
  simp only [State.startRmw]
  refine State.Formed.advance ?_
  split
  · split
    · exact hs.setW
    · exact hs
  · refine State.Formed.pushOp ?_
    split
    · exact hs.setW
    · exact hs

theorem State.Formed.tagged {m : Word} (h : s.Formed) : (s.tagged m).Formed := by
  simp only [State.tagged]
  exact ite_formed h.acquireL1 h

theorem State.Formed.clearTags {cid : Nat} {m0 : Word} (h : s.Formed) : (s.clearTags cid m0).Formed :=
  h.putCore

theorem State.Formed.arrive {r : BarRef} {count : Nat} (h : s.Formed) : (s.arrive r count).Formed :=
  h

theorem State.Formed.barRelease {lvl : Nat} (h : s.Formed) : (s.barRelease lvl).1.Formed :=
  h.releaseL1

theorem State.Formed.freshRead {k id n : Nat} {lanes : W32} {va : Word} (h : s.Formed) :
    (s.freshRead k id n lanes va).Formed := by
  simp only [State.freshRead]
  split
  · exact h
  · split
    · split
      · exact h.loadSector.wait ‹_›
      · exact (h.loadSector.fail ‹_›).logFault
      · split <;> exact h.loadSector.ok ‹_›
    · exact h

theorem State.Formed.resolvePoll {k : Nat} (h : s.Formed) : (s.resolvePoll k).Formed := by
  simp only [State.resolvePoll]
  split
  · split
    · exact h.freshRead.wait ‹_›
    · exact State.Formed.asWarp (fun _ ht => ht.setW.countCtx.advance) (h.freshRead.psn ‹_›)
    · exact State.Formed.asWarp (fun _ ht => ite_formed ht.setW.acquireL1.advance ht.setW.advance) (h.freshRead.val ‹_›)
  · exact h

theorem State.Formed.freeWarp {k : Nat} (h : s.Formed) : (s.freeWarp k).Formed :=
  h.putWarp

theorem State.Formed.endBackoff {k : Nat} (h : s.Formed) : (s.endBackoff k).Formed := by
  simp only [State.endBackoff]
  split
  · exact ite_formed h.freeWarp h
  · exact h

theorem State.Formed.endYield {k : Nat} (h : s.Formed) : (s.endYield k).Formed := by
  simp only [State.endYield]
  split
  · exact ite_formed h.freeWarp h
  · exact h

theorem State.Formed.makeUrgent {k : Nat} (h : s.Formed) : (s.makeUrgent k).Formed := by
  simp only [State.makeUrgent]
  exact ite_formed h.putWarp h

theorem State.Formed.makeIrrevocable {v : Nat} (h : s.Formed) : (s.makeIrrevocable v).Formed := by
  simp only [State.makeIrrevocable]
  split
  · split
    · exact h.canPublish.of_fst ‹_›
    · have hu := h.canPublish.of_fst ‹_›
      exact hu.publishMem.upd rfl rfl
  · exact h

theorem State.Formed.askFor {id b : Nat} (h : s.Formed) : (s.askFor id b).Formed := by
  simp only [State.askFor]
  exact ite_formed h h.putLaunch

theorem State.Formed.dealChunk {id : Nat} (h : s.Formed) : (s.dealChunk id).Formed := by
  simp only [State.dealChunk]
  split
  · split
    · exact h
    · split
      · exact h.putLaunch
      · exact ite_formed h (ite_formed h.putLaunch h.putLaunch)
  · exact h

theorem State.Formed.taskResult {o : OpO} {h : W32} {a : Word} {ok : Bool} (hs : s.Formed) :
    (s.taskResult o h a ok).Formed :=
  hs.setW.advance

theorem State.Formed.drawTask {i : Nat} {rest : List Nat} (h : s.Formed) : (s.drawTask i rest).Formed := by
  simp only [State.drawTask]
  split <;> exact State.Formed.setW (h.upd rfl rfl)

theorem State.Formed.holdCommit (h : s.Formed) : s.holdCommit.Formed := by
  simp only [State.holdCommit]
  split
  · exact h
  · split
    · exact h
    · exact h.hold

theorem State.Formed.endTask (h : s.Formed) : s.endTask.Formed :=
  h.putLaunch.setW

theorem State.Formed.engSector {o : Op} {tver ia : Nat} (h : s.Formed) : (s.engSector o tver ia).Formed := by
  simp only [State.engSector]
  split
  · exact h.readSector.ok ‹_›
  · exact h.readSector

theorem State.Formed.readRun {o : Op} {tver : Nat} {va : Word} {ia n : Nat} (h : s.Formed) :
    (s.readRun o tver va ia n).Formed := by
  induction n with
  | zero => exact h
  | succ n ih =>
    simp only [State.readRun]
    split
    · have hu := ih.ok ‹_›
      split
      · exact hu.engSector.wait ‹_›
      · exact (hu.engSector.fail ‹_›).logFault
      · split <;> exact hu.engSector.ok ‹_›
    · exact ih

theorem State.Formed.readRec {va n : Nat} (h : s.Formed) : (s.readRec va n).Formed := by
  simp only [State.readRec]
  split
  · split
    · exact h
    · exact h.readRun
  · exact h

theorem State.Formed.putCmd {c : Cmd} (h : s.Formed) : (s.putCmd c).Formed :=
  h

theorem State.Formed.fillOne {c : Cmd} {e : Src} (h : s.Formed) : (s.fillOne c e).1.Formed := by
  simp only [State.fillOne]
  split
  · exact h
  · split
    · exact h
    · split <;> exact h
    · split
      · exact h
      · split
        · exact h.engSector.wait ‹_›
        · exact (h.engSector.fail ‹_›).logFault
        · exact h.engSector.ok ‹_›

theorem State.Formed.fillCmd {id : Nat} (h : s.Formed) : (s.fillCmd id).Formed := by
  simp only [State.fillCmd]
  split
  · exact h
  · refine State.Formed.putCmd ?_
    refine foldl_fst_formed (fun _ _ ht => ?_) ?_
    · exact ht.fillOne
    · exact h

theorem State.Formed.ownLines {dst : List (Nat × Loc)} (h : s.Formed) : (s.ownLines dst).1.Formed := by
  simp only [State.ownLines]
  refine foldl_fst_formed (fun _ line ht => ?_) ?_
  · split
    · exact ht.prepare.of_fst ‹_›
    · exact (ht.prepare.of_fst ‹_›).soleReady
  · exact h

theorem State.Formed.pushCmd {c : Cmd} (h : s.Formed) : (s.pushCmd c).Formed := by
  unfold State.pushCmd
  extract_lets w b c1 s1 u s2 s3
  have h1 : s1.Formed := by
    simp only [s1]
    split
    · exact h.putBlock
    · exact h
  have h2 : s2.Formed := h1.upd rfl rfl
  have h3 : s3.Formed := by
    refine foldl_formed (fun _ e ht => ?_) h2
    split
    · exact ht.dropClean
    · exact ht
  exact ite_formed h3 h3.fillCmd

theorem State.Formed.planOwn {c : Cmd} (h : s.Formed) : (s.planOwn c).Formed := by
  simp only [State.planOwn]
  split
  · refine mayFormed.some ?_ ‹_›
    split
    · exact h.taskStall
    · exact trivial
  · split
    · exact h
    · split <;> exact h.ownLines.of_fst ‹_›

theorem State.Formed.dstFree {c : Cmd} (h : s.Formed) : (s.dstFree c).1.Formed := by
  simp only [State.dstFree]
  refine foldl_fst_formed (fun _ e ht => ?_) ?_
  · split
    · exact ht
    · exact ht
    · split <;> exact (ite_formed ht.flushLine ht).prepare.of_fst ‹_›
  · exact h

theorem State.Formed.writeSec {c : Cmd} {key : Nat} {loc : Loc} {x : SecW} (h : s.Formed) :
    (s.writeSec c key loc x).1.Formed := by
  simp only [State.writeSec]
  split
  · exact h
  · exact h.putSpadSector.conflict
  · split
    · exact h.prepare.of_fst ‹_›
    · exact (h.prepare.of_fst ‹_›).logFault
    · exact (h.prepare.of_fst ‹_›).fillReady.soleReady.putReadySector.conflict.notifyWrite.doneReady.dropClean

theorem State.Formed.logCmd {c : Cmd} {cause first nfail : Nat} (h : s.Formed) : (s.logCmd c cause first nfail).Formed :=
  h.count.putCore

theorem State.Formed.finishCmd {c : Cmd} {err first nfail : Nat} (h : s.Formed) :
    (s.finishCmd c err first nfail).Formed := by
  simp only [State.finishCmd]
  refine State.Formed.sweepCore ?_
  split
  · refine State.Formed.setTag ?_
    split
    · exact h.count.countCtx.upd rfl rfl
    · exact State.Formed.logCmd (State.Formed.putLaunch (h.count.countCtx.upd rfl rfl))
  · split
    · exact h.count.countCtx.upd rfl rfl
    · exact State.Formed.logCmd (State.Formed.putLaunch (h.count.countCtx.upd rfl rfl))

theorem State.Formed.writeElems {c : Cmd} {es0 : List ElemW} (h : s.Formed) : (s.writeElems c es0).Formed := by
  simp only [State.writeElems]
  split
  · exact h.dstFree.of_fst ‹_›
  · refine State.Formed.finishCmd ?_
    refine foldl_fst_formed (fun _ e ht => ?_) ?_
    · split
      · exact ht
      · split <;> exact ht.writeSec.of_fst ‹_›
    · exact h.dstFree.of_fst ‹_›

end Sys2Proof.Machine
end

section
/-! The canonical form of memory is kept by the copies, the matrix unit, the control flow and the system instructions. -/
namespace Sys2Proof.Machine

variable {s : State}

theorem State.Formed.withRec {opc : Nat} {tag : Option Nat} {va n : Nat} {f : State → List Byte → Plan}
    (hf : ∀ t bs, t.Formed → (f t bs).Formed) (h : s.Formed) : (s.withRec opc tag va n f).Formed := by
  simp only [State.withRec]
  split
  · exact h.readRec.wait ‹_›
  · exact h.readRec.bad ‹_›
  · exact hf _ _ (h.readRec.ok ‹_›)

theorem State.Formed.planCopy {opc tag off rec_ : Nat} {store : Bool} {targets : Option (List Nat)}
    (h : s.Formed) : (s.planCopy opc tag off rec_ store targets).Formed := by
  refine State.Formed.withRec (fun t bs ht => ?_) h
  split
  · exact ht
  · extract_lets
    split
    · exact ht
    · split
      · exact ht
      · split <;> exact ht.planOwn

theorem State.Formed.readIdx {r : StreamRec} {n : Nat} (h : s.Formed) : leftFormed (s.readIdx r n) := by
  unfold State.readIdx
  split
  · exact h
  · extract_lets go
    have hgo : leftFormed go := by
      refine List.foldlRecOn (motive := leftFormed) _ _ h fun acc ha p _ => ?_
      split
      · exact ha
      · next t xs =>
        have ht : t.Formed := ha
        extract_lets
        split
        · exact ht.freshRead.wait ‹_›
        · exact ht.freshRead.psn ‹_›
        · exact ht.freshRead.val ‹_›
    revert hgo
    generalize go = g
    intro hgo
    cases g with
    | error t => exact hgo
    | ok p => exact hgo

theorem State.Formed.withStream {opc : Nat} {tag : Option Nat} {rec_ va n : Nat} {f : State → StreamRec → Plan}
    (hf : ∀ t r, t.Formed → (f t r).Formed) (h : s.Formed) : (s.withStream opc tag rec_ va n f).Formed := by
  simp only [State.withStream]
  split
  · exact h.readRec.wait ‹_›
  · exact h.readRec.bad ‹_›
  · split
    · exact h.readRec.ok ‹_›
    · split
      · exact (h.readRec.ok ‹_›).readIdx.error ‹_›
      · exact hf _ _ ((h.readRec.ok ‹_›).readIdx.ok ‹_›)

theorem State.Formed.planChain {tag rec_ : Nat} (h : s.Formed) : (s.planChain tag rec_).Formed := by
  unfold State.planChain
  extract_lets bad n
  refine State.Formed.withRec (fun t1 bs h1 => ?_) h
  split
  · exact h1
  · split
    · exact h1
    · refine State.Formed.withStream (fun t2 a h2 => ?_) h1
      extract_lets k rest
      have hrest (t : State) (b : Option StreamRec) (ht : t.Formed) : (rest t b).Formed := by
        refine State.Formed.withStream (fun t3 d h3 => ?_) ht
        exact iteInduction (motive := Plan.Formed) (fun _ => h3) fun _ => h3.planOwn
      exact iteInduction (motive := Plan.Formed) (fun _ => hrest t2 none h2) fun _ =>
        State.Formed.withStream (fun t4 b h4 => hrest t4 (some b) h4) h2

theorem State.Formed.endTile {c : Cmd} (h : s.Formed) : (s.endTile c).Formed := by
  simp only [State.endTile]
  exact (ite_formed (ite_formed h.logCmd h) (ite_formed h.logCmd h).putLaunch).finishCmd

theorem State.Formed.stepped {c : Cmd} {m : MatRec} {recs : List Byte} (h : s.Formed) : (s.stepped c m recs).Formed := by
  simp only [State.stepped]
  exact ite_formed h.count.countCtx.endTile h.count.countCtx.putCmd

theorem State.Formed.stepError {c : Cmd} {n : Nat} (h : s.Formed) : (s.stepError c n).1.Formed := by
  simp only [State.stepError]
  split
  · exact h
  · exact h.logCmd

theorem State.Formed.mmStep {c : Cmd} {m : MatRec} (h : s.Formed) : mayFormed (s.mmStep c m) := by
  simp only [State.mmStep]
  split
  · exact trivial
  · exact h.putWarp.stepError.stepped

theorem State.Formed.runMove {c : Cmd} {m : MatRec} (h : s.Formed) : (s.runMove c m).Formed := by
  simp only [State.runMove]
  exact ite_formed h.putWarp (ite_formed h.putWarp.countCtx h.putWarp)

theorem State.Formed.writeAll {c : Cmd} {es : List ElemW} (h : s.Formed) : (s.writeAll c es).Formed := by
  simp only [State.writeAll]
  exact foldl_formed (fun _ _ ht => ite_formed ht ht.writeSec) h

theorem State.Formed.runStore {c : Cmd} {m : MatRec} (h : s.Formed) : (s.runStore c m).Formed := by
  simp only [State.runStore]
  split
  · exact h.dstFree.of_fst ‹_›
  · split
    · exact (h.dstFree.of_fst ‹_›).writeAll.endTile
    · exact (h.dstFree.of_fst ‹_›).writeAll.finishCmd

theorem State.Formed.planTmac {k rec_ : Nat} (h : s.Formed) : (s.planTmac k rec_).Formed := by
  simp only [State.planTmac]
  split
  · exact h.readRec.wait ‹_›
  · split
    · exact trivial
    · split <;> exact h.readRec.bad ‹_›
  · split
    · exact trivial
    · split
      · split
        · exact trivial
        · split <;> exact h.readRec.ok ‹_›
      · split
        · exact (h.readRec.ok ‹_›).readRec.wait ‹_›
        · split
          · exact trivial
          · split <;> exact (h.readRec.ok ‹_›).readRec.bad ‹_›
        · split
          · exact ((h.readRec.ok ‹_›).readRec.ok ‹_›).readRec.wait ‹_›
          · split
            · exact trivial
            · split <;> exact ((h.readRec.ok ‹_›).readRec.ok ‹_›).readRec.bad ‹_›
          · split
            · split
              · split
                · exact trivial
                · split <;> exact ((h.readRec.ok ‹_›).readRec.ok ‹_›).readRec.ok ‹_›
              · split
                · exact ((h.readRec.ok ‹_›).readRec.ok ‹_›).readRec.ok ‹_›
                · split
                  · exact ((h.readRec.ok ‹_›).readRec.ok ‹_›).readRec.ok ‹_›
                  · exact (((h.readRec.ok ‹_›).readRec.ok ‹_›).readRec.ok ‹_›).planOwn
            · split
              · exact trivial
              · split <;> exact ((h.readRec.ok ‹_›).readRec.ok ‹_›).readRec.ok ‹_›

theorem State.Formed.tmacStep {c : Cmd} {m : MatRec} {recs : List Byte} (h : s.Formed) :
    (s.tmacStep c m recs).1.Formed ∧ mayFormed (s.tmacStep c m recs).2 := by
  unfold State.tmacStep
  split
  · exact ⟨h, trivial⟩
  · extract_lets keys s1 c1 here
    have h1 : s1.Formed := h.fillCmd
    split
    · exact ⟨h1, trivial⟩
    · split
      · exact ⟨h1.dstFree.of_fst ‹_›, trivial⟩
      · have h2 := h1.dstFree.of_fst ‹_›
        refine ⟨h2, ?_⟩
        extract_lets
        split
        extract_lets _ s3 src w1 s4 c2
        split
        next s5 c3 e =>
        have h3 : s3.Formed := h2.writeAll
        have h4 : s4.Formed := ite_formed h3 h3.logCmd
        exact (h4.putWarp.stepError.of_fst e).stepped

theorem State.Formed.txposeStep {c : Cmd} {m : MatRec} (h : s.Formed) : mayFormed (s.txposeStep c m) := by
  simp only [State.txposeStep]
  split
  · exact trivial
  · split
    · exact trivial
    · split
      · exact (h.dstFree.of_fst ‹_›).writeAll.stepped
      · exact (h.dstFree.of_fst ‹_›).writeAll.logCmd.stepped

theorem State.Formed.unitStep {c : Cmd} (h : s.Formed) :
    (s.unitStep c).1.Formed ∧ mayFormed (s.unitStep c).2 := by
  unfold State.unitStep
  split
  · split
    · exact h.tmacStep
    · split
      · exact ⟨h, h.txposeStep⟩
      · exact ⟨h, h.mmStep⟩
  · exact ⟨h, trivial⟩

theorem State.Formed.nextUnitStep {txpose : Bool} {cs : List Cmd} (h : s.Formed) :
    (s.nextUnitStep txpose cs).Formed := by
  induction cs generalizing s with
  | nil => exact h
  | cons c cs ih =>
    obtain ⟨h1, h2⟩ := h.unitStep (c := c)
    unfold State.nextUnitStep
    split
    · exact ih (h1.of_fst ‹_›)
    · next s1 s2 e =>
      rw [e] at h1 h2
      exact ite_formed h2 h1

theorem State.Formed.runTile {c : Cmd} (h : s.Formed) : (s.runTile c).Formed := by
  simp only [State.runTile]
  split
  · exact h
  · split
    · exact h.putWarp.finishCmd
    · exact ite_formed h.putWarp.endTile (ite_formed h.runMove.endTile (ite_formed h.runStore h))
    · exact h

theorem State.Formed.headerAt {ctx : Nat} {a : Word} (h : s.Formed) : rightFormed (s.headerAt ctx a) := by
  simp only [State.headerAt]
  split
  · exact h.fetchWord.wait ‹_›
  · exact h.fetchWord.trap ‹_›
  · exact h.fetchWord.word ‹_›

theorem State.Formed.target {t : Word} {rc : Option Word} {call : Bool} (h : s.Formed) : (s.target t rc call).Formed := by
  simp only [State.target]
  split
  · exact h.fetchWord.wait ‹_›
  · exact h.fetchWord.trap ‹_›
  · split
    · exact h.fetchWord.word ‹_›
    · split
      · refine rightFormed.error ?_ ‹_›
        split
        · exact h.fetchWord.word ‹_›
        · exact (h.fetchWord.word ‹_›).headerAt
      · refine rightFormed.ok ?_ ‹_›
        split
        · exact h.fetchWord.word ‹_›
        · exact (h.fetchWord.word ‹_›).headerAt
      · split
        · refine rightFormed.ok ?_ ‹_›
          split
          · exact h.fetchWord.word ‹_›
          · exact (h.fetchWord.word ‹_›).headerAt
        · split
          · refine rightFormed.ok ?_ ‹_›
            split
            · exact h.fetchWord.word ‹_›
            · exact (h.fetchWord.word ‹_›).headerAt
          · refine rightFormed.ok ?_ ‹_›
            split
            · exact h.fetchWord.word ‹_›
            · exact (h.fetchWord.word ‹_›).headerAt

theorem State.Formed.branchTo {b : Branch} {call : Bool} {hw : Word} (h : s.Formed) : (s.branchTo b call hw).Formed :=
  h.setW.enterAt

theorem State.Formed.exitLanes {lanes : W32} (h : s.Formed) : (s.exitLanes lanes).Formed := by
  simp only [State.exitLanes]
  split
  · exact h.setW.advance
  · split
    · exact h.setW.fall
    · exact h.setW.retire

theorem State.Formed.writeSreg {f : Nat} {x : Word} (h : s.Formed) : (s.writeSreg f x).Formed := by
  simp only [State.writeSreg]
  split
  · exact h.setW
  · exact h.setW
  · exact h.setW
  · exact h.setW
  · exact h.setW
  · exact h.setW
  · exact h.setW
  · exact h.setW
  · exact h.setW
  · exact h.setW
  · exact h.putCtx

theorem State.Formed.resumeHeader {a : Word} (h : s.Formed) : (s.resumeHeader a).Formed := by
  simp only [State.resumeHeader]
  split
  · exact h.target.wait ‹_›
  · exact h.target.trap ‹_›
  · exact h.target.ok ‹_›

theorem State.Formed.resumeAt {hdr a : Word} (h : s.Formed) : (s.resumeAt hdr a).Formed := by
  simp only [State.resumeAt]
  split
  · exact h.fetchWord.wait ‹_›
  · exact (h.fetchWord.trap ‹_›).resumeHeader
  · split
    · exact h.fetchWord.word ‹_›
    · exact (h.fetchWord.word ‹_›).resumeHeader

theorem State.Formed.statusNext {h : W32} {d : Opnd} {ok : Bool} (hs : s.Formed) : (s.statusNext h d ok).Formed :=
  hs.setW.advance

theorem State.Formed.haltTarget {k : Nat} (h : s.Formed) : (s.haltTarget k).Formed := by
  simp only [State.haltTarget]
  exact ite_formed h (ite_formed (State.Formed.asWarp (fun _ ht => ht.debugStop) h) h.putWarp)

theorem State.Formed.endHalta (h : s.Formed) : s.endHalta.Formed := by
  simp only [State.endHalta]
  split
  · exact ite_formed h.setW.statusNext h
  · exact h

theorem State.Formed.putPit {e : PitEntry} (h : s.Formed) : (s.putPit e).Formed :=
  h

theorem State.Formed.touchTile {n : TileName} (h : s.Formed) : (s.touchTile n).Formed :=
  h

theorem State.Formed.storeTile {t : Tile} (h : s.Formed) : (s.storeTile t).1.Formed := by
  simp only [State.storeTile]
  split <;> exact h

theorem State.Formed.writeDst {c : Cmd} {f : Nat → SecW} (h : s.Formed) : (s.writeDst c f).Formed := by
  simp only [State.writeDst]
  exact foldl_formed (fun _ _ ht => ht.writeSec) h

theorem State.Formed.failInterest {c : Cmd} {err : Nat} (h : s.Formed) : (s.failInterest c err).1.Formed := by
  simp only [State.failInterest]
  split
  · exact (h.dstFree.of_fst ‹_›).putCmd
  · exact (ite_formed (h.dstFree.of_fst ‹_›).count (h.dstFree.of_fst ‹_›)).writeDst.finishCmd

theorem State.Formed.noteName {cid : Nat} {tag : Option Nat} (h : s.Formed) : (s.noteName cid tag).Formed := by
  simp only [State.noteName]
  split
  · exact h.putCore
  · exact h

theorem State.Formed.serveWaiter {c : Cmd} {size : Nat} {t : Tile} (h : s.Formed) : (s.serveWaiter c size t).1.Formed := by
  simp only [State.serveWaiter]
  split
  · exact h.failInterest
  · split
    · exact h.dstFree.of_fst ‹_›
    · exact (h.dstFree.of_fst ‹_›).writeDst.finishCmd.noteName

theorem State.Formed.serveAll {t : Tile} {ws : List (Nat × Nat)} (h : s.Formed) :
    (s.serveAll t ws).1.Formed := by
  induction ws generalizing s with
  | nil => exact h
  | cons w ws ih =>
    unfold State.serveAll
    split
    · exact ih h
    · split
      · exact ih (h.serveWaiter.of_fst ‹_›)
      · exact h.serveWaiter.of_fst ‹_›

theorem State.Formed.serveLocal {t : Tile} (h : s.Formed) : (s.serveLocal t).Formed := by
  simp only [State.serveLocal]
  split
  · exact h
  · exact h.serveAll.putPit

theorem State.Formed.handOver {t : Tile} (h : s.Formed) : (s.handOver t).Formed := by
  simp only [State.handOver]
  split
  · exact h
  · refine State.Formed.putPit ?_
    refine foldl_formed (fun _ w ht => ?_) ?_
    · split
      · exact ht.putCmd
      · exact ht
    · exact h

theorem State.Formed.expireName {n : TileName} (h : s.Formed) : (s.expireName n).Formed := by
  simp only [State.expireName]
  split
  · exact h
  · split
    · exact h
    · refine foldl_formed (fun _ w ht => ?_) ?_
      · split
        · exact ht.failInterest
        · exact ht
      · exact h.putPit

theorem State.Formed.sendTile {dev : Nat} {t : Tile} (h : s.Formed) : (s.sendTile dev t).Formed :=
  h

theorem State.Formed.tileHere {t : Tile} {src : Nat} (h : s.Formed) : (s.tileHere t src).Formed := by
  simp only [State.tileHere]
  split
  · exact ite_formed h.expireName.storeTile.serveLocal h.expireName.storeTile.serveLocal.handOver
  · split
    · exact ite_formed h.expireName.storeTile.serveLocal h.expireName.storeTile.serveLocal.handOver
    · exact (foldl_formed (fun _ _ ht => ht.sendTile)
          (ite_formed h.expireName.storeTile.serveLocal h.expireName.storeTile.serveLocal.handOver)).putPit

theorem State.Formed.announceHome {c : Cmd} {name : TileName} {size : Nat} (h : s.Formed) :
    (s.announceHome c name size).Formed := by
  simp only [State.announceHome]
  exact ite_formed h.finishCmd h.tileHere.finishCmd

theorem State.Formed.publishTile {c : Cmd} {name : TileName} {size : Nat} (h : s.Formed) :
    (s.publishTile c name size).Formed := by
  simp only [State.publishTile]
  exact ite_formed (ite_formed h h.countCtx).announceHome h.tileHere.sendTile.countCtx.putCmd

theorem State.Formed.runAnnounce {id : Nat} (h : s.Formed) : (s.runAnnounce id).Formed := by
  simp only [State.runAnnounce]
  split
  · split
    · split
      · exact h.finishCmd
      · split
        · exact ite_formed h.fillCmd (ite_formed h.fillCmd.releaseL1.publishTile h.fillCmd.releaseL1)
        · exact h.fillCmd
    · exact h
  · exact h

theorem State.Formed.announceAnswered {name : TileName} {stored : Bool} (h : s.Formed) :
    (s.announceAnswered name stored).Formed := by
  simp only [State.announceAnswered]
  split
  · exact h.finishCmd
  · exact h

theorem State.Formed.sendInterest {dev : Nat} {n : TileName} {size dl : Nat} (h : s.Formed) :
    (s.sendInterest dev n size dl).Formed :=
  h

theorem State.Formed.takeInterest {id : Nat} {instant : Bool} (h : s.Formed) : (s.takeInterest id instant).Formed := by
  simp only [State.takeInterest]
  split
  · exact h
  · split
    · split
      · exact h.failInterest
      · split
        · exact h.count.touchTile.putPit.serveLocal
        · split
          · exact h.count.touchTile.serveWaiter.of_fst ‹_›
          · exact (h.count.touchTile.serveWaiter.of_fst ‹_›).putCmd
        · split
          · exact h.failInterest
          · split
            · exact ite_formed h.putPit.sendInterest h.putPit
            · exact ite_formed (ite_formed h.putPit.sendInterest h.putPit) (h.upd rfl rfl)
    · exact h

theorem State.Formed.retryInterest {id : Nat} (h : s.Formed) : (s.retryInterest id).Formed := by
  simp only [State.retryInterest]
  split
  · split
    · exact ite_formed h (State.Formed.takeInterest (h.upd rfl rfl))
    · exact h
  · exact h

theorem State.Formed.expireWaiter {id : Nat} (h : s.Formed) : (s.expireWaiter id).Formed := by
  simp only [State.expireWaiter]
  split
  · split
    · split
      · exact h
      · split
        · exact State.Formed.failInterest (h.upd rfl rfl)
        · split
          · exact ite_formed h.putPit.failInterest h
          · exact h
    · exact h
  · exact h

theorem State.Formed.runInterest {id : Nat} (h : s.Formed) : (s.runInterest id).Formed := by
  simp only [State.runInterest]
  split
  · split
    · split
      · exact h.failInterest
      · split
        · exact h.serveWaiter
        · split
          · exact h.serveLocal
          · exact h
    · exact h
  · exact h

theorem State.Formed.interestPacket {src : Nat} {n : TileName} {size dl : Nat} (h : s.Formed) :
    (s.interestPacket src n size dl).Formed := by
  simp only [State.interestPacket]
  split
  · exact h.count.touchTile.sendTile
  · split
    · exact h.putPit
    · exact ite_formed h.putPit h

theorem State.Formed.tileArrived {t : Tile} {src : Nat} (h : s.Formed) : (s.tileArrived t src).Formed := by
  simp only [State.tileArrived]
  exact ite_formed (ite_formed (h.upd rfl rfl) (h.tileHere.upd rfl rfl)) h.tileHere

theorem State.Formed.tileLine {src : Nat} {n : TileName} {size idx : Nat} {marks : List Origin}
    {data : List Byte} (h : s.Formed) : (s.tileLine src n size idx marks data).Formed := by
  simp only [State.tileLine]
  exact ite_formed (State.Formed.tileArrived (h.upd rfl rfl)) (h.upd rfl rfl)

theorem State.Formed.rehomeEntry {old : List Nat} {e0 : PitEntry} (h : s.Formed) : (s.rehomeEntry old e0).Formed := by
  simp only [State.rehomeEntry]
  exact ite_formed h.putPit h.putPit.sendInterest

theorem State.Formed.dropLostWaiters {old : List Nat} (h : s.Formed) : (s.dropLostWaiters old).Formed := by
  simp only [State.dropLostWaiters]
  exact foldl_formed (fun _ _ ht => ht.putPit) h

theorem State.Formed.rehomeAnnounce {c : Cmd} (h : s.Formed) : (s.rehomeAnnounce c).Formed := by
  simp only [State.rehomeAnnounce]
  split
  · exact ite_formed (State.Formed.announceHome (h.upd rfl rfl)) h.sendTile
  · exact h

theorem State.Formed.rehome {old : List Nat} (h : s.Formed) : (s.rehome old).Formed := by
  simp only [State.rehome]
  exact foldl_formed (fun _ _ ht => ht.rehomeAnnounce) ((foldl_formed (fun _ _ ht => ht.sendTile) (foldl_formed
      (fun _ _ ht => ht.rehomeEntry) h.dropLostWaiters)).upd rfl rfl)

theorem State.Formed.zithFail (h : s.Formed) : s.zithFail.Formed := by
  simp only [State.zithFail]
  refine foldl_formed (fun _ c ht => ?_) ?_
  · split
    · exact ht.failInterest
    · exact ht.finishCmd
    · exact ht
  · exact h

end Sys2Proof.Machine
end

section
/-! The canonical form of memory is kept by the commands beyond the device, the queues, the saves, the dumps and the launches. -/
namespace Sys2Proof.Machine

variable {s : State}

theorem State.Formed.post {ev : Rec8} (h : s.Formed) : (s.post ev).Formed := by
  simp only [State.post]
  exact ite_formed (h.upd rfl rfl) (h.upd rfl rfl)

theorem State.Formed.canWrite {c : Cmd} (h : s.Formed) : (s.canWrite c).1.Formed := by
  simp only [State.canWrite]
  refine foldl_fst_formed (fun _ e ht => ?_) ?_
  · split
    · split
      · exact ht.logFault
      · exact ht
    · exact ht
    · exact ht
  · exact h

theorem State.Formed.runAnswer {id : Nat} (h : s.Formed) : (s.runAnswer id).Formed := by
  simp only [State.runAnswer]
  split
  · split
    · split
      · exact h.dstFree.of_fst ‹_›
      · split
        · exact ((h.dstFree.of_fst ‹_›).canWrite.of_fst ‹_›).finishCmd
        · exact (foldl_formed (fun _ _ ht => ite_formed ht ht.writeSec)
              ((h.dstFree.of_fst ‹_›).canWrite.of_fst ‹_›)).finishCmd
    · exact h
  · exact h

theorem State.Formed.runDone {id : Nat} (h : s.Formed) : (s.runDone id).Formed := by
  simp only [State.runDone]
  split
  · split
    · exact h.finishCmd
    · exact h.runAnswer
    · exact h
  · exact h

theorem State.Formed.answerLease {c : Cmd} {gseq lid : Nat} {ok : Bool} (h : s.Formed) :
    (s.answerLease c gseq lid ok).Formed :=
  h.putCmd.runAnswer

theorem State.Formed.planPlain {c : Cmd} (h : s.Formed) : (s.planPlain c).Formed := by
  simp only [State.planPlain]
  split
  · exact h.taskStall.some ‹_›
  · split <;> exact h

theorem State.Formed.planDest {c : Cmd} (h : s.Formed) : (s.planDest c).Formed := by
  simp only [State.planDest]
  split
  · exact h.taskStall.some ‹_›
  · exact h.planOwn

theorem State.Formed.sendLease {id term : Nat} (h : s.Formed) : (s.sendLease id term).Formed := by
  simp only [State.sendLease]
  split
  · split
    · exact h
    · exact h.runDone
  · exact h

theorem State.Formed.watchWord {k : Nat} {va : Word} (h : s.Formed) : (s.watchWord k va).Formed := by
  simp only [State.watchWord]
  split
  · exact ite_formed h (h.upd rfl rfl)
  · exact h

theorem State.Formed.resolveSig {k : Nat} (h : s.Formed) : (s.resolveSig k).Formed := by
  simp only [State.resolveSig]
  split
  · split
    · exact h.freshRead.wait ‹_›
    · exact State.Formed.asWarp (fun _ ht => ht.setW.advance) (h.freshRead.psn ‹_›)
    · split
      · exact (h.freshRead.val ‹_›).watchWord
      · exact State.Formed.asWarp (fun _ ht => (ite_formed ht.setW.acquireL1 ht.setW).advance) (h.freshRead.val ‹_›)
  · exact h

theorem State.Formed.runEvpost {id : Nat} (h : s.Formed) : (s.runEvpost id).Formed := by
  simp only [State.runEvpost]
  split
  · split
    · exact ite_formed h.releaseL1.putCmd.post h.releaseL1
    · exact ite_formed h.putCmd.runAnswer h
    · exact h.runDone
  · exact h

theorem State.Formed.runEvposts (h : s.Formed) : s.runEvposts.Formed := by
  simp only [State.runEvposts]
  refine foldl_formed (fun _ id ht => ?_) ?_
  · split
    · split
      · exact ht.runEvpost
      · exact ht
    · exact ht
  · exact h

theorem State.Formed.postAnswered {ev : Rec8} {seq at_ : Nat} (h : s.Formed) : (s.postAnswered ev seq at_).Formed := by
  simp only [State.postAnswered]
  split
  · exact h.putCmd
  · exact h

theorem State.Formed.putQword {at_ : Nat × Nat} {q : QWord} (h : s.Formed) : (s.putQword at_ q).Formed :=
  h.putSpadSector.conflict

theorem State.Formed.arriveQueue {c : Cmd} {at_ : Nat × Nat} (h : s.Formed) : (s.arriveQueue c at_).Formed := by
  simp only [State.arriveQueue]
  exact ite_formed h.putCmd h

theorem State.Formed.putRun16 {cid off : Nat} {bs : List Byte} {mark : Nat → Origin} (h : s.Formed) :
    (s.putRun16 cid off bs mark).Formed := by
  simp only [State.putRun16]
  exact foldl_formed (fun _ _ ht => ht.putSpadSector.conflict) h

theorem State.Formed.pushReleased {c : Cmd} (h : s.Formed) : (s.pushReleased c).1.Formed :=
  h.releaseL1

theorem State.Formed.performPush {id : Nat} (h : s.Formed) : (s.performPush id).Formed := by
  simp only [State.performPush]
  split
  · exact h
  · split
    · split
      · exact h.fillCmd.arriveQueue
      · split
        · exact h.fillCmd.pushReleased.of_fst ‹_›
        · split
          · exact (h.fillCmd.pushReleased.of_fst ‹_›).putCmd
          · exact (h.fillCmd.pushReleased.of_fst ‹_›).finishCmd
          · split
            · exact h.fillCmd.pushReleased.of_fst ‹_›
            · exact (h.fillCmd.pushReleased.of_fst ‹_›).putRun16.putQword.finishCmd
    · exact h.fillCmd.finishCmd
    · exact h.fillCmd

theorem State.Formed.finishPop {c : Cmd} (h : s.Formed) : (s.finishPop c).Formed := by
  simp only [State.finishPop]
  split
  · exact h.dstFree.of_fst ‹_›
  · exact (foldl_formed (fun _ _ ht => ite_formed ht ht.writeSec) (h.dstFree.of_fst ‹_›)).acquireL1.finishCmd

theorem State.Formed.performPop {id : Nat} (h : s.Formed) : (s.performPop id).Formed := by
  simp only [State.performPop]
  split
  · exact h
  · split
    · split
      · exact h.arriveQueue
      · split
        · exact h.putCmd
        · exact h.finishCmd
        · exact ite_formed h h.putQword.putCmd.finishPop
    · exact ite_formed h.finishCmd h.finishPop
    · exact h

theorem State.Formed.performInit {c : Cmd} (h : s.Formed) : (s.performInit c).Formed := by
  simp only [State.performInit]
  split
  · exact ite_formed h.arriveQueue h.putQword.finishCmd
  · exact h.finishCmd

theorem State.Formed.completeIf {id : Nat} {which : Op → Bool} (h : s.Formed) : (s.completeIf id which).Formed := by
  simp only [State.completeIf]
  split
  · exact ite_formed h.performOp h
  · exact h

theorem State.Formed.completeCmd {id : Nat} (h : s.Formed) : (s.completeCmd id).Formed := by
  simp only [State.completeCmd]
  split
  · exact h
  · split
    · exact h.performInit
    · exact ite_formed h h.finishPop
    · exact h
    · exact ite_formed h h.runTile
    · exact ite_formed h h.runTile
    · exact h.runInterest
    · exact h.runAnnounce
    · exact h.runEvpost
    · exact h
    · exact h
    · exact h.runAnswer
    · exact h.runDone
    · split
      · exact h.fillCmd
      · split
        · exact h.fillCmd
        · split
          · exact h.fillCmd.writeElems
          · exact h.fillCmd

theorem State.Formed.takeDeferred (h : s.Formed) : s.takeDeferred.Formed := by
  simp only [State.takeDeferred]
  split
  · exact h
  · split
    · exact h.handlerWaits.some ‹_›
    · exact h.setW.trapNow

theorem State.Formed.dbgDone {cmd : Word} {st : BitVec 6} (h : s.Formed) : (s.dbgDone cmd st).Formed :=
  h

theorem State.Formed.dbgBusy {cmd : Word} (h : s.Formed) : (s.dbgBusy cmd).Formed :=
  h

theorem State.Formed.resumeElse {a : Word} (h : s.Formed) : (s.resumeElse a).1.Formed := by
  simp only [State.resumeElse]
  split
  · exact h.resumeAt.wait ‹_›
  · exact (h.resumeAt.inside ‹_›).setW
  · exact (h.resumeAt.header ‹_›).setW.fall
  · split
    · exact ((h.resumeAt.trap ‹_›).setW.handlerWaits.some ‹_›).setW
    · exact (h.resumeAt.trap ‹_›).setW.takeTrap

theorem State.Formed.resumeWarp {k : Nat} {a : Word} (h : s.Formed) : (s.resumeWarp k a).1.Formed := by
  simp only [State.resumeWarp]
  split
  · exact h.putWarp
  · exact formed_congr rfl rfl (State.Formed.resumeElse (h.upd rfl rfl))

theorem State.Formed.areaReady {cid ctx : Nat} {va : Word} {n : Nat} (h : s.Formed) :
    (s.areaReady cid ctx va n).1.Formed := by
  simp only [State.areaReady]
  refine foldl_fst_formed (fun _ k ht => ?_) ?_
  · split
    · exact ht
    · split
      · exact ht.writeBackL1.prepare.of_fst ‹_›
      · exact ht.writeBackL1.prepare.of_fst ‹_›
      · exact (ht.writeBackL1.prepare.of_fst ‹_›).soleReady
  · exact h

theorem State.Formed.holdWhole {a : AreaBy} {ia : Nat} {va : Word} {bs : List Byte} (h : s.Formed) :
    (s.holdWhole a ia va bs).Formed := by
  simp only [State.holdWhole]
  exact (foldl_formed (fun _ _ ht => ht.hold) h.takeWay.noteWhole).conflict

theorem State.Formed.areaLine {a : AreaBy} {cid ctx : Nat} {va : Word} {bs : List Byte} (h : s.Formed) :
    (s.areaLine a cid ctx va bs).1.Formed := by
  have hw (ia : Nat) : (s.holdWhole a ia va bs).Formed := h.holdWhole
  unfold State.areaLine
  generalize s.holdWhole a = hold at hw ⊢
  split
  · exact h
  · split
    · split
      · exact h.logFault
      · exact hw _
    · split
      · exact h.prepare.of_fst ‹_›
      · exact (h.prepare.of_fst ‹_›).logFault
      · exact (h.prepare.of_fst ‹_›).writeReady.dropClean

theorem State.Formed.writeArea {a : AreaBy} {cid ctx : Nat} {va : Word} {lines : List (Nat × List Byte)} (h : s.Formed) :
    (s.writeArea a cid ctx va lines).1.Formed := by
  simp only [State.writeArea]
  refine foldl_fst_formed (fun _ e ht => ?_) ?_
  · split <;> exact ht.areaLine.of_fst ‹_›
  · exact h

theorem State.Formed.writeDump {a : AreaBy} {k blk : Nat} {va : Word} {room : Nat} {ks : List Nat}
    {warps : List (List Byte)} (h : s.Formed) : (s.writeDump a k blk va room ks warps).1.Formed := by
  simp only [State.writeDump]
  exact h.writeArea.writeArea

theorem State.Formed.endDumpw {k : Nat} {ok : Bool} (h : s.Formed) : (s.endDumpw k ok).Formed := by
  simp only [State.endDumpw]
  split
  · exact State.Formed.asWarp (fun _ ht => ht.setW.statusNext) h
  · exact h

theorem State.Formed.dumpwReady {k v : Nat} {va : Word} {n : Nat} (h : s.Formed) : (s.dumpwReady k v va n).1.Formed := by
  simp only [State.dumpwReady]
  split
  · exact h.areaReady
  · split
    · exact h
    · split
      · exact h
      · exact State.Formed.asWarp (fun _ ht => ht.abortTry) h

theorem State.Formed.runDumpw {k : Nat} (h : s.Formed) : (s.runDumpw k).Formed := by
  simp only [State.runDumpw]
  split
  · split
    · exact h.endDumpw
    · split
      · exact h
      · split
        · exact h.endDumpw
        · split
          · exact h.dumpwReady.of_fst ‹_›
          · exact (h.dumpwReady.of_fst ‹_›).writeDump.endDumpw
  · exact h

theorem State.Formed.haltDump {k : Nat} (h : s.Formed) : (s.haltDump k).Formed := by
  unfold State.haltDump
  extract_lets w c warps total n given
  have hgiven (t : State) (ht : t.Formed) : (given t).Formed := ht.upd rfl rfl
  clear_value given
  split
  · exact h
  · split
    · exact hgiven _ h
    · extract_lets
      split
      · exact h.areaReady.of_fst ‹_›
      · exact hgiven _ (h.areaReady.of_fst ‹_›).writeDump.putCtx

theorem State.Formed.haltDumps (h : s.Formed) : s.haltDumps.Formed := by
  simp only [State.haltDumps]
  refine foldl_fst_formed (fun _ e ht => ?_) ?_
  · split
    · exact ht
    · exact ht.haltDump
  · exact h

theorem State.Formed.devSectors {ctx : Nat} {va : Word} {n : Nat} (h : s.Formed) :
    (s.devSectors ctx va n).Formed := by
  induction n with
  | zero => exact h
  | succ n ih =>
    simp only [State.devSectors]
    split
    · have hu := ih.ok ‹_›
      split
      · exact hu
      · split
        · exact hu.prepare.of_fst ‹_›
        · exact (hu.prepare.of_fst ‹_›).logFault
        · split <;> exact hu.prepare.of_fst ‹_›
    · exact ih

theorem State.Formed.devRead {ctx : Nat} {va : Word} {n : Nat} (h : s.Formed) : (s.devRead ctx va n).Formed :=
  h.devSectors

theorem State.Formed.entryOk {ctx : Nat} {a : Word} (h : s.Formed) : rightFormed (s.entryOk ctx a) := by
  simp only [State.entryOk]
  split
  · exact h
  · split
    · exact h.fetchWord.wait ‹_›
    · exact h.fetchWord.trap ‹_›
    · exact h.fetchWord.word ‹_›

theorem State.Formed.readLaunch {id : Nat} (h : s.Formed) : (s.readLaunch id).Formed := by
  simp only [State.readLaunch]
  split
  · exact h
  · split
    · exact h.putLaunch
    · split
      · exact h.devRead.wait ‹_›
      · exact (h.devRead.bad ‹_›).putLaunch
      · split
        · exact (h.devRead.ok ‹_›).entryOk.error ‹_›
        · exact ((h.devRead.ok ‹_›).entryOk.ok ‹_›).putLaunch
        · split
          · exact ((h.devRead.ok ‹_›).entryOk.ok ‹_›).putLaunch
          · split
            · exact ((h.devRead.ok ‹_›).entryOk.ok ‹_›).putLaunch
            · split
              · exact ((h.devRead.ok ‹_›).entryOk.ok ‹_›).putLaunch
              · split
                · exact ((h.devRead.ok ‹_›).entryOk.ok ‹_›).devRead.wait ‹_›
                · exact (((h.devRead.ok ‹_›).entryOk.ok ‹_›).devRead.bad ‹_›).putLaunch
                · split <;> exact (((h.devRead.ok ‹_›).entryOk.ok ‹_›).devRead.ok ‹_›).putLaunch

theorem State.Formed.acceptLaunch {recVA doneVA : Word} {ctx port : Nat} {gang : Option (Nat × Nat)}
    {prime : Word} (h : s.Formed) : (s.acceptLaunch recVA doneVA ctx port gang prime).Formed := by
  simp only [State.acceptLaunch]
  exact State.Formed.readLaunch (State.Formed.putLaunch (h.upd rfl rfl))

theorem State.Formed.launchCommand {p : Rec8} {port : Nat} (h : s.Formed) : (s.launchCommand p port).Formed := by
  simp only [State.launchCommand]
  exact ite_formed (h.upd rfl rfl) h.acceptLaunch

theorem State.Formed.reportCore {cid : Nat} (h : s.Formed) : (s.reportCore cid).Formed :=
  h

theorem State.Formed.dieReport {die : Nat} (h : s.Formed) : (s.dieReport die).Formed := by
  unfold State.dieReport
  extract_lets cids s1
  have h1 : s1.Formed := foldl_formed (fun _ _ ht => ht.reportCore) h
  clear_value s1
  exact ite_formed h1 (h1.upd rfl rfl)

theorem State.Formed.claimLines {cid lo n : Nat} (h : s.Formed) : (s.claimLines cid lo n).Formed :=
  h

theorem State.Formed.holdRegions {id idx cid : Nat} (h : s.Formed) : (s.holdRegions id idx cid).Formed := by
  simp only [State.holdRegions]
  exact foldl_formed (fun _ _ ht => ite_formed ht ht.claimLines.putCore) h

theorem State.Formed.seat {cid : Nat} {ws : List Warp} (h : s.Formed) : (s.seat cid ws).Formed := by
  induction ws generalizing s with
  | nil => exact h
  | cons w ws ih => exact ih h.putWarp

theorem State.Formed.countPlacement {cid lines rows warps : Nat} (h : s.Formed) :
    (s.countPlacement cid lines rows warps).Formed :=
  h

theorem State.Formed.rereadHeaders (h : s.Formed) : s.rereadHeaders.Formed := by
  simp only [State.rereadHeaders]
  split
  · exact h.setW
  · split
    · exact h.fetchWord.wait ‹_›
    · split
      · exact (h.fetchWord.trap ‹_›).handlerWaits.some ‹_›
      · exact (h.fetchWord.trap ‹_›).setW.takeTrap
    · split
      · exact (h.fetchWord.word ‹_›).setW
      · split
        · exact (h.fetchWord.word ‹_›).handlerWaits.some ‹_›
        · exact (h.fetchWord.word ‹_›).setW.takeTrap

theorem State.Formed.loadBars {id idx : Nat} {bs : List Byte} (h : s.Formed) : (s.loadBars id idx bs).Formed := by
  simp only [State.loadBars]
  refine foldl_formed (fun _ e ht => ?_) ?_
  · refine foldl_formed (fun _ _ ht1 => ?_) ?_
    · exact ht1
    · exact ht
  · exact h

theorem State.Formed.loadSpad {id cid : Nat} {us : List (Nat × Nat)} {bs : List Byte} (h : s.Formed) :
    (s.loadSpad id cid us bs).Formed := by
  simp only [State.loadSpad]
  exact foldl_formed (fun _ _ ht => foldl_formed (fun _ _ ht1 => ht1.putSpadSector) ht) h

theorem State.Formed.relocateUnit {id : Nat} {idxs : List Nat} (h : s.Formed) : (s.relocateUnit id idxs).Formed :=
  h

theorem State.Formed.restoreBlock {blk cid : Nat} {image : List Byte} (h : s.Formed) :
    (s.restoreBlock blk cid image).Formed := by
  unfold State.restoreBlock
  extract_lets b l lines a c tuse b1 td s1 ws s2 slots s3
  have h1 : s1.Formed := h.putBlock.putCore
  have h2 : s2.Formed := h1.seat.loadBars.loadSpad.dropAllClean
  have h3 : s3.Formed := by
    refine foldl_formed (fun _ _ ht => ?_) h2
    exact ht.upd rfl rfl
  refine foldl_formed (fun _ _ ht => ?_) h3
  exact ht.upd rfl rfl

theorem State.Formed.areasReady {id : Nat} {idxs : List Nat} (h : s.Formed) : (s.areasReady id idxs).1.Formed := by
  simp only [State.areasReady]
  refine foldl_fst_formed (fun _ i ht => ?_) ?_
  · split
    · exact ht
    · split
      · exact ht
      · split
        · exact ht.devRead.wait ‹_›
        · exact ht.devRead.bad ‹_›
        · exact ht.devRead.ok ‹_›
  · exact h

theorem State.Formed.placeBlock {id idx cid : Nat} (h : s.Formed) : (s.placeBlock id idx cid).Formed := by
  unfold State.placeBlock
  extract_lets l had lines f c u s1 s2
  split
  · have hu : u.Formed := h.putCore
    exact hu.upd rfl rfl
  · have h2 : s2.Formed := h.countPlacement.holdRegions.putLaunch
    split
    · extract_lets image s3
      have h3 : s3.Formed := h2.restoreBlock
      split
      · exact h3.putCtx
      · exact h3
    · exact State.Formed.seat (State.Formed.putBlock (h2.upd rfl rfl))

theorem State.Formed.placeUnit {id u : Nat} {lay : List (Nat × Nat)} (h : s.Formed) : (s.placeUnit id u lay).Formed := by
  simp only [State.placeUnit]
  split
  · exact h.areasReady.of_fst ‹_›
  · exact (foldl_formed (fun _ _ ht => ht.placeBlock) (h.areasReady.of_fst ‹_›)).relocateUnit.putLaunch

theorem State.Formed.placeFirst {ls : List (Nat × Launch)} (h : s.Formed) : (s.placeFirst ls).Formed := by
  induction ls generalizing s with
  | nil => exact h
  | cons e rest ih =>
    unfold State.placeFirst
    split
    next hit skipped stop _ =>
    extract_lets s1
    have h1 : s1.Formed := ite_formed h h.putLaunch
    split
    · split
      · exact h1.placeUnit
      · exact h1
    · exact ite_formed h1 (ih h1)

theorem State.Formed.readLaunches (h : s.Formed) : s.readLaunches.Formed := by
  simp only [State.readLaunches]
  exact foldl_formed (fun _ _ ht => ht.readLaunch) h

theorem State.Formed.coreReport {cid id : Nat} (h : s.Formed) : (s.coreReport cid id).Formed := by
  simp only [State.coreReport]
  exact ite_formed h.putLaunch h

theorem State.Formed.writeWord {ctx : Nat} {va : Word} {x : Nat} (h : s.Formed) : (s.writeWord ctx va x).1.Formed := by
  simp only [State.writeWord]
  split
  · exact h
  · split
    · exact h
    · split
      · exact h.recallL1s.prepare.of_fst ‹_›
      · have hu := h.recallL1s.prepare.of_fst ‹_›
        exact hu.upd rfl rfl
      · exact (h.recallL1s.prepare.of_fst ‹_›).writeReady

theorem State.Formed.dropLaunch {id : Nat} (h : s.Formed) : (s.dropLaunch id).Formed :=
  h

theorem State.Formed.releaseLaunch {id : Nat} (h : s.Formed) : (s.releaseLaunch id).1.Formed := by
  simp only [State.releaseLaunch]
  exact foldl_formed (fun _ _ ht => ht.flushL1) h

theorem State.Formed.endLaunch {id : Nat} (h : s.Formed) : (s.endLaunch id).Formed := by
  simp only [State.endLaunch]
  split
  · exact h
  · split
    · exact h.releaseLaunch.of_fst ‹_›
    · split
      · exact (h.releaseLaunch.of_fst ‹_›).post.dropLaunch
      · split
        · exact (h.releaseLaunch.of_fst ‹_›).writeWord.of_fst ‹_›
        · exact ((h.releaseLaunch.of_fst ‹_›).writeWord.of_fst ‹_›).dropLaunch

theorem State.Formed.endLaunches (h : s.Formed) : s.endLaunches.Formed := by
  simp only [State.endLaunches]
  refine foldl_formed (fun _ _ ht => ?_) ?_
  · exact ht.endLaunch
  · refine foldl_formed (fun _ e ht => ?_) ?_
    · split
      · exact ite_formed ht (foldl_formed (fun _ _ ht1 => ht1.post) ht.putLaunch)
      · exact ht
    · exact h

end Sys2Proof.Machine
end

section
/-! The canonical form of memory is kept by the pages, the patrol, the peers, the leases and the preemption. -/
namespace Sys2Proof.Machine

variable {s : State}

theorem State.Formed.copyBytes {a : Store} {n : Nat} {b : Store} (h : s.Formed) : (s.copyBytes a n b).Formed :=
  State.copyBytes_memWf h.1 h.2 a n b

theorem State.Formed.purge {ia n : Nat} (h : s.Formed) : (s.purge ia n).Formed := by
  simp only [State.purge]
  exact foldl_formed (fun _ _ ht => ht.dropL2) (foldl_formed (fun _ _ ht => ht.evictL1) h)

theorem State.Formed.callBack {ia n : Nat} (h : s.Formed) : (s.callBack ia n).1.Formed := by
  simp only [State.callBack]
  refine foldl_fst_formed (fun _ e ht => ?_) ?_
  · split
    · exact ht.recallOwner
    · exact ht.invalidateSharers
  · exact h

theorem State.Formed.putPin {i : Nat} {p : Pin} (h : s.Formed) : (s.putPin i p).Formed :=
  h

theorem State.Formed.unpin {i : Nat} (h : s.Formed) : (s.unpin i).Formed := by
  simp only [State.unpin]
  refine State.Formed.putPin ?_
  split
  · exact h.copyBytes
  · exact h

theorem State.Formed.purgePage {page : Nat} (h : s.Formed) : (s.purgePage page).1.Formed :=
  h.purge

theorem State.Formed.sliceActivate {i : Nat} (h : s.Formed) : (s.sliceActivate i).Formed := by
  simp only [State.sliceActivate]
  split
  · exact h.purgePage.of_fst ‹_›
  · exact (h.purgePage.of_fst ‹_›).putPin

theorem State.Formed.pinWrite {i : Nat} {val : Word} (h : s.Formed) : (s.pinWrite i val).Formed := by
  simp only [State.pinWrite]
  split
  · exact h
  · split
    · exact h.unpin.putPin
    · exact ite_formed (ite_formed h h.unpin.putPin.sliceActivate) (ite_formed h (h.unpin.upd rfl rfl))

theorem State.Formed.pinActivate {i : Nat} (h : s.Formed) : (s.pinActivate i).Formed := by
  simp only [State.pinActivate]
  split
  · exact h.sliceActivate
  · split
    · exact h
    · split
      · exact h.callBack.of_fst ‹_›
      · split
        · exact (h.callBack.of_fst ‹_›).purgePage.of_fst ‹_›
        · refine State.Formed.putPin ?_
          refine State.Formed.claimLines ?_
          split
          · exact ((h.callBack.of_fst ‹_›).purgePage.of_fst ‹_›).copyBytes
          · exact (h.callBack.of_fst ‹_›).purgePage.of_fst ‹_›

theorem State.Formed.putSlot {link n : Nat} {m : MigSlot} (h : s.Formed) : (s.putSlot link n m).Formed :=
  h

theorem State.Formed.setMig {page mig : Nat} (h : s.Formed) : (s.setMig page mig).Formed := by
  simp only [State.setMig]
  exact h.putLinkWord

theorem State.Formed.clearCopied {page : Nat} (h : s.Formed) : (s.clearCopied page).Formed := by
  simp only [State.clearCopied]
  exact foldl_formed (fun _ _ ht => ht.putLinkWord) h

theorem State.Formed.migStart {link n p q : Nat} (h : s.Formed) : (s.migStart link n p q).Formed := by
  simp only [State.migStart]
  split
  · exact h
  · split
    · exact h.putSlot
    · split
      · exact h.callBack.of_fst ‹_›
      · split
        · exact (h.callBack.of_fst ‹_›).purgePage.of_fst ‹_›
        · exact ((h.callBack.of_fst ‹_›).purgePage.of_fst ‹_›).putSlot.setMig.clearCopied.tlbInv

theorem State.Formed.migChunk {link n : Nat} (h : s.Formed) : (s.migChunk link n).Formed := by
  simp only [State.migChunk]
  split
  · exact h
  · split
    · exact h.callBack.callBack.of_fst ‹_›
    · split
      · exact h.callBack.callBack.of_fst ‹_›
      · split
        · exact (h.callBack.callBack.of_fst ‹_›).purge
        · split
          · split
            · exact (h.callBack.callBack.of_fst ‹_›).purge.copyBytes.putLinkByte.putSlot.setMig
            · exact (h.callBack.callBack.of_fst ‹_›).purge.copyBytes.putLinkByte.putSlot
          · split
            · exact (h.callBack.callBack.of_fst ‹_›).purge.copyBytes.putLinkByte.putSlot.setMig
            · exact (h.callBack.callBack.of_fst ‹_›).purge.copyBytes.putLinkByte.putSlot
          · exact (h.callBack.callBack.of_fst ‹_›).purge.logFault
          · exact (h.callBack.callBack.of_fst ‹_›).purge

theorem State.Formed.migRelease {link n : Nat} (h : s.Formed) : (s.migRelease link n).Formed := by
  simp only [State.migRelease]
  split
  · exact h
  · split
    · exact h.purgePage.of_fst ‹_›
    · exact (h.purgePage.of_fst ‹_›).putLinkWord.putSlot.tlbInv

theorem State.Formed.logScrub {t kind sector line : Nat} (h : s.Formed) : (s.logScrub t kind sector line).Formed :=
  h

theorem State.Formed.scrubSector {t line q : Nat} {r : EccResult} (h : s.Formed) : (s.scrubSector t line q r).Formed := by
  simp only [State.scrubSector]
  split
  · exact h
  · exact ite_formed h.logScrub h.count.logScrub
  · exact (ite_formed h.putDdrSector h).count.logScrub

theorem State.Formed.tagCheck {t line : Nat} {tag : TagResult} (h : s.Formed) : (s.tagCheck t line tag).Formed := by
  simp only [State.tagCheck]
  split
  · exact h
  · exact ite_formed h.logScrub h
  · exact (foldl_formed (fun _ _ ht => ht.putDdrSector) h).logScrub

theorem State.Formed.scrubLine {t : Nat} {ecc : List EccResult} {tag : TagResult} (h : s.Formed) :
    (s.scrubLine t ecc tag).Formed := by
  simp only [State.scrubLine]
  split
  · exact h
  · refine formed_congr rfl rfl ?_
    split
    · exact (foldl_formed (fun _ _ ht => ht.scrubSector) h).tagCheck
    · exact foldl_formed (fun _ _ ht => ht.scrubSector) h

theorem State.Formed.ringStore {ctx : Nat} {va : Word} {bs : List Byte} (h : s.Formed) :
    mayFormed (s.ringStore ctx va bs).1 ∧ (s.ringStore ctx va bs).2.Formed := by
  unfold State.ringStore
  split
  · exact ⟨h, h⟩
  · split
    · exact ⟨trivial, h.recallL1s.prepare.of_fst ‹_›⟩
    · exact ⟨(h.recallL1s.prepare.of_fst ‹_›).logFault, h.recallL1s.prepare.of_fst ‹_›⟩
    · exact ⟨(h.recallL1s.prepare.of_fst ‹_›).writeReady, h.recallL1s.prepare.of_fst ‹_›⟩

theorem State.Formed.offerRow {kind : Nat} {data : List Word} (h : s.Formed) :
    (s.offerRow kind data).1.Formed := by
  unfold State.offerRow
  extract_lets m row va
  split
  · exact h
  · split
    · obtain ⟨h1, h2⟩ := h.ringStore (ctx := Config.mgmtCtx) (va := va) (bs := row.flatMap fun x => toBytes 8 x.toNat)
      generalize s.ringStore Config.mgmtCtx va (row.flatMap fun x => toBytes 8 x.toNat) = p at h1 h2
      obtain ⟨_ | t, u⟩ := p
      · exact h2
      · exact State.Formed.upd h1 rfl rfl
    · exact h.upd rfl rfl

theorem State.Formed.respond {dev line req : Nat} {a : PeerAnswer} (h : s.Formed) : (s.respond dev line req a).Formed :=
  h

theorem State.Formed.ackLine {dev line : Nat} (h : s.Formed) : (s.ackLine dev line).Formed :=
  h.respond

theorem State.Formed.rmwPacket {r : Ready} {p : AtomicPkt} (h : s.Formed) : (s.rmwPacket r p).1.Formed := by
  simp only [State.rmwPacket]
  refine foldl_fst_formed (fun _ a ht => ?_) ?_
  · split <;> exact ht.rmwReady
  · exact h

theorem State.Formed.grantHome {h : HomeWait} {r : Ready} {line : Nat} (hs : s.Formed) :
    (s.grantHome h r line).1.Formed := by
  simp only [State.grantHome]
  split
  · split
    · exact hs.recallL1s
    · exact hs.recallL1s.rmwPacket.respond
  · split
    · split
      · exact hs
      · exact State.Formed.respond (State.Formed.conflict (hs.upd rfl rfl))
    · split
      · exact hs.respond
      · split
        · exact hs.respond
        · exact State.Formed.respond (hs.upd rfl rfl)

theorem State.Formed.callHolders {h : HomeWait} {line : Nat} {ds : List Nat} {pkt : Nat → Packet} (hs : s.Formed) :
    (s.callHolders h line ds pkt).1.Formed :=
  hs

theorem State.Formed.atHome {h : HomeWait} {r : Ready} {line : Nat} (hs : s.Formed) : (s.atHome h r line).1.Formed := by
  simp only [State.atHome]
  split
  · exact hs
  · split
    · exact State.Formed.respond (hs.upd rfl rfl)
    · exact hs.callHolders
    · split
      · split
        · exact hs.grantHome
        · exact State.Formed.callHolders (hs.upd rfl rfl)
      · split
        · split
          · exact hs.grantHome
          · exact State.Formed.callHolders (hs.upd rfl rfl)
        · split
          · exact hs.grantHome
          · exact State.Formed.callHolders (hs.upd rfl rfl)

theorem State.Formed.handBack {line : Nat} {keep : Bool} (h : s.Formed) : (s.handBack line keep).Formed := by
  simp only [State.handBack]
  exact ite_formed h.dropL2.putL2 h.dropL2.conflict

theorem State.Formed.tryHome {h : HomeWait} (hs : s.Formed) : (s.tryHome h).1.Formed := by
  simp only [State.tryHome]
  split
  · split
    · exact hs
    · exact hs.handBack
  · split
    · exact hs.respond
    · split
      · exact hs
      · exact hs.logFault.respond
      · exact hs.respond
      · exact hs.atHome
      · exact hs.atHome

theorem State.Formed.askHome {h : HomeWait} (hs : s.Formed) : (s.askHome h).Formed := by
  simp only [State.askHome]
  split
  · exact hs
  · split
    · exact hs.tryHome.of_fst ‹_›
    · have hu := hs.tryHome.of_fst ‹_›
      exact hu.upd rfl rfl

theorem State.Formed.serveHomes {hs : List HomeWait} (h : s.Formed) : (State.serveHomes hs s).Formed := by
  induction hs generalizing s with
  | nil => exact h
  | cons e es ih =>
    unfold State.serveHomes
    extract_lets keep behind
    have hkeep {t : State} {x : HomeWait} (ht : t.Formed) : (keep t x).Formed := ht.upd rfl rfl
    split
    · exact ih (hkeep h)
    · split
      · exact ih (hkeep h)
      · split
        · exact ih (h.tryHome.of_fst ‹_›)
        · exact ih (hkeep (h.tryHome.of_fst ‹_›))

theorem State.Formed.serveHome (h : s.Formed) : s.serveHome.Formed := by
  simp only [State.serveHome]
  exact ite_formed (State.Formed.serveHomes (h.upd rfl rfl)) h

theorem State.Formed.answered {dev line : Nat} (h : s.Formed) : (s.answered dev line).Formed :=
  h

theorem State.Formed.mergeBack {r : Ready} {ia : Nat} {mask : BitVec 128} {marks : List Origin}
    {data : List Byte} (h : s.Formed) : (s.mergeBack r ia mask marks data).Formed := by
  simp only [State.mergeBack]
  exact foldl_formed (fun _ _ ht => ht.putReadySector) (ite_formed h h.writeReady)

theorem State.Formed.keepSharer {line src : Nat} {kept : Bool} (h : s.Formed) : (s.keepSharer line src kept).Formed := by
  simp only [State.keepSharer]
  exact ite_formed (h.upd rfl rfl) h

theorem State.Formed.fillWritten {old : State} {ia : Nat} (h : s.Formed) : (s.fillWritten old ia).Formed := by
  simp only [State.fillWritten]
  exact ite_formed h.dropL2 h.dropL2.putLinkByte

theorem State.Formed.takeBack {src ia : Nat} {mask : BitVec 128} {marks : List Origin} {data : List Byte} (h : s.Formed) :
    (s.takeBack src ia mask marks data).Formed := by
  simp only [State.takeBack]
  split
  · exact h
  · split
    · split
      · exact State.Formed.fillWritten (State.Formed.answered (State.Formed.keepSharer (State.Formed.mergeBack
            (h.upd rfl rfl))))
      · exact State.Formed.answered (State.Formed.keepSharer (State.Formed.mergeBack (h.upd rfl rfl)))
    · split
      · exact State.Formed.fillWritten (State.Formed.answered (State.Formed.keepSharer (State.Formed.mergeBack
            (h.upd rfl rfl))))
      · exact State.Formed.answered (State.Formed.keepSharer (State.Formed.mergeBack (h.upd rfl rfl)))
    · exact h.logFault.answered
    · exact h.logFault.answered

theorem State.Formed.recalled {dev ia : Nat} {keep : Bool} (h : s.Formed) : (s.recalled dev ia keep).Formed := by
  simp only [State.recalled]
  split
  · exact h.ackLine
  · exact foldl_formed (fun _ _ ht => ht.askHome) h

theorem State.Formed.dropReq {id : Nat} (h : s.Formed) : (s.dropReq id).Formed :=
  h

theorem State.Formed.atomicAnswer {r : PeerReq} {ans : PeerAnswer} (h : s.Formed) : (s.atomicAnswer r ans).Formed := by
  simp only [State.atomicAnswer]
  split
  · exact h
  · split
    · refine State.Formed.fences ?_
      refine State.Formed.completeOp ?_
      split
      · split
        · refine foldl_fst_formed (fun _ a ht => ?_) ?_
          · refine State.Formed.dropClean ?_
            split <;> exact ht.rmwDone
          · exact h
        · refine State.Formed.deliverTo ?_
          refine foldl_fst_formed (fun _ a ht => ?_) ?_
          · refine State.Formed.dropClean ?_
            split <;> exact ht.rmwDone
          · exact h
      · split
        · refine foldl_fst_formed (fun _ _ ht => ?_) ?_
          · exact ht.rmwFail.dropClean
          · exact h
        · refine State.Formed.deliverTo ?_
          refine foldl_fst_formed (fun _ _ ht => ?_) ?_
          · exact ht.rmwFail.dropClean
          · exact h
      · split
        · refine foldl_fst_formed (fun _ _ ht => ?_) ?_
          · exact ht.dropClean
          · exact h
        · refine State.Formed.deliverTo ?_
          refine foldl_fst_formed (fun _ _ ht => ?_) ?_
          · exact ht.dropClean
          · exact h
    · exact h

theorem State.Formed.response {src : Nat} {rsp : PeerResponse} (h : s.Formed) : (s.response src rsp).Formed := by
  simp only [State.response]
  split
  · exact h.announceAnswered
  · exact State.Formed.serveHome (State.Formed.answered (ite_formed (h.upd rfl rfl) h))
  · split
    · exact h
    · split
      · exact h.dropReq.atomicAnswer
      · split
        · exact h.dropReq.putL2
        · exact h
        · exact h.dropReq

theorem State.Formed.refuseLease {dev tag : Nat} (h : s.Formed) : (s.refuseLease dev tag).Formed :=
  h

theorem State.Formed.leaseRequest {src tag bound np term : Nat} {fbtab bbase : Word} (h : s.Formed) :
    (s.leaseRequest src tag bound np term fbtab bbase).Formed := by
  simp only [State.leaseRequest]
  split
  · exact h.refuseLease
  · exact State.Formed.post (h.upd rfl rfl)

theorem State.Formed.lineUnder {ia : Nat} {w : Word} (h : s.Formed) : (s.lineUnder ia w).1.Formed := by
  simp only [State.lineUnder]
  split
  · exact h
  · exact h
  · exact h
  · exact h
  · split
    · exact h.doneReady
    · split
      · exact h
      · exact h.askPeer

theorem State.Formed.chunkUnder {ia : Nat} {w : Word} (h : s.Formed) : (s.chunkUnder ia w).1.Formed := by
  simp only [State.chunkUnder]
  refine foldl_fst_formed (fun _ _ ht => ?_) ?_
  · exact ht.lineUnder
  · exact h

theorem State.Formed.sendChunk {dev ia : Nat} {ls : List (List Byte × List Origin)} (h : s.Formed) :
    (s.sendChunk dev ia ls).Formed :=
  h

theorem State.Formed.storeChunk {ia : Nat} {w : Word} {ls : List (List Byte × List Origin)} (h : s.Formed) :
    (s.storeChunk ia w ls).Formed := by
  simp only [State.storeChunk]
  split
  · exact foldl_formed (fun _ _ ht => foldl_formed (fun _ _ ht1 => ht1.putDdrSector) ht) h
  · exact h.sendChunk
  · exact h

theorem State.Formed.wordAt {ia : Nat} (h : s.Formed) : (s.wordAt ia).1.Formed := by
  simp only [State.wordAt]
  split <;> exact h.prepare.of_fst ‹_›

theorem State.Formed.putMove {lid : Nat} {m : LeaseMove} (h : s.Formed) : (s.putMove lid m).Formed :=
  h

theorem State.Formed.clearPage {page : Nat} (h : s.Formed) : (s.clearPage page).1.Formed := by
  simp only [State.clearPage]
  split
  · exact h.callBack.of_fst ‹_›
  · exact (h.callBack.of_fst ‹_›).purge

theorem State.Formed.writePte {page : Nat} {w : Word} (h : s.Formed) : (s.writePte page w).Formed := by
  simp only [State.writePte]
  exact (ite_formed h.putLinkWord h).tlbInv

theorem State.Formed.fillChunk {lid : Nat} (h : s.Formed) : (s.fillChunk lid).Formed := by
  simp only [State.fillChunk]
  split
  · exact h
  · split
    · split
      · exact h.clearPage
      · split
        · exact h.clearPage.wordAt
        · split
          · exact h.clearPage.wordAt.chunkUnder.of_fst ‹_›
          · split
            · exact (h.clearPage.wordAt.chunkUnder.of_fst ‹_›).sendChunk.purge.writePte.putMove
            · exact (h.clearPage.wordAt.chunkUnder.of_fst ‹_›).sendChunk.purge.putMove
    · split
      · exact h
      · split
        · exact h
        · split
          · exact h.chunkUnder.of_fst ‹_›
          · split
            · exact (h.chunkUnder.of_fst ‹_›).sendChunk.purge.writePte.putMove
            · exact (h.chunkUnder.of_fst ‹_›).sendChunk.purge.putMove

/-- A chunk of the copy-back read and stored. -/
theorem State.Formed.backCopy {lid : Nat} {dirty : List Nat} (h : s.Formed)
    (hgo : ¬ ((s.move lid).row.state = .free ∨ ¬ (s.move lid).closing = true ∨ (s.move lid).posted = true ∨
      ¬ s.isReady .lease = true))
    (h5 : ¬ (s.move lid).backPages ≤ (s.move lid).cur) (h6 : (s.move lid).begun = true) : (s.backChunk lid dirty).Formed := by
  obtain ⟨read, hread⟩ : ∃ f, f = s.chunkUnder := ⟨_, rfl⟩
  have hf (ia : Nat) (w : Word) : (read ia w).1.Formed := hread ▸ h.chunkUnder
  unfold State.backChunk
  extract_lets m page part clean
  change ¬ (m.row.state = .free ∨ ¬ m.closing = true ∨ m.posted = true ∨ ¬ s.isReady .lease = true) at hgo
  change ¬ m.backPages ≤ m.cur at h5
  change m.begun = true at h6
  clear_value clean part page m
  rw [← hread, if_neg hgo, if_neg h5, h6, if_neg (by decide)]
  cases (List.range 512).find? fun c => !m.copied.contains c with
  | none => exact h.purge.writePte.putMove
  | some c =>
    dsimp only
    have h1 := hf (page * 2 ^ 21 + 4096 * c) (m.lent m.cur m.cfb)
    generalize read (page * 2 ^ 21 + 4096 * c) (m.lent m.cur m.cfb) = r at h1 ⊢
    obtain ⟨t, _ | ls⟩ := r
    · exact h1
    · exact State.Formed.putMove (State.Formed.storeChunk (State.Formed.upd h1 rfl rfl))

theorem State.Formed.backChunk {lid : Nat} {dirty : List Nat} (h : s.Formed) : (s.backChunk lid dirty).Formed := by
  by_cases hgo : (s.move lid).row.state = .free ∨ ¬ (s.move lid).closing = true ∨ (s.move lid).posted = true ∨
      ¬ s.isReady .lease = true
  · unfold State.backChunk
    extract_lets m page part clean
    rw [if_pos hgo]
    exact h
  by_cases h5 : (s.move lid).backPages ≤ (s.move lid).cur
  · unfold State.backChunk
    extract_lets m page part clean
    rw [if_neg hgo, if_pos h5]
    exact h.post.putMove
  by_cases h6 : (s.move lid).begun = true
  · exact h.backCopy hgo h5 h6
  · unfold State.backChunk
    extract_lets m page part clean
    have h6 : (!m.begun) = true := by simpa using h6
    rw [if_neg hgo, if_neg h5, if_pos h6]
    have h1 : (s.clearPage page).1.Formed := h.clearPage
    clear_value clean part page m
    generalize s.clearPage page = r at h1 ⊢
    obtain ⟨t, _ | _⟩ := r
    · exact h1
    · have h2 : (if part = true then (t, some m.fb) else t.wordAt (m.row.fbtab.toNat + 8 * m.cur)).1.Formed := by
        split
        · exact h1
        · exact State.Formed.wordAt h1
      dsimp only
      generalize (if part = true then (t, some m.fb) else t.wordAt (m.row.fbtab.toNat + 8 * m.cur)) = q at h2 ⊢
      obtain ⟨u, _ | w⟩ := q
      · exact h2
      · exact State.Formed.putMove h2

theorem State.Formed.grantSeen {r : LeaseRow} (h : s.Formed) : (s.grantSeen r).Formed := by
  simp only [State.grantSeen]
  exact ite_formed h (h.upd rfl rfl)

theorem State.Formed.clearDirty {page : Nat} (h : s.Formed) : (s.clearDirty page).Formed := by
  simp only [State.clearDirty]
  exact foldl_formed (fun _ _ ht => ht.putLinkWord) h

theorem State.Formed.leaseGranted {lid : Nat} (h : s.Formed) : (s.leaseGranted lid).Formed := by
  simp only [State.leaseGranted]
  split
  · split
    · exact foldl_formed (fun _ _ ht => ht.clearDirty) (State.Formed.purge (h.grantSeen.upd rfl rfl))
    · exact h.grantSeen
  · split
    · refine State.Formed.answerLease ?_
      refine State.Formed.putMove ?_
      refine formed_congr rfl rfl ?_
      split
      · exact foldl_formed (fun _ _ ht => ht.clearDirty) (State.Formed.purge (h.grantSeen.upd rfl rfl))
      · exact h.grantSeen
    · refine State.Formed.putMove ?_
      refine formed_congr rfl rfl ?_
      split
      · exact foldl_formed (fun _ _ ht => ht.clearDirty) (State.Formed.purge (h.grantSeen.upd rfl rfl))
      · exact h.grantSeen

theorem State.Formed.leaseRefused {r : LeaseRow} (h : s.Formed) : (s.leaseRefused r).Formed := by
  simp only [State.leaseRefused]
  split
  · exact h.grantSeen
  · split
    · exact h.grantSeen.answerLease
    · exact h.grantSeen

theorem State.Formed.leaseClosing {lid : Nat} (h : s.Formed) : (s.leaseClosing lid).Formed := by
  simp only [State.leaseClosing]
  split
  · split
    · exact (foldl_formed (fun _ _ ht => ht.writeBackL2) h).putMove
    · exact foldl_formed (fun _ _ ht => ht.writeBackL2) h
  · exact ite_formed h.putMove h

theorem State.Formed.dropHolder {dev first n : Nat} (h : s.Formed) : (s.dropHolder dev first n).Formed :=
  h

theorem State.Formed.dropLost {m : LeaseMove} (h : s.Formed) : (s.dropLost m).Formed := by
  simp only [State.dropLost]
  exact h.purge.upd rfl rfl

theorem State.Formed.leaseFreed {lid : Nat} {r : LeaseRow} {revoked : Bool} {time : Nat} (h : s.Formed) :
    (s.leaseFreed lid r revoked time).Formed := by
  unfold State.leaseFreed
  extract_lets t leng s1 m s0 s2 recs rets u leng'
  have ht : t.Formed := h.dropHolder
  clear_value t
  have h1 : s1.Formed := ite_formed (ite_formed (ht.upd rfl rfl) ht) h
  clear_value s1
  have h0 : s0.Formed := ite_formed h1.dropLost h1
  clear_value s0
  have h2 : s2.Formed := ite_formed h0.writePte h0
  clear_value s2
  have hu : u.Formed := h2.putMove
  clear_value u recs rets
  exact ite_formed h1 (hu.upd rfl rfl)

theorem State.Formed.storeReady {ctx : Nat} {va : Word} (h : s.Formed) : (s.storeReady ctx va).1.Formed := by
  simp only [State.storeReady]
  split
  · exact h
  · split <;> exact h.recallL1s.prepare.of_fst ‹_›

theorem State.Formed.recordLost (h : s.Formed) : s.recordLost.1.Formed :=
  h

theorem State.Formed.ringStore_getD {ctx : Nat} {va : Word} {bs : List Byte} (h : s.Formed) :
    ((s.ringStore ctx va bs).1.getD s).Formed := by
  obtain ⟨h1, _⟩ := h.ringStore (ctx := ctx) (va := va) (bs := bs)
  cases e : (s.ringStore ctx va bs).1 with
  | none => exact h
  | some t => exact h1.some e

theorem State.Formed.ringRecord {ctx : Option Nat} {ws : List Word} (h : s.Formed) : (s.ringRecord ctx ws).1.Formed := by
  unfold State.ringRecord
  split
  · exact h.recordLost
  · extract_lets nr va missed
    split
    · exact h.recordLost
    · split
      · exact h.devRead.wait ‹_›
      · exact (h.devRead.bad ‹_›).recordLost
      · have h1 := h.devRead.ok ‹_›
        extract_lets wi lost slot
        split
        · exact h1.storeReady.of_fst ‹_›
        · have h2 := h1.storeReady.of_fst ‹_›
          split
          · exact h2.storeReady.of_fst ‹_›
          · exact (h2.storeReady.of_fst ‹_›).ringStore_getD.ringStore_getD.ringStore_getD

theorem State.Formed.drainLease {n : Nat} (h : s.Formed) : (State.drainLease n s).Formed := by
  induction n generalizing s with
  | zero => exact h
  | succ n ih =>
    unfold State.drainLease
    split
    · exact h
    · split
      · exact h.ringRecord.of_fst ‹_›
      · have h1 := h.ringRecord.of_fst ‹_›
        exact ih (h1.upd rfl rfl)
    · extract_lets s1
      have h1 : s1.Formed := by
        simp only [s1]
        split
        · exact h.finishCmd
        · exact h
      exact ih (h1.upd rfl rfl)

theorem State.Formed.leaseTodos (h : s.Formed) : s.leaseTodos.Formed :=
  h.drainLease

theorem State.Formed.flushWarp {blk k : Nat} (h : s.Formed) : (s.flushWarp blk k).Formed := by
  unfold State.flushWarp
  extract_lets w s1 s2 l s3 s4 b
  have h1 : s1.Formed := ite_formed h.countCtx.dropVersion h
  have h2 : s2.Formed := ite_formed h1.countCtx.dropVersion h1
  have h3 : s3.Formed := ite_formed h2.putLaunch h2
  have h4 : s4.Formed := formed_congr rfl rfl h3
  clear_value s4
  exact h4.putBlock.vacate

theorem State.Formed.startFlush {blk : Nat} (h : s.Formed) : (s.startFlush blk).Formed := by
  simp only [State.startFlush]
  exact ite_formed h (foldl_formed (fun _ _ ht => ht.flushWarp) h).putLaunch.putBlock

theorem State.Formed.clearBars {id u : Nat} (h : s.Formed) : (s.clearBars id u).Formed :=
  h

theorem State.Formed.returnUnit {id u : Nat} (h : s.Formed) : (s.returnUnit id u).Formed := by
  simp only [State.returnUnit]
  exact ite_formed h h.putLaunch

theorem State.Formed.finishFlush {s0 : State} {blk : Nat} (h : s0.Formed) : (s0.finishFlush blk).Formed := by
  simp only [State.finishFlush]
  split
  · exact h
  · exact State.Formed.returnUnit (State.Formed.sweepCore (ite_formed (h.upd rfl rfl) (State.Formed.clearBars
        (h.upd rfl rfl))))

theorem State.Formed.stopForSave {k : Nat} (h : s.Formed) : (s.stopForSave k).Formed := by
  simp only [State.stopForSave]
  split
  · exact h
  · refine State.Formed.asWarp (fun t ht => ?_) h
    split
    · exact ite_formed ht.finishAbort ht
    · exact ite_formed ht.setW.takeTrap (ite_formed ht.takeDeferred (ite_formed ht.abortTry ht))

theorem State.Formed.drainQueues {ks : List Nat} (h : s.Formed) : (s.drainQueues ks).Formed := by
  simp only [State.drainQueues]
  refine foldl_formed (fun _ id ht => ?_) ?_
  · split
    · split
      · exact ht.performPush
      · exact ht.performPop
      · exact ht.performInit
      · exact ht.runTile
      · exact ht.runTile
      · exact ht
    · exact ht
  · exact h

theorem State.Formed.writeSave {blk : Nat} {ks : List Nat} {area : Word × Nat} (h : s.Formed) :
    (s.writeSave blk ks area).Formed := by
  simp only [State.writeSave]
  exact State.Formed.returnUnit (State.Formed.sweepCore (h.writeArea.upd rfl rfl))

theorem State.Formed.runSave {blk : Nat} (h : s.Formed) : (s.runSave blk).Formed := by
  simp only [State.runSave]
  split
  · exact (foldl_formed (fun _ _ ht => ht.stopForSave) h).drainQueues
  · split
    · split
      · exact (foldl_formed (fun _ _ ht => ht.stopForSave) h).drainQueues.startFlush
      · exact (foldl_formed (fun _ _ ht => ht.stopForSave) h).drainQueues.putBlock
    · split
      · exact (foldl_formed (fun _ _ ht => ht.stopForSave) h).drainQueues.flushL1.areaReady.of_fst ‹_›
      · split
        · exact (foldl_formed (fun _ _ ht => ht.stopForSave) h).drainQueues.flushL1.areaReady.of_fst ‹_›
        · exact ((foldl_formed (fun _ _ ht => ht.stopForSave) h).drainQueues.flushL1.areaReady.of_fst ‹_›).writeSave

theorem State.Formed.blockSave {blk : Nat} (h : s.Formed) : (s.blockSave blk).Formed := by
  simp only [State.blockSave]
  split
  · exact h.runSave
  · exact h.finishFlush
  · exact h

theorem State.Formed.beginPreempt {s0 : State} {blk : Nat} {m : PMode} {dl : Nat} (h : s0.Formed) :
    (s0.beginPreempt blk m dl).Formed := by
  simp only [State.beginPreempt]
  split
  · exact h.count.countCtx.putBlock
  · exact h.count.countCtx.startFlush.finishFlush
  · exact h.count.countCtx.putBlock.runSave

theorem State.Formed.preemptBlocks {named : Nat × Block → Bool} {dl : Nat} {force : Bool} (h : s.Formed) :
    (s.preemptBlocks named dl force).Formed := by
  simp only [State.preemptBlocks]
  exact foldl_formed (fun _ _ ht => foldl_formed (fun _ _ ht1 => ht1.beginPreempt) ht) h

end Sys2Proof.Machine
end

section
/-! The canonical form of memory is kept by the Lyre, the fabric, the start of the device, the tries and the ends of an act. -/
namespace Sys2Proof.Machine

variable {s : State}

theorem State.Formed.harpPost {rec_ : Rec8} {at_ : Nat} (h : s.Formed) : (s.harpPost rec_ at_).Formed :=
  h

theorem State.Formed.fence {reason : Nat} (h : s.Formed) : (s.fence reason).Formed := by
  simp only [State.fence]
  exact ite_formed h (h.upd rfl rfl)

theorem State.Formed.startOver (h : s.Formed) : s.startOver.Formed :=
  h

theorem State.Formed.askSource (h : s.Formed) : s.askSource.Formed := by
  simp only [State.askSource]
  split
  · exact h
  · exact ite_formed h (ite_formed h.startOver (h.upd rfl rfl))

theorem State.Formed.takeEvent {ev : Rec8} (h : s.Formed) : (s.takeEvent ev).Formed := by
  simp only [State.takeEvent]
  split
  · exact h
  · exact ite_formed h.fence (ite_formed (State.Formed.startOver (h.upd rfl rfl)) (h.upd rfl rfl))

theorem State.Formed.acceptRank {row rank : Nat} {prime : Word} (h : s.Formed) : (s.acceptRank row rank prime).Formed := by
  simp only [State.acceptRank]
  exact ite_formed h.acceptLaunch.putLaunch h.acceptLaunch

theorem State.Formed.blockRank {row : Nat} (h : s.Formed) : (s.blockRank row).Formed := by
  simp only [State.blockRank]
  exact (foldl_formed (fun _ _ ht => ht.putLaunch) h).preemptBlocks

theorem State.Formed.unblockRank {row : Nat} (h : s.Formed) : (s.unblockRank row).Formed := by
  simp only [State.unblockRank]
  exact foldl_formed (fun _ _ ht => ht.putLaunch) h

theorem State.Formed.endEarly {id : Nat} (h : s.Formed) : (s.endEarly id).Formed := by
  unfold State.endEarly
  extract_lets ks l0 s1 s2 saved s3 l
  have h1 : s1.Formed := h.putLaunch
  have h2 : s2.Formed := by
    refine foldl_formed (fun t k ht => ?_) h1
    exact State.Formed.asWarp (fun u hu => hu.halt) ht
  have h3 : s3.Formed := by
    refine foldl_formed (fun t e ht => ?_) h2
    extract_lets c t1
    have h1 : t1.Formed := by
      simp only [t1]
      split
      · exact ht.putCtx
      · exact ht
    exact h1.upd rfl rfl
  exact ite_formed h3.putLaunch h3

theorem State.Formed.readWords {ctx : Nat} {va : Word} {n : Nat} (h : s.Formed) : (s.readWords ctx va n).Formed := by
  simp only [State.readWords]
  split
  · exact h.devRead.ok ‹_›
  · exact h.devRead

theorem State.Formed.takeOver {row rank : Nat} (h : s.Formed) : (s.takeOver row rank).1.Formed := by
  simp only [State.takeOver]
  split
  · exact h
  · split
    · exact h.acceptRank
    · split
      · exact h.readWords.wait ‹_›
      · exact (h.readWords.bad ‹_›).acceptRank
      · split
        · exact (h.readWords.ok ‹_›).readWords.wait ‹_›
        · exact ((h.readWords.ok ‹_›).readWords.bad ‹_›).acceptRank
        · exact (foldl_formed (fun _ _ ht => ht.writePte) ((h.readWords.ok ‹_›).readWords.ok ‹_›)).acceptRank

theorem State.Formed.lyreTodos (h : s.Formed) : s.lyreTodos.Formed := by
  simp only [State.lyreTodos]
  refine foldl_formed (fun _ x ht => ?_) ?_
  · split
    · have hu := ht.writeWord.of_fst ‹_›
      exact hu.upd rfl rfl
    · exact ht.writeWord.of_fst ‹_›
  · refine foldl_formed (fun _ x ht => ?_) ?_
    · split
      · have hu := ht.takeOver.of_fst ‹_›
        exact hu.upd rfl rfl
      · exact ht.takeOver.of_fst ‹_›
    · exact h

theorem State.Formed.enact {time : Nat} {x : Fx} (h : s.Formed) : (s.enact time x).Formed := by
  simp only [State.enact]
  split
  · exact ite_formed (h.upd rfl rfl) h
  · exact ite_formed h (ite_formed (h.upd rfl rfl) h.acceptRank)
  · exact ite_formed h.blockRank h
  · exact ite_formed h.unblockRank h
  · exact ite_formed (foldl_formed (fun _ _ ht => ht.endEarly) h) h
  · exact h.leaseGranted
  · exact h.leaseRefused
  · exact h.leaseClosing
  · exact h.leaseFreed

theorem State.Formed.judge (h : s.Formed) : s.judge.Formed := by
  simp only [State.judge]
  refine foldl_formed (fun _ p ht => ?_) ?_
  · split
    · exact ht
    · split
      · exact ite_formed (ht.upd rfl rfl) ht.fence
      · exact ite_formed (ht.upd rfl rfl) ht
  · exact h

theorem State.Formed.comparePoint (h : s.Formed) : s.comparePoint.Formed := by
  simp only [State.comparePoint]
  exact ite_formed h (State.Formed.judge (ite_formed (h.upd rfl rfl) (h.upd rfl rfl)))

theorem State.Formed.takeReport {src seq : Nat} {dig : Word} (h : s.Formed) : (s.takeReport src seq dig).Formed := by
  simp only [State.takeReport]
  split
  · exact State.Formed.askSource (State.Formed.judge (h.upd rfl rfl))
  · exact State.Formed.judge (h.upd rfl rfl)

theorem State.Formed.reconcile (h : s.Formed) : s.reconcile.Formed := by
  simp only [State.reconcile]
  exact foldl_formed (fun _ _ ht => ite_formed ht.putMove ht) (foldl_formed (fun _ _ ht => ite_formed
      (ite_formed ht.putMove ht) ht.leaseFreed)
      (foldl_formed (fun _ _ ht => ite_formed (ite_formed ht.blockRank ht.unblockRank) ht.acceptRank)
        (foldl_formed (fun _ _ ht => ht.endEarly) h)))

theorem State.Formed.tryResume (h : s.Formed) : s.tryResume.Formed := by
  simp only [State.tryResume]
  split
  · exact State.Formed.runEvposts (formed_congr rfl rfl (State.Formed.reconcile (h.upd rfl rfl)))
  · exact h

theorem State.Formed.newLive (h : s.Formed) : s.newLive.Formed := by
  simp only [State.newLive]
  exact ite_formed h (State.Formed.rehome (h.upd rfl rfl))

theorem State.Formed.applyEvent {e : Rec8} (h : s.Formed) : (s.applyEvent e).Formed := by
  simp only [State.applyEvent]
  exact State.Formed.tryResume (State.Formed.runEvposts (State.Formed.comparePoint (State.Formed.newLive (ite_formed
      (foldl_formed (fun _ _ ht => ht.enact) (h.upd rfl rfl)) (h.upd rfl rfl)))))

theorem State.Formed.applyIf {ty : Nat → Bool} (h : s.Formed) : (s.applyIf ty).Formed := by
  simp only [State.applyIf]
  exact ite_formed h.applyEvent h

theorem State.Formed.takeSnap {src : Nat} {p : Snapshot} (h : s.Formed) : (s.takeSnap src p).Formed := by
  simp only [State.takeSnap]
  split
  · exact h
  · split
    · exact State.Formed.tryResume (State.Formed.newLive (h.upd rfl rfl))
    · exact ite_formed (h.upd rfl rfl) (State.Formed.askSource (h.upd rfl rfl))

theorem State.Formed.snapPart {src : Nat} {p : Snapshot} (h : s.Formed) : (s.snapPart src p).Formed := by
  simp only [State.snapPart]
  exact ite_formed h (ite_formed (h.upd rfl rfl) h.takeSnap)

theorem State.Formed.lyreUp (h : s.Formed) : s.lyreUp.Formed :=
  h

theorem State.Formed.putPort {q : Nat} {k : PortLink} (h : s.Formed) : (s.putPort q k).Formed :=
  h

theorem State.Formed.sendGroup {q f pseq : Nat} (h : s.Formed) : (s.sendGroup q f pseq).Formed := by
  simp only [State.sendGroup]
  exact ite_formed h.putPort h

theorem State.Formed.transmit {f pseq : Nat} (h : s.Formed) : (s.transmit f pseq).Formed :=
  h.sendGroup

theorem State.Formed.putFlow {f : Nat} {x : Flow} (h : s.Formed) : (s.putFlow f x).Formed :=
  h

theorem State.Formed.sendHeld {f : Nat} {es held : List (Nat × Nat)} (h : s.Formed) : (s.sendHeld f es held).Formed := by
  induction es generalizing s held with
  | nil => exact h.putFlow
  | cons e es ih =>
    unfold State.sendHeld
    exact ite_formed (ih h.transmit.putFlow) (ih h)

theorem State.Formed.pump {f : Nat} (h : s.Formed) : (s.pump f).Formed :=
  h.sendHeld

theorem State.Formed.sendPackets (h : s.Formed) : s.sendPackets.Formed := by
  simp only [State.sendPackets]
  split
  · exact h
  · exact foldl_formed (fun _ _ ht => foldl_formed (fun _ _ ht1 => ht1.putFlow.pump) ht) (h.upd rfl rfl)

theorem State.Formed.pumpPlane {plane : Nat} (h : s.Formed) : (s.pumpPlane plane).Formed := by
  simp only [State.pumpPlane]
  exact foldl_formed (fun _ _ ht => ht.pump) h

theorem State.Formed.resendPlane {plane : Nat} (h : s.Formed) : (s.resendPlane plane).Formed := by
  simp only [State.resendPlane]
  exact (foldl_formed (fun _ _ ht => (foldl_formed (fun _ _ ht1 => ht1.transmit) ht).putFlow) h).pumpPlane

theorem State.Formed.movePlane {plane q : Nat} (h : s.Formed) : (s.movePlane plane q).Formed := by
  simp only [State.movePlane]
  exact State.Formed.resendPlane (h.upd rfl rfl)

theorem State.Formed.movePlanes (h : s.Formed) : s.movePlanes.Formed := by
  simp only [State.movePlanes]
  refine foldl_formed (fun _ p ht => ?_) ?_
  · split
    · exact ht
    · split
      · exact ht.movePlane
      · exact ht
  · exact h

theorem State.Formed.portFail {q : Nat} (h : s.Formed) : (s.portFail q).Formed := by
  simp only [State.portFail]
  exact State.Formed.movePlanes (h.upd rfl rfl)

theorem State.Formed.portUp {q : Nat} (h : s.Formed) : (s.portUp q).Formed := by
  simp only [State.portUp]
  split
  · split
    · exact State.Formed.pumpPlane (h.upd rfl rfl)
    · exact State.Formed.movePlanes (State.Formed.pumpPlane (h.upd rfl rfl))
  · split
    · exact State.Formed.movePlane (h.upd rfl rfl)
    · exact State.Formed.movePlanes (State.Formed.movePlane (h.upd rfl rfl))

theorem State.Formed.sendAgain {f seq : Nat} (h : s.Formed) : (s.sendAgain f seq).Formed := by
  simp only [State.sendAgain]
  split
  · exact h
  · exact ite_formed h.portFail (ite_formed h h.transmit.putFlow)

theorem State.Formed.sackIn {f base cum : Nat} {map : Word} (h : s.Formed) : (s.sackIn f base cum map).Formed := by
  simp only [State.sackIn]
  exact (foldl_formed (fun _ _ ht => ht.sendAgain) h.putFlow).pump

theorem State.Formed.sackOut {f : Nat} (h : s.Formed) : (s.sackOut f).Formed := by
  simp only [State.sackOut]
  exact h.sendGroup.upd rfl rfl

theorem State.Formed.failReq {r : PeerReq} {c : MemCause} (h : s.Formed) : (s.failReq r c).Formed := by
  simp only [State.failReq]
  exact ite_formed h.dropReq.atomicAnswer (h.upd rfl rfl)

theorem State.Formed.sourceLost {dev : Nat} (h : s.Formed) : (s.sourceLost dev).Formed := by
  simp only [State.sourceLost]
  exact ite_formed (State.Formed.askSource (h.upd rfl rfl)) h

theorem State.Formed.lenderLost {dev : Nat} (h : s.Formed) : (s.lenderLost dev).Formed := by
  simp only [State.lenderLost]
  refine foldl_formed (fun _ c ht => ?_) ?_
  · split
    · exact ite_formed ht.answerLease ht
    · exact ht
  · exact h

theorem State.Formed.unreachable {f : Nat} (h : s.Formed) : (s.unreachable f).Formed := by
  simp only [State.unreachable]
  split
  · refine State.Formed.sourceLost ?_
    refine State.Formed.serveHome ?_
    refine formed_congr rfl rfl ?_
    refine foldl_formed (fun _ _ ht => ?_) ?_
    · exact ite_formed (ht.upd rfl rfl) ht
    · refine foldl_formed (fun _ _ ht => ?_) ?_
      · exact ht.failReq
      · exact h.putFlow
  · split
    · refine State.Formed.lenderLost ?_
      refine State.Formed.serveHome ?_
      refine formed_congr rfl rfl ?_
      refine foldl_formed (fun _ _ ht => ?_) ?_
      · exact ite_formed (ht.upd rfl rfl) ht
      · refine foldl_formed (fun _ _ ht => ?_) ?_
        · exact ht.failReq
        · exact h.putFlow
    · refine State.Formed.serveHome ?_
      refine formed_congr rfl rfl ?_
      refine foldl_formed (fun _ _ ht => ?_) ?_
      · exact ite_formed (ht.upd rfl rfl) ht
      · refine foldl_formed (fun _ _ ht => ?_) ?_
        · exact ht.failReq
        · exact h.putFlow

theorem State.Formed.receive {f seq : Nat} (h : s.Formed) : (s.receive f seq).Formed := by
  simp only [State.receive]
  exact ite_formed h.sackOut (ite_formed h.putFlow.sackOut h.putFlow)

theorem State.Formed.peerCleared {q : Nat} {slot : Bool} (h : s.Formed) : (s.peerCleared q slot).Formed := by
  simp only [State.peerCleared]
  exact ite_formed h h.putPort

theorem State.Formed.group {q : Nat} {slot : Bool} {seq : Nat} {tagOk : Bool} {f pseq : Nat} (h : s.Formed) :
    (s.group q slot seq tagOk f pseq).Formed := by
  simp only [State.group]
  split
  · exact h
  · split
    · split
      · exact h
      · exact ite_formed (h.upd rfl rfl) (ite_formed h.putPort.peerCleared h.putPort.receive)
    · split
      · exact h
      · exact ite_formed (h.upd rfl rfl) (ite_formed h.putPort.peerCleared h.putPort.receive)

theorem State.Formed.linkFail {k : Nat} (h : s.Formed) : (s.linkFail k).Formed := by
  simp only [State.linkFail]
  exact (foldl_formed (fun _ _ ht => ite_formed ht.logFault ht) (foldl_formed
      (fun _ _ ht => ite_formed ht.logFault ht) h)).upd rfl rfl

theorem State.Formed.functionUp {f : Function} (h : s.Formed) : (s.functionUp f).Formed := by
  simp only [State.functionUp]
  split
  · exact State.Formed.portUp (h.upd rfl rfl)
  · exact h
  · exact State.Formed.lyreUp (h.upd rfl rfl)
  · exact h

theorem State.Formed.functionDown {f : Function} (h : s.Formed) : (s.functionDown f).Formed := by
  simp only [State.functionDown]
  split
  · exact State.Formed.portFail (h.upd rfl rfl)
  · exact State.Formed.linkFail (h.upd rfl rfl)
  · exact State.Formed.zithFail (h.upd rfl rfl)
  · exact h

theorem State.Formed.closeDown (h : s.Formed) : s.closeDown.Formed := by
  simp only [State.closeDown]
  exact foldl_formed (fun _ _ ht => ite_formed ht ht.functionDown) h

theorem State.Formed.intoReset (h : s.Formed) : s.intoReset.Formed :=
  ⟨h.1, rfl⟩

theorem State.Formed.startFails {reason : BitVec 8} (h : s.Formed) : (s.startFails reason).Formed := by
  simp only [State.startFails]
  exact State.Formed.intoReset (h.upd rfl rfl)

theorem State.Formed.createCtx {id : Nat} {w0 : Word} (h : s.Formed) : (s.createCtx id w0).Formed := by
  simp only [State.createCtx]
  exact ite_formed h h.putCtx

theorem State.Formed.destroyCtx {id : Nat} (h : s.Formed) : (s.destroyCtx id).Formed := by
  simp only [State.destroyCtx]
  exact ite_formed h (ite_formed (h.upd rfl rfl) h.putCtx)

theorem State.Formed.writeCtx0 {w0 : Word} (h : s.Formed) : (s.writeCtx0 w0).Formed := by
  simp only [State.writeCtx0]
  exact ite_formed h.destroyCtx h.createCtx

theorem State.Formed.writeCtx {i : Nat} {x : Word} (h : s.Formed) : (s.writeCtx i x).Formed := by
  simp only [State.writeCtx]
  exact ite_formed h.writeCtx0 (ite_formed h.putCtx h)

theorem State.Formed.writeReg {r : MgmtReg} {x : Word} (h : s.Formed) : (s.writeReg r x).Formed := by
  simp only [State.writeReg]
  split
  · exact ite_formed (h.upd rfl rfl) h
  · exact ite_formed h (h.upd rfl rfl)
  · exact h
  · exact h
  · exact h
  · exact h
  · exact h
  · exact h
  · exact ite_formed h.putCore h
  · exact ite_formed (h.upd rfl rfl) h.dbgBusy
  · exact h
  · exact h
  · exact h
  · exact h
  · exact h.writeCtx
  · exact ite_formed (h.upd rfl rfl) h
  · exact h

theorem State.Formed.tryOverflow {d : Opnd} (h : s.Formed) : (s.tryOverflow d).Formed :=
  h.setW.advance

theorem State.Formed.openTry {d : Opnd} {k n tag : Nat} (h : s.Formed) : (s.openTry d k n tag).Formed := by
  simp only [State.openTry]
  exact State.Formed.advance (State.Formed.setW (h.upd rfl rfl))

theorem State.Formed.passWay {v task line : Nat} (h : s.Formed) : (s.passWay v task line).Formed :=
  h

theorem State.Formed.publishTry {v : Nat} {keep : Held → Bool} (h : s.Formed) : (s.publishTry v keep).Formed := by
  simp only [State.publishTry]
  split
  · exact foldl_formed (fun _ _ ht => ht.hold) (foldl_formed (fun _ _ ht => ht.passWay) h.publishSpad).noteWhole
  · exact h.publishSpad.publishMem

theorem State.Formed.commitTry {d : Opnd} (h : s.Formed) : (s.commitTry d).Formed := by
  simp only [State.commitTry]
  exact ite_formed h.abortTry h.publishTry.countCtx.dropVersion.setW.advance

theorem State.Formed.noteReady {i : Instr} (h : s.Formed) : (s.noteReady i).Formed := by
  simp only [State.noteReady]
  split <;> exact h

theorem State.Formed.clockEnd {n : Nat} (h : s.Formed) : (s.clockEnd n).Formed := by
  simp only [State.clockEnd]
  exact foldl_formed (fun _ _ ht => ite_formed ht.makeUrgent ht) (foldl_formed (fun _ _ ht => ht.putWarp)
      (h.clockBars.upd rfl rfl))

theorem State.Formed.decay {key : Nat} (h : s.Formed) : (s.decay key).Formed := by
  simp only [State.decay]
  exact ite_formed h h.putDdrSector.count.logScrub

theorem State.Formed.evictL2 {line : Nat} (h : s.Formed) : (s.evictL2 line).Formed := by
  simp only [State.evictL2]
  exact ite_formed h h.dropL2

theorem State.Formed.tlbFill {t page : Nat} (h : s.Formed) : (s.tlbFill t page).Formed := by
  simp only [State.tlbFill]
  exact ite_formed (h.upd rfl rfl) h

theorem State.Formed.tlbDrop {t page : Nat} (h : s.Formed) : (s.tlbDrop t page).Formed :=
  h

theorem State.Formed.tlbVictim {t page place : Nat} (h : s.Formed) : (s.tlbVictim t page place).Formed := by
  simp only [State.tlbVictim]
  split
  · exact h
  · exact ite_formed (h.upd rfl rfl) h

theorem State.Formed.hostWrite {ia : Nat} {data : List Byte} (h : s.Formed) : (s.hostWrite ia data).Formed := by
  simp only [State.hostWrite]
  split
  · exact h.recallL1s.prepare.of_fst ‹_›
  · exact (h.recallL1s.prepare.of_fst ‹_›).logFault
  · exact (h.recallL1s.prepare.of_fst ‹_›).writeReady

theorem State.Formed.engineUpset {id elem : Nat} {step : Bool} (h : s.Formed) : (s.engineUpset id elem step).Formed :=
  h

theorem State.Formed.settled (h : s.Formed) : s.settled.Formed := by
  simp only [State.settled]
  exact h.settle.haltDumps.settle.endLaunches.closeDown.serveHome.servePrefs.leaseTodos.lyreTodos.sendPackets

end Sys2Proof.Machine
end

section
/-! Every arm answers a next state and keeps the canonical form of memory: O5 and O6. -/
namespace Sys2Proof.Machine

/-- A trap's state among the conditions of an instruction, formed. -/
theorem State.Formed.of_snd {α : Type} {p : α × State} {t : State} {a : α} (h : p.2.Formed) (e : p = (a, t)) : t.Formed := by
  subst e; exact h

theorem firstPoison_formed {s : State} {xs : List (Option (TrapInfo × State))} (h : s.Formed) (hx : ∀ x ∈ xs, trapFormed x) :
    (firstPoison s xs).2.Formed := by
  induction xs with
  | nil => exact h
  | cons x xs ih =>
    match x with
    | none => exact ih fun y hy => hx y (List.mem_cons_of_mem _ hy)
    | some (t, s1) => exact (hx _ List.mem_cons_self).some rfl

/-- An answer that is a next state, one that is formed where `P` holds. -/
def Ends (P : Prop) (a : Answer) : Prop := ∃ t, a = .next t ∧ (P → t.Formed)

variable {s u : State}

theorem Ends.next {P : Prop} {t : State} (h : P → t.Formed) : Ends P (.next t) := ⟨t, rfl, h⟩

/-- An instruction issued: its effect keeps the form, and so does the state that a waiting one leaves, where it leaves one. -/
theorem issue_ends_sent {P : Prop} {i : Instr} {c : Checks} {eff : State → State} (hu : P → u.Formed)
    (hc : P → mayFormed c.sent) (he : ∀ t : State, t.Formed → (eff t).Formed) : Ends P (issue i u c eff) := by
  simp only [issue]
  split
  · exact .next fun h => (hu h).trapNow
  · exact .next fun h => (hu h).trapNow
  · exact .next hu
  · split
    · exact .next fun h => (hu h).debugStop
    · split
      · refine .next fun h => ?_
        have hc := hc h
        revert hc
        cases c.sent with
        | none => exact fun _ => hu h
        | some t => exact id
      · split
        · exact .next fun h => (hu h).trapNow
        · split
          · exact .next fun h => (hu h).debugStop
          · split
            · exact .next fun h => (hu h).trapNow
            · split
              · split
                · exact .next fun h => (hu h).handlerWaits.some ‹_›
                · refine .next fun h => ?_
                  exact ((hu h).upd rfl rfl : State.Formed { u with upset := 0 }).putCore.trapNow
              · exact .next fun h => he _ (hu h).issued

theorem issue_ends {P : Prop} {i : Instr} {c : Checks} {eff : State → State} (hu : P → u.Formed) (hc : c.sent = none)
    (he : ∀ t : State, t.Formed → (eff t).Formed) : Ends P (issue i u c eff) :=
  issue_ends_sent hu (fun _ => by rw [hc]; trivial) he

theorem aluFrom_ends {i : Instr} {pr : Pred} {d : Opnd} {dn : Nat} {srcs : List (Opnd × Nat)} {rd : W32} {ext : Nat → Nat}
    {f : Warp → Nat → Res} : Ends s.Formed (aluFrom i pr d dn srcs rd ext f s) := by
  unfold aluFrom
  exact issue_ends id rfl fun _ ht => ht.readPending.setW.advance

theorem alu_ends {i : Instr} {pr : Pred} {d : Opnd} {dn : Nat} {srcs : List (Opnd × Nat)} {ext : Nat → Nat}
    {f : Warp → Nat → Res} : Ends s.Formed (alu i pr d dn srcs ext f s) := aluFrom_ends

theorem tryless_ends {P : Prop} {i : Instr} {pr : Pred} {run : Answer} (hu : P → u.Formed) (hr : Ends P run) :
    Ends P (tryless i pr u run) := by
  unfold tryless
  split
  · exact issue_ends hu rfl fun _ ht => ht.abortTry
  · exact hr

theorem warpWide_ends_sent {P : Prop} {i : Instr} {pr : Pred} {ops : List (Opnd × Nat)} {cause : BitVec 8} {c : Checks}
    {eff : State → State} (hu : P → u.Formed) (hc : P → mayFormed c.sent) (he : ∀ t : State, t.Formed → (eff t).Formed) :
    Ends P (warpWide i pr ops cause u c eff) := by
  have hp (h : u.Formed) : (firstPoison u [u.consumes 3 [(.p (pr.reg.setWidth 8), 1)] u.w.exm,
      u.consumes cause ops (u.w.holds pr)]).2.Formed := by
    refine firstPoison_formed h fun x hx => ?_
    obtain rfl | rfl : x = _ ∨ x = _ := by simpa using hx
    · exact h.consumes
    · exact h.consumes
  unfold warpWide
  extract_lets h0
  split
  · next e => exact issue_ends (fun h => (hp (hu h)).of_snd e) rfl fun _ ht => ht
  · split
    · exact issue_ends hu rfl fun _ ht => ht.advance
    · exact issue_ends_sent hu hc he

theorem warpWide_ends {P : Prop} {i : Instr} {pr : Pred} {ops : List (Opnd × Nat)} {cause : BitVec 8} {c : Checks}
    {eff : State → State} (hu : P → u.Formed) (hc : c.sent = none) (he : ∀ t : State, t.Formed → (eff t).Formed) :
    Ends P (warpWide i pr ops cause u c eff) :=
  warpWide_ends_sent hu (fun _ => by rw [hc]; trivial) he

theorem State.Formed.storePoison {o : OpM} {wd : Width} {n : Nat} (h : s.Formed) : (s.storePoison o wd n).2.Formed := by
  refine firstPoison_formed h fun x hx => ?_
  obtain rfl | rfl | rfl : x = _ ∨ x = _ ∨ x = _ := by simpa using hx
  · exact h.consumes
  · exact h.consumes
  · exact h.consumes

theorem State.Formed.rmwPoison {pr : Pred} {f : RmwForm} (h : s.Formed) : (s.rmwPoison pr f).2.Formed := by
  refine firstPoison_formed h fun x hx => ?_
  obtain rfl | rfl | rfl | rfl : x = _ ∨ x = _ ∨ x = _ ∨ x = _ := by simpa using hx
  · exact h.consumes
  · exact h.consumes
  · exact h.consumes
  · split
    · exact h.consumes
    · trivial

/-- What a load or store consumes: the state in which it traps is formed. -/
theorem State.Formed.accessPoison {b : Bool} {o : OpM} {wd : Width} {n : Nat} {t : TrapInfo} (h : s.Formed)
    (e : (if b = true then (none, s) else s.storePoison o wd n) = (some t, u)) : u.Formed := by
  split at e
  · cases e
  · exact h.storePoison.of_snd e

theorem memAccess_ends {i : Instr} {o : OpM} {wd : Width} {f : Form} : Ends s.Formed (memAccess i o wd f s) := by
  unfold memAccess
  extract_lets w h0 q
  generalize e : (if f.isLoad = true then (none, s) else s.storePoison o wd 2) = p
  obtain ⟨_ | t, s1⟩ := p
  · exact issue_ends id rfl fun _ ht => ht.readPending.startAccess
  · exact issue_ends (fun h => h.accessPoison e) rfl fun _ ht => ht

theorem spadAccess_ends {i : Instr} {o : OpM} {wd : Width} {f : Form} {clus : Bool} :
    Ends s.Formed (spadAccess i o wd f clus s) := by
  unfold spadAccess
  extract_lets w h0 q accs
  generalize e : (if f.isLoad = true then (none, s) else s.storePoison o wd 1) = p
  obtain ⟨_ | t, s1⟩ := p
  · exact issue_ends id rfl fun _ ht => ht.readPending.startAccess
  · exact issue_ends (fun h => h.accessPoison e) rfl fun _ ht => ht

theorem prefetch_ends {i : Instr} {o : OpM} {l1 : Bool} : Ends s.Formed (prefetch i o l1 s) :=
  issue_ends id rfl fun _ ht => State.Formed.advance (ht.upd rfl rfl)

theorem cctl_ends {i : Instr} {o : OpM} {inv wb : Bool} : Ends s.Formed (cctl i o inv wb s) :=
  tryless_ends id (issue_ends id rfl fun _ ht => (ite_formed ht ht.readPending.pushOp).advance)

theorem rmwIssue_ends {i : Instr} {pr : Pred} {f : RmwForm} : Ends s.Formed (rmwIssue i pr f s) := by
  unfold rmwIssue
  extract_lets w h0 accs free stall
  refine tryless_ends id ?_
  generalize e : s.rmwPoison pr f = p
  obtain ⟨_ | t, s1⟩ := p
  · have hst (h : s.Formed) : mayFormed stall := by
      simp only [stall]
      split
      · trivial
      · exact h.taskStall
    exact issue_ends_sent id hst fun _ ht => ht.startRmw
  · exact issue_ends (fun h => h.rmwPoison.of_snd e) rfl fun _ ht => ht

theorem laneOp_ends {i : Instr} {o : OpO} {dn : Nat} {srcs : List (Opnd × Nat)} {f g : Warp → Nat → Res} :
    Ends s.Formed (laneOp i o dn srcs f g s) := by
  unfold laneOp
  exact issue_ends id rfl fun _ ht => ht.readPending.setW.advance

theorem tagWait_ends {i : Instr} {o : OpI} {met : Core → Word → Bool} : Ends s.Formed (tagWait i o met s) := by
  unfold tagWait
  exact tryless_ends id (warpWide_ends id rfl fun _ ht => ht.tagged.advance)

theorem engIssueThen_ends {i : Instr} {pr : Pred} {ops : List (Opnd × Nat)} {early late : List (Option TrapInfo)} {tiles : Bool}
    {plan : State → Plan} {after : State → Nat → State} (hp : s.Formed → (plan s).Formed)
    (ha : ∀ (t : State) (n : Nat), t.Formed → (after t n).Formed) :
    Ends s.Formed (engIssueThen i pr ops early late tiles plan after s) := by
  unfold engIssueThen
  extract_lets e l
  refine tryless_ends id ?_
  split
  · exact warpWide_ends id rfl fun _ ht => ht
  · split
    · exact warpWide_ends id rfl fun _ ht => ht
    · split
      · next x => exact warpWide_ends_sent id (fun h => (hp h).wait x) fun _ ht => ht
      · next x => exact warpWide_ends (fun h => (hp h).nothing x) rfl fun _ ht => ht.advance
      · exact warpWide_ends id rfl fun _ ht => ht
      · next x => exact warpWide_ends (fun h => (hp h).go x) rfl fun t ht => (ha _ _ ht.pushCmd).advance

theorem engIssue_ends {i : Instr} {pr : Pred} {ops : List (Opnd × Nat)} {early late : List (Option TrapInfo)} {tiles : Bool}
    {plan : State → Plan} (hp : s.Formed → (plan s).Formed) : Ends s.Formed (engIssue i pr ops early late tiles plan s) :=
  engIssueThen_ends hp fun _ _ ht => ht

theorem tcopy_ends {i : Instr} {o : OpO} {store : Bool} : Ends s.Formed (tcopy i o store s) :=
  engIssue_ends fun h => h.planCopy

theorem mmIssue_ends {i : Instr} {o : OpO} {opc ty a b nk : Nat} {da db : Int} :
    Ends s.Formed (mmIssue i o opc ty a b nk da db s) := by
  refine engIssue_ends fun h => ?_
  split
  · exact h
  · split
    · exact h
    · exact h

theorem accmv_ends {i : Instr} {o : OpO} {k v : Opnd} : Ends s.Formed (accmv i o k v s) := by
  refine engIssue_ends fun h => ?_
  split
  · exact h
  · exact h

theorem branchOp_ends {i : Instr} {pr : Pred} {srcs : List (Opnd × Nat)} {tgt : Warp → Nat → Word} {call : Bool} :
    Ends s.Formed (branchOp i pr srcs tgt call s) := by
  have hp (h : s.Formed) : (firstPoison s [s.consumes 3 [(.p (pr.reg.setWidth 8), 1)] s.w.exm,
      s.consumes 4 srcs (s.w.holds pr)]).2.Formed := by
    refine firstPoison_formed h fun x hx => ?_
    obtain rfl | rfl : x = _ ∨ x = _ := by simpa using hx
    · exact h.consumes
    · exact h.consumes
  unfold branchOp
  extract_lets w bad b
  have e : bad = firstPoison s [s.consumes 3 [(.p (pr.reg.setWidth 8), 1)] s.w.exm, s.consumes 4 srcs (s.w.holds pr)] := rfl
  clear_value bad
  obtain ⟨_ | t, s1⟩ := bad
  · dsimp only
    split
    · exact issue_ends id rfl fun _ ht => ht.advance
    · split
      · exact issue_ends_sent id (fun h => h.target.wait ‹_›) fun _ ht => ht
      · exact issue_ends (fun h => h.target.trap ‹_›) rfl fun _ ht => ht
      · exact issue_ends (fun h => h.target.ok ‹_›) rfl fun _ ht => ht.branchTo
  · exact issue_ends (fun h => (hp h).of_snd e.symm) rfl fun _ ht => ht

theorem fltOp_ends {i : Instr} {dbl : Bool} {o : OpO} {rm : Nat} {srcs : List Opnd} {f : Nat → List Num → Num × BitVec 8} :
    Ends s.Formed (fltOp i dbl o rm srcs f s) := by
  unfold fltOp
  exact alu_ends

theorem fminmax_ends {i : Instr} {dbl : Bool} {o : OpO} {pick : Num → Num → Bool} : Ends s.Formed (fminmax i dbl o pick s) := by
  unfold fminmax
  exact alu_ends

theorem halfOp_ends {i : Instr} {o : OpO} {srcs : List Opnd} {f : Nat → List Num → Num × BitVec 8} :
    Ends s.Formed (halfOp i o srcs f s) := by
  unfold halfOp
  exact alu_ends

theorem shfl_ends {i : Instr} {o : OpO} {mode : ShflMode} : Ends s.Formed (shfl i o mode s) := by
  unfold shfl
  exact laneOp_ends

theorem vote_ends {i : Instr} {o : OpO} {f : List Bool → Bool} : Ends s.Formed (vote i o f s) := by
  unfold vote
  exact alu_ends

theorem redux_ends {i : Instr} {o : OpO} {op : RedOp} : Ends s.Formed (redux i o op s) := by
  unfold redux
  exact alu_ends

theorem scan_ends {i : Instr} {o : OpO} {op : RedOp} : Ends s.Formed (scan i o op s) := by
  unfold scan
  exact alu_ends

theorem intOp_ends {i : Instr} {o : OpO} {f : Int → Int → Int → Int} : Ends s.Formed (intOp i o f s) := by
  unfold intOp
  exact alu_ends

theorem bitOp_ends {i : Instr} {o : OpO} {f : Nat → Nat → Nat → Nat} : Ends s.Formed (bitOp i o f s) := by
  unfold bitOp
  exact alu_ends

theorem bitOp1_ends {i : Instr} {o : OpO} {dn : Nat} {f : Nat → Nat → Nat} : Ends s.Formed (bitOp1 i o dn f s) := by
  unfold bitOp1
  exact alu_ends

theorem shiftOp_ends {i : Instr} {o : OpO} {f : Nat → Nat → Nat → Nat} : Ends s.Formed (shiftOp i o f s) := by
  unfold shiftOp
  exact alu_ends

theorem immOp_ends {i : Instr} {o : OpI} {signed withA : Bool} {f : Nat → Nat → Nat} :
    Ends s.Formed (immOp i o signed withA f s) := by
  unfold immOp
  exact alu_ends

theorem sumStep_ends {i : Instr} {o : OpO} {op : RmwOp} : Ends s.Formed (sumStep i o op s) := by
  unfold sumStep
  exact rmwIssue_ends

/-! ## The arms -/

theorem execIaddc_ends {o : OpO} : Ends s.Formed (execIaddc o s) := by
  unfold execIaddc
  exact issue_ends id rfl fun _ ht => ht.readPending.setW.advance

theorem execMxscan_ends {o : OpO} : Ends s.Formed (execMxscan o s) := by
  unfold execMxscan
  exact aluFrom_ends

theorem execRet_ends {o : OpO} : Ends s.Formed (execRet o s) := by
  simp only [execRet]
  split
  · exact issue_ends (fun h => h.consumes.some ‹_›) rfl fun _ ht => ht
  · split
    · exact issue_ends id rfl fun _ ht => ht.advance
    · split
      · exact issue_ends id rfl fun _ ht => ht
      · split
        · exact issue_ends_sent id (fun h => h.target.wait ‹_›) fun _ ht => ht
        · exact issue_ends (fun h => h.target.trap ‹_›) rfl fun _ ht => ht
        · exact issue_ends (fun h => h.target.ok ‹_›) rfl fun _ ht => ite_formed ht.abortTry ht.setW.enterAt

theorem execExit_ends {o : OpO} : Ends s.Formed (execExit o s) := by
  simp only [execExit]
  refine tryless_ends id ?_
  split
  · exact issue_ends (fun h => h.consumes.some ‹_›) rfl fun _ ht => ht
  · split
    · exact issue_ends id rfl fun _ ht => ht.advance
    · exact issue_ends id rfl fun _ ht => ht.exitLanes

theorem execNop_ends {o : OpO} : Ends s.Formed (execNop o s) := by
  unfold execNop
  exact issue_ends id rfl fun _ ht => ht.advance

theorem execHintNext_ends {o : OpO} : Ends s.Formed (execHintNext o s) := by
  unfold execHintNext
  exact issue_ends id rfl fun _ ht => ht.advance

theorem execHintFar_ends {o : OpO} : Ends s.Formed (execHintFar o s) := by
  unfold execHintFar
  exact issue_ends id rfl fun _ ht => ht.advance

theorem execHintLikely_ends {o : OpO} : Ends s.Formed (execHintLikely o s) := by
  unfold execHintLikely
  exact issue_ends id rfl fun _ ht => ht.advance

theorem execHintUnlikely_ends {o : OpO} : Ends s.Formed (execHintUnlikely o s) := by
  unfold execHintUnlikely
  exact issue_ends id rfl fun _ ht => ht.advance

theorem execPartset_ends {o : OpO} : Ends s.Formed (execPartset o s) := by
  unfold execPartset
  exact warpWide_ends id rfl fun _ ht => ht.setW.advance

theorem execExmset_ends {o : OpO} : Ends s.Formed (execExmset o s) := by
  unfold execExmset
  exact warpWide_ends id rfl fun _ ht => ht.setW.advance

theorem execBar_ends {o : OpO} : Ends s.Formed (execBar o s) := by
  simp only [execBar]
  refine tryless_ends id ?_
  split
  · exact warpWide_ends id rfl fun _ ht => ht.setW.advance
  · refine warpWide_ends (fun h => ?_) rfl (fun t ht => ht.setW.arrive)
    split
    · exact h
    · exact h.barRelease

theorem execBara_ends {o : OpO} : Ends s.Formed (execBara o s) := by
  simp only [execBara]
  refine tryless_ends id ?_
  split
  · exact warpWide_ends id rfl fun _ ht => ht.advance
  · refine warpWide_ends (fun h => ?_) rfl (fun t ht => ht.arrive.advance)
    split
    · exact h
    · exact h.barRelease

theorem execBarw_ends {o : OpO} : Ends s.Formed (execBarw o s) := by
  simp only [execBarw]
  exact tryless_ends id (warpWide_ends id rfl (fun _ ht => ite_formed ht.setW.advance ht.setW))

theorem execPoll_ends {o : OpO} : Ends s.Formed (execPoll o s) := by
  simp only [execPoll]
  exact tryless_ends id (warpWide_ends id rfl (fun _ ht => State.Formed.setW (ht.upd rfl rfl)))

theorem execYield_ends {o : OpO} : Ends s.Formed (execYield o s) := by
  unfold execYield
  exact warpWide_ends id rfl fun _ ht => ht.setW.advance

theorem execTaskget_ends {o : OpO} : Ends s.Formed (execTaskget o s) := by
  simp only [execTaskget]
  refine tryless_ends id ?_
  split
  · exact warpWide_ends id rfl fun _ ht => ht.taskResult
  · split
    · exact warpWide_ends id rfl fun _ ht => ht.taskResult
    · split
      · exact warpWide_ends id rfl fun _ ht => ht.drawTask.taskResult
      · exact warpWide_ends_sent id (fun h => ite_formed h.askFor h) fun _ ht => ht.putLaunch.taskResult

theorem execTaskdone_ends {o : OpO} : Ends s.Formed (execTaskdone o s) := by
  simp only [execTaskdone]
  refine tryless_ends id ?_
  split
  · exact warpWide_ends id rfl fun _ ht => ht.advance
  · split
    · exact warpWide_ends id rfl fun _ ht => ht.endTask.advance
    · refine warpWide_ends (fun h => ?_) rfl (fun t ht => ht.holdCommit.publishMem.countCtx.dropVersion.endTask.advance)
      refine formed_congr rfl rfl ?_
      split
      · exact h.holdCommit.releaseL1.canPublish
      · exact h.releaseL1

theorem execFence_ends {o : OpO} : Ends s.Formed (execFence o s) := by
  simp only [execFence]
  refine tryless_ends id ?_
  split
  · exact issue_ends (fun h => h.consumes.some ‹_›) rfl fun _ ht => ht
  · exact issue_ends id rfl fun _ ht => ite_formed ht.advance ht.pushOp.fences.advance

theorem execLdacq_ends {wd : Width} {o : OpM} : Ends s.Formed (execLdacq wd o s) := by
  unfold execLdacq
  exact tryless_ends id memAccess_ends

theorem execStrel_ends {wd : Width} {o : OpM} : Ends s.Formed (execStrel wd o s) := by
  unfold execStrel
  exact tryless_ends id memAccess_ends

theorem execTryOpen_ends {o : OpO} : Ends s.Formed (execTryOpen o s) := by
  simp only [execTryOpen]
  split
  · exact issue_ends (fun h => h.consumes.some ‹_›) rfl fun _ ht => ht
  · refine issue_ends id rfl (fun t ht => ?_)
    split
    · exact ht.advance
    · split
      · exact ht.abortTry
      · split
        · exact ht.tryOverflow
        · split
          · exact ht.tryOverflow
          · exact ht.openTry

theorem execCommit_ends {o : OpO} : Ends s.Formed (execCommit o s) := by
  simp only [execCommit]
  split
  · exact issue_ends (fun h => h.consumes.some ‹_›) rfl fun _ ht => ht
  · split
    · exact issue_ends id rfl fun _ ht => ht.advance
    · split
      · exact issue_ends id rfl fun _ ht => ht.setW.advance
      · refine issue_ends (fun h => ?_) rfl (fun t ht => ht.commitTry)
        split
        · exact h.releaseL1.canPublish
        · exact h.releaseL1

theorem execAbort_ends {o : OpO} : Ends s.Formed (execAbort o s) := by
  simp only [execAbort]
  split
  · exact issue_ends (fun h => h.consumes.some ‹_›) rfl fun _ ht => ht
  · exact issue_ends id rfl fun _ ht => ite_formed ht.advance ht.setW.abortTry

theorem execWait_ends {o : OpI} : Ends s.Formed (execWait o s) := by
  unfold execWait
  exact issue_ends id rfl fun _ ht => ht.advance

theorem execScopy_ends {o : OpO} : Ends s.Formed (execScopy o s) := by
  simp only [execScopy]
  refine engIssue_ends (fun h => ?_)
  refine State.Formed.withStream (fun t r ht => ?_) h
  refine State.Formed.withStream (fun t r ht1 => ?_) ht
  split
  · exact ht1
  · exact ht1.planOwn

theorem execMcast_ends {o : OpO} : Ends s.Formed (execMcast o s) := by
  unfold execMcast
  exact engIssue_ends fun h => h.planCopy

theorem execChain_ends {o : OpO} : Ends s.Formed (execChain o s) := by
  unfold execChain
  exact engIssue_ends fun h => h.planChain

theorem execQinit_ends {o : OpO} : Ends s.Formed (execQinit o s) := by
  unfold execQinit
  exact engIssue_ends id

theorem execQpush_ends {o : OpO} : Ends s.Formed (execQpush o s) := by
  unfold execQpush
  exact engIssue_ends id

theorem execQpop_ends {o : OpO} : Ends s.Formed (execQpop o s) := by
  unfold execQpop
  exact engIssue_ends id

theorem execTagff_ends {o : OpO} : Ends s.Formed (execTagff o s) := by
  simp only [execTagff]
  exact tryless_ends id (warpWide_ends id rfl (fun _ ht => (ite_formed ht.clearTags ht).setW.advance))

theorem execTagclr_ends {o : OpI} : Ends s.Formed (execTagclr o s) := by
  simp only [execTagclr]
  exact tryless_ends id (warpWide_ends id rfl (fun _ ht => ht.clearTags.advance))

theorem execAccz_ends {o : OpO} : Ends s.Formed (execAccz o s) := by
  unfold execAccz
  exact engIssue_ends id

theorem execAccst_ends {o : OpO} : Ends s.Formed (execAccst o s) := by
  unfold execAccst
  exact engIssue_ends fun h => h.planOwn

theorem execTmac_ends {o : OpO} : Ends s.Formed (execTmac o s) := by
  unfold execTmac
  exact engIssue_ends fun h => h.planTmac

theorem execTxpose_ends {o : OpO} : Ends s.Formed (execTxpose o s) := by
  simp only [execTxpose]
  refine engIssue_ends (fun h => ?_)
  split
  · exact h
  · exact h.planOwn

theorem execTrap_ends {o : OpO} : Ends s.Formed (execTrap o s) := by
  simp only [execTrap]
  exact warpWide_ends_sent id (fun h => h.handlerWaits) fun _ ht => ht.takeTrap

theorem execRtt_ends {o : OpO} : Ends s.Formed (execRtt o s) := by
  simp only [execRtt]
  split
  · exact issue_ends id rfl fun _ ht => ht.abortTry
  · split
    · exact issue_ends_sent id (fun h => h.resumeAt.wait ‹_›) fun _ ht => ht
    · exact issue_ends (fun h => h.resumeAt.trap ‹_›) rfl fun _ ht => ht
    · exact issue_ends (fun h => h.resumeAt.inside ‹_›) rfl fun _ ht => ht.setW
    · exact issue_ends (fun h => h.resumeAt.header ‹_›) rfl fun _ ht => ht.setW.fall

theorem execSrd_ends {reg : BitVec 6} {o : OpO} : Ends s.Formed (execSrd reg o s) := by
  unfold execSrd
  exact warpWide_ends id rfl fun _ ht => ht.setW.advance

theorem execSwr_ends {reg : BitVec 6} {o : OpO} : Ends s.Formed (execSwr reg o s) := by
  unfold execSwr
  extract_lets w f x c run
  have hc : c.sent = none := by
    simp only [c]
    split
    · rfl
    · split <;> rfl
  have hrun : Ends s.Formed run := warpWide_ends id hc fun _ ht => ht.writeSreg.advance
  split
  · exact tryless_ends id hrun
  · exact hrun

theorem execVbegin_ends {o : OpO} : Ends s.Formed (execVbegin o s) := by
  simp only [execVbegin]
  refine warpWide_ends id rfl (fun t ht => ?_)
  split
  · exact ht.statusNext
  · exact State.Formed.statusNext (State.Formed.setW (ht.upd rfl rfl))

theorem execVend_ends {o : OpO} : Ends s.Formed (execVend o s) := by
  simp only [execVend]
  split
  · exact warpWide_ends id rfl fun _ ht => ht.statusNext
  · refine warpWide_ends (fun h => ?_) rfl (fun t ht => ht.publishMem.countCtx.dropVersion.setW.statusNext)
    split
    · exact h.releaseL1.canPublish
    · exact h.releaseL1

theorem execBkpt_ends {o : OpO} : Ends s.Formed (execBkpt o s) := by
  simp only [execBkpt]
  exact warpWide_ends id rfl fun _ ht => ite_formed ht.advance (ite_formed ht.takeTrap ht.debugStop)

theorem execWpset_ends {o : OpO} : Ends s.Formed (execWpset o s) := by
  unfold execWpset
  exact warpWide_ends id rfl fun _ ht => ht.setW.advance

theorem execHalta_ends {o : OpO} : Ends s.Formed (execHalta o s) := by
  simp only [execHalta]
  exact warpWide_ends id rfl (fun _ ht => ite_formed ht.statusNext (foldl_formed (fun _ _ ht1 => ht1.haltTarget) ht).setW)

theorem execDumpw_ends {o : OpO} : Ends s.Formed (execDumpw o s) := by
  simp only [execDumpw]
  exact warpWide_ends id rfl (fun _ ht => (foldl_formed (fun _ _ ht1 => ht1.endDumpw) ht.setW).runDumpw)

theorem execTlbinv_ends {o : OpO} : Ends s.Formed (execTlbinv o s) := by
  unfold execTlbinv
  exact warpWide_ends id rfl fun _ ht => ht.pushOp.advance

theorem execInterest_ends {o : OpO} : Ends s.Formed (execInterest o s) := by
  simp only [execInterest]
  exact engIssueThen_ends (fun h => h.planPlain) fun t n ht => ht.countCtx.takeInterest

theorem execAnnounce_ends {o : OpO} : Ends s.Formed (execAnnounce o s) := by
  simp only [execAnnounce]
  exact engIssueThen_ends (fun h => h.planPlain) fun t n ht => ht.runAnnounce

theorem execLeasereq_ends {o : OpO} : Ends s.Formed (execLeasereq o s) := by
  simp only [execLeasereq]
  refine engIssueThen_ends (fun h => ?_) (fun t n ht => ht.sendLease)
  split
  · exact h.readRec.wait ‹_›
  · exact (h.readRec.bad ‹_›).planPlain
  · split
    · exact (h.readRec.ok ‹_›).planPlain
    · split <;> exact (h.readRec.ok ‹_›).planDest

theorem execLeaseret_ends {o : OpO} : Ends s.Formed (execLeaseret o s) := by
  simp only [execLeaseret]
  exact engIssueThen_ends (fun h => h.planPlain) fun t n ht => ite_formed ht.post ht.runDone

theorem execSigwait_ends {o : OpO} : Ends s.Formed (execSigwait o s) := by
  simp only [execSigwait]
  exact tryless_ends id (warpWide_ends id rfl (fun _ ht => State.Formed.setW (ht.upd rfl rfl)))

theorem execXfin_ends {o : OpO} : Ends s.Formed (execXfin o s) := by
  simp only [execXfin]
  exact tryless_ends id (warpWide_ends id rfl (fun _ ht => ht.setW.pushOp.advance))

theorem execEvpost_ends {o : OpO} : Ends s.Formed (execEvpost o s) := by
  simp only [execEvpost]
  refine engIssueThen_ends (fun h => ?_) (fun t n ht => ht.runEvpost)
  split
  · exact h.readRec.wait ‹_›
  · exact (h.readRec.bad ‹_›).planPlain
  · split
    · exact (h.readRec.ok ‹_›).planDest
    · exact (h.readRec.ok ‹_›).planPlain

theorem execDigest_ends {o : OpO} : Ends s.Formed (execDigest o s) := by
  unfold execDigest
  exact warpWide_ends id rfl fun _ ht => ht.setW.advance

theorem execDeferredTrap_ends {k : Nat} : Ends s.Formed (execDeferredTrap k s) := by
  simp only [execDeferredTrap]
  exact .next fun h => ite_formed (State.Formed.asWarp (fun _ ht => ht.takeDeferred) h) h

theorem execDrainDeadline_ends {blk : Nat} : Ends s.Formed (execDrainDeadline blk s) := by
  simp only [execDrainDeadline]
  refine .next fun h => ?_
  split
  · exact ite_formed h.beginPreempt h
  · exact h

theorem execTraceRow_ends {cid sub : Nat} {stages : Rec8} : Ends s.Formed (execTraceRow cid sub stages s) := by
  simp only [execTraceRow]
  refine .next fun h => ?_
  split
  · split
    · exact h
    · split
      · exact (h.offerRow.of_fst ‹_›).putCore
      · exact h.offerRow.of_fst ‹_›
  · exact h

theorem execDbgHalt_ends {cmd : Word} : Ends s.Formed (execDbgHalt cmd s) := by
  simp only [execDbgHalt]
  exact .next fun h => ite_formed h (ite_formed h.haltTarget.dbgDone h.dbgDone)

theorem execDbgResume_ends {cmd : Word} : Ends s.Formed (execDbgResume cmd s) := by
  simp only [execDbgResume]
  exact .next fun h => ite_formed h (ite_formed h.dbgDone (ite_formed h.dbgDone h.resumeWarp.dbgDone))

theorem execDbgResumePc_ends {cmd : Word} : Ends s.Formed (execDbgResumePc cmd s) := by
  simp only [execDbgResumePc]
  refine .next fun h => ?_
  split
  · exact h
  · split
    · exact h.dbgDone
    · split
      · exact h.dbgDone
      · split
        · exact h.dbgDone
        · split
          · exact (h.resumeWarp.of_fst ‹_›).dbgDone
          · exact (h.resumeWarp.of_fst ‹_›).dbgBusy

theorem execDbgHaltCtx_ends {cmd : Word} : Ends s.Formed (execDbgHaltCtx cmd s) := by
  simp only [execDbgHaltCtx]
  exact .next fun h => ite_formed h (foldl_formed (fun _ _ ht => ht.haltTarget) h).dbgDone

theorem execDbgResumeCtx_ends {cmd : Word} : Ends s.Formed (execDbgResumeCtx cmd s) := by
  simp only [execDbgResumeCtx]
  exact .next fun h => ite_formed h (foldl_formed (fun _ _ ht => ite_formed ht.resumeWarp ht) h).dbgDone

theorem execInvalidatePkt_ends {dev ia : Nat} : Ends s.Formed (execInvalidatePkt dev ia s) := by
  simp only [execInvalidatePkt]
  refine .next fun h => ?_
  refine State.Formed.ackLine ?_
  refine foldl_formed (fun _ _ ht => ?_) ?_
  · exact State.Formed.conflict (ht.upd rfl rfl)
  · exact h

theorem execKeyRotate_ends {port : Nat} : Ends s.Formed (execKeyRotate port s) := by
  simp only [execKeyRotate]
  exact .next fun h => ite_formed h (foldl_formed (fun _ _ ht => ite_formed ht.pumpPlane ht) h.putPort)

theorem execResendPkt_ends {src : Nat} {seqs : Nat × Nat} : Ends s.Formed (execResendPkt src seqs s) := by
  simp only [execResendPkt]
  exact .next fun h => ite_formed (State.Formed.fence (h.upd rfl rfl)) (h.upd rfl rfl)

theorem execMissingEventTimeout_ends : Ends s.Formed (execMissingEventTimeout s) := by
  simp only [execMissingEventTimeout]
  refine .next fun h => ?_
  split
  · exact ite_formed ((ite_formed h.startOver h).upd rfl rfl) (ite_formed h.startOver h)
  · exact ite_formed h.startOver h

theorem execSnapreq_ends {src s0 : Nat} : Ends s.Formed (execSnapreq src s0 s) := by
  simp only [execSnapreq]
  refine .next fun h => ?_
  split
  · exact h
  · exact ite_formed (h.upd rfl rfl) h

theorem execLeasenak_ends {tag : Nat} : Ends s.Formed (execLeasenak tag s) := by
  simp only [execLeasenak]
  refine .next fun h => ?_
  split
  · exact h.answerLease
  · exact h

theorem execNotifyPkt_ends {ia k : Nat} : Ends s.Formed (execNotifyPkt ia k s) := by
  simp only [execNotifyPkt]
  refine .next fun h => ?_
  split
  · split
    · split
      · exact ite_formed h.resolveSig h
      · exact h
    · exact h
  · exact h

theorem execResetRelease_ends {ed25519 mldsa65 : Bool} : Ends s.Formed (execResetRelease ed25519 mldsa65 s) := by
  simp only [execResetRelease]
  exact .next fun h => ite_formed h (ite_formed (h.upd rfl rfl) (State.Formed.startFails (h.upd rfl rfl)))

theorem execStartCheck_ends : Ends s.Formed (execStartCheck s) := by
  simp only [execStartCheck]
  exact .next fun h => ite_formed h (ite_formed (State.Formed.movePlanes (h.upd rfl rfl)) h.startFails)

theorem execFunctionEnable_ends {fn : Function} {fails : Bool} : Ends s.Formed (execFunctionEnable fn fails s) := by
  simp only [execFunctionEnable]
  exact .next fun h => ite_formed (State.Formed.functionDown (h.upd rfl rfl)) (h.upd rfl rfl)

theorem execPowerAverage_ends {watts : Nat} : Ends s.Formed (execPowerAverage watts s) := by
  simp only [execPowerAverage]
  exact .next fun h => ite_formed (ite_formed (State.Formed.count (h.upd rfl rfl)) h) (ite_formed (h.upd rfl rfl) h)

theorem exec_ends {i : Instr} : Ends s.Formed (exec i s) := by
  unfold exec
  cases i with
  | iaddI _ | movI _ | andI _ | orI _ | xorI _ | imulI _ => exact immOp_ends
  | movl _ _ => exact alu_ends
  | iadd _ | isub _ => exact intOp_ends
  | iaddc _ => exact execIaddc_ends
  | imul _ | imulh _ | imad _ | idiv _ | irem _ | imin _ | imax _ | iabs _ | ineg _ => exact intOp_ends
  | idot4 _ => exact alu_ends
  | sad _ => exact intOp_ends
  | andB _ | orB _ | xorB _ | andnB _ => exact bitOp_ends
  | notB _ => exact bitOp1_ends
  | shl _ | shr _ | sar _ | rotl _ => exact shiftOp_ends
  | fshl _ => exact alu_ends
  | popc _ | clz _ | ctz _ | brev _ => exact bitOp1_ends
  | bfx _ | bfi _ | prmt _ | icmp _ | isel _ | pset _ => exact alu_ends
  | mov _ => exact bitOp1_ends
  | lea _ => exact alu_ends
  | fadd _ _ | fsub _ _ | fmul _ _ | ffma _ _ => exact fltOp_ends
  | fmin _ _ | fmax _ _ => exact fminmax_ends
  | fcmp _ _ | fclass _ _ | frnd _ _ => exact alu_ends
  | fdiv _ _ | fsqrt _ _ | frcp _ | frsq _ | fexp2 _ | flog2 _ | fsinpi _ | fcospi _ => exact fltOp_ends
  | hadd2 _ | hmul2 _ | hfma2 _ => exact halfOp_ends
  | mxscan _ => exact execMxscan_ends
  | pack6 _ | unpk6 _ | pack4 _ | unpk4 _ => exact aluFrom_ends
  | cvt _ _ _ | cvtq _ _ _ => exact alu_ends
  | bra _ | brx _ | call _ | callx _ => exact branchOp_ends
  | ret _ => exact execRet_ends
  | exit _ => exact execExit_ends
  | nop _ => exact execNop_ends
  | hintNext _ => exact execHintNext_ends
  | hintFar _ => exact execHintFar_ends
  | hintLikely _ => exact execHintLikely_ends
  | hintUnlikely _ => exact execHintUnlikely_ends
  | ld _ _ | st _ _ => exact memAccess_ends
  | lds _ _ | sts _ _ | ldk _ _ | stk _ _ => exact spadAccess_ends
  | ldw _ _ => exact memAccess_ends
  | prefL1 _ | prefL2 _ => exact prefetch_ends
  | shflFrom _ | shflRot _ | shflShift _ | shflFlip _ => exact shfl_ends
  | voteOr _ | voteAnd _ | voteSame _ => exact vote_ends
  | voteMask _ => exact alu_ends
  | reduxAdd _ | reduxMin _ | reduxMax _ | reduxAnd _ | reduxOr _ | reduxXor _ => exact redux_ends
  | scanAdd _ | scanMin _ | scanMax _ | scanAnd _ | scanOr _ | scanXor _ => exact scan_ends
  | matchPeers _ | matchLead _ => exact laneOp_ends
  | elect _ => exact alu_ends
  | partset _ => exact execPartset_ends
  | exmget _ => exact alu_ends
  | exmset _ => exact execExmset_ends
  | bar _ => exact execBar_ends
  | bara _ => exact execBara_ends
  | barw _ => exact execBarw_ends
  | poll _ => exact execPoll_ends
  | yield _ => exact execYield_ends
  | taskget _ => exact execTaskget_ends
  | taskdone _ => exact execTaskdone_ends
  | lvlid _ _ | lvlidLane _ => exact alu_ends
  | atomAdd _ | atomMin _ | atomMax _ | atomAnd _ | atomOr _ | atomXor _ | atomExch _ | atomInc _
    | atomDec _ | atomfAdd _ | atomfMin _ | atomfMax _ | cas _ | atomsAdd _ | atomsMin _ | atomsMax _
    | atomsAnd _ | atomsOr _ | atomsXor _ | atomsExch _ | atomsInc _ | atomsDec _ | redAdd _ | redMin _
    | redMax _ | redAnd _ | redOr _ | redXor _ => exact rmwIssue_ends
  | fence _ => exact execFence_ends
  | ldacq _ _ => exact execLdacq_ends
  | strel _ _ => exact execStrel_ends
  | tryOpen _ => exact execTryOpen_ends
  | commit _ => exact execCommit_ends
  | abort _ => exact execAbort_ends
  | wait _ => exact execWait_ends
  | cctlInv _ | cctlWb _ | cctlWbinv _ => exact cctl_ends
  | tcopyLd _ | tcopySt _ => exact tcopy_ends
  | scopy _ => exact execScopy_ends
  | mcast _ => exact execMcast_ends
  | chain _ => exact execChain_ends
  | qinit _ => exact execQinit_ends
  | qpush _ => exact execQpush_ends
  | qpop _ => exact execQpop_ends
  | tagany _ | tagall _ => exact tagWait_ends
  | tagff _ => exact execTagff_ends
  | tagclr _ => exact execTagclr_ends
  | accz _ => exact execAccz_ends
  | accmvV _ | accmvA _ => exact accmv_ends
  | accst _ => exact execAccst_ends
  | tmac _ => exact execTmac_ends
  | txpose _ => exact execTxpose_ends
  | mma _ _ _ | mmloop _ _ _ => exact mmIssue_ends
  | trap _ => exact execTrap_ends
  | rtt _ => exact execRtt_ends
  | srd _ _ => exact execSrd_ends
  | swr _ _ => exact execSwr_ends
  | vbegin _ => exact execVbegin_ends
  | vend _ => exact execVend_ends
  | bkpt _ => exact execBkpt_ends
  | wpset _ => exact execWpset_ends
  | halta _ => exact execHalta_ends
  | dumpw _ => exact execDumpw_ends
  | tlbinv _ => exact execTlbinv_ends
  | interest _ => exact execInterest_ends
  | announce _ => exact execAnnounce_ends
  | leasereq _ => exact execLeasereq_ends
  | leaseret _ => exact execLeaseret_ends
  | signal _ => exact rmwIssue_ends
  | sigwait _ => exact execSigwait_ends
  | xscale _ | xsum _ => exact sumStep_ends
  | xfin _ => exact execXfin_ends
  | evpost _ => exact execEvpost_ends
  | digest _ => exact execDigest_ends
  | versionIrrevocable _ => exact .next fun h => h.makeIrrevocable
  | deferredTrap _ => exact execDeferredTrap_ends
  | loadComplete _ | storeComplete _ | atomicComplete _ => exact .next fun h => h.completeIf
  | engineCommandComplete _ => exact .next fun h => h.completeCmd
  | queuePushPerform _ => exact .next fun h => h.performPush
  | queuePopPerform _ => exact .next fun h => h.performPop
  | matrixStep _ | txposeGroup _ => exact .next fun h => h.nextUnitStep
  | l1Eviction _ _ => exact .next fun h => h.evictL1
  | launchCommand _ => exact .next fun h => h.launchCommand
  | placementAttempt => exact .next fun h => ite_formed h.readLaunches.placeFirst h.readLaunches
  | unitBlocking _ _ => exact .next fun h => ite_formed h.putLaunch h
  | resourceReport _ => exact .next fun h => ite_formed h.dieReport h
  | coreLaunchReport _ _ => exact .next fun h => h.coreReport
  | dealChunk _ => exact .next fun h => h.dealChunk
  | warpUrgent _ => exact .next fun h => h.makeUrgent
  | pollBackoffEnd _ => exact .next fun h => h.endBackoff
  | yieldTimeout _ => exact .next fun h => h.endYield
  | preemptRequest _ _ => exact .next fun h => h.preemptBlocks
  | drainDeadline _ => exact execDrainDeadline_ends
  | blockSave _ => exact .next fun h => h.blockSave
  | pinWrite _ _ => exact .next fun h => h.pinWrite
  | pinActivate _ => exact .next fun h => h.pinActivate
  | pinRelease _ => exact .next fun h => ite_formed h.unpin h
  | migrationStart _ _ _ _ => exact .next fun h => h.migStart
  | migrationChunkCopy _ _ => exact .next fun h => h.migChunk
  | migrationRelease _ _ => exact .next fun h => h.migRelease
  | scrubLine _ _ _ => exact .next fun h => h.scrubLine
  | sampleRow => exact .next fun h => ite_formed h.offerRow h
  | traceTag _ _ _ => exact .next fun h => ite_formed h.putCore h
  | traceRow _ _ _ => exact execTraceRow_ends
  | dbgHalt _ => exact execDbgHalt_ends
  | dbgResume _ => exact execDbgResume_ends
  | dbgResumePc _ => exact execDbgResumePc_ends
  | dbgHaltCtx _ => exact execDbgHaltCtx_ends
  | dbgResumeCtx _ => exact execDbgResumeCtx_ends
  | dbgRefused _ => exact .next fun h => ite_formed h h.dbgDone
  | readShared _ _ _ | readExclusive _ _ _ => exact .next fun h => h.askHome
  | writeBack _ _ _ _ _ => exact .next fun h => h.takeBack.serveHome
  | invalidatePkt _ _ => exact execInvalidatePkt_ends
  | recallPkt _ _ _ => exact .next fun h => h.recalled
  | atomicPkt _ _ => exact .next fun h => h.askHome
  | responsePkt _ _ => exact .next fun h => h.response
  | sackPkt _ _ _ _ => exact .next fun h => h.sackIn
  | sackDue _ => exact .next fun h => h.sackOut
  | packetReserved _ => exact .next fun h => ite_formed (h.upd rfl rfl) h
  | retransmitTimeout _ _ => exact .next fun h => h.sendAgain
  | peerUnreachable _ => exact .next fun h => ite_formed h h.unreachable
  | portFailure _ => exact .next fun h => ite_formed h.portFail h
  | portReady _ => exact .next fun h => ite_formed (State.Formed.portUp (h.upd rfl rfl)) h
  | flitGroup _ _ _ _ _ _ => exact .next fun h => h.group
  | linkNak _ _ => exact .next fun h => ite_formed h h.putPort
  | keyRotate _ => exact execKeyRotate_ends
  | keySlotClear _ => exact .next fun h => ite_formed (h.putPort.sendGroup.upd rfl rfl) h
  | postPkt _ _ => exact .next fun h => ite_formed h.harpPost.postAnswered h.harpPost
  | harpTick => exact .next fun h => ite_formed h.harpPost h
  | harpLoss _ => exact .next fun h => h.harpPost
  | eventPkt _ => exact .next fun h => ite_formed h.takeEvent h
  | resendPkt _ _ => exact execResendPkt_ends
  | missingEventTimeout => exact execMissingEventTimeout_ends
  | applySubmit | applyFinish | applyBlock | applyUnblock | applyFault | applyLoss | applyJoin
    | applyReserve | applyGrant | applyReclaim | applyReturn | applyDone | applyRevoke | applyTick
    | applyUser | applyReservedEvent => exact .next fun h => h.applyIf
  | reportPkt _ _ _ => exact .next fun h => ite_formed h.takeReport h
  | snapreq _ _ => exact execSnapreq_ends
  | snapPkt _ _ => exact .next fun h => ite_formed h.snapPart h
  | lyreReady => exact .next fun h => h.lyreUp
  | leasereqPacket _ _ _ _ _ _ _ => exact .next fun h => h.leaseRequest
  | leasenak _ => exact execLeasenak_ends
  | leaseFillChunk _ => exact .next fun h => h.fillChunk
  | leaseCopybackChunk _ _ => exact .next fun h => h.backChunk
  | leaseDeadline _ => exact .next fun h => ite_formed h.post h
  | interestPacket _ _ _ _ => exact .next fun h => ite_formed h.interestPacket h
  | tilePkt _ _ _ _ _ _ => exact .next fun h => ite_formed h.tileLine h
  | interestRetry _ => exact .next fun h => h.retryInterest
  | waiterExpiry _ => exact .next fun h => h.expireWaiter
  | notifyPkt _ _ => exact execNotifyPkt_ends
  | ctxCreate _ => exact .next fun h => ite_formed h.createCtx h
  | ctxDestroy _ => exact .next fun h => ite_formed h h.destroyCtx
  | keyInstall _ => exact .next fun h => ite_formed h.putCtx h
  | resetRelease _ _ => exact execResetRelease_ends
  | startCheck => exact execStartCheck_ends
  | functionReady _ => exact .next fun h => ite_formed h.functionUp h
  | functionFail _ => exact .next fun h => ite_formed h.functionDown h
  | functionDisable _ => exact .next fun h => ite_formed (State.Formed.closeDown (h.upd rfl rfl)) h
  | functionEnable _ _ => exact execFunctionEnable_ends
  | powerAverage _ => exact execPowerAverage_ends
  | thermalReset => exact .next fun h => h.intoReset
  | registerWrite _ _ => exact .next fun h => h.writeReg
  | pollAttemptResolved _ => exact .next fun h => h.resolvePoll
  | sigwaitReadResult _ => exact .next fun h => h.resolveSig

/-! ## One step -/

theorem Ends.of {P Q : Prop} {a : Answer} (h : P → Q) (e : Ends Q a) : Ends P a :=
  let ⟨t, ht, hf⟩ := e
  ⟨t, ht, fun p => hf (h p)⟩

theorem andThen_ends {P : Prop} {f : State → State} {a : Answer} (e : Ends P a) (hf : ∀ t : State, t.Formed → (f t).Formed) :
    Ends P (andThen f a) := by
  obtain ⟨t, rfl, ht⟩ := e
  exact .next fun p => hf t (ht p)

theorem runDecoded_ends {P : Prop} {x lit : Word} {f : State → Instr → Answer} (hu : P → u.Formed)
    (hf : ∀ i, Ends P (f u i)) : Ends P (u.runDecoded x lit f) := by
  unfold State.runDecoded
  extract_lets pc
  split
  · exact hf _
  · exact .next fun p => (hu p).trapNow
  · exact .next fun p => (hu p).trapNow
  · exact .next hu

section
variable {go : Issuer} (hgo : ∀ (t : State) (i : Instr), Ends t.Formed (go t i))
include hgo

theorem runWord_ends : Ends s.Formed (s.runWord go) := by
  unfold State.runWord
  extract_lets w
  split
  · exact .next fun h => h.fetchWord.wait ‹_›
  · exact .next fun h => (h.fetchWord.trap ‹_›).trapNow
  · next x s1 e =>
    have h1 (h : s.Formed) : s1.Formed := h.fetchWord.word e
    refine runDecoded_ends h1 fun i => ?_
    split
    · split
      · exact .next fun h => (h1 h).fetchWord.wait ‹_›
      · exact .next fun h => ((h1 h).fetchWord.trap ‹_›).trapNow
      · next lit s3 e3 =>
        have h3 (h : s.Formed) : s3.Formed := (h1 h).fetchWord.word e3
        exact runDecoded_ends h3 fun j => (hgo s3 j).of h3
    · exact (hgo s1 i).of h1

theorem runHead_ends : Ends s.Formed (s.runHead go) := by
  unfold State.runHead
  extract_lets w
  split
  · exact .next fun h => h.setW.takeTrap
  · split
    · exact .next fun h => h.takeDeferred
    · split
      · exact .next id
      · split
        · exact .next fun h => h.enterFall
        · exact runWord_ends hgo

theorem tryIssue_ends : Ends s.Formed (s.tryIssue go) := by
  unfold State.tryIssue
  extract_lets w
  split
  · exact .next id
  · split
    · exact .next fun h => h.rereadHeaders
    · split
      · exact runHead_ends hgo
      · split
        · exact (runHead_ends hgo).of fun h => h.freeWarp
        · exact .next id
      · split
        · exact (runHead_ends hgo).of fun h => h.freeWarp
        · exact .next id
      · exact .next fun h => ite_formed h.finishAbort h
      · exact .next fun h => h.endHalta
      · exact .next fun h => h.runDumpw
      · exact .next id

end

theorem issueNow_ends {i : Instr} : Ends s.Formed (issueNow s i) := by
  unfold issueNow
  split
  · exact exec_ends.of fun h => h.noteReady
  · exact .next id

theorem happens_ends {e : Instr} : Ends s.Formed (s.happens e) := by
  unfold State.happens
  split
  · exact exec_ends
  · exact .next id

theorem packet_ends {flow seq : Nat} {e : Instr} : Ends s.Formed (s.act (.packet flow seq e)) := by
  change Ends s.Formed (if (s.flow flow).holds seq = true then .next (s.receive flow seq) else (s.receive flow seq).happens e)
  split
  · exact .next fun h => h.receive
  · exact happens_ends.of fun h => h.receive

theorem act_ends {a : Act} : Ends s.Formed (s.act a) := by
  match a with
  | .issue k => exact (tryIssue_ends fun _ _ => issueNow_ends).of fun h => h
  | .event _ => exact happens_ends
  | .packet _ _ _ => exact packet_ends
  | .perform _ _ => exact .next fun h => h.performOp
  | .tick clocks ns =>
    refine .next fun h => ?_
    split
    · exact h
    · exact h.clockEnd.upd rfl rfl
  | .upset _ => exact .next fun h => ite_formed (h.upd rfl rfl) h
  | .engineUpset _ _ _ => exact .next fun h => h.engineUpset
  | .decay _ => exact .next fun h => h.decay
  | .stateError _ => exact .next fun h => ite_formed h.putWarp h
  | .l2Evict _ => exact .next fun h => h.evictL2
  | .tlbFill _ _ => exact .next fun h => h.tlbFill
  | .tlbDrop _ _ => exact .next fun h => h.tlbDrop
  | .tlbVictim _ _ _ => exact .next fun h => h.tlbVictim
  | .hostWrite _ _ => exact .next fun h => h.hostWrite

/-- A step answers a next state, and one that keeps the canonical form of memory. -/
theorem nextStep_ends : Ends s.Formed s.nextStep := by
  unfold State.nextStep
  split
  · exact andThen_ends (act_ends.of fun h => h) fun _ ht => ht.settled
  · exact andThen_ends (tryIssue_ends fun _ _ => issueNow_ends) fun _ ht => ht.settled.clockEnd

end Sys2Proof.Machine

namespace Sys2Proof.Proofs.Kept
open Sys2Proof Sys2Proof.Machine

/-- Settles O5, from the answer of every arm. -/
theorem stepAnswers : Obligations.StepAnswers := by
  unfold Obligations.StepAnswers
  intro s
  obtain ⟨t, ht, -⟩ := nextStep_ends (s := s)
  exact ⟨t, ht⟩

/-- Settles O6: the invariant is kept by every function of the model that answers a state. -/
theorem stepKeepsMemory : Obligations.StepKeepsMemory := by
  unfold Obligations.StepKeepsMemory
  intro s t hm hs e
  obtain ⟨u, hu, hf⟩ := nextStep_ends (s := s)
  cases hu.symm.trans e
  exact hf ⟨hm, hs⟩

end Sys2Proof.Proofs.Kept
end
